-- ==== Sys2Proof/Word.lean ====
section
/-! DEFINITION. The word types of the Hextan and their plainest arithmetic (00 R9 to R12). -/

namespace Sys2Proof

/-- A byte of memory. -/
abbrev Byte := BitVec 8
/-- A scalar register, a control register, a mask register (08 R199). -/
abbrev Word := BitVec 64
/-- A vector register read as a 2,048-bit little-endian string (14 R329); also a last-result entry of 256 bytes (08 R200). -/
abbrev VReg := BitVec 2048
/-- A 128-byte coherence line (03 R60). -/
abbrev Line := BitVec 1024
/-- A bundle of 64 bytes (12 R282); packets, job cards and records are as long. -/
abbrev Block := BitVec 512
/-- One slot of a bundle (12 R283). -/
abbrev SlotWord := BitVec 56

end Sys2Proof
end

