-- ==== Sys2Proof/Types.lean ====
section
/-! DEFINITION. The small types that instructions and events carry: operands, slots, messages. -/

namespace Sys2Proof

/-- A register operand (12 R284): a main file, an operand file, a last-result entry (index = 2 × slot + n) or a bypass
latch (slot number and stage). -/
inductive Opnd where
  | main (n : Fin 64)
  | oper (n : Fin 16)
  | last (n : Fin 16)
  | latch (slot : Fin 8) (stage : Fin 32)
  deriving DecidableEq, Repr, Inhabited

/-- The two vector slots (12 R282). -/
inductive VSlot where
  | va
  | vb
  deriving DecidableEq, Repr, Inhabited

/-- The codes with which Burin rejects a bank (12 R303); code 0 is the absence of a failure. -/
inductive SealCode where
  | reservedBit | badNt | badOpcode | badOperand | badLatch | badTag | badSelector | branchRange
  | relocUnresolved | relocRange | badHatch | badImage
  deriving DecidableEq, Repr, Inhabited

/-- The number of a seal code (12 R303). -/
def SealCode.toNat : SealCode → Nat
  | .reservedBit => 1 | .badNt => 2 | .badOpcode => 3 | .badOperand => 4 | .badLatch => 5 | .badTag => 6
  | .badSelector => 7 | .branchRange => 8 | .relocUnresolved => 9 | .relocRange => 10 | .badHatch => 11
  | .badImage => 12

/-- A die's answer to a snoop (03 R65, R66, R68). -/
inductive SnoopAns where
  /-- the die holds no copy, or has dropped it -/
  | ack
  /-- the owner held the line clean and keeps or drops it as the snoop asked -/
  | ackClean
  /-- an EvE or WbM for the line is already in flight (R68) -/
  | ackWb
  /-- the owner's data -/
  | data (d : Line)
  deriving DecidableEq, Repr, Inhabited

/-- A Finzon message: the fields of the header flit and its data bytes (04 R94). `crcOk` says whether the CRC over the
message matches and no data was lost to the FEC. -/
structure FinzonMsg where
  /-- TYPE, 8 bits -/
  typ : Nat := 0
  /-- VC bit 0: response channel -/
  resp : Bool := false
  dst : Nat := 0
  src : Nat := 0
  seq : Nat := 0
  win : Nat := 0
  stat : Nat := 0
  va : Nat := 0
  len : Nat := 0
  tag : Nat := 0
  opnd0 : Nat := 0
  opnd1 : Nat := 0
  data : List Byte := []
  crcOk : Bool := true
  deriving DecidableEq, Repr, Inhabited

/-- What the agent that takes a step of the part is handed. Each event's docstring in Syntax.lean says which fields it
reads; the others are left at their defaults. -/
structure EvArgs where
  die : Fin 4 := 0
  core : Fin 192 := 0
  ctx : Fin 4 := 0
  hall : Fin 48 := 0
  stack : Fin 12 := 0
  dctx : Fin 256 := 0
  q : Fin 16 := 0
  fn : Fin 16 := 0
  grid : Fin 256 := 0
  win : Fin 16 := 0
  port : Fin 16 := 0
  bank : Fin 2 := 0
  cls : BitVec 2 := 0
  gran : BitVec 3 := 0
  /-- an address: DPA, line number, page number, VA or register offset, as the event says -/
  addr : Nat := 0
  /-- a number that names a job, plan, record VA, request, team, agent or sequence number, as the event says -/
  id : Nat := 0
  /-- a plain number: watts, PASID or destination node, as the event says -/
  num : Nat := 0
  flag : Bool := false
  flag2 : Bool := false
  mask : BitVec 512 := 0
  data : BitVec 4096 := 0
  value : Word := 0
  bytes : List Byte := []
  ans : SnoopAns := .ack
  msg : FinzonMsg := {}
  deriving DecidableEq, Repr, Inhabited

end Sys2Proof
end

