-- ==== Sys2Proof/Config.lean ====
section
/-! DEFINITION. What one implementation fixes and the manual leaves open: opaque constants with no body, so that no proof
can see a value of them (log entries 4 and 9). -/

namespace Sys2Proof.Config

/-- A free 64-bit value for the n-th open value of a run (log entry 9). -/
opaque freeWord : Nat → BitVec 64
/-- Whether a byte string carries a valid LMS or HSS signature under the key of the given number: 0 firmware, 1 recovery
(05 R134, R140; 01 R23). The keys are outside the manual (log entry 4). -/
opaque lmsVerify : Nat → List Byte → Bool
/-- The HSS signature of 5,076 bytes over a report, made with the one-time key of the given index (05 R139). -/
opaque hssSign : Nat → List Byte → List Byte
/-- The one-time signing key of an index of the attestation tree (05 R138). -/
opaque oneTimeKey : Nat → BitVec 256
/-- The firmware version of the image at bring-up (05 FWPST.VER). -/
opaque firmwareVersion : BitVec 32
/-- SHA-256 of the firmware image, and of the attestation public key (05 R139). -/
opaque firmwareHash : BitVec 256
opaque attestationKeyHash : BitVec 256
/-- The version that a firmware image holds: the manual gives the image no format (05 R140; log entry 4). -/
opaque imageVersion : List Byte → BitVec 32
/-- Part revision and serial number (05 R139, 07 R182). -/
opaque partRevision : BitVec 8
opaque serialNumber : BitVec 64
/-- Aqnum's PCI-SIG vendor ID (05 R138). -/
opaque vendorId : BitVec 16
/-- The offset of the capability behind the mailbox's in configuration space (05 R138): the device's own. -/
opaque nextCapability : BitVec 12
/-- The order in which a firmware function is active is the firmware's own (05 R135): whether a listed function is active
at the n-th minor frame boundary. -/
opaque functionActive : Nat → Nat → Bool

/-- The source number that an alarm log entry holds for the n-th row of the table of sources (05 R136, R137): the manual gives
the rows no numbers (log entry 13). -/
opaque alarmSource : Nat → BitVec 8

/-- The choices that a planning makes where R177 leaves it free, as a function of what R180 names: the inputs, the node, and which
choice (07 R178, R180; log entry 19). -/
opaque planChoice : List Nat → Nat → Nat → Nat

end Sys2Proof.Config
end

