-- ==== Sys2Proof/Syntax.lean ====
section
/-! DEFINITION. The operations and events of the part: one constructor per row of spec/opcode_table.json. Slot instructions
carry their operands (12 R283, R289 to R295). A step of the part has no encoding; what the agent that takes it is handed
stands in the field `arg` of the state, an `EvArgs`, and the docstring names the fields it reads. -/

namespace Sys2Proof

inductive Instr where
  /-- S_ADD_REG (R312). -/
  | sAddReg (ws : Bool) (d a b : Opnd)
  /-- S_ADD_IMM (R312). -/
  | sAddImm (ws : Bool) (d a : Opnd) (imm : BitVec 14)
  /-- S_SUB (R312). -/
  | sSub (ws : Bool) (d a b : Opnd)
  /-- S_MUL_REG (R312). -/
  | sMulReg (ws : Bool) (d a b : Opnd)
  /-- S_MUL_IMM (R312). -/
  | sMulImm (ws : Bool) (d a : Opnd) (imm : BitVec 14)
  /-- S_MULH (R312). -/
  | sMulh (ws : Bool) (d a b : Opnd)
  /-- S_DIV (R312). -/
  | sDiv (ws : Bool) (d a b : Opnd)
  /-- S_REM (R312). -/
  | sRem (ws : Bool) (d a b : Opnd)
  /-- S_AND_REG (R312). -/
  | sAndReg (ws : Bool) (d a b : Opnd)
  /-- S_AND_IMM (R312). -/
  | sAndImm (ws : Bool) (d a : Opnd) (imm : BitVec 14)
  /-- S_OR_REG (R312). -/
  | sOrReg (ws : Bool) (d a b : Opnd)
  /-- S_OR_IMM (R312). -/
  | sOrImm (ws : Bool) (d a : Opnd) (imm : BitVec 14)
  /-- S_XOR_REG (R312). -/
  | sXorReg (ws : Bool) (d a b : Opnd)
  /-- S_XOR_IMM (R312). -/
  | sXorImm (ws : Bool) (d a : Opnd) (imm : BitVec 14)
  /-- S_SHL_REG (R312). -/
  | sShlReg (ws : Bool) (d a b : Opnd)
  /-- S_SHL_IMM (R312). -/
  | sShlImm (ws : Bool) (d a : Opnd) (n : BitVec 6)
  /-- S_SHR_REG (R312). -/
  | sShrReg (ws : Bool) (d a b : Opnd)
  /-- S_SHR_IMM (R312). -/
  | sShrImm (ws : Bool) (d a : Opnd) (n : BitVec 6)
  /-- S_SAR_REG (R312). -/
  | sSarReg (ws : Bool) (d a b : Opnd)
  /-- S_SAR_IMM (R312). -/
  | sSarImm (ws : Bool) (d a : Opnd) (n : BitVec 6)
  /-- S_MIN_REG (R312). -/
  | sMinReg (ws : Bool) (d a b : Opnd)
  /-- S_MIN_IMM (R312). -/
  | sMinImm (ws : Bool) (d a : Opnd) (imm : BitVec 14)
  /-- S_MAX_REG (R312). -/
  | sMaxReg (ws : Bool) (d a b : Opnd)
  /-- S_MAX_IMM (R312). -/
  | sMaxImm (ws : Bool) (d a : Opnd) (imm : BitVec 14)
  /-- S_SEL (R313). -/
  | sSel (ws : Bool) (d a b c : Opnd)
  /-- S_LI (R313). -/
  | sLi (ws : Bool) (d : Opnd) (imm : BitVec 34)
  /-- S_LIH (R313). -/
  | sLih (ws : Bool) (d : Opnd) (imm : BitVec 30)
  /-- S_ADDSC (R313). -/
  | sAddsc (ws : Bool) (d a b : Opnd) (sh : BitVec 3)
  /-- S_GETC (R315). -/
  | sGetc (ws : Bool) (d : Opnd) (n : BitVec 4)
  /-- S_SETC (R315). -/
  | sSetc (a : Opnd) (n : BitVec 4)
  /-- S_CMP_EQ_REG (R314). -/
  | sCmpEqReg (a b : Opnd)
  /-- S_CMP_NE_REG (R314). -/
  | sCmpNeReg (a b : Opnd)
  /-- S_CMP_LT_REG (R314). -/
  | sCmpLtReg (a b : Opnd)
  /-- S_CMP_LE_REG (R314). -/
  | sCmpLeReg (a b : Opnd)
  /-- S_CMP_GT_REG (R314). -/
  | sCmpGtReg (a b : Opnd)
  /-- S_CMP_GE_REG (R314). -/
  | sCmpGeReg (a b : Opnd)
  /-- S_CMP_LTU_REG (R314). -/
  | sCmpLtuReg (a b : Opnd)
  /-- S_CMP_LEU_REG (R314). -/
  | sCmpLeuReg (a b : Opnd)
  /-- S_CMP_GTU_REG (R314). -/
  | sCmpGtuReg (a b : Opnd)
  /-- S_CMP_GEU_REG (R314). -/
  | sCmpGeuReg (a b : Opnd)
  /-- S_CMP_EQ_IMM (R314). -/
  | sCmpEqImm (a : Opnd) (imm : BitVec 14)
  /-- S_CMP_NE_IMM (R314). -/
  | sCmpNeImm (a : Opnd) (imm : BitVec 14)
  /-- S_CMP_LT_IMM (R314). -/
  | sCmpLtImm (a : Opnd) (imm : BitVec 14)
  /-- S_CMP_LE_IMM (R314). -/
  | sCmpLeImm (a : Opnd) (imm : BitVec 14)
  /-- S_CMP_GT_IMM (R314). -/
  | sCmpGtImm (a : Opnd) (imm : BitVec 14)
  /-- S_CMP_GE_IMM (R314). -/
  | sCmpGeImm (a : Opnd) (imm : BitVec 14)
  /-- S_CMP_LTU_IMM (R314). -/
  | sCmpLtuImm (a : Opnd) (imm : BitVec 14)
  /-- S_CMP_LEU_IMM (R314). -/
  | sCmpLeuImm (a : Opnd) (imm : BitVec 14)
  /-- S_CMP_GTU_IMM (R314). -/
  | sCmpGtuImm (a : Opnd) (imm : BitVec 14)
  /-- S_CMP_GEU_IMM (R314). -/
  | sCmpGeuImm (a : Opnd) (imm : BitVec 14)
  /-- S_JMP (R317). -/
  | sJmp (t : BitVec 11)
  /-- S_JAL (R317). -/
  | sJal (ws : Bool) (d : Opnd) (t : BitVec 11)
  /-- S_JR (R317). -/
  | sJr (a : Opnd)
  /-- S_JBANK (R319). -/
  | sJbank (seg : BitVec 16) (x : BitVec 11)
  /-- S_LOOP_REG (R320). -/
  | sLoopReg (a : Opnd) (off : BitVec 11)
  /-- S_LOOP_IMM (R320). -/
  | sLoopImm (count : BitVec 20) (off : BitVec 11)
  /-- S_MARK (R322). -/
  | sMark (n : BitVec 7)
  /-- S_TRAP (R323). -/
  | sTrap (n : BitVec 4)
  /-- S_TRET (R324). -/
  | sTret (a : Opnd)
  /-- S_YIELD (R325). -/
  | sYield
  /-- S_HALT (R326). -/
  | sHalt
  /-- V_ADD (R333). -/
  | vAdd (sl : VSlot) (ws : Bool) (d a b : Opnd) (mk : BitVec 3) (ty : BitVec 4)
  /-- V_SUB (R333). -/
  | vSub (sl : VSlot) (ws : Bool) (d a b : Opnd) (mk : BitVec 3) (ty : BitVec 4)
  /-- V_MUL (R333). -/
  | vMul (sl : VSlot) (ws : Bool) (d a b : Opnd) (mk : BitVec 3) (ty : BitVec 4)
  /-- V_FMA (R334). -/
  | vFma (sl : VSlot) (ws : Bool) (d a b : Opnd) (mk : BitVec 3) (ty : BitVec 4)
  /-- V_MIN (R333). -/
  | vMin (sl : VSlot) (ws : Bool) (d a b : Opnd) (mk : BitVec 3) (ty : BitVec 4)
  /-- V_MAX (R333). -/
  | vMax (sl : VSlot) (ws : Bool) (d a b : Opnd) (mk : BitVec 3) (ty : BitVec 4)
  /-- V_ABS (R333). -/
  | vAbs (sl : VSlot) (ws : Bool) (d a : Opnd) (mk : BitVec 3) (ty : BitVec 4)
  /-- V_AND (R335). -/
  | vAnd (sl : VSlot) (ws : Bool) (d a b : Opnd) (mk : BitVec 3)
  /-- V_OR (R335). -/
  | vOr (sl : VSlot) (ws : Bool) (d a b : Opnd) (mk : BitVec 3)
  /-- V_XOR (R335). -/
  | vXor (sl : VSlot) (ws : Bool) (d a b : Opnd) (mk : BitVec 3)
  /-- V_SHL_VEC (R335). -/
  | vShlVec (sl : VSlot) (ws : Bool) (d a b : Opnd) (mk : BitVec 3) (ty : BitVec 4)
  /-- V_SHR_VEC (R335). -/
  | vShrVec (sl : VSlot) (ws : Bool) (d a b : Opnd) (mk : BitVec 3) (ty : BitVec 4)
  /-- V_SAR_VEC (R335). -/
  | vSarVec (sl : VSlot) (ws : Bool) (d a b : Opnd) (mk : BitVec 3) (ty : BitVec 4)
  /-- V_SHL_IMM (R335). -/
  | vShlImm (sl : VSlot) (ws : Bool) (d a : Opnd) (mk : BitVec 3) (n : BitVec 6) (ty : BitVec 4)
  /-- V_SHR_IMM (R335). -/
  | vShrImm (sl : VSlot) (ws : Bool) (d a : Opnd) (mk : BitVec 3) (n : BitVec 6) (ty : BitVec 4)
  /-- V_SAR_IMM (R335). -/
  | vSarImm (sl : VSlot) (ws : Bool) (d a : Opnd) (mk : BitVec 3) (n : BitVec 6) (ty : BitVec 4)
  /-- V_CMP_EQ (R335). -/
  | vCmpEq (sl : VSlot) (ws : Bool) (d a b : Opnd) (mk : BitVec 3) (ty : BitVec 4)
  /-- V_CMP_NE (R335). -/
  | vCmpNe (sl : VSlot) (ws : Bool) (d a b : Opnd) (mk : BitVec 3) (ty : BitVec 4)
  /-- V_CMP_LT (R335). -/
  | vCmpLt (sl : VSlot) (ws : Bool) (d a b : Opnd) (mk : BitVec 3) (ty : BitVec 4)
  /-- V_CMP_LE (R335). -/
  | vCmpLe (sl : VSlot) (ws : Bool) (d a b : Opnd) (mk : BitVec 3) (ty : BitVec 4)
  /-- V_CMP_GT (R335). -/
  | vCmpGt (sl : VSlot) (ws : Bool) (d a b : Opnd) (mk : BitVec 3) (ty : BitVec 4)
  /-- V_CMP_GE (R335). -/
  | vCmpGe (sl : VSlot) (ws : Bool) (d a b : Opnd) (mk : BitVec 3) (ty : BitVec 4)
  /-- V_ANY (R335). -/
  | vAny (sl : VSlot) (a : Opnd)
  /-- V_ALL (R335). -/
  | vAll (sl : VSlot) (a : Opnd)
  /-- V_CVT (R336). -/
  | vCvt (sl : VSlot) (ws : Bool) (d a : Opnd) (mk : BitVec 3) (rmo : BitVec 3) (src dst : BitVec 4)
  /-- V_RQ (R337). -/
  | vRq (sl : VSlot) (ws : Bool) (d a b : Opnd) (mk : BitVec 3) (dst : BitVec 4)
  /-- V_SCACC (R338). -/
  | vScacc (sl : VSlot) (ws : Bool) (d a b : Opnd) (mk : BitVec 3) (ty : BitVec 4)
  /-- V_PERM (R339). -/
  | vPerm (sl : VSlot) (ws : Bool) (d a b : Opnd) (mk : BitVec 3)
  /-- V_ROT (R339). -/
  | vRot (sl : VSlot) (ws : Bool) (d a : Opnd) (mk : BitVec 3) (n : BitVec 6)
  /-- V_BCAST (R339). -/
  | vBcast (sl : VSlot) (ws : Bool) (d a : Opnd) (mk : BitVec 3)
  /-- V_IOTA (R339). -/
  | vIota (sl : VSlot) (ws : Bool) (d : Opnd) (mk : BitVec 3) (ty : BitVec 4)
  /-- V_EXT (R339). -/
  | vExt (sl : VSlot) (ws : Bool) (d a : Opnd) (n : BitVec 6)
  /-- V_RSUM (R340). -/
  | vRsum (sl : VSlot) (ws : Bool) (d a : Opnd) (mk : BitVec 3) (ty : BitVec 4)
  /-- V_RMIN (R340). -/
  | vRmin (sl : VSlot) (ws : Bool) (d a : Opnd) (mk : BitVec 3) (ty : BitVec 4)
  /-- V_RMAX (R340). -/
  | vRmax (sl : VSlot) (ws : Bool) (d a : Opnd) (mk : BitVec 3) (ty : BitVec 4)
  /-- V_SCAN (R340). -/
  | vScan (sl : VSlot) (ws : Bool) (d a : Opnd) (mk : BitVec 3) (ty : BitVec 4)
  /-- V_RCP (R341). -/
  | vRcp (sl : VSlot) (ws : Bool) (d a : Opnd) (mk : BitVec 3)
  /-- V_RSQ (R341). -/
  | vRsq (sl : VSlot) (ws : Bool) (d a : Opnd) (mk : BitVec 3)
  /-- V_EXP2 (R341). -/
  | vExp2 (sl : VSlot) (ws : Bool) (d a : Opnd) (mk : BitVec 3)
  /-- V_LOG2 (R341). -/
  | vLog2 (sl : VSlot) (ws : Bool) (d a : Opnd) (mk : BitVec 3)
  /-- V_THRCNT (R342). -/
  | vThrcnt (sl : VSlot) (ws : Bool) (d a b : Opnd) (mk : BitVec 3) (ty : BitVec 4)
  /-- V_THRSEL (R342). -/
  | vThrsel (sl : VSlot) (ws : Bool) (d a b : Opnd) (mk : BitVec 3) (ty : BitVec 4)
  /-- V_GNORM (R343). -/
  | vGnorm (sl : VSlot) (ws : Bool) (d a b : Opnd) (mk : BitVec 3) (kx : BitVec 3)
  /-- K_AND (R345). -/
  | kAnd (sl : VSlot) (ws : Bool) (d a b : Opnd)
  /-- K_OR (R345). -/
  | kOr (sl : VSlot) (ws : Bool) (d a b : Opnd)
  /-- K_NOT (R345). -/
  | kNot (sl : VSlot) (ws : Bool) (d a : Opnd)
  /-- K_POP (R345). -/
  | kPop (sl : VSlot) (ws : Bool) (d a : Opnd)
  /-- LD_S (R350). -/
  | ldS (ws : Bool) (d a : Opnd) (sz : BitVec 2) (sx : Bool) (off : BitVec 14)
  /-- LD_S_B (R350). -/
  | ldSB (ws : Bool) (d a : Opnd) (sz : BitVec 2) (sx : Bool) (off : BitVec 14)
  /-- LD_V (R350). -/
  | ldV (ws : Bool) (d a : Opnd) (off : BitVec 14)
  /-- LD_V_B (R350). -/
  | ldVB (ws : Bool) (d a : Opnd) (off : BitVec 14)
  /-- LD_VT (R351). -/
  | ldVt (ws : Bool) (d a : Opnd) (n : BitVec 4)
  /-- LD_G (R352). -/
  | ldG (ws : Bool) (d a b : Opnd) (sz : BitVec 2)
  /-- LD_BC (R350). -/
  | ldBc (ws : Bool) (d a : Opnd) (sz : BitVec 2) (sx : Bool) (off : BitVec 14)
  /-- LD_K (R350). -/
  | ldK (ws : Bool) (d a : Opnd) (off : BitVec 14)
  /-- PF (R358). -/
  | pf (a : Opnd) (off : BitVec 14)
  /-- RES (R358). -/
  | res (a b : Opnd)
  /-- ST_S (R353). -/
  | stS (d a : Opnd) (sz : BitVec 2) (rel : Bool) (scope : BitVec 3) (off : BitVec 14)
  /-- ST_V (R353). -/
  | stV (d a : Opnd) (rel : Bool) (scope : BitVec 3) (off : BitVec 14)
  /-- ST_VT (R351). -/
  | stVt (d a : Opnd) (n : BitVec 4)
  /-- ST_SC (R353). -/
  | stSc (d a b : Opnd) (sz : BitVec 2)
  /-- AMO_ADD (R361). -/
  | amoAdd (ws : Bool) (d a : Opnd) (w8 : Bool) (ord : BitVec 2) (scope : BitVec 3) (c : Opnd)
  /-- AMO_MIN (R361). -/
  | amoMin (ws : Bool) (d a : Opnd) (w8 : Bool) (ord : BitVec 2) (scope : BitVec 3) (c : Opnd)
  /-- AMO_MAX (R361). -/
  | amoMax (ws : Bool) (d a : Opnd) (w8 : Bool) (ord : BitVec 2) (scope : BitVec 3) (c : Opnd)
  /-- AMO_AND (R361). -/
  | amoAnd (ws : Bool) (d a : Opnd) (w8 : Bool) (ord : BitVec 2) (scope : BitVec 3) (c : Opnd)
  /-- AMO_OR (R361). -/
  | amoOr (ws : Bool) (d a : Opnd) (w8 : Bool) (ord : BitVec 2) (scope : BitVec 3) (c : Opnd)
  /-- AMO_XOR (R361). -/
  | amoXor (ws : Bool) (d a : Opnd) (w8 : Bool) (ord : BitVec 2) (scope : BitVec 3) (c : Opnd)
  /-- AMO_SWAP (R361). -/
  | amoSwap (ws : Bool) (d a : Opnd) (w8 : Bool) (ord : BitVec 2) (scope : BitVec 3) (c : Opnd)
  /-- AMO_CAS (R361). -/
  | amoCas (ws : Bool) (d a : Opnd) (w8 : Bool) (ord : BitVec 2) (scope : BitVec 3) (c : Opnd)
  /-- M_ACQ (R366). -/
  | mAcq
  /-- M_REL (R366). -/
  | mRel
  /-- M_MODE (R378). -/
  | mMode (t : Bool) (mode : BitVec 2)
  /-- M_LDB (R372). -/
  | mLdb (a b : Opnd)
  /-- M_LDB_EDGE (R372). -/
  | mLdbEdge (a b : Opnd)
  /-- M_LDBX (R372). -/
  | mLdbx (a b : Opnd)
  /-- M_MMA (R373). -/
  | mMma (pair : BitVec 4) (h t : Bool) (lbl : BitVec 8) (a b : Opnd)
  /-- M_ZERO (R378). -/
  | mZero (t : Bool)
  /-- M_ZPC (R379). -/
  | mZpc (t : Bool) (lbl : BitVec 8) (a b : Opnd)
  /-- M_BIND (R381). -/
  | mBind (ws : Bool) (d a b : Opnd) (clr : Bool) (fmt : BitVec 2) (axis t : Bool)
  /-- M_DRAIN_WRAP (R382). -/
  | mDrainWrap (ws : Bool) (d a b : Opnd) (tr t : Bool) (lbl : BitVec 8)
  /-- M_DRAIN_SAT (R382). -/
  | mDrainSat (ws : Bool) (d a b : Opnd) (tr t : Bool) (lbl : BitVec 8)
  /-- M_DRAIN_RQ (R382). -/
  | mDrainRq (ws : Bool) (d a b : Opnd) (tr t : Bool) (lbl : BitVec 8)
  /-- M_DRAIN_FLT (R382). -/
  | mDrainFlt (ws : Bool) (d a b : Opnd) (tr t : Bool) (lbl : BitVec 8)
  /-- M_SPILL (R380). -/
  | mSpill (t : Bool) (lbl : BitVec 8)
  /-- M_FILL (R380). -/
  | mFill (t : Bool) (lbl : BitVec 8)
  /-- M_TOPO (R385). -/
  | mTopo (h t : Bool) (a b : Opnd)
  /-- M_WAIT (R370). -/
  | mWait (ws : Bool) (d : Opnd)
  /-- CP_COPY (R388). -/
  | cpCopy (ws : Bool) (d a : Opnd)
  /-- CP_GATH (R388). -/
  | cpGath (ws : Bool) (d a : Opnd)
  /-- CP_SCAT (R388). -/
  | cpScat (ws : Bool) (d a : Opnd)
  /-- CP_FILL (R388). -/
  | cpFill (ws : Bool) (d a : Opnd)
  /-- CP_EXPAND (R388). -/
  | cpExpand (ws : Bool) (d a : Opnd)
  /-- CP_SEAL (R388). -/
  | cpSeal (ws : Bool) (d a : Opnd)
  /-- CP_GAL (R388). -/
  | cpGal (ws : Bool) (d a : Opnd)
  /-- CP_COLL (R388). -/
  | cpColl (ws : Bool) (d a : Opnd)
  /-- CP_CKPT (R388). -/
  | cpCkpt (ws : Bool) (d a : Opnd)
  /-- CP_JOB (R388). -/
  | cpJob (ws : Bool) (d a : Opnd)
  /-- CP_CANCEL (R402). -/
  | cpCancel (a : Opnd)
  /-- CP_STAT (R401). -/
  | cpStat (ws : Bool) (d a : Opnd)
  /-- Y_POST (R403). -/
  | yPost (a : Opnd) (own : Bool) (scope : BitVec 3) (flag : BitVec 5)
  /-- Y_WAIT (R405). -/
  | yWait (a : Opnd) (scope : BitVec 3) (flag : BitVec 5)
  /-- Y_WAIT_SIG (R405). -/
  | yWaitSig (a : Opnd) (scope : BitVec 3)
  /-- Y_FENCE_ACQ (R406). -/
  | yFenceAcq (scope : BitVec 3)
  /-- Y_FENCE_REL (R406). -/
  | yFenceRel (scope : BitVec 3)
  /-- Y_FENCE_AR (R406). -/
  | yFenceAr (scope : BitVec 3)
  /-- Y_BAR (R408). -/
  | yBar (a : Opnd) (scope : BitVec 3) (bar : BitVec 8)
  /-- Y_BARW (R408). -/
  | yBarw (a : Opnd) (scope : BitVec 3) (bar : BitVec 8)
  /-- Y_WFE (R410). -/
  | yWfe (ws : Bool) (d a : Opnd)
  /-- Y_SEV (R410). -/
  | ySev (a : Opnd) (own : Bool) (ev : BitVec 8)
  /-- Y_SIG (R411). -/
  | ySig (a : Opnd) (scope : BitVec 3)
  /-- Y_SPLIT (R219). -/
  | ySplit (ws : Bool) (d : Opnd) (n : BitVec 4)
  /-- Y_SWAP (R223). -/
  | ySwap (ws : Bool) (d : Opnd) (e : BitVec 3)
  /-- Y_IFENCE (R412). -/
  | yIfence
  /-- Y_TSRINV (R237). -/
  | yTsrinv (a : Opnd)
  /-- Y_TSRINV_ALL (R237). -/
  | yTsrinvAll
  /-- Y_QSUB (R414). -/
  | yQsub (ws : Bool) (d a b : Opnd)
  /-- Y_QSUB_RE (R414). -/
  | yQsubRe (ws : Bool) (d : Opnd) (h : BitVec 8)
  /-- Y_QRUN (R415). -/
  | yQrun (a : Opnd)
  /-- Y_QWAIT (R415). -/
  | yQwait (ws : Bool) (d a : Opnd) (rel : Bool)
  /-- Y_HINT (R416). -/
  | yHint (a b : Opnd)
  /-- Y_PIN (R417). -/
  | yPin (a : Opnd) (whole : Bool) (node : BitVec 5)
  /-- Y_UNPIN (R417). -/
  | yUnpin (a : Opnd) (whole : Bool) (node : BitVec 5)
  /-- Y_PLANRD (R417). -/
  | yPlanrd (a b : Opnd)
  /-- Y_STATRD (R417). -/
  | yStatrd (a b : Opnd)
  /-- Y_STATWR (R417). -/
  | yStatwr (a b : Opnd)
  /-- Y_STATWR_INV (R188). -/
  | yStatwrInv (a b : Opnd)
  /-- Y_LEAVE (R418). -/
  | yLeave (cls : BitVec 2)
  /-- Y_LEAVE_REL (R418). -/
  | yLeaveRel (cls : BitVec 2)
  /-- COLD_RESET (R22). -/
  | coldReset
  /-- WARM_RESET (R22). -/
  | warmReset
  /-- BRINGUP_STEP_DONE (R23). Reads flag (ok). -/
  | bringupStepDone
  /-- FUNCTION_LEVEL_RESET_VF (R89). Reads fn. -/
  | functionLevelResetVf
  /-- FUNCTION_LEVEL_RESET_PF (R89). -/
  | functionLevelResetPf
  /-- D3HOT_ENTRY (R88). Reads flag (1 ms later). -/
  | d3hotEntry
  /-- D0_RETURN (R88). -/
  | d0Return
  /-- DROOP_DETECT (R21). Reads core, flag (stretch). -/
  | droopDetect
  /-- THERMAL_HOT (R33). Reads die, flag (hot). -/
  | thermalHot
  /-- CRITICAL_TRIP (R33). Reads die. -/
  | criticalTrip
  /-- TRIP_RECOVERY (R33). Reads die. -/
  | tripRecovery
  /-- GOVERNOR_TICK (R31). Reads die, num (watts). -/
  | governorTick
  /-- LIMIT_HALVE_EXCURSION (R31). Reads die. -/
  | limitHalveExcursion
  /-- LEAVE_REQUEST (R29). Reads core, ctx, cls. -/
  | leaveRequest
  /-- LEAVE_GRANT (R29). Reads die. -/
  | leaveGrant
  /-- LEAVE_AGING (R29). Reads core, ctx, or with flag die, id (job). -/
  | leaveAging
  /-- SUPPLY_GLITCH (R34). -/
  | supplyGlitch
  /-- TAMPER_MESH_BROKEN (R136). -/
  | tamperMeshBroken
  /-- DIE_LINK_FAILURE (R17). Reads die. -/
  | dieLinkFailure
  /-- GRANULE_READ (R39). Reads addr (dpa), gran, id, flag2 (it waits). -/
  | granuleRead
  /-- GRANULE_WRITE (R39). Reads addr (dpa), gran, data, id, flag2 (it waits). -/
  | granuleWrite
  /-- GRANULE_PARTIAL_WRITE (R50). Reads addr (dpa), gran, flag (et), mask, data, core, ctx, id, flag2 (it waits). -/
  | granulePartialWrite
  /-- REQUEST_RESERVING (R55). Reads stack, id. -/
  | requestReserving
  /-- PATROL_SCRUB (R52). Reads addr (dpa). -/
  | patrolScrub
  /-- RDS (R66). Reads die, addr (line). -/
  | rds
  /-- RDE (R66). Reads die, addr (line). -/
  | rde
  /-- UPG (R66). Reads die, addr (line). -/
  | upg
  /-- NCRD (R66). Reads die, addr (line). -/
  | ncrd
  /-- NCWR (R66). Reads die, addr (line), mask, data. -/
  | ncwr
  /-- MIGRD (R66). Reads addr (line). -/
  | migrd
  /-- WBM (R66). Reads die, addr (line), data. -/
  | wbm
  /-- EVE (R66). Reads die, addr (line). -/
  | eve
  /-- SNPINV (R66). Reads die, addr (line). -/
  | snpinv
  /-- SNPSHR (R66). Reads die, addr (line). -/
  | snpshr
  /-- SNPCUR (R66). Reads die, addr (line). -/
  | snpcur
  /-- BACKINV (R66). Reads die, addr (line). -/
  | backinv
  /-- SNOOP_ANSWER (R66). Reads die, addr (line), ans. -/
  | snoopAnswer
  /-- WBACK (R68). Reads die, addr (line). -/
  | wback
  /-- RETRY (R82). Reads die, addr (line). -/
  | retry
  /-- CORE_CAPACITY_TIMEOUT (R71). Reads core, ctx, addr (va), num. -/
  | coreCapacityTimeout
  /-- ENGINE_CAPACITY_TIMEOUT (R71). Reads id (job). -/
  | engineCapacityTimeout
  /-- REGR (R74). Reads id (agent), addr (line), value (VA). -/
  | regr
  /-- REGW (R74). Reads id (agent), addr (line), value (VA). -/
  | regw
  /-- DIRECTORY_SWEEP (R75). Reads stack, flag (the rest of the pass). -/
  | directorySweep
  /-- HOT_TABLE_PERIOD_END (R79). Reads stack. -/
  | hotTablePeriodEnd
  /-- MIGRATION_SWITCH (R81). Reads stack, addr (page). -/
  | migrationSwitch
  /-- MIGRATION_WINDOW_END (R83). Reads stack, addr (page). -/
  | migrationWindowEnd
  /-- ATS_INVALIDATION (R87). Reads num (pasid), addr (page), flag (looked at again). -/
  | atsInvalidation
  /-- FINZON_PORT_CHANGE (R93). Reads port, flag (up). -/
  | finzonPortChange
  /-- FINZON_PUT (R99). Reads msg, or bytes (flits). -/
  | finzonPut
  /-- FINZON_GET (R99). Reads msg, or bytes (flits). -/
  | finzonGet
  /-- FINZON_GET_DATA (R99). Reads msg, or bytes (flits). -/
  | finzonGetData
  /-- FINZON_ATOMIC (R100). Reads msg, or bytes (flits). -/
  | finzonAtomic
  /-- FINZON_ATOMIC_RESULT (R400). Reads msg, or bytes (flits). -/
  | finzonAtomicResult
  /-- FINZON_ACK (R95). Reads msg, or bytes (flits). -/
  | finzonAck
  /-- FINZON_NAK (R95). Reads msg, or bytes (flits). -/
  | finzonNak
  /-- FINZON_COLLECTIVE (R102). Reads msg, or bytes (flits). -/
  | finzonCollective
  /-- FINZON_TRANSIT (R97). Reads msg, or bytes (flits). -/
  | finzonTransit
  /-- FINZON_RESEND_TIMEOUT (R95). Reads num (dst), id (seq). -/
  | finzonResendTimeout
  /-- MINOR_FRAME (R106). Reads flag (the firmware core of die `die` has faulted), flag2 (the frame goes on behind a patch). -/
  | minorFrame
  /-- KERNEL (R117). Reads dctx, q. -/
  | kernel
  /-- BARRIER_AND (R122). Reads dctx, q. -/
  | barrierAnd
  /-- BARRIER_OR (R122). Reads dctx, q. -/
  | barrierOr
  /-- COPY (R118). Reads dctx, q. -/
  | copy
  /-- SIGNAL (R118). Reads dctx, q. -/
  | signal
  /-- PLAN (R193). Reads dctx, q. -/
  | plan
  /-- GRID_COMPLETE (R428). Reads grid. -/
  | gridComplete
  /-- QUEUE_ENABLE (R110). Reads dctx, q. -/
  | queueEnable
  /-- QUEUE_DISABLE (R110). Reads dctx, q. -/
  | queueDisable
  /-- QUEUE_RESET (R125). Reads dctx, q. -/
  | queueReset
  /-- HOST_WINDOW_WRITE (R127). Reads dctx, win, addr (off), bytes, id (place of a held write). -/
  | hostWindowWrite
  /-- LANDING_TIMEOUT (R128). Reads dctx. -/
  | landingTimeout
  /-- NWAKE (R130). Reads fn, addr (offset in BAR2), bytes, id (place of a held write). -/
  | nwake
  /-- FWPATCH_GO (R135). -/
  | fwpatchGo
  /-- FWPATCH_CANCEL (R135). -/
  | fwpatchCancel
  /-- PATCH_APPLY (R135). -/
  | patchApply
  /-- ATT_OPEN (R138). -/
  | attOpen
  /-- ATT_QUOTE (R138). -/
  | attQuote
  /-- ATT_CLOSE (R138). -/
  | attClose
  /-- REC_BEGIN (R138). -/
  | recBegin
  /-- REC_PIECE (R138). -/
  | recPiece
  /-- REC_END (R140). -/
  | recEnd
  /-- MBCMD_RESERVED (R138). -/
  | mbcmdReserved
  /-- TLBI_GO (R237). -/
  | tlbiGo
  /-- SAVE (R166). Reads flag. -/
  | save
  /-- RESTORE (R169). -/
  | restore
  /-- RESUME (R165). -/
  | resume
  /-- REGISTER_WRITE (R14). Reads fn, addr (off), value, flag (a mailbox register of configuration space), id (place of a held write). -/
  | registerWrite
  /-- TEAM_PLACEMENT (R145). Reads grid, id (team), flag. -/
  | teamPlacement
  /-- CONTEXT_SWITCH (R148). Reads core. -/
  | contextSwitch
  /-- CONTEXT_TAKE_RECORD (R149, R150). Reads core, ctx, flag. -/
  | contextTakeRecord
  /-- EVICTION (R150). Reads core. -/
  | eviction
  /-- WAIT_SATISFIED (R142). Reads id (record VA, 0 = every waiting record) and num (its grid). -/
  | waitSatisfied
  /-- SIGNAL_WAIT_REPOLL (R142). Reads hall. -/
  | signalWaitRepoll
  /-- BALANCE_EXCHANGE (R159). Reads die. -/
  | balanceExchange
  /-- QUANTUM_BOUNDARY (R161). Reads grid, id (team), flag. -/
  | quantumBoundary
  /-- REPLAY_READY (R214). Reads core, ctx, id (record VA), num (grid). -/
  | replayReady
  /-- BUNDLE_ISSUE (R194). Reads core. -/
  | bundleIssue
  /-- RESULT_WRITEBACK (R195). -/
  | resultWriteback
  /-- INTERLOCK_ARRIVAL (R197). Reads core, ctx. -/
  | interlockArrival
  /-- SPLIT_DRAIN_END (R219). Reads core. -/
  | splitDrainEnd
  /-- JOB_CARD_ENTRY (R155). Reads id (job). -/
  | jobCardEntry
  /-- JOB_DISPATCH (R157). Reads hall, or with flag id (the job). -/
  | jobDispatch
  /-- ENGINE_COPY (R392). Reads id (job). -/
  | engineCopy
  /-- ENGINE_GATHER (R393). Reads id (job). -/
  | engineGather
  /-- ENGINE_SCATTER (R393). Reads id (job). -/
  | engineScatter
  /-- ENGINE_FILL (R394). Reads id (job). -/
  | engineFill
  /-- ENGINE_EXPAND (R395). Reads id (job). -/
  | engineExpand
  /-- ENGINE_SEAL (R395). Reads id (job). -/
  | engineSeal
  /-- ENGINE_GALLERY_LOAD (R396). Reads id (job). -/
  | engineGalleryLoad
  /-- ENGINE_COLLECTIVE (R397). Reads id (job). -/
  | engineCollective
  /-- ENGINE_CHECKPOINT (R398). Reads id (job). -/
  | engineCheckpoint
  /-- ENGINE_RESTORE (R398). Reads id (job). -/
  | engineRestore
  /-- ENGINE_REMOTE_ATOMIC (R400). Reads id (job). -/
  | engineRemoteAtomic
  /-- PLANNED_MATRIX_WORK (R192). Reads id (job). -/
  | plannedMatrixWork
  /-- JOB_COMPLETE (R154). Reads id (job). -/
  | jobComplete
  /-- SEAL_COMPLETE (R304). Reads core, bank, grid, flag (a job did it). -/
  | sealComplete
  /-- MATRIX_COMMAND_COMPLETE (R369). Reads core. -/
  | matrixCommandComplete
  /-- PLANNING_END (R181). Reads die. -/
  | planningEnd
  /-- PLAN_BREAK (R184). Reads id (plan). -/
  | planBreak
  /-- PLAN_COMPLETE (R181). Reads id (plan). -/
  | planComplete
  /-- DATA_TO_REQUESTER (R66). Reads die, addr (line), flag (excl). -/
  | dataToRequester
  /-- REGISTRATION_ANSWER (R73). Reads id (agent), addr (line), flag (write), flag2 (ok), value (VA). -/
  | registrationAnswer
  /-- DIE_LINK_RETRY (R90). Reads die. -/
  | dieLinkRetry
  /-- FINZON_RESERVED_TYPE (R94). Reads msg, or bytes (flits). -/
  | finzonReservedType
  /-- HOST_LINK_TRAINING (R85). Reads flag (flit). -/
  | hostLinkTraining
  deriving DecidableEq, Repr

end Sys2Proof
end

