-- ==== Sys2Proof/Machine/State.lean ====
section
/-! DEFINITION. The state of one AQ-HX4192: plain data, everything the manual gives the part. -/

namespace Sys2Proof.Machine

/-- Bytes of a memory as address and byte pairs, addresses rising, no entry equal to the byte an unlisted address reads
as, which is zero (01 R23, R24; log entry 1). -/
abbrev Memory := List Host.Cell

/-- A sparse table: keys rising, no entry equal to the table's default. -/
abbrev Table (α : Type) := List (Nat × α)

/-! ## Reasons to stop -/

/-- Why the machine stops with a fault. -/
inductive Fault where
  /-- Raised by the controller steps (GRANULE_READ, GRANULE_WRITE, GRANULE_PARTIAL_WRITE, PATROL_SCRUB) handed an address
  in stack 12 to 15, which does not exist (02 R36). Safe: the hardware has no such access to go on from. -/
  | noSuchAddress (dpa : Nat)
  deriving DecidableEq, Repr

/-- Why an instruction has no meaning. -/
inductive Refusal where
  /-- Raised by an arm of the dispatch that has no meaning yet. Safe: nothing is claimed of it. -/
  | notModelled (mnemonic : String)
  deriving DecidableEq, Repr

/-! ## Thread contexts (08) -/

/-- Where a result goes (08 R195, R215). -/
inductive Dest where
  | nowhere
  | s (o : Opnd)
  | v (o : Opnd)
  | k (o : Opnd)
  /-- a push onto the condition queue -/
  | cq
  deriving DecidableEq, Repr

/-- The degenerate-group report of a `v.gnorm` in flight (14 R343, R344): the mask that receives it and its bits. -/
structure Degen where
  kx : Nat
  bits : Nat
  deriving DecidableEq, Repr

/-- A fixed-latency result in flight (08 R195, R210). `left` is the number of issue cycles to its write-back; `wmask`
selects the bits of a vector destination that it writes (14 R331). -/
structure InFlight where
  slot : Nat
  lat : Nat
  left : Nat
  dest : Dest
  ws : Bool
  data : VReg
  wmask : VReg
  degen : Option Degen
  deriving DecidableEq, Repr

/-- What a bypass latch can still name (08 R201): a result of `slot`, issued `age` issue cycles ago, of latency `lat`. -/
structure Latch where
  slot : Nat
  age : Nat
  lat : Nat
  data : VReg
  deriving DecidableEq, Repr

/-- An interlocked result in flight (08 R197, R198): long load, `amo.` old value, or matrix, copy or sync result.
`data` is none until the unit that produces it has done so. -/
structure LongResult where
  id : Nat
  slot : Nat
  dest : Dest
  ws : Bool
  data : Option VReg
  /-- the data arrived poisoned from an ET = 0 page (02 R51) -/
  poison : Bool
  /-- an `amo.` or `cp.`/`y.`/`m.` result rather than a load -/
  load : Bool
  /-- address, for the deferred trap's frame (08 R211) -/
  va : Nat
  /-- the slot's encoding, bits 55:0 (08 R215) -/
  word : SlotWord
  /-- of `ld.g` the lane addresses, of `ld.vt` the tensor id and coordinates: what a reissue accesses again (08 R211) -/
  args : List Nat := []
  deriving DecidableEq, Repr

/-- A hardware loop (08 R205). -/
structure Loop where
  start : Nat
  stop : Nat
  count : Nat
  deriving DecidableEq, Repr

/-- The condition of a pending wait (17 R404, R405, R408, R410, R415; 06 R142). -/
inductive WaitCond where
  | flag (f : Nat) (count : Nat) (scope : Nat)
  | signal (index : Nat) (scope : Nat)
  | event (mask : Nat)
  | plan (h : Nat) (rel : Bool)
  deriving DecidableEq, Repr

/-- A pending wait (17 R443). -/
structure PendingWait where
  cond : WaitCond
  dest : Dest
  ws : Bool
  word : SlotWord
  /-- SP was set: the context stops (R404) -/
  stops : Bool
  deriving DecidableEq, Repr

/-- A recorded asynchronous or deferred cause (08 R211). -/
structure AsyncCause where
  age : Nat
  cause : Nat
  info : Nat
  deriving DecidableEq, Repr

/-- What a thread context is doing (06 R148, R142). -/
inductive CtxPhase where
  | free
  | ready
  | running
  | waiting
  deriving DecidableEq, Repr

/-- Why the bundle at issue cannot issue yet (08 R196). -/
inductive Stall where
  | interlock | registration | leave | resource | drain | bank | footprint | wait | bubble | capacity | engine
  deriving DecidableEq, Repr

/-- The thread that holds the engine repeats its last B load on resumption (16 R367). -/
structure BSource where
  kind : Nat
  shape : Nat
  aval : Nat
  deriving DecidableEq, Repr

/-- A park or forward that waits for the interlocked results of the context (08 R214, R215): the action table entry, the
cause and INFO. -/
structure Leaving where
  entry : Nat
  cause : Nat
  info : Nat
  deriving DecidableEq, Repr

/-- One thread context (08 R199). -/
structure Ctx where
  phase : CtxPhase
  /-- VA of the record it runs (06 R141) -/
  recVa : Nat
  s : Vector Word 64
  v : Vector VReg 64
  k : Vector Word 8
  os : Vector Word 16
  ov : Vector VReg 16
  /-- last-result file, entry 2 × slot + n (08 R200) -/
  last : Vector VReg 16
  latches : List Latch
  cq : List Bool
  loops : List Loop
  pipe : List InFlight
  long : List LongResult
  /-- fetch point: segment and bundle index (06 R141) -/
  seg : Nat
  bix : Nat
  /-- `s.mark` in force: pinned bundles (13 R322) -/
  mark : Option (Nat × Nat)
  /-- SW.CAUSE, RM, FTZ (08 R208); HM is the record's THREAD = 8,191; LDP and CQN are computed -/
  cause : BitVec 6
  hm : Bool
  rm : BitVec 3
  ftz : Bool
  atb : Word
  rpln : BitVec 4
  leaveStall : BitVec 48
  subst : BitVec 48
  gateDegen : BitVec 48
  evl : BitVec 16
  hp : BitVec 11
  icnt : Word
  wait : Option PendingWait
  /-- a long load to reissue on resumption (08 R211) -/
  deferred : Option LongResult
  /-- further loads that arrived poisoned before that one was reissued -/
  deferredRest : List LongResult
  async : List AsyncCause
  /-- replay count, with the cause and bundle it counts (08 R214) -/
  replays : Nat
  replayCause : Nat
  replayBix : Nat
  /-- frozen by a replay until this tick (08 R214) -/
  replayAt : Option Nat
  stall : Option Stall
  /-- cycles that the access at issue has stalled for room in a directory set (03 R71) -/
  capCycles : Nat
  /-- lines registered in the open region, oldest first (03 R73) -/
  filter : List (Nat × Bool)
  /-- leave reservation: class, and whether suspended (17 R418, 01 R30) -/
  reserve : Option (BitVec 2 × Bool)
  /-- a grant obtained for the operation at issue (01 R29) -/
  grant : Option (BitVec 2)
  issuedSince : Nat
  readySince : Nat
  waitSince : Nat
  /-- matrix status bits accumulated since the last `m.wait` or `m.acq` (16 R369) -/
  mstat : BitVec 7
  /-- the engine must be taken again before the next issue (16 R367) -/
  reacquire : Option BSource
  /-- a leave reservation to request again (17 R418) -/
  rereserve : Option (BitVec 2)
  /-- a copy operation that has issued behind a matrix operation of its bundle and waits for its grant: its job (01 R30) -/
  copyWait : Option Nat
  leaving : Option Leaving
  /-- the record has stopped at a pre-emption and waits for its results (06 R164) -/
  stopping : Bool
  /-- `s.halt` has issued and the context waits for its results (13 R326) -/
  halting : Bool
  deriving DecidableEq, Repr

/-! ## Cores (09, 16) -/

/-- An L1 line (09 R220): DPA line number, W bit of the translation, the sectors it holds, the 128 bytes. -/
structure L1Line where
  line : Nat
  w : Bool
  valid : BitVec 4
  data : Line
  deriving DecidableEq, Repr

/-- On whose behalf a segment is loaded, which says what a rejection does (12 R304). -/
inductive LoadFor where
  /-- launch, swap-in or restore of a grid -/
  | grid (g : Nat)
  /-- an OB bundle of the record at this VA of this grid -/
  | overlay (g va : Nat)
  /-- a fetch from a bank that does not hold the segment (09 R228) -/
  | fetch
  deriving DecidableEq, Repr

/-- The contents of an instruction bank (09 R228, 12 R301 to R304). -/
structure Bank where
  /-- a segment has been expanded here -/
  loaded : Bool
  dctx : Nat
  table : Nat
  seg : Nat
  nb : Nat
  nh : Nat
  next : Nat
  nseg : Nat
  isSealed : Bool
  /-- an expansion or seal of the segment is queued or in flight (12 R305) -/
  loading : Option LoadFor
  /-- the first failure the expansion or seal recorded, with RIX and IX (12 R303, R304) -/
  failure : Option (SealCode × Nat × Nat)
  /-- loads that the image engine has queued for the bank behind the one in flight: grid, segment, on whose behalf (12 R301, R306) -/
  queue : List (Nat × Nat × LoadFor)
  /-- the loads that count for a thread's `y.ifence`, since its OB bundle started or found them: record VA, grid, segment (12 R306) -/
  watch : List (Nat × Nat × Nat)
  deriving DecidableEq, Repr

/-- An accumulator entry: value, tag and poison mark (11 R264, 09 R227). -/
structure Entry where
  val : BitVec 128
  tag : BitVec 4
  poison : Bool
  deriving DecidableEq, Repr

/-- A slot of the label map (11 R273). -/
structure LabelSlot where
  valid : Bool
  label : BitVec 8
  age : Nat
  ur : Nat
  uc : Nat
  deriving DecidableEq, Repr

/-- An accumulator tile (09 R226, 11 R264, R265). `entries` is keyed by 16,384 × slot + 256 × row + column. -/
structure Tile where
  owner : Option (Nat × Nat)
  mode : BitVec 2
  entries : Table Entry
  rowSum : Vector (BitVec 48) 64
  colSum : Vector (BitVec 48) 256
  kcount : BitVec 32
  ov : Bool
  sat : Bool
  slots : Vector LabelSlot 8
  /-- SRAM words whose read is corrected, and side-state words whose read is uncorrectable (09 R227): an entry by its key, side-state
  word `w` by 131,072 + w, where words 0 to 63 are the row sums, 64 to 319 the column sums and 320 K -/
  soft : List Nat
  sideBad : List Nat
  deriving DecidableEq, Repr

/-- Who holds the matrix engine (16 R365). -/
inductive Holder where
  | nobody
  | ctx (c : Fin 4)
  | planned (job : Nat)
  deriving DecidableEq, Repr

/-- Where bytes of the near store, the gallery or memory lie. -/
inductive Spot where
  | spad (off : Nat)
  | gal (off : Nat)
  | mem (dpa : Nat)
  deriving DecidableEq, Repr

/-- Bytes that a matrix command reads or writes (16 R368): where they lie, their VA, and their number. -/
structure MatUse where
  write : Bool
  spot : Spot
  va : Nat
  len : Nat
  deriving DecidableEq, Repr

/-- Where one address lands: its DPA, the attributes of the entry that gave it, and that entry's own DPA and page size. -/
structure Place where
  dpa : Nat
  gran : Nat
  c : Bool
  et : Bool
  rc : Bool
  mg : Bool
  w : Bool
  entry : Nat
  size : Nat
  deriving DecidableEq, Repr

/-- A run of bytes in one place: virtual address, place, length, and its offset in the access. -/
structure Seg where
  va : Nat
  place : Place
  off : Nat
  len : Nat
  deriving DecidableEq, Repr

/-- A queued matrix command (16 R365, R369): the operation, its operand values, the hatch words it took, the parameter bytes
it read at issue with the status bits of that read, and the interlocked result it owes. -/
structure MatCmd where
  ctx : Fin 4
  op : Instr
  aval : Nat
  bval : Nat
  hatch : List (BitVec 128)
  params : List Byte
  bits : Nat
  result : Option Nat
  /-- leave class held until it completes (01 R29) -/
  grant : Option (BitVec 2)
  uses : List MatUse
  /-- the translations of its accesses, made at issue: VA, length and pieces (09 R237, 16 R368) -/
  routes : List (Nat × Nat × List Seg)
  deriving DecidableEq, Repr

/-- The matrix engine (16 R365). `b` is keyed by 512 × n + k and holds raw elements. -/
structure Engine where
  holder : Holder
  b : Table (BitVec 32)
  es : BitVec 2
  source : BSource
  queue : List MatCmd
  /-- how many of them, from the oldest, were translated before the invalidation under way (09 R237) -/
  stale : Nat
  deriving DecidableEq, Repr

/-- One core (09). -/
structure Core where
  cacheUnits : Nat
  /-- new split and the tick at which the drain ends (09 R219) -/
  drain : Option (Nat × Nat)
  l1 : List L1Line
  bundles : Table Block
  hatch : Table (BitVec 128)
  banks : Vector Bank 2
  engine : Engine
  tiles : Vector Tile 2
  ctxs : Vector Ctx 4
  running : Option (Fin 4)
  /-- droop: the next cycles are stretched (01 R21) -/
  stretched : Bool
  /-- round-robin position (06 R148) -/
  rr : Nat
  /-- L1 lines whose read is corrected (09 R227) -/
  l1Soft : List Nat
  deriving DecidableEq, Repr

/-! ## Records, teams, grids, jobs (06, 17) -/

/-- ST of a record (06 R142). -/
inductive RecSt where
  | free | ready | waiting | running | parked | halted
  deriving DecidableEq, Repr

/-- What a saved context keeps beside its block, which has no place for it: the lane mask and gate report of each snapshot
entry, in order, the causes still pending, the matrix status bits, and the end of a replay's wait (08 R210, R214, R215; log
entry 16). -/
structure Side where
  snaps : List (VReg × Option Degen)
  async : List AsyncCause
  mstat : BitVec 7
  reacquire : Option BSource
  rereserve : Option (BitVec 2)
  issued : Nat
  replayAt : Option Nat
  /-- `s.tret` has returned the record: its replay count starts from 0 (08 R216) -/
  cleared : Bool
  deferredRest : List LongResult
  /-- the deferred load; the block has its encoding, and its address where INFO is that address (08 R211, R215) -/
  deferred : Option LongResult
  /-- INFO of the block names another cause, so the deferred load's address is kept here -/
  deferredApart : Bool
  /-- a pending wait beside a deferred load: the block has room for one of them -/
  wait : Option PendingWait
  deriving DecidableEq, Repr

def Side.empty : Side where
  snaps := []
  async := []
  mstat := 0
  reacquire := none
  rereserve := none
  issued := 0
  replayAt := none
  cleared := false
  deferredRest := []
  deferred := none
  deferredApart := false
  wait := none

/-- A continuation record (06 R141), with the bookkeeping of the scheduler that moves it. -/
structure Rec where
  va : Nat
  hptr : Nat
  seg : Nat
  bix : Nat
  fsp : Bool
  frame : Nat
  grid : Nat
  thread : Nat
  team : Nat
  wsig : Nat
  wcnt : Nat
  wix : Nat
  wk : Nat
  evl : Nat
  core : Nat
  st : RecSt
  hallFree : Bool
  pri : Nat
  arg : Nat
  sw : Nat
  link : Nat
  /-- it has run before: `s1` to `s3` are set on the first start (R146) -/
  started : Bool
  /-- its registers lie in the context block at FRAME (R150, 08 R215) -/
  saved : Bool
  /-- parked by a trap (08 R216) -/
  trapped : Bool
  readySince : Nat
  hall : Nat
  /-- on a context: core × 4 + context -/
  onCtx : Option Nat
  side : Option Side
  /-- its team is the one of this number; a handler record occupies this slot of the team's 64 (06 R151) -/
  handler : Option Nat
  /-- its registers lie in this context block of its team's image (06 R168), not at FRAME -/
  imgBlock : Option Nat
  deriving DecidableEq, Repr

/-- A job's place in its life (06 R155 to R158, 17 R401). -/
inductive JobState where
  | entering | waiting | running | finishing
  /-- a saved job of a team that is placed again, while its hall holds 256 jobs (06 R157, R164) -/
  | queued
  /-- its remote flag post is on its way (06 R154) -/
  | posting
  | ended
  deriving DecidableEq, Repr

/-- Who waits for a job (06 R154, 05 R118, 07 R191). -/
inductive JobOwner where
  | thread (rec : Nat)
  /-- a COPY packet: its queue, completion signal, SYS and B, and what of the copy is left after this job -/
  | packet (dctx q csig : Nat) (sys b : Bool) (src dst len hostf : Nat)
  | plan (id : Nat)
  deriving DecidableEq, Repr

/-- A job (06 R152 to R158). -/
structure Job where
  id : Nat
  owner : JobOwner
  dctx : Nat
  grid : Nat
  team : Nat
  hall : Nat
  core : Nat
  tag : Nat
  card : Block
  /-- code that the issuing opcode demands; 0 for any valid OP (12 R294) -/
  wantOp : Nat
  cardVa : Nat
  pri : Nat
  state : JobState
  status : Nat
  oor : Nat
  bytes : Nat
  /-- interlocked tag result to deliver -/
  result : Option (Nat × Nat)
  /-- CANCELLED by another thread (17 R402) -/
  byOther : Bool
  /-- leave held by its engine (01 R28) -/
  grant : Option (BitVec 2)
  /-- Finzon messages still unanswered: (destination, SEQ) (04 R101) -/
  awaiting : List (Nat × Nat)
  deriving DecidableEq, Repr

/-- A gallery-map entry (06 R168). -/
structure GalMap where
  src : Nat
  off : Nat
  len : Nat
  deriving DecidableEq, Repr

/-- A team (06 R145, R163, R168; 17 R403). -/
structure Team where
  grid : Nat
  num : Nat
  /-- resident on this core -/
  core : Option Nat
  placed : Bool
  /-- a pre-emption of the team has begun (06 R164) -/
  stopping : Bool
  since : Nat
  flags : Vector (BitVec 16) 32
  /-- event bits that reached the team before it was placed (17 R403) -/
  evl : Nat
  spad : Memory
  gal : Memory
  /-- 32-byte units whose SRAM read is uncorrectable (09 R227) -/
  spadBad : List Nat
  galBad : List Nat
  /-- 32-byte units whose SRAM read is corrected: it is reported with SRC 2 (09 R227) -/
  spadSoft : List Nat
  galSoft : List Nat
  galMap : List GalMap
  nextTag : BitVec 32
  recent : List (Nat × Nat × Nat)
  handlers : Nat
  /-- handlers owed: forwarded records and jobs waiting for a free handler record (06 R151) -/
  owed : List (Nat × Nat)
  halted : Nat
  /-- cards kept for the phase table: entry and card (09 R222) -/
  kept : List (Nat × Block)
  /-- saved tiles of a swapped-out team -/
  tiles : List (Nat × Tile)
  deriving DecidableEq, Repr

/-- A live entry of the grid table (06 R144, 05 R117). -/
structure Grid where
  dctx : Nat
  q : Nat
  hwq : Nat
  img : Nat
  args : Nat
  teams : Nat
  threads : Nat
  spad : Nat
  gal : Nat
  claim : Nat
  tsrt : Nat
  spillBase : Nat
  qnt : Nat
  csig : Nat
  sys : Bool
  pool : Nat
  poolUnits : Nat
  haltedTeams : Nat
  killed : Option Nat
  plan : Option Nat
  boundary : Nat
  /-- the packet that launched it, and its slot (06 R167) -/
  pkt : Block
  slot : Nat
  deriving DecidableEq, Repr

/-- A run of unplaced teams of a grid in the part-wide FIFO (06 R161). -/
structure FifoItem where
  grid : Nat
  first : Nat
  count : Nat
  deriving DecidableEq, Repr

/-! ## The drafting unit (07) -/

/-- A node's physical choice (07 R177, R182). -/
structure Choice where
  phys : Nat
  path0 : Nat
  path1 : Nat
  gran : Nat
  split : Nat
  breakAfter : Bool
  order : List Nat
  nest : Nat
  nobs : Nat
  sv0 : Nat
  sv1 : Nat
  replanned : Bool
  /-- IN1 is the stationary input -/
  in1 : Bool
  deriving DecidableEq, Repr

/-- A tensor value: format, dimensions and raw elements, row-major. -/
structure TVal where
  fmt : Nat
  dims : List Nat
  elems : List Nat
  deriving DecidableEq, Repr

/-- State of a plan handle (07 R181). -/
inductive HState where
  | free | planning | ready | running | done | invalid
  deriving DecidableEq, Repr

/-- Where the result of a node lies in a pool (07 R171, R191): node, pool, VA and bytes. -/
structure PoolPart where
  node : Nat
  pool : Nat
  va : Nat
  len : Nat
  deriving DecidableEq, Repr

/-- A plan handle (07 R181 to R189). -/
structure Plan where
  id : Nat
  tbase : Nat
  handle : Nat
  dctx : Nat
  grid : Option Nat
  die : Nat
  desc : Nat
  bind : Nat
  nodes : List (BitVec 256)
  binds : List (BitVec 64)
  st : HState
  e : Nat
  pinned : Bool
  nodePins : List Nat
  hints : Table (BitVec 16)
  invalidated : Bool
  resume : Option Nat
  runPending : Bool
  owner : Option Nat
  /-- the hall of the thread that executed `y.qrun`, which holds the run's job stream (06 R156) -/
  hall : Option Nat
  runs : Nat
  repl : Nat
  goob : Nat
  initial : List Choice
  current : List Choice
  done : List (Nat × TVal)
  nextNode : Nat
  code : Nat
  result : Option (Nat × Nat × Nat)
  pkt : Option (Nat × Nat)
  fwv : Nat
  pri : Nat
  /-- format and dimensions of each node's result, with the upper bound of a compacting FILTER (07 R174, 22 R431) -/
  types : List (Nat × List Nat)
  /-- statistics index of each binding's tensor (07 R188) -/
  sixes : List Nat
  /-- shapes of the bindings' tensors as the submission found them (07 R174) -/
  shapes : List (Nat × List Nat)
  /-- the first word of the descriptor, as it was read (07 R172) -/
  head : Nat
  /-- places of the intermediates in the pools: of the initial plan, and of the current one (07 R171, R186) -/
  room : List PoolPart
  roomNow : List PoolPart
  /-- duration of the last planning (07 R182) -/
  pt : Nat
  /-- it re-plans at its next break whatever pins and ratio hold (06 R169) -/
  replanNext : Bool
  /-- job of planned matrix work in flight -/
  job : Option Nat
  deriving DecidableEq, Repr

/-! ## The memory system (02, 03) -/

/-- What is stored beside a 32-byte unit: granule code, poison, and the error pattern against the code word, as byte
positions 0 to 41 (32 data, 8 check, 2 of the address signature) that differ (02 R41 to R47; log entry 10). -/
structure UnitMeta where
  gc : BitVec 3
  poison : Bool
  errs : List (Nat × Byte)
  deriving DecidableEq, Repr

/-- What a request asks of a memory controller (02 R39). -/
inductive MemOp where
  | read
  | write (data : BitVec 4096)
  | partialWrite (et : Bool) (agent : Nat) (mask : BitVec 512) (data : BitVec 4096)
  deriving DecidableEq, Repr

/-- A request queued at a memory controller (02 R53, R55). -/
structure MemReq where
  id : Nat
  dpa : Nat
  gran : BitVec 3
  op : MemOp
  reserving : Bool
  deriving DecidableEq, Repr

/-- Status register and request queue of one stack (02 R56, R53). -/
structure Stack where
  ce : BitVec 16
  ue : BitVec 16
  spc : BitVec 6
  spv : Bool
  gmm : Bool
  pzw : Bool
  reqs : List MemReq
  deriving DecidableEq, Repr

/-- Directory state of a line (03 R64, R66). -/
inductive DirSt where
  | i
  | s
  | em
  | bE
  | bS
  | bC
  | bR
  | bM
  deriving DecidableEq, Repr

/-- A request at a home agent (03 R65). -/
inductive DirReqKind where
  | rds | rde | upg | ncrd | migrd | recall | switch
  /-- bytes of the line, under a class and an ET attribute, for the context that writes them (02 R39, R50) -/
  | ncwr (mask : BitVec 128) (data : Line) (gran : BitVec 3) (et : Bool) (agent : Nat)
  deriving DecidableEq, Repr

/-- A request with its die (03 R67). -/
structure DirReq where
  die : Nat
  kind : DirReqKind
  deriving DecidableEq, Repr

/-- A race slot: agent and epoch (03 R63). -/
structure RaceSlot where
  agent : Nat
  epoch : BitVec 16
  deriving DecidableEq, Repr

/-- A race extension entry of a line: its rank in the set, and up to four reader slots (03 R63, R74). -/
structure DirExt where
  age : Nat
  slots : List RaceSlot
  deriving DecidableEq, Repr

/-- What an owner returns of a line: its bytes, the sectors of them that it holds marked poisoned, those that it does not hold, and
under which class, ET and for which writer it holds them (02 R39, R49, R50; 03 R66). -/
structure OwnerData where
  data : Line
  bad : BitVec 4
  unheld : BitVec 4
  gran : BitVec 3
  et : Bool
  writer : Nat
  deriving DecidableEq, Repr

/-- A directory entry (03 R63), its transaction in a transient state (R66) and its queue (R67). `readers` are its three reader slots;
those of further readers lie in extension entries (R74). -/
structure DirEntry where
  line : Nat
  st : DirSt
  shr : BitVec 4
  own : Fin 4
  age : Nat
  writer : Option RaceSlot
  readers : List RaceSlot
  exts : List DirExt
  txn : Option DirReq
  waiting : List Nat
  dirty : Option OwnerData
  queue : List DirReq
  deriving DecidableEq, Repr

/-- A die's state for a line (03 R64). -/
inductive LineSt where
  | s | e | m
  deriving DecidableEq, Repr

/-- A line held in a die's L2: state (03 R64). -/
structure DieLine where
  die : Nat
  line : Nat
  st : LineSt
  /-- the halls of the die whose slices hold it (00 R4, R6; 03 R61) -/
  slices : BitVec 12
  /-- the 32-byte sectors that were asked for (02 R39), and those that are held marked poisoned (02 R49) -/
  valid : BitVec 4
  bad : BitVec 4
  /-- granule class and ET of the page that it was written or read under last, and the agent that wrote it last (02 R39, R50) -/
  gran : BitVec 3
  et : Bool
  writer : Nat
  deriving DecidableEq, Repr

/-- A C = 0 line in a die's L2 with its dirty bytes (03 R76). -/
structure NcLine where
  die : Nat
  line : Nat
  /-- the halls of the die whose slices hold it (00 R4, R6) -/
  slices : BitVec 12
  /-- the 32-byte sectors that were asked for; a dirty byte is held whether its sector is or not (02 R39) -/
  valid : BitVec 4
  dirty : BitVec 128
  data : Line
  /-- granule class and ET of the page, for the writeback (02 R39, R50) -/
  gran : Nat
  et : Bool
  /-- agent that wrote it last, whose SUBST counts a substitution at the writeback (02 R50) -/
  writer : Nat
  deriving DecidableEq, Repr

/-- A page in a hot table (03 R79, R81, R83). `entry` is the DPA of the translation entry. -/
structure HotPage where
  page : Nat
  big : Bool
  entry : Nat
  counts : Vector Nat 12
  wver : BitVec 32
  window : Option Nat
  moves : Nat
  abandons : Nat
  settled : Bool
  /-- a move in progress: version at its start, destination stack, new frame, ring slot -/
  move : Option (BitVec 32 × Nat × Nat × Nat)
  blocked : Bool
  deriving DecidableEq, Repr

/-- One home agent (03). -/
structure Home where
  dir : List DirEntry
  hot : List HotPage
  ring : BitVec 25
  thresh : BitVec 12
  en : Bool
  moves : BitVec 16
  abandon : BitVec 16
  migSettle : BitVec 16
  noFrame : BitVec 16
  cursor : Nat
  sweep : Nat
  passEpochs : Vector (BitVec 16) 768
  deriving DecidableEq, Repr

/-- The memory system. -/
structure MemSys where
  bytes : Memory
  units : Table UnitMeta
  stk : Vector Stack 12
  homes : Vector Home 12
  dieLines : List DieLine
  wbPending : List (Nat × Nat)
  nc : List NcLine
  epochs : Vector (BitVec 16) 768
  nextReq : Nat
  /-- dies and lines whose read from the die's L2 is corrected (04 R90) -/
  l2Soft : List (Nat × Nat)
  deriving DecidableEq, Repr

/-! ## Dies, registers, firmware (01, 05) -/

/-- A leave request at a governor (01 R29). `owner` is the agent number, or 1,000 + job for an engine. -/
structure LeaveReq where
  cls : BitVec 2
  pri : Nat
  since : Nat
  aged : Bool
  owner : Nat
  deriving DecidableEq, Repr

/-- A grant held (01 R29). -/
structure Grant where
  weight : Nat
  owner : Nat
  reservation : Bool
  deriving DecidableEq, Repr

/-- A host translation that a die caches (04 R87): PASID, page, access granted. After the host has invalidated it, only the jobs that
were using it may go on with it. -/
structure AtcEntry where
  pasid : Nat
  page : Nat
  r : Bool
  w : Bool
  only : Option (List Nat)
  deriving DecidableEq, Repr

/-- Governor, drafting unit and address translation cache of one die. -/
structure Die where
  cap : BitVec 10
  limit : BitVec 9
  hot : Bool
  exc : Bool
  /-- tick since when the estimate has been above the cap (01 R31) -/
  overSince : Option Nat
  excAt : Nat
  tripped : Bool
  waiting : List LeaveReq
  grants : List Grant
  /-- plans waiting for this die's drafting unit, in submission order (07 R181) -/
  drafting : List Nat
  /-- links to the other dies are up (01 R17) -/
  linksUp : Bool
  /-- the ATC, oldest entry first (04 R87) -/
  atc : List AtcEntry
  deriving DecidableEq, Repr

/-- State of a queue (05 R109, QSTAT). -/
inductive QState where
  | idle | active | aborted | stallFault
  deriving DecidableEq, Repr

/-- One queue of a device context (05 R109 to R125). -/
structure Queue where
  base : BitVec 44
  hwq : BitVec 6
  logn : Nat
  qv : BitVec 4
  en : Bool
  rdix : BitVec 32
  st : QState
  fstat : BitVec 8
  rst : Bool
  disabling : Bool
  /-- a launched packet with B = 1 holds the queue (R114) -/
  held : Bool
  /-- completion writes kept after a fault (R119): signal, status word, SYS -/
  kept : List (Nat × Nat)
  deriving DecidableEq, Repr

/-- A Landing entry (05 R127, R128): block VA, byte mask, bytes, arrival tick, window kind and team. -/
structure Landing where
  va : Nat
  mask : BitVec 64
  data : Block
  at_ : Nat
  /-- the place of its write among all writes to the apertures (R128: arrival order) -/
  seq : Nat
  due : Bool
  team : Option (Nat × Nat)
  deriving DecidableEq, Repr

/-- A host window (05 R126). -/
structure HWin where
  valid : Bool
  queueKind : Bool
  base : BitVec 44
  grid : BitVec 8
  team : BitVec 32
  deriving DecidableEq, Repr

/-- One device context's registers (05 R105, R109, 09 R236, 06 R160, 15 R360). -/
structure DCtx where
  valid : Bool
  pasid : BitVec 20
  fn : BitVec 4
  queues : Vector Queue 16
  sigBase : BitVec 44
  logs : Nat
  wins : Vector HWin 16
  hwDrop : BitVec 16
  landingLate : BitVec 16
  notifyDrop : BitVec 16
  pktFail : BitVec 16
  landing : List Landing
  ptroot : BitVec 29
  dtsr : BitVec 44
  dspill : BitVec 44
  swBase : BitVec 35
  swSize : BitVec 32
  hintDrop : BitVec 48
  /-- stopped by a save or a function-level reset (06 R166) -/
  stopped : Bool
  /-- a save has taken its teams off the part: it stays stopped until a restore or a function-level reset (06 R166) -/
  saved : Bool
  deriving DecidableEq, Repr

/-- An attestation session (05 R138). -/
structure Session where
  nonce : BitVec 256
  report : Option (List Byte)
  /-- the one-time signing key derived for the report, from the first quote on -/
  key : Option (BitVec 256)
  aborted : Bool
  deriving DecidableEq, Repr

/-- The always-on island's security state, the mailbox and the hot-patch engine (05 R135 to R140). -/
structure Security where
  lock : Bool
  maxLevel : Nat
  next : BitVec 8
  log : Vector (BitVec 128) 64
  counter : Nat
  level2At : List Nat
  mbCmd : BitVec 32
  /-- MBSTAT.BUSY: a command is in progress -/
  mbBusy : Bool
  mbRc : BitVec 8
  mbArg : BitVec 32
  mbLen : BitVec 32
  mbData : List Byte
  sessions : Vector (Option Session) 4
  staging : List Byte
  stagingLen : Nat
  fwAddr : BitVec 37
  fwStat : Nat
  fwVer : BitVec 32
  /-- version of the firmware image itself, which a reset returns to -/
  imgVer : BitVec 32
  /-- SHA-256 of the firmware image verified at bring-up, FWM of the report (R139) -/
  fwHash : BitVec 256
  /-- verified patch: new version, the functions that must be inactive, its image hash input -/
  patch : Option (BitVec 32 × List Nat × List Byte)
  /-- firmware function table: an entry that a patch has replaced, as the patch's version and the code's offset; an unlisted entry is
  the image's own (R134, R135). All four dies replace their entries together, so one table stands for them. -/
  fnTable : Table (Nat × Nat)
  /-- firmware patch memory: the code of each applied patch, by version (R134) -/
  patchMem : List (Nat × List Byte)
  pch : BitVec 256
  /-- identity-derived keys present (R137, R140) -/
  keys : Bool
  deriving DecidableEq, Repr

/-- The first-error register FERR (04 R92). -/
structure Ferr where
  v : Bool
  cls : BitVec 2
  src : BitVec 5
  die : BitVec 2
  step : BitVec 3
  fn : BitVec 4
  agent : BitVec 10
  time : BitVec 32
  deriving DecidableEq, Repr

/-- A message that left the part towards the host (04 R90, R85): an AER message (class, SRC, function) or an MSI-X vector. -/
inductive HostMsg where
  | aer (cls src fn : Nat)
  | msix (fn vec : Nat)
  | atsDone (pasid page : Nat)
  deriving DecidableEq, Repr

/-- Error reporting (04 R90 to R92). -/
structure Errors where
  ferr : Ferr
  /-- Corrected and Uncorrectable Internal Error status per function -/
  corStatus : Vector Bool 16
  uncStatus : Vector Bool 16
  corMask : Vector Bool 16
  uncMask : Vector Bool 16
  sent : List HostMsg
  deriving DecidableEq, Repr

/-- A remote-access window (04 R98). -/
structure RemoteWin where
  dctx : Nat
  r : Bool
  w : Bool
  a : Bool
  grid : Option Nat
  deriving DecidableEq, Repr

/-- A message kept until acknowledged (04 R95), with its resend count and the job it belongs to. -/
structure Kept where
  msg : FinzonMsg
  resends : Nat
  job : Option Nat
  /-- number of the checkpoint chunk it carries or asks for, else 0 (04 R97) -/
  chunk : Nat
  deriving DecidableEq, Repr

/-- Bytes that a job of this part gathers from the fabric. A collective (04 R102 to R104): `hash` of its descriptor, and the
pieces that have arrived, by rank and offset. A restore (17 R398): the stream bytes that have arrived, by stream offset,
`at_` the stream offset of the chunk under way, and `seq` its number. -/
structure Collective where
  job : Nat
  hash : Nat
  arrived : List (Nat × List Byte)
  at_ : Nat
  seq : Nat
  deriving DecidableEq, Repr

/-- The Finzon fabric port state (04 R93 to R104). -/
structure Finzon where
  nid : BitVec 21
  gtab : Table (Bool × BitVec 16)
  mtab : Table (Bool × BitVec 16)
  up : Vector Bool 16
  badmsg : Nat
  windows : Table RemoteWin
  kept : List Kept
  sent : List (Nat × FinzonMsg)
  nextSeq : Table Nat
  expectSeq : Table Nat
  collectives : List Collective
  /-- collective messages that arrived before this part's job -/
  early : List FinzonMsg
  /-- messages that arrived ahead of their turn (04 R95) -/
  held : List FinzonMsg
  deriving DecidableEq, Repr

/-- The context-save engine (06 R165). -/
structure SaveEngine where
  adc : BitVec 8
  dctx : BitVec 8
  areaLen : BitVec 24
  areaBase : BitVec 24
  areaHigh : BitVec 16
  need : BitVec 24
  st : Nat
  deriving DecidableEq, Repr

/-- Power, reset and bring-up (01 R22 to R24, 04 R85, R88, R91). -/
structure Power where
  bringup : Nat
  failedStep : Option Nat
  fatal : Bool
  d3hot : Bool
  /-- tick of the last entry into D3hot: the time limit of the Landing does not run in it (04 R88) -/
  d3At : Nat
  linkNoFlit : Bool
  deriving DecidableEq, Repr

/-- Global registers with no other home (05 R133, 06 R160, 09 R236, 16 R386). -/
structure Regs where
  tlbiVa : BitVec 44
  tlbiDctx : BitVec 8
  tlbiAll : Bool
  tlbiBusy : Bool
  balEn : Bool
  balTh : BitVec 8
  swapth : Nat
  deriving DecidableEq, Repr

/-- An operation enabled in the bundle at issue, with its slot number and encoding. -/
structure Latched where
  slot : Nat
  op : Instr
  word : SlotWord
  deriving DecidableEq, Repr

/-- The whole part. -/
structure State where
  now : Nat
  power : Power
  mem : MemSys
  cores : Vector Core 192
  dies : Vector Die 4
  recs : List Rec
  teams : List Team
  grids : Table Grid
  fifo : List FifoItem
  jobs : List Job
  plans : List Plan
  dctxs : Vector DCtx 256
  regs : Regs
  save : SaveEngine
  sec : Security
  errs : Errors
  fz : Finzon
  /-- bytes of host memory, and the pages that ATS grants: PASID, page, read, write (04 R87; log entry 7) -/
  hostMem : Memory
  atsGrants : List (Nat × Nat × Bool × Bool)
  /-- serial numbers of jobs, plans and interlocked results -/
  nextId : Nat
  /-- MINOR_FRAME count since bring-up (05 R106) -/
  frames : Nat
  /-- the model's own: events on their way, timers, cores with work, the context at issue, and the operations of its
  bundle still to perform (log entry 2) -/
  agenda : List (Instr × EvArgs)
  timers : List (Nat × Instr × EvArgs)
  /-- what the event under way was handed -/
  arg : EvArgs
  busy : List (Fin 192)
  curCore : Fin 192
  curCtx : Fin 4
  /-- leaf taken, index and header of the bundle at issue, and the encoding of the slot under way -/
  curLeaf : Nat
  curBix : Nat
  curHeader : BitVec 64
  curWord : SlotWord
  issued : Bool
  latched : List Latched
  /-- what the bundle at issue found in the control registers that it has changed, the latest change first (08 R194; 13 R315, R316) -/
  ctlOld : List (Nat × Word)
  /-- the model's own: records (VA and grid) written in this step, whose 64 bytes reach their arenas at its end (06 R141; log
  entry 21) -/
  touched : List (Nat × Nat)
  /-- the model's own counter for free values (log entry 9) -/
  freeCounter : Nat
  deriving DecidableEq, Repr

/-! ## Reset -/

/-- A context before any record has run on it (06 R146). -/
def Ctx.reset : Ctx where
  phase := .free
  recVa := 0
  s := Vector.replicate 64 0
  v := Vector.replicate 64 0
  k := Vector.replicate 8 0
  os := Vector.replicate 16 0
  ov := Vector.replicate 16 0
  last := Vector.replicate 16 0
  latches := []
  cq := []
  loops := []
  pipe := []
  long := []
  seg := 0
  bix := 0
  mark := none
  cause := 0
  hm := false
  rm := 0
  ftz := false
  atb := 0
  rpln := 1
  leaveStall := 0
  subst := 0
  gateDegen := 0
  evl := 0
  hp := 0
  icnt := 0
  wait := none
  deferred := none
  deferredRest := []
  async := []
  replays := 0
  replayCause := 0
  replayBix := 0
  replayAt := none
  stall := none
  capCycles := 0
  filter := []
  reserve := none
  grant := none
  issuedSince := 0
  readySince := 0
  waitSince := 0
  mstat := 0
  reacquire := none
  rereserve := none
  copyWait := none
  leaving := none
  stopping := false
  halting := false

def Bank.reset : Bank where
  loaded := false
  dctx := 0
  table := 0
  seg := 0
  nb := 0
  nh := 0
  next := 0xFFFF
  nseg := 0
  isSealed := false
  loading := none
  failure := none
  queue := []
  watch := []

def LabelSlot.empty : LabelSlot where
  valid := false
  label := 0
  age := 0
  ur := 0
  uc := 0

def Tile.reset : Tile where
  owner := none
  mode := 0
  entries := []
  rowSum := Vector.replicate 64 0
  colSum := Vector.replicate 256 0
  kcount := 0
  ov := false
  sat := false
  slots := Vector.replicate 8 LabelSlot.empty
  soft := []
  sideBad := []

def BSource.none : BSource where
  kind := 0
  shape := 0
  aval := 0

def Engine.reset : Engine where
  holder := .nobody
  b := []
  es := 1
  source := BSource.none
  queue := []
  stale := 0

/-- A core after bring-up: the reset split of 1,024 KiB cache and 1,024 KiB scratchpad (01 R23, 09 R217). -/
def Core.reset : Core where
  cacheUnits := 8
  drain := none
  l1 := []
  bundles := []
  hatch := []
  banks := Vector.replicate 2 Bank.reset
  engine := Engine.reset
  tiles := Vector.replicate 2 Tile.reset
  ctxs := Vector.replicate 4 Ctx.reset
  running := none
  stretched := false
  rr := 0
  l1Soft := []

def UnitMeta.reset : UnitMeta where
  gc := 4
  poison := false
  errs := []

def Stack.reset : Stack where
  ce := 0
  ue := 0
  spc := 0
  spv := false
  gmm := false
  pzw := false
  reqs := []

def Home.reset : Home where
  dir := []
  hot := []
  ring := 0
  thresh := 0x400
  en := false
  moves := 0
  abandon := 0
  migSettle := 0
  noFrame := 0
  cursor := 0
  sweep := 0
  passEpochs := Vector.replicate 768 0

def MemSys.reset : MemSys where
  bytes := []
  units := []
  stk := Vector.replicate 12 Stack.reset
  homes := Vector.replicate 12 Home.reset
  dieLines := []
  wbPending := []
  nc := []
  epochs := Vector.replicate 768 0
  nextReq := 0
  l2Soft := []

/-- CAP 550, LIMIT 384 (01 R27). -/
def Die.reset : Die where
  cap := 550
  limit := 384
  hot := false
  exc := false
  overSince := none
  excAt := 0
  tripped := false
  waiting := []
  grants := []
  drafting := []
  linksUp := true
  atc := []

/-- LOGN resets to 6 (05 R109). -/
def Queue.reset : Queue where
  base := 0
  hwq := 0
  logn := 6
  qv := 0
  en := false
  rdix := 0
  st := .idle
  fstat := 0
  rst := false
  disabling := false
  held := false
  kept := []

def HWin.reset : HWin where
  valid := false
  queueKind := false
  base := 0
  grid := 0
  team := 0

def DCtx.reset : DCtx where
  valid := false
  pasid := 0
  fn := 0
  queues := Vector.replicate 16 Queue.reset
  sigBase := 0
  logs := 0
  wins := Vector.replicate 16 HWin.reset
  hwDrop := 0
  landingLate := 0
  notifyDrop := 0
  pktFail := 0
  landing := []
  ptroot := 0
  dtsr := 0
  dspill := 0
  swBase := 0
  swSize := 0
  hintDrop := 0
  stopped := false
  saved := false

def Ferr.reset : Ferr where
  v := false
  cls := 0
  src := 0
  die := 0
  step := 0
  fn := 0
  agent := 0
  time := 0

def Errors.reset : Errors where
  ferr := Ferr.reset
  corStatus := Vector.replicate 16 false
  uncStatus := Vector.replicate 16 false
  corMask := Vector.replicate 16 false
  uncMask := Vector.replicate 16 false
  sent := []

def Security.reset : Security where
  lock := false
  maxLevel := 0
  next := 0
  log := Vector.replicate 64 0
  counter := 0
  level2At := []
  mbCmd := 0
  mbBusy := false
  mbRc := 0
  mbArg := 0
  mbLen := 0
  mbData := []
  sessions := Vector.replicate 4 none
  staging := []
  stagingLen := 0
  fwAddr := 0
  fwStat := 0
  fwVer := Config.firmwareVersion
  imgVer := Config.firmwareVersion
  fwHash := Config.firmwareHash
  patch := none
  fnTable := []
  patchMem := []
  pch := 0
  keys := true

/-- NID resets to 0x1F_FFFF (04 R96). -/
def Finzon.reset : Finzon where
  nid := 0x1FFFFF
  gtab := []
  mtab := []
  up := Vector.replicate 16 false
  badmsg := 0
  windows := []
  kept := []
  sent := []
  nextSeq := []
  expectSeq := []
  collectives := []
  early := []
  held := []

def SaveEngine.reset : SaveEngine where
  adc := 0
  dctx := 0
  areaLen := 0
  areaBase := 0
  areaHigh := 0
  need := 0
  st := 0

/-- BALEN 1, BALTH 8 (06 R160), SWAPTH 64 (16 R386). -/
def Regs.reset : Regs where
  tlbiVa := 0
  tlbiDctx := 0
  tlbiAll := false
  tlbiBusy := false
  balEn := true
  balTh := 8
  swapth := 64

def Power.reset : Power where
  bringup := 1
  failedStep := none
  fatal := false
  d3hot := false
  d3At := 0
  linkNoFlit := false

/-- The part right after cold reset: bring-up stands at its first step (01 R22, R23). -/
def State.reset : State where
  now := 0
  power := Power.reset
  mem := MemSys.reset
  cores := Vector.replicate 192 Core.reset
  dies := Vector.replicate 4 Die.reset
  recs := []
  teams := []
  grids := []
  fifo := []
  jobs := []
  plans := []
  dctxs := Vector.replicate 256 DCtx.reset
  regs := Regs.reset
  save := SaveEngine.reset
  sec := Security.reset
  errs := Errors.reset
  fz := Finzon.reset
  hostMem := []
  atsGrants := []
  nextId := 1
  frames := 0
  agenda := []
  timers := []
  arg := {}
  busy := []
  curCore := 0
  curCtx := 0
  curLeaf := 0
  curBix := 0
  curHeader := 0
  curWord := 0
  issued := false
  latched := []
  ctlOld := []
  touched := []
  freeCounter := 0

end Sys2Proof.Machine
end

