-- ==== Sys2Proof/Machine/Base.lean ====
section
/-! DEFINITION. The plain operations over tables, bytes, contexts and the event list that every meaning is written with. -/

namespace Sys2Proof.Machine

/-- What a step answers. -/
abbrev Res := Host.Outcome State Fault Refusal

/-- A millisecond in ticks. -/
def msTicks : Nat := 1200000

/-! ## Sparse tables -/

/-- The value a table holds for key `k`; `d` is what an unlisted key reads as. -/
def tget {α : Type} (t : Table α) (k : Nat) (d : α) : α :=
  match t with
  | [] => d
  | (j, v) :: r => if j = k then v else tget r k d

/-- Write `v` at key `k`, keeping the form: keys rising, no entry equal to `d`. -/
def tset {α : Type} [DecidableEq α] (t : Table α) (k : Nat) (v d : α) : Table α :=
  match t with
  | [] => if v = d then [] else [(k, v)]
  | (j, w) :: r =>
    if k < j then (if v = d then (j, w) :: r else (k, v) :: (j, w) :: r)
    else if k = j then (if v = d then r else (k, v) :: r)
    else (j, w) :: tset r k v d

/-- The canonical form of a table: keys strictly rising, no entry equal to the default. -/
def tableWf {α : Type} [DecidableEq α] (d : α) (t : Table α) : Bool :=
  match t with
  | [] => true
  | (j, v) :: r => decide (v ≠ d) && r.all (fun p => decide (j < p.1)) && tableWf d r

/-- The canonical form of a memory (02 R24; log entry 1). -/
def Memory.wf (m : Memory) : Bool := tableWf (0 : Byte) m

/-- One byte of a memory; a byte that nothing has written reads zero (01 R23; log entry 1). -/
def Memory.byte (m : Memory) (a : Nat) : Byte := tget m a 0

/-- Write one byte. -/
def Memory.setByte (m : Memory) (a : Nat) (b : Byte) : Memory := tset m a b 0

/-- `n` bytes from address `a`, lowest address first. -/
def Memory.read (m : Memory) (a n : Nat) : List Byte := (List.range n).map fun i => Memory.byte m (a + i)

/-- Write bytes from address `a` up. -/
def Memory.write (m : Memory) (a : Nat) : List Byte → Memory
  | [] => m
  | b :: bs => Memory.write (Memory.setByte m a b) (a + 1) bs

/-- Write the bytes whose mask bit is set (03 R76, 02 R50). -/
def Memory.writeMasked (m : Memory) (a : Nat) (mask : Nat) : List Byte → Memory
  | [] => m
  | b :: bs => Memory.writeMasked (if bitN mask 0 then Memory.setByte m a b else m) (a + 1) (mask / 2) bs

/-! ## Little-endian numbers (00 R11) -/

def natOfBytes : List Byte → Nat
  | [] => 0
  | b :: bs => b.toNat + 256 * natOfBytes bs

def bytesOfNat : Nat → Nat → List Byte
  | 0, _ => []
  | n + 1, x => BitVec.ofNat 8 x :: bytesOfNat n (x / 256)

/-- The `n` bytes of a bit string of `8 n` bits. -/
def bytesOf {w : Nat} (n : Nat) (x : BitVec w) : List Byte := bytesOfNat n x.toNat

/-- A number of `n` bytes at `a`. -/
def Memory.num (m : Memory) (a n : Nat) : Nat := natOfBytes (Memory.read m a n)

/-! ## The context at issue -/

def State.coreAt (s : State) (c : Fin 192) : Core := s.cores.get c

def State.modCoreAt (s : State) (c : Fin 192) (f : Core → Core) : State :=
  { s with cores := s.cores.set c.val (f (s.cores.get c)) c.isLt }

def State.core (s : State) : Core := s.coreAt s.curCore

def State.modCore (s : State) (f : Core → Core) : State := s.modCoreAt s.curCore f

def Core.ctx (c : Core) (x : Fin 4) : Ctx := c.ctxs.get x

def Core.modCtx (c : Core) (x : Fin 4) (f : Ctx → Ctx) : Core :=
  { c with ctxs := c.ctxs.set x.val (f (c.ctxs.get x)) x.isLt }

def State.ctxAt (s : State) (c : Fin 192) (x : Fin 4) : Ctx := (s.coreAt c).ctx x

def State.modCtxAt (s : State) (c : Fin 192) (x : Fin 4) (f : Ctx → Ctx) : State :=
  s.modCoreAt c fun k => k.modCtx x f

/-- The context whose bundle is issuing. -/
def State.ctx (s : State) : Ctx := s.ctxAt s.curCore s.curCtx

def State.modCtx (s : State) (f : Ctx → Ctx) : State := s.modCtxAt s.curCore s.curCtx f

/-- Make core `c`, context `x` the one that the operations act on. -/
def State.at_ (s : State) (c : Fin 192) (x : Fin 4) : State := { s with curCore := c, curCtx := x }

/-- Die, hall and agent number of the core at issue (06 R145, 03 R72): 48 cores a die, 4 cores a hall. -/
def dieOf (c : Fin 192) : Fin 4 := ⟨c.val / 48, by omega⟩
def hallOf (c : Fin 192) : Fin 48 := ⟨c.val / 4, by omega⟩
def agentOf (c : Fin 192) (x : Fin 4) : Nat := 4 * c.val + x.val
def splitAgent (a : Nat) : Fin 192 × Fin 4 := (⟨a / 4 % 192, Nat.mod_lt _ (by decide)⟩, ⟨a % 4, Nat.mod_lt _ (by decide)⟩)

/-- A record is written: its bytes follow at the end of the step (06 R141). -/
def State.touch (s : State) (va grid : Nat) : State :=
  { s with touched := if s.touched.head? = some (va, grid) then s.touched else (va, grid) :: s.touched }

/-- Write every record that satisfies `p`. -/
def State.mapRecs (s : State) (p : Rec → Bool) (f : Rec → Rec) : State :=
  { s with
    recs := s.recs.map fun (r : Rec) => if p r then f r else r
    touched := ((s.recs.filter p).map fun (r : Rec) => (r.va, r.grid)).reverse ++ s.touched }

/-- New records. -/
def State.addRecs (s : State) (l : List Rec) : State :=
  { s with recs := s.recs ++ l, touched := (l.map fun (r : Rec) => (r.va, r.grid)).reverse ++ s.touched }

/-- A record takes a status; one that becomes ready does so now (06 R142, R149). -/
def Rec.enter (r : Rec) (st : RecSt) (now : Nat) : Rec :=
  { r with st := st, readySince := if st = .ready then now else r.readySince }

/-- The record of a context takes a status (06 R142). -/
def State.recSt (s : State) (c : Fin 192) (x : Fin 4) (st : RecSt) : State :=
  s.mapRecs (fun r => r.onCtx == some (agentOf c x)) fun r => r.enter st s.now

/-! ## Events -/

/-- Put an event behind those on their way (log entry 2). -/
def State.post (s : State) (e : Instr) (a : EvArgs) : State := { s with agenda := s.agenda ++ [(e, a)] }

/-- Put an event before those on their way: it is the very next step of the part. -/
def State.postFirst (s : State) (e : Instr) (a : EvArgs) : State := { s with agenda := (e, a) :: s.agenda }

/-- Start a timer of `t` ticks. -/
def State.timer (s : State) (t : Nat) (e : Instr) (a : EvArgs) : State :=
  { s with timers := s.timers ++ [(s.now + t, e, a)] }

/-- A new serial number for a job, plan or interlocked result. -/
def State.fresh (s : State) : Nat × State := (s.nextId, { s with nextId := s.nextId + 1 })

/-- The next free value (log entry 9). -/
def State.free (s : State) : Word × State :=
  (Config.freeWord s.freeCounter, { s with freeCounter := s.freeCounter + 1 })

/-! ## Lists keyed by a field -/

/-- Replace the first element that satisfies `p`. -/
def modFirst {α : Type} (p : α → Bool) (f : α → α) : List α → List α
  | [] => []
  | x :: xs => if p x then f x :: xs else x :: modFirst p f xs

def State.recOf (s : State) (va grid : Nat) : Option Rec := s.recs.find? fun r => r.va == va && r.grid == grid
def State.modRec (s : State) (va grid : Nat) (f : Rec → Rec) : State :=
  { s.touch va grid with recs := modFirst (fun r => r.va == va && r.grid == grid) f s.recs }
def State.teamOf (s : State) (grid num : Nat) : Option Team := s.teams.find? fun t => t.grid == grid && t.num == num
def State.modTeam (s : State) (grid num : Nat) (f : Team → Team) : State :=
  { s with teams := modFirst (fun t => t.grid == grid && t.num == num) f s.teams }
def State.gridOf (s : State) (g : Nat) : Option Grid := (s.grids.find? fun p => p.1 == g).map (·.2)
def State.modGrid (s : State) (g : Nat) (f : Grid → Grid) : State :=
  { s with grids := modFirst (fun p => p.1 == g) (fun p => (p.1, f p.2)) s.grids }
def State.jobOf (s : State) (id : Nat) : Option Job := s.jobs.find? fun j => j.id == id
def State.modJob (s : State) (id : Nat) (f : Job → Job) : State := { s with jobs := modFirst (fun j => j.id == id) f s.jobs }
def State.planOf (s : State) (id : Nat) : Option Plan := s.plans.find? fun p => p.id == id
def State.modPlan (s : State) (id : Nat) (f : Plan → Plan) : State :=
  { s with plans := modFirst (fun p => p.id == id) f s.plans }
def State.dctxOf (s : State) (d : Nat) : DCtx := s.dctxs.get ⟨d % 256, Nat.mod_lt _ (by decide)⟩
def State.modDctx (s : State) (d : Nat) (f : DCtx → DCtx) : State :=
  { s with dctxs := s.dctxs.set (d % 256) (f (s.dctxOf d)) (Nat.mod_lt _ (by decide)) }
def State.dieAt (s : State) (d : Fin 4) : Die := s.dies.get d
def State.modDie (s : State) (d : Fin 4) (f : Die → Die) : State :=
  { s with dies := s.dies.set d.val (f (s.dies.get d)) d.isLt }
def State.modMem (s : State) (f : MemSys → MemSys) : State := { s with mem := f s.mem }
def State.modFz (s : State) (f : Finzon → Finzon) : State := { s with fz := f s.fz }
def State.modSec (s : State) (f : Security → Security) : State := { s with sec := f s.sec }

/-- Record, team, grid and device context of the thread at issue; a context that runs no record has none. -/
def State.curRec (s : State) : Option Rec :=
  s.recs.find? fun r => r.onCtx == some (agentOf s.curCore s.curCtx)

/-! ## Small arithmetic -/

/-- Saturating add at `w` bits (08 R209). -/
def satAdd {w : Nat} (x : BitVec w) (n : Nat) : BitVec w := BitVec.ofNat w (min (x.toNat + n) (2 ^ w - 1))

def ceilDiv (a b : Nat) : Nat := (a + b - 1) / b

/-- The smallest multiple of `b` not below `a`. -/
def roundUp (a b : Nat) : Nat := ceilDiv a b * b

/-- Stable insertion of `x` before the first element with a larger key. -/
def insertBy {α : Type} (key : α → Nat) (x : α) : List α → List α
  | [] => [x]
  | y :: ys => if key x < key y then x :: y :: ys else y :: insertBy key x ys

/-- Stable sort by a key: equal keys keep their order. -/
def sortBy {α : Type} (key : α → Nat) (l : List α) : List α := l.foldl (fun acc x => insertBy key x acc) []

end Sys2Proof.Machine
end

