-- ==== Sys2Proof/Machine/Report.lean ====
section
/-! DEFINITION. Reporting: device errors (04 R90 to R92), the security alarm (05 R136, R137) and interrupts to the host. -/

namespace Sys2Proof.Machine

/-- Classes of device events (04 R90). -/
def clsCorrectable : Nat := 0
def clsNonFatal : Nat := 1
def clsFatal : Nat := 2

/-- Microseconds since reset: 1,200 fabric ticks each. -/
def State.micros (s : State) : Nat := s.now / 1200

def setIdx {α : Type} {n : Nat} (v : Vector α n) (i : Nat) (x : α) : Vector α n :=
  if h : i < n then v.set i x h else v

def getIdx {α : Type} {n : Nat} (v : Vector α n) (i : Nat) (d : α) : α := if h : i < n then v.get ⟨i, h⟩ else d

/-- Record, report and message one device event (04 R90 to R92): DEVICE_ERROR_REPORT, and FATAL_EVENT for class fatal. -/
def State.report (s : State) (cls src fn die agent step : Nat) : State :=
  let e := s.errs
  let ferr : Ferr := if e.ferr.v then e.ferr else
    { v := true, cls := BitVec.ofNat 2 cls, src := BitVec.ofNat 5 src, die := BitVec.ofNat 2 die, step := BitVec.ofNat 3 step,
      fn := BitVec.ofNat 4 fn, agent := BitVec.ofNat 10 agent, time := BitVec.ofNat 32 (min s.micros (2 ^ 32 - 1)) }
  let masked := if cls = clsCorrectable then getIdx e.corMask fn false else getIdx e.uncMask fn false
  let e := { e with
    ferr := ferr
    corStatus := if cls = clsCorrectable then setIdx e.corStatus fn true else e.corStatus
    uncStatus := if cls = clsCorrectable then e.uncStatus else setIdx e.uncStatus fn true
    sent := if masked then e.sent else e.sent ++ [.aer cls src fn] }
  let s := { s with errs := e }
  if cls = clsFatal then
    { s with power := { s.power with fatal := true }, fz := { s.fz with up := Vector.replicate 16 false } }
  else s

/-- The PF reports an event of a die. -/
def State.reportPf (s : State) (cls src die : Nat) : State := s.report cls src 0 die 0 0

/-- Corrected reads of an L2 or of SRAM (04 R90 SRC 2; 09 R227). -/
def State.corrected (s : State) (die n : Nat) : State := (List.range n).foldl (fun s _ => s.reportPf clsCorrectable 2 die) s

/-- Send an MSI-X vector of a function (04 R85). -/
def State.msix (s : State) (fn vec : Nat) : State := { s with errs := { s.errs with sent := s.errs.sent ++ [.msix fn vec] } }

/-- The sources of the security alarm, in the order of the table of 05 R136. -/
inductive AlarmSource where
  | thermal | patchSig | exhausted | supply | threeLevel2 | tamper | firmwareSig
  deriving DecidableEq, Repr

def AlarmSource.row : AlarmSource → Nat
  | .thermal => 0
  | .patchSig => 1
  | .exhausted => 2
  | .supply => 3
  | .threeLevel2 => 4
  | .tamper => 5
  | .firmwareSig => 6

/-- Action 1: the log entry (05 R137). -/
def State.alarmLog (s : State) (src : AlarmSource) (level : Nat) : State :=
  s.modSec fun q =>
    { q with
      log := setIdx q.log (q.next.toNat % 64)
        (BitVec.ofNat 128 (s.micros % 2 ^ 64 + (Config.alarmSource src.row).toNat * 2 ^ 64 + level * 2 ^ 72))
      next := BitVec.ofNat 8 ((q.next.toNat + 1) % 64)
      maxLevel := max q.maxLevel level }

/-- Action 2: session keys are zeroised and a waiting patch is cancelled (05 R137). -/
def State.alarmZeroise (s : State) : State :=
  s.modSec fun q =>
    { q with
      sessions := q.sessions.map fun o => o.map fun x => { x with nonce := 0, report := none, key := none, aborted := true }
      fwStat := if q.patch.isSome then 6 else q.fwStat
      patch := none }

/-- Action 3: the identity keys are zeroised, the event is fatal and the part is locked (05 R137). -/
def State.alarmLock (s : State) : State :=
  (s.modSec fun q => { q with keys := false, lock := true }).reportPf clsFatal 12 0

/-- A security alarm (05 R136, R137). Three level-2 events within one second are a level-3 event of their own. -/
def State.alarm (s : State) (src : AlarmSource) : State :=
  let level : Nat := match src with
    | .supply => 2
    | .threeLevel2 => 3
    | .tamper => 3
    | .firmwareSig => 3
    | _ => 1
  let s := s.alarmLog src level
  if level = 1 then s
  else if level = 3 then s.alarmZeroise.alarmLock
  else
    let recent := (s.sec.level2At ++ [s.micros]).filter fun t => decide (s.micros - t < 1000000)
    let s := (s.modSec fun q => { q with level2At := recent }).alarmZeroise
    if 3 ≤ recent.length then (s.alarmLog .threeLevel2 3).alarmLock else s

end Sys2Proof.Machine
end

