-- ==== Sys2Proof/Machine/Granule.lean ====
section
/-! DEFINITION. Granules at the memory controller: classes, codes, decoding, poison, and the three accesses read, whole write
and partial write (02 R36 to R51, R56). Errors are kept as patterns against the code word (log entry 10); the encoders that
give the stored check bits are functions of the data. -/

namespace Sys2Proof.Machine

/-- Bytes of a granule of class `g` (02 R38). -/
def granBytes (g : Nat) : Nat := 32 * 2 ^ g

/-- Stack of a DPA, and whether it exists (02 R36). -/
def stackOf (dpa : Nat) : Nat := dpa / 2 ^ 36
def dpaExists (dpa : Nat) : Bool := decide (stackOf dpa < 12)

/-- Pseudo-channel, burst byte, beat and lowest data pin of a DPA (02 R37). -/
def pseudoChannel (dpa : Nat) : Nat := bitsN dpa 5 6
def burstByte (dpa : Nat) : Nat := bitsN dpa 0 5
def beatOf (dpa : Nat) : Nat := burstByte dpa / 4
def dataPin (dpa : Nat) : Nat := 8 * (burstByte dpa % 4)

/-- Address signature (02, Codes and metadata). -/
def asig (dpa : Nat) : Nat := bitsN dpa 5 16 ^^^ bitsN dpa 21 16 ^^^ bitsN dpa 37 3

/-! ## Encoders (02 R41, R42) -/

/-- GF(2^8) with x^8 + x^4 + x^3 + x^2 + 1: product of two symbols. -/
def gfMulFrom : Nat → Nat → Nat → Nat → Nat
  | 0, _, _, acc => acc
  | n + 1, a, b, acc =>
    let acc := if b % 2 = 1 then acc ^^^ a else acc
    let a2 := 2 * a
    gfMulFrom n (if 256 ≤ a2 then (a2 ^^^ 0x11D) % 256 else a2) (b / 2) acc

def gfMul (a b : Nat) : Nat := gfMulFrom 8 a b 0

def gfPow : Nat → Nat
  | 0 => 1
  | n + 1 => gfMul 2 (gfPow n)

/-- Generator polynomial with roots α^0 to α^(r−1), lowest coefficient first. -/
def rsGen : Nat → List Nat
  | 0 => [1]
  | r + 1 =>
    let g := rsGen r
    List.zipWith (· ^^^ ·) (g.map (gfMul (gfPow r)) ++ [0]) (0 :: g)

/-- Check symbols of a Reed-Solomon code word with `r` of them, by division. Check symbol 0 is the coefficient of the highest power
(DESIGN CHOICE, log entry 74: R42 orders the information symbols only). -/
def rsCheck (r : Nat) (info : List Nat) : List Nat :=
  let taps := ((rsGen r).take r).reverse
  info.foldl (fun reg x =>
    let fb := x ^^^ reg.headD 0
    List.zipWith (fun y t => y ^^^ gfMul fb t) (reg.drop 1 ++ [0]) taps) (List.replicate r 0)

/-- Information symbols of a code word: data, M, ASIG low byte first (02 R42). -/
def rsInfo (data : List Byte) (poison : Bool) (gc : Nat) (sig : Nat) : List Nat :=
  data.map (·.toNat) ++ [b2n poison + 2 * gc, sig % 256, sig / 256]

/-- Check bits of the extended Hamming code (286,276) over its information bits, lowest first (02 R41). R41 gives no check matrix:
information bit i has the i-th position that is no power of two, the nine parities are by position, and the tenth is over all bits
(DESIGN CHOICE, log entry 74). -/
def hammingPos (i : Nat) : Nat :=
  (List.range 9).foldl (fun acc p => if 2 ^ p ≤ acc then acc + 1 else acc) (i + 1)

def hammingCheck (info : List Bool) : Nat :=
  let synd := (info.zipIdx.foldl (fun acc p => if p.1 then acc ^^^ hammingPos p.2 else acc) 0)
  let ones := (info.countP id) + ((List.range 9).countP fun i => bitN synd i)
  synd + 512 * (ones % 2)

/-- The 64 check bits of a G32 or G64 unit (02 R41). -/
def unitCheck (dpa : Nat) (data : List Byte) (poison : Bool) (gc : Nat) : Nat :=
  let fields := b2n poison + 2 * gc + 16 * asig dpa
  let info := data.flatMap (fun b => (List.range 8).map b.getLsbD) ++ (List.range 20).map (bitN fields)
  hammingCheck info + 1024 * fields

/-! ## Decoding (02 R41, R43 to R47) -/

def MemSys.unit (m : MemSys) (dpa : Nat) : UnitMeta := tget m.units (dpa / 32) UnitMeta.reset
def MemSys.setUnit (m : MemSys) (dpa : Nat) (u : UnitMeta) : MemSys := { m with units := tset m.units (dpa / 32) u UnitMeta.reset }

def bitCount (x : Nat) : Nat := (List.range 8).countP (bitN x)

/-- Bits in error of a G32 or G64 unit: data, and bits 29:0 of the check bytes. -/
def unitBitErrors (errs : List (Nat × Byte)) : Nat :=
  (errs.map fun p =>
    if p.1 < 35 then bitCount p.2.toNat else if p.1 = 35 then bitCount (p.2.toNat % 64) else 0).foldl (· + ·) 0

/-- Bits in error of the ASIG field, check bits 29:14. -/
def asigErrors (errs : List (Nat × Byte)) : Nat :=
  (errs.map fun p =>
    if p.1 = 33 then bitCount (p.2.toNat / 64) else if p.1 = 34 then bitCount p.2.toNat
    else if p.1 = 35 then bitCount (p.2.toNat % 64) else 0).foldl (· + ·) 0

/-- Symbols in error of code word `m` in one pseudo-channel of a wide granule: data bytes with o[4:3] = m, check bytes 2m and
2m + 1 (02 R44). -/
def wordErrors (errs : List (Nat × Byte)) (m : Nat) : Nat :=
  errs.countP fun p => p.2 != 0 && ((decide (p.1 < 32) && p.1 / 8 == m) || p.1 == 32 + 2 * m || p.1 == 33 + 2 * m)

/-- Symbols in error of a G128 code word: its data, and check bytes 0 to 2 of its first pseudo-channel (02 R43). -/
def g128Errors (us : List (List (Nat × Byte))) : Nat :=
  (us.zipIdx.map fun u => u.1.countP fun p =>
    p.2 != 0 && (decide (p.1 < 32) || (u.2 == 0 && decide (32 ≤ p.1) && decide (p.1 < 35)))).foldl (· + ·) 0

/-- What decoding finds. -/
inductive Decoded where
  | clean
  | corrected
  /-- corrected by the erasure search, in this pseudo-channel of the granule -/
  | erasure (pc : Nat)
  | uncorrectable
  deriving DecidableEq, Repr

/-- Code word errors of a wide granule, per word. -/
def wideWord (us : List (List (Nat × Byte))) (m : Nat) : Nat := (us.map fun e => wordErrors e m).foldl (· + ·) 0

/-- Decode the error patterns of the units of a granule of class `g`. Positions 40 and 41 are the address signature that the decoder
computes: a unit read from the wrong row differs there, and its granule is poisoned (02 R41, R42, R47). -/
def decodeGran (g : Nat) (us : List (List (Nat × Byte))) : Decoded :=
  if us.any fun e => e.any fun p => decide (40 ≤ p.1) && p.2 != 0 then .uncorrectable
  else if g ≤ 1 then
    if us.any (fun e => decide (2 ≤ unitBitErrors e) || asigErrors e == 1) then .uncorrectable
    else if us.any (fun e => unitBitErrors e == 1) then .corrected else .clean
  else if g = 2 then
    if g128Errors us = 0 then .clean else if g128Errors us = 1 then .corrected else .uncorrectable
  else
    let ws := (List.range 4).map (wideWord us)
    let t := if g = 3 then 7 else 15
    if ws.all (· == 0) then .clean
    else if ws.all (· ≤ t) then .corrected
    else if g = 3 then
      let good := (List.range 8).filter fun pc =>
        (List.range 4).all fun m => decide (wideWord us m - wordErrors (us.getD pc []) m ≤ 2)
      if good.length = 1 then .erasure (good.headD 0) else .uncorrectable
    else .uncorrectable

/-- The state of a granule as an access of class `g` finds it. -/
inductive GranState where
  | ok (d : Decoded)
  /-- poison stored earlier: no new event (02 R49) -/
  | stored
  | bad
  | mismatch
  deriving DecidableEq, Repr

def granUnits (g base : Nat) : List Nat := (List.range (2 ^ g)).map fun i => base + 32 * i

def granBase (g dpa : Nat) : Nat := dpa - dpa % granBytes g

/-- What the controller finds in the granule of class `g` at `dpa` (02 R47). The stored class is compared first: poison stored under
another class is a code mismatch, with its count, at each such access (DESIGN CHOICE, log entry 74: R47 and R49 give no order). -/
def MemSys.granState (m : MemSys) (g dpa : Nat) : GranState :=
  let us := (granUnits g (granBase g dpa)).map m.unit
  if us.any fun u => u.gc.toNat != g then .mismatch
  else if us.any (·.poison) then .stored
  else
    match decodeGran g (us.map (·.errs)) with
    | .uncorrectable => .bad
    | d => .ok d

/-- A read of the granule returns poison (02 R47). -/
def MemSys.poisoned (m : MemSys) (g dpa : Nat) : Bool :=
  match m.granState g dpa with
  | .ok _ => false
  | _ => true

def MemSys.modStack (m : MemSys) (dpa : Nat) (f : Stack → Stack) : MemSys :=
  if h : stackOf dpa < 12 then { m with stk := m.stk.set (stackOf dpa) (f (m.stk.get ⟨stackOf dpa, h⟩)) h } else m

def Stack.countCe (k : Stack) : Stack := { k with ce := satAdd k.ce 1 }
def Stack.countUe (k : Stack) : Stack := { k with ue := satAdd k.ue 1 }

/-- Die of a stack. -/
def stackDie (dpa : Nat) : Nat := stackOf dpa / 3

/-- Count what a read or scrub of the granule found (02 R46, R47, R56), and report a corrected event (04 R90). -/
def State.countGran (s : State) (g dpa : Nat) : State :=
  match s.mem.granState g dpa with
  | .ok .clean => s
  | .stored => s
  | .ok (.erasure pc) =>
    (s.modMem fun m => m.modStack dpa fun k =>
      { k.countCe with spc := BitVec.ofNat 6 (pseudoChannel (granBase g dpa) + pc), spv := true }).reportPf
      clsCorrectable 1 (stackDie dpa)
  | .ok _ => (s.modMem fun m => m.modStack dpa Stack.countCe).reportPf clsCorrectable 1 (stackDie dpa)
  | .bad => s.modMem fun m => m.modStack dpa Stack.countUe
  | .mismatch => s.modMem fun m => m.modStack dpa fun k => { k.countUe with gmm := true }

/-- Units of the granule at `dpa` that carry its stored code: a granule that was overwritten in part under another class leaves
only some (log entry 10). -/
def MemSys.scrubUnits (m : MemSys) (dpa : Nat) : List Nat :=
  let g := (m.unit dpa).gc.toNat
  (granUnits g (granBase g dpa)).filter fun a => (m.unit a).gc.toNat == g

/-- Clear the errors of corrected units, or mark units poisoned; the data stay as they are stored. -/
def MemSys.rewriteUnits (m : MemSys) (l : List Nat) (poison : Bool) : MemSys :=
  l.foldl (fun m a => m.setUnit a { m.unit a with poison := poison, errs := [] }) m

/-- Every unit of a granule written anew: class, poison and valid check symbols. -/
def MemSys.setGran (m : MemSys) (g dpa : Nat) (poison : Bool) : MemSys :=
  (granUnits g (granBase g dpa)).foldl
    (fun m a => m.setUnit a { gc := BitVec.ofNat 3 g, poison := poison, errs := [] }) m

/-- GRANULE_READ at the controller (02 R39, R47): the bytes, and whether they are poisoned. -/
def State.granRead (s : State) (g dpa : Nat) : List Byte × Bool × State :=
  (Memory.read s.mem.bytes (granBase g dpa) (granBytes g), s.mem.poisoned g dpa, s.countGran g dpa)

/-- A write of a whole granule: no read, and poison is cleared unless the data is itself poisoned (02 R39, R49, R50). -/
def MemSys.granWrite (m : MemSys) (g dpa : Nat) (data : List Byte) (poison : Bool) : MemSys :=
  { m.setGran g dpa poison with bytes := Memory.write m.bytes (granBase g dpa) data }

/-- A partial write (02 R39, R50): bit i of `mask` writes byte i of the granule. Answers whether a substitution was made for
the writing context. -/
def State.granPartial (s : State) (g dpa : Nat) (et : Bool) (mask : Nat) (data : List Byte) : Bool × State :=
  let base := granBase g dpa
  if s.mem.poisoned g dpa then
    if et then
      (true, (s.countGran g dpa).modMem fun m =>
        { m.setGran g dpa false with
          bytes := Memory.writeMasked (Memory.write m.bytes base (List.replicate (granBytes g) 0)) base mask data })
    else
      (false, s.modMem fun m =>
        let gmm := decide (m.granState g dpa = .mismatch)
        let m' := { m.setGran g dpa true with bytes := Memory.writeMasked m.bytes base mask data }
        m'.modStack dpa fun k => { k.countUe with pzw := true, gmm := k.gmm || gmm })
  else
    let s := s.countGran g dpa
    (false, s.modMem fun m => { m.setGran g dpa false with bytes := Memory.writeMasked m.bytes base mask data })

/-- Write `data` at `dpa` inside one granule, whole or partial as it covers the granule. -/
def State.granStore (s : State) (g dpa : Nat) (et : Bool) (data : List Byte) : Bool × State :=
  if data.length = granBytes g ∧ dpa % granBytes g = 0 then (false, s.modMem fun m => m.granWrite g dpa data false)
  else
    let o := dpa % granBytes g
    s.granPartial g dpa et ((2 ^ data.length - 1) * 2 ^ o) (List.replicate o 0 ++ data)

/-- Cut [dpa, dpa + n) at the boundaries of size `b`: pieces (address, offset, length). -/
def pieces (b : Nat) : Nat → Nat → Nat → Nat → List (Nat × Nat × Nat)
  | 0, _, _, _ => []
  | fuel + 1, a, o, n =>
    if n = 0 then []
    else
      let k := min n (b - a % b)
      (a, o, k) :: pieces b fuel (a + k) (o + k) (n - k)

def cutAt (b a n : Nat) : List (Nat × Nat × Nat) := pieces b (n / b + 2) a 0 n

/-- Write bytes at a DPA through the controller, granule by granule; answers the substitutions made (02 R50). -/
def State.dpaWrite (s : State) (g dpa : Nat) (et : Bool) (data : List Byte) : Nat × State :=
  (cutAt (granBytes g) dpa data.length).foldl
    (fun (p : Nat × State) c =>
      let r := p.2.granStore g c.1 et ((data.drop c.2.1).take c.2.2)
      (p.1 + b2n r.1, r.2)) (0, s)

/-- Read bytes at a DPA through the controller: the bytes as stored, the bases of the poisoned granules, and the counts. -/
def State.dpaRead (s : State) (g dpa n : Nat) : List Byte × List Nat × State :=
  let cs := cutAt (granBytes g) dpa n
  (Memory.read s.mem.bytes dpa n,
    (cs.filter fun c => s.mem.poisoned g c.1).map (fun c => granBase g c.1),
    cs.foldl (fun s c => s.countGran g c.1) s)

/-! ## Performing a request, and the queues of a stack (02 R39, R40, R50, R53, R55) -/

def MemReq.size (r : MemReq) : Nat := granBytes r.gran.toNat

/-- Add to SUBST of an agent (02 R50, R51). -/
def State.addSubst (s : State) (agent n : Nat) : State :=
  if h : agent / 4 < 192 then
    s.modCtxAt ⟨agent / 4, h⟩ ⟨agent % 4, Nat.mod_lt _ (by decide)⟩ fun c => { c with subst := satAdd c.subst n }
  else s

/-- The access itself, atomic at the controller (02 R40). -/
def State.performReq (s : State) (r : MemReq) : State :=
  let g := r.gran.toNat
  match r.op with
  | .read => s.countGran g r.dpa
  | .write data => s.modMem fun m => m.granWrite g r.dpa ((bytesOf 512 data).take r.size) false
  | .partialWrite et agent mask data =>
    let t := s.granPartial g r.dpa et (mask.toNat % 2 ^ r.size) ((bytesOf 512 data).take r.size)
    if t.1 then t.2.addSubst agent 1 else t.2

/-- Pseudo-channels whose queues a request enters: first and number (02 R38, R53). -/
def MemReq.queues (r : MemReq) : Nat × Nat := (pseudoChannel (granBase r.gran.toNat r.dpa), 2 ^ r.gran.toNat)

/-- Two requests share a queue. -/
def MemReq.shares (a b : MemReq) : Bool :=
  decide (a.queues.1 < b.queues.1 + b.queues.2) && decide (b.queues.1 < a.queues.1 + a.queues.2)

def MemSys.stackAt (m : MemSys) (k : Nat) : Stack := getIdx m.stk k Stack.reset

/-- An older request that is reserving, or one for the same granule, stands before a request (02 R40, R55). -/
def reqHeld (older : List MemReq) (r : MemReq) : Bool :=
  older.any fun o => o.shares r && (o.reserving || (decide (o.dpa < r.dpa + r.size) && decide (r.dpa < o.dpa + o.size)))

/-- Requests that arrived before request `id`. -/
def olderThan (id : Nat) (l : List MemReq) : List MemReq := l.takeWhile fun r => r.id != id

/-- An access of class `g` to [dpa, dpa + n) would stand behind a waiting request in a queue of its stack: it waits until that has
issued. One that nothing holds enters its queues and issues at once (02 R40, R53, R55; log entry 77). -/
def MemSys.queued (m : MemSys) (g dpa n : Nat) : Bool :=
  let reqs := (m.stackAt (stackOf dpa)).reqs
  !reqs.isEmpty && (cutAt (granBytes g) dpa n).any fun c =>
    reqHeld reqs { id := 0, dpa := granBase g c.1, gran := BitVec.ofNat 3 g, op := .read, reserving := false }

/-- Bytes with those of poisoned granules taken as zero (02 R51), but for those at the addresses that `keep` names. -/
def zeroPoison (g dpa : Nat) (bad : List Nat) (keep : Nat → Bool) (data : List Byte) : List Byte :=
  data.zipIdx.map fun p => if bad.contains (granBase g (dpa + p.2)) && !keep (dpa + p.2) then 0 else p.1

/-- The controller reads granules: those of them that are poisoned, and the counts. -/
def State.granReads (s : State) (g : Nat) (bases : List Nat) : List Nat × State :=
  (bases.filter fun a => s.mem.poisoned g a, bases.foldl (fun s a => s.countGran g a) s)

/-- An access that changes nothing meets a poisoned granule and is told so: a mismatch or an uncorrectable granule counts as at any read,
and stored poison counts too (15 R442). -/
def State.countPoison (s : State) (g dpa : Nat) : State :=
  if s.mem.granState g dpa = .stored then s.modMem fun m => m.modStack dpa Stack.countUe else s.countGran g dpa

end Sys2Proof.Machine
end

