-- ==== Sys2Proof/Machine/Numbers.lean ====
section
/-! DEFINITION. Number formats, rounding and the helper functions of the pseudocode (11 R256 to R263, R268 to R270), with the
exact values of the approximations (14 R341; log entry 12). -/

namespace Sys2Proof.Machine

/-! ## Formats (11 R256, R257) -/

/-- A float format: exponent and mantissa bits, and whether it has infinities. -/
structure Flt where
  eb : Nat
  mb : Nat
  hasInf : Bool
  deriving DecidableEq, Repr

def e4m3 : Flt := ⟨4, 3, false⟩
def e5m2 : Flt := ⟨5, 2, true⟩
def f16 : Flt := ⟨5, 10, true⟩
def bf16 : Flt := ⟨8, 7, true⟩
def f32 : Flt := ⟨8, 23, true⟩

/-- The float format of a FMT code; none for integer formats. -/
def fltOf (fmt : Nat) : Option Flt :=
  match fmt with
  | 4 => some e4m3
  | 5 => some e5m2
  | 6 => some f16
  | 7 => some bf16
  | 8 => some f32
  | _ => none

/-- Bits of an element of a FMT code. -/
def fmtBits (fmt : Nat) : Nat :=
  match fmt with
  | 0 => 4
  | 1 => 4
  | 6 => 16
  | 7 => 16
  | 8 => 32
  | 9 => 32
  | _ => 8

/-- Signed integer formats i4, i8, i32. -/
def fmtSigned (fmt : Nat) : Bool := fmt == 0 || fmt == 2 || fmt == 9

def isIntFmt (fmt : Nat) : Bool := fmt ≤ 3 || fmt == 9

namespace Flt

def bits (F : Flt) : Nat := 1 + F.eb + F.mb
def bias (F : Flt) : Nat := 2 ^ (F.eb - 1) - 1
/-- The exponent of the last bit of a subnormal. -/
def emin (F : Flt) : Int := 1 - (F.bias : Int) - (F.mb : Int)
/-- The largest finite encoding without its sign. -/
def maxFinite (F : Flt) : Nat := if F.hasInf then (2 ^ F.eb - 1) * 2 ^ F.mb - 1 else 2 ^ (F.eb + F.mb) - 2
/-- The encoding of infinity without its sign; used only for formats that have one. -/
def infBits (F : Flt) : Nat := (2 ^ F.eb - 1) * 2 ^ F.mb
def cnan (F : Flt) : Nat := if F.hasInf then F.infBits + 2 ^ (F.mb - 1) else 2 ^ (F.eb + F.mb) - 1
def withSign (F : Flt) (neg : Bool) (x : Nat) : Nat := x + (if neg then 2 ^ (F.eb + F.mb) else 0)

end Flt

/-! ## Exact values -/

/-- An exact value: NaN, an infinity, or (−1)^neg × m × 2^e. With `more`, the magnitude lies strictly between m × 2^e and
(m + 1) × 2^e. -/
inductive Num where
  | nan
  | inf (neg : Bool)
  | fin (neg : Bool) (m : Nat) (e : Int) (more : Bool)
  deriving DecidableEq, Repr

namespace Num

def zero : Num := .fin false 0 0 false
def ofInt (x : Int) : Num := .fin (decide (x < 0)) x.natAbs 0 false
def isNan : Num → Bool
  | .nan => true
  | _ => false
def isZero : Num → Bool
  | .fin _ m _ more => m == 0 && !more
  | _ => false
def isNeg : Num → Bool
  | .nan => false
  | .inf n => n
  | .fin n _ _ _ => n
def neg : Num → Num
  | .nan => .nan
  | .inf n => .inf (!n)
  | .fin n m e t => .fin (!n) m e t

/-- Product (IEEE 754: NaN for NaN or ∞ × 0); exact for exact factors. -/
def mul : Num → Num → Num
  | .nan, _ => .nan
  | _, .nan => .nan
  | .inf a, .inf b => .inf (a != b)
  | .inf a, .fin b m _ _ => if m = 0 then .nan else .inf (a != b)
  | .fin a m _ _, .inf b => if m = 0 then .nan else .inf (a != b)
  | .fin a m e _, .fin b n f _ => .fin (a != b) (m * n) (e + f) false

/-- Integer numerator of an exact value over 2^e0, for e0 at most its exponent. -/
def scaled (e0 : Int) : Num → Int
  | .fin n m e _ => (if n then -1 else 1) * ((m * 2 ^ (e - e0).toNat : Nat) : Int)
  | _ => 0

/-- The smallest exponent among exact values. -/
def minExp (l : List Num) : Int :=
  l.foldl (fun acc x => match x with
    | .fin _ m e _ => if m = 0 then acc else min acc e
    | _ => acc) 0

/-- Exact sum of a list, with the sign rule of an exact zero under rounding mode `m` (11 R259): it keeps the sign when every
addend is a zero of that sign. -/
def sum (mode : Nat) (l : List Num) : Num :=
  if l.any isNan then .nan
  else if l.any (· == .inf false) && l.any (· == .inf true) then .nan
  else if l.any (· == .inf false) then .inf false
  else if l.any (· == .inf true) then .inf true
  else
    let e0 := minExp l
    let n : Int := (l.map (scaled e0)).foldl (· + ·) 0
    if n = 0 then
      if !l.isEmpty && l.all (fun x => x.isZero && x.isNeg) then .fin true 0 0 false
      else if !l.isEmpty && l.all (fun x => x.isZero && !x.isNeg) then .fin false 0 0 false
      else .fin (mode == 4) 0 0 false
    else .fin (decide (n < 0)) n.natAbs e0 false

def add (mode : Nat) (a b : Num) : Num := sum mode [a, b]

/-- −1, 0 or 1 as a is below, equal to or above b, for values that are not NaN; zeros are equal. -/
def cmp (a b : Num) : Int :=
  let rank : Num → Int
    | .inf true => -2
    | .inf false => 2
    | _ => 0
  if rank a ≠ 0 ∨ rank b ≠ 0 then (if rank a < rank b then -1 else if rank b < rank a then 1 else 0)
  else
    let e0 := minExp [a, b]
    let x := scaled e0 a
    let y := scaled e0 b
    if x < y then -1 else if y < x then 1 else 0

/-- IEEE 754 relation by code (14 R335): 0 eq, 1 ne, 2 lt, 3 le, 4 gt, 5 ge. -/
def rel (cc : Nat) (a b : Num) : Bool :=
  if a.isNan || b.isNan then cc == 1
  else
    let c := cmp a b
    match cc with
    | 0 => c == 0
    | 1 => c != 0
    | 2 => decide (c < 0)
    | 3 => decide (c ≤ 0)
    | 4 => decide (0 < c)
    | _ => decide (0 ≤ c)

/-- Length of a binary numeral. -/
def len (m : Nat) : Nat := if m = 0 then 0 else m.log2 + 1

/-- a / b for finite values, b not zero: 96 bits of quotient or more, and whether anything is left. -/
def divFin (na : Bool) (ma : Nat) (ea : Int) (nb : Bool) (mb : Nat) (eb : Int) : Num :=
  let k := 96 + len mb
  .fin (na != nb) (ma * 2 ^ k / mb) (ea - eb - k) (ma * 2 ^ k % mb != 0)

end Num

/-! ## Rounding (11 R259, R262) -/

/-- Whether a value with remainder `r` of `2 ^ sh`, and `more` beyond, is rounded away from zero; `odd` is the last bit kept. -/
def roundsUp (mode : Nat) (neg odd : Bool) (r sh : Nat) (more : Bool) : Bool :=
  let inexact := r != 0 || more
  let half := 2 ^ sh
  match mode with
  | 0 => decide (half < 2 * r) || (2 * r == half && (more || odd)) && decide (0 < sh)
  | 1 => decide (half ≤ 2 * r) && decide (0 < sh)
  | 2 => false
  | 3 => !neg && inexact
  | _ => neg && inexact

/-- Magnitude overflow (11 R259). -/
def Flt.overflow (F : Flt) (mode : Nat) (neg : Bool) : Nat :=
  if !F.hasInf then F.withSign neg F.maxFinite
  else
    match mode with
    | 0 => F.withSign neg F.infBits
    | 1 => F.withSign neg F.infBits
    | 2 => F.withSign neg F.maxFinite
    | 3 => F.withSign neg (if neg then F.maxFinite else F.infBits)
    | _ => F.withSign neg (if neg then F.infBits else F.maxFinite)

/-- `rnd(x, F, m)` (11 R262): the encoding of x rounded to F under mode m. -/
def rnd (F : Flt) (mode : Nat) : Num → Nat
  | .nan => F.cnan
  | .inf neg => if F.hasInf then F.withSign neg F.infBits else F.cnan
  | .fin neg m e more =>
    if m = 0 ∧ more = false then F.withSign neg 0
    else
      let p := F.mb + 1
      -- widen the value down to the format's smallest exponent, so that the rounding position is never below its last bit
      let g := (e - F.emin).toNat
      let m' := m * 2 ^ g
      let e' := e - g
      let q := max F.emin (e' + Num.len m' - p)
      let sh := (q - e').toNat
      let n := m' / 2 ^ sh
      let n' := if roundsUp mode neg (n % 2 == 1) (m' % 2 ^ sh) sh more then n + 1 else n
      let n'' := if n' = 2 ^ p then 2 ^ (p - 1) else n'
      let q' := if n' = 2 ^ p then q + 1 else q
      let x := if n'' < 2 ^ (p - 1) then n'' else (q' - F.emin).toNat * 2 ^ F.mb + n''
      if F.maxFinite < x then F.overflow mode neg else F.withSign neg x

/-- `rne(x, F)`. -/
def rne (F : Flt) (x : Num) : Nat := rnd F 0 x

/-- The value of an encoding (11 R257). -/
def Flt.val (F : Flt) (x : Nat) : Num :=
  let neg := bitN x (F.eb + F.mb)
  let E := bitsN x F.mb F.eb
  let M := bitsN x 0 F.mb
  if F.hasInf then
    if E = 2 ^ F.eb - 1 then (if M = 0 then .inf neg else .nan)
    else if E = 0 then .fin neg M F.emin false
    else .fin neg (2 ^ F.mb + M) (F.emin + E - 1) false
  else
    if bitsN x 0 (F.eb + F.mb) = 2 ^ (F.eb + F.mb) - 1 then .nan
    else if E = 0 then .fin neg M F.emin false
    else .fin neg (2 ^ F.mb + M) (F.emin + E - 1) false

/-- A subnormal vector float result is flushed to a zero of its sign when FTZ = 1 (11 R261). -/
def flush (F : Flt) (ftz : Bool) (x : Nat) : Nat :=
  if ftz && bitsN x F.mb F.eb == 0 then F.withSign (bitN x (F.eb + F.mb)) 0 else x

/-- `v` clamped to the range of integer format `fmt`, and whether it was clamped (`satf`, 11 R262). -/
def satf (fmt : Nat) (v : Int) : Int × Bool :=
  let b := fmtBits fmt
  let lo : Int := if fmtSigned fmt then -(2 ^ (b - 1) : Int) else 0
  let hi : Int := if fmtSigned fmt then (2 ^ (b - 1) : Int) - 1 else (2 ^ b : Int) - 1
  if v < lo then (lo, true) else if hi < v then (hi, true) else (v, false)

/-- `rshift_rne` (11 R262): v / 2^sh to the nearest integer, ties to even. -/
def rshiftRne (v : Int) (sh : Nat) : Int :=
  let q := v / (2 ^ sh : Int)
  let r := v % (2 ^ sh : Int)
  if (2 ^ sh : Int) < 2 * r then q + 1
  else if 2 * r = (2 ^ sh : Int) then (if q % 2 = 0 then q else q + 1)
  else q

/-- `rq(v, mul, sh, zo, F)` with its saturation flag (11 R262). -/
def rq (v mul : Int) (sh : Nat) (zo : Int) (fmt : Nat) : Int × Bool := satf fmt (rshiftRne (v * mul) sh + zo)

/-- A finite value rounded to an integer under a mode. -/
def roundInt (mode : Nat) (neg : Bool) (m : Nat) (e : Int) (more : Bool) : Int :=
  let mag : Nat :=
    if 0 ≤ e then m * 2 ^ e.toNat
    else
      let sh := (-e).toNat
      let n := m / 2 ^ sh
      if roundsUp mode neg (n % 2 == 1) (m % 2 ^ sh) sh more then n + 1 else n
  if neg then -(mag : Int) else mag

/-- `f2i(x, F, m)` (11 R262). -/
def f2i (fmt mode : Nat) : Num → Int
  | .nan => 0
  | .inf neg => (satf fmt (if neg then -(2 ^ 64 : Int) else 2 ^ 64)).1
  | .fin neg m e more => (satf fmt (roundInt mode neg m e more)).1

/-- An integer element as an exact value. -/
def intElem (fmt x : Nat) : Int := if fmtSigned fmt then sextN (fmtBits fmt) x else (x % 2 ^ fmtBits fmt : Nat)

/-- The exact value of an element of a FMT code (11 R256, R257). -/
def elemVal (fmt x : Nat) : Num :=
  match fltOf fmt with
  | some F => F.val x
  | none => Num.ofInt (intElem fmt x)

/-- Conversion between formats (11 R263): the raw destination element. -/
def convert (src dst mode x : Nat) : Nat :=
  match fltOf dst with
  | some F => rnd F mode (elemVal src x)
  | none => wrapN (fmtBits dst) (match fltOf src with
    | some F => f2i dst mode (F.val x)
    | none => (satf dst (intElem src x)).1)

/-! ## Minimum and maximum of floats (14 R333) -/

/-- The sign-ordered comparison of two values that are not NaN: −0 lies below +0. -/
def numBelow (a b : Num) : Bool :=
  let c := Num.cmp a b
  decide (c < 0) || (c == 0 && a.isNeg && !b.isNeg)

/-- Float minimum (`isMax = false`) or maximum of encodings; a NaN operand yields the other. -/
def fltMinMax (F : Flt) (isMax : Bool) (x y : Nat) : Nat :=
  let a := F.val x
  let b := F.val y
  if a.isNan && b.isNan then F.cnan
  else if a.isNan then y
  else if b.isNan then x
  else if numBelow a b != isMax then x else y

/-! ## Square roots, powers and logarithms (14 R341; log entry 12) -/

/-- The bits of the integer square root of `x` from bit `i − 1` down, given the bits above. -/
def isqrtFrom (x : Nat) : Nat → Nat → Nat
  | 0, r => r
  | i + 1, r => isqrtFrom x i (if (r + 2 ^ i) * (r + 2 ^ i) ≤ x then r + 2 ^ i else r)

def isqrt (x : Nat) : Nat := isqrtFrom x (Num.len x / 2 + 1) 0

/-- 1 / √x for a positive finite value. -/
def rsqrtFin (m : Nat) (e : Int) : Num :=
  let odd := e % 2 = 1
  let m' := if odd then 2 * m else m
  let e' := if odd then e - 1 else e
  let k := 96 + Num.len m'
  let r := isqrt (2 ^ (2 * k) / m')
  .fin false r (-(e' / 2) - k) (r * r * m' != 2 ^ (2 * k))

/-- Precision of the power and logarithm computations, in bits. -/
def expBits : Nat := 256

/-- The product of 2^(2^-i) over the fraction bits of `f`, from the most significant bit on, in fixed point; `c` is 2^(2^-i)
for the bit at hand, `w` the bits of `f` still to come. -/
def exp2Frac (f : Nat) : Nat → Nat → Nat → Nat
  | 0, _, acc => acc
  | w + 1, c, acc =>
    exp2Frac f w (isqrt (c * 2 ^ expBits)) (if bitN f w then acc * c / 2 ^ expBits else acc)

/-- 2^x for a finite value. Beyond the reach of every format the magnitude is replaced by one as large or as small. -/
def exp2Fin (neg : Bool) (m : Nat) (e : Int) : Num :=
  if m = 0 then .fin false 1 0 false
  else if 0 ≤ e ∧ 12 < e then .fin false 1 (if neg then -4096 else 4096) false
  else
    -- x = num / 2^w
    let w := (-e).toNat
    let num : Int := (if neg then -1 else 1) * ((m * 2 ^ e.toNat : Nat) : Int)
    let n := num / (2 ^ w : Int)
    let f := (num % (2 ^ w : Int)).toNat
    if 4096 ≤ n then .fin false 1 4096 false
    else if n ≤ -4096 then .fin false 1 (-4096) false
    else if f = 0 then .fin false 1 n false
    else
      let r := exp2Frac f w (isqrt (2 ^ (2 * expBits + 1))) (2 ^ expBits)
      .fin false (r / 2 ^ 20) (n - (expBits : Int) + 20) true

/-- Fraction bits of log2 of a fixed-point value `y` in [1, 2), most significant first. -/
def log2Frac : Nat → Nat → Nat → Nat
  | 0, _, acc => acc
  | i + 1, y, acc =>
    let z := y * y / 2 ^ 320
    if 2 ^ 321 ≤ z then log2Frac i (z / 2) (2 * acc + 1) else log2Frac i z (2 * acc)

/-- log2 of a positive finite value. -/
def log2Fin (m : Nat) (e : Int) : Num :=
  let l := Num.len m
  let n : Int := e + l - 1
  if m = 2 ^ (l - 1) then Num.ofInt n
  else
    let f := log2Frac 128 (m * 2 ^ (321 - l)) 0
    let x : Int := n * 2 ^ 128 + f
    if 0 ≤ x then .fin false x.toNat (-128) true else .fin true (x.natAbs - 1) (-128) true

/-- `v.rcp`, `v.rsq`, `v.exp2`, `v.log2` by number 0 to 3: the exact value (14 R341). -/
def approx (which : Nat) (x : Num) : Num :=
  match which, x with
  | _, .nan => .nan
  | 0, .inf n => .fin n 0 0 false
  | 0, .fin n m e _ => if m = 0 then .inf n else Num.divFin false 1 0 n m e
  | 1, .inf n => if n then .nan else Num.zero
  | 1, .fin n m e _ => if m = 0 then .inf n else if n then .nan else rsqrtFin m e
  | 2, .inf n => if n then Num.zero else .inf false
  | 2, .fin n m e _ => exp2Fin n m e
  | _, .inf n => if n then .nan else .inf false
  | _, .fin n m e _ => if m = 0 then .inf true else if n then .nan else log2Fin m e

/-! ## Accumulation (11 R266 to R270) -/

/-- `lx_val(e)` (11 R269): an LX entry with its tag P, N, Q. -/
def lxVal (v : Nat) (tag : Nat) : Num :=
  if bitN tag 2 || (bitN tag 0 && bitN tag 1) then .nan
  else if bitN tag 0 then .inf false
  else if bitN tag 1 then .inf true
  else
    let x := sextN 128 v
    .fin (decide (x < 0)) x.natAbs (-64) false

/-- `lx_add(e, p)` (11 R269): entry value and tag after adding an exact product. -/
def lxAdd (v tag : Nat) (p : Num) : Nat × Nat :=
  match p with
  | .nan => (v, tag ||| 4)
  | .inf false => (v, tag ||| 1)
  | .inf true => (v, tag ||| 2)
  | p => (wrapN 128 ((v : Int) + Num.scaled (-64) p), tag)

/-- `blk_f32` over at most 32 exact products (11 R270): the f32 encoding of the block sum. -/
def blkF32 (ps : List Num) : Nat :=
  if ps.any Num.isNan then f32.cnan
  else if ps.any (· == .inf false) && ps.any (· == .inf true) then f32.cnan
  else if ps.any (· == .inf false) then f32.infBits
  else if ps.any (· == .inf true) then f32.withSign true f32.infBits
  else if ps.all Num.isZero then (if ps.all Num.isNeg then f32.withSign true 0 else 0)
  else
    let top := ps.foldl (fun acc p => match p with
      | .fin _ m e _ => if m = 0 then acc else some (match acc with
          | some g => max g (e + Num.len m - 1)
          | none => e + Num.len m - 1)
      | _ => acc) (none : Option Int)
    let q := (top.getD 0) - 48
    -- trunc(p / 2^q): toward zero
    let trunc : Num → Int
      | .fin n m e _ =>
        let mag := if q ≤ e then m * 2 ^ (e - q).toNat else m / 2 ^ (q - e).toNat
        if n then -(mag : Int) else mag
      | _ => 0
    let total := (ps.map trunc).foldl (· + ·) 0
    if total = 0 then 0 else rne f32 (.fin (decide (total < 0)) total.natAbs q false)

/-- e + block under RNE (11 R270). -/
def f32Add (a b : Nat) : Nat := rne f32 (Num.add 0 (f32.val a) (f32.val b))

/-- The blocks of 32 of a list of products, in order. -/
def blocks32 (fuel : Nat) (ps : List Num) : List (List Num) :=
  match fuel with
  | 0 => []
  | n + 1 => if ps.isEmpty then [] else ps.take 32 :: blocks32 n (ps.drop 32)

/-! ## Packed strings of elements -/

/-- Elements of `w` bits, lowest first, as one number. -/
def packList (w : Nat) : List Nat → Nat
  | [] => 0
  | x :: xs => x % 2 ^ w + 2 ^ w * packList w xs

/-- Element `i` of `w` bits of a number. -/
def elemN (w x i : Nat) : Nat := bitsN x (w * i) w

/-- All ones in the elements of `w` bits that `keep` selects. -/
def maskList (w n : Nat) (keep : Nat → Bool) : Nat := packList w ((List.range n).map fun i => if keep i then 2 ^ w - 1 else 0)

end Sys2Proof.Machine
end

