-- ==== Sys2Proof/Machine/Translate.lean ====
section
/-! DEFINITION. Addresses: the five-level walk, page attributes, tensor shape records, tile tables and tensor windows
(09 R229 to R235, R441). Every access walks anew: no stale translation is used (log entry 14). -/

namespace Sys2Proof.Machine

/-- Causes that translation raises (08 R212). -/
def cSpadRange : Nat := 12
def cTranslation : Nat := 13
def cProtection : Nat := 14
def cPageAttr : Nat := 15
def cTsrRange : Nat := 16
def cTensorRange : Nat := 17

/-- A fault: cause number and INFO. -/
structure Trouble where
  cause : Nat
  info : Nat
  deriving DecidableEq, Repr

/-- On whose behalf an access is made: device context, TSR table, and whether U = 1 is needed (09 R234). -/
structure Who where
  dctx : Nat
  tsrt : Nat
  user : Bool
  deriving DecidableEq, Repr

/-- The permissions an access needs. -/
structure Need where
  r : Bool
  w : Bool
  x : Bool
  deriving DecidableEq, Repr

def needR : Need := ⟨true, false, false⟩
def needW : Need := ⟨false, true, false⟩
def needRW : Need := ⟨true, true, false⟩
def needX : Need := ⟨false, false, true⟩

/-! ## Entries (09 R233) -/

def peV (e : Nat) : Bool := bitN e 0
def peR (e : Nat) : Bool := bitN e 1
def peW (e : Nat) : Bool := bitN e 2
def peX (e : Nat) : Bool := bitN e 3
def peU (e : Nat) : Bool := bitN e 4
def peGran (e : Nat) : Nat := bitsN e 5 3
def peC (e : Nat) : Bool := bitN e 8
def peEt (e : Nat) : Bool := bitN e 9
def peRc (e : Nat) : Bool := bitN e 10
def peMg (e : Nat) : Bool := bitN e 11
def peFrame (e : Nat) : Nat := bitsN e 12 28 * 4096
def peLeaf (e : Nat) : Bool := bitN e 40
def peTw (e : Nat) : Bool := bitN e 41
def peReserved (e : Nat) : Bool := decide (e / 2 ^ 42 ≠ 0)

def entryAt (s : State) (dpa : Nat) : Nat := Memory.num s.mem.bytes dpa 8

/-- The permission test (09 R234). -/
def allows (e : Nat) (n : Need) (user : Bool) : Bool :=
  (!n.r || peR e) && (!n.w || peW e) && (!n.x || peX e) && (!user || peU e)

/-- Page attribute faults of an ordinary leaf of a page of `size` bytes (09 R234). -/
def leafBad (e size : Nat) : Bool :=
  peReserved e || !peLeaf e || peTw e || decide (5 ≤ peGran e) || !dpaExists (peFrame e) || decide (peFrame e % size ≠ 0) ||
    (!peC e && (peRc e || peMg e))

/-- Check a leaf for an access: no valid entry, permission, attributes, the lowest cause first (08 R211). -/
def checkLeaf (e size : Nat) (n : Need) (user : Bool) : Option Nat :=
  if !peV e then some cTranslation
  else if peLeaf e && !allows e n user then some cProtection
  else if leafBad e size then some cPageAttr
  else none

def placeOf (e dpaEntry size off : Nat) : Place where
  dpa := peFrame e + off
  gran := peGran e
  c := peC e
  et := peEt e
  rc := peRc e
  mg := peMg e
  w := peW e
  entry := dpaEntry
  size := size

/-- What the walk ends at: an ordinary leaf, or a tensor-window leaf. -/
inductive Walk where
  | bad (cause : Nat)
  | page (e entry size : Nat)
  | window (e : Nat)
  deriving DecidableEq, Repr

/-- One level of the walk: `lvl` 1 to 5, the table's DPA (09 R234). -/
def walkFrom (s : State) (va : Nat) : Nat → Nat → Nat → Walk
  | 0, _, _ => .bad cTranslation
  | fuel + 1, lvl, table =>
    let sh := 48 - 9 * (lvl - 1)
    let idx := if lvl = 1 then bitsN va 48 8 else bitsN va sh 9
    let a := table + 8 * idx
    if !dpaExists a then .bad cPageAttr
    else
      let e := entryAt s a
      if !peV e then .bad cTranslation
      else if peReserved e && !(peLeaf e && decide (3 ≤ lvl) && !peTw e) then .bad cPageAttr
      else if peLeaf e then
        if lvl ≤ 2 then .bad cPageAttr
        else if peTw e then
          (if decide (bitsN e 28 12 ≠ 0) || decide (5 ≤ peGran e) || (!peC e && (peRc e || peMg e)) then .bad cPageAttr
           else .window e)
        else .page e a (2 ^ sh)
      else if lvl = 5 then .bad cPageAttr
      else if decide (bitsN e 1 11 ≠ 0) || peTw e || !dpaExists (peFrame e) then .bad cPageAttr
      else walkFrom s va fuel (lvl + 1) (peFrame e)

/-- The walk from the root of a device context; level-1 entry 255 is never read (09 R218), and a VA has 56 bits (15 R347). -/
def walk (s : State) (dctx va : Nat) : Walk :=
  if 2 ^ 56 ≤ va ∨ bitsN va 48 8 = 255 then .bad cTranslation
  else walkFrom s va 5 1 ((s.dctxOf dctx).ptroot.toNat * 2 ^ 11)

/-! ## Shape records (09 R230, R231) -/

structure Tsr where
  fmt : Nat
  rank : Nat
  tc : Nat
  win : Bool
  six : Nat
  dims : List Nat
  ttp : Nat
  wbase : Nat
  deriving DecidableEq, Repr

/-- Extent of the last dimension, and elements of a tile (09 R231). -/
def tileBytes (tc : Nat) : Nat := 2 ^ (12 + tc % 16)
def tileElems (fmt tc : Nat) : Nat := 8 * tileBytes tc / fmtBits fmt
def lastExt (fmt rank tc : Nat) : Nat := if rank = 1 then tileElems fmt tc else 2 ^ (tc / 16 + 4)

/-- Extents of all dimensions. -/
def tileExts (fmt rank tc : Nat) : List Nat :=
  if rank = 1 then [tileElems fmt tc]
  else List.replicate (rank - 2) 1 ++ [tileElems fmt tc / lastExt fmt rank tc, lastExt fmt rank tc]

/-- A record from its 64 bytes; none when it is unused or malformed (09 R230, R231). -/
def Tsr.parse (bs : List Byte) : Option Tsr :=
  let x := natOfBytes bs
  let fld (o n : Nat) : Nat := bitsN x (8 * o) (8 * n)
  let fmt := fld 0 1
  let rank := fld 1 1
  let tc := fld 2 1
  let tf := fld 3 1
  let dims := (List.range 8).map fun i => fld (8 + 4 * i) 4
  let okDims := (dims.zipIdx.all fun p => if p.2 < rank then p.1 != 0 else p.1 == 0)
  let tb := tc % 16
  let xl := tc / 16
  let ok := decide (fmt ≤ 9) && decide (1 ≤ rank) && decide (rank ≤ 8) && decide (tb ≤ 9) &&
    (if rank = 1 then xl == 0 else decide (2 ^ (xl + 4) ≤ tileElems fmt tc)) &&
    decide (tf < 2) && decide (fld 4 2 < 4096) && fld 6 2 == 0 && okDims &&
    decide (fld 40 8 < 2 ^ 56) && fld 40 8 % 8 == 0 && decide (fld 48 8 < 2 ^ 56) && fld 48 8 % tileBytes tc == 0 &&
    fld 60 4 == 0
  if ok then
    some { fmt := fmt, rank := rank, tc := tc, win := tf % 2 == 1, six := fld 4 2, dims := dims.take rank, ttp := fld 40 8,
           wbase := fld 48 8 }
  else none

/-- Tiles along each dimension, and their product. -/
def Tsr.grid (t : Tsr) : List Nat := List.zipWith ceilDiv t.dims (tileExts t.fmt t.rank t.tc)
def Tsr.tiles (t : Tsr) : Nat := t.grid.foldl (· * ·) 1
def Tsr.size (t : Tsr) : Nat := tileBytes t.tc

/-- Tile number and bit offset in the tile of a coordinate (09 R232). -/
def Tsr.locate (t : Tsr) (xs : List Nat) : Nat × Nat :=
  let ext := tileExts t.fmt t.rank t.tc
  let tile := ((xs.zip ext).zip t.grid).foldl (fun acc p => acc * p.2 + p.1.1 / p.1.2) 0
  let xl := xs.getLastD 0
  let el := ext.getLastD 1
  let inner := xl % el + (if 2 ≤ t.rank then
    (xs.getD (t.rank - 2) 0 % ext.getD (t.rank - 2) 1) * el else 0)
  (tile, inner * fmtBits t.fmt)

/-! ## Translation -/

/-- Translate one address. `depth` counts down the tensor windows that a structure read itself passes through, one behind another: as
many as there are tensors. Structures that lie in each other's windows without end have no translation (log entry 14). -/
def translateFrom (s : State) : Nat → Who → Need → Nat → Except Trouble Place
  | 0, _, _, va => .error ⟨cTranslation, va⟩
  | depth + 1, who, n, va =>
    match walk s who.dctx va with
    | .bad c => .error ⟨c, va⟩
    | .page e entry size =>
      match checkLeaf e size n who.user with
      | some c => .error ⟨c, va⟩
      | none => .ok (placeOf e entry size (va % size))
    | .window tw =>
      let id := bitsN tw 12 16
      -- R441: the TSR, then the record itself, then the window, then the tile-table entry
      let rec8 (a : Nat) (k : Nat) : Except Trouble (List Byte) :=
        match translateFrom s depth who needR a with
        | .error t => .error t
        | .ok p => .ok (Memory.read s.mem.bytes p.dpa k)
      match rec8 (who.tsrt + 64 * id) 64 with
      | .error t => .error t
      | .ok bs =>
        match Tsr.parse bs with
        | none => .error ⟨cTensorRange, va⟩
        | some t =>
          if !t.win || decide (va < t.wbase) || decide (t.wbase + t.tiles * t.size ≤ va) then .error ⟨cTranslation, va⟩
          else
            let tile := (va - t.wbase) / t.size
            match translateFrom s depth who needR (t.ttp + 8 * tile) with
            | .error t => .error t
            | .ok p =>
              let e := entryAt s p.dpa
              match checkLeaf e t.size n who.user with
              | some c => .error ⟨c, va⟩
              | none =>
                if peGran e ≠ peGran tw then .error ⟨cPageAttr, va⟩
                else .ok (placeOf e p.dpa t.size ((va - t.wbase) % t.size))

def translate (s : State) (who : Who) (n : Need) (va : Nat) : Except Trouble Place := translateFrom s 65536 who n va

/-- Of several faults, the lowest cause, and with it the lowest address (08 R211, 15 R357). -/
def worst (l : List Trouble) : Option Trouble :=
  l.foldl (fun acc t => match acc with
    | none => some t
    | some u => if t.cause < u.cause ∨ (t.cause = u.cause ∧ t.info < u.info) then some t else some u) none

/-- Faults and segments of a list of translations. -/
def gatherSegs (l : List (Except Trouble Seg)) : Except Trouble (List Seg) :=
  match worst (l.filterMap fun x => match x with
    | .error t => some t
    | .ok _ => none) with
  | some t => .error t
  | none => .ok (l.filterMap fun x => match x with
    | .ok g => some g
    | .error _ => none)

/-- The segments of those translations that do not fault. -/
def reached (l : List (Except Trouble Seg)) : List Seg := l.filterMap fun x => x.toOption

/-- The pieces of a flat range, page by page. -/
def rangePieces (s : State) (who : Who) (n : Need) (va len : Nat) : List (Except Trouble Seg) :=
  (cutAt 4096 va len).map fun c =>
    match translate s who n c.1 with
    | .error t => .error t
    | .ok p => .ok ⟨c.1, p, c.2.1, c.2.2⟩

/-- Translate a range of a flat address, page by page (15 R347). -/
def translateRange (s : State) (who : Who) (n : Need) (va len : Nat) : Except Trouble (List Seg) :=
  gatherSegs (rangePieces s who n va len)

/-- Read the shape record of a tensor (09 R441). -/
def readTsr (s : State) (who : Who) (id : Nat) : Except Trouble Tsr :=
  if 65536 ≤ id then .error ⟨cTsrRange, id⟩
  else
    match translate s who needR (who.tsrt + 64 * id) with
    | .error t => .error t
    | .ok p =>
      match Tsr.parse (Memory.read s.mem.bytes p.dpa 64) with
      | some t => .ok t
      | none => .error ⟨cTensorRange, who.tsrt + 64 * id⟩

/-- Translate tile `tile` of a tensor (09 R233, R441); `va` is what INFO holds when the entry itself refuses. -/
def translateTile (s : State) (who : Who) (n : Need) (t : Tsr) (tile va : Nat) : Except Trouble Place :=
  match translate s who needR (t.ttp + 8 * tile) with
  | .error x => .error x
  | .ok p =>
    let e := entryAt s p.dpa
    match checkLeaf e t.size n who.user with
    | some c => .error ⟨c, va⟩
    | none => .ok (placeOf e p.dpa t.size 0)

/-- The local aperture (09 R218). -/
def apertureBase : Nat := 0xFF * 2 ^ 48
def inAperture (va : Nat) : Bool := bitsN va 48 16 == 0xFF

/-- Offset in the scratchpad of an aperture address, when it lies in a team of `spad` units (09 R218). -/
def apertureOff (va spad len : Nat) : Option Nat :=
  let x := va % 2 ^ 48
  if x + len ≤ spad * 2 ^ 17 then some x else none

end Sys2Proof.Machine
end

