-- ==== Sys2Proof/Machine/Coherence.lean ====
section
/-! DEFINITION. The directory, the dies' copies, race slots, epochs, lines of C = 0 pages and the hot tables (03 R60 to R84). A
core's or engine's access applies the transitions of R66 as one transaction; the message events of R65 apply them one by one
with the same functions. -/

namespace Sys2Proof.Machine

/-! ## Homes and sets (03 R60, R63) -/

/-- Home stack of a line number DPA / 128. -/
def homeOf (line : Nat) : Nat := line / 2 ^ 29

/-- Set index a[23:7] ⊕ a[35:24] of a line. -/
def dirSet (line : Nat) : Nat := bitsN line 0 17 ^^^ bitsN line 17 12

def MemSys.home (m : MemSys) (k : Nat) : Home := getIdx m.homes k Home.reset
def MemSys.modHome (m : MemSys) (k : Nat) (f : Home → Home) : MemSys := { m with homes := setIdx m.homes k (f (m.home k)) }

def DirEntry.fresh (line : Nat) : DirEntry where
  line := line
  st := .i
  shr := 0
  own := 0
  age := 15
  writer := none
  readers := []
  exts := []
  txn := none
  waiting := []
  dirty := none
  queue := []

/-- A race slot is open when its epoch is its agent's current one (03 R72). -/
def MemSys.slotOpen (m : MemSys) (x : RaceSlot) : Bool := decide (getIdx m.epochs x.agent 0 = x.epoch)

/-- Every reader slot of a line: those of its entry, then those of its extension entries (03 R74). -/
def DirEntry.allReaders (e : DirEntry) : List RaceSlot := e.readers ++ e.exts.flatMap (·.slots)

def MemSys.openReaders (m : MemSys) (e : DirEntry) : List RaceSlot := e.allReaders.filter m.slotOpen
def MemSys.extOpen (m : MemSys) (x : DirExt) : Bool := x.slots.any m.slotOpen
def MemSys.openWriter (m : MemSys) (e : DirEntry) : Option RaceSlot := e.writer.filter m.slotOpen
def MemSys.hasOpen (m : MemSys) (e : DirEntry) : Bool := (m.openWriter e).isSome || !(m.openReaders e).isEmpty

def DirSt.stable : DirSt → Bool
  | .i => true
  | .s => true
  | .em => true
  | _ => false

/-- One way of a directory set (03 R63): KIND, TAG, ST, SHR, OWN, AGE, the writer slot, and three reader slots, or the four of a race
extension entry. -/
structure DirWay where
  kind : Bool
  tag : Nat
  st : DirSt
  shr : BitVec 4
  own : Fin 4
  age : Nat
  wslot : Option RaceSlot
  rslots : List RaceSlot
  deriving DecidableEq, Repr

/-- The ways of a line: its line entry, and its race extension entries of the same tag (03 R63, R74). Stale slots are empty; an extension
entry with no open slot is free, and a line entry is neither free nor evictable while one of its extension entries holds an open slot
(log entry 5). -/
def MemSys.waysOf (m : MemSys) (e : DirEntry) : List DirWay :=
  let tag := bitsN e.line 17 12
  ⟨false, tag, e.st, e.shr, e.own, e.age, m.openWriter e, e.readers.filter m.slotOpen⟩ ::
    (e.exts.filter m.extOpen).map fun x => ⟨true, tag, .i, 0, 0, x.age, none, x.slots.filter m.slotOpen⟩

/-- Ways an entry takes. -/
def MemSys.ways (m : MemSys) (e : DirEntry) : Nat := (m.waysOf e).length

/-- Free: state I, no open slot, nothing under way (03 R70). -/
def MemSys.entryFree (m : MemSys) (e : DirEntry) : Bool := e.st == .i && !m.hasOpen e && e.txn.isNone && e.queue.isEmpty

/-- Entries of the line's set that are not free. -/
def MemSys.setOf (m : MemSys) (line : Nat) : List DirEntry :=
  (m.home (homeOf line)).dir.filter fun e => dirSet e.line == dirSet line && !m.entryFree e

/-- The lowest rank that no way of the line's set has: a way that is taken has it, before its use makes it 0 (03 R63). -/
def MemSys.freeRank (m : MemSys) (line : Nat) : Nat :=
  let ages := (m.setOf line).flatMap fun e => (m.waysOf e).map (·.age)
  ((List.range 16).find? fun n => !ages.contains n).getD 15

/-- The entry that holds a line, if one does that is not free. -/
def MemSys.entry? (m : MemSys) (line : Nat) : Option DirEntry :=
  (m.home (homeOf line)).dir.find? fun e => e.line == line && !m.entryFree e

def MemSys.entry (m : MemSys) (line : Nat) : DirEntry :=
  (m.entry? line).getD { DirEntry.fresh line with age := m.freeRank line }

/-- Store an entry, without extension entries that are free; one that is itself free leaves the directory, and so do the other free ones
of its set. -/
def MemSys.putEntry (m : MemSys) (e : DirEntry) : MemSys :=
  m.modHome (homeOf e.line) fun h =>
    let rest := h.dir.filter fun x => x.line != e.line && !(dirSet x.line == dirSet e.line && m.entryFree x)
    { h with dir := if m.entryFree e then rest else rest ++ [{ e with exts := e.exts.filter m.extOpen }] }

/-- The ways of the line's set that are younger than rank `old` grow one older (03 R63). -/
def MemSys.ageSet (m : MemSys) (line old : Nat) : MemSys :=
  let up (a : Nat) : Nat := if a < old then a + 1 else a
  let grow (e : DirEntry) : DirEntry := { e with age := up e.age, exts := e.exts.map fun x => { x with age := up x.age } }
  m.modHome (homeOf line) fun h => { h with dir := h.dir.map fun e => if dirSet e.line = dirSet line then grow e else e }

def MemSys.modEntry (m : MemSys) (line : Nat) (f : DirEntry → DirEntry) : MemSys :=
  m.modHome (homeOf line) fun h => { h with dir := modFirst (fun e => e.line == line) f h.dir }

/-- The most recent use of a line's entry: rank 0 (03 R63). -/
def MemSys.touch (m : MemSys) (line : Nat) : MemSys :=
  match m.entry? line with
  | none => m
  | some e => (m.ageSet line e.age).modEntry line fun e => { e with age := 0 }

/-- The most recent use of the extension entry that holds a slot. -/
def MemSys.touchExt (m : MemSys) (line : Nat) (slot : RaceSlot) : MemSys :=
  match (m.entry? line).bind fun e => e.exts.find? fun x => x.slots.contains slot with
  | none => m
  | some x => (m.ageSet line x.age).modEntry line fun e =>
      { e with exts := e.exts.map fun y => if y.slots.contains slot then { y with age := 0 } else y }

/-! ## What a die holds (03 R61, R64) -/

def MemSys.dieLine? (m : MemSys) (die line : Nat) : Option DieLine :=
  m.dieLines.find? fun x => x.die == die && x.line == line

def MemSys.dieSt (m : MemSys) (die line : Nat) : Option LineSt :=
  (m.dieLine? die line).map (·.st)

/-- Sectors of a line that a die holds (02 R39). -/
def MemSys.dieValid (m : MemSys) (die line : Nat) : BitVec 4 := ((m.dieLine? die line).map (·.valid)).getD 0

def MemSys.dropDie (m : MemSys) (die line : Nat) : MemSys :=
  { m with dieLines := m.dieLines.filter fun x => !(x.die == die && x.line == line) }

/-- A line as a die takes it, before anything says more of it. -/
def DieLine.fresh (die line : Nat) (st : LineSt) : DieLine where
  die := die
  line := line
  st := st
  slices := 0
  valid := 0
  bad := 0
  gran := 0
  et := false
  writer := 0

/-- A die's line gets a state, or goes. -/
def MemSys.setDie (m : MemSys) (die line : Nat) (st : Option LineSt) : MemSys :=
  let rest := m.dropDie die line
  match st with
  | none => rest
  | some st => { rest with dieLines := rest.dieLines ++ [{ (m.dieLine? die line).getD (DieLine.fresh die line st) with st := st }] }

def MemSys.modDieLine (m : MemSys) (die line : Nat) (f : DieLine → DieLine) : MemSys :=
  { m with dieLines := modFirst (fun x => x.die == die && x.line == line) f m.dieLines }

/-- The slice of a hall, among the twelve of its die. -/
def sliceBit (hall : Fin 48) : BitVec 12 := BitVec.ofNat 12 (2 ^ (hall.val % 12))

/-- A die keeps the sectors that a read asked for, under the class and ET of the read, in the slice of the hall that read. -/
def MemSys.addSectors (m : MemSys) (die line : Nat) (hall : Fin 48) (v : BitVec 4) (gran : Nat) (et : Bool) : MemSys :=
  m.modDieLine die line fun x => { x with
    slices := x.slices ||| sliceBit hall, valid := x.valid ||| v, bad := x.bad &&& ~~~v, gran := BitVec.ofNat 3 gran, et := et }

/-- Sectors of a line that [off, off + n) touches. -/
def sectorMask (off n : Nat) : BitVec 4 :=
  BitVec.ofNat 4 (((List.range 4).map fun i => if off < 32 * i + 32 ∧ 32 * i < off + n then 2 ^ i else 0).foldl (· + ·) 0)

/-- Change the cores of one die. -/
def State.modDieCores (s : State) (die : Nat) (f : Core → Core) : State :=
  { s with cores := s.cores.mapIdx fun i c => if i / 48 = die then f c else c }

/-- A die loses its copy, and with it every L1 copy in that die (03 R61). -/
def State.dropLine (s : State) (die line : Nat) : State :=
  let s := s.modMem fun m => m.setDie die line none
  s.modDieCores die fun c => { c with l1 := c.l1.filter fun x => x.line != line }

/-- Dies of a sharer vector. -/
def diesOf (v : BitVec 4) : List Nat := (List.range 4).filter fun i => v.getLsbD i

def dieBit (d : Nat) : BitVec 4 := BitVec.ofNat 4 (2 ^ (d % 4))

/-- Every die that holds the line by the entry. -/
def DirEntry.holders (e : DirEntry) : List Nat :=
  match e.st with
  | .s => diesOf e.shr
  | .em => [e.own.val]
  | _ => []

/-! ## Write versions and hot tables (03 R79, R81) -/

/-- The page of a hot-table entry holds the line. -/
def HotPage.holds (p : HotPage) (line : Nat) : Bool :=
  line * 128 / (if p.big then 2 ^ 21 else 4096) == p.page / (if p.big then 2 ^ 21 else 4096)

def State.modHot (s : State) (line : Nat) (f : HotPage → HotPage) : State :=
  s.modMem fun m => m.modHome (homeOf line) fun h => { h with hot := modFirst (·.holds line) f h.hot }

/-- A grant of EM, or an NcWr, changes the write version of the page (03 R66, R81). -/
def State.bumpVersion (s : State) (line : Nat) : State := s.modHot line fun p => { p with wver := p.wver + 1 }

def HotPage.fresh (page : Nat) (big : Bool) (entry : Nat) : HotPage where
  page := page
  big := big
  entry := entry
  counts := Vector.replicate 12 0
  wver := 0
  window := none
  moves := 0
  abandons := 0
  settled := false
  move := none
  blocked := false

/-- A line access of a remote wing to an MG page counts in its home's hot table; `entry` is the DPA of the translation entry that
the access carries, `size` the size of the page. A new page takes the place of the first entry that has no window and no move; R79 does
not say which of them gives way (DESIGN CHOICE, log entry 75). -/
def State.hotAccess (s : State) (wing line entry size : Nat) : State :=
  if wing == homeOf line || (size != 4096 && size != 2 ^ 21) then s
  else
    let h := s.mem.home (homeOf line)
    let count (x : HotPage) : HotPage := { x with counts := setIdx x.counts wing (getIdx x.counts wing 0 + 1), entry := entry }
    if h.hot.any (·.holds line) then s.modHot line count
    else
      let new := count (HotPage.fresh (line * 128 / size * size) (size == 2 ^ 21) entry)
      s.modMem fun m => m.modHome (homeOf line) fun h =>
        if h.hot.length < 256 then { h with hot := h.hot ++ [new] }
        else { h with hot := modFirst (fun x => x.window.isNone && x.move.isNone) (fun _ => new) h.hot }

def State.hotCount (s : State) (wing line : Nat) (p : Place) : State :=
  if p.mg then s.hotAccess wing line p.entry p.size else s

/-- The page of the line is blocked by a switch under way (03 R81). -/
def MemSys.blocked (m : MemSys) (line : Nat) : Bool :=
  (m.home (homeOf line)).hot.any fun p => p.holds line && p.blocked

/-- A request for the line would wait: for a transaction, a switch, or a writeback on its way (03 R66, R67, R69, R81). -/
def MemSys.lineBusy (m : MemSys) (line : Nat) : Bool :=
  !(m.entry line).st.stable || m.blocked line || m.wbPending.any fun x => x.2 == line

/-! ## Room for an entry (03 R70, R71) -/

inductive Room where
  | have_
  | recall (victim : Nat)
  | full
  deriving DecidableEq, Repr

def MemSys.usedWays (m : MemSys) (l : List DirEntry) : Nat := (l.map m.ways).foldl (· + ·) 0

/-- Evictable: stable, with no open race slot and nothing queued (03 R70). -/
def MemSys.evictable (m : MemSys) (e : DirEntry) : Bool := e.st.stable && !m.hasOpen e && e.queue.isEmpty

/-- Room for `extra` more ways in the line's set: free ways, or those of entries that can be recalled, the oldest first. -/
def MemSys.room (m : MemSys) (line extra : Nat) : Room :=
  let set := m.setOf line
  let old := set.filter fun e => m.evictable e && e.line != line
  if m.usedWays set + extra ≤ 16 then .have_
  else if 16 + m.usedWays old < m.usedWays set + extra then .full
  else
    match old.foldl (fun (acc : Option DirEntry) e => match acc with
        | none => some e
        | some b => if b.age < e.age then some e else some b) none with
    | some e => .recall e.line
    | none => .full

/-- Room in the set of `line` for all that one access wants there: its lines, with the further ways that each needs. A line of the
access is not recalled for another one. -/
def MemSys.roomFor (m : MemSys) (wants : List (Nat × Nat)) (line : Nat) : Bool :=
  let same := wants.filter fun w => homeOf w.1 == homeOf line && dirSet w.1 == dirSet line
  let set := m.setOf line
  let old := set.filter fun e => m.evictable e && !(same.any fun w => w.1 == e.line)
  decide (m.usedWays set + (same.map Prod.snd).foldl (· + ·) 0 ≤ 16 + m.usedWays old)

/-- DIRECTORY_RECALL: BackInv to every holder; the entry is then free. M data is in memory already: a store writes through
the coherent view (log entry 15). -/
def State.recall (s : State) (line : Nat) : State :=
  let e := s.mem.entry line
  let s := e.holders.foldl (fun s d => s.dropLine d line) s
  s.modMem fun m => m.modHome (homeOf line) fun h => { h with dir := h.dir.filter fun x => x.line != line }

/-- The ways a request for the line needs: one where no entry holds it that is not free (03 R70). -/
def MemSys.needWays (m : MemSys) (line : Nat) : Nat := if (m.entry? line).isSome then 0 else 1

/-- Make room, by one recall after another; the caller has checked that there is some. -/
def State.makeRoomFrom (line extra : Nat) : Nat → State → State
  | 0, s => s
  | n + 1, s =>
    match s.mem.room line extra with
    | .recall v => State.makeRoomFrom line extra n (s.recall v)
    | _ => s

def State.makeRoom (s : State) (line extra : Nat) : State := State.makeRoomFrom line extra 16 s

/-! ## C = 0 lines (03 R76, R77) -/

def MemSys.nc? (m : MemSys) (die line : Nat) : Option NcLine := m.nc.find? fun x => x.die == die && x.line == line

def MemSys.putNc (m : MemSys) (x : NcLine) : MemSys :=
  { m with nc := (m.nc.filter fun y => !(y.die == x.die && y.line == x.line)) ++ [x] }

def MemSys.lineData (m : MemSys) (line : Nat) : Line :=
  BitVec.ofNat 1024 (natOfBytes (Memory.read m.bytes (line * 128) 128))

/-- Write the bytes of one line that `mask` names, granule by granule under class `g`: a granule that is written whole is not read, any
other is a partial write (02 R39, R50). -/
def State.lineWrite (s : State) (g : Nat) (et : Bool) (agent line mask : Nat) (bytes : List Byte) : State :=
  (cutAt (min 128 (granBytes g)) (line * 128) 128).foldl
    (fun s c =>
      let mask := bitsN mask c.2.1 c.2.2
      if mask = 0 then s
      else
        let data := (bytes.drop c.2.1).take c.2.2
        if granBytes g ≤ 128 ∧ mask = 2 ^ granBytes g - 1 then s.modMem fun m => m.granWrite g c.1 data false
        else
          let o := c.1 % granBytes g
          let r := s.granPartial g c.1 et (mask * 2 ^ o) (List.replicate o 0 ++ data)
          if r.1 then r.2.addSubst agent 1 else r.2) s

/-- Write back the dirty bytes of one line as masked writes (03 R76, 02 R50). A substitution counts for the context that wrote the line
last, whoever wrote the other dirty bytes (DESIGN CHOICE, log entry 84). -/
def State.ncWriteback (s : State) (x : NcLine) : State :=
  (s.lineWrite x.gran x.et x.writer x.line x.dirty.toNat (bytesOf 128 x.data)).modMem fun m => m.putNc { x with dirty := 0 }

/-- A release fence at grid or system scope writes back the dirty C = 0 lines of the die (03 R77). -/
def State.ncFlush (s : State) (die : Nat) : State :=
  (s.mem.nc.filter fun x => x.die == die && x.dirty != 0).foldl State.ncWriteback s

/-- An acquire fence at grid or system scope invalidates the clean C = 0 lines of the die, in L2 and L1 (03 R77). -/
def State.ncInvalidate (s : State) (die : Nat) : State :=
  let held := s.mem.dieLines
  let s := s.modMem fun m => { m with nc := m.nc.filter fun x => !(x.die == die && x.dirty == 0) }
  s.modDieCores die fun c => { c with l1 := c.l1.filter fun x => held.any fun y => y.die == die && y.line == x.line }

/-! ## Room in an L2 (00 R4, R6) -/

/-- Lines that the slice of a hall holds: 8 MiB. -/
def l2Lines : Nat := 65536

/-- Lines that the slice `bit` of a die holds. -/
def MemSys.l2Held (m : MemSys) (die : Nat) (bit : BitVec 12) : Nat :=
  m.dieLines.countP (fun x => x.die == die && x.slices &&& bit != 0) + m.nc.countP fun x => x.die == die && x.slices &&& bit != 0

/-- A slice gives up a line (log entry 78). One that another slice of the die holds too stays the die's; else the die drops an S copy
without a message, an E or M copy with EvE or WbM as a whole transaction (03 R64), and of a line of a C = 0 page the dirty bytes are
written back (03 R76). -/
def State.l2Evict (s : State) (die : Nat) (bit : BitVec 12) : State :=
  match s.mem.dieLines.find? fun x => x.die == die && x.slices &&& bit != 0 && (x.st == .s || (s.mem.entry x.line).st.stable) with
  | some x =>
    if x.slices &&& ~~~bit ≠ 0 then s.modMem fun m => m.modDieLine die x.line fun y => { y with slices := y.slices &&& ~~~bit }
    else
      let s := s.dropLine die x.line
      if x.st = .s then s else s.modMem fun m => m.putEntry { m.entry x.line with st := .i, shr := 0 }
  | none =>
    match s.mem.nc.find? fun x => x.die == die && x.slices &&& bit != 0 with
    | none => s
    | some x =>
      if x.slices &&& ~~~bit ≠ 0 then s.modMem fun m => { m with nc := m.nc.map fun y =>
        if y.die == die && y.line == x.line then { y with slices := y.slices &&& ~~~bit } else y }
      else
        let s := if x.dirty = 0 then s else s.ncWriteback x
        (s.modMem fun m => { m with nc := m.nc.filter fun y => !(y.die == die && y.line == x.line) }).modDieCores die
          fun c => { c with l1 := c.l1.filter fun y => y.line != x.line }

/-- A slice gives up lines until it holds no more than it has room for: those that have stood unchanged longest go. -/
def State.l2TrimSlice (die : Nat) (bit : BitVec 12) : Nat → State → State
  | 0, s => s
  | n + 1, s => if s.mem.l2Held die bit ≤ l2Lines then s else State.l2TrimSlice die bit n (s.l2Evict die bit)

/-- Between two events of the part no slice holds more lines than it has room for (log entry 78). -/
def State.l2Trim (s : State) : State :=
  let n := s.mem.dieLines.length + s.mem.nc.length
  if n ≤ l2Lines then s
  else (List.finRange 48).foldl (fun s h => State.l2TrimSlice (h.val / 12) (sliceBit h) n s) s

/-! ## Whole transactions (03 R66) -/

/-- RdS by a die: afterwards it holds the line at least in S. -/
def State.cohRead (s : State) (die line : Nat) : State :=
  if (s.mem.dieSt die line).isSome then s
  else
    let s := s.makeRoom line (s.mem.needWays line)
    let e := s.mem.entry line
    let s := match e.st with
      | .em => s.modMem fun m => m.setDie e.own.val line (some .s)
      | _ => s
    let shr := match e.st with
      | .em => dieBit e.own.val ||| dieBit die
      | .s => e.shr ||| dieBit die
      | _ => dieBit die
    s.modMem fun m => ((m.putEntry { e with st := .s, shr := shr }).setDie die line (some .s)).touch line

/-- RdE or Upg by a die: afterwards it is the owner, and its copy is dirty. -/
def State.cohOwn (s : State) (die line : Nat) : State :=
  match s.mem.dieSt die line with
  | some .m => s
  | some .e => s.modMem fun m => m.setDie die line (some .m)
  | _ =>
    let s := s.makeRoom line (s.mem.needWays line)
    let e := s.mem.entry line
    let s := (e.holders.filter (· != die)).foldl (fun s d => s.dropLine d line) s
    let s := s.modMem fun m =>
      ((m.putEntry { e with st := .em, shr := 0, own := ⟨die % 4, Nat.mod_lt _ (by decide)⟩ }).setDie die line (some .m)).touch line
    s.bumpVersion line

/-- Bytes of a line that lie in the sectors of a mask. -/
def sectorBytes (v : BitVec 4) : Nat := ((List.range 4).map fun i => if v.getLsbD i then (2 ^ 32 - 1) * 2 ^ (32 * i) else 0).foldl (· + ·) 0

/-- The granules of class `g` that the sectors of a line lie in. -/
def sectorGrans (g line : Nat) (v : BitVec 4) : List Nat :=
  (((List.range 4).filter fun i => v.getLsbD i).map fun i => granBase g (line * 128 + 32 * i)).dedup

/-- Dirty data of an owner goes to memory: whole writes of the granules that it covers, read-modify-writes of wider ones (02 R39, R50).
Granules of sectors that the owner holds marked poisoned are written as poison with valid check symbols (02 R49). The sectors that it
does not hold stand in memory as they are. -/
def State.ownerWrite (s : State) (line : Nat) (o : OwnerData) : State :=
  let g := o.gran.toNat
  let s := s.lineWrite g o.et o.writer line (sectorBytes (~~~(o.bad ||| o.unheld))) (bytesOf 128 o.data)
  let s := (sectorGrans g line o.bad).foldl (fun s a => s.modMem fun m => m.setGran g a true) s
  s.modMem fun m => { m with bytes := Memory.write m.bytes (line * 128) (bytesOf 128 o.data) }

/-- What a die returns of a line that it holds. -/
def DieLine.owned (x : DieLine) (d : Line) : OwnerData where
  data := d
  bad := x.bad
  unheld := ~~~(x.valid ||| x.bad)
  gran := x.gran
  et := x.et
  writer := x.writer

/-- NcWr: every copy is invalidated (03 R66, R69). -/
def State.cohNcWrite (s : State) (line : Nat) : State :=
  let e := s.mem.entry line
  let s := e.holders.foldl (fun s d => s.dropLine d line) s
  (s.modMem fun m => m.putEntry { e with st := .i, shr := 0 }).bumpVersion line

/-! ## Race slots (03 R72 to R74) -/

inductive RegAns where
  | ok
  | race
  | full
  deriving DecidableEq, Repr

/-- Further ways of the line's set that a registration needs: an entry where there is none, and an extension entry for a reader that
finds no empty slot (03 R63, R74). -/
def MemSys.regWays (m : MemSys) (agent line : Nat) (write : Bool) : Nat :=
  let e := m.entry line
  let empty : Bool := (m.openReaders e).any (·.agent == agent) || decide ((e.readers.filter m.slotOpen).length < 3) ||
    e.exts.any fun x => m.extOpen x && decide ((x.slots.filter m.slotOpen).length < 4)
  m.needWays line + (if write || empty then 0 else 1)

/-- A reader takes a slot of the line: the one it has, else the first that is empty, else one of a new extension entry of rank `rank`
(03 R74). -/
def MemSys.addReader (m : MemSys) (e : DirEntry) (slot : RaceSlot) (rank : Nat) : DirEntry :=
  let mine := e.readers.filter m.slotOpen
  let room (x : DirExt) : Bool := m.extOpen x && decide ((x.slots.filter m.slotOpen).length < 4)
  let take (x : DirExt) : DirExt := { x with slots := x.slots.filter m.slotOpen ++ [slot] }
  if (m.openReaders e).contains slot then e
  else if mine.length < 3 then { e with readers := mine ++ [slot] }
  else if e.exts.any room then { e with exts := modFirst room take e.exts }
  else { e with exts := e.exts.filter m.extOpen ++ [⟨rank, [slot]⟩] }

/-- A writer clears its own reader slot of the line (03 R74). -/
def DirEntry.dropReader (e : DirEntry) (agent : Nat) : DirEntry :=
  { e with
    readers := e.readers.filter fun r => r.agent != agent
    exts := e.exts.map fun x => { x with slots := x.slots.filter fun r => r.agent != agent } }

/-- The answer to RegR or RegW by an agent (03 R74). -/
def MemSys.regAnswer (m : MemSys) (agent line : Nat) (write : Bool) : RegAns :=
  let e := m.entry line
  let wr := match m.openWriter e with
    | some w => w.agent != agent
    | none => false
  let rd := (m.openReaders e).any fun r => r.agent != agent
  if wr || (write && rd) then .race
  else
    match m.room line (m.regWays agent line write) with
    | .full => .full
    | _ => .ok

/-- Record a registration that was answered OK (03 R74). -/
def State.regRecord (s : State) (agent line : Nat) (write : Bool) : State :=
  let s := s.makeRoom line (s.mem.regWays agent line write)
  s.modMem fun m =>
    let e := m.entry line
    let slot : RaceSlot := ⟨agent, getIdx m.epochs agent 0⟩
    ((m.putEntry (if write then { e.dropReader agent with writer := some slot }
      else m.addReader e slot (m.freeRank line))).touchExt line slot).touch line

/-- The region filter shows the line as registered at least as strongly (03 R73). -/
def Ctx.filtered (c : Ctx) (line : Nat) (write : Bool) : Bool := c.filter.any fun p => p.1 == line && (p.2 || !write)

def Ctx.remember (c : Ctx) (line : Nat) (write : Bool) : Ctx :=
  let f := c.filter.filter (fun p => p.1 != line) ++ [(line, write)]
  { c with filter := if 64 < f.length then f.drop 1 else f }

/-- EPOCH_INCREMENT: the open region of a context closes (03 R72, R73). -/
def State.closeRegion (s : State) (core : Fin 192) (x : Fin 4) : State :=
  let a := agentOf core x
  (s.modMem fun m => { m with epochs := setIdx m.epochs a (getIdx m.epochs a 0 + 1) }).modCtxAt core x
    fun c => { c with filter := [] }

/-- An increment would return the epoch to the value recorded at the start of an unfinished pass (03 R75): the stack whose
pass stands in the way. -/
def MemSys.epochBlocked (m : MemSys) (agent : Nat) : Option Nat :=
  (List.range 12).find? fun k => decide (getIdx (m.home k).passEpochs agent 0 = getIdx m.epochs agent 0 + 1)

end Sys2Proof.Machine
end

