-- ==== Sys2Proof/Machine/Operands.lean ====
section
/-! DEFINITION. Every operand form: reading registers, last-result entries and latches, and sending results to their
destinations (08 R195, R197, R199 to R201, R210; 12 R284, R285). -/

namespace Sys2Proof.Machine

/-- What a latch names (08 R201): the result of `slot` issued `j` issue cycles ago, if its latency is at most `j + 1`; zero
in every other case. -/
def Ctx.latchRead (c : Ctx) (slot j : Nat) : VReg :=
  match c.latches.find? fun l => l.slot == slot && l.age == j with
  | some l => if decide (1 ≤ j) && decide (l.lat ≤ j + 1) then l.data else 0
  | none => 0

/-- A main scalar register: `s0` reads zero (08 R199). -/
def Ctx.sMain (c : Ctx) (n : Fin 64) : Word := if n = 0 then 0 else c.s.get n

/-- A scalar operand. -/
def Ctx.sGet (c : Ctx) : Opnd → Word
  | .main n => c.sMain n
  | .oper n => c.os.get n
  | .last n => (c.last.get n).setWidth 64
  | .latch slot j => (c.latchRead slot.val j.val).setWidth 64

/-- A vector operand. A scalar entry fills bits 63:0, so it reads as lanes 0 and 1 (08 R200). -/
def Ctx.vGet (c : Ctx) : Opnd → VReg
  | .main n => c.v.get n
  | .oper n => c.ov.get n
  | .last n => c.last.get n
  | .latch slot j => c.latchRead slot.val j.val

/-- A main mask register: `k0` reads all ones (08 R199). -/
def Ctx.kMain (c : Ctx) (n : Fin 8) : Word := if n = 0 then BitVec.allOnes 64 else c.k.get n

/-- A mask operand. No operand file holds masks (12 R284). -/
def Ctx.kGet (c : Ctx) : Opnd → Word
  | .main n => c.kMain ⟨n.val % 8, Nat.mod_lt _ (by decide)⟩
  | .oper _ => 0
  | .last n => (c.last.get n).setWidth 64
  | .latch slot j => (c.latchRead slot.val j.val).setWidth 64

/-- The predicate mask that MK names (12 R291). -/
def Ctx.pred (c : Ctx) (mk : BitVec 3) : Word := c.kMain mk.toFin

/-- Write a main scalar register: a write to `s0` is ignored (08 R199). -/
def Ctx.setS (c : Ctx) (n : Fin 64) (x : Word) : Ctx := if n = 0 then c else { c with s := c.s.set n.val x n.isLt }

/-- Write a main mask register: a write to `k0` is ignored (08 R199). -/
def Ctx.setK (c : Ctx) (n : Fin 8) (x : Word) : Ctx := if n = 0 then c else { c with k := c.k.set n.val x n.isLt }

def Ctx.setV (c : Ctx) (n : Fin 64) (x : VReg) : Ctx := { c with v := c.v.set n.val x n.isLt }

/-- Write the bits that `mask` selects into a vector value (14 R331). -/
def merge (old new mask : VReg) : VReg := (new &&& mask) ||| (old &&& ~~~mask)

/-- Write a destination register. Last-result entries and latches are never a destination (12 R284). -/
def Ctx.setDest (c : Ctx) (d : Dest) (data mask : VReg) : Ctx :=
  match d with
  | .s (.main n) => c.setS n (data.setWidth 64)
  | .s (.oper n) => { c with os := c.os.set n.val (data.setWidth 64) n.isLt }
  | .v (.main n) => c.setV n (merge (c.v.get n) data mask)
  | .v (.oper n) => { c with ov := c.ov.set n.val (merge (c.ov.get n) data mask) n.isLt }
  | .k (.main n) => c.setK ⟨n.val % 8, Nat.mod_lt _ (by decide)⟩ (data.setWidth 64)
  | .cq => { c with cq := c.cq ++ [data.getLsbD 0] }
  | _ => c

/-- A result enters `l.<slot>.0` and the old value moves to `l.<slot>.1` (08 R200). -/
def Ctx.pushLast (c : Ctx) (slot : Nat) (data : VReg) : Ctx :=
  let i : Fin 16 := ⟨2 * (slot % 8), by omega⟩
  let j : Fin 16 := ⟨2 * (slot % 8) + 1, by omega⟩
  { c with last := (c.last.set j.val (c.last.get i) j.isLt).set i.val data i.isLt }

/-- A result reaches its destination: last-result file, then the register unless WS = 1 (08 R195, R197, R200). A push onto
the condition queue enters no last-result entry (13 R314). -/
def Ctx.writeResult (c : Ctx) (slot : Nat) (d : Dest) (ws : Bool) (data mask : VReg) : Ctx :=
  match d with
  | .cq => c.setDest .cq data mask
  | .nowhere => c
  | d => if ws then c.pushLast slot data else (c.pushLast slot data).setDest d data mask

/-- Send a fixed-latency result on its way (08 R195, R201). -/
def Ctx.result (c : Ctx) (slot lat : Nat) (d : Dest) (ws : Bool) (data mask : VReg) (degen : Option Degen) : Ctx :=
  { c with
    pipe := c.pipe ++ [{ slot := slot, lat := lat, left := lat, dest := d, ws := ws, data := data, wmask := mask, degen := degen }]
    latches := if d = .cq then c.latches else c.latches ++ [{ slot := slot, age := 0, lat := lat, data := data }] }

/-- The slot number of a vector slot (12 R282). -/
def slotNum : VSlot → Nat
  | .va => 1
  | .vb => 2

/-- A scalar result of the context at issue. -/
def State.resultS (s : State) (slot lat : Nat) (d : Opnd) (ws : Bool) (x : Word) : State :=
  s.modCtx fun c => c.result slot lat (.s d) ws (x.setWidth 2048) (BitVec.allOnes 2048) none

/-- A mask result of the context at issue. -/
def State.resultK (s : State) (slot lat : Nat) (d : Opnd) (ws : Bool) (x : Word) : State :=
  s.modCtx fun c => c.result slot lat (.k d) ws (x.setWidth 2048) (BitVec.allOnes 2048) none

/-- A push onto the condition queue (08 R202). -/
def State.push (s : State) (slot lat : Nat) (b : Bool) : State :=
  s.modCtx fun c => c.result slot lat .cq false ((BitVec.ofBool b).setWidth 2048) (BitVec.allOnes 2048) none

/-- An interlocked result whose data is still to come (08 R197). -/
def LongResult.of (id slot : Nat) (d : Dest) (ws : Bool) (word : SlotWord) : LongResult where
  id := id
  slot := slot
  dest := d
  ws := ws
  data := none
  poison := false
  load := false
  va := 0
  word := word

/-- Open an interlocked result of the context at issue as `f` completes it, and give its number. -/
def State.openAs (s : State) (slot : Nat) (d : Dest) (ws : Bool) (f : LongResult → LongResult) : Nat × State :=
  let (id, s) := s.fresh
  (id, s.modCtx fun c => { c with long := c.long ++ [f (LongResult.of id slot d ws s.curWord)] })

/-- Open an interlocked result whose data is still to come. -/
def State.openLong (s : State) (slot : Nat) (d : Dest) (ws : Bool) : Nat × State := s.openAs slot d ws id

/-- Open an interlocked result whose data is known, and announce its arrival. -/
def State.openArrived (s : State) (slot : Nat) (d : Dest) (ws : Bool) (data : VReg) (f : LongResult → LongResult) : State :=
  let (id, s) := s.openAs slot d ws fun r => { f r with data := some data }
  s.post .interlockArrival { core := s.curCore, ctx := s.curCtx, id := id }

/-- Announce that an interlocked result of a context has its data (INTERLOCK_ARRIVAL). -/
def State.deliver (s : State) (core : Fin 192) (x : Fin 4) (id : Nat) (data : VReg) : State :=
  (s.modCtxAt core x fun c =>
      { c with long := modFirst (fun r => r.id == id) (fun r => { r with data := some data }) c.long }).post
    .interlockArrival { core := core, ctx := x, id := id }

/-- An interlocked result of the context at issue whose value is known at once. -/
def State.answer (s : State) (slot : Nat) (d : Dest) (ws : Bool) (x : Word) : State :=
  s.openArrived slot d ws (x.setWidth 2048) id

/-! ## Control registers (08 R208, R209) -/

/-- The status word: LDP, CQN and HM are read from what they count. -/
def Ctx.sw (c : Ctx) : Word :=
  let dslot : Nat := match c.deferred, c.wait with
    | some _, _ => 4
    | none, some _ => 7
    | none, none => 0
  BitVec.ofNat 64
    (c.cause.toNat * 2 ^ 50 + b2n c.hm * 2 ^ 49 + b2n (c.deferred.isSome || c.wait.isSome) * 2 ^ 48 + dslot * 2 ^ 45 +
      c.loops.length * 2 ^ 40 + c.cq.length * 2 ^ 32 + c.rm.toNat * 32 + b2n c.ftz * 16)

/-- A control register as it stands. -/
def Ctx.ctl (c : Ctx) (n : Nat) : Word :=
  match n with
  | 0 => c.sw
  | 1 => c.atb
  | 2 => c.rpln.setWidth 64
  | 3 => c.leaveStall.setWidth 64
  | 4 => c.subst.setWidth 64
  | 5 => c.gateDegen.setWidth 64
  | 6 => c.evl.setWidth 64
  | 7 => c.hp.setWidth 64
  | 8 => c.icnt
  | _ => 0

/-- What `s.setc` stores (13 R315). -/
def Ctx.setCtl (c : Ctx) (n : Nat) (a : Word) : Ctx :=
  match n with
  | 0 => { c with rm := if 5 ≤ (a.extractLsb' 5 3).toNat then 0 else a.extractLsb' 5 3, ftz := a.getLsbD 4 }
  | 1 => { c with atb := (a.setWidth 56).setWidth 64 >>> 6 <<< 6 }
  | 2 => { c with rpln := BitVec.ofNat 4 (min (a.setWidth 4).toNat 8) }
  | 3 => { c with leaveStall := a.setWidth 48 }
  | 4 => { c with subst := a.setWidth 48 }
  | 5 => { c with gateDegen := a.setWidth 48 }
  | 6 => { c with evl := a.setWidth 16 }
  | 7 => { c with hp := a.setWidth 11 }
  | _ => c

/-- A control register as the operations of the bundle at issue see it: a write by `s.setc` takes effect for the next
bundle, and the loop depth is that before the bundle's own pops (08 R194, R198, 13 R315). -/
def State.ctlRead (s : State) (n : Nat) : Word :=
  match s.ctlOld.find? fun p => p.1 == n with
  | some p => p.2
  | none => s.ctx.ctl n

/-- Rounding mode and FTZ in force for the bundle at issue (08 R208). -/
def State.rmNow (s : State) : Nat := ((s.ctlRead 0).extractLsb' 5 3).toNat
def State.ftzNow (s : State) : Bool := (s.ctlRead 0).getLsbD 4

/-! ## Registers that follow an operand -/

/-- The register `n` places after a register operand, in its own file (14 R337, 15 R361, 12 R292). -/
def regAfter (o : Opnd) (n : Nat) : Opnd :=
  match o with
  | .main m => .main ⟨(m.val + n) % 64, Nat.mod_lt _ (by decide)⟩
  | .oper m => .oper ⟨(m.val + n) % 16, Nat.mod_lt _ (by decide)⟩
  | o => o

/-! ## Interlocks (08 R197) -/

/-- A destination awaits an interlocked result. -/
def Ctx.awaits (c : Ctx) (d : Dest) : Bool := c.long.any fun r => !r.ws && r.dest == d

end Sys2Proof.Machine
end

