-- ==== Sys2Proof/Machine/Access.lean ====
section
/-! DEFINITION. Reading and writing memory for threads and engines: L1, dies, scratchpad, poison (09 R218, R220, R221; 10; 02 R49
to R51), footprint regions (06 R153, R156), and what may stand in an access's way (15 R356, R357). -/

namespace Sys2Proof.Machine

/-! ## Reads and writes of translated places -/

/-- What a read delivers: its bytes with poison of ET = 1 pages as zeros, the granules so replaced, and whether poison of an
ET = 0 page was met (02 R51). -/
structure Got where
  bytes : List Byte
  subst : List Nat
  poison : Bool
  deriving DecidableEq, Repr

def Got.empty : Got := ⟨[], [], false⟩
def Got.append (a b : Got) : Got := ⟨a.bytes ++ b.bytes, (a.subst ++ b.subst).dedup, a.poison || b.poison⟩

/-- A read as a consumer sees it, of which the granules `bad` came poisoned from the controller; the bytes at the addresses that `keep`
names came from elsewhere. -/
def gotOf (p : Place) (dpa : Nat) (bad : List Nat) (keep : Nat → Bool) (bytes : List Byte) : Got :=
  if bad.isEmpty then ⟨bytes, [], false⟩
  else if p.et then ⟨zeroPoison p.gran dpa bad keep bytes, bad, false⟩ else ⟨bytes, [], true⟩

/-- The controller reads the sectors `v` of a line, whole granules of class `g` (02 R39). -/
def State.fetch (s : State) (g line : Nat) (v : BitVec 4) : List Nat × State := s.granReads g (sectorGrans g line v)

/-- The sector of its line that a byte lies in is in a mask. -/
def inSectors (v : BitVec 4) (a : Nat) : Bool := v.getLsbD (a % 128 / 32)

/-- The wing whose core this is, as the number of its stack (00 R5). -/
def wingOf (c : Fin 192) : Nat := c.val / 16

/-- Replace bytes of a line. -/
def linePut (d : Line) (off : Nat) (bs : List Byte) : Line :=
  let old := bytesOf 128 d
  BitVec.ofNat 1024 (natOfBytes (old.take off ++ bs ++ old.drop (off + bs.length)))

/-- The bytes of a line as a die holds them: dirty bytes and valid sectors from `x`, the rest from `mem`. -/
def ncMerge (x : NcLine) (mem : Line) : Line :=
  let old := bytesOf 128 x.data
  BitVec.ofNat 1024 (natOfBytes ((bytesOf 128 mem).zipIdx.map fun p =>
    if x.dirty.getLsbD p.2 || x.valid.getLsbD (p.2 / 32) then old.getD p.2 0 else p.1))

/-- The bytes [dpa, dpa + n) of one line of a C = 0 page through a die (03 R76): what the die holds, and for sectors that it does not
hold what the controller returns. Answers the line with the sectors asked for, unless poison was met: a poisoned sector is not
kept (02 R39, R51). -/
def State.ncRead (s : State) (die : Nat) (p : Place) (dpa n : Nat) : Got × NcLine × Bool × State :=
  let line := dpa / 128
  let need := sectorMask (dpa % 128) n
  let x : NcLine := (s.mem.nc? die line).getD
    { die := die, line := line, slices := 0, valid := 0, dirty := 0, data := 0, gran := p.gran, et := p.et, writer := 0 }
  let d := ncMerge x (s.mem.lineData line)
  let slice := ((bytesOf 128 d).drop (dpa % 128)).take n
  let r := s.fetch p.gran line (need &&& ~~~x.valid)
  -- bytes that the die holds of a poisoned granule are its own
  let own (a : Nat) : Bool := inSectors x.valid a || x.dirty.getLsbD (a % 128)
  let clean := r.1.isEmpty
  (gotOf p dpa r.1 own slice, if clean then { x with data := d, valid := x.valid ||| need } else x, clean, r.2)

/-- Sectors of a line reach a core's L1, which holds `cacheUnits` units of 128 KiB; the line it has held longest makes room. -/
def Core.fillL1 (c : Core) (line : Nat) (w : Bool) (need : BitVec 4) (d : Line) : Core :=
  if c.cacheUnits = 0 then c
  else
    let x : L1Line := (c.l1.find? fun x => x.line == line).getD { line := line, w := w, valid := 0, data := 0 }
    let old := bytesOf 128 x.data
    let data : Line := BitVec.ofNat 1024 (natOfBytes ((bytesOf 128 d).zipIdx.map fun p =>
      if need.getLsbD (p.2 / 32) then p.1 else old.getD p.2 0))
    let rest := c.l1.filter fun x => x.line != line
    { c with
      l1 := rest.drop (rest.length + 1 - 1024 * c.cacheUnits) ++ [⟨line, w, x.valid ||| need, data⟩]
      l1Soft := c.l1Soft.filter fun l => l != line }

/-- A line was read from a core's L1: a corrected read is reported with SRC 2 (09 R227; log entry 82). -/
def State.l1Seen (s : State) (core : Fin 192) (line : Nat) : State :=
  if (s.coreAt core).l1Soft.contains line then
    (s.modCoreAt core fun c => { c with l1Soft := c.l1Soft.filter fun l => l != line }).corrected (dieOf core).val 1
  else s

/-- A line was read from a die's L2: a corrected read is reported with SRC 2 (04 R90; log entry 82). -/
def State.l2Seen (s : State) (die line : Nat) : State :=
  if s.mem.l2Soft.contains (die, line) then
    let t := s.modMem fun m => { m with l2Soft := m.l2Soft.filter fun p => p != (die, line) }
    if s.mem.dieValid die line = 0 && (s.mem.nc? die line).isNone then t else t.corrected die 1
  else s

/-- A load of `n` bytes inside one line by a core (09 R220): from its L1 unless it bypasses, else through the die. A load that the die
serves is a line access that carries its translation entry's DPA to the home; an L1 hit is none (DESIGN CHOICE, log entry 75: R79
does not say which accesses a home learns of). -/
def State.coreRead (s : State) (core : Fin 192) (bypass : Bool) (p : Place) (dpa n : Nat) : Got × State :=
  let line := dpa / 128
  let need := sectorMask (dpa % 128) n
  match (if bypass then none else (s.coreAt core).l1.find? fun x => x.line == line && x.valid &&& need == need) with
  | some x => (⟨((bytesOf 128 x.data).drop (dpa % 128)).take n, [], false⟩, s.l1Seen core line)
  | none =>
    let die := (dieOf core).val
    let s := (s.hotCount (wingOf core) line p).l2Seen die line
    let fill (s : State) (d : Line) : State := if bypass then s else s.modCoreAt core fun c => c.fillL1 line p.w need d
    let hall := hallOf core
    if p.c then
      let s := s.cohRead die line
      -- sectors that the die holds are no access of the controller
      let held := s.mem.dieValid die line
      let r := s.fetch p.gran line (need &&& ~~~held)
      (gotOf p dpa r.1 (inSectors held) (Memory.read s.mem.bytes dpa n),
        if r.1.isEmpty then fill (r.2.modMem fun m => m.addSectors die line hall need p.gran p.et) (s.mem.lineData line) else r.2)
    else
      let r := s.ncRead die p dpa n
      (r.1, if r.2.2.1 then fill (r.2.2.2.modMem fun m => m.putNc { r.2.1 with slices := r.2.1.slices ||| sliceBit hall }) r.2.1.data
        else r.2.2.2)

/-- Bytes that a die owns are written: the data stand in memory (log entry 15). A granule all of whose sectors the die holds is merged
there and written whole, any other as the controller does it (02 R39, R50). Answers the substitutions made. -/
def State.ownedWrite (s : State) (die : Nat) (p : Place) (dpa : Nat) (bs : List Byte) : Nat × State :=
  (cutAt (granBytes p.gran) dpa bs.length).foldl (fun acc c =>
    let data := (bs.drop c.2.1).take c.2.2
    let all := sectorMask (granBase p.gran c.1 % 128) (granBytes p.gran)
    if p.gran ≤ 2 ∧ all &&& ~~~acc.2.mem.dieValid die (c.1 / 128) = 0 then
      (acc.1, acc.2.modMem fun m => { m.setGran p.gran c.1 false with bytes := Memory.write m.bytes c.1 data })
    else
      let r := acc.2.granStore p.gran c.1 p.et data
      (acc.1 + b2n r.1, r.2)) (0, s)

/-- A die has written bytes [dpa, dpa + n) of a line that it owns: its sectors are held, in the slice of the writing hall alone (03 R61),
or held marked poisoned where the granule stays poisoned (02 R49, R50). -/
def MemSys.wrote (m : MemSys) (die : Nat) (hall : Fin 48) (agent : Nat) (p : Place) (dpa n : Nat) : MemSys :=
  let line := dpa / 128
  let v := sectorMask (dpa % 128) n
  let bad := (sectorGrans p.gran line v).filter fun a => m.poisoned p.gran a
  let worse : BitVec 4 := BitVec.ofNat 4 (((List.range 4).map fun i =>
    if bad.contains (granBase p.gran (line * 128 + 32 * i)) then 2 ^ i else 0).foldl (· + ·) 0)
  m.modDieLine die line fun x =>
    let valid := x.valid ||| (v &&& ~~~worse)
    { x with
      slices := sliceBit hall, valid := valid, bad := (x.bad ||| worse) &&& ~~~valid, gran := BitVec.ofNat 3 p.gran, et := p.et
      writer := agent }

/-- A core's copy of a line goes before it writes it (09 R220), and the access counts (03 R79). -/
def State.coreTakes (s : State) (core : Fin 192) (p : Place) (line : Nat) : State :=
  (s.modCoreAt core fun c => { c with l1 := c.l1.filter fun x => x.line != line }).hotCount (wingOf core) line p

/-- A store in a line of a C = 0 page: bytes of the die's copy, dirty (03 R76). -/
def State.ncWrite (s : State) (core : Fin 192) (agent : Nat) (p : Place) (dpa : Nat) (bs : List Byte) : State :=
  let line := dpa / 128
  let die := (dieOf core).val
  let x : NcLine := (s.mem.nc? die line).getD
    { die := die, line := line, slices := 0, valid := 0, dirty := 0, data := 0, gran := p.gran, et := p.et, writer := agent }
  s.modMem fun m => m.putNc { x with
    slices := sliceBit (hallOf core)
    data := linePut x.data (dpa % 128) bs
    dirty := x.dirty ||| BitVec.ofNat 128 ((2 ^ bs.length - 1) * 2 ^ (dpa % 128))
    gran := p.gran, et := p.et, writer := agent }

/-- A store of bytes in one place by a core (09 R220, 03 R64, R76). On a C = 1 page the whole of it is one write of each granule,
whatever lines it crosses (02 R50, 15 R353). -/
def State.coreWrite (s : State) (core : Fin 192) (agent : Nat) (p : Place) (dpa : Nat) (bs : List Byte) : State :=
  let die := (dieOf core).val
  let lines := cutAt 128 dpa bs.length
  let s := lines.foldl (fun s c => s.coreTakes core p (c.1 / 128)) s
  if p.c then
    let s := lines.foldl (fun s c => s.cohOwn die (c.1 / 128)) s
    let r := s.ownedWrite die p dpa bs
    lines.foldl (fun s c => s.modMem fun m => m.wrote die (hallOf core) agent p c.1 c.2.2) (r.2.addSubst agent r.1)
  else lines.foldl (fun s c => s.ncWrite core agent p c.1 ((bs.drop c.2.1).take c.2.2)) s

/-- A load over translated segments. -/
def State.readSegs (s : State) (core : Fin 192) (bypass : Bool) (segs : List Seg) : Got × State :=
  segs.foldl (fun acc g =>
    (cutAt 128 g.place.dpa g.len).foldl (fun acc c =>
      let r := acc.2.coreRead core bypass g.place c.1 c.2.2
      (acc.1.append r.1, r.2)) acc) (Got.empty, s)

/-- A store over translated segments. -/
def State.writeSegs (s : State) (core : Fin 192) (agent : Nat) (segs : List Seg) (bs : List Byte) : State :=
  segs.foldl (fun s g => s.coreWrite core agent g.place g.place.dpa ((bs.drop g.off).take g.len)) s

/-- The sectors of a line that an NcRd has from the line's owner: those that it holds dirty (03 R66). -/
def MemSys.ownerHas (m : MemSys) (line : Nat) : BitVec 4 :=
  let e := m.entry line
  if e.st = .em ∧ m.dieSt e.own.val line = some .m then m.dieValid e.own.val line else 0

/-- An engine's, firmware's or Landing's read: NcRd (03 R65, R66). `die` is the agent's own. -/
def State.engRead (s : State) (die : Nat) (segs : List Seg) : Got × State :=
  segs.foldl (fun acc g =>
    (cutAt 128 g.place.dpa g.len).foldl (fun acc c =>
      let s := acc.2
      let line := c.1 / 128
      if g.place.c then
        let held := s.mem.ownerHas line
        let r := s.fetch g.place.gran line (sectorMask (c.1 % 128) c.2.2 &&& ~~~held)
        (acc.1.append (gotOf g.place c.1 r.1 (inSectors held) (Memory.read s.mem.bytes c.1 c.2.2)), r.2)
      else
        let r := s.ncRead die g.place c.1 c.2.2
        (acc.1.append r.1, r.2.2.2)) acc) (Got.empty, s)

/-- An engine's write in a line of a C = 0 page: the copies of its die take the bytes, and its L1 copies of the line go, so that the
thread that waited for the job reads what it wrote (10 R245). The bytes are written to memory and dirty no longer. -/
def State.ncEngWrite (s : State) (die line off : Nat) (bs : List Byte) : State :=
  let s := match s.mem.nc? die line with
    | some x => s.modMem fun m => m.putNc { x with
        data := linePut x.data off bs, dirty := x.dirty &&& ~~~(BitVec.ofNat 128 ((2 ^ bs.length - 1) * 2 ^ off)) }
    | none => s
  s.modDieCores die fun c => { c with l1 := c.l1.filter fun x => x.line != line }

/-- An engine's write: NcWr (03 R65, R66, R69); answers the substitutions made (02 R50). Whole granules go to the controller
in one piece. -/
def State.engWrite (s : State) (die : Nat) (segs : List Seg) (bs : List Byte) : Nat × State :=
  segs.foldl (fun acc g =>
    let lines := cutAt 128 g.place.dpa g.len
    let s := lines.foldl (fun s c =>
      if g.place.c then s.cohNcWrite (c.1 / 128)
      else s.ncEngWrite die (c.1 / 128) (c.1 % 128) ((bs.drop (g.off + c.2.1)).take c.2.2)) acc.2
    let r := s.dpaWrite g.place.gran g.place.dpa g.place.et ((bs.drop g.off).take g.len)
    (acc.1 + r.1, r.2)) (0, s)

/-- An engine's accesses to the lines of MG pages count for the wing of its hall (03 R79). -/
def State.hotSegs (s : State) (wing : Nat) (segs : List Seg) : State :=
  segs.foldl (fun s g => (cutAt 128 g.place.dpa g.len).foldl (fun s c => s.hotCount wing (c.1 / 128) g.place) s) s

/-- A line under a transaction or a migration switch, or a granule before which requests stand at its controller: the access waits
(03 R67, R81; 02 R40, R55). -/
def segsBusy (s : State) (segs : List Seg) : Bool :=
  segs.any fun g => s.mem.queued g.place.gran g.place.dpa g.len || g.place.c && (cutAt 128 g.place.dpa g.len).any fun c => s.mem.lineBusy (c.1 / 128)

/-- A die's request for a line that is busy enters the home's queue and is served in its turn (03 R67). One that waits there already serves
the access too; while the line's writeback is unacknowledged the die sends none (R69). -/
def State.askLine (s : State) (kind : Instr) (die : Fin 4) (hall : Fin 48) (line : Nat) : State :=
  let e := s.mem.entry line
  let waits : Bool := e.queue.any (·.die == die.val) || e.txn.any (·.die == die.val) ||
    s.agenda.any fun x => x.2.die == die && x.2.addr == line
  if waits || s.mem.wbPending.contains (die.val, line) then s else s.post kind { die := die, hall := hall, addr := line }

/-- An access that installs nothing waits for the busy ones of its lines: NcRd, or an NcWr of no bytes, stands for it in their queues. -/
def State.askSegs (s : State) (write : Bool) (die : Fin 4) (hall : Fin 48) (segs : List Seg) : State :=
  segs.foldl (fun s g =>
    if !g.place.c then s
    else (cutAt 128 g.place.dpa g.len).foldl (fun s c =>
      if s.mem.lineBusy (c.1 / 128) then s.askLine (if write then .ncwr else .ncrd) die hall (c.1 / 128) else s) s) s

def State.hotVa (s : State) (wing : Nat) (who : Who) (n : Need) (va len : Nat) : State :=
  match translateRange s who n va len with
  | .error _ => s
  | .ok segs => s.hotSegs wing segs

/-- Read `n` bytes at a VA for an agent that is no core. -/
def State.vaRead (s : State) (die : Nat) (who : Who) (va n : Nat) : Except Trouble (Got × State) :=
  match translateRange s who needR va n with
  | .error t => .error t
  | .ok segs => .ok (s.engRead die segs)

def State.vaWrite (s : State) (die : Nat) (who : Who) (va : Nat) (bs : List Byte) : Except Trouble (Nat × State) :=
  match translateRange s who needW va bs.length with
  | .error t => .error t
  | .ok segs => .ok (s.engWrite die segs bs)

/-! ## The thread at issue -/

def Who.none : Who := ⟨0, 0, true⟩

/-- Threads and the engines that act for their jobs need U = 1 (09 R234). -/
def State.whoOfGrid (s : State) (g : Nat) : Who :=
  match s.gridOf g with
  | some x => ⟨x.dctx, x.tsrt, true⟩
  | none => Who.none

def State.curGrid (s : State) : Nat := (s.curRec.map (·.grid)).getD 0
def State.curTeam (s : State) : Option Team := s.curRec.bind fun r => s.teamOf r.grid r.team
def State.curWho (s : State) : Who := s.whoOfGrid s.curGrid
def State.curAgent (s : State) : Nat := agentOf s.curCore s.curCtx
def State.curSpad (s : State) : Nat := ((s.gridOf s.curGrid).map (·.spad)).getD 0

/-- Record an asynchronous cause against a context (08 R211). A thread that stopped in a wait becomes ready to take it (17 R443). -/
def State.raiseAt (s : State) (core : Fin 192) (x : Fin 4) (cause info : Nat) : State :=
  let k := s.ctxAt core x
  let ready : Bool := k.phase == .waiting && k.wait.isSome && k.replayAt.isNone && k.leaving.isNone
  let s := if ready then s.recSt core x .ready else s
  s.modCtxAt core x fun c =>
    { c with
      async := c.async ++ [⟨s.now, cause, info⟩], phase := if ready then .ready else c.phase
      readySince := if ready then s.now else c.readySince }

def State.raise (s : State) (cause info : Nat) : State := s.raiseAt s.curCore s.curCtx cause info

def cPoison : Nat := 18

/-- Scratchpad bytes of a team; a unit whose read is uncorrectable reads as zero (09 R227). -/
def Team.spadRead (t : Team) (off n : Nat) : List Byte × Bool :=
  let bad := (List.range n).any fun i => t.spadBad.contains ((off + i) / 32)
  ((List.range n).map fun i => if t.spadBad.contains ((off + i) / 32) then 0 else Memory.byte t.spad (off + i), bad)

/-- The 32-byte units of a list that bytes [off, off + n) touch. -/
def unitsIn (us : List Nat) (off n : Nat) : List Nat := us.filter fun u => decide (off < 32 * u + 32) && decide (32 * u < off + n)

/-- Those that a write of all their bytes leaves: the others are good again. -/
def unitsLeft (us : List Nat) (off n : Nat) : List Nat :=
  us.filter fun u => !(decide (off ≤ 32 * u) && decide (32 * u + 32 ≤ off + n))

/-- Write scratchpad bytes; a unit written whole is good again. -/
def Team.spadWrite (t : Team) (off : Nat) (bs : List Byte) : Team :=
  { t with
    spad := Memory.write t.spad off bs
    spadBad := unitsLeft t.spadBad off bs.length
    spadSoft := unitsLeft t.spadSoft off bs.length }

/-- The die of the core that holds a team. -/
def Team.die (t : Team) : Nat := t.core.getD 0 / 48

/-- Scratchpad bytes were read: units whose read was corrected are reported, and hold the corrected data (09 R227; log entry 82). -/
def State.spadSeen (s : State) (grid team off n : Nat) : State :=
  match s.teamOf grid team with
  | none => s
  | some t =>
    let soft := unitsIn t.spadSoft off n
    if soft.isEmpty then s
    else (s.modTeam grid team fun t => { t with spadSoft := t.spadSoft.filter fun u => !soft.contains u }).corrected t.die soft.length

/-- The same, where the thread at issue made the read: an uncorrectable one raises POISON against it (09 R227). -/
def State.spadUse (s : State) (grid team off n : Nat) : State :=
  let bad : Bool := ((s.teamOf grid team).map fun t => (t.spadRead off n).2).getD false
  let s := s.spadSeen grid team off n
  if bad then s.raise cPoison (apertureBase + off) else s

def State.modCurTeam (s : State) (f : Team → Team) : State :=
  match s.curRec with
  | some r => s.modTeam r.grid r.team f
  | none => s

/-- Where an access of the thread at issue goes. -/
inductive Route where
  | spad (off : Nat)
  | mem (segs : List Seg)
  deriving DecidableEq, Repr

/-- A flat access of a thread (15 R347): aperture, or translation byte by byte. -/
def State.route (s : State) (n : Need) (ea len : Nat) : Except Trouble Route :=
  let last := ea + len - 1
  if ea / 2 ^ 64 ≠ 0 ∨ last / 2 ^ 64 ≠ 0 then .error ⟨cTranslation, ea % 2 ^ 64⟩
  else if bitsN ea 56 8 ≠ 0 ∨ bitsN last 56 8 ≠ 0 then .error ⟨cTranslation, ea⟩
  else if inAperture ea && inAperture last then
    match apertureOff ea s.curSpad len with
    | some o => .ok (.spad o)
    -- the lowest byte beyond the team's scratchpad (15 R357)
    | none => .error ⟨cSpadRange, max ea (apertureBase + s.curSpad * 2 ^ 17)⟩
  else if inAperture ea || inAperture last then .error ⟨cSpadRange, ea⟩
  else (translateRange s s.curWho n ea len).map .mem

/-- Read along a route; POISON of the scratchpad is raised at once (09 R227). -/
def State.readRoute (s : State) (bypass : Bool) (r : Route) (len : Nat) : Got × State :=
  match r with
  | .mem segs => s.readSegs s.curCore bypass segs
  | .spad o =>
    match s.curTeam with
    | none => (⟨List.replicate len 0, [], false⟩, s)
    | some t => (⟨(t.spadRead o len).1, [], false⟩, s.spadUse t.grid t.num o len)

def State.writeRoute (s : State) (r : Route) (bs : List Byte) : State :=
  match r with
  | .mem segs => s.writeSegs s.curCore s.curAgent segs bs
  | .spad o => s.modCurTeam fun t => t.spadWrite o bs

/-! ## Regions (06 R153, R156) -/

inductive Region where
  | unused
  | flat (va len : Nat)
  | host (va len : Nat)
  | tensor (id first last : Nat)
  | remote (va node win : Nat)
  | bad
  deriving DecidableEq, Repr

/-- The four regions of a card as 96-bit values. -/
def cardReg (card : Block) (i : Nat) : Nat := bitsN card.toNat (64 + 96 * i) 96
def regW (x : Nat) : Bool := bitN x 3

/-- A region with its kind checked against the zeros of its format (06 R153, R155). -/
def Region.parse (x : Nat) : Region :=
  match bitsN x 0 3 with
  | 0 => if bitsN x 4 92 = 0 then .unused else .bad
  | 1 => if bitsN x 4 36 = 0 then .bad else .flat (bitsN x 40 56) (bitsN x 4 36)
  | 2 => if bitsN x 4 36 = 0 then .bad else .host (bitsN x 40 56) (bitsN x 4 36)
  | 3 => if bitsN x 4 12 ≠ 0 ∨ bitsN x 16 32 < bitsN x 48 32 then .bad
         else .tensor (bitsN x 80 16) (bitsN x 48 32) (bitsN x 16 32)
  | 4 => if bitsN x 4 3 ≠ 0 then .bad else .remote (bitsN x 40 56) (bitsN x 19 21) (bitsN x 7 12)
  | _ => .bad

def cardRegion (card : Block) (i : Nat) : Region := Region.parse (cardReg card i)

/-- Length of a remote region: that of its partner (06 R153). -/
def partnerLen (card : Block) (i : Nat) : Nat :=
  match cardRegion card (if i = 0 then 1 else 0) with
  | .flat _ n => n
  | .host _ n => n
  | _ => 0

/-- A footprint: the region, its length if it is remote, and whether it is written. -/
structure Foot where
  reg : Region
  rlen : Nat
  write : Bool
  deriving DecidableEq, Repr

def cardFeet (card : Block) : List Foot :=
  (List.range 4).map fun i => ⟨cardRegion card i, partnerLen card i, regW (cardReg card i)⟩

def meets (a n b m : Nat) : Bool := decide (a < b + m) && decide (b < a + n)

/-- The flat window of a tensor, when it has one (06 R156). -/
def flatWindow (s : State) (who : Who) (id : Nat) : Option (Nat × Nat) :=
  match readTsr s who id with
  | .ok t => if t.win then some (t.wbase, t.tiles * t.size) else none
  | .error _ => none

/-- Two regions overlap (06 R156). -/
def overlaps (s : State) (who : Who) (a b : Foot) : Bool :=
  match a.reg, b.reg with
  | .flat x n, .flat y m => meets x n y m
  | .host x n, .host y m => meets x n y m
  | .tensor i f l, .tensor j g k => i == j && decide (f ≤ k) && decide (g ≤ l)
  | .flat x n, .tensor i _ _ => ((flatWindow s who i).map fun w => meets x n w.1 w.2).getD false
  | .tensor i _ _, .flat x n => ((flatWindow s who i).map fun w => meets x n w.1 w.2).getD false
  | .remote x d w, .remote y e v => d == e && w == v && meets x a.rlen y b.rlen
  | _, _ => false

/-- A pair of footprints in which a write makes the later one wait (06 R156). -/
def conflict (s : State) (who : Who) (a b : Foot) : Bool := (a.write || b.write) && overlaps s who a b

/-- The job is in flight. -/
def Job.inFlight (j : Job) : Bool := j.state != .ended

/-- In-flight jobs that a hall holds (06 R157): those that were saved with a team are in no hall until they are issued again. -/
def State.jobsOfHall (s : State) (hall : Nat) : Nat := s.jobs.countP fun j =>
  j.inFlight && j.state != .queued && j.hall == hall && (match j.owner with
  | .thread _ => (s.teamOf j.grid j.team).any fun t => t.core.isSome
  | _ => true)

/-- An access of the thread at issue meets the footprint of an in-flight job of its stream (06 R156, 15 R356): a read meets
write regions, a write any region. -/
def State.jobStall (s : State) (f : Foot) : Bool :=
  match s.curRec with
  | none => false
  | some r => s.jobs.any fun j =>
      j.inFlight && j.owner == .thread r.va && j.grid == r.grid &&
        (cardFeet j.card).any fun g => conflict s s.curWho f g

/-- Bytes in common. -/
def Spot.meets (a : Spot) (n : Nat) (b : Spot) (m : Nat) : Bool :=
  match a, b with
  | .spad x, .spad y => Machine.meets x n y m
  | .gal x, .gal y => Machine.meets x n y m
  | .mem x, .mem y => Machine.meets x n y m
  | _, _ => false

/-- The pieces of a route. -/
def Route.spots (r : Route) (len : Nat) : List (Spot × Nat) :=
  match r with
  | .spad o => [(.spad o, len)]
  | .mem segs => segs.map fun g => (.mem g.place.dpa, g.len)

/-- A use of memory, which other agents may write meanwhile. -/
def Spot.shared (a : Spot) : Bool :=
  match a with
  | .mem _ => true
  | _ => false

/-- An access of the thread at issue meets bytes of one of its queued matrix commands (16 R368): a read meets what they
write, a write what they read or write. A read of memory waits for an earlier read of its bytes too: two reads of one location keep
their order (10 R249; DEDUCED, log entry 85). -/
def State.matStall (s : State) (write : Bool) (l : List (Spot × Nat)) : Bool :=
  s.core.engine.queue.any fun q => q.ctx == s.curCtx && q.uses.any fun u =>
    (write || u.write || u.spot.shared) && l.any fun p => u.spot.meets u.len p.1 p.2

/-! ## What may stand in the way of a bundle (08 R196, R211) -/

/-- The verdict on one operation before its bundle issues: go, an issue trap, or a hold stall. -/
inductive Check where
  | go
  | trap (cause info : Nat)
  | stall (why : Stall) (info : Nat := 0)
  deriving DecidableEq, Repr

/-- Of several verdicts: the lowest cause, then the lowest address; a stall only where nothing traps. -/
def Check.both : Check → Check → Check
  | .go, c => c
  | c, .go => c
  | .trap a x, .trap b y => if b < a ∨ (b = a ∧ y < x) then .trap b y else .trap a x
  | .trap a x, _ => .trap a x
  | _, .trap b y => .trap b y
  | .stall w x, .stall _ _ => .stall w x

def Check.all (l : List Check) : Check := l.foldl Check.both .go

/-- A verdict, and where it is go a later one. -/
def Check.andThen (a b : Check) : Check :=
  match a with
  | .go => b
  | c => c

def Check.ofTrouble (t : Trouble) : Check := .trap t.cause t.info

def cMmRace : Nat := 19
def cNotHome : Nat := 7

/-- Registration of one line of an RC page (03 R73, R74). -/
def State.regCheck (s : State) (line : Nat) (write : Bool) : Check :=
  if s.ctx.filtered line write then .go
  else
    match s.mem.regAnswer s.curAgent line write with
    | .ok => .go
    | .race => .trap cMmRace (line * 128)
    | .full => .stall .capacity (line * 128)

/-- The further ways that the lines of an access need in their directory sets (03 R70, R74). -/
def State.waysWanted (s : State) (segs : List Seg) (write : Bool) : List (Nat × Nat) :=
  (segs.flatMap fun g =>
    if !g.place.c then []
    else (cutAt 128 g.place.dpa g.len).map fun c =>
      let line := c.1 / 128
      (line, if g.place.rc && !s.ctx.filtered line write then s.mem.regWays s.curAgent line write else s.mem.needWays line)).dedup

/-- Of several demands for ways of one line, the largest. -/
def joinWays (l : List (Nat × Nat)) : List (Nat × Nat) :=
  l.foldl (fun acc w =>
    if acc.any fun x => x.1 == w.1 then acc.map fun x => if x.1 = w.1 then (x.1, max x.2 w.2) else x else acc ++ [w]) []

/-- Room in the directory for every line of several accesses together, each with whether it writes (03 R70, R71). -/
def State.roomCheck (s : State) (l : List (Bool × Seg)) : Check :=
  let wants := joinWays (l.flatMap fun p => s.waysWanted [p.2] p.1)
  match l.find? fun p => p.2.place.c && (cutAt 128 p.2.place.dpa p.2.len).any fun c => !s.mem.roomFor wants (c.1 / 128) with
  | some p => .stall .capacity p.2.va
  | none => .go

/-- What INFO of a stall on a busy line says to the die that asks for it: the line, and whether it is written. -/
def busyInfo (line : Nat) (write : Bool) : Nat := 2 * line + b2n write + 2

/-- An access along segments: lines under a transaction, room in the directory for all of them, registration (15 R356). -/
def State.segsCheck (s : State) (segs : List Seg) (write : Bool) : Check :=
  let wants := s.waysWanted segs write
  Check.all (segs.flatMap fun g =>
    (cutAt 128 g.place.dpa g.len).map fun c =>
      let line := c.1 / 128
      if s.mem.queued g.place.gran c.1 c.2.2 then .stall .registration
      else if !g.place.c then .go
      else if s.mem.lineBusy line then .stall .registration (busyInfo line write)
      else if g.place.rc then
        (match (s.regCheck line write).both (if s.mem.roomFor wants line then .go else .stall .capacity) with
        | .trap cause _ => .trap cause (g.va + c.2.1)
        | .stall why _ => .stall why (g.va + c.2.1)
        | .go => .go)
      else if !s.mem.roomFor wants line then .stall .capacity (g.va + c.2.1)
      else .go)

/-- A near-store access while the core drains for a split (09 R219). -/
def State.drainCheck (s : State) : Check := if s.core.drain.isSome then .stall .drain else .go

/-- A hall-free thread has no scratchpad to reach (06 R160). -/
def State.homeCheck (s : State) (info : Nat) : Check :=
  match s.curRec with
  | some r => if r.hallFree then .trap cNotHome info else .go
  | none => .go

/-- What an access along a route may meet before its registration. `near` marks an access that uses the L1. -/
def State.routeFirst (s : State) (write near : Bool) (ea len : Nat) (r : Route) : Check :=
  let waits : Check := if s.jobStall ⟨.flat ea len, 0, write⟩ || s.matStall write (r.spots len) then .stall .resource else .go
  match r with
  | .spad _ => (s.homeCheck ea).both (s.drainCheck.both waits)
  | .mem _ => (if near then s.drainCheck else .go).both waits

/-- Everything an access along a route may meet: the footprint stall comes before registration (15 R356). -/
def State.routeCheck (s : State) (write near : Bool) (ea len : Nat) (r : Route) : Check :=
  (s.routeFirst write near ea len r).andThen
    (match r with
    | .spad _ => .go
    | .mem segs => s.segsCheck segs write)

/-- What an access meets that has no route; one to the aperture is NOT_HOME for a hall-free thread (06 R160). -/
def State.noRoute (s : State) (ea len : Nat) (t : Trouble) : Check :=
  (Check.ofTrouble t).both (if inAperture ea || inAperture (ea + len - 1) then s.homeCheck ea else .go)

/-- Alignment, then route, then what stands in the way before registration (15 R348, R357). -/
def State.accessFirst (s : State) (n : Need) (write near : Bool) (align ea len : Nat) : Check :=
  (if ea % align ≠ 0 then Check.trap 11 ea else .go).both
    (match s.route n ea len with
    | .error t => s.noRoute ea len t
    | .ok r => s.routeFirst write near ea len r)

/-- Alignment, then route, then what stands in the way (15 R348, R357). -/
def State.accessCheck (s : State) (n : Need) (write near : Bool) (align ea len : Nat) : Check :=
  (if ea % align ≠ 0 then Check.trap 11 ea else .go).both
    (match s.route n ea len with
    | .error t => s.noRoute ea len t
    | .ok r => s.routeCheck write near ea len r)

/-- Record the registrations of an access that performs (03 R73). -/
def State.registerSegs (s : State) (segs : List Seg) (write : Bool) : State :=
  segs.foldl (fun s g =>
    if !g.place.rc then s
    else (cutAt 128 g.place.dpa g.len).foldl (fun s c =>
      let line := c.1 / 128
      if s.ctx.filtered line write then s
      else (s.regRecord s.curAgent line write).modCtx fun x => x.remember line write) s) s

/-- The registrations of several accesses, each with whether it writes. -/
def State.registerAll (s : State) (l : List (Bool × Seg)) : State := l.foldl (fun s p => s.registerSegs [p.2] p.1) s

def State.registerRoute (s : State) (r : Route) (write : Bool) : State :=
  match r with
  | .spad _ => s
  | .mem segs => s.registerSegs segs write

end Sys2Proof.Machine
end

