-- ==== Sys2Proof/WellFormed.lean ====
section
/-! DEFINITION. Which instructions the sealing rules admit (12 R284, R285, R289 to R296): the conditions on operands and
modifiers that do not depend on the segment. An event of the part carries no encoding and is always well formed. -/

namespace Sys2Proof

/-- A latch exists for the slots s, va, vb and ld, at stages 1 to 5 (12 R285). -/
def latchOk (slot : Fin 8) (stage : Fin 32) : Bool :=
  (slot == 0 || slot == 1 || slot == 2 || slot == 4) && decide (1 ≤ stage.val) && decide (stage.val ≤ 5)

/-- A source operand of class s or v (12 R284). -/
def Opnd.isSrc : Opnd → Bool
  | .latch s j => latchOk s j
  | _ => true

/-- A destination of class s or v: main and operand files only (12 R284). -/
def Opnd.isDst : Opnd → Bool
  | .main _ => true
  | .oper _ => true
  | _ => false

/-- A source of class k: there is no operand file of masks (12 R284). -/
def Opnd.isKSrc : Opnd → Bool
  | .main n => decide (n.val < 8)
  | .oper _ => false
  | .last _ => true
  | .latch s j => latchOk s j

/-- A destination of class k. -/
def Opnd.isKDst : Opnd → Bool
  | .main n => decide (n.val < 8)
  | _ => false

/-- B of `v.rq` heads a pair of registers (14 R337). -/
def Opnd.isPair : Opnd → Bool
  | .main n => decide (n.val ≤ 62)
  | .oper n => decide (n.val ≤ 14)
  | _ => false

/-- C of `amo.cas`: a main register of index 62 or less (15 R361). -/
def Opnd.isLow : Opnd → Bool
  | .main n => decide (n.val ≤ 62)
  | _ => false

/-- A of `ld.vt` and `st.vt`: a main register with `n` registers after it, 1 to 8 (12 R292). -/
def Opnd.isRun : Opnd → BitVec 4 → Bool
  | .main m, n => decide (1 ≤ n.toNat) && decide (n.toNat ≤ 8) && decide (m.val + n.toNat ≤ 63)
  | _, _ => false

/-- A type, format or mode code that the instruction's entry lists (14 R330). -/
def tyIn (l : List Nat) (ty : BitVec 4) : Bool := l.contains ty.toNat

/-- `v.cvt` (14 R330): formats 0 to 9, distinct; RMO 0 to 5, and 0 when both are integer formats. -/
def cvtOk (rmo : BitVec 3) (src dst : BitVec 4) : Bool :=
  tyIn [0, 1, 2, 3, 4, 5, 6, 7, 8, 9] src && tyIn [0, 1, 2, 3, 4, 5, 6, 7, 8, 9] dst && src != dst &&
  decide (rmo.toNat ≤ 5) && (rmo == 0 || !(tyIn [0, 1, 2, 3, 9] src && tyIn [0, 1, 2, 3, 9] dst))

/-- SCOPE codes 0 to 4 (06 R154, 12 R295). -/
def scopeOk (scope : BitVec 3) : Bool := decide (scope.toNat ≤ 4)

/-- SCOPE is 0 to 4, and 0 when there is no ordering (15 R349). -/
def relOk (rel : Bool) (scope : BitVec 3) : Bool := scopeOk scope && (rel || scope == 0)

/-- With OWN, A must be `s0` (12 R295). -/
def ownOk (own : Bool) (a : Opnd) : Bool := if own then a == .main 0 else a.isSrc

/-- What the sealing rules ask of an instruction alone. -/
def Instr.wf : Instr → Bool
  | .coldReset => true
  | .warmReset => true
  | .bringupStepDone => true
  | .functionLevelResetVf => true
  | .functionLevelResetPf => true
  | .d3hotEntry => true
  | .d0Return => true
  | .droopDetect => true
  | .thermalHot => true
  | .criticalTrip => true
  | .tripRecovery => true
  | .governorTick => true
  | .limitHalveExcursion => true
  | .leaveRequest => true
  | .leaveGrant => true
  | .leaveAging => true
  | .supplyGlitch => true
  | .tamperMeshBroken => true
  | .dieLinkFailure => true
  | .granuleRead => true
  | .granuleWrite => true
  | .granulePartialWrite => true
  | .requestReserving => true
  | .patrolScrub => true
  | .rds => true
  | .rde => true
  | .upg => true
  | .ncrd => true
  | .ncwr => true
  | .migrd => true
  | .wbm => true
  | .eve => true
  | .snpinv => true
  | .snpshr => true
  | .snpcur => true
  | .backinv => true
  | .snoopAnswer => true
  | .wback => true
  | .retry => true
  | .coreCapacityTimeout => true
  | .engineCapacityTimeout => true
  | .regr => true
  | .regw => true
  | .directorySweep => true
  | .hotTablePeriodEnd => true
  | .migrationSwitch => true
  | .migrationWindowEnd => true
  | .atsInvalidation => true
  | .finzonPortChange => true
  | .finzonPut => true
  | .finzonGet => true
  | .finzonGetData => true
  | .finzonAtomic => true
  | .finzonAtomicResult => true
  | .finzonAck => true
  | .finzonNak => true
  | .finzonCollective => true
  | .finzonTransit => true
  | .finzonResendTimeout => true
  | .minorFrame => true
  | .kernel => true
  | .barrierAnd => true
  | .barrierOr => true
  | .copy => true
  | .signal => true
  | .plan => true
  | .gridComplete => true
  | .queueEnable => true
  | .queueDisable => true
  | .queueReset => true
  | .hostWindowWrite => true
  | .landingTimeout => true
  | .nwake => true
  | .fwpatchGo => true
  | .fwpatchCancel => true
  | .patchApply => true
  | .attOpen => true
  | .attQuote => true
  | .attClose => true
  | .recBegin => true
  | .recPiece => true
  | .recEnd => true
  | .mbcmdReserved => true
  | .tlbiGo => true
  | .save => true
  | .restore => true
  | .resume => true
  | .registerWrite => true
  | .teamPlacement => true
  | .contextSwitch => true
  | .contextTakeRecord => true
  | .eviction => true
  | .waitSatisfied => true
  | .signalWaitRepoll => true
  | .balanceExchange => true
  | .quantumBoundary => true
  | .replayReady => true
  | .bundleIssue => true
  | .resultWriteback => true
  | .interlockArrival => true
  | .splitDrainEnd => true
  | .jobCardEntry => true
  | .jobDispatch => true
  | .engineCopy => true
  | .engineGather => true
  | .engineScatter => true
  | .engineFill => true
  | .engineExpand => true
  | .engineSeal => true
  | .engineGalleryLoad => true
  | .engineCollective => true
  | .engineCheckpoint => true
  | .engineRestore => true
  | .engineRemoteAtomic => true
  | .plannedMatrixWork => true
  | .jobComplete => true
  | .sealComplete => true
  | .matrixCommandComplete => true
  | .planningEnd => true
  | .planBreak => true
  | .planComplete => true
  | .sAddReg _ d a b => d.isDst && a.isSrc && b.isSrc
  | .sAddImm _ d a _ => d.isDst && a.isSrc
  | .sSub _ d a b => d.isDst && a.isSrc && b.isSrc
  | .sMulReg _ d a b => d.isDst && a.isSrc && b.isSrc
  | .sMulImm _ d a _ => d.isDst && a.isSrc
  | .sMulh _ d a b => d.isDst && a.isSrc && b.isSrc
  | .sDiv _ d a b => d.isDst && a.isSrc && b.isSrc
  | .sRem _ d a b => d.isDst && a.isSrc && b.isSrc
  | .sAndReg _ d a b => d.isDst && a.isSrc && b.isSrc
  | .sAndImm _ d a _ => d.isDst && a.isSrc
  | .sOrReg _ d a b => d.isDst && a.isSrc && b.isSrc
  | .sOrImm _ d a _ => d.isDst && a.isSrc
  | .sXorReg _ d a b => d.isDst && a.isSrc && b.isSrc
  | .sXorImm _ d a _ => d.isDst && a.isSrc
  | .sShlReg _ d a b => d.isDst && a.isSrc && b.isSrc
  | .sShlImm _ d a _ => d.isDst && a.isSrc
  | .sShrReg _ d a b => d.isDst && a.isSrc && b.isSrc
  | .sShrImm _ d a _ => d.isDst && a.isSrc
  | .sSarReg _ d a b => d.isDst && a.isSrc && b.isSrc
  | .sSarImm _ d a _ => d.isDst && a.isSrc
  | .sMinReg _ d a b => d.isDst && a.isSrc && b.isSrc
  | .sMinImm _ d a _ => d.isDst && a.isSrc
  | .sMaxReg _ d a b => d.isDst && a.isSrc && b.isSrc
  | .sMaxImm _ d a _ => d.isDst && a.isSrc
  | .sSel _ d a b c => d.isDst && a.isSrc && b.isSrc && c.isSrc
  | .sLi _ d _ => d.isDst
  | .sLih _ d _ => d.isDst
  | .sAddsc _ d a b _ => d.isDst && a.isSrc && b.isSrc
  | .sGetc _ d n => d.isDst && decide (n.toNat ≤ 8)
  | .sSetc a n => a.isSrc && decide (n.toNat ≤ 7)
  | .sCmpEqReg a b => a.isSrc && b.isSrc
  | .sCmpNeReg a b => a.isSrc && b.isSrc
  | .sCmpLtReg a b => a.isSrc && b.isSrc
  | .sCmpLeReg a b => a.isSrc && b.isSrc
  | .sCmpGtReg a b => a.isSrc && b.isSrc
  | .sCmpGeReg a b => a.isSrc && b.isSrc
  | .sCmpLtuReg a b => a.isSrc && b.isSrc
  | .sCmpLeuReg a b => a.isSrc && b.isSrc
  | .sCmpGtuReg a b => a.isSrc && b.isSrc
  | .sCmpGeuReg a b => a.isSrc && b.isSrc
  | .sCmpEqImm a _ => a.isSrc
  | .sCmpNeImm a _ => a.isSrc
  | .sCmpLtImm a _ => a.isSrc
  | .sCmpLeImm a _ => a.isSrc
  | .sCmpGtImm a _ => a.isSrc
  | .sCmpGeImm a _ => a.isSrc
  | .sCmpLtuImm a _ => a.isSrc
  | .sCmpLeuImm a _ => a.isSrc
  | .sCmpGtuImm a _ => a.isSrc
  | .sCmpGeuImm a _ => a.isSrc
  | .sJmp _ => true
  | .sJal _ d _ => d.isDst
  | .sJr a => a.isSrc
  | .sJbank _ _ => true
  | .sLoopReg a off => a.isSrc && off != 0
  | .sLoopImm _ off => off != 0
  | .sMark n => decide (1 ≤ n.toNat) && decide (n.toNat ≤ 64)
  | .sTrap _ => true
  | .sTret a => a.isSrc
  | .sYield => true
  | .sHalt => true
  | .vAdd _ _ d a b _ ty => d.isDst && a.isSrc && b.isSrc && tyIn [0, 1, 2, 3, 4, 5, 6] ty
  | .vSub _ _ d a b _ ty => d.isDst && a.isSrc && b.isSrc && tyIn [0, 1, 2, 3, 4, 5, 6] ty
  | .vMul _ _ d a b _ ty => d.isDst && a.isSrc && b.isSrc && tyIn [0, 1, 2, 3, 4, 5, 6] ty
  | .vFma _ _ d a b _ ty => d.isDst && a.isSrc && b.isSrc && tyIn [2, 5, 6] ty
  | .vMin _ _ d a b _ ty => d.isDst && a.isSrc && b.isSrc && tyIn [0, 1, 2, 3, 4, 5, 6] ty
  | .vMax _ _ d a b _ ty => d.isDst && a.isSrc && b.isSrc && tyIn [0, 1, 2, 3, 4, 5, 6] ty
  | .vAbs _ _ d a _ ty => d.isDst && a.isSrc && tyIn [0, 2, 3, 5, 6] ty
  | .vAnd _ _ d a b _ => d.isDst && a.isSrc && b.isSrc
  | .vOr _ _ d a b _ => d.isDst && a.isSrc && b.isSrc
  | .vXor _ _ d a b _ => d.isDst && a.isSrc && b.isSrc
  | .vShlVec _ _ d a b _ ty => d.isDst && a.isSrc && b.isSrc && tyIn [0, 1, 3, 4] ty
  | .vShrVec _ _ d a b _ ty => d.isDst && a.isSrc && b.isSrc && tyIn [0, 1, 3, 4] ty
  | .vSarVec _ _ d a b _ ty => d.isDst && a.isSrc && b.isSrc && tyIn [0, 1, 3, 4] ty
  | .vShlImm _ _ d a _ _ ty => d.isDst && a.isSrc && tyIn [0, 1, 3, 4] ty
  | .vShrImm _ _ d a _ _ ty => d.isDst && a.isSrc && tyIn [0, 1, 3, 4] ty
  | .vSarImm _ _ d a _ _ ty => d.isDst && a.isSrc && tyIn [0, 1, 3, 4] ty
  | .vCmpEq _ _ d a b _ ty => d.isKDst && a.isSrc && b.isSrc && tyIn [0, 1, 2] ty
  | .vCmpNe _ _ d a b _ ty => d.isKDst && a.isSrc && b.isSrc && tyIn [0, 1, 2] ty
  | .vCmpLt _ _ d a b _ ty => d.isKDst && a.isSrc && b.isSrc && tyIn [0, 1, 2] ty
  | .vCmpLe _ _ d a b _ ty => d.isKDst && a.isSrc && b.isSrc && tyIn [0, 1, 2] ty
  | .vCmpGt _ _ d a b _ ty => d.isKDst && a.isSrc && b.isSrc && tyIn [0, 1, 2] ty
  | .vCmpGe _ _ d a b _ ty => d.isKDst && a.isSrc && b.isSrc && tyIn [0, 1, 2] ty
  | .vAny _ a => a.isKSrc
  | .vAll _ a => a.isKSrc
  | .vCvt _ _ d a _ rmo src dst => d.isDst && a.isSrc && cvtOk rmo src dst
  | .vRq _ _ d a b _ dst => d.isDst && a.isSrc && b.isSrc && b.isPair && tyIn [0, 1, 2, 3, 9] dst
  | .vScacc _ _ d a b _ ty => d.isDst && a.isSrc && b.isSrc && tyIn [0, 2] ty
  | .vPerm _ _ d a b _ => d.isDst && a.isSrc && b.isSrc
  | .vRot _ _ d a _ _ => d.isDst && a.isSrc
  | .vBcast _ _ d a _ => d.isDst && a.isSrc
  | .vIota _ _ d _ ty => d.isDst && tyIn [0, 2] ty
  | .vExt _ _ d a _ => d.isDst && a.isSrc
  | .vRsum _ _ d a _ ty => d.isDst && a.isSrc && tyIn [0, 1, 2] ty
  | .vRmin _ _ d a _ ty => d.isDst && a.isSrc && tyIn [0, 1, 2] ty
  | .vRmax _ _ d a _ ty => d.isDst && a.isSrc && tyIn [0, 1, 2] ty
  | .vScan _ _ d a _ ty => d.isDst && a.isSrc && tyIn [0, 1, 2] ty
  | .vRcp _ _ d a _ => d.isDst && a.isSrc
  | .vRsq _ _ d a _ => d.isDst && a.isSrc
  | .vExp2 _ _ d a _ => d.isDst && a.isSrc
  | .vLog2 _ _ d a _ => d.isDst && a.isSrc
  | .vThrcnt _ _ d a b _ ty => d.isDst && a.isSrc && b.isSrc && tyIn [0, 1, 2] ty
  | .vThrsel _ _ d a b _ ty => d.isDst && a.isSrc && b.isSrc && tyIn [0, 1, 2] ty
  | .vGnorm _ _ d a b _ _ => d.isDst && a.isSrc && b.isSrc
  | .kAnd _ _ d a b => d.isKDst && a.isKSrc && b.isKSrc
  | .kOr _ _ d a b => d.isKDst && a.isKSrc && b.isKSrc
  | .kNot _ _ d a => d.isKDst && a.isKSrc
  | .kPop _ _ d a => d.isDst && a.isKSrc
  | .ldS _ d a sz sx _ => d.isDst && a.isSrc && (!sx || sz != 3)
  | .ldSB _ d a sz sx _ => d.isDst && a.isSrc && (!sx || sz != 3)
  | .ldV _ d a _ => d.isDst && a.isSrc
  | .ldVB _ d a _ => d.isDst && a.isSrc
  | .ldVt _ d a n => d.isDst && a.isRun n
  | .ldG _ d a b sz => d.isDst && a.isSrc && b.isSrc && sz != 3
  | .ldBc _ d a sz sx _ => d.isDst && a.isSrc && (!sx || decide (sz.toNat < 2))
  | .ldK _ d a _ => d.isKDst && a.isSrc
  | .pf a _ => a.isSrc
  | .res a b => a.isSrc && b.isSrc
  | .stS d a _ rel scope _ => d.isSrc && a.isSrc && relOk rel scope
  | .stV d a rel scope _ => d.isSrc && a.isSrc && relOk rel scope
  | .stVt d a n => d.isSrc && a.isRun n
  | .stSc d a b sz => d.isSrc && a.isSrc && b.isSrc && sz != 3
  | .amoAdd _ d a _ ord scope c => d.isDst && a.isSrc && c.isSrc && relOk (ord != 0) scope
  | .amoMin _ d a _ ord scope c => d.isDst && a.isSrc && c.isSrc && relOk (ord != 0) scope
  | .amoMax _ d a _ ord scope c => d.isDst && a.isSrc && c.isSrc && relOk (ord != 0) scope
  | .amoAnd _ d a _ ord scope c => d.isDst && a.isSrc && c.isSrc && relOk (ord != 0) scope
  | .amoOr _ d a _ ord scope c => d.isDst && a.isSrc && c.isSrc && relOk (ord != 0) scope
  | .amoXor _ d a _ ord scope c => d.isDst && a.isSrc && c.isSrc && relOk (ord != 0) scope
  | .amoSwap _ d a _ ord scope c => d.isDst && a.isSrc && c.isSrc && relOk (ord != 0) scope
  | .amoCas _ d a _ ord scope c => d.isDst && a.isSrc && c.isLow && relOk (ord != 0) scope
  | .mAcq => true
  | .mRel => true
  | .mMode _ mode => mode != 3
  | .mLdb a b => a.isSrc && b.isSrc
  | .mLdbEdge a b => a.isSrc && b.isSrc
  | .mLdbx a b => a.isSrc && b.isSrc
  | .mMma pair _ _ _ a b => pair != 15 && a.isSrc && b.isSrc
  | .mZero _ => true
  | .mZpc _ _ a b => a.isSrc && b.isSrc
  | .mBind _ d a b _ fmt _ _ => d.isDst && a.isSrc && b.isSrc && fmt != 3
  | .mDrainWrap _ d a b _ _ _ => d.isDst && a.isSrc && b.isSrc
  | .mDrainSat _ d a b _ _ _ => d.isDst && a.isSrc && b.isSrc
  | .mDrainRq _ d a b _ _ _ => d.isDst && a.isSrc && b.isSrc
  | .mDrainFlt _ d a b _ _ _ => d.isDst && a.isSrc && b.isSrc
  | .mSpill _ _ => true
  | .mFill _ _ => true
  | .mTopo _ _ a b => a.isSrc && b.isSrc
  | .mWait _ d => d.isDst
  | .cpCopy _ d a => d.isDst && a.isSrc
  | .cpGath _ d a => d.isDst && a.isSrc
  | .cpScat _ d a => d.isDst && a.isSrc
  | .cpFill _ d a => d.isDst && a.isSrc
  | .cpExpand _ d a => d.isDst && a.isSrc
  | .cpSeal _ d a => d.isDst && a.isSrc
  | .cpGal _ d a => d.isDst && a.isSrc
  | .cpColl _ d a => d.isDst && a.isSrc
  | .cpCkpt _ d a => d.isDst && a.isSrc
  | .cpJob _ d a => d.isDst && a.isSrc
  | .cpCancel a => a.isSrc
  | .cpStat _ d a => d.isDst && a.isSrc
  | .yPost a own scope _ => ownOk own a && scopeOk scope
  | .yWait a scope _ => a.isSrc && scopeOk scope
  | .yWaitSig a scope => a.isSrc && scopeOk scope
  | .yFenceAcq scope => scopeOk scope
  | .yFenceRel scope => scopeOk scope
  | .yFenceAr scope => scopeOk scope
  | .yBar a scope _ => a.isSrc && scopeOk scope
  | .yBarw a scope _ => a.isSrc && scopeOk scope
  | .yWfe _ d a => d.isDst && a.isSrc
  | .ySev a own _ => ownOk own a
  | .ySig a scope => a.isSrc && scopeOk scope
  | .ySplit _ d _ => d.isDst
  | .ySwap _ d _ => d.isDst
  | .yIfence => true
  | .yTsrinv a => a.isSrc
  | .yTsrinvAll => true
  | .yQsub _ d a b => d.isDst && a.isSrc && b.isSrc
  | .yQsubRe _ d _ => d.isDst
  | .yQrun a => a.isSrc
  | .yQwait _ d a _ => d.isDst && a.isSrc
  | .yHint a b => a.isSrc && b.isSrc
  | .yPin a whole node => a.isSrc && (!whole || node == 0)
  | .yUnpin a whole node => a.isSrc && (!whole || node == 0)
  | .yPlanrd a b => a.isSrc && b.isSrc
  | .yStatrd a b => a.isSrc && b.isSrc
  | .yStatwr a b => a.isSrc && b.isSrc
  | .yStatwrInv a b => a.isSrc && b.isSrc
  | .yLeave _ => true
  | .yLeaveRel _ => true
  | .dataToRequester => true
  | .registrationAnswer => true
  | .dieLinkRetry => true
  | .finzonReservedType => true
  | .hostLinkTraining => true

/-- The slot of the bundle that an operation takes (12 R282); none for an event of the part. -/
def Instr.slot : Instr → Option Nat
  | .coldReset => none
  | .warmReset => none
  | .bringupStepDone => none
  | .functionLevelResetVf => none
  | .functionLevelResetPf => none
  | .d3hotEntry => none
  | .d0Return => none
  | .droopDetect => none
  | .thermalHot => none
  | .criticalTrip => none
  | .tripRecovery => none
  | .governorTick => none
  | .limitHalveExcursion => none
  | .leaveRequest => none
  | .leaveGrant => none
  | .leaveAging => none
  | .supplyGlitch => none
  | .tamperMeshBroken => none
  | .dieLinkFailure => none
  | .granuleRead => none
  | .granuleWrite => none
  | .granulePartialWrite => none
  | .requestReserving => none
  | .patrolScrub => none
  | .rds => none
  | .rde => none
  | .upg => none
  | .ncrd => none
  | .ncwr => none
  | .migrd => none
  | .wbm => none
  | .eve => none
  | .snpinv => none
  | .snpshr => none
  | .snpcur => none
  | .backinv => none
  | .snoopAnswer => none
  | .wback => none
  | .retry => none
  | .coreCapacityTimeout => none
  | .engineCapacityTimeout => none
  | .regr => none
  | .regw => none
  | .directorySweep => none
  | .hotTablePeriodEnd => none
  | .migrationSwitch => none
  | .migrationWindowEnd => none
  | .atsInvalidation => none
  | .finzonPortChange => none
  | .finzonPut => none
  | .finzonGet => none
  | .finzonGetData => none
  | .finzonAtomic => none
  | .finzonAtomicResult => none
  | .finzonAck => none
  | .finzonNak => none
  | .finzonCollective => none
  | .finzonTransit => none
  | .finzonResendTimeout => none
  | .minorFrame => none
  | .kernel => none
  | .barrierAnd => none
  | .barrierOr => none
  | .copy => none
  | .signal => none
  | .plan => none
  | .gridComplete => none
  | .queueEnable => none
  | .queueDisable => none
  | .queueReset => none
  | .hostWindowWrite => none
  | .landingTimeout => none
  | .nwake => none
  | .fwpatchGo => none
  | .fwpatchCancel => none
  | .patchApply => none
  | .attOpen => none
  | .attQuote => none
  | .attClose => none
  | .recBegin => none
  | .recPiece => none
  | .recEnd => none
  | .mbcmdReserved => none
  | .tlbiGo => none
  | .save => none
  | .restore => none
  | .resume => none
  | .registerWrite => none
  | .teamPlacement => none
  | .contextSwitch => none
  | .contextTakeRecord => none
  | .eviction => none
  | .waitSatisfied => none
  | .signalWaitRepoll => none
  | .balanceExchange => none
  | .quantumBoundary => none
  | .replayReady => none
  | .bundleIssue => none
  | .resultWriteback => none
  | .interlockArrival => none
  | .splitDrainEnd => none
  | .jobCardEntry => none
  | .jobDispatch => none
  | .engineCopy => none
  | .engineGather => none
  | .engineScatter => none
  | .engineFill => none
  | .engineExpand => none
  | .engineSeal => none
  | .engineGalleryLoad => none
  | .engineCollective => none
  | .engineCheckpoint => none
  | .engineRestore => none
  | .engineRemoteAtomic => none
  | .plannedMatrixWork => none
  | .jobComplete => none
  | .sealComplete => none
  | .matrixCommandComplete => none
  | .planningEnd => none
  | .planBreak => none
  | .planComplete => none
  | .sAddReg _ _ _ _ => some 0
  | .sAddImm _ _ _ _ => some 0
  | .sSub _ _ _ _ => some 0
  | .sMulReg _ _ _ _ => some 0
  | .sMulImm _ _ _ _ => some 0
  | .sMulh _ _ _ _ => some 0
  | .sDiv _ _ _ _ => some 0
  | .sRem _ _ _ _ => some 0
  | .sAndReg _ _ _ _ => some 0
  | .sAndImm _ _ _ _ => some 0
  | .sOrReg _ _ _ _ => some 0
  | .sOrImm _ _ _ _ => some 0
  | .sXorReg _ _ _ _ => some 0
  | .sXorImm _ _ _ _ => some 0
  | .sShlReg _ _ _ _ => some 0
  | .sShlImm _ _ _ _ => some 0
  | .sShrReg _ _ _ _ => some 0
  | .sShrImm _ _ _ _ => some 0
  | .sSarReg _ _ _ _ => some 0
  | .sSarImm _ _ _ _ => some 0
  | .sMinReg _ _ _ _ => some 0
  | .sMinImm _ _ _ _ => some 0
  | .sMaxReg _ _ _ _ => some 0
  | .sMaxImm _ _ _ _ => some 0
  | .sSel _ _ _ _ _ => some 0
  | .sLi _ _ _ => some 0
  | .sLih _ _ _ => some 0
  | .sAddsc _ _ _ _ _ => some 0
  | .sGetc _ _ _ => some 0
  | .sSetc _ _ => some 0
  | .sCmpEqReg _ _ => some 0
  | .sCmpNeReg _ _ => some 0
  | .sCmpLtReg _ _ => some 0
  | .sCmpLeReg _ _ => some 0
  | .sCmpGtReg _ _ => some 0
  | .sCmpGeReg _ _ => some 0
  | .sCmpLtuReg _ _ => some 0
  | .sCmpLeuReg _ _ => some 0
  | .sCmpGtuReg _ _ => some 0
  | .sCmpGeuReg _ _ => some 0
  | .sCmpEqImm _ _ => some 0
  | .sCmpNeImm _ _ => some 0
  | .sCmpLtImm _ _ => some 0
  | .sCmpLeImm _ _ => some 0
  | .sCmpGtImm _ _ => some 0
  | .sCmpGeImm _ _ => some 0
  | .sCmpLtuImm _ _ => some 0
  | .sCmpLeuImm _ _ => some 0
  | .sCmpGtuImm _ _ => some 0
  | .sCmpGeuImm _ _ => some 0
  | .sJmp _ => some 0
  | .sJal _ _ _ => some 0
  | .sJr _ => some 0
  | .sJbank _ _ => some 0
  | .sLoopReg _ _ => some 0
  | .sLoopImm _ _ => some 0
  | .sMark _ => some 0
  | .sTrap _ => some 0
  | .sTret _ => some 0
  | .sYield => some 0
  | .sHalt => some 0
  | .vAdd sl _ _ _ _ _ _ => some (match sl with | .va => 1 | .vb => 2)
  | .vSub sl _ _ _ _ _ _ => some (match sl with | .va => 1 | .vb => 2)
  | .vMul sl _ _ _ _ _ _ => some (match sl with | .va => 1 | .vb => 2)
  | .vFma sl _ _ _ _ _ _ => some (match sl with | .va => 1 | .vb => 2)
  | .vMin sl _ _ _ _ _ _ => some (match sl with | .va => 1 | .vb => 2)
  | .vMax sl _ _ _ _ _ _ => some (match sl with | .va => 1 | .vb => 2)
  | .vAbs sl _ _ _ _ _ => some (match sl with | .va => 1 | .vb => 2)
  | .vAnd sl _ _ _ _ _ => some (match sl with | .va => 1 | .vb => 2)
  | .vOr sl _ _ _ _ _ => some (match sl with | .va => 1 | .vb => 2)
  | .vXor sl _ _ _ _ _ => some (match sl with | .va => 1 | .vb => 2)
  | .vShlVec sl _ _ _ _ _ _ => some (match sl with | .va => 1 | .vb => 2)
  | .vShrVec sl _ _ _ _ _ _ => some (match sl with | .va => 1 | .vb => 2)
  | .vSarVec sl _ _ _ _ _ _ => some (match sl with | .va => 1 | .vb => 2)
  | .vShlImm sl _ _ _ _ _ _ => some (match sl with | .va => 1 | .vb => 2)
  | .vShrImm sl _ _ _ _ _ _ => some (match sl with | .va => 1 | .vb => 2)
  | .vSarImm sl _ _ _ _ _ _ => some (match sl with | .va => 1 | .vb => 2)
  | .vCmpEq sl _ _ _ _ _ _ => some (match sl with | .va => 1 | .vb => 2)
  | .vCmpNe sl _ _ _ _ _ _ => some (match sl with | .va => 1 | .vb => 2)
  | .vCmpLt sl _ _ _ _ _ _ => some (match sl with | .va => 1 | .vb => 2)
  | .vCmpLe sl _ _ _ _ _ _ => some (match sl with | .va => 1 | .vb => 2)
  | .vCmpGt sl _ _ _ _ _ _ => some (match sl with | .va => 1 | .vb => 2)
  | .vCmpGe sl _ _ _ _ _ _ => some (match sl with | .va => 1 | .vb => 2)
  | .vAny sl _ => some (match sl with | .va => 1 | .vb => 2)
  | .vAll sl _ => some (match sl with | .va => 1 | .vb => 2)
  | .vCvt sl _ _ _ _ _ _ _ => some (match sl with | .va => 1 | .vb => 2)
  | .vRq sl _ _ _ _ _ _ => some (match sl with | .va => 1 | .vb => 2)
  | .vScacc sl _ _ _ _ _ _ => some (match sl with | .va => 1 | .vb => 2)
  | .vPerm sl _ _ _ _ _ => some (match sl with | .va => 1 | .vb => 2)
  | .vRot sl _ _ _ _ _ => some (match sl with | .va => 1 | .vb => 2)
  | .vBcast sl _ _ _ _ => some (match sl with | .va => 1 | .vb => 2)
  | .vIota sl _ _ _ _ => some (match sl with | .va => 1 | .vb => 2)
  | .vExt sl _ _ _ _ => some (match sl with | .va => 1 | .vb => 2)
  | .vRsum sl _ _ _ _ _ => some (match sl with | .va => 1 | .vb => 2)
  | .vRmin sl _ _ _ _ _ => some (match sl with | .va => 1 | .vb => 2)
  | .vRmax sl _ _ _ _ _ => some (match sl with | .va => 1 | .vb => 2)
  | .vScan sl _ _ _ _ _ => some (match sl with | .va => 1 | .vb => 2)
  | .vRcp sl _ _ _ _ => some (match sl with | .va => 1 | .vb => 2)
  | .vRsq sl _ _ _ _ => some (match sl with | .va => 1 | .vb => 2)
  | .vExp2 sl _ _ _ _ => some (match sl with | .va => 1 | .vb => 2)
  | .vLog2 sl _ _ _ _ => some (match sl with | .va => 1 | .vb => 2)
  | .vThrcnt sl _ _ _ _ _ _ => some (match sl with | .va => 1 | .vb => 2)
  | .vThrsel sl _ _ _ _ _ _ => some (match sl with | .va => 1 | .vb => 2)
  | .vGnorm sl _ _ _ _ _ _ => some (match sl with | .va => 1 | .vb => 2)
  | .kAnd sl _ _ _ _ => some (match sl with | .va => 1 | .vb => 2)
  | .kOr sl _ _ _ _ => some (match sl with | .va => 1 | .vb => 2)
  | .kNot sl _ _ _ => some (match sl with | .va => 1 | .vb => 2)
  | .kPop sl _ _ _ => some (match sl with | .va => 1 | .vb => 2)
  | .ldS _ _ _ _ _ _ => some 4
  | .ldSB _ _ _ _ _ _ => some 4
  | .ldV _ _ _ _ => some 4
  | .ldVB _ _ _ _ => some 4
  | .ldVt _ _ _ _ => some 4
  | .ldG _ _ _ _ _ => some 4
  | .ldBc _ _ _ _ _ _ => some 4
  | .ldK _ _ _ _ => some 4
  | .pf _ _ => some 4
  | .res _ _ => some 4
  | .stS _ _ _ _ _ _ => some 5
  | .stV _ _ _ _ _ => some 5
  | .stVt _ _ _ => some 5
  | .stSc _ _ _ _ => some 5
  | .amoAdd _ _ _ _ _ _ _ => some 5
  | .amoMin _ _ _ _ _ _ _ => some 5
  | .amoMax _ _ _ _ _ _ _ => some 5
  | .amoAnd _ _ _ _ _ _ _ => some 5
  | .amoOr _ _ _ _ _ _ _ => some 5
  | .amoXor _ _ _ _ _ _ _ => some 5
  | .amoSwap _ _ _ _ _ _ _ => some 5
  | .amoCas _ _ _ _ _ _ _ => some 5
  | .mAcq => some 3
  | .mRel => some 3
  | .mMode _ _ => some 3
  | .mLdb _ _ => some 3
  | .mLdbEdge _ _ => some 3
  | .mLdbx _ _ => some 3
  | .mMma _ _ _ _ _ _ => some 3
  | .mZero _ => some 3
  | .mZpc _ _ _ _ => some 3
  | .mBind _ _ _ _ _ _ _ _ => some 3
  | .mDrainWrap _ _ _ _ _ _ _ => some 3
  | .mDrainSat _ _ _ _ _ _ _ => some 3
  | .mDrainRq _ _ _ _ _ _ _ => some 3
  | .mDrainFlt _ _ _ _ _ _ _ => some 3
  | .mSpill _ _ => some 3
  | .mFill _ _ => some 3
  | .mTopo _ _ _ _ => some 3
  | .mWait _ _ => some 3
  | .cpCopy _ _ _ => some 6
  | .cpGath _ _ _ => some 6
  | .cpScat _ _ _ => some 6
  | .cpFill _ _ _ => some 6
  | .cpExpand _ _ _ => some 6
  | .cpSeal _ _ _ => some 6
  | .cpGal _ _ _ => some 6
  | .cpColl _ _ _ => some 6
  | .cpCkpt _ _ _ => some 6
  | .cpJob _ _ _ => some 6
  | .cpCancel _ => some 6
  | .cpStat _ _ _ => some 6
  | .yPost _ _ _ _ => some 7
  | .yWait _ _ _ => some 7
  | .yWaitSig _ _ => some 7
  | .yFenceAcq _ => some 7
  | .yFenceRel _ => some 7
  | .yFenceAr _ => some 7
  | .yBar _ _ _ => some 7
  | .yBarw _ _ _ => some 7
  | .yWfe _ _ _ => some 7
  | .ySev _ _ _ => some 7
  | .ySig _ _ => some 7
  | .ySplit _ _ _ => some 7
  | .ySwap _ _ _ => some 7
  | .yIfence => some 7
  | .yTsrinv _ => some 7
  | .yTsrinvAll => some 7
  | .yQsub _ _ _ _ => some 7
  | .yQsubRe _ _ _ => some 7
  | .yQrun _ => some 7
  | .yQwait _ _ _ _ => some 7
  | .yHint _ _ => some 7
  | .yPin _ _ _ => some 7
  | .yUnpin _ _ _ => some 7
  | .yPlanrd _ _ => some 7
  | .yStatrd _ _ => some 7
  | .yStatwr _ _ => some 7
  | .yStatwrInv _ _ => some 7
  | .yLeave _ => some 7
  | .yLeaveRel _ => some 7
  | .dataToRequester => none
  | .registrationAnswer => none
  | .dieLinkRetry => none
  | .finzonReservedType => none
  | .hostLinkTraining => none

end Sys2Proof
end

