-- ==== Sys2Proof/Decode.lean ====
section
/-! DEFINITION. Decoding and encoding of bundles and slots (12 R282 to R296), with the order of checks of R303. Total on any
bits; every pattern that is not an instruction is rejected with its seal code. -/

namespace Sys2Proof

/-- The fields of a slot (12 R283). -/
structure Fields where
  tag : BitVec 3
  opc : BitVec 8
  ws : Bool
  d : BitVec 10
  a : BitVec 10
  b : BitVec 10
  c : BitVec 14
  imm : BitVec 34
  deriving DecidableEq, Repr

/-- The fields of a slot word (12 R283). -/
def Fields.of (w : SlotWord) : Fields where
  tag := w.extractLsb' 53 3
  opc := w.extractLsb' 45 8
  ws := w.getLsbD 44
  d := w.extractLsb' 34 10
  a := w.extractLsb' 24 10
  b := w.extractLsb' 14 10
  c := w.extractLsb' 0 14
  imm := w.extractLsb' 0 34

/-- MK, RMO, X and TY of a vector modifier (12 R291). -/
def Fields.mkBits (f : Fields) : BitVec 3 := f.c.extractLsb' 11 3
def Fields.rmo (f : Fields) : BitVec 3 := f.c.extractLsb' 8 3
def Fields.x (f : Fields) : BitVec 4 := f.c.extractLsb' 4 4
def Fields.ty (f : Fields) : BitVec 4 := f.c.extractLsb' 0 4

/-- A slot word from its fields. -/
def pack (tag : BitVec 3) (opc : BitVec 8) (ws : Bool) (d a b : BitVec 10) (c : BitVec 14) : SlotWord :=
  tag ++ opc ++ BitVec.ofBool ws ++ d ++ a ++ b ++ c

/-- A slot word with a 34-bit immediate. -/
def packI (tag : BitVec 3) (opc : BitVec 8) (ws : Bool) (d : BitVec 10) (imm : BitVec 34) : SlotWord :=
  tag ++ opc ++ BitVec.ofBool ws ++ d ++ imm

/-- A vector modifier (12 R291). -/
def vmod (mk rmo : BitVec 3) (x ty : BitVec 4) : BitVec 14 := mk ++ rmo ++ x ++ ty
/-- The MEM modifier of a load (12 R292). -/
def ldMod (sz : BitVec 2) (sx : Bool) : BitVec 10 := 0#7 ++ BitVec.ofBool sx ++ sz
/-- The MEM modifier of a store or atomic: SZ, SCOPE in 4:2, ORD in 6:5 (12 R292). -/
def stMod (sz : BitVec 2) (scope : BitVec 3) (ord : BitVec 2) : BitVec 10 := 0#3 ++ ord ++ scope ++ sz
/-- T and LBL of a matrix modifier (12 R293). -/
def tile (t : Bool) (lbl : BitVec 8) : BitVec 14 := 0#5 ++ BitVec.ofBool t ++ lbl

/-- The ten bits of a register operand (12 R284). -/
def Opnd.enc : Opnd → BitVec 10
  | .main n => BitVec.ofNat 10 n.val
  | .oper n => BitVec.ofNat 10 (256 + n.val)
  | .last n => BitVec.ofNat 10 (512 + n.val)
  | .latch s j => BitVec.ofNat 10 (768 + 32 * s.val + j.val)

/-- A source operand of class s or v (12 R284, R285). -/
def src (x : BitVec 10) : Except SealCode Opnd :=
  let i := x.toNat % 256
  match x.toNat / 256 with
  | 0 => if h : i < 64 then .ok (.main ⟨i, h⟩) else .error .badOperand
  | 1 => if h : i < 16 then .ok (.oper ⟨i, h⟩) else .error .badOperand
  | 2 => if h : i < 16 then .ok (.last ⟨i, h⟩) else .error .badOperand
  | _ =>
    let s : Fin 8 := ⟨i / 32 % 8, Nat.mod_lt _ (by decide)⟩
    let j : Fin 32 := ⟨i % 32, Nat.mod_lt _ (by decide)⟩
    if latchOk s j then .ok (.latch s j) else .error .badLatch

/-- A destination operand of class s or v. -/
def dst (x : BitVec 10) : Except SealCode Opnd :=
  let i := x.toNat % 256
  match x.toNat / 256 with
  | 0 => if h : i < 64 then .ok (.main ⟨i, h⟩) else .error .badOperand
  | 1 => if h : i < 16 then .ok (.oper ⟨i, h⟩) else .error .badOperand
  | _ => .error .badOperand

/-- A source operand of class k. -/
def srcK (x : BitVec 10) : Except SealCode Opnd :=
  match src x with
  | .ok o => if o.isKSrc then .ok o else .error .badOperand
  | .error e => .error e

/-- A destination operand of class k. -/
def dstK (x : BitVec 10) : Except SealCode Opnd :=
  match dst x with
  | .ok o => if o.isKDst then .ok o else .error .badOperand
  | .error e => .error e

/-- Bits that a form shows as zero (12 R289). -/
def zero (n : Nat) : Except SealCode Unit := if n = 0 then .ok () else .error .reservedBit
/-- An immediate or index inside its stated range (12 R296). -/
def operandIn (b : Bool) : Except SealCode Unit := if b then .ok () else .error .badOperand
/-- A target that no segment can hold (12 R287). -/
def branchIn (b : Bool) : Except SealCode Unit := if b then .ok () else .error .branchRange
/-- A modifier value that the instruction's entry lists (12 R289). -/
def listed (b : Bool) : Except SealCode Unit := if b then .ok () else .error .badOpcode
/-- An operation that writes no register has WS = 0 (12 R283). -/
def noWs (f : Fields) : Except SealCode Unit := if f.ws then .error .reservedBit else .ok ()

def formN (f : Fields) : Except SealCode Unit := do
  noWs f; zero f.d.toNat; zero f.a.toNat; zero f.b.toNat; zero f.c.toNat
def formA (f : Fields) : Except SealCode Unit := do
  noWs f; zero f.d.toNat; zero f.b.toNat; zero f.c.toNat
def formAI (f : Fields) : Except SealCode Unit := do
  noWs f; zero f.d.toNat; zero f.b.toNat
def formI (f : Fields) : Except SealCode Unit := do
  noWs f; zero f.d.toNat; zero f.a.toNat; zero f.b.toNat
def formDA (f : Fields) (k : Bool → Opnd → Opnd → Instr) : Except SealCode Instr := do
  zero f.b.toNat; zero f.c.toNat
  let d ← dst f.d; let a ← src f.a
  pure (k f.ws d a)
def formDAB (f : Fields) (k : Bool → Opnd → Opnd → Opnd → Instr) : Except SealCode Instr := do
  zero f.c.toNat
  let d ← dst f.d; let a ← src f.a; let b ← src f.b
  pure (k f.ws d a b)
def formDAI (f : Fields) (k : Bool → Opnd → Opnd → BitVec 14 → Instr) : Except SealCode Instr := do
  zero f.b.toNat
  let d ← dst f.d; let a ← src f.a
  pure (k f.ws d a f.c)
def formShift (f : Fields) (k : Bool → Opnd → Opnd → BitVec 6 → Instr) : Except SealCode Instr := do
  zero f.b.toNat
  let d ← dst f.d; let a ← src f.a
  operandIn (f.c.toNat ≤ 63)
  pure (k f.ws d a (f.c.setWidth 6))
def formSel (f : Fields) : Except SealCode Instr := do
  zero (f.c.toNat / 1024)
  let d ← dst f.d; let a ← src f.a; let b ← src f.b; let c ← src (f.c.setWidth 10)
  pure (.sSel f.ws d a b c)
/-- Vector forms DABM and DAM with RMO and X zero and a listed TY (14 R330). -/
def formV3 (f : Fields) (sl : VSlot) (tys : List Nat)
    (k : VSlot → Bool → Opnd → Opnd → Opnd → BitVec 3 → BitVec 4 → Instr) : Except SealCode Instr := do
  let d ← dst f.d; let a ← src f.a; let b ← src f.b
  listed (f.rmo == 0 && f.x == 0 && tyIn tys f.ty)
  pure (k sl f.ws d a b f.mkBits f.ty)
def formV2 (f : Fields) (sl : VSlot) (tys : List Nat)
    (k : VSlot → Bool → Opnd → Opnd → BitVec 3 → BitVec 4 → Instr) : Except SealCode Instr := do
  zero f.b.toNat
  let d ← dst f.d; let a ← src f.a
  listed (f.rmo == 0 && f.x == 0 && tyIn tys f.ty)
  pure (k sl f.ws d a f.mkBits f.ty)
def formVCount (f : Fields) (sl : VSlot) (tys : List Nat)
    (k : VSlot → Bool → Opnd → Opnd → BitVec 3 → BitVec 6 → BitVec 4 → Instr) : Except SealCode Instr := do
  zero (f.b.toNat / 64)
  let d ← dst f.d; let a ← src f.a
  listed (f.rmo == 0 && f.x == 0 && tyIn tys f.ty)
  pure (k sl f.ws d a f.mkBits (f.b.setWidth 6) f.ty)
/-- `v.cmp.<cc>`: X holds the condition (12 R291). -/
def formCmp (f : Fields) (sl : VSlot) : Except SealCode Instr := do
  let d ← dstK f.d; let a ← src f.a; let b ← src f.b
  listed (f.rmo == 0 && tyIn [0, 1, 2] f.ty && tyIn [0, 1, 2, 3, 4, 5] f.x)
  pure (match f.x.toNat with
    | 0 => .vCmpEq sl f.ws d a b f.mkBits f.ty
    | 1 => .vCmpNe sl f.ws d a b f.mkBits f.ty
    | 2 => .vCmpLt sl f.ws d a b f.mkBits f.ty
    | 3 => .vCmpLe sl f.ws d a b f.mkBits f.ty
    | 4 => .vCmpGt sl f.ws d a b f.mkBits f.ty
    | _ => .vCmpGe sl f.ws d a b f.mkBits f.ty)
def formLd (f : Fields) (ok : BitVec 2 → Bool → Bool)
    (k : Bool → Opnd → Opnd → BitVec 2 → Bool → BitVec 14 → Instr) : Except SealCode Instr := do
  let d ← dst f.d; let a ← src f.a
  listed (decide (f.b.toNat < 8) && ok (f.b.setWidth 2) (f.b.getLsbD 2))
  pure (k f.ws d a (f.b.setWidth 2) (f.b.getLsbD 2) f.c)
def formLdV (f : Fields) (k : Bool → Opnd → Opnd → BitVec 14 → Instr) : Except SealCode Instr := do
  let d ← dst f.d; let a ← src f.a
  listed (f.b == 0)
  pure (k f.ws d a f.c)
/-- MOD of a store: ORD 0 or 2, SCOPE 0 to 4, and 0 without ordering (15 R349). -/
def stModOk (m : BitVec 10) : Bool :=
  decide (m.toNat < 128) && !m.getLsbD 5 && relOk (m.getLsbD 6) (m.extractLsb' 2 3)
def formAmo (f : Fields) (ok : Opnd → Bool)
    (k : Bool → Opnd → Opnd → Bool → BitVec 2 → BitVec 3 → Opnd → Instr) : Except SealCode Instr := do
  zero (f.c.toNat / 1024)
  let d ← dst f.d; let a ← src f.a
  listed (decide (f.b.toNat < 128) && f.b.getLsbD 1 && relOk (f.b.extractLsb' 5 2 != 0#2) (f.b.extractLsb' 2 3))
  let c ← src (f.c.setWidth 10)
  operandIn (ok c)
  pure (k f.ws d a (f.b.getLsbD 0) (f.b.extractLsb' 5 2) (f.b.extractLsb' 2 3) c)
/-- `m.drain`: KIND in C bits 11:9 (12 R293). -/
def formDrain (f : Fields) : Except SealCode Instr := do
  let d ← dst f.d; let a ← src f.a; let b ← src f.b
  listed (f.c.toNat < 8192)
  let tr := f.c.getLsbD 12
  let t := f.c.getLsbD 8
  let lbl := f.c.setWidth 8
  match (f.c.extractLsb' 9 3).toNat with
  | 0 => pure (.mDrainWrap f.ws d a b tr t lbl)
  | 1 => pure (.mDrainSat f.ws d a b tr t lbl)
  | 2 => pure (.mDrainRq f.ws d a b tr t lbl)
  | 3 => pure (.mDrainFlt f.ws d a b tr t lbl)
  | _ => .error .badOpcode
/-- `y.fence`: kind in C bits 4:3, SCOPE in 2:0 (12 R295). -/
def formFence (f : Fields) : Except SealCode Instr := do
  formI f
  zero (f.c.toNat / 32)
  listed (scopeOk (f.c.setWidth 3))
  match (f.c.extractLsb' 3 2).toNat with
  | 1 => pure (.yFenceAcq (f.c.setWidth 3))
  | 2 => pure (.yFenceRel (f.c.setWidth 3))
  | 3 => pure (.yFenceAr (f.c.setWidth 3))
  | _ => .error .badOpcode
def formBar (f : Fields) (k : Opnd → BitVec 3 → BitVec 8 → Instr) : Except SealCode Instr := do
  formAI f
  zero (f.c.toNat / 2048)
  let a ← src f.a
  listed (scopeOk (f.c.extractLsb' 8 3))
  pure (k a (f.c.extractLsb' 8 3) (f.c.setWidth 8))

/-- Scalar slot (12 R290). -/
def decodeScalar (f : Fields) : Except SealCode Instr :=
  match f.opc.toNat with
  | 0x01 => formDAB f .sAddReg
  | 0x02 => formDAB f .sSub
  | 0x03 => formDAB f .sMulReg
  | 0x04 => formDAB f .sMulh
  | 0x05 => formDAB f .sDiv
  | 0x06 => formDAB f .sRem
  | 0x07 => formDAB f .sAndReg
  | 0x08 => formDAB f .sOrReg
  | 0x09 => formDAB f .sXorReg
  | 0x0a => formDAB f .sShlReg
  | 0x0b => formDAB f .sShrReg
  | 0x0c => formDAB f .sSarReg
  | 0x0d => formDAB f .sMinReg
  | 0x0e => formDAB f .sMaxReg
  | 0x0f => formSel f
  | 0x11 => formDAI f .sAddImm
  | 0x13 => formDAI f .sMulImm
  | 0x17 => formDAI f .sAndImm
  | 0x18 => formDAI f .sOrImm
  | 0x19 => formDAI f .sXorImm
  | 0x1a => formShift f .sShlImm
  | 0x1b => formShift f .sShrImm
  | 0x1c => formShift f .sSarImm
  | 0x1d => formDAI f .sMinImm
  | 0x1e => formDAI f .sMaxImm
  | 0x20 => do let d ← dst f.d; pure (.sLi f.ws d f.imm)
  | 0x21 => do zero (f.imm.toNat / 2 ^ 30); let d ← dst f.d; pure (.sLih f.ws d (f.imm.setWidth 30))
  | 0x22 => do let d ← dst f.d; let a ← src f.a; let b ← src f.b; operandIn (f.c.toNat ≤ 7); pure (.sAddsc f.ws d a b (f.c.setWidth 3))
  | 0x23 => do zero f.a.toNat; zero f.b.toNat; let d ← dst f.d; operandIn (f.c.toNat ≤ 8); pure (.sGetc f.ws d (f.c.setWidth 4))
  | 0x24 => do noWs f; zero f.d.toNat; zero f.b.toNat; let a ← src f.a; operandIn (f.c.toNat ≤ 7); pure (.sSetc a (f.c.setWidth 4))
  | 0x30 => do noWs f; zero f.d.toNat; zero f.c.toNat; let a ← src f.a; let b ← src f.b; pure (.sCmpEqReg a b)
  | 0x31 => do noWs f; zero f.d.toNat; zero f.c.toNat; let a ← src f.a; let b ← src f.b; pure (.sCmpNeReg a b)
  | 0x32 => do noWs f; zero f.d.toNat; zero f.c.toNat; let a ← src f.a; let b ← src f.b; pure (.sCmpLtReg a b)
  | 0x33 => do noWs f; zero f.d.toNat; zero f.c.toNat; let a ← src f.a; let b ← src f.b; pure (.sCmpLeReg a b)
  | 0x34 => do noWs f; zero f.d.toNat; zero f.c.toNat; let a ← src f.a; let b ← src f.b; pure (.sCmpGtReg a b)
  | 0x35 => do noWs f; zero f.d.toNat; zero f.c.toNat; let a ← src f.a; let b ← src f.b; pure (.sCmpGeReg a b)
  | 0x36 => do noWs f; zero f.d.toNat; zero f.c.toNat; let a ← src f.a; let b ← src f.b; pure (.sCmpLtuReg a b)
  | 0x37 => do noWs f; zero f.d.toNat; zero f.c.toNat; let a ← src f.a; let b ← src f.b; pure (.sCmpLeuReg a b)
  | 0x38 => do noWs f; zero f.d.toNat; zero f.c.toNat; let a ← src f.a; let b ← src f.b; pure (.sCmpGtuReg a b)
  | 0x39 => do noWs f; zero f.d.toNat; zero f.c.toNat; let a ← src f.a; let b ← src f.b; pure (.sCmpGeuReg a b)
  | 0x40 => do noWs f; zero f.d.toNat; zero f.b.toNat; let a ← src f.a; pure (.sCmpEqImm a f.c)
  | 0x41 => do noWs f; zero f.d.toNat; zero f.b.toNat; let a ← src f.a; pure (.sCmpNeImm a f.c)
  | 0x42 => do noWs f; zero f.d.toNat; zero f.b.toNat; let a ← src f.a; pure (.sCmpLtImm a f.c)
  | 0x43 => do noWs f; zero f.d.toNat; zero f.b.toNat; let a ← src f.a; pure (.sCmpLeImm a f.c)
  | 0x44 => do noWs f; zero f.d.toNat; zero f.b.toNat; let a ← src f.a; pure (.sCmpGtImm a f.c)
  | 0x45 => do noWs f; zero f.d.toNat; zero f.b.toNat; let a ← src f.a; pure (.sCmpGeImm a f.c)
  | 0x46 => do noWs f; zero f.d.toNat; zero f.b.toNat; let a ← src f.a; pure (.sCmpLtuImm a f.c)
  | 0x47 => do noWs f; zero f.d.toNat; zero f.b.toNat; let a ← src f.a; pure (.sCmpLeuImm a f.c)
  | 0x48 => do noWs f; zero f.d.toNat; zero f.b.toNat; let a ← src f.a; pure (.sCmpGtuImm a f.c)
  | 0x49 => do noWs f; zero f.d.toNat; zero f.b.toNat; let a ← src f.a; pure (.sCmpGeuImm a f.c)
  | 0x60 => do formI f; branchIn (f.c.toNat < 2048); pure (.sJmp (f.c.setWidth 11))
  | 0x61 => do zero f.a.toNat; zero f.b.toNat; let d ← dst f.d; branchIn (f.c.toNat < 2048); pure (.sJal f.ws d (f.c.setWidth 11))
  | 0x62 => do formA f; let a ← src f.a; pure (.sJr a)
  | 0x63 => do noWs f; zero f.d.toNat; zero (f.imm.toNat / 2 ^ 27); pure (.sJbank (f.imm.setWidth 16) (f.imm.extractLsb' 16 11))
  | 0x64 => do noWs f; zero f.d.toNat; zero f.b.toNat; let a ← src f.a; operandIn (1 ≤ f.c.toNat && f.c.toNat ≤ 2047); pure (.sLoopReg a (f.c.setWidth 11))
  | 0x65 => do noWs f; zero f.d.toNat; operandIn (1 ≤ f.c.toNat && f.c.toNat ≤ 2047); pure (.sLoopImm (f.imm.extractLsb' 14 20) (f.c.setWidth 11))
  | 0x66 => do formI f; operandIn (1 ≤ f.c.toNat && f.c.toNat ≤ 64); pure (.sMark (f.c.setWidth 7))
  | 0x67 => do formI f; operandIn (f.c.toNat ≤ 15); pure (.sTrap (f.c.setWidth 4))
  | 0x68 => do formA f; let a ← src f.a; pure (.sTret a)
  | 0x69 => do formN f; pure .sYield
  | 0x6a => do formN f; pure .sHalt
  | _ => .error .badOpcode

/-- Vector slots A and B, which share one map (12 R291, 14 R330). -/
def decodeVector (f : Fields) (sl : VSlot) : Except SealCode Instr :=
  match f.opc.toNat with
  | 0x01 => formV3 f sl [0, 1, 2, 3, 4, 5, 6] .vAdd
  | 0x02 => formV3 f sl [0, 1, 2, 3, 4, 5, 6] .vSub
  | 0x03 => formV3 f sl [0, 1, 2, 3, 4, 5, 6] .vMul
  | 0x04 => formV3 f sl [2, 5, 6] .vFma
  | 0x05 => formV3 f sl [0, 1, 2, 3, 4, 5, 6] .vMin
  | 0x06 => formV3 f sl [0, 1, 2, 3, 4, 5, 6] .vMax
  | 0x07 => formV2 f sl [0, 2, 3, 5, 6] .vAbs
  | 0x08 => formV3 f sl [0] fun sl ws d a b mk _ => .vAnd sl ws d a b mk
  | 0x09 => formV3 f sl [0] fun sl ws d a b mk _ => .vOr sl ws d a b mk
  | 0x0a => formV3 f sl [0] fun sl ws d a b mk _ => .vXor sl ws d a b mk
  | 0x0b => formV3 f sl [0, 1, 3, 4] .vShlVec
  | 0x0c => formV3 f sl [0, 1, 3, 4] .vShrVec
  | 0x0d => formV3 f sl [0, 1, 3, 4] .vSarVec
  | 0x10 => formCmp f sl
  | 0x11 => do formA f; let a ← srcK f.a; pure (.vAny sl a)
  | 0x12 => do formA f; let a ← srcK f.a; pure (.vAll sl a)
  | 0x1b => formVCount f sl [0, 1, 3, 4] .vShlImm
  | 0x1c => formVCount f sl [0, 1, 3, 4] .vShrImm
  | 0x1d => formVCount f sl [0, 1, 3, 4] .vSarImm
  | 0x20 => do zero f.b.toNat; let d ← dst f.d; let a ← src f.a; listed (cvtOk f.rmo f.ty f.x); pure (.vCvt sl f.ws d a f.mkBits f.rmo f.ty f.x)
  | 0x21 => do let d ← dst f.d; let a ← src f.a; operandIn (f.b.toNat < 512); let b ← src f.b; operandIn b.isPair; listed (f.rmo == 0 && f.ty == 0 && tyIn [0, 1, 2, 3, 9] f.x); pure (.vRq sl f.ws d a b f.mkBits f.x)
  | 0x22 => formV3 f sl [0, 2] .vScacc
  | 0x30 => formV3 f sl [0] fun sl ws d a b mk _ => .vPerm sl ws d a b mk
  | 0x31 => formVCount f sl [0] fun sl ws d a mk n _ => .vRot sl ws d a mk n
  | 0x32 => formV2 f sl [0] fun sl ws d a mk _ => .vBcast sl ws d a mk
  | 0x33 => do zero f.a.toNat; zero f.b.toNat; let d ← dst f.d; listed (f.rmo == 0 && f.x == 0 && tyIn [0, 2] f.ty); pure (.vIota sl f.ws d f.mkBits f.ty)
  | 0x34 => do zero (f.b.toNat / 64); zero f.c.toNat; let d ← dst f.d; let a ← src f.a; pure (.vExt sl f.ws d a (f.b.setWidth 6))
  | 0x40 => formV2 f sl [0, 1, 2] .vRsum
  | 0x41 => formV2 f sl [0, 1, 2] .vRmin
  | 0x42 => formV2 f sl [0, 1, 2] .vRmax
  | 0x43 => formV2 f sl [0, 1, 2] .vScan
  | 0x50 => formV2 f sl [2] fun sl ws d a mk _ => .vRcp sl ws d a mk
  | 0x51 => formV2 f sl [2] fun sl ws d a mk _ => .vRsq sl ws d a mk
  | 0x52 => formV2 f sl [2] fun sl ws d a mk _ => .vExp2 sl ws d a mk
  | 0x53 => formV2 f sl [2] fun sl ws d a mk _ => .vLog2 sl ws d a mk
  | 0x60 => formV3 f sl [0, 1, 2] .vThrcnt
  | 0x61 => formV3 f sl [0, 1, 2] .vThrsel
  | 0x62 => do let d ← dst f.d; let a ← src f.a; let b ← src f.b; listed (f.rmo == 0 && f.ty == 2 && decide (f.x.toNat < 8)); pure (.vGnorm sl f.ws d a b f.mkBits (f.x.setWidth 3))
  | 0x70 => do zero f.c.toNat; let d ← dstK f.d; let a ← srcK f.a; let b ← srcK f.b; pure (.kAnd sl f.ws d a b)
  | 0x71 => do zero f.c.toNat; let d ← dstK f.d; let a ← srcK f.a; let b ← srcK f.b; pure (.kOr sl f.ws d a b)
  | 0x72 => do zero f.b.toNat; zero f.c.toNat; let d ← dstK f.d; let a ← srcK f.a; pure (.kNot sl f.ws d a)
  | 0x73 => do zero f.b.toNat; zero f.c.toNat; let d ← dst f.d; let a ← srcK f.a; pure (.kPop sl f.ws d a)
  | _ => .error .badOpcode

/-- Matrix slot (12 R293). -/
def decodeMatrix (f : Fields) : Except SealCode Instr :=
  match f.opc.toNat with
  | 0x01 => do formN f; pure .mAcq
  | 0x02 => do formN f; pure .mRel
  | 0x03 => do formI f; zero (f.c.toNat / 4 % 64); zero (f.c.toNat / 512); listed (f.c.setWidth 2 != 3#2); pure (.mMode (f.c.getLsbD 8) (f.c.setWidth 2))
  | 0x04 => do noWs f; zero f.d.toNat; let a ← src f.a; let b ← src f.b; listed (f.c.toNat < 2); pure (if f.c == 1 then .mLdbEdge a b else .mLdb a b)
  | 0x05 => do noWs f; zero f.d.toNat; zero f.c.toNat; let a ← src f.a; let b ← src f.b; pure (.mLdbx a b)
  | 0x06 => do noWs f; zero f.d.toNat; let a ← src f.a; let b ← src f.b; listed (f.c.extractLsb' 10 4 != 15#4); pure (.mMma (f.c.extractLsb' 10 4) (f.c.getLsbD 9) (f.c.getLsbD 8) (f.c.setWidth 8) a b)
  | 0x07 => do formI f; zero (f.c.toNat % 256); zero (f.c.toNat / 512); pure (.mZero (f.c.getLsbD 8))
  | 0x08 => do noWs f; zero f.d.toNat; let a ← src f.a; let b ← src f.b; listed (f.c.toNat < 512); pure (.mZpc (f.c.getLsbD 8) (f.c.setWidth 8) a b)
  | 0x09 => do let d ← dst f.d; let a ← src f.a; let b ← src f.b; listed (f.c.toNat % 256 == 0 && f.c.toNat / 8192 == 0 && f.c.extractLsb' 10 2 != 3#2); pure (.mBind f.ws d a b (f.c.getLsbD 12) (f.c.extractLsb' 10 2) (f.c.getLsbD 9) (f.c.getLsbD 8))
  | 0x0a => formDrain f
  | 0x0b => do formI f; zero (f.c.toNat / 512); pure (.mSpill (f.c.getLsbD 8) (f.c.setWidth 8))
  | 0x0c => do formI f; zero (f.c.toNat / 512); pure (.mFill (f.c.getLsbD 8) (f.c.setWidth 8))
  | 0x0d => do noWs f; zero f.d.toNat; let a ← src f.a; let b ← src f.b; listed (f.c.toNat % 256 == 0 && f.c.toNat / 1024 == 0); pure (.mTopo (f.c.getLsbD 9) (f.c.getLsbD 8) a b)
  | 0x0e => do zero f.a.toNat; zero f.b.toNat; zero f.c.toNat; let d ← dst f.d; pure (.mWait f.ws d)
  | _ => .error .badOpcode

/-- Load slot (12 R292). -/
def decodeLoad (f : Fields) : Except SealCode Instr :=
  match f.opc.toNat with
  | 0x01 => formLd f (fun sz sx => !sx || sz != 3) .ldS
  | 0x02 => formLd f (fun sz sx => !sx || sz != 3) .ldSB
  | 0x03 => formLdV f .ldV
  | 0x04 => formLdV f .ldVB
  | 0x05 => do zero (f.b.toNat / 16); zero f.c.toNat; let d ← dst f.d; operandIn (f.a.toNat < 256); let a ← src f.a; operandIn (a.isRun (f.b.setWidth 4)); pure (.ldVt f.ws d a (f.b.setWidth 4))
  | 0x06 => do let d ← dst f.d; let a ← src f.a; let b ← src f.b; listed (decide (f.c.toNat < 3)); pure (.ldG f.ws d a b (f.c.setWidth 2))
  | 0x07 => formLd f (fun sz sx => !sx || decide (sz.toNat < 2)) .ldBc
  | 0x08 => do zero f.b.toNat; let d ← dstK f.d; let a ← src f.a; pure (.ldK f.ws d a f.c)
  | 0x09 => do noWs f; zero f.d.toNat; zero f.b.toNat; let a ← src f.a; pure (.pf a f.c)
  | 0x0a => do noWs f; zero f.d.toNat; zero f.c.toNat; let a ← src f.a; let b ← src f.b; pure (.res a b)
  | _ => .error .badOpcode

/-- Store slot (12 R292). -/
def decodeStore (f : Fields) : Except SealCode Instr :=
  match f.opc.toNat with
  | 0x01 => do noWs f; let d ← src f.d; let a ← src f.a; listed (stModOk f.b); pure (.stS d a (f.b.setWidth 2) (f.b.getLsbD 6) (f.b.extractLsb' 2 3) f.c)
  | 0x02 => do noWs f; let d ← src f.d; let a ← src f.a; listed (stModOk f.b && f.b.setWidth 2 == 0#2); pure (.stV d a (f.b.getLsbD 6) (f.b.extractLsb' 2 3) f.c)
  | 0x03 => do noWs f; zero (f.b.toNat / 16); zero f.c.toNat; let d ← src f.d; operandIn (f.a.toNat < 256); let a ← src f.a; operandIn (a.isRun (f.b.setWidth 4)); pure (.stVt d a (f.b.setWidth 4))
  | 0x04 => do noWs f; let d ← src f.d; let a ← src f.a; let b ← src f.b; listed (decide (f.c.toNat < 3)); pure (.stSc d a b (f.c.setWidth 2))
  | 0x10 => formAmo f (fun _ => true) .amoAdd
  | 0x11 => formAmo f (fun _ => true) .amoMin
  | 0x12 => formAmo f (fun _ => true) .amoMax
  | 0x13 => formAmo f (fun _ => true) .amoAnd
  | 0x14 => formAmo f (fun _ => true) .amoOr
  | 0x15 => formAmo f (fun _ => true) .amoXor
  | 0x16 => formAmo f (fun _ => true) .amoSwap
  | 0x17 => formAmo f (fun c => c.isLow) .amoCas
  | _ => .error .badOpcode

/-- Copy slot (12 R294). -/
def decodeCopy (f : Fields) : Except SealCode Instr :=
  match f.opc.toNat with
  | 0x01 => formDA f .cpCopy
  | 0x02 => formDA f .cpGath
  | 0x03 => formDA f .cpScat
  | 0x04 => formDA f .cpFill
  | 0x05 => formDA f .cpExpand
  | 0x06 => formDA f .cpSeal
  | 0x07 => formDA f .cpGal
  | 0x08 => formDA f .cpColl
  | 0x09 => formDA f .cpCkpt
  | 0x0f => formDA f .cpJob
  | 0x10 => do formA f; let a ← src f.a; pure (.cpCancel a)
  | 0x11 => formDA f .cpStat
  | _ => .error .badOpcode

/-- Sync slot (12 R295). -/
def decodeSync (f : Fields) : Except SealCode Instr :=
  match f.opc.toNat with
  | 0x01 => do formAI f; zero (f.c.toNat / 512); let a ← src f.a; operandIn (ownOk (f.c.getLsbD 8) a); listed (scopeOk (f.c.extractLsb' 5 3)); pure (.yPost a (f.c.getLsbD 8) (f.c.extractLsb' 5 3) (f.c.setWidth 5))
  | 0x02 => do formAI f; zero (f.c.toNat / 512); zero (if f.c.getLsbD 8 then f.c.toNat % 32 else 0); let a ← src f.a; listed (scopeOk (f.c.extractLsb' 5 3)); pure (if f.c.getLsbD 8 then .yWaitSig a (f.c.extractLsb' 5 3) else .yWait a (f.c.extractLsb' 5 3) (f.c.setWidth 5))
  | 0x03 => formFence f
  | 0x04 => formBar f .yBar
  | 0x05 => formBar f .yBarw
  | 0x06 => formDA f .yWfe
  | 0x07 => do formAI f; zero (f.c.toNat / 512); let a ← src f.a; operandIn (ownOk (f.c.getLsbD 8) a); pure (.ySev a (f.c.getLsbD 8) (f.c.setWidth 8))
  | 0x08 => do formAI f; zero (f.c.toNat / 8); let a ← src f.a; listed (scopeOk (f.c.setWidth 3)); pure (.ySig a (f.c.setWidth 3))
  | 0x09 => do zero f.a.toNat; zero f.b.toNat; zero (f.c.toNat / 16); let d ← dst f.d; pure (.ySplit f.ws d (f.c.setWidth 4))
  | 0x0a => do zero f.a.toNat; zero f.b.toNat; zero (f.c.toNat / 8); let d ← dst f.d; pure (.ySwap f.ws d (f.c.setWidth 3))
  | 0x0b => do formN f; pure .yIfence
  | 0x0c => do formAI f; zero (f.c.toNat / 2); let a ← src f.a; operandIn (f.c == 0 || a == .main 0); pure (if f.c == 1 then .yTsrinvAll else .yTsrinv a)
  | 0x10 => do zero (f.c.toNat / 512); zero (if f.c.getLsbD 8 then 0 else f.c.toNat % 256); let d ← dst f.d; let a ← src f.a; let b ← src f.b; operandIn (!f.c.getLsbD 8 || (a == .main 0 && b == .main 0)); pure (if f.c.getLsbD 8 then .yQsubRe f.ws d (f.c.setWidth 8) else .yQsub f.ws d a b)
  | 0x11 => do formA f; let a ← src f.a; pure (.yQrun a)
  | 0x12 => do zero f.b.toNat; zero (f.c.toNat / 2); let d ← dst f.d; let a ← src f.a; pure (.yQwait f.ws d a (f.c.getLsbD 0))
  | 0x13 => do noWs f; zero f.d.toNat; zero f.c.toNat; let a ← src f.a; let b ← src f.b; pure (.yHint a b)
  | 0x14 => do formAI f; zero (f.c.toNat / 64); zero (if f.c.getLsbD 5 then f.c.toNat % 32 else 0); let a ← src f.a; pure (.yPin a (f.c.getLsbD 5) (f.c.setWidth 5))
  | 0x15 => do formAI f; zero (f.c.toNat / 64); zero (if f.c.getLsbD 5 then f.c.toNat % 32 else 0); let a ← src f.a; pure (.yUnpin a (f.c.getLsbD 5) (f.c.setWidth 5))
  | 0x16 => do noWs f; zero f.d.toNat; zero f.c.toNat; let a ← src f.a; let b ← src f.b; pure (.yPlanrd a b)
  | 0x17 => do noWs f; zero f.d.toNat; zero f.c.toNat; let a ← src f.a; let b ← src f.b; pure (.yStatrd a b)
  | 0x18 => do noWs f; zero f.d.toNat; zero (f.c.toNat / 2); let a ← src f.a; let b ← src f.b; pure (if f.c == 1 then .yStatwrInv a b else .yStatwr a b)
  | 0x19 => do formI f; zero (f.c.toNat / 8); pure (if f.c.getLsbD 2 then .yLeaveRel (f.c.setWidth 2) else .yLeave (f.c.setWidth 2))
  | _ => .error .badOpcode

/-- A slot of a bundle (12 R283): none for a nop, which is all zero; OPC = 0 with any other bit set is rejected. -/
def decodeSlot (slot : Fin 8) (w : SlotWord) : Except SealCode (Option Instr) :=
  if w = 0 then .ok none
  else
    let f := Fields.of w
    if f.opc = 0 then .error .reservedBit
    else
      (match slot.val with
        | 0 => decodeScalar f
        | 1 => decodeVector f .va
        | 2 => decodeVector f .vb
        | 3 => decodeMatrix f
        | 4 => decodeLoad f
        | 5 => decodeStore f
        | 6 => decodeCopy f
        | _ => decodeSync f).map some

/-- The 56-bit slot of an operation with path tag `tag` (12 R283, R289 to R295). An event has no encoding. -/
def encode (tag : BitVec 3) (i : Instr) : SlotWord :=
  match i with
  | .sAddReg ws d a b => pack tag 0x01 ws d.enc a.enc b.enc 0
  | .sAddImm ws d a imm => pack tag 0x11 ws d.enc a.enc 0 imm
  | .sSub ws d a b => pack tag 0x02 ws d.enc a.enc b.enc 0
  | .sMulReg ws d a b => pack tag 0x03 ws d.enc a.enc b.enc 0
  | .sMulImm ws d a imm => pack tag 0x13 ws d.enc a.enc 0 imm
  | .sMulh ws d a b => pack tag 0x04 ws d.enc a.enc b.enc 0
  | .sDiv ws d a b => pack tag 0x05 ws d.enc a.enc b.enc 0
  | .sRem ws d a b => pack tag 0x06 ws d.enc a.enc b.enc 0
  | .sAndReg ws d a b => pack tag 0x07 ws d.enc a.enc b.enc 0
  | .sAndImm ws d a imm => pack tag 0x17 ws d.enc a.enc 0 imm
  | .sOrReg ws d a b => pack tag 0x08 ws d.enc a.enc b.enc 0
  | .sOrImm ws d a imm => pack tag 0x18 ws d.enc a.enc 0 imm
  | .sXorReg ws d a b => pack tag 0x09 ws d.enc a.enc b.enc 0
  | .sXorImm ws d a imm => pack tag 0x19 ws d.enc a.enc 0 imm
  | .sShlReg ws d a b => pack tag 0x0a ws d.enc a.enc b.enc 0
  | .sShlImm ws d a n => pack tag 0x1a ws d.enc a.enc 0 (BitVec.setWidth 14 n)
  | .sShrReg ws d a b => pack tag 0x0b ws d.enc a.enc b.enc 0
  | .sShrImm ws d a n => pack tag 0x1b ws d.enc a.enc 0 (BitVec.setWidth 14 n)
  | .sSarReg ws d a b => pack tag 0x0c ws d.enc a.enc b.enc 0
  | .sSarImm ws d a n => pack tag 0x1c ws d.enc a.enc 0 (BitVec.setWidth 14 n)
  | .sMinReg ws d a b => pack tag 0x0d ws d.enc a.enc b.enc 0
  | .sMinImm ws d a imm => pack tag 0x1d ws d.enc a.enc 0 imm
  | .sMaxReg ws d a b => pack tag 0x0e ws d.enc a.enc b.enc 0
  | .sMaxImm ws d a imm => pack tag 0x1e ws d.enc a.enc 0 imm
  | .sSel ws d a b c => pack tag 0x0f ws d.enc a.enc b.enc (BitVec.setWidth 14 c.enc)
  | .sLi ws d imm => packI tag 0x20 ws d.enc imm
  | .sLih ws d imm => packI tag 0x21 ws d.enc (BitVec.setWidth 34 imm)
  | .sAddsc ws d a b sh => pack tag 0x22 ws d.enc a.enc b.enc (BitVec.setWidth 14 sh)
  | .sGetc ws d n => pack tag 0x23 ws d.enc 0 0 (BitVec.setWidth 14 n)
  | .sSetc a n => pack tag 0x24 false 0 a.enc 0 (BitVec.setWidth 14 n)
  | .sCmpEqReg a b => pack tag 0x30 false 0 a.enc b.enc 0
  | .sCmpNeReg a b => pack tag 0x31 false 0 a.enc b.enc 0
  | .sCmpLtReg a b => pack tag 0x32 false 0 a.enc b.enc 0
  | .sCmpLeReg a b => pack tag 0x33 false 0 a.enc b.enc 0
  | .sCmpGtReg a b => pack tag 0x34 false 0 a.enc b.enc 0
  | .sCmpGeReg a b => pack tag 0x35 false 0 a.enc b.enc 0
  | .sCmpLtuReg a b => pack tag 0x36 false 0 a.enc b.enc 0
  | .sCmpLeuReg a b => pack tag 0x37 false 0 a.enc b.enc 0
  | .sCmpGtuReg a b => pack tag 0x38 false 0 a.enc b.enc 0
  | .sCmpGeuReg a b => pack tag 0x39 false 0 a.enc b.enc 0
  | .sCmpEqImm a imm => pack tag 0x40 false 0 a.enc 0 imm
  | .sCmpNeImm a imm => pack tag 0x41 false 0 a.enc 0 imm
  | .sCmpLtImm a imm => pack tag 0x42 false 0 a.enc 0 imm
  | .sCmpLeImm a imm => pack tag 0x43 false 0 a.enc 0 imm
  | .sCmpGtImm a imm => pack tag 0x44 false 0 a.enc 0 imm
  | .sCmpGeImm a imm => pack tag 0x45 false 0 a.enc 0 imm
  | .sCmpLtuImm a imm => pack tag 0x46 false 0 a.enc 0 imm
  | .sCmpLeuImm a imm => pack tag 0x47 false 0 a.enc 0 imm
  | .sCmpGtuImm a imm => pack tag 0x48 false 0 a.enc 0 imm
  | .sCmpGeuImm a imm => pack tag 0x49 false 0 a.enc 0 imm
  | .sJmp t => pack tag 0x60 false 0 0 0 (BitVec.setWidth 14 t)
  | .sJal ws d t => pack tag 0x61 ws d.enc 0 0 (BitVec.setWidth 14 t)
  | .sJr a => pack tag 0x62 false 0 a.enc 0 0
  | .sJbank seg x => packI tag 0x63 false 0 (BitVec.setWidth 34 (x ++ seg))
  | .sLoopReg a off => pack tag 0x64 false 0 a.enc 0 (BitVec.setWidth 14 off)
  | .sLoopImm count off => packI tag 0x65 false 0 (count ++ BitVec.setWidth 14 off)
  | .sMark n => pack tag 0x66 false 0 0 0 (BitVec.setWidth 14 n)
  | .sTrap n => pack tag 0x67 false 0 0 0 (BitVec.setWidth 14 n)
  | .sTret a => pack tag 0x68 false 0 a.enc 0 0
  | .sYield => pack tag 0x69 false 0 0 0 0
  | .sHalt => pack tag 0x6a false 0 0 0 0
  | .vAdd _ ws d a b mk ty => pack tag 0x01 ws d.enc a.enc b.enc (vmod mk 0 0 ty)
  | .vSub _ ws d a b mk ty => pack tag 0x02 ws d.enc a.enc b.enc (vmod mk 0 0 ty)
  | .vMul _ ws d a b mk ty => pack tag 0x03 ws d.enc a.enc b.enc (vmod mk 0 0 ty)
  | .vFma _ ws d a b mk ty => pack tag 0x04 ws d.enc a.enc b.enc (vmod mk 0 0 ty)
  | .vMin _ ws d a b mk ty => pack tag 0x05 ws d.enc a.enc b.enc (vmod mk 0 0 ty)
  | .vMax _ ws d a b mk ty => pack tag 0x06 ws d.enc a.enc b.enc (vmod mk 0 0 ty)
  | .vAbs _ ws d a mk ty => pack tag 0x07 ws d.enc a.enc 0 (vmod mk 0 0 ty)
  | .vAnd _ ws d a b mk => pack tag 0x08 ws d.enc a.enc b.enc (vmod mk 0 0 0)
  | .vOr _ ws d a b mk => pack tag 0x09 ws d.enc a.enc b.enc (vmod mk 0 0 0)
  | .vXor _ ws d a b mk => pack tag 0x0a ws d.enc a.enc b.enc (vmod mk 0 0 0)
  | .vShlVec _ ws d a b mk ty => pack tag 0x0b ws d.enc a.enc b.enc (vmod mk 0 0 ty)
  | .vShrVec _ ws d a b mk ty => pack tag 0x0c ws d.enc a.enc b.enc (vmod mk 0 0 ty)
  | .vSarVec _ ws d a b mk ty => pack tag 0x0d ws d.enc a.enc b.enc (vmod mk 0 0 ty)
  | .vShlImm _ ws d a mk n ty => pack tag 0x1b ws d.enc a.enc (BitVec.setWidth 10 n) (vmod mk 0 0 ty)
  | .vShrImm _ ws d a mk n ty => pack tag 0x1c ws d.enc a.enc (BitVec.setWidth 10 n) (vmod mk 0 0 ty)
  | .vSarImm _ ws d a mk n ty => pack tag 0x1d ws d.enc a.enc (BitVec.setWidth 10 n) (vmod mk 0 0 ty)
  | .vCmpEq _ ws d a b mk ty => pack tag 0x10 ws d.enc a.enc b.enc (vmod mk 0 0 ty)
  | .vCmpNe _ ws d a b mk ty => pack tag 0x10 ws d.enc a.enc b.enc (vmod mk 0 1 ty)
  | .vCmpLt _ ws d a b mk ty => pack tag 0x10 ws d.enc a.enc b.enc (vmod mk 0 2 ty)
  | .vCmpLe _ ws d a b mk ty => pack tag 0x10 ws d.enc a.enc b.enc (vmod mk 0 3 ty)
  | .vCmpGt _ ws d a b mk ty => pack tag 0x10 ws d.enc a.enc b.enc (vmod mk 0 4 ty)
  | .vCmpGe _ ws d a b mk ty => pack tag 0x10 ws d.enc a.enc b.enc (vmod mk 0 5 ty)
  | .vAny _ a => pack tag 0x11 false 0 a.enc 0 0
  | .vAll _ a => pack tag 0x12 false 0 a.enc 0 0
  | .vCvt _ ws d a mk rmo src dst => pack tag 0x20 ws d.enc a.enc 0 (vmod mk rmo dst src)
  | .vRq _ ws d a b mk dst => pack tag 0x21 ws d.enc a.enc b.enc (vmod mk 0 dst 0)
  | .vScacc _ ws d a b mk ty => pack tag 0x22 ws d.enc a.enc b.enc (vmod mk 0 0 ty)
  | .vPerm _ ws d a b mk => pack tag 0x30 ws d.enc a.enc b.enc (vmod mk 0 0 0)
  | .vRot _ ws d a mk n => pack tag 0x31 ws d.enc a.enc (BitVec.setWidth 10 n) (vmod mk 0 0 0)
  | .vBcast _ ws d a mk => pack tag 0x32 ws d.enc a.enc 0 (vmod mk 0 0 0)
  | .vIota _ ws d mk ty => pack tag 0x33 ws d.enc 0 0 (vmod mk 0 0 ty)
  | .vExt _ ws d a n => pack tag 0x34 ws d.enc a.enc (BitVec.setWidth 10 n) 0
  | .vRsum _ ws d a mk ty => pack tag 0x40 ws d.enc a.enc 0 (vmod mk 0 0 ty)
  | .vRmin _ ws d a mk ty => pack tag 0x41 ws d.enc a.enc 0 (vmod mk 0 0 ty)
  | .vRmax _ ws d a mk ty => pack tag 0x42 ws d.enc a.enc 0 (vmod mk 0 0 ty)
  | .vScan _ ws d a mk ty => pack tag 0x43 ws d.enc a.enc 0 (vmod mk 0 0 ty)
  | .vRcp _ ws d a mk => pack tag 0x50 ws d.enc a.enc 0 (vmod mk 0 0 2)
  | .vRsq _ ws d a mk => pack tag 0x51 ws d.enc a.enc 0 (vmod mk 0 0 2)
  | .vExp2 _ ws d a mk => pack tag 0x52 ws d.enc a.enc 0 (vmod mk 0 0 2)
  | .vLog2 _ ws d a mk => pack tag 0x53 ws d.enc a.enc 0 (vmod mk 0 0 2)
  | .vThrcnt _ ws d a b mk ty => pack tag 0x60 ws d.enc a.enc b.enc (vmod mk 0 0 ty)
  | .vThrsel _ ws d a b mk ty => pack tag 0x61 ws d.enc a.enc b.enc (vmod mk 0 0 ty)
  | .vGnorm _ ws d a b mk kx => pack tag 0x62 ws d.enc a.enc b.enc (vmod mk 0 (BitVec.setWidth 4 kx) 2)
  | .kAnd _ ws d a b => pack tag 0x70 ws d.enc a.enc b.enc 0
  | .kOr _ ws d a b => pack tag 0x71 ws d.enc a.enc b.enc 0
  | .kNot _ ws d a => pack tag 0x72 ws d.enc a.enc 0 0
  | .kPop _ ws d a => pack tag 0x73 ws d.enc a.enc 0 0
  | .ldS ws d a sz sx off => pack tag 0x01 ws d.enc a.enc (ldMod sz sx) off
  | .ldSB ws d a sz sx off => pack tag 0x02 ws d.enc a.enc (ldMod sz sx) off
  | .ldV ws d a off => pack tag 0x03 ws d.enc a.enc 0 off
  | .ldVB ws d a off => pack tag 0x04 ws d.enc a.enc 0 off
  | .ldVt ws d a n => pack tag 0x05 ws d.enc a.enc (BitVec.setWidth 10 n) 0
  | .ldG ws d a b sz => pack tag 0x06 ws d.enc a.enc b.enc (BitVec.setWidth 14 sz)
  | .ldBc ws d a sz sx off => pack tag 0x07 ws d.enc a.enc (ldMod sz sx) off
  | .ldK ws d a off => pack tag 0x08 ws d.enc a.enc 0 off
  | .pf a off => pack tag 0x09 false 0 a.enc 0 off
  | .res a b => pack tag 0x0a false 0 a.enc b.enc 0
  | .stS d a sz rel scope off => pack tag 0x01 false d.enc a.enc (stMod sz scope (if rel then 2 else 0)) off
  | .stV d a rel scope off => pack tag 0x02 false d.enc a.enc (stMod 0 scope (if rel then 2 else 0)) off
  | .stVt d a n => pack tag 0x03 false d.enc a.enc (BitVec.setWidth 10 n) 0
  | .stSc d a b sz => pack tag 0x04 false d.enc a.enc b.enc (BitVec.setWidth 14 sz)
  | .amoAdd ws d a w8 ord scope c => pack tag 0x10 ws d.enc a.enc (stMod (if w8 then 3 else 2) scope ord) (BitVec.setWidth 14 c.enc)
  | .amoMin ws d a w8 ord scope c => pack tag 0x11 ws d.enc a.enc (stMod (if w8 then 3 else 2) scope ord) (BitVec.setWidth 14 c.enc)
  | .amoMax ws d a w8 ord scope c => pack tag 0x12 ws d.enc a.enc (stMod (if w8 then 3 else 2) scope ord) (BitVec.setWidth 14 c.enc)
  | .amoAnd ws d a w8 ord scope c => pack tag 0x13 ws d.enc a.enc (stMod (if w8 then 3 else 2) scope ord) (BitVec.setWidth 14 c.enc)
  | .amoOr ws d a w8 ord scope c => pack tag 0x14 ws d.enc a.enc (stMod (if w8 then 3 else 2) scope ord) (BitVec.setWidth 14 c.enc)
  | .amoXor ws d a w8 ord scope c => pack tag 0x15 ws d.enc a.enc (stMod (if w8 then 3 else 2) scope ord) (BitVec.setWidth 14 c.enc)
  | .amoSwap ws d a w8 ord scope c => pack tag 0x16 ws d.enc a.enc (stMod (if w8 then 3 else 2) scope ord) (BitVec.setWidth 14 c.enc)
  | .amoCas ws d a w8 ord scope c => pack tag 0x17 ws d.enc a.enc (stMod (if w8 then 3 else 2) scope ord) (BitVec.setWidth 14 c.enc)
  | .mAcq => pack tag 0x01 false 0 0 0 0
  | .mRel => pack tag 0x02 false 0 0 0 0
  | .mMode t mode => pack tag 0x03 false 0 0 0 (tile t 0 ||| BitVec.setWidth 14 mode)
  | .mLdb a b => pack tag 0x04 false 0 a.enc b.enc 0
  | .mLdbEdge a b => pack tag 0x04 false 0 a.enc b.enc 1
  | .mLdbx a b => pack tag 0x05 false 0 a.enc b.enc 0
  | .mMma pair h t lbl a b => pack tag 0x06 false 0 a.enc b.enc (pair ++ BitVec.ofBool h ++ BitVec.ofBool t ++ lbl)
  | .mZero t => pack tag 0x07 false 0 0 0 (tile t 0)
  | .mZpc t lbl a b => pack tag 0x08 false 0 a.enc b.enc (tile t lbl)
  | .mBind ws d a b clr fmt axis t => pack tag 0x09 ws d.enc a.enc b.enc (0#1 ++ BitVec.ofBool clr ++ fmt ++ BitVec.ofBool axis ++ BitVec.ofBool t ++ 0#8)
  | .mDrainWrap ws d a b tr t lbl => pack tag 0x0a ws d.enc a.enc b.enc (0#1 ++ BitVec.ofBool tr ++ 0#3 ++ BitVec.ofBool t ++ lbl)
  | .mDrainSat ws d a b tr t lbl => pack tag 0x0a ws d.enc a.enc b.enc (0#1 ++ BitVec.ofBool tr ++ 1#3 ++ BitVec.ofBool t ++ lbl)
  | .mDrainRq ws d a b tr t lbl => pack tag 0x0a ws d.enc a.enc b.enc (0#1 ++ BitVec.ofBool tr ++ 2#3 ++ BitVec.ofBool t ++ lbl)
  | .mDrainFlt ws d a b tr t lbl => pack tag 0x0a ws d.enc a.enc b.enc (0#1 ++ BitVec.ofBool tr ++ 3#3 ++ BitVec.ofBool t ++ lbl)
  | .mSpill t lbl => pack tag 0x0b false 0 0 0 (tile t lbl)
  | .mFill t lbl => pack tag 0x0c false 0 0 0 (tile t lbl)
  | .mTopo h t a b => pack tag 0x0d false 0 a.enc b.enc (0#4 ++ BitVec.ofBool h ++ BitVec.ofBool t ++ 0#8)
  | .mWait ws d => pack tag 0x0e ws d.enc 0 0 0
  | .cpCopy ws d a => pack tag 0x01 ws d.enc a.enc 0 0
  | .cpGath ws d a => pack tag 0x02 ws d.enc a.enc 0 0
  | .cpScat ws d a => pack tag 0x03 ws d.enc a.enc 0 0
  | .cpFill ws d a => pack tag 0x04 ws d.enc a.enc 0 0
  | .cpExpand ws d a => pack tag 0x05 ws d.enc a.enc 0 0
  | .cpSeal ws d a => pack tag 0x06 ws d.enc a.enc 0 0
  | .cpGal ws d a => pack tag 0x07 ws d.enc a.enc 0 0
  | .cpColl ws d a => pack tag 0x08 ws d.enc a.enc 0 0
  | .cpCkpt ws d a => pack tag 0x09 ws d.enc a.enc 0 0
  | .cpJob ws d a => pack tag 0x0f ws d.enc a.enc 0 0
  | .cpCancel a => pack tag 0x10 false 0 a.enc 0 0
  | .cpStat ws d a => pack tag 0x11 ws d.enc a.enc 0 0
  | .yPost a own scope flag => pack tag 0x01 false 0 a.enc 0 (0#5 ++ BitVec.ofBool own ++ scope ++ flag)
  | .yWait a scope flag => pack tag 0x02 false 0 a.enc 0 (0#6 ++ scope ++ flag)
  | .yWaitSig a scope => pack tag 0x02 false 0 a.enc 0 (0#5 ++ 1#1 ++ scope ++ 0#5)
  | .yFenceAcq scope => pack tag 0x03 false 0 0 0 (0#9 ++ 1#2 ++ scope)
  | .yFenceRel scope => pack tag 0x03 false 0 0 0 (0#9 ++ 2#2 ++ scope)
  | .yFenceAr scope => pack tag 0x03 false 0 0 0 (0#9 ++ 3#2 ++ scope)
  | .yBar a scope bar => pack tag 0x04 false 0 a.enc 0 (0#3 ++ scope ++ bar)
  | .yBarw a scope bar => pack tag 0x05 false 0 a.enc 0 (0#3 ++ scope ++ bar)
  | .yWfe ws d a => pack tag 0x06 ws d.enc a.enc 0 0
  | .ySev a own ev => pack tag 0x07 false 0 a.enc 0 (0#5 ++ BitVec.ofBool own ++ ev)
  | .ySig a scope => pack tag 0x08 false 0 a.enc 0 (BitVec.setWidth 14 scope)
  | .ySplit ws d n => pack tag 0x09 ws d.enc 0 0 (BitVec.setWidth 14 n)
  | .ySwap ws d e => pack tag 0x0a ws d.enc 0 0 (BitVec.setWidth 14 e)
  | .yIfence => pack tag 0x0b false 0 0 0 0
  | .yTsrinv a => pack tag 0x0c false 0 a.enc 0 0
  | .yTsrinvAll => pack tag 0x0c false 0 0 0 1
  | .yQsub ws d a b => pack tag 0x10 ws d.enc a.enc b.enc 0
  | .yQsubRe ws d h => pack tag 0x10 ws d.enc 0 0 (0#5 ++ 1#1 ++ h)
  | .yQrun a => pack tag 0x11 false 0 a.enc 0 0
  | .yQwait ws d a rel => pack tag 0x12 ws d.enc a.enc 0 (BitVec.setWidth 14 (BitVec.ofBool rel))
  | .yHint a b => pack tag 0x13 false 0 a.enc b.enc 0
  | .yPin a whole node => pack tag 0x14 false 0 a.enc 0 (0#8 ++ BitVec.ofBool whole ++ node)
  | .yUnpin a whole node => pack tag 0x15 false 0 a.enc 0 (0#8 ++ BitVec.ofBool whole ++ node)
  | .yPlanrd a b => pack tag 0x16 false 0 a.enc b.enc 0
  | .yStatrd a b => pack tag 0x17 false 0 a.enc b.enc 0
  | .yStatwr a b => pack tag 0x18 false 0 a.enc b.enc 0
  | .yStatwrInv a b => pack tag 0x18 false 0 a.enc b.enc 1
  | .yLeave cls => pack tag 0x19 false 0 0 0 (BitVec.setWidth 14 cls)
  | .yLeaveRel cls => pack tag 0x19 false 0 0 0 (0#11 ++ 1#1 ++ cls)
  | .coldReset => 0
  | .warmReset => 0
  | .bringupStepDone => 0
  | .functionLevelResetVf => 0
  | .functionLevelResetPf => 0
  | .d3hotEntry => 0
  | .d0Return => 0
  | .droopDetect => 0
  | .thermalHot => 0
  | .criticalTrip => 0
  | .tripRecovery => 0
  | .governorTick => 0
  | .limitHalveExcursion => 0
  | .leaveRequest => 0
  | .leaveGrant => 0
  | .leaveAging => 0
  | .supplyGlitch => 0
  | .tamperMeshBroken => 0
  | .dieLinkFailure => 0
  | .granuleRead => 0
  | .granuleWrite => 0
  | .granulePartialWrite => 0
  | .requestReserving => 0
  | .patrolScrub => 0
  | .rds => 0
  | .rde => 0
  | .upg => 0
  | .ncrd => 0
  | .ncwr => 0
  | .migrd => 0
  | .wbm => 0
  | .eve => 0
  | .snpinv => 0
  | .snpshr => 0
  | .snpcur => 0
  | .backinv => 0
  | .snoopAnswer => 0
  | .wback => 0
  | .retry => 0
  | .coreCapacityTimeout => 0
  | .engineCapacityTimeout => 0
  | .regr => 0
  | .regw => 0
  | .directorySweep => 0
  | .hotTablePeriodEnd => 0
  | .migrationSwitch => 0
  | .migrationWindowEnd => 0
  | .atsInvalidation => 0
  | .finzonPortChange => 0
  | .finzonPut => 0
  | .finzonGet => 0
  | .finzonGetData => 0
  | .finzonAtomic => 0
  | .finzonAtomicResult => 0
  | .finzonAck => 0
  | .finzonNak => 0
  | .finzonCollective => 0
  | .finzonTransit => 0
  | .finzonResendTimeout => 0
  | .minorFrame => 0
  | .kernel => 0
  | .barrierAnd => 0
  | .barrierOr => 0
  | .copy => 0
  | .signal => 0
  | .plan => 0
  | .gridComplete => 0
  | .queueEnable => 0
  | .queueDisable => 0
  | .queueReset => 0
  | .hostWindowWrite => 0
  | .landingTimeout => 0
  | .nwake => 0
  | .fwpatchGo => 0
  | .fwpatchCancel => 0
  | .patchApply => 0
  | .attOpen => 0
  | .attQuote => 0
  | .attClose => 0
  | .recBegin => 0
  | .recPiece => 0
  | .recEnd => 0
  | .mbcmdReserved => 0
  | .tlbiGo => 0
  | .save => 0
  | .restore => 0
  | .resume => 0
  | .registerWrite => 0
  | .teamPlacement => 0
  | .contextSwitch => 0
  | .contextTakeRecord => 0
  | .eviction => 0
  | .waitSatisfied => 0
  | .signalWaitRepoll => 0
  | .balanceExchange => 0
  | .quantumBoundary => 0
  | .replayReady => 0
  | .bundleIssue => 0
  | .resultWriteback => 0
  | .interlockArrival => 0
  | .splitDrainEnd => 0
  | .jobCardEntry => 0
  | .jobDispatch => 0
  | .engineCopy => 0
  | .engineGather => 0
  | .engineScatter => 0
  | .engineFill => 0
  | .engineExpand => 0
  | .engineSeal => 0
  | .engineGalleryLoad => 0
  | .engineCollective => 0
  | .engineCheckpoint => 0
  | .engineRestore => 0
  | .engineRemoteAtomic => 0
  | .plannedMatrixWork => 0
  | .jobComplete => 0
  | .sealComplete => 0
  | .matrixCommandComplete => 0
  | .planningEnd => 0
  | .planBreak => 0
  | .planComplete => 0
  | .dataToRequester => 0
  | .registrationAnswer => 0
  | .dieLinkRetry => 0
  | .finzonReservedType => 0
  | .hostLinkTraining => 0

/-- The header of a bundle (12 R286). -/
structure Header where
  nt : Nat
  cs : List (BitVec 5)
  off : List (BitVec 9)
  hw : Bool
  ob : Bool
  sp : Bool
  low : BitVec 2
  deriving DecidableEq, Repr

/-- Header bits 63:0 of a bundle (12 R286). -/
def Header.of (b : Block) : Header :=
  let h : BitVec 64 := b.extractLsb' 448 64
  { nt := (h.extractLsb' 61 3).toNat
    cs := [h.extractLsb' 56 5, h.extractLsb' 51 5, h.extractLsb' 46 5, h.extractLsb' 41 5]
    off := [h.extractLsb' 32 9, h.extractLsb' 23 9, h.extractLsb' 14 9, h.extractLsb' 5 9]
    hw := h.getLsbD 4, ob := h.getLsbD 3, sp := h.getLsbD 2, low := h.extractLsb' 0 2 }

/-- Slot `n` of a bundle: bits 447 − 56n : 392 − 56n (12 R282). -/
def slotOf (b : Block) (n : Nat) : SlotWord := b.extractLsb' (392 - 56 * n) 56

/-- A bundle with `w` in slot `n` and every other bit zero. -/
def bundleOf (n : Nat) (w : SlotWord) : Block := (w.setWidth 512) <<< (392 - 56 * n)

/-- Target of leaf `i` from bundle `bix` (12 R287). -/
def Header.target (h : Header) (i bix : Nat) : Int := (bix : Int) + (h.off.getD (i - 1) 0).toInt

/-- Burin's checks of a header in the order of 12 R303, for bundle `bix` of a segment of `nb` bundles whose NEXT is `next`. -/
def headerFailure (h : Header) (bix nb next : Nat) : Option SealCode :=
  if 5 ≤ h.nt then some .badNt
  else if h.low ≠ 0 then some .reservedBit
  else
    let sel := (List.range 4).findSome? fun i =>
      let c := h.cs.getD i 0
      if h.nt ≤ i then (if c ≠ 0 then some SealCode.reservedBit else none)
      else if !c.getLsbD 1 && c.toNat / 4 ≠ 0 then some .badSelector else none
    let leaf := (List.range 4).findSome? fun i =>
      let o := h.off.getD i 0
      if h.nt ≤ i then (if o ≠ 0 then some SealCode.reservedBit else none)
      else if h.target (i + 1) bix < 0 ∨ (nb : Int) ≤ h.target (i + 1) bix then some .branchRange else none
    sel.orElse fun _ => leaf.orElse fun _ => if h.ob && next == 0xFFFF then some .reservedBit else none

/-- A path tag is refused when it is 7, exceeds NT + 1, or is 6 without tests (12 R303, BAD_TAG). -/
def tagBad (tag nt : Nat) : Bool := tag == 7 || (1 ≤ tag && tag ≤ 5 && nt + 1 < tag) || (tag == 6 && nt == 0)

/-- Targets that depend on the segment (12 R287, R290): `nbs` gives NB of each segment of the image. -/
def targetFailure (i : Instr) (bix nb : Nat) (nbs : Nat → Option Nat) : Option SealCode :=
  let inSeg (t : Nat) := if t < nb then none else some SealCode.branchRange
  match i with
  | .sJmp t => inSeg t.toNat
  | .sJal _ _ t => inSeg t.toNat
  | .sLoopReg _ off => inSeg (bix + off.toNat)
  | .sLoopImm _ off => inSeg (bix + off.toNat)
  | .sJbank seg x =>
    match nbs seg.toNat with
    | some n => if x.toNat < n then none else some .branchRange
    | none => some .branchRange
  | _ => none

/-- Burin's checks of one slot (12 R303): TAG, then OPC, reserved bits and operands, then targets. A nop carries no tag. -/
def slotFailure (h : Header) (n : Fin 8) (w : SlotWord) (bix nb : Nat) (nbs : Nat → Option Nat) : Option SealCode :=
  if w = 0 then none
  else if tagBad (Fields.of w).tag.toNat h.nt then some .badTag
  else
    match decodeSlot n w with
    | .error e => some e
    | .ok none => none
    | .ok (some i) => targetFailure i bix nb nbs

/-- The first failure of a bundle, header first and then the slots in slot order (12 R303). -/
def bundleFailure (b : Block) (bix nb next : Nat) (nbs : Nat → Option Nat) : Option SealCode :=
  (headerFailure (Header.of b) bix nb next).orElse fun _ =>
    (List.finRange 8).findSome? fun n => slotFailure (Header.of b) n (slotOf b n.val) bix nb nbs

/-- A hatch word is ill-formed when PAIRS holds a bit beyond its present blocks (12 R299). -/
def hatchFailure (w : BitVec 128) : Bool :=
  let present := (List.range 64).countP fun i => w.getLsbD i
  decide (present < 32) && decide (w.toNat / 2 ^ (64 + 2 * present) ≠ 0)

/-- The instruction in the first slot of a bundle that is not a nop; none where a slot is rejected or all are nops. -/
def decodeBundle (b : Block) : Option Instr :=
  (List.finRange 8).findSome? fun n =>
    match decodeSlot n (slotOf b n.val) with
    | .ok (some i) => some i
    | _ => none

/-- The instruction read from a bundle whose bits are `w`: bit 0 is bit 0 of the byte at the lowest address (00 R11). The
table gives its rows no bits, so the whole 64-byte bundle is taken, whatever `nbits` is. -/
def decodeTableWord (_nbits w : Nat) : Option Instr := decodeBundle (BitVec.ofNat 512 w)

end Sys2Proof
end

