-- ==== Sys2Proof/Machine/Flags.lean ====
section
/-! DEFINITION. The condition queue, the relations of compares, the decision chain and path tags, and the loop stack (08 R202
to R205; 13 R314, R318, R321; 14 R335). -/

namespace Sys2Proof.Machine

/-- The relations of `s.cmp.<cc>` by code (13 R314). -/
def cmpHolds (cc : Nat) (a b : Word) : Bool :=
  match cc with
  | 0 => a == b
  | 1 => a != b
  | 2 => a.slt b
  | 3 => a.sle b
  | 4 => b.slt a
  | 5 => b.sle a
  | 6 => a.ult b
  | 7 => a.ule b
  | 8 => b.ult a
  | _ => b.ule a

/-- Pushes of the context in flight (08 R204). -/
def Ctx.pushes (c : Ctx) : Nat := c.pipe.countP fun r => r.dest == .cq

/-- The outcome of need_entry (08 R204). -/
inductive CqEntry where
  | present
  | bubble
  | empty
  deriving DecidableEq, Repr

def Ctx.need (c : Ctx) (idx : Nat) : CqEntry :=
  if idx < c.cq.length then .present
  else if idx + 1 - c.cq.length ≤ c.pushes then .bubble
  else .empty

/-- The outcome of the decision chain (08 R202). -/
inductive Chain where
  | leaf (n : Nat) (drop : Nat)
  | bubble
  | empty
  deriving DecidableEq, Repr

/-- The decision chain over the selectors of the tests that exist, from test `i` (08 R202). -/
def Ctx.chainFrom (c : Ctx) : List (BitVec 5) → Nat → Nat → Nat → Chain
  | [], _, pos, leaf => .leaf leaf pos
  | sel :: rest, i, pos, leaf =>
    let mode := sel.toNat % 4
    let idx := pos + (if 2 ≤ mode then sel.toNat / 4 else 0)
    match c.need idx with
    | .bubble => .bubble
    | .empty => .empty
    | .present =>
      let t := (c.cq.getD idx false) ^^ sel.getLsbD 0
      c.chainFrom rest (i + 1) (if mode < 2 then pos + 1 else pos) (if leaf = 0 ∧ t then i + 1 else leaf)

/-- The decision chain of a header (08 R202). -/
def Ctx.chain (c : Ctx) (h : Header) : Chain := c.chainFrom (h.cs.take h.nt) 0 0 0

/-- Whether a slot's path tag enables it on a leaf (08 R203): tag 1 to 5 on leaf tag − 1. DEDUCED, log entry 11. -/
def tagEnables (tag leaf : Nat) : Bool :=
  match tag with
  | 0 => true
  | 6 => leaf != 0
  | 7 => false
  | t => leaf + 1 == t

/-- An operation that pushes takes CQ_OVERFLOW while count and pushes in flight make 16 (08 R204). -/
def Ctx.full (c : Ctx) : Bool := decide (16 ≤ c.cq.length + c.pushes)

/-! ## Loops -/

/-- Issue after a bundle at index `i` with leaf 0 and no transfer (13 R321): the next index and the loop stack, innermost
entry last. `rev` is the stack innermost first. -/
def loopEndRev (i : Nat) : List Loop → Nat × List Loop
  | [] => (i + 1, [])
  | top :: rest =>
    if top.stop = i then
      if 1 < top.count then (top.start, { top with count := top.count - 1 } :: rest)
      else loopEndRev i rest
    else (i + 1, top :: rest)

def loopEnd (i : Nat) (loops : List Loop) : Nat × List Loop :=
  let r := loopEndRev i loops.reverse
  (r.1, r.2.reverse)

/-- `s.jmp` removes entries innermost first while the target lies outside their ranges (13 R318). -/
def leaveLoops (target : Nat) (loops : List Loop) : List Loop :=
  (loops.reverse.dropWhile fun l => !(decide (l.start ≤ target) && decide (target ≤ l.stop))).reverse

end Sys2Proof.Machine
end

