-- ==== Sys2Proof/Machine/Ops.lean ====
section
/-! DEFINITION. The shared operations of a context: write-back, leaving a context, context blocks, TAKING A TRAP and RETURNING
FROM ONE (08 R195, R200, R210 to R216; 06 R143, R151; 14 R344). -/

namespace Sys2Proof.Machine

/-! ## Write-back (08 R195, R197, R200 to R202) -/

/-- A result reaches its destination; the gate report of a `v.gnorm` follows every other write of the cycle (14 R343, R344). -/
def Ctx.land (c : Ctx) (r : InFlight) : Ctx := c.writeResult r.slot r.dest r.ws r.data r.wmask

/-- The gate report: GATE_DEGEN counts the degenerate groups, and their bits are set in the named mask. -/
def Ctx.landDegen (c : Ctx) (r : InFlight) : Ctx :=
  match r.degen with
  | none => c
  | some d =>
    let c := { c with gateDegen := satAdd c.gateDegen ((List.range 4).countP (bitN d.bits)) }
    if r.ws then c
    else
      let k : Fin 8 := ⟨d.kx % 8, Nat.mod_lt _ (by decide)⟩
      c.setK k (c.kMain k ||| BitVec.ofNat 64 d.bits)

/-- The results of one cycle are written in slot order, and behind all of them the gate reports (08 R195, R200; 14 R343). -/
def Ctx.landAll (c : Ctx) (l : List InFlight) : Ctx :=
  let due := sortBy (·.slot) l
  due.foldl Ctx.landDegen (due.foldl Ctx.land c)

/-- The end of one issue cycle: counts run down, the results that are due are written, latches age (08 R195, R197, R201). -/
def Ctx.advance (c : Ctx) : Ctx :=
  let pipe := c.pipe.map fun r => { r with left := r.left - 1 }
  let c := { c with pipe := pipe.filter fun r => r.left != 0 }.landAll (pipe.filter fun r => r.left == 0)
  { c with
    latches := (c.latches.map fun l => { l with age := l.age + 1 }).filter fun l => decide (l.age ≤ 5)
    icnt := c.icnt + 1 }

/-- A context switch first writes every fixed-latency result in flight, in the order of their cycles, then clears every latch
(08 R201). -/
def Ctx.flush (c : Ctx) : Ctx :=
  let cycles := (sortBy id (c.pipe.map (·.left))).dedup
  let c := cycles.foldl (fun k n => k.landAll (c.pipe.filter fun r => r.left == n)) { c with pipe := [] }
  { c with latches := [], mark := none }

/-! ## Scheduling state -/

/-- A core has something to look at. -/
def State.addBusy (s : State) (c : Fin 192) : State := if s.busy.contains c then s else { s with busy := s.busy ++ [c] }

def State.addBusyHall (s : State) (h : Nat) : State :=
  ((List.finRange 192).filter fun c => c.val / 4 == h).foldl State.addBusy s

def State.addBusyNat (s : State) (c : Nat) : State := if h : c < 192 then s.addBusy ⟨c, h⟩ else s

/-- A record becomes ready: WK := 0 and ST := ready (06 R142). -/
def State.recReady (s : State) (va grid : Nat) : State :=
  match s.recOf va grid with
  | none => s
  | some r =>
    let s := s.modRec va grid fun r => { r with st := .ready, wk := 0, readySince := s.now }
    if r.hallFree then s.addBusyHall r.hall else s.addBusyNat r.core

/-- A record that waits is made ready to take a cause; its wait stays pending (17 R443). -/
def State.recWake (s : State) (va grid : Nat) : State :=
  match s.recOf va grid with
  | none => s
  | some r =>
    let s := s.modRec va grid fun r => r.enter .ready s.now
    if r.hallFree then s.addBusyHall r.hall else s.addBusyNat r.core

/-- The hall re-reads its waited signals while a thread of it waits for one (06 R142). -/
def State.repollHall (s : State) (hall : Fin 48) : State :=
  if s.timers.any fun x => x.2.1 == .signalWaitRepoll && x.2.2.hall == hall then s
  else s.timer 192 .signalWaitRepoll { hall := hall }

def State.repollLater (s : State) : State := s.repollHall (hallOf s.curCore)

/-- The hall of a record that waits for a signal reads it again. -/
def State.repollRec (s : State) (va grid : Nat) : State :=
  match s.recOf va grid with
  | some r => if r.st = .waiting ∧ r.wk = 4 then s.repollHall ⟨r.hall % 48, Nat.mod_lt _ (by decide)⟩ else s
  | none => s

/-- The cores of a die are frozen: before bring-up is complete, after a fatal event, in D3hot, after a thermal trip (01 R23, R33;
04 R88, R91). -/
def State.frozen (s : State) (c : Fin 192) : Bool :=
  s.power.bringup != 7 || s.power.fatal || s.power.d3hot || (s.dieAt (dieOf c)).tripped

/-- The record of the context at core `c`, number `x`. -/
def State.recAt (s : State) (c : Fin 192) (x : Fin 4) : Option Rec := s.recs.find? fun r => r.onCtx == some (agentOf c x)

/-- Raise a cause against a record: on its context, or kept with its saved context (06 R154, 08 R211). -/
def State.raiseRec (s : State) (va grid cause info : Nat) : State :=
  match s.recOf va grid with
  | none => s
  | some r =>
    match r.onCtx with
    | some a =>
      let p := splitAgent a
      (s.raiseAt p.1 p.2 cause info).addBusy p.1
    | none =>
      let side : Side := r.side.getD Side.empty
      let s := s.modRec va grid fun r => { r with side := some { side with async := side.async ++ [⟨s.now, cause, info⟩] } }
      -- a record that waits becomes ready to take it (17 R443)
      if r.st == .waiting && side.replayAt.isNone then s.recWake va grid else s

/-! ## Leave (01 R29, R30) -/

/-- Owners of leave up to 767 are agents; an engine's owner is 1,000 + its job (log entry 73). -/
def engineOwner (job : Nat) : Nat := 1000 + job

/-- An owner asks for leave, or holds some, on a die. -/
def Die.knows (d : Die) (owner : Nat) : Bool := d.waiting.any (fun q => q.owner == owner) || d.grants.any fun g => g.owner == owner

/-- Withdraw the waiting leave requests of an agent; those behind them may then be granted. -/
def State.leaveWithdraw (s : State) (c : Fin 192) (x : Fin 4) : State :=
  if (s.dieAt (dieOf c)).waiting.any fun q => q.owner == agentOf c x then
    (s.modDie (dieOf c) fun d => { d with waiting := d.waiting.filter fun q => q.owner != agentOf c x }).post .leaveGrant
      { die := dieOf c }
  else s

/-- Nothing of an owner's leave is left on a die: neither a request nor a grant. -/
def State.leaveForget (s : State) (die : Fin 4) (owner : Nat) : State :=
  if (s.dieAt die).knows owner then
    (s.modDie die fun d =>
      { d with waiting := d.waiting.filter fun q => q.owner != owner, grants := d.grants.filter fun g => g.owner != owner }).post
      .leaveGrant { die := die }
  else s

/-- The engines of jobs that go away without an end ask for no leave and hold none. -/
def State.leaveForgetJobs (s : State) (gone : List Job) : State :=
  gone.foldl (fun s j => (List.finRange 4).foldl (fun s d => s.leaveForget d (engineOwner j.id)) s) s

/-- A grant that a context was given and did not use goes back (01 R30). -/
def State.leaveGiveBack (s : State) (c : Fin 192) (x : Fin 4) : State :=
  match (s.ctxAt c x).grant with
  | none => s
  | some cls =>
    ((s.modDie (dieOf c) fun d => { d with grants := d.grants.erase ⟨2 ^ cls.toNat, agentOf c x, false⟩ }).modCtxAt c x
      fun k => { k with grant := none }).post .leaveGrant { die := dieOf c }

/-- Everything a context holds of the leave of its die goes back. -/
def State.leaveDrop (s : State) (c : Fin 192) (x : Fin 4) : State :=
  if (s.dieAt (dieOf c)).grants.any fun g => g.owner == agentOf c x then
    (s.modDie (dieOf c) fun d => { d with grants := d.grants.filter fun g => g.owner != agentOf c x }).post .leaveGrant
      { die := dieOf c }
  else s

/-- Release what an owner holds: its reservation, or its grants for an operation. -/
def State.leaveRelease (s : State) (die : Fin 4) (owner : Nat) (reservation : Bool) : State :=
  s.modDie die fun d => { d with grants := d.grants.filter fun g => !(g.owner == owner && g.reservation == reservation) }

/-! ## Leaving a context -/

/-- The matrix engine of a core is freed (16 R366). -/
def Core.freeEngine (c : Core) : Core := { c with engine := Engine.reset }

/-- The matrix engine becomes free, and the records that wait for it become ready (06 R142, 16 R366). -/
def State.engineFree (s : State) (c : Fin 192) : State :=
  let s := s.modCoreAt c Core.freeEngine
  let s := (List.finRange 4).foldl (fun s x =>
    s.modCtxAt c x fun k => if k.phase == .waiting && (s.recAt c x).any (fun r => r.wk == 5) then
      { k with phase := .ready, stall := none, readySince := s.now } else k) s
  (s.mapRecs (fun r => r.wk == 5 && r.core == c.val) fun r => { r.enter .ready s.now with wk := 0 }).addBusy c

/-- No matrix command of the context is queued (16 R367). -/
def State.matQuiet (s : State) (c : Fin 192) (x : Fin 4) : Bool := (s.coreAt c).engine.queue.all fun q => q.ctx != x

/-- Every interlocked result has arrived and every matrix command has completed (08 R215, 16 R367). -/
def State.quiet (s : State) (c : Fin 192) (x : Fin 4) : Bool := (s.ctxAt c x).long.isEmpty && s.matQuiet c x

/-- The core that holds a team drains for a split: no context reaches its near store (09 R219). -/
def State.teamDrains (s : State) (grid team : Nat) : Bool :=
  ((s.teamOf grid team).bind (·.core)).any fun c => if h : c < 192 then (s.coreAt ⟨c, h⟩).drain.isSome else false

/-- The frame of a record lies in a near store that drains. -/
def State.frameDrains (s : State) (r : Rec) : Bool := r.fsp && s.teamDrains r.grid r.team

/-- A context can go to its frame: it is quiet, its core's clock runs, and a frame in the scratchpad can be written (08 R215; 01 R33; 09
R219). -/
def State.canPark (s : State) (c : Fin 192) (x : Fin 4) : Bool :=
  s.quiet c x && !s.frozen c && !((s.recAt c x).any s.frameDrains)

/-- A thread leaves its context: its region closes (03 R72), its leave is given back, the engine is freed if it held it, and
the context is free. -/
def State.vacate (s : State) (c : Fin 192) (x : Fin 4) : State :=
  let s := s.closeRegion c x
  let s := (s.leaveWithdraw c x).leaveDrop c x
  let s := if (s.coreAt c).engine.holder = .ctx x then s.engineFree c else s
  let s := s.mapRecs (fun r => r.onCtx == some (agentOf c x)) fun r => { r with onCtx := none }
  (s.modCoreAt c fun k =>
    { k.modCtx x (fun _ => Ctx.reset) with running := if k.running == some x then none else k.running }).addBusy c

/-! ## Killing a grid (08 R214, 05 R117) -/

/-- The function that owns a device context (05 R111). -/
def State.fnOf (s : State) (dctx : Nat) : Nat := (s.dctxOf dctx).fn.toNat

/-- A job that a thread issued. -/
def Job.byThread (j : Job) : Bool := match j.owner with
  | .thread _ => true
  | _ => false

/-- Jobs of a grid's threads that have not ended. -/
def State.gridJobs (s : State) (g : Nat) : List Job := s.jobs.filter fun j => j.state != .ended && j.grid == g && j.byThread

/-- A thread of a killed grid leaves its context, at once or when the matrix commands that it has queued have performed (21 R428, 08
R210). It issues nothing any more. -/
def State.killCtx (s : State) (c : Fin 192) (x : Fin 4) : State :=
  if s.matQuiet c x then s.vacate c x
  else
    let s := (s.leaveWithdraw c x).leaveGiveBack c x
    (s.modCtxAt c x fun k =>
      { k with phase := .waiting, halting := true, wait := none, deferred := none, async := [], leaving := none, replayAt := none, stall := none }).modCoreAt
      c fun k => { k with running := if k.running == some x then none else k.running }

/-- Every thread of a grid ends, and its completion is due with `status` (05 R119) once the jobs and the matrix commands that its threads
have issued have run on to their end (21 R428, 08 R210). A team stays while some of them are its own; one that is swapped out comes back
for its jobs. -/
def State.killGrid (s : State) (g status : Nat) : State :=
  match s.gridOf g with
  | none => s
  | some x =>
    if x.killed.isSome then s
    else
      let held := s.recs.filterMap fun r => if r.grid == g then r.onCtx else none
      let s := held.foldl (fun s a => let p := splitAgent a; s.killCtx p.1 p.2) s
      let planned (j : Job) : Bool := j.grid == g && (match j.owner with
        | .plan _ => true
        | _ => false)
      let s := s.leaveForgetJobs (s.jobs.filter planned)
      let recs := s.recs.filter fun r => r.grid != g || r.onCtx.isSome
      let lasts (num : Nat) : Bool := (recs.any fun r => r.grid == g && r.team == num) || (s.gridJobs g).any fun j => j.team == num
      let freed (t : Tile) : Tile := if t.owner.any (fun o => o.1 == g && !lasts o.2) then Tile.reset else t
      let s := { s with
        recs := recs
        teams := (s.teams.filter fun (t : Team) => t.grid != g || lasts t.num).map fun (t : Team) =>
          if t.grid == g then { t with owed := [] } else t
        jobs := s.jobs.filter fun j => !planned j
        fifo := s.fifo.filter fun f => f.grid != g || (f.count == 1 && lasts f.first)
        cores := s.cores.map fun (c : Core) => { c with tiles := c.tiles.map freed } }
      (s.modGrid g fun y => { y with killed := some status }).post .gridComplete { grid := ⟨g % 256, Nat.mod_lt _ (by decide)⟩ }

/-- The grid of the thread on a context has been killed. -/
def State.ctxKilled (s : State) (c : Fin 192) (x : Fin 4) : Bool :=
  (s.recAt c x).any fun r => (s.gridOf r.grid).any fun g => g.killed.isSome

/-- Poison of an ET = 0 page was consumed: SRC 7, by the owner of the context (04 R90). -/
def State.poisonReport (s : State) (c : Fin 192) (x : Fin 4) : State :=
  let d := ((s.recAt c x).bind fun r => (s.gridOf r.grid).map (·.dctx)).getD 0
  s.report clsNonFatal 7 (s.fnOf d) (dieOf c).val (agentOf c x) 0

/-- TRAP_KILL: the grid completes KILLED, reported with SRC 8 (08 R214). -/
def State.killThread (s : State) (c : Fin 192) (x : Fin 4) : State :=
  match s.recAt c x with
  | none => s.vacate c x
  | some r =>
    let d := ((s.gridOf r.grid).map (·.dctx)).getD 0
    (s.report clsNonFatal 8 (s.fnOf d) (dieOf c).val (agentOf c x) 0).killGrid r.grid 5

/-! ## Frames and context blocks (08 R215) -/

/-- An operand field as a number (12 R284). -/
def destBits (o : Opnd) : Nat := (Opnd.enc o).toNat

/-- One snapshot entry of 272 bytes. -/
def snapBytes (slot left : Nat) (dest : Nat) (ws : Bool) (stage cls : Nat) (data : VReg) : List Byte :=
  bytesOfNat 16 (slot + left * 2 ^ 8 + (dest + b2n ws * 2 ^ 10 + stage * 2 ^ 11) * 2 ^ 16 + cls * 2 ^ 32) ++ bytesOf 256 data

def InFlight.snap (c : Ctx) (r : InFlight) : List Byte :=
  let age := r.lat - r.left
  let stage := if c.latches.any fun l => l.slot == r.slot && l.age == age then age else 0
  match r.dest with
  | .s o => snapBytes r.slot r.left (destBits o) r.ws stage 0 r.data
  | .v o => snapBytes r.slot r.left (destBits o) r.ws stage 1 r.data
  | .k o => snapBytes r.slot r.left (destBits o) r.ws stage 2 r.data
  | .cq => snapBytes r.slot r.left 0 r.ws stage 3 r.data
  | .nowhere => snapBytes r.slot r.left 0 r.ws stage 4 r.data

/-- Latches whose result has been written: entries of class 4 (08 R215). -/
def Ctx.oldLatches (c : Ctx) : List Latch :=
  c.latches.filter fun l => !(c.pipe.any fun r => r.slot == l.slot && r.lat - r.left == l.age)

/-- The matrix engine entry (16 R367). -/
def engineSnap (b : BSource) : List Byte :=
  bytesOfNat 16 (3 + 4 * 2 ^ 32) ++ bytesOfNat 8 b.shape ++ bytesOfNat 8 b.aval ++ bytesOfNat 240 b.kind

def Ctx.snaps (c : Ctx) (eng : Option BSource) : List (List Byte) :=
  c.pipe.map (InFlight.snap c) ++
    (c.oldLatches.map fun l => snapBytes l.slot 0 0 false l.age 4 l.data) ++ (eng.map engineSnap).toList

def padTo (n : Nat) (bs : List Byte) : List Byte := (bs ++ List.replicate (n - bs.length) 0).take n

def loopBytes (l : Loop) : List Byte := bytesOfNat 16 (l.start % 4096 + (l.stop % 4096) * 2 ^ 16 + (l.count % 2 ^ 32) * 2 ^ 64)

/-- Word 0 of a record (06 R141). -/
def resumeWord (hp seg bix : Nat) : Nat := hp % 2048 * 2 ^ 28 + seg % 65536 * 2 ^ 12 + bix % 4096

/-- The 32 KiB of a context block; `k0` is all ones (06 R146, 08 R199). -/
def Ctx.block (c : Ctx) (recVa info : Nat) (eng : Option BSource) : List Byte :=
  let deferred : Nat := match c.deferred, c.wait with
    | some d, _ => d.word.toNat
    | none, some w => w.word.toNat
    | none, none => 0
  let sn := c.snaps eng
  padTo 0x100 (bytesOf 8 c.sw ++ bytesOfNat 8 recVa ++ bytesOfNat 8 (resumeWord c.hp.toNat c.seg c.bix) ++ bytesOfNat 8 info ++
      bytesOfNat 8 deferred ++ bytesOfNat 1 c.replays ++ bytesOfNat 1 sn.length) ++
    (c.s.toList.flatMap (bytesOf 8)) ++ bytesOf 8 (BitVec.allOnes 64) ++ ((c.k.toList.drop 1).flatMap (bytesOf 8)) ++
    padTo 64 (padTo 16 (c.cq.map fun b => BitVec.ofNat 8 (b2n b)) ++ bytesOfNat 1 c.cq.length) ++
    padTo 64 (c.loops.flatMap loopBytes) ++
    ((List.range 8).flatMap fun i => bytesOf 8 (c.ctl (i + 1))) ++
    (c.os.toList.flatMap (bytesOf 8)) ++
    padTo (0x2000 - 0x480) (sn.flatten) ++
    (c.v.toList.flatMap (bytesOf 256)) ++ (c.ov.toList.flatMap (bytesOf 256)) ++ (c.last.toList.flatMap (bytesOf 256))

/-- Where a frame lies: bit 63 FSP and a VA or scratchpad offset (06 R141). -/
def State.frameWrite (s : State) (die grid team : Nat) (fsp : Bool) (addr : Nat) (bs : List Byte) : Except Trouble State :=
  if addr % 64 ≠ 0 then .error ⟨11, addr⟩
  else if fsp then
    match s.teamOf grid team with
    | none => .error ⟨cSpadRange, addr⟩
    | some _ =>
      if ((s.gridOf grid).map (·.spad)).getD 0 * 2 ^ 17 < addr + bs.length then .error ⟨cSpadRange, addr⟩
      else .ok (s.modTeam grid team fun t => t.spadWrite addr bs)
  else
    match s.vaWrite die (s.whoOfGrid grid) addr bs with
    | .error t => .error t
    | .ok r => .ok r.2

def State.frameRead (s : State) (die grid team : Nat) (fsp : Bool) (addr n : Nat) : Except Trouble (List Byte) :=
  if addr % 64 ≠ 0 then .error ⟨11, addr⟩
  else if fsp then
    match s.teamOf grid team with
    | none => .error ⟨cSpadRange, addr⟩
    | some t =>
      if ((s.gridOf grid).map (·.spad)).getD 0 * 2 ^ 17 < addr + n then .error ⟨cSpadRange, addr⟩
      else .ok (t.spadRead addr n).1
  else
    match s.vaRead die (s.whoOfGrid grid) addr n with
    | .error t => .error t
    | .ok r => .ok r.1.bytes

/-- The context at issue has read a frame: an uncorrectable scratchpad read raises POISON against it (09 R227). -/
def State.frameSeen (s : State) (grid team : Nat) (fsp : Bool) (addr n : Nat) : State :=
  if fsp then s.spadUse grid team addr n else s

/-- The wait of a context as record fields WK, WSIG, WCNT, WIX (06 R142). -/
def WaitCond.fields : WaitCond → Nat × Nat × Nat × Nat
  | .flag f n _ => (1, 0, n, f)
  | .event m => (2, 0, m, 0)
  | .plan h _ => (3, 0, 0, h)
  | .signal i _ => (4, i, 0, 0)

/-- The engine's part of a block, if the context holds the engine. -/
def State.engineSource (s : State) (c : Fin 192) (x : Fin 4) : Option BSource :=
  if (s.coreAt c).engine.holder = .ctx x then some (s.coreAt c).engine.source else (s.ctxAt c x).reacquire

/-- The reservation that a thread which leaves its context requests again (17 R418); one that was suspended counts for nothing. -/
def Ctx.reserveAgain (k : Ctx) : Option (BitVec 2) :=
  (k.reserve.bind fun r => if r.2 then none else some r.1).orElse fun _ => k.rereserve

/-- The record keeps what the context block of its thread has no place for, and its resume point (06 R141, R150; log entry 16). -/
def State.keepContext (s : State) (c : Fin 192) (x : Fin 4) (r : Rec) (info : Nat) : State :=
  let k := s.ctxAt c x
  let w := (k.wait.map fun w => w.cond.fields).getD (r.wk, r.wsig, r.wcnt, r.wix)
  s.modRec r.va r.grid fun r =>
    { r with
      hptr := k.hp.toNat, seg := k.seg, bix := k.bix, sw := k.sw.toNat, evl := k.evl.toNat, started := true, saved := true
      imgBlock := none, wk := w.1, wsig := w.2.1, wcnt := w.2.2.1, wix := w.2.2.2
      side := some { snaps := k.pipe.map fun p => (p.wmask, p.degen), async := k.async, mstat := k.mstat,
                     reacquire := s.engineSource c x, rereserve := k.reserveAgain,
                     issued := k.issuedSince, replayAt := k.replayAt, cleared := false, deferredRest := k.deferredRest
                     deferred := k.deferred, deferredApart := k.deferred.any fun (q : LongResult) => q.va != info
                     wait := if k.deferred.isSome then k.wait else none } }

/-- INFO of a block that no cause writes: the address of the deferred load, if there is one (08 R211, R215). -/
def Ctx.idleInfo (c : Ctx) : Nat := (c.deferred.map (·.va)).getD 0

/-- The deferred load of a block: the one the record kept where the block still has its encoding, at the address of INFO where INFO
named it (08 R211). -/
def deferredOf (word : SlotWord) (info : Nat) (side : Option Side) : LongResult :=
  let plain := { LongResult.of 0 4 .nowhere false word with va := info, load := true }
  match side.bind Side.deferred with
  | some q => if q.word != word then plain else if (side.map Side.deferredApart).getD false then q else { q with va := info }
  | none => plain

/-- The bytes of a context's block. -/
def State.contextBlock (s : State) (c : Fin 192) (x : Fin 4) (r : Rec) (info : Nat) : List Byte :=
  (s.ctxAt c x).block r.va info (s.engineSource c x)

/-- Write a context to a block at (fsp, addr) and keep its resume point in the record (06 R150, 08 R215). -/
def State.saveContext (s : State) (c : Fin 192) (x : Fin 4) (fsp : Bool) (addr info : Nat) : Except Trouble State :=
  match s.recAt c x with
  | none => .ok s
  | some r =>
    match s.frameWrite (dieOf c).val r.grid r.team fsp addr (s.contextBlock c x r info) with
    | .error t => .error t
    | .ok s => .ok (s.keepContext c x r info)

/-- A field of a byte string, little-endian. -/
def fieldAt (bs : List Byte) (o n : Nat) : Nat := natOfBytes ((bs.drop o).take n)

/-- One snapshot entry read back: a result in flight and a latch. -/
def unsnap (bs : List Byte) (side : Option (VReg × Option Degen)) : Option InFlight × Option Latch :=
  let slot := fieldAt bs 0 1
  let left := fieldAt bs 1 1
  let w := fieldAt bs 2 2
  let cls := fieldAt bs 4 1
  let stage := bitsN w 11 4
  let data : VReg := BitVec.ofNat 2048 (fieldAt bs 16 256)
  let o : Opnd := match dst (BitVec.ofNat 10 (w % 1024)) with
    | .ok o => o
    | .error _ => .main 0
  let dest : Dest := match cls with
    | 0 => .s o
    | 1 => .v o
    | 2 => .k o
    | 3 => .cq
    | _ => .nowhere
  let m := side.getD (BitVec.allOnes 2048, none)
  (if left = 0 then none
   else some { slot := slot, lat := stage + left, left := left, dest := dest, ws := bitN w 10, data := data, wmask := m.1,
               degen := m.2 },
   if stage = 0 then none else some { slot := slot, age := stage, lat := stage + left, data := data })

/-- The snapshot entries of a block. -/
def blockSnaps (bs : List Byte) : List (List Byte) :=
  (List.range (min 24 (fieldAt bs 0x29 1))).map fun i => (bs.drop (0x480 + 272 * i)).take 272

/-- A context reloaded from a block and its record (08 R216). -/
def Ctx.load (bs : List Byte) (r : Rec) (now : Nat) : Ctx :=
  let sw := fieldAt bs 0 8
  let w64 (o i : Nat) : Word := BitVec.ofNat 64 (fieldAt bs (o + 8 * i) 8)
  let w2k (o i : Nat) : VReg := BitVec.ofNat 2048 (fieldAt bs (o + 256 * i) 256)
  let side : Option Side := r.side
  let entries := blockSnaps bs
  let un : List (Option InFlight × Option Latch) := entries.zipIdx.map fun p => unsnap p.1 ((side.map Side.snaps).getD [])[p.2]?
  let word : SlotWord := BitVec.ofNat 56 (fieldAt bs 0x20 7)
  let base := Ctx.reset
  let c := { base with
    phase := .ready, recVa := r.va
    s := Vector.ofFn fun i : Fin 64 => w64 0x100 i.val
    k := Vector.ofFn fun i : Fin 8 => w64 0x300 i.val
    os := Vector.ofFn fun i : Fin 16 => w64 0x400 i.val
    v := Vector.ofFn fun i : Fin 64 => w2k 0x2000 i.val
    ov := Vector.ofFn fun i : Fin 16 => w2k 0x6000 i.val
    last := Vector.ofFn fun i : Fin 16 => w2k 0x7000 i.val
    cq := (List.range (min 16 (fieldAt bs 0x350 1))).map fun i => fieldAt bs (0x340 + i) 1 % 2 == 1
    loops := (List.range (min 4 (bitsN sw 40 3))).map fun i =>
      ⟨fieldAt bs (0x380 + 16 * i) 2 % 4096, fieldAt bs (0x382 + 16 * i) 2 % 4096, fieldAt bs (0x388 + 16 * i) 4⟩
    pipe := un.filterMap Prod.fst, latches := un.filterMap Prod.snd
    seg := bitsN (fieldAt bs 0x10 8) 12 16, bix := bitsN (fieldAt bs 0x10 8) 0 12 }
  let c := (List.range 7).foldl (fun c i => c.setCtl (i + 1) (w64 0x3C0 i)) c
  { c with
    cause := BitVec.ofNat 6 (bitsN sw 50 6), hm := r.thread == 8191, rm := BitVec.ofNat 3 (bitsN sw 5 3), ftz := bitN sw 4
    hp := BitVec.ofNat 11 (bitsN (fieldAt bs 0x10 8) 28 11)
    icnt := w64 0x3C0 7, replays := if (side.map Side.cleared).getD false then 0 else fieldAt bs 0x28 1, replayCause := bitsN sw 50 6, replayBix := c.seg * 4096 + c.bix
    async := (side.map Side.async).getD []
    mstat := (side.map Side.mstat).getD 0
    reacquire := (entries.find? fun e => fieldAt e 0 1 == 3 && fieldAt e 4 1 == 4).map
      fun e => ⟨fieldAt e 32 1, fieldAt e 16 8, fieldAt e 24 8⟩
    rereserve := side.bind Side.rereserve
    evl := BitVec.ofNat 16 r.evl
    deferredRest := (side.map Side.deferredRest).getD []
    wait := side.bind Side.wait
    deferred := if bitN sw 48 && bitsN sw 45 3 == 4 then some (deferredOf word (fieldAt bs 0x18 8) side) else none
    readySince := now }

/-- Why a return is refused with STATUS_RESERVED (08 R216). -/
def blockBad (bs : List Byte) : Bool :=
  let sw := fieldAt bs 0 8
  let reserved := decide (bitsN sw 56 8 ≠ 0) || decide (bitsN sw 43 2 ≠ 0) || decide (bitsN sw 37 3 ≠ 0) ||
    decide (bitsN sw 8 24 ≠ 0) || decide (bitsN sw 0 4 ≠ 0)
  let dslot := bitsN sw 45 3
  let word : SlotWord := BitVec.ofNat 56 (fieldAt bs 0x20 7)
  let isLoad : Bool := match decodeSlot 4 word with
    | .ok (some i) => (match i with
      | .pf _ _ => false
      | .res _ _ => false
      | _ => true)
    | _ => false
  let isWait : Bool := match decodeSlot 7 word with
    | .ok (some i) => (match i with
      | .yWait _ _ _ => true
      | .yWaitSig _ _ => true
      | .yBarw _ _ _ => true
      | .yWfe _ _ _ => true
      | .yQwait _ _ _ _ => true
      | _ => false)
    | _ => false
  let deferBad := bitN sw 48 && !((dslot == 4 && isLoad) || (dslot == 7 && isWait))
  -- a class that the slot cannot write: only vector slots write masks beside loads, only s, va and vb push
  let snapBad := (blockSnaps bs).any fun e =>
    let slot := fieldAt e 0 1
    let cls := fieldAt e 4 1
    decide (4 < cls) || decide (7 < slot) ||
      (match slot, cls with
        | 0, 1 => true
        | 0, 2 => true
        | 4, 3 => true
        | 3, 4 => false
        | 3, _ => true
        | 5, _ => true
        | 6, _ => true
        | 7, _ => true
        | _, _ => false)
  reserved || deferBad || snapBad

/-! ## Arrival handlers (06 R151) -/

/-- Teams have their record arenas and images in the swap pool at GRID.pool, one team after another (06 R144, R163, R168). The
placement inside the pool is the model's (log entry 17). -/
def imageBytes (spad claim : Nat) : Nat :=
  let tiles := (b2n (bitN claim 0) + b2n (bitN claim 1))
  0x30000 + spad * 2 ^ 17 + tiles * (2 ^ 21 + 2 ^ 16)

def teamBytes (g : Grid) : Nat := roundUp (imageBytes g.spad g.claim) 64 + (g.threads + 64) * 64

def imageVa (g : Grid) (team : Nat) : Nat := g.pool + team * teamBytes g
def arenaVa (g : Grid) (team : Nat) : Nat := imageVa g team + roundUp (imageBytes g.spad g.claim) 64

/-- A new record of a team (06 R146). -/
def Rec.fresh (va grid team thread core : Nat) : Rec where
  va := va
  hptr := 0
  seg := 0
  bix := 0
  fsp := false
  frame := 0
  grid := grid
  thread := thread
  team := team
  wsig := 0
  wcnt := 0
  wix := 0
  wk := 0
  evl := 0
  core := core
  st := .ready
  hallFree := false
  pri := 0
  arg := 0
  sw := 0
  link := 0
  started := false
  saved := false
  trapped := false
  readySince := 0
  hall := core / 4
  onCtx := none
  side := none
  handler := none
  imgBlock := none

/-- The lowest-numbered free handler record of a team. -/
def State.freeHandler (s : State) (grid team : Nat) : Option Nat :=
  (List.range 64).find? fun i => !(s.recs.any fun r => r.grid == grid && r.team == team && r.handler == some i)

/-- HANDLER_CREATE: BIX, SEG, HOME and PRI from a DONE word or action table entry; THREAD = 8,191 (06 R151, 08 R214). Answers
none while all 64 handler records are in use. -/
def State.handlerCreate (s : State) (grid team core hall bix seg : Nat) (home : Bool) (pri arg : Nat) : Option State :=
  match s.gridOf grid, s.freeHandler grid team with
  | some g, some i =>
    let va := arenaVa g team + (g.threads + i) * 64
    let base := Rec.fresh va grid team 8191 core
    let r := { base with
      bix := bix, seg := seg, hallFree := home, pri := pri, arg := arg, hall := if home then hall else core / 4, handler := some i
      readySince := s.now, sw := 2 ^ 49 }
    let s := s.addRecs [r]
    let s := s.modTeam grid team fun t => { t with handlers := t.handlers + 1 }
    some (if home then s.addBusyHall hall else s.addBusyNat core)
  | _, _ => none

/-- Create the handler an action table entry asks for; it is owed while no record is free (08 R214). Its core is its team's, whatever
core the trapped thread ran on. -/
def State.forward (s : State) (r : Rec) (entry : Nat) : State :=
  let arg := r.frame + (if r.fsp then 2 ^ 63 else 0)
  let core := ((s.teamOf r.grid r.team).bind (·.core)).getD r.core
  match s.handlerCreate r.grid r.team core r.hall (bitsN entry 11 12) (bitsN entry 23 16) (bitN entry 39) (bitsN entry 40 2) arg with
  | some s => s
  | none => s.modTeam r.grid r.team fun t => { t with owed := t.owed ++ [(1, r.va), (2, entry)] }

/-! ## Flags (17 R403) -/

/-- A team before it is placed: its flags and event latches are held for it in the pool (17 R403). -/
def Team.fresh (grid num : Nat) : Team where
  grid := grid
  num := num
  core := none
  placed := false
  stopping := false
  since := 0
  flags := Vector.replicate 32 0
  evl := 0
  spad := []
  gal := []
  spadBad := []
  galBad := []
  spadSoft := []
  galSoft := []
  galMap := []
  nextTag := 1
  recent := []
  handlers := 0
  owed := []
  halted := 0
  kept := []
  tiles := []

/-- A team of the grid that has not been placed yet: it waits in the FIFO, or its grid's launch is under way. -/
def State.teamWaits (s : State) (grid num : Nat) : Bool :=
  (s.fifo.any fun f => f.grid == grid && decide (f.first ≤ num) && decide (num < f.first + f.count)) ||
    s.agenda.any fun e => e.1 == .teamPlacement && e.2.flag && e.2.grid.val == grid && decide (e.2.id ≤ num)

/-- The entry of a team that its grid has. -/
def State.ensureTeam (s : State) (grid num : Nat) : State :=
  match s.teamOf grid num, s.gridOf grid with
  | none, some g => if num < g.teams then { s with teams := s.teams ++ [Team.fresh grid num] } else s
  | _, _ => s

/-- The entry in which posts and events are held for a team before it is placed; a team that has ended takes none (17 R403). -/
def State.holdFor (s : State) (grid num : Nat) : State := if s.teamWaits grid num then s.ensureTeam grid num else s

/-- Bytes of the image of a team that is not resident, in its place in the swap pool (06 R163, R168). -/
def State.mirrorImage (s : State) (grid team off : Nat) (bs : List Byte) : State :=
  match s.gridOf grid, s.teamOf grid team with
  | some g, some t =>
    if t.core.isSome then s
    else
      match s.vaWrite 0 ⟨g.dctx, (s.dctxOf g.dctx).dtsr.toNat * 4096, false⟩ (imageVa g team + off) bs with
      | .ok r => r.2
      | .error _ => s
  | _, _ => s

/-- A flag of a team receives a post: add 1 modulo 2^16; the flags of a team stand here wherever the team is (06 R163). -/
def State.postFlag (s : State) (grid team flag : Nat) : State :=
  let f : Fin 32 := ⟨flag % 32, Nat.mod_lt _ (by decide)⟩
  let s := (s.holdFor grid team).modTeam grid team fun t => { t with flags := t.flags.set f.val (t.flags.get f + 1) f.isLt }
  let v := ((s.teamOf grid team).map fun t => (t.flags.get f).toNat).getD 0
  (s.mirrorImage grid team (0x40 + 2 * f.val) (bytesOfNat 2 v)).post .waitSatisfied {}

/-! ## TAKING A TRAP (08 R210 to R215) -/

/-- The action of a cause under the default table (08 R213). -/
def defaultAction (cause : Nat) : Nat := if cause == 13 || cause == 14 || cause == 19 || cause == 20 then 1 else 0

/-- The action table entry of a cause; a fault or a reserved bit counts as kill (08 R213). -/
def State.actionEntry (s : State) (c : Fin 192) (x : Fin 4) (cause : Nat) : Nat :=
  let atb := (s.ctxAt c x).atb.toNat
  if atb = 0 then defaultAction cause
  else
    match s.recAt c x with
    | none => 0
    | some r =>
      match s.vaRead (dieOf c).val (s.whoOfGrid r.grid) (atb + 8 * cause) 8 with
      | .error _ => 0
      | .ok p =>
        let e := natOfBytes p.1.bytes
        if p.1.poison || decide (bitsN e 42 22 ≠ 0) || decide (bitsN e 8 3 ≠ 0) then 0 else e

/-- The replay count: the traps with this cause at this bundle since the bundle last issued (08 R214). -/
def Ctx.countTrap (c : Ctx) (cause : Nat) : Ctx :=
  let here := c.seg * 4096 + c.bix
  { c with
    replays := if c.replayCause = cause ∧ c.replayBix = here then c.replays + 1 else 1
    replayCause := cause
    replayBix := here }

/-- TRAP_REPLAY: the context stays, frozen and waiting, and is ready once 1,024 cycles have passed; the trap that brings the
count to 16 kills (08 R214). -/
def State.trapReplay (s : State) (c : Fin 192) (x : Fin 4) : State :=
  if 16 ≤ (s.ctxAt c x).replays then s.killThread c x
  else
    let s := (s.recSt c x .waiting).modCtxAt c x fun k =>
      { k with replayAt := some (s.now + 2048), phase := .waiting, waitSince := s.now }
    let s := s.modCoreAt c fun k => { k with running := if k.running == some x then none else k.running }
    let r := (s.recAt c x).map fun r => (r.va, r.grid)
    (s.timer 2048 .replayReady { core := c, ctx := x, id := (r.getD (0, 0)).1, num := (r.getD (0, 0)).2 }).addBusy c

/-- TRAP_PARK and TRAP_FORWARD once every interlocked result has arrived (08 R214, R215). -/
def State.trapPark (s : State) (c : Fin 192) (x : Fin 4) (entry info : Nat) : State :=
  match s.recAt c x with
  | none => s.killThread c x
  | some r =>
    match s.saveContext c x r.fsp r.frame info with
    | .error _ => (s.modCtxAt c x fun k => { k with cause := 24 }).killThread c x
    | .ok s =>
      let s := s.modRec r.va r.grid fun r => { r with st := .parked, trapped := true }
      let s := s.vacate c x
      let s := if bitN entry 7 then s.postFlag r.grid r.team (bitsN entry 2 5) else s
      if entry % 4 = 3 then s.forward r entry else s

/-- Causes for which no rule says what INFO holds. -/
def infoOpen (cause : Nat) : Bool := [2, 3, 4, 5, 6, 8, 9, 10].contains cause || decide (48 ≤ cause)

/-- INFO of a cause: what was found, or a free value where no rule states one (log entry 9). -/
def State.freeInfo (s : State) (cause : Nat) : (Nat → Nat) × State :=
  if infoOpen cause then let x := s.free; (fun _ => x.1.toNat, x.2) else (id, s)

/-- TRAP: the one shared way in which a context takes a cause. The bundle named is the one at the context's fetch point, and
none of its slots performs. -/
def State.takeTrapAt (s : State) (c : Fin 192) (x : Fin 4) (cause info : Nat) : State :=
  let s := (s.leaveWithdraw c x).leaveGiveBack c x
  let s := s.modCtxAt c x fun k => { k.countTrap cause with cause := BitVec.ofNat 6 cause, stall := none }
  let s := s.freeInfo cause
  let info := s.1 info
  let s := s.2
  let e := s.actionEntry c x cause
  match e % 4 with
  | 0 => s.killThread c x
  | 1 => s.trapReplay c x
  | _ =>
    let frame := ((s.recAt c x).map (·.frame)).getD 0
    if frame = 0 then s.killThread c x
    else if s.canPark c x then s.trapPark c x e info
    else
      let s := s.modCtxAt c x fun k => { k with leaving := some ⟨e, cause, info⟩, phase := .waiting, waitSince := s.now }
      s.modCoreAt c fun k => { k with running := if k.running == some x then none else k.running }

/-- A park or forward that waited for the context's results, or for its core, goes on once they are in. -/
def State.settleLeaving (s : State) (c : Fin 192) (x : Fin 4) : State :=
  match (s.ctxAt c x).leaving with
  | some l => if s.canPark c x then s.trapPark c x l.entry l.info else s
  | none => s

/-- Every context that may have waited so. -/
def State.settleAll (s : State) (l : List (Fin 192 × Fin 4)) : State := l.foldl (fun s p => s.settleLeaving p.1 p.2) s

/-- The contexts that run threads. -/
def State.contexts (s : State) : List (Fin 192 × Fin 4) := s.recs.filterMap fun r => r.onCtx.map splitAgent

def State.takeTrap (s : State) (cause info : Nat) : State := s.takeTrapAt s.curCore s.curCtx cause info

/-! ## RETURNING FROM A TRAP (08 R216, 13 R324) -/

/-- The fault met while the block that `s.tret` names is read: MISALIGNED, or a fault of the handler's bundle. -/
def State.tretFault (s : State) (a : Nat) : Option Trouble :=
  let addr := bitsN a 0 56
  if addr % 64 ≠ 0 then some ⟨11, addr⟩
  else
    match s.curRec with
    | none => none
    | some r =>
      match s.frameRead (dieOf s.curCore).val r.grid r.team (bitN a 63) addr 0x8000 with
      | .error t => some t
      | .ok _ => none

/-- The block, and the record it names if that record is parked by a trap. -/
def State.tretTarget (s : State) (a : Nat) : Option (List Byte × Option Rec) :=
  s.curRec.bind fun r =>
    match s.frameRead (dieOf s.curCore).val r.grid r.team (bitN a 63) (bitsN a 0 56) 0x8000 with
    | .error _ => none
    | .ok bs => some (bs, (s.recOf (fieldAt bs 8 8) r.grid).filter fun q => q.st == .parked && q.trapped)

/-- What `s.tret` meets before its bundle issues (08 R216, 13 R324). -/
def State.tretCheck (s : State) (a : Nat) : Check :=
  let addr := bitsN a 0 56
  if !s.ctx.hm then .trap 4 addr
  else
    match s.tretFault a with
    | some t => .trap t.cause t.info
    | none =>
      match s.tretTarget a with
      | some (bs, some _) =>
        if blockBad bs then .trap 5 addr
        -- a block in the scratchpad is a near-store access (09 R219)
        else if bitN a 63 && s.curRec.any (fun r => s.teamDrains r.grid r.team) then .stall .drain
        else .go
      | _ => .trap 4 addr

/-- The parked record becomes ready, or waiting when its block holds a pending wait; it will be reloaded from the block. The
replay count is cleared, and the region of the handler closes (03 R72, 10 R242). -/
def State.tretDo (s : State) (a : Nat) : State :=
  match s.tretTarget a with
  | some (bs, some q) =>
    let sw := fieldAt bs 0 8
    let waits := bitN sw 48 && bitsN sw 45 3 == 7
    let s := s.modRec q.va q.grid fun r =>
      { r with frame := bitsN a 0 56, fsp := bitN a 63, trapped := false, saved := true, imgBlock := none,
               hptr := bitsN (fieldAt bs 0x10 8) 28 11, seg := bitsN (fieldAt bs 0x10 8) 12 16,
               bix := bitsN (fieldAt bs 0x10 8) 0 12, sw := sw, evl := fieldAt bs (0x3C0 + 40) 2
               st := if waits then .waiting else r.st
               side := some { r.side.getD Side.empty with cleared := true } }
    let s := (s.frameSeen q.grid ((s.curRec.map (·.team)).getD 0) (bitN a 63) (bitsN a 0 56) 0x8000).closeRegion s.curCore s.curCtx
    if waits then (s.post .waitSatisfied { id := q.va, num := q.grid }).repollRec q.va q.grid else s.recReady q.va q.grid
  | _ => s

/-- The device context of a grid is stopped by a save or a reset (06 R166). -/
def State.dctxStopped (s : State) (g : Nat) : Bool := ((s.gridOf g).map fun x => (s.dctxOf x.dctx).stopped).getD false

/-! ## Guarding an operation -/

/-- An operation with what may stand in its way. The check is not made again for an operation of a bundle that has issued:
BUNDLE_ISSUE has made it for every slot (08 R211). -/
def guarded (check : State → Check) (perform : State → State) (s : State) : Res :=
  if s.issued then .next (perform s)
  else
    match check s with
    | .go => .next (perform s)
    | .trap cause info => .next (s.takeTrap cause info)
    | .stall why _ => .next (s.modCtx fun c => { c with stall := some why })

end Sys2Proof.Machine
end

