-- ==== Sys2Proof/Machine/LoadStore.lean ====
section
/-! DEFINITION. Loads, stores, hints and atomics (15 R347 to R363, R442). -/

namespace Sys2Proof.Machine

/-! ## Addresses (15 R347, R348) -/

/-- ea = a + sext(C), modulo 2^64. -/
def State.ea (s : State) (a : Opnd) (off : BitVec 14) : Nat := (s.ctx.sGet a + off.signExtend 64).toNat

def szBytes (sz : BitVec 2) : Nat := 2 ^ sz.toNat

/-- A flat load or store before its bundle issues (15 R347, R348, R356, R357). -/
def loadCheck (bypass : Bool) (align size ea : Nat) (s : State) : Check := s.accessCheck needR false (!bypass) align ea size
def storeCheck (align size ea : Nat) (s : State) : Check := s.accessCheck needW true false align ea size

/-! ## Orderings (10 R242; 15 R354, R363; 03 R72, R77; 09 R220) -/

/-- A release at a scope: at grid or system scope the die's dirty C = 0 lines are written back (03 R77). -/
def State.releaseAt (s : State) (scope : Nat) : State := if 3 ≤ scope then s.ncFlush (dieOf s.curCore).val else s

/-- An acquire at a scope: the core's L1 loses every line with W = 1, and at grid or system scope the die its clean C = 0
lines (09 R220, 03 R77). -/
def State.acquireAt (s : State) (scope : Nat) : State :=
  let s := s.modCore fun c => { c with l1 := c.l1.filter fun x => !x.w }
  if 3 ≤ scope then s.ncInvalidate (dieOf s.curCore).val else s

/-- A synchronising instruction closes the region of its agent (03 R72). -/
def State.syncDone (s : State) : State := s.closeRegion s.curCore s.curCtx

/-- The increment of the epoch waits for an unfinished sweep (03 R75). -/
def syncCheck (s : State) : Check := if (s.mem.epochBlocked s.curAgent).isSome then .stall .registration else .go

/-- The context at issue has matrix commands whose accesses have not performed: they are earlier loads and stores of its thread
(16 R368). -/
def State.matPending (s : State) : Bool := s.core.engine.queue.any fun q => q.ctx == s.curCtx && !q.uses.isEmpty

/-- The thread's earlier matrix accesses have performed. -/
def matPerformed (s : State) : Check := if s.matPending then .stall .resource else .go

/-- A release performs after every earlier access of its thread (10 R242 to R244, 15 R354, 16 R368). -/
def releaseCheck (s : State) : Check := (matPerformed s).both (syncCheck s)

/-! ## Loads -/

/-- An interlocked load of the context: its data, or that it was poisoned on an ET = 0 page (02 R51, 08 R211). -/
def State.longLoad (s : State) (d : Dest) (ws : Bool) (ea : Nat) (got : Got) (data : VReg) (args : List Nat) : State :=
  let s := s.addSubst s.curAgent got.subst.length
  s.openArrived 4 d ws data fun r => { r with load := true, va := ea, poison := got.poison, args := args }

/-- A flat load: latency 6 from the scratchpad, else long (15 R350). -/
def State.loadFlat (s : State) (bypass : Bool) (size ea : Nat) (d : Dest) (ws : Bool) (f : Nat → VReg) : State :=
  match s.route needR ea size with
  | .error _ => s
  | .ok r =>
    let got := (s.registerRoute r false).readRoute bypass r size
    let data := f (natOfBytes got.1.bytes)
    match r with
    | .spad _ => got.2.modCtx fun c => c.result 4 6 d ws data (BitVec.allOnes 2048) none
    | .mem _ => got.2.longLoad d ws ea got.1 data []

/-- The value of `ld.s`: zero-extended, or sign-extended with SX (15 R350). -/
def loadScalar (sz : BitVec 2) (sx : Bool) (x : Nat) : VReg :=
  BitVec.ofNat 2048 (if sx then wrapN 64 (sextN (8 * szBytes sz) x) else x)

/-- The value of `ld.bc` (15 R350). -/
def loadBroadcast (sz : BitVec 2) (sx : Bool) (x : Nat) : VReg :=
  BitVec.ofNat 2048 (packList 32 ((List.range 64).map fun i =>
    if sz = 3 then (if i % 2 = 0 then x else x / 2 ^ 32)
    else if sx then wrapN 32 (sextN (8 * szBytes sz) x) else x))

def doLdS (bypass ws : Bool) (d : Opnd) (sz : BitVec 2) (sx : Bool) (ea : Nat) (s : State) : State :=
  s.loadFlat bypass (szBytes sz) ea (.s d) ws (loadScalar sz sx)

def doLdV (bypass ws : Bool) (d : Opnd) (ea : Nat) (s : State) : State :=
  s.loadFlat bypass 256 ea (.v d) ws (BitVec.ofNat 2048)

def doLdBc (ws : Bool) (d : Opnd) (sz : BitVec 2) (sx : Bool) (ea : Nat) (s : State) : State :=
  s.loadFlat false (szBytes sz) ea (.v d) ws (loadBroadcast sz sx)

def doLdK (ws : Bool) (d : Opnd) (ea : Nat) (s : State) : State :=
  s.loadFlat false 8 ea (.k d) ws (BitVec.ofNat 2048)

/-! ## Tensor runs (15 R351) -/

/-- A tensor access resolved: the record, the tiles its run touches, and the segments of its bytes. -/
structure Run where
  tsr : Tsr
  id : Nat
  /-- number of elements inside the dimension -/
  count : Nat
  first : Nat
  last : Nat
  segs : List Seg
  deriving DecidableEq, Repr

def tsrVa (who : Who) (id : Nat) : Nat := who.tsrt + 64 * id

/-- A run of tensor `av` at coordinates `xs`, checked in the order of 15 R351. -/
def State.runAt (s : State) (n : Need) (av : Nat) (xs : List Nat) : Except Trouble Run :=
  let who := s.curWho
  if 65536 ≤ av then .error ⟨cTsrRange, av⟩
  else
    match readTsr s who av with
    | .error t => .error t
    | .ok t =>
      let bits := fmtBits t.fmt
      let x := xs.getLastD 0
      if xs.length ≠ t.rank then .error ⟨cTensorRange, tsrVa who av⟩
      -- of several faults the lowest cause is taken (08 R211, R357)
      else if bits = 4 ∧ x % 2 ≠ 0 then .error ⟨11, tsrVa who av⟩
      else if (xs.zip t.dims).any fun p => decide (p.2 ≤ p.1) then .error ⟨cTensorRange, tsrVa who av⟩
      else
        let count := min (2048 / bits) (t.dims.getLastD 0 - x)
        let parts := (cutAt (lastExt t.fmt t.rank t.tc) x count).map fun c =>
          (t.locate (xs.dropLast ++ [c.1]), c.2.1, c.2.2)
        let segs := gatherSegs (parts.map fun p =>
          match translateTile s who n t p.1.1 (t.ttp + 8 * p.1.1) with
          | .error e => .error e
          | .ok pl => .ok ⟨t.ttp + 8 * p.1.1, { pl with dpa := pl.dpa + p.1.2 / 8 }, p.2.1 * bits / 8, ceilDiv (p.2.2 * bits) 8⟩)
        match segs with
        | .error e => .error e
        | .ok segs =>
          let tiles := parts.map fun p => p.1.1
          .ok { tsr := t, id := av, count := count, first := tiles.headD 0, last := tiles.getLastD 0, segs := segs }

/-- The tensor id and the coordinates of `ld.vt` and `st.vt`. -/
def State.runArgs (s : State) (a : Opnd) (k : BitVec 4) : List Nat :=
  (s.ctx.sGet a).toNat :: (List.range k.toNat).map fun i => (s.ctx.sGet (regAfter a (i + 1))).toNat

/-- The run that the operands of `ld.vt` and `st.vt` name. -/
def State.runOf (s : State) (n : Need) (a : Opnd) (k : BitVec 4) : Except Trouble Run :=
  s.runAt n (s.ctx.sGet a).toNat (s.runArgs a k).tail

/-- What a run that was found, or its trouble, asks before it performs. -/
def runCheckOf (write : Bool) (run : Except Trouble Run) (s : State) : Check :=
  match run with
  | .error t => .ofTrouble t
  | .ok r =>
    (if write then Check.go else s.drainCheck).both
      (if s.jobStall ⟨.tensor r.id r.first r.last, 0, write⟩ || s.matStall write (r.segs.map fun g => (.mem g.place.dpa, g.len))
       then .stall .resource else s.segsCheck r.segs write)

def runCheck (write : Bool) (a : Opnd) (k : BitVec 4) (s : State) : Check :=
  runCheckOf write (s.runOf (if write then needW else needR) a k) s

/-- `ld.vt` of a run; `args` is what a reissue takes. -/
def doLdVt (ws : Bool) (d : Opnd) (args : List Nat) (s : State) : State :=
  match s.runAt needR (args.headD 0) args.tail with
  | .error _ => s
  | .ok r =>
    let got := (s.registerSegs r.segs false).readSegs s.curCore false r.segs
    got.2.longLoad (.v d) ws (tsrVa s.curWho r.id) got.1
      (BitVec.ofNat 2048 (natOfBytes got.1.bytes % 2 ^ (r.count * fmtBits r.tsr.fmt))) args

/-- `st.vt` writes whole elements inside the dimension, and of an odd last 4-bit element only the nibble. -/
def doStVt (d a : Opnd) (k : BitVec 4) (s : State) : State :=
  match s.runOf needW a k with
  | .error _ => s
  | .ok r =>
    let s := s.registerSegs r.segs true
    let bits := r.count * fmtBits r.tsr.fmt
    let data := (s.ctx.vGet d).toNat % 2 ^ bits
    let n := ceilDiv bits 8
    let old := natOfBytes (s.readSegs s.curCore true r.segs).1.bytes
    s.writeSegs s.curCore s.curAgent r.segs (bytesOfNat n (data + old / 2 ^ bits * 2 ^ bits))

/-! ## Gather and scatter (15 R352, R353) -/

/-- a + sext32(lane i of b). -/
def State.laneAddr (s : State) (a b : Opnd) (i : Nat) : Nat :=
  (s.ctx.sGet a + BitVec.ofInt 64 (sextN 32 (bitsN (s.ctx.vGet b).toNat (32 * i) 32))).toNat

/-- The 64 lane addresses. -/
def State.lanes (s : State) (a b : Opnd) : List Nat := (List.range 64).map (s.laneAddr a b)

/-- What accesses of one size at the addresses `eas` ask before they perform: the faults and the stalls of every lane, and only then
the registration of each (15 R356, R357). -/
def lanesCheckAt (write : Bool) (eas : List Nat) (sz : BitVec 2) (s : State) : Check :=
  let n := if write then needW else needR
  let segs := eas.flatMap fun ea => match s.route n ea (szBytes sz) with
    | .ok (.mem segs) => segs
    | _ => []
  (Check.all (eas.map fun ea => s.accessFirst n write (!write) (szBytes sz) ea (szBytes sz))).andThen
    ((s.segsCheck segs write).both (s.roomCheck (segs.map fun g => (write, g))))

def lanesCheck (write : Bool) (a b : Opnd) (sz : BitVec 2) (s : State) : Check := lanesCheckAt write (s.lanes a b) sz s

def doLdG (ws : Bool) (d : Opnd) (eas : List Nat) (sz : BitVec 2) (s : State) : State :=
  let n := szBytes sz
  let r := eas.foldl (fun (acc : List Nat × Got × Option Nat × State) ea =>
    match acc.2.2.2.route needR ea n with
    | .error _ => acc
    | .ok rt =>
      let g := (acc.2.2.2.registerRoute rt false).readRoute false rt n
      (acc.1 ++ [natOfBytes g.1.bytes], acc.2.1.append { g.1 with bytes := [] },
        acc.2.2.1.orElse fun _ => if g.1.poison then some ea else none, g.2)) ([], Got.empty, none, s)
  r.2.2.2.longLoad (.v d) ws (r.2.2.1.getD 0) r.2.1 (BitVec.ofNat 2048 (packList 32 r.1)) eas

/-- 64 writes in ascending lane order. -/
def doStSc (d a b : Opnd) (sz : BitVec 2) (s : State) : State :=
  let n := szBytes sz
  (List.range 64).foldl (fun s i =>
    let ea := s.laneAddr a b i
    match s.route needW ea n with
    | .error _ => s
    | .ok rt => (s.registerRoute rt true).writeRoute rt (bytesOfNat n (bitsN (s.ctx.vGet d).toNat (32 * i) 32))) s

/-! ## Stores (15 R353, R354) -/

/-- A flat store; with ORD = 2 it is a release at its scope. -/
def State.storeFlat (s : State) (rel : Bool) (scope : BitVec 3) (ea : Nat) (bs : List Byte) : State :=
  match s.route needW ea bs.length with
  | .error _ => s
  | .ok r =>
    let s := if rel then s.releaseAt scope.toNat else s
    let s := (s.registerRoute r true).writeRoute r bs
    if rel then s.syncDone else s

def relCheck (rel : Bool) (s : State) : Check := if rel then releaseCheck s else .go

/-! ## Hints (15 R358, R359) -/

/-- HINT_DROP of the issuing device context (15 R360). -/
def State.dropHint (s : State) : State := s.modDctx s.curWho.dctx fun d => { d with hintDrop := satAdd d.hintDrop 1 }

/-- Sectors that the L1 does not hold of a line are filled: a hint changes no value that a load reads there. -/
def Core.hintL1 (c : Core) (line : Nat) (w : Bool) (d : Line) : Core :=
  c.fillL1 line w (~~~(((c.l1.find? fun x => x.line == line).map (·.valid)).getD 0)) d

/-- Bring a line into the die's L2, and into the L1 where `l1` says so; dropped where there is no room, where a transaction is under
way and where requests stand before it at the controller. The controllers count the fetch as any read; one that meets poison installs
nothing. -/
def State.prefetch (s : State) (p : Place) (line : Nat) (l1 : Bool) : State :=
  let die := (dieOf s.curCore).val
  let hall := hallOf s.curCore
  let all : BitVec 4 := 15
  let fill (s : State) (d : Line) : State := if l1 then s.modCore fun c => c.hintL1 line p.w d else s
  if s.mem.queued p.gran (line * 128) 128 || p.c && (s.mem.lineBusy line || s.mem.room line (s.mem.needWays line) == .full) then s
  else if p.c then
    let r := s.fetch p.gran line (all &&& ~~~s.mem.dieValid die line)
    if !r.1.isEmpty then r.2
    else fill ((r.2.cohRead die line).modMem fun m => m.addSectors die line hall all p.gran p.et) (s.mem.lineData line)
  else
    let r := s.ncRead die p (line * 128) 128
    if !r.2.2.1 then r.2.2.2
    else fill (r.2.2.2.modMem fun m => m.putNc { r.2.1 with slices := r.2.1.slices ||| sliceBit hall }) r.2.1.data

/-- `pf`: one line, as a load would fill it. While the core drains for a split its L1 takes nothing (09 R219), and the hint stalls
nothing (R359). -/
def doPf (ea : Nat) (s : State) : State :=
  if bitsN ea 56 8 ≠ 0 then s.dropHint
  else if inAperture ea then s
  else
    match translate s s.curWho needR ea with
    | .error _ => s.dropHint
    | .ok p => s.prefetch p (p.dpa / 128) s.core.drain.isNone

/-- The size of the page or tile whose leaf maps an address; 4 KiB where there is no leaf (DESIGN CHOICE, log entry 71). -/
def leafSize (s : State) (who : Who) (va : Nat) : Nat :=
  match walk s who.dctx va with
  | .page _ _ size => size
  | .window tw => ((readTsr s who (bitsN tw 12 16)).toOption.map Tsr.size).getD 4096
  | .bad _ => 4096

/-- `res`: every line of the range; one dropped hint for each page that faults, counted where the range enters it. -/
def doRes (a len : Nat) (s : State) : State :=
  (cutAt 4096 a (min len (2 ^ 20))).foldl (fun s c =>
    let va := c.1 % 2 ^ 64
    let drop (size : Nat) : State := if c.2.1 = 0 ∨ va % size = 0 then s.dropHint else s
    if bitsN va 56 8 ≠ 0 then drop 4096
    else if inAperture va then s
    else
      match translate s s.curWho needR va with
      | .error _ => drop (leafSize s s.curWho va)
      | .ok p => (cutAt 128 p.dpa c.2.2).foldl (fun s l => s.prefetch p (l.1 / 128) false) s) s

/-! ## Atomics (15 R361 to R363, R442) -/

/-- The functions of 15 R361 at a width of `w` bits, on raw values: the new value, or none where nothing is written. -/
def amoFn (fn w : Nat) (old c new : Nat) : Option Nat :=
  match fn with
  | 0 => some ((old + c) % 2 ^ w)
  | 1 => some (if sextN w c < sextN w old then c else old)
  | 2 => some (if sextN w old < sextN w c then c else old)
  | 3 => some (old &&& c)
  | 4 => some (old ||| c)
  | 5 => some (old ^^^ c)
  | 6 => some c
  | _ => if old = c then some new else none

/-- What an atomic found: the old value and whether poison of an ET = 0 page or the scratchpad stood in its way. -/
structure AmoGot where
  old : Nat
  poison : Bool
  deriving DecidableEq, Repr

/-- An atomic on a C = 1 place, at the line's home (15 R362, R442). Answers the substitutions too. -/
def State.amoHome (s : State) (p : Place) (dpa n : Nat) (f : Nat → Option Nat) : AmoGot × Nat × State :=
  let s := s.cohNcWrite (dpa / 128)
  if s.mem.poisoned p.gran dpa then
    if p.et then
      let r := s.granStore p.gran dpa true (bytesOfNat n ((f 0).getD 0))
      (⟨0, false⟩, 1, r.2)
    else (⟨0, true⟩, 0, s.countPoison p.gran dpa)
  else
    let old := Memory.num s.mem.bytes dpa n
    match f old with
    | none => (⟨old, false⟩, 0, s.countGran p.gran dpa)
    | some x => (⟨old, false⟩, 0, (s.granStore p.gran dpa p.et (bytesOfNat n x)).2)

/-- The granule of an atomic that met poison on an ET = 1 page is written without it, its bytes zero (15 R442). -/
def State.cleanGran (s : State) (g dpa : Nat) : State := s.modMem fun m => m.granWrite g dpa (List.replicate (granBytes g) 0) false

/-- An atomic on a C = 0 place, in the issuing die's L2 (15 R362, R442). -/
def State.amoDie (s : State) (core : Fin 192) (agent : Nat) (p : Place) (dpa n : Nat) (f : Nat → Option Nat) :
    AmoGot × Nat × State :=
  let g := s.coreRead core true p dpa n
  let old := natOfBytes g.1.bytes
  if g.1.poison then
    -- the read has counted a granule that it found poisoned anew
    (⟨0, true⟩, 0, if s.mem.granState p.gran dpa = .stored then g.2.countPoison p.gran dpa else g.2)
  else
    let t := g.1.subst.foldl (fun s a => s.cleanGran p.gran a) g.2
    (⟨old, false⟩, g.1.subst.length,
      match f old with
      | none => t
      | some x => t.coreWrite core agent p dpa (bytesOfNat n x))

/-- An atomic of the thread at issue along its route. -/
def State.amoRoute (s : State) (r : Route) (n : Nat) (f : Nat → Option Nat) : AmoGot × State :=
  match r with
  | .mem (g :: _) =>
    let dpa := g.place.dpa
    let s := s.modCore fun c => { c with l1 := c.l1.filter fun x => x.line != dpa / 128 }
    let x := if g.place.c then (s.hotCount (wingOf s.curCore) (dpa / 128) g.place).amoHome g.place dpa n f
      else s.amoDie s.curCore s.curAgent g.place dpa n f
    (x.1, x.2.2.addSubst s.curAgent x.2.1)
  | .mem [] => (⟨0, false⟩, s)
  | .spad o =>
    match s.curTeam with
    | none => (⟨0, false⟩, s)
    | some t =>
      let x := t.spadRead o n
      let s := s.spadSeen t.grid t.num o n
      if x.2 then (⟨0, true⟩, s)
      else
        let old := natOfBytes x.1
        match f old with
        | none => (⟨old, false⟩, s)
        | some y => (⟨old, false⟩, s.modCurTeam fun t => t.spadWrite o (bytesOfNat n y))

def amoBytes (w8 : Bool) : Nat := if w8 then 8 else 4

def amoCheck (a : Opnd) (w8 : Bool) (ord : BitVec 2) (s : State) : Check :=
  let ea := (s.ctx.sGet a).toNat
  (s.accessCheck needRW true false (amoBytes w8) ea (amoBytes w8)).both (if ord.getLsbD 1 then releaseCheck s else if ord = 0 then .go else syncCheck s)

/-- `amo.<op>` (15 R361 to R363). -/
def doAmo (fn : Nat) (ws : Bool) (d a : Opnd) (w8 : Bool) (ord : BitVec 2) (scope : BitVec 3) (c : Opnd) (s : State) : State :=
  let n := amoBytes w8
  let ea := (s.ctx.sGet a).toNat
  let x := (s.ctx.sGet c).toNat % 2 ^ (8 * n)
  let y := (s.ctx.sGet (regAfter c 1)).toNat % 2 ^ (8 * n)
  match s.route needRW ea n with
  | .error _ => s
  | .ok r =>
    let s := if ord.getLsbD 1 then s.releaseAt scope.toNat else s
    let got := (s.registerRoute r true).amoRoute r n fun old => amoFn fn (8 * n) old x y
    let s := if ord.getLsbD 0 then got.2.acquireAt scope.toNat else got.2
    let s := if ord = 0 then s else s.syncDone
    s.openArrived 5 (.s d) ws (BitVec.ofNat 2048 (wrapN 64 (sextN (8 * n) got.1.old)))
      fun q => { q with va := ea, poison := got.1.poison }

/-! ## The instructions -/

/-- `ld.s.<w>[.sx] d, [a + off]` (15 R350). -/
def execLdS (ws : Bool) (d a : Opnd) (sz : BitVec 2) (sx : Bool) (off : BitVec 14) (s : State) : Res :=
  guarded (loadCheck false (szBytes sz) (szBytes sz) (s.ea a off)) (doLdS false ws d sz sx (s.ea a off)) s

/-- `ld.s.b.<w>[.sx] d, [a + off]` (15 R350). -/
def execLdSB (ws : Bool) (d a : Opnd) (sz : BitVec 2) (sx : Bool) (off : BitVec 14) (s : State) : Res :=
  guarded (loadCheck true (szBytes sz) (szBytes sz) (s.ea a off)) (doLdS true ws d sz sx (s.ea a off)) s

/-- `ld.v d, [a + off]` (15 R350). -/
def execLdV (ws : Bool) (d a : Opnd) (off : BitVec 14) (s : State) : Res :=
  guarded (loadCheck false 4 256 (s.ea a off)) (doLdV false ws d (s.ea a off)) s

/-- `ld.v.b d, [a + off]` (15 R350). -/
def execLdVB (ws : Bool) (d a : Opnd) (off : BitVec 14) (s : State) : Res :=
  guarded (loadCheck true 4 256 (s.ea a off)) (doLdV true ws d (s.ea a off)) s

/-- `ld.vt d, <a: …>` (15 R351). -/
def execLdVt (ws : Bool) (d a : Opnd) (n : BitVec 4) (s : State) : Res :=
  guarded (runCheck false a n) (fun s => doLdVt ws d (s.runArgs a n) s) s

/-- `ld.g.<w> d, [a + b]` (15 R352). -/
def execLdG (ws : Bool) (d a b : Opnd) (sz : BitVec 2) (s : State) : Res :=
  guarded (lanesCheck false a b sz) (fun s => doLdG ws d (s.lanes a b) sz s) s

/-- `ld.bc.<w>[.sx] d, [a + off]` (15 R350). -/
def execLdBc (ws : Bool) (d a : Opnd) (sz : BitVec 2) (sx : Bool) (off : BitVec 14) (s : State) : Res :=
  guarded (loadCheck false (szBytes sz) (szBytes sz) (s.ea a off)) (doLdBc ws d sz sx (s.ea a off)) s

/-- `ld.k d, [a + off]` (15 R350). -/
def execLdK (ws : Bool) (d a : Opnd) (off : BitVec 14) (s : State) : Res :=
  guarded (loadCheck false 8 8 (s.ea a off)) (doLdK ws d (s.ea a off)) s

/-- `pf [a + off]` (15 R358, R359). -/
def execPf (a : Opnd) (off : BitVec 14) (s : State) : Res := .next (doPf (s.ea a off) s)

/-- `res a, b` (15 R358, R359). -/
def execRes (a b : Opnd) (s : State) : Res := .next (doRes (s.ctx.sGet a).toNat (s.ctx.sGet b).toNat s)

/-- `st.s.<w>[.rel.<scope>] d, [a + off]` (15 R353, R354). -/
def execStS (d a : Opnd) (sz : BitVec 2) (rel : Bool) (scope : BitVec 3) (off : BitVec 14) (s : State) : Res :=
  guarded (fun s => (storeCheck (szBytes sz) (szBytes sz) (s.ea a off) s).both (relCheck rel s))
    (fun s => s.storeFlat rel scope (s.ea a off) (bytesOfNat (szBytes sz) (s.ctx.sGet d).toNat)) s

/-- `st.v[.rel.<scope>] d, [a + off]` (15 R353, R354). -/
def execStV (d a : Opnd) (rel : Bool) (scope : BitVec 3) (off : BitVec 14) (s : State) : Res :=
  guarded (fun s => (storeCheck 4 256 (s.ea a off) s).both (relCheck rel s))
    (fun s => s.storeFlat rel scope (s.ea a off) (bytesOf 256 (s.ctx.vGet d))) s

/-- `st.vt d, <a: …>` (15 R351). -/
def execStVt (d a : Opnd) (n : BitVec 4) (s : State) : Res := guarded (runCheck true a n) (doStVt d a n) s

/-- `st.sc.<w> d, [a + b]` (15 R353). -/
def execStSc (d a b : Opnd) (sz : BitVec 2) (s : State) : Res :=
  guarded (lanesCheck true a b sz) (doStSc d a b sz) s

/-- `amo.add` (15 R361). -/
def execAmoAdd (ws : Bool) (d a : Opnd) (w8 : Bool) (ord : BitVec 2) (scope : BitVec 3) (c : Opnd) (s : State) : Res :=
  guarded (amoCheck a w8 ord) (doAmo 0 ws d a w8 ord scope c) s

/-- `amo.min` (15 R361). -/
def execAmoMin (ws : Bool) (d a : Opnd) (w8 : Bool) (ord : BitVec 2) (scope : BitVec 3) (c : Opnd) (s : State) : Res :=
  guarded (amoCheck a w8 ord) (doAmo 1 ws d a w8 ord scope c) s

/-- `amo.max` (15 R361). -/
def execAmoMax (ws : Bool) (d a : Opnd) (w8 : Bool) (ord : BitVec 2) (scope : BitVec 3) (c : Opnd) (s : State) : Res :=
  guarded (amoCheck a w8 ord) (doAmo 2 ws d a w8 ord scope c) s

/-- `amo.and` (15 R361). -/
def execAmoAnd (ws : Bool) (d a : Opnd) (w8 : Bool) (ord : BitVec 2) (scope : BitVec 3) (c : Opnd) (s : State) : Res :=
  guarded (amoCheck a w8 ord) (doAmo 3 ws d a w8 ord scope c) s

/-- `amo.or` (15 R361). -/
def execAmoOr (ws : Bool) (d a : Opnd) (w8 : Bool) (ord : BitVec 2) (scope : BitVec 3) (c : Opnd) (s : State) : Res :=
  guarded (amoCheck a w8 ord) (doAmo 4 ws d a w8 ord scope c) s

/-- `amo.xor` (15 R361). -/
def execAmoXor (ws : Bool) (d a : Opnd) (w8 : Bool) (ord : BitVec 2) (scope : BitVec 3) (c : Opnd) (s : State) : Res :=
  guarded (amoCheck a w8 ord) (doAmo 5 ws d a w8 ord scope c) s

/-- `amo.swap` (15 R361). -/
def execAmoSwap (ws : Bool) (d a : Opnd) (w8 : Bool) (ord : BitVec 2) (scope : BitVec 3) (c : Opnd) (s : State) : Res :=
  guarded (amoCheck a w8 ord) (doAmo 6 ws d a w8 ord scope c) s

/-- `amo.cas`: the new value stands in the register after C (15 R361). -/
def execAmoCas (ws : Bool) (d a : Opnd) (w8 : Bool) (ord : BitVec 2) (scope : BitVec 3) (c : Opnd) (s : State) : Res :=
  guarded (amoCheck a w8 ord) (doAmo 7 ws d a w8 ord scope c) s

/-! ## The deferred load (08 R211) -/

/-- What a gather or a tensor load accesses when it is reissued: the same bytes. After a restore on another part, which keeps only
the block, its registers give them (log entry 16). -/
def LongResult.again (q : LongResult) (args : List Nat) : List Nat := if q.args.isEmpty then args else q.args

/-- Perform again a load whose data arrived poisoned, at the addresses it had. -/
def State.reissue (s : State) (q : LongResult) : State :=
  let s := { s with curWord := q.word }
  match decodeSlot 4 q.word with
  | .ok (some i) =>
    (match i with
    | .ldS ws d _ sz sx _ => doLdS false ws d sz sx q.va s
    | .ldSB ws d _ sz sx _ => doLdS true ws d sz sx q.va s
    | .ldV ws d _ _ => doLdV false ws d q.va s
    | .ldVB ws d _ _ => doLdV true ws d q.va s
    | .ldBc ws d _ sz sx _ => doLdBc ws d sz sx q.va s
    | .ldK ws d _ _ => doLdK ws d q.va s
    | .ldVt ws d a n => doLdVt ws d (q.again (s.runArgs a n)) s
    | .ldG ws d a b sz => doLdG ws d (q.again (s.lanes a b)) sz s
    | _ => s)
  | _ => s

end Sys2Proof.Machine
end

