-- ==== Sys2Proof/Machine/Life.lean ====
section
/-! DEFINITION. Signals (05 R119 to R121), barrier words (17 R407, R408), and how threads, teams and grids end (13 R326; 06 R151,
R161; 05 R117). -/

namespace Sys2Proof.Machine

/-! ## Signals -/

def State.sigVa (s : State) (dctx idx : Nat) : Nat := (s.dctxOf dctx).sigBase.toNat * 4096 + 8 * idx

/-- Firmware, the drafting unit and Landing act for a device context without U (09 R234). -/
def State.fwWho (s : State) (dctx : Nat) : Who := ⟨dctx, (s.dctxOf dctx).dtsr.toNat * 4096, false⟩

/-- The pool holds 2^LOGS signals (05 R121). -/
def State.sigIn (s : State) (dctx idx : Nat) : Bool := decide (idx < 2 ^ (s.dctxOf dctx).logs)

/-- Read a number of `n` bytes; poison counts as trouble with cause 18. -/
def State.vaNum (s : State) (die : Nat) (who : Who) (va n : Nat) : Except Trouble (Nat × State) :=
  match s.vaRead die who va n with
  | .error t => .error t
  | .ok r => if r.1.poison then .error ⟨cPoison, va⟩ else .ok (natOfBytes r.1.bytes, r.2)

/-- A signal's value, signed. -/
def State.sigRead (s : State) (die : Nat) (who : Who) (dctx idx : Nat) : Except Trouble (Int × State) :=
  match s.vaNum die who (s.sigVa dctx idx) 8 with
  | .error t => .error t
  | .ok r => .ok (sextN 64 r.1, r.2)

/-- Read a signal and write what `f` gives, as one update at its home. -/
def State.sigUpdate (s : State) (die : Nat) (who : Who) (dctx idx : Nat) (f : Int → Option Int) : Except Trouble State :=
  match translateRange s who needRW (s.sigVa dctx idx) 8 with
  | .error t => .error t
  | .ok _ =>
    match s.sigRead die who dctx idx with
    | .error t => .error t
    | .ok r =>
      match f r.1 with
      | none => .ok r.2
      | some x =>
        match r.2.vaWrite die who (s.sigVa dctx idx) (bytesOfNat 8 (wrapN 64 x)) with
        | .error t => .error t
        | .ok w => .ok w.2

/-- A completion decrement (05 R120). -/
def sigDec (x : Int) : Option Int := if 0 ≤ x then some (x - 1) else none

/-! ## Barrier words (17 R407, R408) -/

def barrierOff (spad b : Nat) : Nat := spad * 2 ^ 17 - 4224 + 16 * b

/-- What an update leaves of a barrier word, and the flag to post when the phase completes. -/
def barrierStep (w pend arr : Nat) : Nat × Option Nat :=
  let p := (bitsN w 0 56 + pend) % 2 ^ 56
  let a := bitsN w 64 16 + arr
  let exp := bitsN w 80 16
  let ph := bitsN w 96 16
  let word (p a ph : Nat) : Nat := p + bitsN w 56 8 * 2 ^ 56 + a % 65536 * 2 ^ 64 + exp * 2 ^ 80 + ph % 65536 * 2 ^ 96
  if exp = 0 ∨ bitsN w 61 3 ≠ 0 ∨ bitsN w 112 16 ≠ 0 then (w, none)
  else if a = exp ∧ p = 0 then (word 0 0 (ph + 1), some (bitsN w 56 5))
  else (word p a ph, none)

def State.barrierWord (s : State) (grid team b : Nat) : Nat :=
  let spad := ((s.gridOf grid).map (·.spad)).getD 0
  ((s.teamOf grid team).map fun t => natOfBytes (t.spadRead (barrierOff spad b) 16).1).getD 0

/-- One update of a barrier word, wherever the team is. -/
def State.barrierUpdate (s : State) (grid team b pend arr : Nat) : State :=
  let spad := ((s.gridOf grid).map (·.spad)).getD 0
  let r := barrierStep (s.barrierWord grid team b) pend arr
  let s := ((s.spadSeen grid team (barrierOff spad b) 16).modTeam grid team fun t => t.spadWrite (barrierOff spad b) (bytesOfNat 16 r.1)).mirrorImage grid team
    (0x30000 + barrierOff spad b) (bytesOfNat 16 r.1)
  match r.2 with
  | some f => s.postFlag grid team f
  | none => s

/-! ## The end of teams and grids -/

/-- The team still has a thread, a job or an owed handler. -/
def State.teamLive (s : State) (grid team : Nat) : Bool :=
  (s.recs.any fun r => r.grid == grid && r.team == team && r.st != .halted) ||
    (s.jobs.any fun j => j.grid == grid && j.team == team && j.inFlight && (match j.owner with
      | .thread _ => true
      | _ => false)) ||
    ((s.teamOf grid team).map fun t => !t.owed.isEmpty).getD true

/-- Offer room to the head of the FIFO (06 R161). -/
def State.offerRoom (s : State) : State :=
  match s.fifo with
  | f :: _ => s.post .teamPlacement { grid := ⟨f.grid % 256, Nat.mod_lt _ (by decide)⟩, id := f.first }
  | [] => s

/-- The tiles a team holds on its core are given back. -/
def Core.dropTiles (c : Core) (grid team : Nat) : Core :=
  { c with tiles := c.tiles.map fun (t : Tile) => if t.owner == some (grid, team) then { t with owner := none } else t }

/-- A team whose threads have halted and whose jobs have ended frees its room, and the last team completes its grid (05 R117,
06 R161). -/
def State.teamCheck (s : State) (grid team : Nat) : State :=
  if s.teamLive grid team || (s.teamOf grid team).isNone then s
  else
    let core := (s.teamOf grid team).bind (·.core)
    let s := match core with
      | some c => if h : c < 192 then s.modCoreAt ⟨c, h⟩ fun k => k.dropTiles grid team else s
      | none => s
    let s := { s with
      recs := s.recs.filter fun r => !(r.grid == grid && r.team == team)
      teams := s.teams.filter fun t => !(t.grid == grid && t.num == team) }
    let s := s.modGrid grid fun g => { g with haltedTeams := g.haltedTeams + 1 }
    let s := s.offerRoom
    match s.gridOf grid with
    | some g => if g.haltedTeams = g.teams ∨ g.killed.isSome then s.post .gridComplete { grid := ⟨grid % 256, Nat.mod_lt _ (by decide)⟩ } else s
    | none => s

/-- A freed handler record goes to the job or forward that has waited longest (06 R151). -/
def State.serveOwed (s : State) (grid team : Nat) : State :=
  match (s.teamOf grid team).map (·.owed) with
  | some ((1, va) :: (2, entry) :: rest) =>
    let s := s.modTeam grid team fun t => { t with owed := rest }
    (match s.recOf va grid with
    | some r => s.forward r entry
    | none => s)
  | some ((3, job) :: rest) => (s.modTeam grid team fun t => { t with owed := rest }).post .jobComplete { id := job }
  | _ => s

/-- A thread of a killed grid whose matrix commands have performed leaves its context, and its team goes with the last of them. -/
def State.settleKilled (s : State) (c : Fin 192) (x : Fin 4) : State :=
  match s.recAt c x with
  | some r =>
    if s.ctxKilled c x && s.matQuiet c x then
      let s := s.vacate c x
      { s with recs := s.recs.filter fun q => !(q.va == r.va && q.grid == r.grid) }.teamCheck r.grid r.team
    else s
  | none => s

/-- `s.halt` has nothing left to wait for: loads, atomics and, where the context holds the engine, its matrix operations (13 R326). -/
def State.haltReady (s : State) (c : Fin 192) (x : Fin 4) : Bool :=
  ((s.ctxAt c x).long.all fun r => !(r.load || r.slot == 5)) &&
    (decide ((s.coreAt c).engine.holder ≠ .ctx x) || s.matQuiet c x)

/-- The jobs and the runs of a handler that halts have no issuer any longer: another handler may take its record, and is no part of their stream (06
R154, R156). -/
def State.orphanJobs (s : State) (r : Rec) : State :=
  let mine (j : Job) : Bool := j.owner == .thread r.va && j.grid == r.grid
  let runs (p : Plan) : Bool := p.owner == some r.va && p.grid == some r.grid
  if s.jobs.any mine || s.plans.any runs then
    let x := s.fresh
    let gone := r.va % 2 ^ 64 + x.1 * 2 ^ 64
    { x.2 with
      jobs := x.2.jobs.map fun (j : Job) => if mine j then { j with owner := .thread gone } else j
      plans := x.2.plans.map fun (p : Plan) => if runs p then { p with owner := some gone } else p }
  else s

/-- The thread ends: ST := halted, its context is free, and a handler frees its record (13 R326). The results in flight are
discarded with the context. -/
def State.haltNow (s : State) (c : Fin 192) (x : Fin 4) : State :=
  match s.recAt c x with
  | none => s.vacate c x
  | some r =>
    let s := s.vacate c x
    let s := if r.handler.isSome then
        let s := s.orphanJobs r
        ({ s.touch r.va r.grid with recs := s.recs.filter fun q => !(q.va == r.va && q.grid == r.grid) }.modTeam r.grid r.team fun t =>
          { t with handlers := t.handlers - 1 }).serveOwed r.grid r.team
      else (s.modRec r.va r.grid fun q => { q with st := .halted }).modTeam r.grid r.team fun t =>
        { t with halted := t.halted + 1 }
    s.teamCheck r.grid r.team

end Sys2Proof.Machine
end

