-- ==== Sys2Proof/Machine/Leave.lean ====
section
/-! DEFINITION. Leave: requests, grants, reservations and ageing at a die's governor (01 R28 to R30; 17 R418). -/

namespace Sys2Proof.Machine

/-- Weight of an energy class (01 R28). -/
def leaveWeight (cls : BitVec 2) : Nat := 2 ^ cls.toNat

/-- Weight of the outstanding grants. -/
def Die.outstanding (d : Die) : Nat := (d.grants.map (·.weight)).foldl (· + ·) 0

def LeaveReq.class (r : LeaveReq) : Nat := if r.aged then 0 else r.pri

/-- Waiting requests in the order of their granting: class, age, then agent (01 R29), and an engine's request of the same cycle
behind those of contexts (log entry 73). -/
def Die.firstReq (d : Die) : Option LeaveReq :=
  d.waiting.foldl (fun acc r => match acc with
    | none => some r
    | some b =>
      if pairBefore (r.class, r.since, r.owner) (b.class, b.since, b.owner) then some r else some b) none
where
  pairBefore (a b : Nat × Nat × Nat) : Bool :=
    decide (a.1 < b.1) || (a.1 == b.1 && (decide (a.2.1 < b.2.1) || (a.2.1 == b.2.1 && decide (a.2.2 < b.2.2))))

/-- Tell the owner of a request that its grant has arrived. -/
def State.leaveTell (s : State) (owner : Nat) (cls : BitVec 2) : State :=
  if owner < 768 then
    let p := splitAgent owner
    (s.modCtxAt p.1 p.2 fun c => { c with grant := some cls }).addBusy p.1
  else (s.modJob (owner - 1000) fun j => { j with grant := some cls }).post .jobDispatch { id := owner - 1000, flag := true }

/-- Grant waiting requests from the first on while they fit under LIMIT (01 R29). -/
def State.grantFrom (die : Fin 4) : Nat → State → State
  | 0, s => s
  | n + 1, s =>
    let d := s.dieAt die
    match d.firstReq with
    | none => s
    | some r =>
      if d.limit.toNat < d.outstanding + leaveWeight r.cls then s
      else
        let s := s.modDie die fun d =>
          { d with waiting := d.waiting.erase r, grants := d.grants ++ [⟨leaveWeight r.cls, r.owner, false⟩] }
        State.grantFrom die n (s.leaveTell r.owner r.cls)

def State.leaveGrantAll (s : State) (die : Fin 4) : State := State.grantFrom die (s.dieAt die).waiting.length s

/-- File a request; it counts as class 0 after 65,536 cycles (01 R29). -/
def State.leaveAsk (s : State) (die : Fin 4) (cls : BitVec 2) (pri owner : Nat) : State :=
  if (s.dieAt die).waiting.any (fun r => r.owner == owner) then s
  else
    let s := s.modDie die fun d => { d with waiting := d.waiting ++ [⟨cls, pri, s.now, false, owner⟩] }
    let p := splitAgent owner
    let s := s.timer 131072 .leaveAging
      (if owner < 768 then { core := p.1, ctx := p.2 } else { die := die, id := owner - 1000, flag := true })
    s.leaveGrantAll die

/-- Release the grant that an owner holds for an operation; waiting requests may then be granted. -/
def State.leaveDone (s : State) (die : Fin 4) (owner : Nat) (cls : BitVec 2) : State :=
  (s.modDie die fun d => { d with grants := d.grants.erase ⟨leaveWeight cls, owner, false⟩ }).leaveGrantAll die

/-- Priority class of the thread at issue. -/
def State.curPri (s : State) : Nat := (s.curRec.map (·.pri)).getD 0

/-- A reservation in force covers the class (17 R418). -/
def Ctx.covered (c : Ctx) (cls : BitVec 2) : Bool :=
  match c.reserve with
  | some (r, suspended) => !suspended && cls.ule r
  | none => false

/-- A grant can be had at once: no request waits and the limit allows (01 R29). -/
def State.leaveFits (s : State) (die : Fin 4) (cls : BitVec 2) : Bool :=
  let d := s.dieAt die
  d.waiting.isEmpty && decide (d.outstanding + leaveWeight cls ≤ d.limit.toNat)

/-- What an operation of class `cls` meets: its own reservation, a grant it has been given, or a wait (01 R30). -/
def leaveCheck (cls : BitVec 2) (s : State) : Check :=
  if s.ctx.covered cls || s.ctx.grant == some cls || s.leaveFits (dieOf s.curCore) cls then .go
  else .stall .leave cls.toNat

/-- Take the grant that the check found; answers the class to release when the operation completes, none under a
reservation. -/
def State.leaveTake (s : State) (cls : BitVec 2) : Option (BitVec 2) × State :=
  if s.ctx.covered cls then (none, s)
  else if s.ctx.grant == some cls then (some cls, s.modCtx fun c => { c with grant := none })
  else
    (some cls, s.modDie (dieOf s.curCore) fun d =>
      { d with grants := d.grants ++ [⟨leaveWeight cls, s.curAgent, false⟩] })

/-! ## The events of the governor (01 R29, R30) -/

/-- LEAVE_REQUEST: a context asks for the class that its stalled operation needs. -/
def execLeaveRequest (s : State) : Res :=
  let a := s.arg
  let pri := ((s.recAt a.core a.ctx).map (·.pri)).getD 0
  .next (s.leaveAsk (dieOf a.core) a.cls pri (agentOf a.core a.ctx))

/-- LEAVE_GRANT: the governor grants what fits. -/
def execLeaveGrant (s : State) : Res := .next (s.leaveGrantAll s.arg.die)

/-- Every reservation on the die is suspended for good (01 R30, R31). -/
def State.suspendReservations (s : State) (die : Fin 4) : State :=
  let held := (s.dieAt die).grants.filter (·.reservation)
  let s := s.modDie die fun d => { d with grants := d.grants.filter fun g => !g.reservation }
  held.foldl (fun s g =>
    let p := splitAgent g.owner
    s.modCtxAt p.1 p.2 fun c => { c with reserve := c.reserve.map fun r => (r.1, true) }) s

/-- LEAVE_AGING: a request that has waited 65,536 cycles counts as class 0, and reservations are suspended. The request is a
context's, or the engine's of job `id` where `flag` is set. -/
def execLeaveAging (s : State) : Res :=
  let a := s.arg
  let owner := if a.flag then engineOwner a.id else agentOf a.core a.ctx
  let die := if a.flag then a.die else dieOf a.core
  if (s.dieAt die).waiting.any fun r => r.owner == owner && decide (r.since + 131072 ≤ s.now) then
    let age (r : LeaveReq) : LeaveReq := { r with aged := true }
    let s := s.modDie die fun d => { d with waiting := modFirst (fun r => r.owner == owner) age d.waiting }
    .next ((s.suspendReservations die).leaveGrantAll die)
  else .next s

/-! ## Reservations (17 R418) -/

/-- The reservation of the context at issue ends. -/
def State.leaveUnreserve (s : State) : State :=
  (s.leaveRelease (dieOf s.curCore) s.curAgent true).modCtx fun c => { c with reserve := none }

/-- What `y.leave` meets: its own old reservation does not stand in its way. -/
def leaveReserveCheck (cls : BitVec 2) (s : State) : Check := leaveCheck cls s.leaveUnreserve

/-- `y.leave n`: the old reservation goes first, then the grant is held as the new one. Behind an operation of its own bundle that has taken
leave there may be none to be had: the reservation is then requested before the thread next issues. -/
def State.leaveReserve (s : State) (cls : BitVec 2) : State :=
  let die := dieOf s.curCore
  let s := s.leaveUnreserve
  if leaveCheck cls s != .go then s.modCtx fun c => { c with rereserve := some cls }
  else
    let t := s.leaveTake cls
    let hold (g : Grant) : Grant := { g with reservation := true }
    let mine (g : Grant) : Bool := g.owner == s.curAgent && !g.reservation && g.weight == leaveWeight cls
    (t.2.modDie die fun d => { d with grants := (modFirst mine hold d.grants.reverse).reverse }).modCtx
      fun c => { c with reserve := some (cls, false), rereserve := none }

/-- `y.leave n` (17 R418). -/
def execYLeave (cls : BitVec 2) (s : State) : Res := guarded (leaveReserveCheck cls) (fun s => s.leaveReserve cls) s

/-- `y.leave.rel` (17 R418): the class is ignored. -/
def execYLeaveRel (_cls : BitVec 2) (s : State) : Res :=
  .next (s.leaveUnreserve.leaveGrantAll (dieOf s.curCore))

end Sys2Proof.Machine
end

