-- ==== Sys2Proof/Machine/Waits.lean ====
section
/-! DEFINITION. Waits: when one holds, what its completion does, and which records it readies (06 R142; 07 R181, R190; 17 R404,
R405, R410, R443). -/

namespace Sys2Proof.Machine

/-! ## Plan handles as waits see them (07 R170, R181, R190) -/

/-- Two device contexts with one page table root have one address space. -/
def State.sameSpace (s : State) (a b : Nat) : Bool := a == b || (s.dctxOf a).ptroot == (s.dctxOf b).ptroot

/-- The handle is of the TSR table that lies at `w.tsrt` in the address space of `w` (07 R170). -/
def State.ofTable (s : State) (w : Who) (p : Plan) : Bool := p.tbase == w.tsrt && s.sameSpace p.dctx w.dctx

/-- The live handle `h` of a table. -/
def State.planAt (s : State) (w : Who) (h : Nat) : Option Plan :=
  s.plans.find? fun p => s.ofTable w p && p.handle == h && p.st != .free

/-- The code `y.qwait` returns (07 R190): a field of the plan holds which kind of INVALID it is. -/
def Plan.waitCode (p : Plan) : Nat :=
  match p.st with
  | .done => 0
  | .invalid => p.code
  | _ => 3

/-- `y.qwait` waits while the handle is PLANNING or RUNNING. -/
def Plan.settled (p : Plan) : Bool :=
  match p.st with
  | .planning => false
  | .running => false
  | _ => true

def cPlanState : Nat := 23

def planSlot (tbase h : Nat) : Nat := tbase + 0x421000 + 0x1000 * h

/-- The drafting unit writes its tables whatever their pages permit (07 R170). -/
def State.tableWrite (s : State) (dctx va : Nat) (bs : List Byte) : State :=
  match translateRange s ⟨dctx, 0, false⟩ ⟨false, false, false⟩ va bs.length with
  | .error _ => s
  | .ok segs => (s.engWrite 0 segs bs).2

def State.tableRead (s : State) (dctx va n : Nat) : Except Trouble (List Byte) :=
  match translateRange s ⟨dctx, 0, false⟩ ⟨false, false, false⟩ va n with
  | .error t => .error t
  | .ok segs =>
    let r := s.engRead 0 segs
    if r.1.poison then .error ⟨cPoison, va⟩ else .ok r.1.bytes

/-- The handle becomes FREE: pool regions and the slot are released (07 R181). -/
def State.planFree (s : State) (p : Plan) : State :=
  let s := { s with plans := s.plans.filter fun q => q.id != p.id }
  s.tableWrite p.dctx (planSlot p.tbase p.handle + 4) [0]

/-! ## Banks as waits see them (06 R142; 09 R228) -/

/-- The bank names the segment, sealed or not. -/
def Bank.names (b : Bank) (dctx table seg : Nat) : Bool :=
  (b.loaded || b.failure.isSome) && b.dctx == dctx && b.table == table && b.seg == seg

/-- The bank that a record's BIX selects holds its segment sealed, or has shown that the segment cannot be sealed: what its fetch then
meets (06 R142, WK 6; 12 R305). -/
def Core.bankHolds (k : Core) (g : Grid) (r : Rec) : Bool :=
  let b := k.banks.get ⟨r.bix / 2048 % 2, Nat.mod_lt _ (by decide)⟩
  b.names g.dctx g.img r.seg && (b.isSealed || b.failure.isSome)

/-- A core that an evicted record may be taken by. -/
def Rec.near (r : Rec) (c : Fin 192) : Bool := if r.hallFree then r.hall == c.val / 4 else r.core == c.val

/-! ## Conditions -/

/-- A wait holds for a thread of `team` whose event latch is `evl`. -/
def State.condHolds (s : State) (die grid team : Nat) (evl : BitVec 16) (w : WaitCond) : Bool :=
  match w with
  | .flag f n _ => ((s.teamOf grid team).map fun t => decide (n ≤ (getIdx t.flags (f % 32) 0).toNat)).getD false
  | .event m => decide (evl.toNat &&& m ≠ 0)
  | .plan h _ => ((s.planAt (s.whoOfGrid grid) h).map Plan.settled).getD true
  | .signal i _ =>
    match s.sigRead die (s.whoOfGrid grid) ((s.gridOf grid).map (·.dctx) |>.getD 0) i with
    | .ok r => decide (r.1 ≤ 0)
    | .error _ => false

/-- The wait fields of a record (06 R142). -/
def State.recHolds (s : State) (r : Rec) : Bool :=
  let die := r.core / 48
  match r.wk with
  | 0 => true
  | 1 => s.condHolds die r.grid r.team 0 (.flag r.wix r.wcnt 0)
  | 2 => s.condHolds die r.grid r.team (BitVec.ofNat 16 r.evl) (.event r.wcnt)
  | 3 => s.condHolds die r.grid r.team 0 (.plan r.wix false)
  | 4 => s.condHolds die r.grid r.team 0 (.signal r.wsig 0)
  | 5 => if h : r.core < 192 then (s.coreAt ⟨r.core, h⟩).engine.holder == .nobody else false
  | 6 => (s.gridOf r.grid).any fun g => (List.finRange 192).any fun c => r.near c && (s.coreAt c).bankHolds g r
  | _ => false

/-! ## Completion (17 R404, R443) -/

/-- The event latch as a wait finds it: before the `s.setc` of its own bundle (13 R315). -/
def State.evlNow (s : State) : BitVec 16 := (s.ctlRead 6).setWidth 16

/-- The effect of a wait that holds, on the context at issue: acquire, result, and the wait is over. A handle that another thread
has freed meanwhile raises PLAN_STATE (07 R190). -/
def State.waitDone (s : State) (w : PendingWait) : State :=
  let s := s.modCtx fun c => { c with wait := none }
  match w.cond with
  | .flag _ _ scope => (s.acquireAt scope).syncDone
  | .signal _ scope => (s.acquireAt scope).syncDone
  | .event m =>
    let bits := s.evlNow.toNat &&& m
    s.modCtx fun c =>
      ({ c with evl := c.evl &&& ~~~BitVec.ofNat 16 bits }).writeResult 7 w.dest w.ws (BitVec.ofNat 2048 bits)
        (BitVec.allOnes 2048)
  | .plan h rel =>
    match s.planAt s.curWho h with
    | none => s.raise cPlanState h
    | some p =>
      let code := p.waitCode
      let s := if code ≤ 1 then (s.acquireAt 3).syncDone else s
      let s := s.modCtx fun c => c.writeResult 7 w.dest w.ws (BitVec.ofNat 2048 code) (BitVec.allOnes 2048)
      if rel then s.planFree p else s

/-- The completion of a wait would increment the epoch of its agent (03 R72). -/
def State.waitSyncs (s : State) (w : WaitCond) : Bool :=
  match w with
  | .flag _ _ _ => true
  | .signal _ _ => true
  | .event _ => false
  | .plan h _ => (s.planAt s.curWho h).any fun p => decide (p.waitCode ≤ 1)

/-- Complete the pending wait of the context at issue if its condition holds. One whose increment an unfinished sweep forbids stays
pending until that pass has ended, which takes a pass at most (03 R75). -/
def State.endWait (s : State) : State :=
  match s.ctx.wait, s.curRec with
  | some w, some r =>
    if s.condHolds (dieOf s.curCore).val r.grid r.team s.evlNow w.cond then
      if s.waitSyncs w.cond && (s.mem.epochBlocked s.curAgent).isSome then s.timer 131072 .waitSatisfied { id := r.va, num := r.grid }
      else
      let s := s.waitDone w
      let woken : Bool := s.ctx.phase == .waiting
      let s := s.modRec r.va r.grid fun r => { (if woken then r.enter .ready s.now else r) with wk := 0 }
      if woken then
        (s.modCtx fun c => { c with phase := .ready, readySince := s.now }).addBusy s.curCore
      else s
    else s
  | _, _ => s

/-- The pending wait of the context at issue is examined. A thread with a cause to take, or one in a trap, keeps its wait: it
completes at resumption at the earliest (07 R189, 17 R443). -/
def State.tryWait (s : State) : State :=
  if s.ctx.async.isEmpty && s.ctx.replayAt.isNone && s.ctx.leaving.isNone then s.endWait else s

/-- Begin a wait; one that holds completes at once (17 R404). SP is bit 2 of the header (12 R286). -/
def State.beginWait (s : State) (cond : WaitCond) (d : Dest) (ws : Bool) : State :=
  let w : PendingWait := { cond := cond, dest := d, ws := ws, word := s.curWord, stops := s.curHeader.getLsbD 2 }
  (s.modCtx fun c => { c with wait := some w }).endWait

/-- The wait of a context whose block or record kept it: the instruction from its encoding, the operands from the record's wait
fields. -/
def waitOfWord (word : SlotWord) (r : Rec) : Option PendingWait :=
  let mk (cond : WaitCond) (d : Dest) (ws : Bool) : Option PendingWait :=
    some { cond := cond, dest := d, ws := ws, word := word, stops := true }
  match decodeSlot 7 word with
  | .ok (some i) =>
    (match i with
    | .yWait _ scope _ => mk (.flag r.wix r.wcnt scope.toNat) .nowhere false
    | .yBarw _ scope _ => mk (.flag r.wix r.wcnt scope.toNat) .nowhere false
    | .yWaitSig _ scope => mk (.signal r.wsig scope.toNat) .nowhere false
    | .yWfe ws d _ => mk (.event r.wcnt) (.s d) ws
    | .yQwait ws d _ rel => mk (.plan r.wix rel) (.s d) ws
    | _ => none)
  | _ => none

/-! ## The events (06 R142) -/

/-- A context looks at its pending wait. -/
def State.lookCtx (s : State) (a : Nat) : State :=
  let p := splitAgent a
  (s.at_ p.1 p.2).tryWait

/-- One record looks at its wait. -/
def State.lookRec (s : State) (r : Rec) : State :=
  match r.onCtx with
  | some a => s.lookCtx a
  | none => if r.st == .waiting && s.recHolds r && (r.side.bind (·.replayAt)).isNone then s.recReady r.va r.grid else s

/-- WAIT_SATISFIED: the waits on a changed object are examined: those of record `id` of grid `num`, or all when `id` is 0. -/
def execWaitSatisfied (s : State) : Res :=
  let a := s.arg
  let l := if a.id = 0 then s.recs else s.recs.filter fun r => r.va == a.id && r.grid == a.num
  let t := l.foldl State.lookRec s
  .next (t.at_ s.curCore s.curCtx)

/-- The record waits for a signal. -/
def State.onSignal (s : State) (r : Rec) : Bool :=
  match r.onCtx with
  | none => r.st == .waiting && r.wk == 4
  | some a =>
    let p := splitAgent a
    (match (s.ctxAt p.1 p.2).wait with
    | some w => (match w.cond with
      | .signal _ _ => (s.ctxAt p.1 p.2).phase == .waiting
      | _ => false)
    | none => false)

/-- SIGNAL_WAIT_REPOLL: the hall re-reads its waited signals, again after 160 ns while there are any. -/
def execSignalWaitRepoll (s : State) : Res :=
  let hall := s.arg.hall
  let l := s.recs.filter fun r => r.hall == hall.val && s.onSignal r
  let t := (l.foldl State.lookRec s).at_ s.curCore s.curCtx
  let left := t.recs.any fun r => r.hall == hall.val && t.onSignal r
  let due := t.timers.any fun x => x.2.1 == .signalWaitRepoll && x.2.2.hall == hall
  .next (if left && !due then t.timer 192 .signalWaitRepoll { hall := hall } else t)

end Sys2Proof.Machine
end

