-- ==== Sys2Proof/Machine/Sync.lean ====
section
/-! DEFINITION. The sync slot but for the plan instructions: flags, waits, fences, barriers, events, signals, split, swap,
instruction fence and shape-record invalidation (17 R403 to R412; 09 R219, R222, R223, R237). -/

namespace Sys2Proof.Machine

/-! ## Creating a job (17 R388, R389) -/

/-- A job of the thread at issue enters the hall scheduler: JOB_CARD_ENTRY checks its card. -/
def State.newJob (s : State) (r : Rec) (tag wantOp cardVa : Nat) (card : Block) (result : Option (Nat × Nat))
    (grant : Option (BitVec 2) := none) : State :=
  let (id, s) := s.fresh
  let j : Job :=
    { id := id, owner := .thread r.va, dctx := s.curWho.dctx, grid := r.grid, team := r.team, hall := s.curCore.val / 4,
      core := ((s.teamOf r.grid r.team).bind (·.core)).getD s.curCore.val, tag := tag, card := card, wantOp := wantOp,
      cardVa := cardVa, pri := r.pri, state := .entering, status := 0, oor := 0, bytes := 0, result := result, byOther := false,
      grant := grant, awaiting := [] }
  ({ s with jobs := s.jobs ++ [j] }).post .jobCardEntry { id := id }

/-! ## Teams that A and OWN name (17 R403, R410) -/

/-- The grid and team an instruction names; none when A names no team of the grid. -/
def State.namedTeam (s : State) (own : Bool) (a : Opnd) : Option (Nat × Nat) :=
  s.curRec.bind fun r =>
    let t := if own then r.team else (s.ctx.sGet a).toNat
    match s.gridOf r.grid with
    | some g => if t < g.teams then some (r.grid, t) else none
    | none => none

/-- `y.post` (17 R403): a release at SCOPE; with an unknown team the release takes place but no flag changes. -/
def execYPost (a : Opnd) (own : Bool) (scope : BitVec 3) (flag : BitVec 5) (s : State) : Res :=
  guarded releaseCheck (fun s =>
    let t := (s.releaseAt scope.toNat).syncDone
    match s.namedTeam own a with
    | some (g, n) => t.postFlag g n flag.toNat
    | none => t) s

/-- `y.wait a, fn, scope` (17 R405). -/
def execYWait (a : Opnd) (scope : BitVec 3) (flag : BitVec 5) (s : State) : Res :=
  guarded syncCheck (fun s =>
    s.beginWait (.flag flag.toNat ((s.ctx.sGet a).toNat % 65536) scope.toNat) .nowhere false) s

/-- A signal index beyond the pool takes PROTECTION; the signal's page is checked as any access (17 R405, R411). -/
def sigCheck (n : Need) (i : Nat) (s : State) : Check :=
  let dctx := s.curWho.dctx
  let va := s.sigVa dctx i
  if !s.sigIn dctx i then .trap 14 va
  else
    match translateRange s s.curWho n va 8 with
    | .error t => .ofTrouble t
    | .ok segs => s.segsCheck segs n.w

/-- The access to a signal registers like any access to its line (03 R73, 10 R254). -/
def State.sigRegister (s : State) (n : Need) (i : Nat) : State :=
  match translateRange s s.curWho n (s.sigVa s.curWho.dctx i) 8 with
  | .error _ => s
  | .ok segs => s.registerSegs segs n.w

/-- `y.wait.sig a, scope` (17 R405). -/
def execYWaitSig (a : Opnd) (scope : BitVec 3) (s : State) : Res :=
  let i := (s.ctx.sGet a).toNat % 2 ^ 32
  guarded (fun s => (sigCheck needR i s).both (syncCheck s)) (fun s => (s.sigRegister needR i).beginWait (.signal i scope.toNat) .nowhere false) s

/-! ## Fences (17 R406) -/

/-- A release fence waits for every earlier load, `amo.` and matrix access of the thread. -/
def relFenceCheck (s : State) : Check :=
  (if s.ctx.long.any (fun r => r.load || r.slot == 5) then .stall .interlock else Check.go).both (matPerformed s)

/-- An acquire fence comes behind every matrix read that precedes it: what that read returned may be what it synchronises with
(10 R244). -/
def acqFenceCheck (s : State) : Check := (matPerformed s).both (syncCheck s)

/-- `y.fence.<scope>.acq`. -/
def execYFenceAcq (scope : BitVec 3) (s : State) : Res :=
  guarded acqFenceCheck (fun s => (s.acquireAt scope.toNat).syncDone) s

/-- `y.fence.<scope>.rel`. -/
def execYFenceRel (scope : BitVec 3) (s : State) : Res :=
  guarded (fun s => (relFenceCheck s).both (syncCheck s)) (fun s => (s.releaseAt scope.toNat).syncDone) s

/-- `y.fence.<scope>.ar`. -/
def execYFenceAr (scope : BitVec 3) (s : State) : Res :=
  guarded (fun s => (relFenceCheck s).both (syncCheck s))
    (fun s => ((s.releaseAt scope.toNat).acquireAt scope.toNat).syncDone) s

/-! ## Barriers (17 R408) -/

/-- The arrival: PEND falls by the bytes expected, ARR rises by one. A hall-free arrival is performed at the team's core. -/
def State.arrive (s : State) (a : Opnd) (scope : BitVec 3) (bar : BitVec 8) : State :=
  match s.curRec with
  | none => s
  | some r =>
    let n := (s.ctx.sGet a).toNat % 2 ^ 56
    let off := barrierOff (((s.gridOf r.grid).map (·.spad)).getD 0) bar.toNat
    (((s.releaseAt scope.toNat).syncDone).spadUse r.grid r.team off 16).barrierUpdate r.grid r.team bar.toNat (2 ^ 56 - n) 1

def barCheck (s : State) : Check := s.drainCheck.both (releaseCheck s)

/-- `y.bar a, bn, scope`. -/
def execYBar (a : Opnd) (scope : BitVec 3) (bar : BitVec 8) (s : State) : Res :=
  guarded barCheck (fun s => s.arrive a scope bar) s

/-- `y.barw a, bn, scope`: the wait is for flag FL ≥ PH + 1, PH as read at the arrival. -/
def execYBarw (a : Opnd) (scope : BitVec 3) (bar : BitVec 8) (s : State) : Res :=
  guarded barCheck (fun s =>
    match s.curRec with
    | none => s
    | some r =>
      let w := s.barrierWord r.grid r.team bar.toNat
      (s.arrive a scope bar).beginWait (.flag (bitsN w 56 5) ((bitsN w 96 16 + 1) % 65536) scope.toNat) .nowhere false) s

/-! ## Events and signals (17 R410, R411) -/

/-- `y.wfe d, a`: a mask of 0 completes at once with 0. -/
def execYWfe (ws : Bool) (d a : Opnd) (s : State) : Res :=
  let m := (s.ctx.sGet a).toNat % 65536
  .next (if m = 0 then s.answer 7 (.s d) ws 0 else s.beginWait (.event m) (.s d) ws)

/-- Bytes of the block that keeps a thread's registers, wherever it lies: in its team's image, or at FRAME. -/
def State.blockRead (s : State) (r : Rec) (off n : Nat) : Option (List Byte) :=
  match r.imgBlock, s.gridOf r.grid with
  | some k, some g => (s.vaRead 0 (s.fwWho g.dctx) (imageVa g r.team + 0x10000 + 0x8000 * k + off) n).toOption.map fun x => x.1.bytes
  | _, _ =>
    if r.fsp then (s.teamOf r.grid r.team).map fun t => (t.spadRead (r.frame + off) n).1
    else (s.vaRead (r.core / 48) (s.whoOfGrid r.grid) (r.frame + off) n).toOption.map fun x => x.1.bytes

def State.blockWrite (s : State) (r : Rec) (off : Nat) (bs : List Byte) : State :=
  match r.imgBlock with
  | some k => s.mirrorImage r.grid r.team (0x10000 + 0x8000 * k + off) bs
  | none =>
    if r.fsp then (s.modTeam r.grid r.team fun t => t.spadWrite (r.frame + off) bs).mirrorImage r.grid r.team (0x30000 + r.frame + off) bs
    else
      match s.vaWrite (r.core / 48) (s.whoOfGrid r.grid) (r.frame + off) bs with
      | .ok x => x.2
      | .error _ => s

/-- Event bits reach the saved latch of a thread off its context: EVL in its block (08 R215, 17 R410). -/
def State.orEvl (s : State) (r : Rec) (bits : Nat) : State :=
  if !r.saved then s
  else
    match s.blockRead r 0x3E8 2 with
    | some bs => s.blockWrite r 0x3E8 (bytesOfNat 2 (natOfBytes bs ||| bits))
    | none => s

/-- OR event bits into the latches of every context of a team, wherever its threads are (17 R403, R410). -/
def State.sevTeam (s : State) (grid team bits : Nat) : State :=
  let s := s.holdFor grid team
  let s := s.modTeam grid team fun t => if t.placed then t else { t with evl := t.evl ||| bits }
  let mine := s.recs.filter fun r => r.grid == grid && r.team == team
  let s := mine.foldl (fun s r =>
    match r.onCtx with
    | some a =>
      let p := splitAgent a
      s.modCtxAt p.1 p.2 fun c => { c with evl := c.evl ||| BitVec.ofNat 16 bits }
    | none =>
      let s := s.modRec r.va r.grid fun r => { r with evl := r.evl ||| bits }
      s.orEvl r bits) s
  s.post .waitSatisfied {}

/-- `y.sev a, bits` (17 R410). -/
def execYSev (a : Opnd) (own : Bool) (ev : BitVec 8) (s : State) : Res :=
  .next (match s.namedTeam own a with
    | some (g, n) => s.sevTeam g n ev.toNat
    | none => s)

/-- `y.sig a, scope`: a completion decrement and a release (17 R411). Poison on the signal's page is raised as for an atomic
(15 R442). -/
def execYSig (a : Opnd) (scope : BitVec 3) (s : State) : Res :=
  let i := (s.ctx.sGet a).toNat
  guarded (fun s => (sigCheck needRW i s).both (releaseCheck s)) (fun s =>
    let s := (s.releaseAt scope.toNat).sigRegister needRW i
    (match s.sigUpdate (dieOf s.curCore).val s.curWho s.curWho.dctx i sigDec with
    | .ok t => t
    | .error t => s.raise t.cause t.info).syncDone) s

/-! ## The near store (09 R219, R222, R223) -/

/-- Scratchpad units that resident teams of a core hold. -/
def State.unitsHeld (s : State) (core : Nat) : Nat :=
  ((s.teams.filter fun t => t.core == some core).map fun t => ((s.gridOf t.grid).map (·.spad)).getD 0).foldl (· + ·) 0

def splitCheck (s : State) : Check := s.drainCheck

/-- `y.split d, n`: C″ = min(C′, 12, 16 − A); a new split drains the core for 1,024 cycles. -/
def execYSplit (ws : Bool) (d : Opnd) (n : BitVec 4) (s : State) : Res :=
  guarded splitCheck (fun s =>
    let c := min (min n.toNat 12) (16 - s.unitsHeld s.curCore.val)
    let s := s.answer 7 (.s d) ws (BitVec.ofNat 64 c)
    if c = s.core.cacheUnits then s
    else (s.modCore fun k => { k with drain := some (c, s.now + 2048), l1 := [] }).timer 2048 .splitDrainEnd { core := s.curCore })
    s

/-- SPLIT_DRAIN_END: the new split is in force. It takes no unit of a team that was placed during the drain, under the old split (09
R219; log entry 63). -/
def execSplitDrainEnd (s : State) : Res :=
  let c := s.arg.core
  let s := s.modCoreAt c fun k =>
    match k.drain with
    | some (n, _) => { k with cacheUnits := min n (16 - s.unitsHeld c.val), drain := none }
    | none => k
  .next (((s.addBusy c).settleAll s.contexts).offerRoom)

/-- A phase-table entry (09 R222): its offset, and its fields. -/
def phaseOff (spad e : Nat) : Nat := spad * 2 ^ 17 - 128 + 16 * e

structure Phase where
  base : Nat
  len : Nat
  sel : Bool
  pz : Bool
  res : Bool
  rf : Nat
  deriving DecidableEq, Repr

def Phase.parse (w : Nat) : Phase where
  base := bitsN w 0 32
  len := bitsN w 32 32
  sel := bitN w 64
  pz := bitN w 65
  res := bitN w 66
  rf := bitsN w 72 8

/-- The back half: [lo, hi). -/
def Phase.back (p : Phase) : Nat × Nat := if p.sel then (p.base, p.base + p.len) else (p.base + p.len, p.base + 2 * p.len)

def State.phase (s : State) (grid team e : Nat) : Phase :=
  let spad := ((s.gridOf grid).map (·.spad)).getD 0
  Phase.parse (((s.teamOf grid team).map fun t => natOfBytes (t.spadRead (phaseOff spad e) 16).1).getD 0)

/-- The thread at issue has read entries `e` to `e + n - 1`: an uncorrectable read raises POISON against it (09 R227). -/
def State.phaseUse (s : State) (grid team e n : Nat) : State :=
  s.spadUse grid team (phaseOff (((s.gridOf grid).map (·.spad)).getD 0) e) (16 * n)

/-- Hardware writes FL and RF of an entry. -/
def State.setPhase (s : State) (grid team e : Nat) (p : Phase) : State :=
  let spad := ((s.gridOf grid).map (·.spad)).getD 0
  s.modTeam grid team fun t => t.spadWrite (phaseOff spad e + 8)
    [BitVec.ofNat 8 (b2n p.sel + 2 * b2n p.pz + 4 * b2n p.res), BitVec.ofNat 8 p.rf]

/-- A fill of an entry's back half: a job whose write region lies wholly inside it (09 R222). -/
def isFill (p : Phase) (card : Block) : Bool :=
  (cardFeet card).any fun f => f.write && (match f.reg with
    | .flat va n => inAperture va && decide (p.back.1 ≤ va % 2 ^ 48) && decide (va % 2 ^ 48 + n ≤ p.back.2)
    | _ => false)

def State.filling (s : State) (grid team : Nat) (p : Phase) : Bool :=
  s.jobs.any fun j => j.inFlight && j.grid == grid && j.team == team && isFill p j.card

/-- What `y.swap` meets: a hall-free thread has no phase table; it waits for the fills of the back half. -/
def swapCheck (e : BitVec 3) (s : State) : Check :=
  match s.curRec with
  | none => .go
  | some r =>
    (s.homeCheck 0).both (s.drainCheck.both ((releaseCheck s).both
      (if s.filling r.grid r.team (s.phase r.grid r.team e.toNat) then .stall .resource else .go)))

/-- The swap would refetch: poison is recorded and a refetch is left (09 R223). -/
def State.swapRefetch (s : State) (e : BitVec 3) : Bool :=
  match s.curRec with
  | none => false
  | some r =>
    let p := s.phase r.grid r.team e.toNat
    !p.res && p.pz && decide (p.rf < 2)

/-- A refetch: PZ is cleared, RF rises, every kept card of the entry is issued again, and `y.swap` goes on waiting. -/
def State.refetch (s : State) (e : BitVec 3) : State :=
  match s.curRec with
  | none => s
  | some r =>
    let p := s.phase r.grid r.team e.toNat
    let s := (s.phaseUse r.grid r.team e.toNat 1).setPhase r.grid r.team e.toNat { p with pz := false, rf := p.rf + 1 }
    let kept := (((s.teamOf r.grid r.team).map (·.kept)).getD []).filter fun k => k.1 == e.toNat
    let s := s.modTeam r.grid r.team fun t => { t with kept := t.kept.filter fun k => k.1 != e.toNat }
    kept.foldl (fun s k => s.newJob r 0 0 0 k.2 none) s

/-- The outcome of a swap: commit, or refusal for poison or a residue error (09 R223). A residue error leaves the fills as they are,
with their kept cards: PZ and RF stay for the next swap. -/
def State.swap (s : State) (ws : Bool) (d : Opnd) (e : BitVec 3) : State :=
  match s.curRec with
  | none => s
  | some r =>
    let p := s.phase r.grid r.team e.toNat
    let s := s.phaseUse r.grid r.team e.toNat 1
    let s0 := s
    let s := s.modTeam r.grid r.team fun t => { t with kept := t.kept.filter fun k => k.1 != e.toNat }
    if p.res then (s0.setPhase r.grid r.team e.toNat { p with res := false }).answer 7 (.s d) ws 3
    else if p.pz then
      (((s.setPhase r.grid r.team e.toNat { p with pz := false, rf := 0 }).answer 7 (.s d) ws 2).poisonReport s.curCore s.curCtx).raise cPoison 0
    else
      ((s.setPhase r.grid r.team e.toNat { p with sel := !p.sel, rf := 0 }).answer 7 (.s d) ws
        (if 0 < p.rf then 1 else 0)).syncDone

/-- `y.swap d, e` (09 R223). -/
def execYSwap (ws : Bool) (d : Opnd) (e : BitVec 3) (s : State) : Res :=
  guarded (swapCheck e)
    (fun s => if s.swapRefetch e then (s.refetch e).modCtx (fun c => { c with stall := some .resource }) else s.swap ws d e) s

/-! ## Shape records (17 R412) -/

/-- `y.tsrinv a` (09 R237): every walk is fresh, so what remains is the release at grid scope (log entry 14). -/
def execYTsrinv (a : Opnd) (s : State) : Res :=
  let id := (s.ctx.sGet a).toNat
  guarded (fun s => (if 65536 ≤ id then Check.trap 16 id else .go).both (releaseCheck s))
    (fun s => (s.releaseAt 3).syncDone) s

/-- `y.tsrinv all` (09 R237). -/
def execYTsrinvAll (s : State) : Res := guarded releaseCheck (fun s => (s.releaseAt 3).syncDone) s

end Sys2Proof.Machine
end

