-- ==== Sys2Proof/Machine/Banks.lean ====
section
/-! DEFINITION. Instruction banks: the segment table, streams, relocation, expansion, sealing and rejection (09 R228; 12 R297 to
R304). -/

namespace Sys2Proof.Machine

/-! ## CRC-32C (12 R298) -/

def crcStep (c : Nat) : Nat := if c % 2 = 1 then c / 2 ^^^ 0x82F63B78 else c / 2

def crcByte (c : Nat) (b : Byte) : Nat := (List.range 8).foldl (fun c _ => crcStep c) (c ^^^ b.toNat)

def crc32c (bs : List Byte) : Nat := bs.foldl crcByte 0xFFFFFFFF ^^^ 0xFFFFFFFF

/-! ## Reading an image -/

/-- An image read needs X (09 R234); poison of an ET = 0 page counts as a fault. What the read counts at the stacks stays (02 R47, R56). -/
def State.imageRead (s : State) (who : Who) (va n : Nat) : Option (List Byte) × State :=
  match translateRange s who needX va n with
  | .error _ => (none, s)
  | .ok segs =>
    let r := s.engRead 0 segs
    (if r.1.poison then none else some r.1.bytes, r.2)

/-- What the header of a segment table says. -/
structure Image where
  nseg : Nat
  rvt : Nat
  rvn : Nat
  deriving DecidableEq, Repr

/-- The header, none where it is rejected (12 R297). -/
def Image.parse (bs : List Byte) : Option Image :=
  if fieldAt bs 0 4 = 0x48585347 ∧ fieldAt bs 4 2 ≠ 0 ∧ fieldAt bs 6 1 = 4 ∧ fieldAt bs 7 1 = 0 ∧ fieldAt bs 18 46 = 0 then
    some ⟨fieldAt bs 4 2, fieldAt bs 8 8, fieldAt bs 16 2⟩
  else none

/-- The header of the table at `table`: none for a fault and for a rejected header. -/
def State.image (s : State) (who : Who) (table : Nat) : Option Image × State :=
  let r := s.imageRead who table 64
  (r.1.bind Image.parse, r.2)

/-- A table entry (12 R297). -/
structure SegEntry where
  sva : Nat
  slen : Nat
  nb : Nat
  nh : Nat
  nr : Nat
  next : Nat
  zero : Nat
  deriving DecidableEq, Repr

def SegEntry.parse (bs : List Byte) : SegEntry where
  sva := fieldAt bs 0 8
  slen := fieldAt bs 8 4
  nb := fieldAt bs 12 2
  nh := fieldAt bs 14 2
  nr := fieldAt bs 16 2
  next := fieldAt bs 18 2
  zero := fieldAt bs 20 4

/-- The limits of an entry (12 R297). -/
def SegEntry.ok (e : SegEntry) (nseg : Nat) : Bool :=
  e.zero == 0 && decide (1 ≤ e.nb) && decide (e.nb ≤ 2048) && decide (e.nh ≤ 1024) && decide (e.nr ≤ 4095) &&
    (decide (e.next < nseg) || e.next == 0xFFFF)

def segEntryVa (table seg : Nat) : Nat := table + 64 + 32 * seg

/-- The entry of a segment of an image of `nseg` segments, as far as it can be read. -/
def State.segEntry (s : State) (who : Who) (table nseg seg : Nat) : Option SegEntry × State :=
  if nseg ≤ seg then (none, s)
  else
    let r := s.imageRead who (segEntryVa table seg) 32
    (r.1.map SegEntry.parse, r.2)

/-! ## Streams (12 R298, R299) -/

/-- One compressed bundle: presence byte, header-present byte, header, stored slots. Answers the bundle and the bytes left. -/
def takeBundle (bs : List Byte) : Option (Block × List Byte) :=
  match bs with
  | p :: h :: rest =>
    if 2 ≤ h.toNat ∨ rest.length < 8 * h.toNat then none
    else
      let hdr := natOfBytes (rest.take (8 * h.toNat))
      let r := (List.range 8).foldl (fun (acc : Option (Nat × List Byte)) n => match acc with
        | none => none
        | some (b, bs) =>
          if !p.getLsbD n then some (b, bs)
          else if bs.length < 7 then none
          else some (b + natOfBytes (bs.take 7) * 2 ^ (392 - 56 * n), bs.drop 7)) (some (hdr * 2 ^ 448, rest.drop (8 * h.toNat)))
      r.map fun x => (BitVec.ofNat 512 x.1, x.2)
  | _ => none

def takeBundles : Nat → List Byte → Option (List Block × List Byte)
  | 0, bs => some ([], bs)
  | n + 1, bs =>
    match takeBundle bs with
    | none => none
    | some (b, rest) =>
      match takeBundles n rest with
      | none => none
      | some (l, rest) => some (b :: l, rest)

/-- A stream taken apart: bundles, hatch words, relocation records. -/
structure Stream where
  bundles : List Block
  hatch : List (BitVec 128)
  relocs : List Nat
  deriving DecidableEq, Repr

def words (n : Nat) (bs : List Byte) (k : Nat) : List Nat := (List.range k).map fun i => fieldAt bs (n * i) n

def Stream.parse (e : SegEntry) (bs : List Byte) : Option Stream :=
  match takeBundles e.nb bs with
  | none => none
  | some (b, rest) =>
    if rest.length ≠ 16 * e.nh + 8 * e.nr + 4 ∨ fieldAt rest (16 * e.nh + 8 * e.nr) 4 ≠ crc32c (bs.take (bs.length - 4)) then none
    else some ⟨b, (words 16 rest e.nh).map (BitVec.ofNat 128), words 8 (rest.drop (16 * e.nh)) e.nr⟩

/-! ## Relocation (12 R300) -/

/-- A relocation value table entry: VALUE, none where it is unresolved. -/
def State.relocValue (s : State) (who : Who) (img : Image) (vix : Nat) : Option Nat × State :=
  if img.rvn ≤ vix then (none, s)
  else
    let r := s.imageRead who (img.rvt + 16 * vix) 16
    (r.1.bind fun bs => if fieldAt bs 8 8 = 1 then some (fieldAt bs 0 8) else none, r.2)

/-- Whether `v` fits a field of `w` bits. -/
def relocFits (sgn : Bool) (w : Nat) (v : Int) : Bool :=
  if sgn then decide (-(2 ^ (w - 1) : Int) ≤ v) && decide (v < 2 ^ (w - 1)) else decide (0 ≤ v) && decide (v < 2 ^ w)

/-- A record breaks the form of 12 R300: reserved bits, a bundle beyond NB, or a field that the stream `orig` does not store as zero. -/
def relocBad (nb : Nat) (x : Nat) (orig : List Block) : Bool :=
  let w := if bitsN x 16 2 = 0 then 14 else 34
  decide (bitsN x 40 24 ≠ 0) || decide (bitsN x 14 2 ≠ 0) || decide (2 ≤ bitsN x 16 2) || decide (nb ≤ bitsN x 0 11) ||
    decide (bitsN (orig.getD (bitsN x 0 11) 0).toNat (392 - 56 * bitsN x 11 3) w ≠ 0)

/-- Apply one record with the value that its table entry holds; the failure leaves the field as it was stored. -/
def reloc (value : Option Nat) (x : Nat) (bundles : List Block) : Except SealCode (List Block) :=
  let bix := bitsN x 0 11
  let slot := bitsN x 11 3
  let fld := bitsN x 16 2
  let w := if fld = 0 then 14 else 34
  let lo := 392 - 56 * slot
  let b := bundles.getD bix 0
  match value with
  | none => .error .relocUnresolved
  | some value =>
    let sh := bitsN x 19 5
    let v : Int := sextN 64 value / 2 ^ sh
    if value % 2 ^ sh ≠ 0 ∨ relocFits (bitN x 18) w v = false then .error .relocRange
    else .ok (bundles.set bix ((b &&& ~~~(BitVec.ofNat 512 ((2 ^ w - 1) * 2 ^ lo))) ||| BitVec.ofNat 512 (wrapN w v * 2 ^ lo)))

/-- Bundles as relocated so far, the first failure with its index, and the state that the reads have left. -/
structure Relocated where
  bundles : List Block
  failure : Option (SealCode × Nat × Nat)
  s : State

/-- Apply every record in order; the first failure is kept with its index. -/
def State.relocAll (s : State) (who : Who) (img : Image) (nb : Nat) (l : List Nat) (bundles : List Block) : Relocated :=
  l.zipIdx.foldl (fun (acc : Relocated) p =>
    if relocBad nb p.1 bundles then { acc with failure := acc.failure.orElse fun _ => some (.badImage, 0, 0) }
    else
      let v := acc.s.relocValue who img (bitsN p.1 24 16)
      match reloc v.1 p.1 acc.bundles with
      | .ok b => { acc with bundles := b, s := v.2 }
      | .error c => { acc with failure := acc.failure.orElse fun _ => some (c, p.2, 0), s := v.2 }) ⟨bundles, none, s⟩

/-! ## Expansion (12 R301) -/

def State.modBank (s : State) (c : Fin 192) (b : Fin 2) (f : Bank → Bank) : State :=
  s.modCoreAt c fun k => { k with banks := k.banks.set b.val (f (k.banks.get b)) b.isLt }

/-- The bank is claimed for a segment: its seal and the seal of its half of the hatch store go. -/
def State.claimBank (s : State) (c : Fin 192) (b : Fin 2) (dctx table seg : Nat) : State :=
  let s := (List.finRange 4).foldl (fun s x => s.modCtxAt c x fun k => if k.bix / 2048 % 2 == b.val then { k with mark := none } else k) s
  s.modBank c b fun k =>
    { k with loaded := false, dctx := dctx, table := table, seg := seg, nb := 0, nh := 0, next := 0xFFFF, nseg := 0,
             isSealed := false, failure := none }

/-- The segment could not be read: nothing of it stands in the bank. -/
def State.bankFails (s : State) (c : Fin 192) (b : Fin 2) (loaded : Bool) (x : SealCode × Nat × Nat) : State :=
  s.modBank c b fun k => { k with loaded := loaded, failure := some x }

/-- Expand segment `seg` of the image at `table` into a bank. `loaded` says afterwards that the entry could be read, so that a
seal has a REPORT word to write; `failure` is the first failure found. -/
def State.expand (s : State) (who : Who) (c : Fin 192) (b : Fin 2) (table seg : Nat) : State :=
  let s := s.claimBank c b who.dctx table seg
  match s.image who table with
  | (none, s) => s.bankFails c b false (.badImage, 0, 0)
  | (some img, s) =>
    match s.segEntry who table img.nseg seg with
    | (none, s) => s.bankFails c b false (.badImage, 0, 0)
    | (some e, s) =>
      if !e.ok img.nseg then s.bankFails c b true (.badImage, 0, 0)
      else
        let s := s.modBank c b fun k =>
          { k with loaded := true, nb := e.nb, nh := e.nh, next := e.next, nseg := img.nseg }
        let x := s.imageRead who e.sva e.slen
        match x.1.bind (Stream.parse e) with
        | none => x.2.bankFails c b true (.badImage, 0, 0)
        | some y =>
          let r := x.2.relocAll who img e.nb y.relocs y.bundles
          let s := r.s.modCoreAt c fun k =>
            { k with
              bundles := r.bundles.zipIdx.foldl (fun t p => tset t (2048 * b.val + p.2) p.1 0) k.bundles
              hatch := y.hatch.zipIdx.foldl (fun t p => tset t (1024 * b.val + p.2) p.1 0) k.hatch }
          match r.failure with
          | some f => s.bankFails c b true f
          | none => s

/-! ## Sealing (12 R302 to R304) -/

/-- Burin's first failure among the bundles and hatch words of a bank. -/
def Core.burin (k : Core) (b : Fin 2) (nbs : Nat → Option Nat) : Option (SealCode × Nat × Nat) :=
  let bank := k.banks.get b
  ((List.range bank.nb).findSome? fun i =>
      (bundleFailure (tget k.bundles (2048 * b.val + i) 0) i bank.nb bank.next nbs).map fun c => (c, 0, i)).orElse fun _ =>
    ((List.range bank.nh).find? fun i => hatchFailure (tget k.hatch (1024 * b.val + i) 0)).map fun i => (.badHatch, 0, i)

/-- The REPORT word (12 R304). -/
def reportWord (f : Option (SealCode × Nat × Nat)) : Nat :=
  match f with
  | none => 0
  | some (c, rix, ix) => c.toNat + ix * 2 ^ 12 + rix * 2 ^ 24

/-- Segments that the jumps of a bank name (12 R290). -/
def Core.farSegs (k : Core) (b : Fin 2) : List Nat :=
  ((List.range (k.banks.get b).nb).flatMap fun i => (List.finRange 8).filterMap fun n =>
    match decodeSlot n (slotOf (tget k.bundles (2048 * b.val + i) 0) n.val) with
    | .ok (some (.sJbank seg _)) => some seg.toNat
    | _ => none).dedup

/-- NB of each segment that the jumps of a bank name, as far as its entry can be read; each entry is read once. -/
def State.farNbs (s : State) (who : Who) (c : Fin 192) (b : Fin 2) : List (Nat × Nat) × State :=
  let bank := (s.coreAt c).banks.get b
  ((s.coreAt c).farSegs b).foldl (fun (acc : List (Nat × Nat) × State) seg =>
    let r := acc.2.segEntry who bank.table bank.nseg seg
    (acc.1 ++ (r.1.map fun e => (seg, e.nb)).toList, r.2)) ([], s)

/-- NB of a segment in such a list. -/
def nbIn (l : List (Nat × Nat)) (seg : Nat) : Option Nat := (l.find? fun p => p.1 == seg).map Prod.snd

/-- Seal a bank: check it, write REPORT, and set the seal when nothing failed. Answers whether it is sealed. -/
def State.seal (s : State) (who : Who) (c : Fin 192) (b : Fin 2) : Bool × State :=
  let bank := (s.coreAt c).banks.get b
  let far := s.farNbs who c b
  let f := bank.failure.orElse fun _ => (s.coreAt c).burin b (nbIn far.1)
  let s := far.2
  let s := if !bank.loaded then s else
    match translateRange s who ⟨false, false, false⟩ (segEntryVa bank.table bank.seg + 24) 8 with
    | .ok segs => (s.engWrite (dieOf c).val segs (bytesOfNat 8 (reportWord f))).2
    | .error _ => s
  (bank.loaded && f.isNone, s.modBank c b fun x => { x with isSealed := bank.loaded && f.isNone, failure := f, loading := none })

/-! ## The bank that a job acts on (06 R152; 17 R390, R395) -/

def cardOp (card : Block) : Nat := bitsN card.toNat 0 8
def cardOpx (card : Block) : Nat := bitsN card.toNat 32 32
def jobCore (j : Job) : Fin 192 := ⟨j.core % 192, Nat.mod_lt _ (by decide)⟩
def jobBank (j : Job) : Fin 2 := ⟨b2n (bitN (cardOpx j.card) 16), by unfold b2n; split <;> decide⟩
def jobSeg (j : Job) : Nat := bitsN (cardOpx j.card) 0 16
def State.jobImage (s : State) (j : Job) : Nat := ((s.gridOf j.grid).map (·.img)).getD 0

/-! ## Loads that no job asks for -/

/-- Queue the expansion and seal of a segment into a bank (12 R306, 09 R228). -/
def State.startLoad (s : State) (c : Fin 192) (b : Fin 2) (g : Nat) (seg : Nat) (why : LoadFor) : State :=
  match s.gridOf g with
  | none => s
  | some x =>
    ((s.expand (s.whoOfGrid g) c b x.img seg).modBank c b fun k => { k with loading := some why }).post .sealComplete
      { core := c, bank := b, grid := ⟨g % 256, Nat.mod_lt _ (by decide)⟩ }

/-- Queue a load behind those of its bank; an idle bank takes it at once (12 R301). -/
def State.queueLoad (s : State) (c : Fin 192) (b : Fin 2) (g : Nat) (seg : Nat) (why : LoadFor) : State :=
  if ((s.coreAt c).banks.get b).loading.isSome then s.modBank c b fun k => { k with queue := k.queue ++ [(g, seg, why)] }
  else s.startLoad c b g seg why

/-- The image engine takes the next queued load of a bank. One whose segment stands there sealed by now has nothing to do, and one
whose grid has gone is dropped. -/
def State.nextLoad (c : Fin 192) (b : Fin 2) : Nat → State → State
  | 0, s => s
  | n + 1, s =>
    let k := (s.coreAt c).banks.get b
    match k.queue with
    | [] => s
    | x :: rest =>
      if k.loading.isSome then s
      else
        let s := s.modBank c b fun k => { k with queue := rest }
        match s.gridOf x.1 with
        | none => State.nextLoad c b n s
        | some g => if k.names g.dctx g.img x.2.1 && k.isSealed then State.nextLoad c b n s else s.startLoad c b x.1 x.2.1 x.2.2

/-- A load of the segment into the bank is queued or in flight, be it a job's or not. -/
def State.loadsSeg (s : State) (c : Fin 192) (b : Fin 2) (dctx img seg : Nat) : Bool :=
  let k := (s.coreAt c).banks.get b
  (k.loading.isSome && k.dctx == dctx && k.table == img && k.seg == seg) ||
    (k.queue.any fun x => x.2.1 == seg && (s.gridOf x.1).any fun g => g.dctx == dctx && g.img == img) ||
    s.jobs.any fun j =>
      j.inFlight && (cardOp j.card == 5 || cardOp j.card == 6) && jobCore j == c && jobBank j == b && jobSeg j == seg &&
        j.dctx == dctx && s.jobImage j == img

/-- A load that a thread's `y.ifence` waits for has not ended. -/
def State.watched (s : State) (c : Fin 192) (b : Fin 2) (w : Nat × Nat × Nat) : Bool :=
  (s.gridOf w.2.1).any fun g => s.loadsSeg c b g.dctx g.img w.2.2

def Ctx.bank (c : Ctx) : Fin 2 := ⟨c.bix / 2048 % 2, Nat.mod_lt _ (by decide)⟩

/-- The bank that a context selects names its segment. -/
def State.bankNamed (s : State) (c : Fin 192) (x : Fin 4) : Bool :=
  match (s.recAt c x).bind fun r => s.gridOf r.grid with
  | some g => ((s.coreAt c).banks.get (s.ctxAt c x).bank).names g.dctx g.img (s.ctxAt c x).seg
  | none => false

/-- A record on no context waits for a bank of the core to hold its segment. -/
def State.recWaitsBank (s : State) (c : Fin 192) (b : Fin 2) (r : Rec) : Bool :=
  r.wk == 6 && r.st == .waiting && r.onCtx.isNone && r.near c && r.bix / 2048 % 2 == b.val && (s.teamOf r.grid r.team).any fun t => t.core.isSome

/-- Such a record whose wait the bank satisfies now. -/
def State.bankFor (s : State) (c : Fin 192) (b : Fin 2) (r : Rec) : Bool :=
  s.recWaitsBank c b r && (s.gridOf r.grid).any fun g => (s.coreAt c).bankHolds g r

/-- The context waits for a load into the bank. -/
def State.waitsBank (s : State) (c : Fin 192) (b : Fin 2) (x : Fin 4) : Bool :=
  (s.ctxAt c x).phase == .waiting && (s.ctxAt c x).stall == some .bank && (s.ctxAt c x).bank == b && !s.bankNamed c x

/-- Look again at the contexts that wait for another segment in a bank once the segment in it has been in force for 1,024 cycles:
R228 fixes no order between two segments that share a bank. -/
def State.bankTimer (s : State) (c : Fin 192) (b : Fin 2) : State :=
  if s.timers.any fun t => t.2.1 == .sealComplete && t.2.2.core == c && t.2.2.bank == b then s
  else s.timer 2048 .sealComplete { core := c, bank := b, flag := true }

/-- Load the segment of the context that has waited longest for the bank, unless a load is in flight. -/
def State.serveBank (s : State) (c : Fin 192) (b : Fin 2) : State :=
  if ((s.coreAt c).banks.get b).loading.isSome then s
  else
  let first := ((List.finRange 4).filter (s.waitsBank c b)).foldl (fun (acc : Option (Fin 4)) x => match acc with
    | none => some x
    | some y => if (s.ctxAt c x).waitSince < (s.ctxAt c y).waitSince then some x else some y) none
  match first.bind fun x => (s.recAt c x).map fun r => (r.grid, (s.ctxAt c x).seg) with
  | some p => s.startLoad c b p.1 p.2 .fetch
  | none =>
    match s.recs.find? (s.recWaitsBank c b) with
    | some r => s.startLoad c b r.grid r.seg .fetch
    | none => s

/-- Contexts whose segment the bank now names fetch again, and so do records that were evicted in such a wait (06 R142,
09 R228). -/
def State.bankReady (s : State) (c : Fin 192) (b : Fin 2) : State :=
  let now := s.now
  let s := s.modBank c b fun k => { k with watch := k.watch.filter (s.watched c b) }
  let s := s.mapRecs (s.bankFor c b) fun r => { r with wk := 0, st := .ready, readySince := now }
  let s := (List.finRange 4).foldl (fun s x =>
    if (s.ctxAt c x).phase == .waiting && (s.ctxAt c x).stall == some .bank && s.bankNamed c x then
      let s := s.modCtxAt c x fun k => { k with phase := .ready, stall := none, readySince := s.now }
      s.mapRecs (fun r => r.onCtx == some (agentOf c x)) fun r => { r.enter .ready s.now with wk := 0 }
    else s) s
  (if (List.finRange 4).any (s.waitsBank c b) || s.recs.any (s.recWaitsBank c b) then s.bankTimer c b else s).addBusy c

/-- What a rejection does to the one on whose behalf the segment was loaded (12 R304). -/
def State.rejected (s : State) (why : LoadFor) : State :=
  match why with
  | .grid g => s.killGrid g 4
  | .overlay g va =>
    -- a job failure with status BAD_JOB (08 R211, R215)
    s.raiseRec va g 35 3
  | .fetch => s

/-! ## The instruction fence (17 R412) -/

/-- `y.ifence` waits for the thread's expand and seal jobs, and for the loads that its OB bundles started or found (12 R306). -/
def ifenceCheck (s : State) : Check :=
  match s.curRec with
  | none => .go
  | some r =>
    (if s.jobs.any (fun j => j.inFlight && j.owner == .thread r.va && j.grid == r.grid && (cardOp j.card == 5 || cardOp j.card == 6)) then
      Check.stall .resource else .go).both
      (if (List.finRange 192).any (fun c => (List.finRange 2).any fun b =>
          ((s.coreAt c).banks.get b).watch.any fun w => w.1 == r.va && w.2.1 == r.grid && s.watched c b w) then .stall .bank else .go)

/-- `y.ifence` (17 R412). -/
def execYIfence (s : State) : Res := guarded ifenceCheck (fun s => s) s

/-- SEAL_COMPLETE: the seal of bank `bank` of core `core` ends, and the image engine takes the bank's next load. With `flag` it only looks at the contexts that wait for the
bank. -/
def execSealComplete (s : State) : Res :=
  let c := s.arg.core
  let b := s.arg.bank
  match ((s.coreAt c).banks.get b).loading with
  | none => .next ((State.nextLoad c b ((s.coreAt c).banks.get b).queue.length s).serveBank c b)
  | some why =>
    if s.arg.flag then .next s
    else
      let r := s.seal (s.whoOfGrid s.arg.grid.val) c b
      let s := if r.1 then r.2 else r.2.rejected why
      let s := s.bankReady c b
      .next (State.nextLoad c b ((s.coreAt c).banks.get b).queue.length s)

end Sys2Proof.Machine
end

