-- ==== Sys2Proof/Machine/Control.lean ====
section
/-! DEFINITION. Compares, votes, transfers, loops, traps, yield and halt (13 R314, R317 to R326; 14 R335). -/

namespace Sys2Proof.Machine

/-! ## Pushes (08 R202, R204; 13 R314) -/

def pushCheck (s : State) : Check := if s.ctx.full then .trap 3 0 else .go

/-- Push the outcome of a relation, at latency 1 (13 R314). -/
def State.compare (s : State) (cc : Nat) (a b : Word) : Res :=
  guarded pushCheck (fun s => s.push 0 1 (cmpHolds cc a b)) s

/-- A vote of a mask, at latency 2 (14 R335). -/
def State.vote (s : State) (sl : VSlot) (b : Bool) : Res := guarded pushCheck (fun s => s.push (slotNum sl) 2 b) s

/-- `s.cmp.eq a, b` (13 R314). -/
def execSCmpEqReg (a b : Opnd) (s : State) : Res := s.compare 0 (s.ctx.sGet a) (s.ctx.sGet b)

/-- `s.cmp.ne a, b` (13 R314). -/
def execSCmpNeReg (a b : Opnd) (s : State) : Res := s.compare 1 (s.ctx.sGet a) (s.ctx.sGet b)

/-- `s.cmp.lt a, b` (13 R314). -/
def execSCmpLtReg (a b : Opnd) (s : State) : Res := s.compare 2 (s.ctx.sGet a) (s.ctx.sGet b)

/-- `s.cmp.le a, b` (13 R314). -/
def execSCmpLeReg (a b : Opnd) (s : State) : Res := s.compare 3 (s.ctx.sGet a) (s.ctx.sGet b)

/-- `s.cmp.gt a, b` (13 R314). -/
def execSCmpGtReg (a b : Opnd) (s : State) : Res := s.compare 4 (s.ctx.sGet a) (s.ctx.sGet b)

/-- `s.cmp.ge a, b` (13 R314). -/
def execSCmpGeReg (a b : Opnd) (s : State) : Res := s.compare 5 (s.ctx.sGet a) (s.ctx.sGet b)

/-- `s.cmp.ltu a, b` (13 R314). -/
def execSCmpLtuReg (a b : Opnd) (s : State) : Res := s.compare 6 (s.ctx.sGet a) (s.ctx.sGet b)

/-- `s.cmp.leu a, b` (13 R314). -/
def execSCmpLeuReg (a b : Opnd) (s : State) : Res := s.compare 7 (s.ctx.sGet a) (s.ctx.sGet b)

/-- `s.cmp.gtu a, b` (13 R314). -/
def execSCmpGtuReg (a b : Opnd) (s : State) : Res := s.compare 8 (s.ctx.sGet a) (s.ctx.sGet b)

/-- `s.cmp.geu a, b` (13 R314). -/
def execSCmpGeuReg (a b : Opnd) (s : State) : Res := s.compare 9 (s.ctx.sGet a) (s.ctx.sGet b)

/-- `s.cmp.eq a, imm` (13 R314). -/
def execSCmpEqImm (a : Opnd) (imm : BitVec 14) (s : State) : Res := s.compare 0 (s.ctx.sGet a) (imm.signExtend 64)

/-- `s.cmp.ne a, imm` (13 R314). -/
def execSCmpNeImm (a : Opnd) (imm : BitVec 14) (s : State) : Res := s.compare 1 (s.ctx.sGet a) (imm.signExtend 64)

/-- `s.cmp.lt a, imm` (13 R314). -/
def execSCmpLtImm (a : Opnd) (imm : BitVec 14) (s : State) : Res := s.compare 2 (s.ctx.sGet a) (imm.signExtend 64)

/-- `s.cmp.le a, imm` (13 R314). -/
def execSCmpLeImm (a : Opnd) (imm : BitVec 14) (s : State) : Res := s.compare 3 (s.ctx.sGet a) (imm.signExtend 64)

/-- `s.cmp.gt a, imm` (13 R314). -/
def execSCmpGtImm (a : Opnd) (imm : BitVec 14) (s : State) : Res := s.compare 4 (s.ctx.sGet a) (imm.signExtend 64)

/-- `s.cmp.ge a, imm` (13 R314). -/
def execSCmpGeImm (a : Opnd) (imm : BitVec 14) (s : State) : Res := s.compare 5 (s.ctx.sGet a) (imm.signExtend 64)

/-- `s.cmp.ltu a, imm` (13 R314). -/
def execSCmpLtuImm (a : Opnd) (imm : BitVec 14) (s : State) : Res := s.compare 6 (s.ctx.sGet a) (imm.signExtend 64)

/-- `s.cmp.leu a, imm` (13 R314). -/
def execSCmpLeuImm (a : Opnd) (imm : BitVec 14) (s : State) : Res := s.compare 7 (s.ctx.sGet a) (imm.signExtend 64)

/-- `s.cmp.gtu a, imm` (13 R314). -/
def execSCmpGtuImm (a : Opnd) (imm : BitVec 14) (s : State) : Res := s.compare 8 (s.ctx.sGet a) (imm.signExtend 64)

/-- `s.cmp.geu a, imm` (13 R314). -/
def execSCmpGeuImm (a : Opnd) (imm : BitVec 14) (s : State) : Res := s.compare 9 (s.ctx.sGet a) (imm.signExtend 64)

/-- `v.any ka`: 1 when some bit is set (14 R335). -/
def execVAny (sl : VSlot) (a : Opnd) (s : State) : Res := s.vote sl (s.ctx.kGet a != 0)

/-- `v.all ka`: 1 when every bit is set (14 R335). -/
def execVAll (sl : VSlot) (a : Opnd) (s : State) : Res := s.vote sl (s.ctx.kGet a == BitVec.allOnes 64)

/-! ## Fetch points -/

/-- A bundle index with its bank. One past a full bank, 2,048, is kept apart: it is never fetched (13 R317). -/
def bixOf (bank idx : Nat) : Nat := if idx < 2048 then bank * 2048 + idx else 4096 + bank * 2048

def bankOf (bix : Nat) : Nat := bix / 2048 % 2

/-- The bank that a context executes from. -/
def State.curBank (s : State) : Bank := s.core.banks.get ⟨bankOf s.ctx.bix, Nat.mod_lt _ (by decide)⟩

/-- Issue continues at bundle `idx` of the segment. -/
def State.goto (s : State) (idx : Nat) : State := s.modCtx fun c => { c with bix := bixOf (bankOf c.bix) idx }

/-! ## Transfers (13 R317 to R319) -/

/-- `s.jmp label` (13 R317, R318). -/
def execSJmp (t : BitVec 11) (s : State) : Res :=
  .next ((s.goto t.toNat).modCtx fun c => { c with loops := leaveLoops t.toNat c.loops })

/-- `s.jal d, label`: the link is an ordinary result of latency 1 (13 R317). -/
def execSJal (ws : Bool) (d : Opnd) (t : BitVec 11) (s : State) : Res :=
  .next ((s.goto t.toNat).resultS 0 1 d ws (BitVec.ofNat 64 (s.curBix + 1)))

/-- `s.jr a`: a target at or beyond NB takes UNSEALED_FETCH at its own bundle (13 R317). -/
def execSJr (a : Opnd) (s : State) : Res :=
  let t := (s.ctx.sGet a).toNat % 4096
  guarded (fun s => if s.curBank.nb ≤ t then .trap 1 t else .go) (fun s => s.goto t) s

/-- A bank holds segment `seg` of the image sealed (09 R228). -/
def Bank.holds (b : Bank) (dctx table seg : Nat) : Bool :=
  b.isSealed && b.dctx == dctx && b.table == table && b.seg == seg

/-- The image of the thread at issue: its segment table (12 R297). -/
def State.curImg (s : State) : Nat := ((s.gridOf s.curGrid).map (·.img)).getD 0

/-- `s.jbank seg, label`: stay in this bank if it holds the segment sealed, else go to the other (13 R319). -/
def execSJbank (seg : BitVec 16) (x : BitVec 11) (s : State) : Res :=
  let cur := bankOf s.ctx.bix
  let b := if s.curBank.holds s.curWho.dctx s.curImg seg.toNat then cur else 1 - cur
  .next (s.modCtx fun c => { c with seg := seg.toNat, bix := b * 2048 + x.toNat, loops := [], mark := none })

/-! ## Loops (13 R320) -/

def loopCheck (s : State) : Check := if 4 ≤ s.ctx.loops.length then .trap 6 0 else .go

/-- Open a loop: `i` is the index of its bundle. With leaf 0 it also decides where issue continues. -/
def State.loop (s : State) (count off : Nat) : State :=
  let i := s.curBix
  let s := if 1 ≤ count then s.modCtx fun c => { c with loops := c.loops ++ [⟨i + 1, i + off, count⟩] } else s
  if s.curLeaf = 0 then s.goto (if 1 ≤ count then i + 1 else i + off + 1) else s

/-- `s.loop a, label` (13 R320). -/
def execSLoopReg (a : Opnd) (off : BitVec 11) (s : State) : Res :=
  let n := (s.ctx.sGet a).toNat % 2 ^ 32
  guarded loopCheck (fun s => s.loop n off.toNat) s

/-- `s.loop n, label` (13 R320). -/
def execSLoopImm (count : BitVec 20) (off : BitVec 11) (s : State) : Res :=
  guarded loopCheck (fun s => s.loop count.toNat off.toNat) s

/-- `s.mark n`: bundles i + 1 to i + n are pinned, those beyond NB − 1 left out; only fetch energy and timing change (13 R322). -/
def execSMark (n : BitVec 7) (s : State) : Res :=
  let k := min n.toNat (s.curBank.nb - (s.curBix + 1))
  .next (s.modCtx fun c => { c with mark := if k = 0 then none else some (s.curBix + 1, k) })

/-! ## Traps, yield and halt (13 R323 to R326) -/

/-- `s.trap n`: cause 48 + n as an asynchronous cause (13 R323). -/
def execSTrap (n : BitVec 4) (s : State) : Res := .next (s.raise (48 + n.toNat) 0)

/-- `s.tret a` (13 R324, 08 R216): the handler continues at i + 1. -/
def execSTret (a : Opnd) (s : State) : Res :=
  let x := (s.ctx.sGet a).toNat
  guarded (fun s => (s.tretCheck x).both (syncCheck s)) (fun s => (s.tretDo x).goto (s.curBix + 1)) s

/-- `s.yield`: the turn ends; with no other ready context no switch happens (13 R325). -/
def execSYield (s : State) : Res :=
  let others := (List.finRange 4).any fun x => x != s.curCtx && (s.core.ctx x).phase == .ready
  let s := (s.goto (s.curBix + 1)).modCtx fun c => { c with issuedSince := 0 }
  .next (if others then
    ((s.recSt s.curCore s.curCtx .ready).modCtx fun c => { c with phase := .ready, readySince := s.now }).modCore fun k =>
      { k with running := none }
  else s)

/-- `s.halt`: the thread ends once its long results have arrived (13 R326). -/
def execSHalt (s : State) : Res :=
  .next (if s.haltReady s.curCore s.curCtx then s.haltNow s.curCore s.curCtx else s.modCtx fun c => { c with halting := true })

end Sys2Proof.Machine
end

