-- ==== Sys2Proof/Machine/Controller.lean ====
section
/-! DEFINITION. The events of a memory controller: whole reads and writes, partial writes, requests that wait in the queues of their
pseudo-channels, and the patrol scrub (02 R39, R40, R49 to R56). -/

namespace Sys2Proof.Machine

/-- The event that performs a request. -/
def MemReq.event (r : MemReq) : Instr :=
  match r.op with
  | .read => .granuleRead
  | .write _ => .granuleWrite
  | .partialWrite _ _ _ _ => .granulePartialWrite

/-- The controller is handed a request. A new one (`id` 0) issues at once, or waits: behind a request that holds its queues, or,
with `flag2`, because its queues cannot issue it in one burst slot. A waiting one, named by `id`, issues. -/
def State.request (s : State) (dpa : Nat) (gran : BitVec 3) (id : Nat) (waits : Bool) (op : MemOp) : Res :=
  if !dpaExists dpa then .fault (.noSuchAddress dpa)
  else if 5 ≤ gran.toNat then .next s
  else
    let reqs := (s.mem.stackAt (stackOf dpa)).reqs
    if id = 0 then
      let x := s.fresh
      let r : MemReq := { id := x.1, dpa := granBase gran.toNat dpa, gran := gran, op := op, reserving := false }
      if waits || reqHeld reqs r then
        .next ((x.2.modMem fun m => m.modStack dpa fun k => { k with reqs := k.reqs ++ [r] }).timer 512 .requestReserving
          { stack := ⟨stackOf dpa % 12, Nat.mod_lt _ (by decide)⟩, id := x.1 })
      else .next (s.performReq r)
    else
      match reqs.find? fun r => r.id == id with
      | none => .next s
      | some r =>
        if reqHeld (olderThan id reqs) r then .next s
        else
          let s := (s.modMem fun m => m.modStack dpa fun k => { k with reqs := k.reqs.filter fun q => q.id != id }).performReq r
          -- a request that no older one holds any longer, and that a reserving one had held, issues behind it
          let rest := (s.mem.stackAt (stackOf dpa)).reqs
          let freed := if r.reserving then rest.filter fun q => q.shares r && !reqHeld (olderThan q.id rest) q else []
          .next (freed.foldl (fun s q => s.post q.event { addr := q.dpa, gran := q.gran, id := q.id }) s)

/-- GRANULE_READ: the whole granule is read, decoded and corrected, or found poisoned. -/
def execGranuleRead (s : State) : Res := s.request s.arg.addr s.arg.gran s.arg.id s.arg.flag2 .read

/-- GRANULE_WRITE: a whole granule is written without reading; poison is cleared. -/
def execGranuleWrite (s : State) : Res := s.request s.arg.addr s.arg.gran s.arg.id s.arg.flag2 (.write s.arg.data)

/-- GRANULE_PARTIAL_WRITE: a read-modify-write; a substitution counts for the context that writes. -/
def execGranulePartialWrite (s : State) : Res :=
  let a := s.arg
  s.request a.addr a.gran a.id a.flag2 (.partialWrite a.flag (4 * a.core.val + a.ctx.val) a.mask a.data)

/-- REQUEST_RESERVING: request `id` has waited 512 fabric cycles. The bound of 2 µs on its issue starts the issue that nothing
else has brought about. -/
def execRequestReserving (s : State) : Res :=
  let a := s.arg
  match (s.mem.stackAt a.stack.val).reqs.find? fun r => r.id == a.id with
  | none => .next s
  | some r =>
    let mark (q : MemReq) : MemReq := { q with reserving := true }
    let s := s.modMem fun m => m.modStack r.dpa fun k => { k with reqs := modFirst (fun q => q.id == a.id) mark k.reqs }
    .next (s.timer 1888 r.event { addr := r.dpa, gran := r.gran, id := r.id })

/-! ## Patrol scrub (02 R49, R52) -/

/-- Ticks from one 32-byte unit to the next, so that a stack of 2^31 units is scrubbed once in 24 hours (02 R52). -/
def scrubTicks : Nat := 48279

/-- The scrub of one granule under its stored code (02 R52). A granule that was overwritten in part under another class is
uncorrectable under its stored code: UE counts without GMM, which is for accesses (R47), and the units still under that code are
rewritten as poison (DESIGN CHOICE, log entry 74). -/
def State.scrub (s : State) (dpa : Nat) : State :=
  let g := (s.mem.unit dpa).gc.toNat
  let us := s.mem.scrubUnits dpa
  if us.any fun a => (s.mem.unit a).poison then s
  else if us.length ≠ 2 ^ g then
    (s.modMem fun m => m.modStack dpa Stack.countUe).modMem fun m => m.rewriteUnits us true
  else
    match s.mem.granState g dpa with
    | .ok .clean => s
    | .ok _ => (s.countGran g dpa).modMem fun m => m.rewriteUnits us false
    | _ => (s.countGran g dpa).modMem fun m => m.rewriteUnits us true

/-- A unit is the first of its granule that carries the granule's stored code: the scrubber reads the granule there. -/
def MemSys.scrubHead (m : MemSys) (dpa : Nat) : Bool := (m.scrubUnits dpa).head? == some (dpa - dpa % 32)

/-- Units from the one at `dpa` to the next granule that the scrubber reads: every unit at a boundary of 512 bytes begins one. -/
def MemSys.scrubStep (m : MemSys) (dpa : Nat) : Nat :=
  (((List.range 16).map (· + 1)).find? fun i => m.scrubHead (dpa - dpa % 32 + 32 * i)).getD 16

/-- The scrubber of a stack goes on to the next granule behind `dpa`, also to one that was written under a narrower class inside a wide
one, and from the last to the first (02 R52). -/
def State.scrubNext (s : State) (dpa : Nat) : State :=
  let k := s.mem.scrubStep dpa
  let next := dpa - dpa % 32 + 32 * k
  s.timer (scrubTicks * k) .patrolScrub
    { addr := if stackOf next = stackOf dpa then next else stackOf dpa * 2 ^ 36, flag := true }

/-- PATROL_SCRUB: the granule at `addr` is read under its stored code, in its turn behind the requests that wait for it (02 R40, R52).
With `flag` it is the patrol of its stack, which goes on. In D3hot the stacks refresh themselves, and the patrol waits (04 R88). -/
def execPatrolScrub (s : State) : Res :=
  let a := s.arg
  if !dpaExists a.addr then .fault (.noSuchAddress a.addr)
  else if s.power.d3hot then .next (s.timer scrubTicks .patrolScrub a)
  else if s.mem.queued (s.mem.unit a.addr).gc.toNat a.addr 1 then .next (s.timer 2 .patrolScrub a)
  else
    let s := s.scrub a.addr
    .next (if a.flag then s.scrubNext a.addr else s)

end Sys2Proof.Machine
end

