-- ==== Sys2Proof/Machine/Tiles.lean ====
section
/-! DEFINITION. Accumulator tiles: entries, products, side state, label map, spill regions (11 R264 to R280; 09 R226, R227). -/

namespace Sys2Proof.Machine

/-! ## Entries -/

def Entry.zero : Entry := ⟨0, 0, false⟩

def entryKey (slot row col : Nat) : Nat := 16384 * slot + 256 * row + col

def Tile.at_ (t : Tile) (slot row col : Nat) : Entry := tget t.entries (entryKey slot row col) Entry.zero

def Tile.put (t : Tile) (slot row col : Nat) (e : Entry) : Tile :=
  { t with
    entries := tset t.entries (entryKey slot row col) e Entry.zero
    soft := t.soft.filter fun k => k != entryKey slot row col }

/-- Every entry of a slot zero. -/
def Tile.clearSlot (t : Tile) (slot : Nat) : Tile :=
  { t with
    entries := t.entries.filter fun p => p.1 / 16384 != slot
    soft := t.soft.filter fun k => k / 16384 != slot }

/-- Row and column pairs of a rectangle. -/
def cells (m n : Nat) : List (Nat × Nat) := (List.range m).flatMap fun i => (List.range n).map fun j => (i, j)

def Tile.mapCells (t : Tile) (slot m n : Nat) (f : Nat → Nat → Entry → Entry) : Tile :=
  (cells m n).foldl (fun t p => t.put slot p.1 p.2 (f p.1 p.2 (t.at_ slot p.1 p.2))) t

/-- The value of an entry under a mode: INT, LX or F32 (11 R264). -/
def Entry.num (e : Entry) (mode : Nat) : Num :=
  match mode with
  | 0 => Num.ofInt (sextN 48 e.val.toNat)
  | 1 => lxVal e.val.toNat e.tag.toNat
  | _ => f32.val (e.val.toNat % 2 ^ 32)

/-- An INT entry's 128 bits (11 R264). -/
def intEntry (x : Int) : BitVec 128 := BitVec.ofInt 128 (sextN 48 (wrapN 48 x))

/-! ## Side state (11 R265) -/

/-- Side-state words by their keys among the marks of a tile (09 R227). -/
def sideKey : Nat := 131072

/-- Row sums, column sums and K are cleared: their words are written. OV and SAT are kept. -/
def Tile.clearSums (t : Tile) : Tile :=
  { t with
    rowSum := Vector.replicate 64 0, colSum := Vector.replicate 256 0, kcount := 0
    soft := t.soft.filter fun k => decide (k < sideKey)
    sideBad := [] }

def Tile.clearSide (t : Tile) : Tile := { t.clearSums with ov := false, sat := false }

/-- Everything zero and the map empty; the mode is kept (16 R378, 11 R280, 07 R192). -/
def Tile.wipe (t : Tile) : Tile := { t.clearSide with entries := [], soft := [], slots := Vector.replicate 8 LabelSlot.empty }

/-! ## Pairs (12 R293, 16 R373) -/

/-- Formats of A and B of a pair code. -/
def pairFmts (pair : Nat) : Nat × Nat :=
  match pair with
  | 0 => (2, 2)
  | 1 => (2, 3)
  | 2 => (3, 2)
  | 3 => (3, 3)
  | 4 => (0, 0)
  | 5 => (0, 1)
  | 6 => (1, 0)
  | 7 => (1, 1)
  | 8 => (4, 4)
  | 9 => (4, 5)
  | 10 => (5, 4)
  | 11 => (5, 5)
  | 12 => (6, 6)
  | 13 => (7, 7)
  | _ => (8, 8)

def pairSize (pair : Nat) : Nat := fmtBits (pairFmts pair).1

/-- The mode that accepts a pair. -/
def pairMode (pair : Nat) : Nat := if pair < 8 then 0 else if pair < 12 then 1 else 2

/-- The largest magnitude of a format of an INT or LX pair (11 R265). -/
def fmtMax (fmt : Nat) : Nat :=
  match fmt with
  | 0 => 8
  | 1 => 15
  | 2 => 128
  | 3 => 255
  | 4 => 448
  | _ => 57344

/-! ## Hatch words (12 R299, 16 R374) -/

/-- Whether position `k` is kept by a hatch word. -/
def hatchKept (w : BitVec 128) (sp24 : Bool) (k : Nat) : Bool :=
  let b := k / 4
  let j := (List.range b).countP fun i => w.getLsbD i
  if !w.getLsbD b || decide (64 ≤ b) then false
  else if sp24 && decide (j < 32) then
    let f := bitsN w.toNat (64 + 2 * j) 2
    k % 4 == f % 2 || k % 4 == 2 + f / 2
  else true

/-! ## Products (16 R373; 11 R265 to R270) -/

/-- The products of one element in ascending k; a position that is not kept gives none here. -/
def products (fa fb : Nat) (a b : List Nat) (kept : List Bool) : List (Option Num) :=
  ((a.zip b).zip kept).map fun p => if p.2 then some (Num.mul (elemVal fa p.1.1) (elemVal fb p.1.2)) else none

/-- An entry after the products of one operation. -/
def accumulate (mode : Nat) (e : Entry) (ps : List (Option Num)) : Entry :=
  match mode with
  | 0 =>
    let sum := ((ps.filterMap id).map (Num.scaled 0)).foldl (· + ·) 0
    { e with val := intEntry (sextN 48 e.val.toNat + sum) }
  | 1 =>
    let r := (ps.filterMap id).foldl (fun acc p => lxAdd acc.1 acc.2 p) (e.val.toNat, e.tag.toNat)
    { e with val := BitVec.ofNat 128 r.1, tag := BitVec.ofNat 4 r.2 }
  | _ =>
    let all := ps.map fun p => p.getD Num.zero
    let sum := (blocks32 (all.length + 1) all).foldl (fun acc b => f32Add acc (blkF32 b)) (e.val.toNat % 2 ^ 32)
    { e with val := BitVec.ofNat 128 sum }

/-- The sum of the kept elements of a run. -/
def keptSum (fmt : Nat) (l : List Nat) (kept : List Bool) : Int :=
  ((l.zip kept).map fun p => if p.2 then intElem fmt p.1 else 0).foldl (· + ·) 0

/-- Add to a 48-bit sum. -/
def addSum {n : Nat} (v : Vector (BitVec 48) n) (i : Nat) (x : Int) : Vector (BitVec 48) n :=
  setIdx v i (BitVec.ofInt 48 (sextN 48 (getIdx v i 0).toNat + x))

/-- One product operation into a slot: `a` by rows from tile row `row0`, `b` by columns (16 R373). -/
def Tile.product (t : Tile) (slot row0 pair : Nat) (a b : List (List Nat)) (kept : List Bool) : Tile :=
  let (fa, fb) := pairFmts pair
  let mode := t.mode.toNat
  let t := a.zipIdx.foldl (fun t r => b.zipIdx.foldl (fun t c =>
    t.put slot (row0 + r.2) c.2 (accumulate mode (t.at_ slot (row0 + r.2) c.2) (products fa fb r.1 c.1 kept))) t) t
  let k := kept.countP id
  let kc := (t.kcount.toNat + k) % 2 ^ 32
  let t := { t with kcount := BitVec.ofNat 32 kc }
  let peak := kc * (fmtMax fa * fmtMax fb)
  match mode with
  | 0 =>
    { t with
      rowSum := a.zipIdx.foldl (fun v r => addSum v (row0 + r.2) (keptSum fa r.1 kept)) t.rowSum
      colSum := b.zipIdx.foldl (fun v c => addSum v c.2 (keptSum fb c.1 kept)) t.colSum
      ov := t.ov || decide (2 ^ 47 ≤ peak) }
  | 1 => { t with ov := t.ov || decide (2 ^ 63 ≤ peak) }
  | _ => t

/-! ## Zero points (11 R267) -/

/-- A side-state word that the correction of an entry uses cannot be read: the entry is marked poisoned (09 R227; log entry 82). -/
def Tile.sumsBad (t : Tile) (m n : Nat) : Bool :=
  t.sideBad.contains m || t.sideBad.contains (64 + n) || t.sideBad.contains 320

/-- The correction of one entry. -/
def Tile.correct (t : Tile) (za zb : List Int) (m n : Nat) (e : Entry) : Entry :=
  let k : Int := t.kcount.toNat
  let x := sextN 48 e.val.toNat - zb.getD n 0 * sextN 48 (getIdx t.rowSum m 0).toNat -
    za.getD m 0 * sextN 48 (getIdx t.colSum n 0).toNat + k * za.getD m 0 * zb.getD n 0
  { e with val := intEntry x, poison := e.poison || t.sumsBad m n }

/-! ## The label map (11 R273, R274) -/

def Tile.slotList (t : Tile) : List (LabelSlot × Nat) := t.slots.toList.zipIdx

/-- The slot of a mapped label. -/
def Tile.find (t : Tile) (label : Nat) : Option Nat :=
  (t.slotList.find? fun p => p.1.valid && p.1.label.toNat == label).map Prod.snd

def Tile.firstFree (t : Tile) : Option Nat := (t.slotList.find? fun p => !p.1.valid).map Prod.snd

/-- The least recently written slot: the greatest age. -/
def Tile.oldest (t : Tile) : Nat :=
  (t.slotList.foldl (fun (acc : Option (Nat × Nat)) p => match acc with
    | none => some (p.1.age, p.2)
    | some b => if b.1 < p.1.age then some (p.1.age, p.2) else some b) none).elim 0 Prod.snd

def Tile.slot (t : Tile) (i : Nat) : LabelSlot := getIdx t.slots i LabelSlot.empty
def Tile.setSlot (t : Tile) (i : Nat) (x : LabelSlot) : Tile := { t with slots := setIdx t.slots i x }

/-- Age a set of slots that `f` selects by `d`. -/
def Tile.ageSlots (t : Tile) (f : LabelSlot → Bool) (up : Bool) : Tile :=
  { t with slots := t.slots.map fun (x : LabelSlot) =>
      if x.valid && f x then { x with age := if up then x.age + 1 else x.age - 1 } else x }

/-- Slot `i` becomes the most recently written: the younger ones age (11 R274). -/
def Tile.touch (t : Tile) (i : Nat) : Tile :=
  let age := (t.slot i).age
  let t := t.ageSlots (fun x => decide (x.age < age)) true
  t.setSlot i { t.slot i with age := 0 }

/-- Bind a label to a free slot, as the most recently written. -/
def Tile.bindSlot (t : Tile) (i label ur uc : Nat) : Tile :=
  (t.ageSlots (fun _ => true) true).setSlot i ⟨true, BitVec.ofNat 8 label, 0, ur, uc⟩

/-- A slot becomes free: its entries are zero, and older slots close the gap in the ages. -/
def Tile.freeSlot (t : Tile) (i : Nat) : Tile :=
  let age := (t.slot i).age
  ((t.clearSlot i).setSlot i LabelSlot.empty).ageSlots (fun x => decide (age < x.age)) false

/-- The extent grows (11 R273). -/
def Tile.extend (t : Tile) (i ur uc : Nat) : Tile :=
  let x := t.slot i
  t.setSlot i { x with ur := max x.ur ur, uc := max x.uc uc }

/-! ## Operations in progress -/

/-- A matrix operation in progress: the state, the bytes it uses, its status bits, the poison it met, whether it was dropped,
its clamped elements, the hatch words it consumed, and the faults of its accesses. -/
structure MRun where
  s : State
  uses : List MatUse
  segs : List (Bool × Seg)
  bits : Nat
  pz : Option Nat
  dropped : Bool
  nsat : Nat
  used : Nat
  /-- poison of an ET = 0 page was consumed -/
  et0 : Bool
  /-- every access is checked, also behind one that faults (16 R368, 15 R357) -/
  troubles : List Trouble
  /-- translations made so far, and those that the command brought from its issue (09 R237) -/
  routes : List (Nat × Nat × List Seg)
  known : List (Nat × Nat × List Seg)
  deriving DecidableEq, Repr

def MRun.of (s : State) : MRun := ⟨s, [], [], 0, none, false, 0, 0, false, [], [], []⟩

abbrev Mat := Except Trouble

/-- An access faults: the operation is looked through to its end all the same, so that the lowest cause is found. -/
def MRun.fault (r : MRun) (t : Trouble) : MRun := { r with troubles := r.troubles ++ [t] }

/-- The verdict on the accesses of an operation: the lowest cause, then the lowest address (15 R357). -/
def MRun.settle (r : MRun) : Mat MRun :=
  match worst r.troubles with
  | some t => .error t
  | none => .ok r

/-- Status bits (16 R369). -/
def stRese : Nat := 1
def stPz : Nat := 2
def stMode : Nat := 4
def stShape : Nat := 8
def stBsz : Nat := 16
def stTopo : Nat := 32
def stNolbl : Nat := 64

def MRun.flag (r : MRun) (b : Nat) : MRun := { r with bits := r.bits ||| b }
def MRun.drop (r : MRun) (b : Nat) : MRun := { r with bits := r.bits ||| b, dropped := true }

/-- Poison is consumed: PZ, and POISON is raised once the operation ends (16 R368). -/
def MRun.poisoned (r : MRun) (va : Nat) : MRun := { r with bits := r.bits ||| stPz, pz := r.pz.orElse fun _ => some va }

/-- The poison came from memory, from a page with ET = 0. -/
def MRun.fromEt0 (r : MRun) : MRun := { r with et0 := true }

/-! ## Memory of a matrix operation (16 R368) -/

/-- Bytes with, beside each, whether it was poisoned on an ET = 0 page. -/
abbrev Marked := List (Byte × Bool)

def MRun.note (r : MRun) (write : Bool) (va len : Nat) (rt : Route) : MRun :=
  match rt with
  | .spad o => { r with uses := r.uses ++ [⟨write, .spad o, va, len⟩] }
  | .mem segs => { r with
      uses := r.uses ++ segs.map fun g => ⟨write, .mem g.place.dpa, g.va, g.len⟩
      segs := r.segs ++ segs.map fun g => (write, g)
      routes := r.routes ++ [(va, len, segs)] }

/-- Where an access goes: a translation that is gone since the command issued still holds for it (09 R237, 16 R368). -/
def MRun.route (r : MRun) (n : Need) (va len : Nat) : Except Trouble Route :=
  match r.s.route n va len with
  | .ok x => .ok x
  | .error t =>
    match r.known.find? fun k => k.1 == va && k.2.1 == len with
    | some k => .ok (.mem k.2.2)
    | none => .error t

/-- The lines that an operation has read at the die leave the core's L1, so that a later load of the thread finds nothing older there
(10 R249). -/
def Core.forget (c : Core) (segs : List Seg) : Core :=
  { c with l1 := c.l1.filter fun x => !(segs.any fun g => decide (g.place.dpa / 128 ≤ x.line) && decide (x.line * 128 < g.place.dpa + g.len)) }

/-- Read bytes of the thread's memory or scratchpad. The lines were registered at issue (03 R73, 10 R254). `seen` are the granules whose
substitution the operation has counted. -/
def MRun.readSeen (r : MRun) (n : Need) (va len : Nat) (seen : List Nat) : Mat (Marked × List Nat × MRun) :=
  if len = 0 then .ok ([], seen, r)
  else
    match r.route n va len with
    | .error t => .ok (List.replicate len (0, false), seen, r.fault t)
    | .ok rt =>
      let r := r.note false va len rt
      match rt with
      | .spad _ =>
        let g := r.s.readRoute true rt len
        .ok (g.1.bytes.map fun b => (b, false), seen, { r with s := g.2 })
      | .mem segs =>
        let x := segs.foldl (fun (acc : Marked × List Nat × State) g =>
          (cutAt (min 128 (granBytes g.place.gran)) g.place.dpa g.len).foldl (fun acc c =>
            let y := acc.2.2.coreRead acc.2.2.curCore true g.place c.1 c.2.2
            (acc.1 ++ (if y.1.poison then List.replicate c.2.2 (0, true) else y.1.bytes.map fun b => (b, false)),
              (acc.2.1 ++ y.1.subst).dedup, y.2)) acc) (([], [], r.s.modCore (·.forget segs)) : Marked × List Nat × State)
        let new := x.2.1.filter fun a => !seen.contains a
        .ok (x.1, seen ++ new, { r with s := x.2.2.addSubst x.2.2.curAgent new.length })

/-- One read by itself. -/
def MRun.read (r : MRun) (n : Need) (va len : Nat) : Mat (Marked × MRun) := do
  let x ← r.readSeen n va len []
  return (x.1, x.2.2)

/-- Read bytes of which poisoned ones are consumed as zeros. -/
def MRun.get (r : MRun) (n : Need) (va len : Nat) : Mat (List Byte × MRun) :=
  match r.read n va len with
  | .error t => .error t
  | .ok x => .ok (x.1.map Prod.fst, if x.1.any Prod.snd then (x.2.poisoned va).fromEt0 else x.2)

def MRun.put (r : MRun) (n : Need) (va : Nat) (bs : List Byte) : Mat MRun :=
  if bs.isEmpty then .ok r
  else
    match r.route n va bs.length with
    | .error t => .ok (r.fault t)
    | .ok rt =>
      let r := r.note true va bs.length rt
      .ok { r with s := r.s.writeRoute rt bs }

/-- Translate and check a range that the operation then does not access. -/
def MRun.aim (r : MRun) (n : Need) (va len : Nat) : MRun :=
  match r.route n va len with
  | .error t => r.fault t
  | .ok (.spad _) => r
  | .ok (.mem segs) => { r with routes := r.routes ++ [(va, len, segs)] }

/-- Read scratchpad bytes at a local-aperture VA (16 R372, R373). -/
def MRun.aperture (r : MRun) (va len : Nat) : Mat (List Byte × MRun) :=
  if inAperture va then r.get needR va len else .ok (List.replicate len 0, r.fault ⟨cSpadRange, va⟩)

def State.curGal (s : State) : Nat := ((s.gridOf s.curGrid).map (·.gal)).getD 0

/-- PZ in every phase-table entry of the thread's team (09 R227). -/
def State.pzAll (s : State) : State :=
  match s.curRec with
  | none => s
  | some q => (List.range 8).foldl (fun s e => s.setPhase q.grid q.team e { s.phase q.grid q.team e with pz := true })
      (s.phaseUse q.grid q.team 0 8)

/-- RES in every phase-table entry of the thread's team (16 R377, 09 R222). -/
def State.resAll (s : State) : State :=
  match s.curRec with
  | none => s
  | some q => (List.range 8).foldl (fun s e => s.setPhase q.grid q.team e { s.phase q.grid q.team e with res := true })
      (s.phaseUse q.grid q.team 0 8)

/-- Read gallery bytes; a unit whose read is uncorrectable reads as zero (09 R224, R227). -/
def MRun.gallery (r : MRun) (off len : Nat) : Mat (List Byte × MRun) :=
  if r.s.curGal * 2 ^ 20 < off + len then .ok (List.replicate len 0, r.fault ⟨cSpadRange, off⟩)
  else
    match r.s.curTeam with
    | none => .ok (List.replicate len 0, r.fault ⟨cSpadRange, off⟩)
    | some t =>
      let bad (i : Nat) : Bool := t.galBad.contains ((off + i) / 32)
      let soft := unitsIn t.galSoft off len
      let s := if soft.isEmpty then r.s
        else (r.s.modTeam t.grid t.num fun t => { t with galSoft := t.galSoft.filter fun u => !soft.contains u }).corrected t.die soft.length
      let s := if (List.range len).any bad then s.pzAll else s
      .ok ((List.range len).map fun i => if bad i then 0 else Memory.byte t.gal (off + i),
        { r with s := s, uses := r.uses ++ [⟨false, .gal off, 0, len⟩] })

/-! ## Spill regions (11 R275 to R277) -/

def MRun.tile (r : MRun) (t : Fin 2) : Tile := r.s.core.tiles.get t
def MRun.setTile (r : MRun) (t : Fin 2) (x : Tile) : MRun :=
  { r with s := r.s.modCore fun k => { k with tiles := k.tiles.set t.val x t.isLt } }
/-- SRAM words of a tile were read: corrected reads are reported, and the words hold the corrected data (09 R227; log entry 82). -/
def MRun.tileSeen (r : MRun) (t : Fin 2) (f : Nat → Bool) : MRun :=
  let x := r.tile t
  let soft := x.soft.filter f
  if soft.isEmpty then r
  else
    let r := r.setTile t { x with soft := x.soft.filter fun k => !f k }
    { r with s := r.s.corrected (dieOf r.s.curCore).val soft.length }

/-- The entries of slot `i` were read; with `sums`, the side state too. -/
def MRun.slotSeen (r : MRun) (t : Fin 2) (i : Nat) (sums : Bool) : MRun :=
  r.tileSeen t fun k => k / 16384 == i || sums && decide (sideKey ≤ k)

def MRun.modTile (r : MRun) (t : Fin 2) (f : Tile → Tile) : MRun := r.setTile t (f (r.tile t))

/-- SB of a tile of the thread's team (11 R275). -/
def State.spillVa (s : State) (t : Fin 2) : Nat :=
  let base := ((s.gridOf s.curGrid).map (·.spillBase)).getD 0
  let team := (s.curRec.map (·.team)).getD 0
  (base / 2 ^ 27 * 2 ^ 27 + (2 * team + t.val) * 2 ^ 27) % 2 ^ 56

def spillEntries (sb label row : Nat) : Nat := sb + 0x40000 * label + 4096 * row
def spillTags (sb label row : Nat) : Nat := sb + 0x4000000 + 0x2000 * label + 128 * row
def spillDir (sb label : Nat) : Nat := sb + 0x4200000 + 4 * label

/-- What a directory word says. -/
inductive DirWord where
  | notSpilled
  | spilled (ur uc : Nat)
  /-- read from a poisoned granule of an ET = 0 page -/
  | poisoned
  deriving DecidableEq, Repr

def DirWord.parse (w : Nat) : DirWord :=
  let ur := bitsN w 1 7
  let uc := bitsN w 8 9
  if !bitN w 0 || decide (w / 2 ^ 17 % 2 ^ 15 ≠ 0) || ur == 0 || decide (64 < ur) || uc == 0 || decide (256 < uc) then .notSpilled
  else .spilled ur uc

def dirWordOf (ur uc : Nat) : Nat := 1 + 2 * ur + 256 * uc

def MRun.dirWord (r : MRun) (n : Need) (t : Fin 2) (label : Nat) : Mat (DirWord × MRun) :=
  match r.read n (spillDir (r.s.spillVa t) label) 4 with
  | .error e => .error e
  | .ok x => .ok (if x.1.any Prod.snd then .poisoned else DirWord.parse (natOfBytes (x.1.map Prod.fst)), x.2)

/-- Write S := 0 and leave the word's other bits. -/
def MRun.unspill (r : MRun) (t : Fin 2) (label : Nat) : Mat MRun := do
  let va := spillDir (r.s.spillVa t) label
  let x ← r.read needRW va 4
  let w := natOfBytes (x.1.map Prod.fst)
  r.put needRW va (bytesOfNat 4 (w - w % 2))

/-- Write bytes granule by granule, so that each granule they cover is written whole (02 R50, 11 R277). -/
def MRun.putWhole (r : MRun) (n : Need) (va : Nat) (bs : List Byte) : Mat MRun :=
  match r.route n va bs.length with
  | .error t => .ok (r.fault t)
  | .ok (.spad o) => .ok { r.note true va bs.length (.spad o) with s := r.s.writeRoute (.spad o) bs }
  | .ok (.mem segs) =>
    let r := r.note true va bs.length (.mem segs)
    let s := r.s.hotSegs (wingOf r.s.curCore) segs
    let x := s.engWrite (dieOf s.curCore).val segs bs
    .ok { r with s := x.2.addSubst x.2.curAgent x.1 }

/-- Every directory word with S = 0, as whole-granule writes: the other bits stay, and the operation reads nothing, so that it needs W
alone (16 R378, 11 R277). -/
def MRun.unspillAll (r : MRun) (t : Fin 2) : Mat MRun := do
  let va := spillDir (r.s.spillVa t) 0
  let old ← r.read needW va 1024
  let bs := old.1.map Prod.fst
  r.putWhole needW va ((List.range 256).flatMap fun i => let w := fieldAt bs (4 * i) 4; bytesOfNat 4 (w - w % 2))

/-- The entries of a label read from its spill region: row by row, tags too in LX mode, poisoned where a byte of entry or tag
was (11 R276, R277). A granule holds the tags of several rows: its substitution counts once. -/
def MRun.spilledRow (r : MRun) (n : Need) (t : Fin 2) (label row uc : Nat) (lx : Bool) (seen : List Nat) :
    Mat (List Entry × List Nat × MRun) := do
  let sb := r.s.spillVa t
  let x ← r.read n (spillEntries sb label row) (16 * uc)
  let y ← if lx then x.2.readSeen n (spillTags sb label row) (ceilDiv uc 2) seen else .ok ([], seen, x.2)
  let es := (List.range uc).map fun c =>
    let bs := (x.1.drop (16 * c)).take 16
    let tb := y.1.getD (c / 2) (0, false)
    let bad := bs.any Prod.snd || tb.2
    if bad then (⟨0, 0, true⟩ : Entry)
    else ⟨BitVec.ofNat 128 (natOfBytes (bs.map Prod.fst)), BitVec.ofNat 4 (bitsN tb.1.toNat (4 * (c % 2)) 4), false⟩
  return (es, y.2)

/-- Read a spilled label: its entries by row. A fill needs read and write permission, a read in place only reads (11 R277, R279). -/
def MRun.spilled (r : MRun) (n : Need) (t : Fin 2) (label : Nat) (w : DirWord) : Mat (List (List Entry) × MRun) :=
  match w with
  | .notSpilled => .ok ([], r)
  | .poisoned => .ok (List.replicate 64 (List.replicate 256 ⟨0, 0, true⟩), r)
  | .spilled ur uc =>
    (List.range ur).foldlM (fun acc row => do
      let x ← acc.2.2.spilledRow n t label row uc ((acc.2.2.tile t).mode == 1) acc.2.1
      return (acc.1 ++ [x.1], x.2)) (([], [], r) : List (List Entry) × List Nat × MRun) >>= fun z => .ok (z.1, z.2.2)

/-- Write entries of a label to its spill region: an entry that is poisoned raises POISON and is written as zeros (09 R227). -/
def MRun.spillRows (r : MRun) (t : Fin 2) (label ur uc : Nat) (f : Nat → Nat → Entry) : Mat MRun :=
  (List.range ur).foldlM (fun r row => do
    let sb := r.s.spillVa t
    let es := (List.range uc).map (f row)
    let r := if es.any (·.poison) then r.poisoned (spillEntries sb label row) else r
    let good := es.map fun e => if e.poison then Entry.zero else e
    let r ← r.put needRW (spillEntries sb label row) (good.flatMap fun e => bytesOf 16 e.val)
    if (r.tile t).mode == 1 then do
      -- behind an odd number of tags, the other half of the last byte is no tag of the slot and stays
      let old ← if uc % 2 = 1 then r.read needRW (spillTags sb label row + uc / 2) 1 else .ok ([], r)
      let top := old.1.map fun b => b.1.toNat / 16
      { old.2 with s := r.s }.put needRW (spillTags sb label row)
        (bytesOfNat (ceilDiv uc 2) (packList 4 (good.map (fun (e : Entry) => e.tag.toNat) ++ top)))
    else return r) r

/-- Spill a slot (11 R276): it becomes free. -/
def MRun.spillSlot (r : MRun) (t : Fin 2) (i : Nat) : Mat MRun := do
  let x := (r.tile t).slot i
  let l := x.label.toNat
  let r := r.slotSeen t i false
  let tile := r.tile t
  let r ← r.spillRows t l x.ur x.uc fun row col => tile.at_ i row col
  let r ← r.put needRW (spillDir (r.s.spillVa t) l) (bytesOfNat 4 (dirWordOf x.ur x.uc))
  return r.modTile t fun y => y.freeSlot i

/-- A free slot, made by spilling the oldest where there is none (11 R274). -/
def MRun.roomSlot (r : MRun) (t : Fin 2) : Mat (Nat × MRun) :=
  match (r.tile t).firstFree with
  | some i => .ok (i, r)
  | none => do
    let i := (r.tile t).oldest
    let r ← r.spillSlot t i
    return (i, r)

/-- Fill a spilled label into a free slot (11 R276, R277). -/
def MRun.fillSlot (r : MRun) (t : Fin 2) (i label : Nat) (w : DirWord) : Mat MRun := do
  let x ← r.spilled needRW t label w
  let r ← x.2.unspill t label
  let ext : Nat × Nat := match w with
    | .spilled ur uc => (ur, uc)
    | _ => (64, 256)
  return r.modTile t fun y =>
    (x.1.zipIdx.foldl (fun y row => row.1.zipIdx.foldl (fun y e => y.put i row.2 e.2 e.1) y) (y.clearSlot i)).bindSlot i label
      ext.1 ext.2

/-- The slot of a product's label (11 R274), with its spill and fill. -/
def MRun.slotFor (r : MRun) (t : Fin 2) (label : Nat) : Mat (Nat × MRun) :=
  match (r.tile t).find label with
  | some i => .ok (i, r)
  | none => do
    let d ← r.dirWord needRW t label
    let x ← d.2.roomSlot t
    match d.1 with
    | .notSpilled => return (x.1, x.2.modTile t fun y => (y.clearSlot x.1).bindSlot x.1 label 0 0)
    | w => do
      let r ← x.2.fillSlot t x.1 label w
      return (x.1, r)

end Sys2Proof.Machine
end

