-- ==== Sys2Proof/Machine/Matrix.lean ====
section
/-! DEFINITION. The matrix slot: who holds the engine, what a command checks and takes at issue, what it does when its turn comes, and
its status (16 R365 to R386). Commands run in issue order at MATRIX_COMMAND_COMPLETE. -/

namespace Sys2Proof.Machine

/-! ## Shape words (16 R371) -/

structure Shape where
  lda : Nat
  es : Nat
  sp24 : Bool
  edge : Bool
  n : Nat
  k : Nat
  m : Nat
  zero : Bool
  deriving DecidableEq, Repr

def Shape.parse (w : Nat) : Shape where
  lda := bitsN w 48 16
  es := bitsN w 42 2
  sp24 := bitN w 41
  edge := bitN w 40
  n := bitsN w 15 8 + 1
  k := bitsN w 6 9 + 1
  m := bitsN w 0 6 + 1
  zero := decide (bitsN w 44 4 = 0) && decide (bitsN w 23 17 = 0)

/-- Limits of K and N for element size `s`. -/
def maxK (s : Nat) : Nat := 2048 / s
def maxN (s : Nat) : Nat := if s ≤ 8 then 256 else 2048 / s

def Shape.fits (x : Shape) (s : Nat) : Bool := x.zero && decide (x.k ≤ maxK s) && decide (x.n ≤ maxN s)

/-- A shape word of a B load is within its limits. -/
def Shape.okLoad (x : Shape) : Bool := x.fits (4 * 2 ^ x.es) && x.m == 1 && !x.edge && !x.sp24

def runLen (k s : Nat) : Nat := ceilDiv (k * s) 8

/-- Physical columns of N columns at size `s` and their energy class (01 R28). -/
def matClass (n s : Nat) : BitVec 2 := BitVec.ofNat 2 ((n * (if s = 32 then 4 else if s = 16 then 2 else 1) - 1) / 64)

/-- `count` elements of `s` bits from a run of bytes (11 R256). -/
def elemsOf (s count : Nat) (bs : List Byte) : List Nat :=
  let x := natOfBytes bs
  (List.range count).map fun i => bitsN x (s * i) s

/-! ## B (16 R372) -/

/-- Cells as a table: columns of raw elements. -/
def bTable (cols : List (List Nat)) : Table (BitVec 32) :=
  cols.zipIdx.flatMap fun c => c.1.zipIdx.filterMap fun e =>
    if e.1 % 2 ^ 32 = 0 then none else some (512 * c.2 + e.2, BitVec.ofNat 32 e.1)

/-- A column of B of `k` elements. -/
def Engine.column (e : Engine) (k n : Nat) : List Nat := (List.range k).map fun i => (tget e.b (512 * n + i) 0).toNat

/-- Read `n` columns, each by `f`. -/
def MRun.columns (r : MRun) (n : Nat) (f : MRun → Nat → Mat (List Nat × MRun)) : Mat (List (List Nat) × MRun) :=
  (List.range n).foldlM (fun acc c => do
    let x ← f acc.2 c
    return (acc.1 ++ [x.1], x.2)) (([], r) : List (List Nat) × MRun)

/-- A column of the vertical path. -/
def MRun.vertCol (a k s : Nat) (r : MRun) (n : Nat) : Mat (List Nat × MRun) :=
  let q := 256 / s
  (List.range (ceilDiv k q)).foldlM (fun acc c => do
    let cnt := min q (k - c * q)
    let x ← acc.2.gallery (a + 8192 * c + 32 * n) (runLen cnt s)
    return (acc.1 ++ elemsOf s cnt x.1, x.2)) (([], r) : List Nat × MRun)

/-- A run of the gallery edge path. -/
def MRun.edgeRun (a stride k s : Nat) (r : MRun) (n : Nat) : Mat (List Nat × MRun) := do
  let x ← r.gallery (a + stride * n) (runLen k s)
  return (elemsOf s k x.1, x.2)

/-- A run of the scratchpad. -/
def MRun.padRun (a stride k s : Nat) (r : MRun) (n : Nat) : Mat (List Nat × MRun) := do
  let x ← r.aperture (a + stride * n) (runLen k s)
  return (elemsOf s k x.1, x.2)

/-- The whole range of `n` runs of the scratchpad is checked, then the runs are read. -/
def MRun.padRuns (r : MRun) (a stride k s n : Nat) : Mat (List (List Nat) × MRun) := do
  let span := (n - 1) * stride + runLen k s
  let x ← r.aperture a span
  r.columns n (fun q i => MRun.padRun a stride k s q i) |>.map fun y => (y.1, { y.2 with uses := x.2.uses })

def MRun.setB (r : MRun) (cols : List (List Nat)) (es : Nat) (src : BSource) : MRun :=
  { r with s := r.s.modCore fun k =>
      { k with engine := { k.engine with b := bTable cols, es := BitVec.ofNat 2 es, source := src } } }

/-- `m.ldb`, `m.ldb.edge`, `m.ldbx` by kind 1, 2, 3. -/
def MRun.loadB (r : MRun) (kind a w : Nat) : Mat MRun := do
  let x := Shape.parse w
  let s := 4 * 2 ^ x.es
  let aligned : Bool := match kind with
    | 1 => a % 8192 == 0
    | 2 => a % 256 == 0
    | _ => a % 4 == 0 && x.lda % 4 == 0 && decide (runLen x.k s ≤ x.lda)
  if !x.okLoad || !aligned then return r.drop stShape
  else
    let src : BSource := ⟨kind, w, a⟩
    match kind with
    | 1 => do
      let y ← r.columns x.n (fun q i => MRun.vertCol a x.k s q i)
      return y.2.setB y.1 x.es src
    | 2 => do
      let y ← r.columns x.n (fun q i => MRun.edgeRun a 256 x.k s q i)
      return y.2.setB y.1 x.es src
    | _ => do
      let y ← r.padRuns a x.lda x.k s x.n
      return y.2.setB y.1 x.es src

/-! ## Products (16 R373 to R375) -/

/-- Positions kept by the operation. -/
def keptOf (h : Option (BitVec 128)) (sp24 : Bool) (k : Nat) : List Bool :=
  (List.range k).map fun i => match h with
    | none => true
    | some w => hatchKept w sp24 i

/-- Accumulate into the slot of a label (11 R274). -/
def MRun.product (r : MRun) (t : Fin 2) (label row0 pair : Nat) (a b : List (List Nat)) (kept : List Bool) : Mat MRun := do
  let x ← r.slotFor t label
  let hit (k : Nat) : Bool := k / 16384 == x.1 && decide (row0 ≤ k % 16384 / 256) && decide (k % 16384 / 256 < row0 + a.length) &&
    decide (k % 256 < b.length)
  return (x.2.tileSeen t fun k => hit k || decide (sideKey ≤ k)).modTile t fun y =>
    ((y.product x.1 row0 pair a b kept).extend x.1 (row0 + a.length) b.length).touch x.1

/-- What stands against a product: shape limits, alignment, the tile's mode and the loaded B size. -/
def mmaFault (x : Shape) (a pair : Nat) (h : Bool) (mode es : Nat) : Nat :=
  let s := pairSize pair
  let row := runLen x.k s
  let al : Bool := if x.edge then a % 256 == 0 && x.lda % 256 == 0 else a % 4 == 0 && x.lda % 4 == 0 && decide (row ≤ x.lda)
  let shape := x.fits s && x.es == 0 && (h || !x.sp24) && (!h || decide (x.k ≤ 256)) && al
  (if shape then 0 else stShape) + (if pairMode pair = mode then 0 else stMode) + (if 4 * 2 ^ es = s then 0 else stBsz)

/-- `m.mma` (16 R373). -/
def MRun.mma (r : MRun) (pair : Nat) (h : Bool) (t : Fin 2) (label a w : Nat) (hatch : List (BitVec 128)) : Mat MRun := do
  let x := Shape.parse w
  let e := r.s.core.engine
  let bad := mmaFault x a pair h (r.tile t).mode.toNat e.es.toNat
  if bad ≠ 0 then return r.drop bad
  else
    let s := pairSize pair
    let rows ← if x.edge then r.columns x.m (fun q i => MRun.edgeRun a x.lda x.k s q i) else r.padRuns a x.lda x.k s x.m
    let cols := (List.range x.n).map fun n => e.column x.k n
    let word := if h then hatch.head?.orElse fun _ => some 0 else none
    ({ rows.2 with used := b2n h }).product t label 0 pair rows.1 cols (keptOf word x.sp24 x.k)

/-! ## Mode, zero, zero points (16 R378, R379) -/

def MRun.resetTile (r : MRun) (t : Fin 2) (mode : Option (BitVec 2)) : Mat MRun := do
  let r ← r.unspillAll t
  return r.modTile t fun y => { y.wipe with mode := mode.getD y.mode }

def halfwords (bs : List Byte) (n : Nat) : List Int := (List.range n).map fun i => sextN 16 (fieldAt bs (2 * i) 2)

/-- MISALIGNED of two addresses, with the lower of those that are (15 R348, R357). -/
def misaligned2 (a x b y : Nat) : Mat Unit :=
  if a % x ≠ 0 ∧ (b % y = 0 ∨ a ≤ b) then .error ⟨11, a⟩ else if b % y ≠ 0 then .error ⟨11, b⟩ else .ok ()

/-- `m.zpc` (16 R379). -/
def MRun.zpc (r : MRun) (t : Fin 2) (label a b : Nat) : Mat MRun := do
  misaligned2 a 2 b 2
  if (r.tile t).mode ≠ 0 then return r.drop stMode
  else
    let x ← r.get needR a 128
    let y ← x.2.get needR b 512
    let za := halfwords x.1 64
    let zb := halfwords y.1 256
    let r := y.2.tileSeen t fun k => decide (sideKey ≤ k)
    let tile := r.tile t
    match tile.find label with
    | some i =>
      return (r.slotSeen t i true).modTile t fun z =>
        let z := (z.mapCells i 64 256 fun m n e => tile.correct za zb m n e)
        (z.extend i 64 256).clearSums
    | none => do
      let d ← r.dirWord needRW t label
      match d.1 with
      | .notSpilled => return d.2.drop stNolbl
      | .poisoned => return ((d.2.poisoned (spillDir (r.s.spillVa t) label)).fromEt0).modTile t Tile.clearSums
      | w => do
        let z ← d.2.spilled needRW t label w
        let old (m n : Nat) : Entry := (z.1.getD m []).getD n Entry.zero
        let r := if z.1.any (fun row => row.any (·.poison)) then z.2.poisoned (spillEntries (r.s.spillVa t) label 0) else z.2
        let good (m n : Nat) : Entry := if (old m n).poison then Entry.zero else old m n
        let r ← r.spillRows t label 64 256 fun m n => tile.correct za zb m n (good m n)
        let r ← r.put needRW (spillDir (r.s.spillVa t) label) (bytesOfNat 4 (dirWordOf 64 256))
        return r.modTile t Tile.clearSums

/-! ## Spill and fill (16 R380) -/

def MRun.spill (r : MRun) (t : Fin 2) (label : Nat) : Mat MRun :=
  match (r.tile t).find label with
  | some i => r.spillSlot t i
  | none => do
    let d ← r.dirWord needRW t label
    return if d.1 = .notSpilled then d.2.drop stNolbl else d.2

def MRun.fill (r : MRun) (t : Fin 2) (label : Nat) : Mat MRun :=
  match (r.tile t).find label with
  | some _ => .ok r
  | none => do
    let d ← r.dirWord needRW t label
    match d.1 with
    | .notSpilled => return d.2.drop stNolbl
    | w => do
      let x ← d.2.roomSlot t
      x.2.fillSlot t x.1 label w

/-! ## Bind (16 R381; 11 R279, R280) -/

/-- A live label with its entries: those of a slot, or those read in place. -/
structure Source where
  label : Nat
  entry : Nat → Nat → Entry

/-- Every live label of a tile. -/
def MRun.sources (r : MRun) (t : Fin 2) : Mat (List Source × MRun) :=
  (List.range 256).foldlM (fun acc l =>
    let tile := acc.2.tile t
    match tile.find l with
    | some i => .ok (acc.1 ++ [⟨l, fun m n => tile.at_ i m n⟩], acc.2.slotSeen t i false)
    | none => do
      let d ← acc.2.dirWord needR t l
      match d.1 with
      | .notSpilled => return (acc.1, d.2)
      | w => do
        let z ← d.2.spilled needR t l w
        return (acc.1 ++ [⟨l, fun m n => (z.1.getD m []).getD n Entry.zero⟩], z.2)) (([], r) : List Source × MRun)

/-- Format of an `m.bind` by its own code. -/
def bindFmt (f : BitVec 2) : Nat :=
  match f.toNat with
  | 0 => 8
  | 1 => 7
  | _ => 6

/-- The parameter header of a bind: rows, columns, stride, none where SHAPE is set. -/
def bindHeader (fmt : Nat) (bs : List Byte) : Option (Nat × Nat × Nat) :=
  let m := fieldAt bs 0 1 + 1
  let ldd := fieldAt bs 4 4
  if 64 < m ∨ fieldAt bs 2 2 ≠ 0 ∨ fieldAt bs 8 56 ≠ 0 ∨ ldd % (fmtBits fmt / 8) ≠ 0 then none
  else some (m, fieldAt bs 1 1 + 1, ldd)

/-- One output element: the single rounding of the exact sum; +0 for an exact zero, 0 where an entry is poisoned. -/
def bindElem (fmt mode : Nat) (terms : List (Num × Entry)) : Nat :=
  match fltOf fmt with
  | none => 0
  | some F =>
    if terms.any fun x => x.2.poison then 0
    else
      let s := Num.sum 0 (terms.map fun x => Num.mul x.1 (x.2.num mode))
      if s.isZero then 0 else rne F s

/-- `m.bind` (16 R381). -/
def MRun.bind (r : MRun) (clr : Bool) (fmt : Nat) (axis : Bool) (t : Fin 2) (a b : Nat) (params : List Byte) : Mat MRun := do
  match bindHeader fmt params with
  | none => return r.drop stShape
  | some (m, n, ldd) =>
    let cnt := if axis then n else m
    let width := if axis then 256 else 64
    let src ← r.sources t
    let co ← src.1.foldlM (fun acc x => do
      let y ← acc.2.get needR (a + 64 + 4 * width * x.label) (4 * cnt)
      return (acc.1 ++ [words 4 y.1 cnt], y.2)) (([], src.2) : List (List Nat) × MRun)
    let mode := (r.tile t).mode.toNat
    let out (i j : Nat) : Nat := bindElem fmt mode ((src.1.zip co.1).map fun p =>
      (f32.val (p.2.getD (if axis then j else i) 0), p.1.entry i j))
    let pois := (cells m n).any fun p => src.1.any fun x => (x.entry p.1 p.2).poison
    let r := if pois then co.2.poisoned b else co.2
    let r ← (List.range m).foldlM (fun (r : MRun) i =>
      r.put needW (b + i * ldd) ((List.range n).flatMap fun j => bytesOfNat (fmtBits fmt / 8) (out i j))) r
    if clr then do
      let r ← r.unspillAll t
      return r.modTile t Tile.wipe
    else return r

/-! ## Drain (16 R382, R383) -/

structure DrainPar where
  fmt : Nat
  n : Nat
  m : Nat
  zo : Int
  ldd : Nat
  mul : List Int
  sh : List Nat
  deriving DecidableEq, Repr

/-- The parameter block, and what it sets: SHAPE for reserved bits and strides, MODE for a pairing that is not listed. -/
def drainPar (kind : Nat) (bs : List Byte) : DrainPar where
  fmt := bitsN (fieldAt bs 0 8) 16 4
  n := bitsN (fieldAt bs 0 8) 6 8 + 1
  m := bitsN (fieldAt bs 0 8) 0 6 + 1
  zo := sextN 16 (bitsN (fieldAt bs 8 8) 32 16)
  ldd := bitsN (fieldAt bs 8 8) 0 32
  mul := if kind = 2 then (words 8 (bs.drop 16) (bs.length / 8 - 2)).map (sextN 32) else []
  sh := if kind = 2 then (words 8 (bs.drop 16) (bs.length / 8 - 2)).map (bitsN · 32 6) else []

/-- KIND, mode and FMT go together. -/
def drainPair (kind mode fmt : Nat) : Bool :=
  match kind, mode with
  | 0, 0 => fmt == 9
  | 1, 0 => fmt == 9
  | 2, 0 => decide (fmt ≤ 3) || fmt == 9
  | 3, 0 => fmt == 6 || fmt == 7 || fmt == 8
  | 3, _ => decide (4 ≤ fmt) && decide (fmt ≤ 8)
  | _, _ => false

def drainFault (kind mode : Nat) (p : DrainPar) (bs : List Byte) : Nat :=
  let w0 := fieldAt bs 0 8
  let w1 := fieldAt bs 8 8
  let reserved := decide (bitsN w0 20 44 ≠ 0) || decide (bitsN w0 14 2 ≠ 0) || decide (bitsN w1 48 16 ≠ 0) ||
    (kind == 2 && (words 8 (bs.drop 16) (bs.length / 8 - 2)).any fun x => decide (bitsN x 38 26 ≠ 0))
  let stride := decide (p.fmt ≤ 9) && decide (8 ≤ fmtBits p.fmt) && decide (p.ldd % (fmtBits p.fmt / 8) ≠ 0)
  (if reserved || stride then stShape else 0) +
    (if !drainPair kind mode p.fmt || (kind != 2 && p.zo != 0) then stMode else 0)

/-- The element written for an entry in column `n`, and whether it was clamped (11 R268, R269). -/
def drainElem (kind mode : Nat) (p : DrainPar) (n : Nat) (e : Entry) : Nat × Bool :=
  if e.poison then (0, false)
  else
    let v := sextN 48 e.val.toNat
    match kind with
    | 0 => (wrapN 32 v, false)
    | 1 => let x := satf 9 v; (wrapN 32 x.1, x.2)
    | 2 => let x := rq v (p.mul.getD n 0) (p.sh.getD n 0) p.zo p.fmt; (wrapN (fmtBits p.fmt) x.1, x.2)
    | _ => (((fltOf p.fmt).map fun F => rne F (e.num mode)).getD 0, false)

/-- The entries of a label: of its slot, or read in place; none where it is not live (16 R383). -/
def MRun.source (r : MRun) (t : Fin 2) (label : Nat) : Mat (Option (Nat → Nat → Entry) × MRun) :=
  let tile := r.tile t
  match tile.find label with
  | some i => .ok (some (fun m n => tile.at_ i m n), r.slotSeen t i false)
  | none => do
    let d ← r.dirWord needR t label
    match d.1 with
    | .notSpilled => return (none, d.2)
    | w => do
      let z ← d.2.spilled needR t label w
      return (some (fun m n => (z.1.getD m []).getD n Entry.zero), z.2)

/-- `m.drain` (16 R382, R383). -/
def MRun.drain (r : MRun) (kind : Nat) (tr : Bool) (t : Fin 2) (label a : Nat) (params : List Byte) : Mat MRun := do
  let p := drainPar kind params
  let mode := (r.tile t).mode.toNat
  let bad := drainFault kind mode p params
  if bad ≠ 0 then return r.drop bad
  else
    let bits := fmtBits p.fmt
    if 8 ≤ bits ∧ a % (bits / 8) ≠ 0 then .error ⟨11, a⟩
    else
      let src ← r.source t label
      let runs := if tr then p.n else p.m
      let len := if tr then p.m else p.n
      match src.1 with
      | none =>
        -- only SHAPE and MODE leave the destination unchecked
        return ((List.range runs).foldl (fun (q : MRun) i => q.aim needW (a + i * p.ldd) (runLen len bits)) src.2).drop stNolbl
      | some f =>
        let at_ (i j : Nat) : Nat × Nat := if tr then (j, i) else (i, j)
        let out (i j : Nat) : Nat × Bool := let q := at_ i j; drainElem kind mode p q.2 (f q.1 q.2)
        let all := cells runs len
        let nsat := all.countP fun q => (out q.1 q.2).2
        let r := if all.any fun q => let z := at_ q.1 q.2; (f z.1 z.2).poison then src.2.poisoned a else src.2
        let r ← (List.range runs).foldlM (fun (r : MRun) i =>
          r.put needW (a + i * p.ldd) (bytesOfNat (runLen len bits) (packList bits ((List.range len).map fun j => (out i j).1)))) r
        return { r with nsat := nsat }.modTile t fun y => { y with sat := y.sat || decide (0 < nsat) }

/-! ## Topology walks (16 R384, R385) -/

structure TopoEntry where
  xoff : Nat
  woff : Nat
  label : Nat
  row0 : Nat
  cnt : Nat
  deriving DecidableEq, Repr

def TopoEntry.parse (edge : Bool) (bs : List Byte) : Option TopoEntry :=
  let e : TopoEntry := ⟨fieldAt bs 0 4, fieldAt bs 4 4, fieldAt bs 8 1, fieldAt bs 9 1, fieldAt bs 10 1⟩
  if e.xoff % 4 ≠ 0 ∨ e.woff % (if edge then 256 else 8192) ≠ 0 ∨ e.cnt = 0 ∨ 64 < e.row0 + e.cnt ∨ fieldAt bs 11 5 ≠ 0 then none
  else some e

/-- Header: entries, pair, edge layout; none where it is out of its limits. -/
def topoHeader (bs : List Byte) : Option (Nat × Nat × Bool) :=
  let ne := fieldAt bs 0 2
  if ne = 0 ∨ 1024 < ne ∨ 14 < fieldAt bs 2 1 ∨ 1 < fieldAt bs 3 1 ∨ fieldAt bs 4 12 ≠ 0 then none
  else some (ne, fieldAt bs 2 1, fieldAt bs 3 1 == 1)

/-- What drops a walk. -/
def topoFault (hd : Option (Nat × Nat × Bool)) (x : Shape) (h : Bool) (mode : Nat) : Nat :=
  match hd with
  | none => stShape
  | some (_, pair, _) =>
    let s := pairSize pair
    let ok := x.fits s && x.es == 0 && x.m == 1 && !x.edge && (h || !x.sp24) && (!h || decide (x.k ≤ 256)) &&
      x.lda % 4 == 0 && decide (runLen x.k s ≤ x.lda)
    (if ok then 0 else stShape) + (if pairMode pair = mode then 0 else stMode)

/-- One entry. Both roles form the same bits, so the weights are taken as B here. -/
def MRun.topoEntry (r : MRun) (x : Shape) (pair : Nat) (edge : Bool) (t : Fin 2) (e : TopoEntry) (word : Option (BitVec 128)) :
    Mat MRun := do
  let s := pairSize pair
  let a ← r.padRuns (apertureBase + e.xoff) x.lda x.k s e.cnt
  let b ← a.2.columns x.n (fun q i => if edge then MRun.edgeRun e.woff 256 x.k s q i else MRun.vertCol e.woff x.k s q i)
  b.2.product t e.label e.row0 pair a.1 b.1 (keptOf word x.sp24 x.k)

/-- The entries in order; a bad one stops the walk. -/
def MRun.topoWalk (x : Shape) (pair : Nat) (edge h : Bool) (t : Fin 2) (a : Nat) (hatch : List (BitVec 128)) :
    Nat → Nat → MRun → Mat MRun
  | 0, _, r => .ok r
  | fuel + 1, i, r => do
    let bs ← r.get needR (a + 16 + 16 * i) 16
    match TopoEntry.parse edge bs.1 with
    | none => return bs.2.flag stTopo
    | some e => do
      let r ← bs.2.topoEntry x pair edge t e (if h then some (hatch.getD i 0) else none)
      MRun.topoWalk x pair edge h t a hatch fuel (i + 1) { r with used := if h then i + 1 else 0 }

/-- `m.topo` (16 R385): afterwards B reads as zero, with no source. -/
def MRun.topo (r : MRun) (h : Bool) (t : Fin 2) (a w : Nat) (params : List Byte) (hatch : List (BitVec 128)) : Mat MRun := do
  let hd := topoHeader params
  let x := Shape.parse w
  let bad := topoFault hd x h (r.tile t).mode.toNat
  if bad ≠ 0 then return r.drop bad
  else
    let (ne, pair, edge) := hd.getD (0, 0, false)
    let r ← MRun.topoWalk x pair edge h t a hatch ne 0 r
    return { r with s := r.s.modCore fun k =>
      { k with engine := { k.engine with b := [], es := 1, source := BSource.none } } }

/-! ## Running a command -/

def tileIx (t : Bool) : Fin 2 := if t then 1 else 0

/-- The whole effect of a command, on a state whose core and context are the command's. -/
def MRun.perform (r : MRun) (q : MatCmd) : Mat MRun :=
  let r := r.flag q.bits
  match q.op with
  | .mLdb _ _ => r.loadB 1 q.aval q.bval
  | .mLdbEdge _ _ => r.loadB 2 q.aval q.bval
  | .mLdbx _ _ => r.loadB 3 q.aval q.bval
  | .mMma pair h t lbl _ _ => r.mma pair.toNat h (tileIx t) lbl.toNat q.aval q.bval q.hatch
  | .mMode t mode => r.resetTile (tileIx t) (some mode)
  | .mZero t => r.resetTile (tileIx t) none
  | .mZpc t lbl _ _ => r.zpc (tileIx t) lbl.toNat q.aval q.bval
  | .mBind _ _ _ _ clr fmt axis t => r.bind clr (bindFmt fmt) axis (tileIx t) q.aval q.bval q.params
  | .mDrainWrap _ _ _ _ tr t lbl => r.drain 0 tr (tileIx t) lbl.toNat q.aval q.params
  | .mDrainSat _ _ _ _ tr t lbl => r.drain 1 tr (tileIx t) lbl.toNat q.aval q.params
  | .mDrainRq _ _ _ _ tr t lbl => r.drain 2 tr (tileIx t) lbl.toNat q.aval q.params
  | .mDrainFlt _ _ _ _ tr t lbl => r.drain 3 tr (tileIx t) lbl.toNat q.aval q.params
  | .mSpill t lbl => r.spill (tileIx t) lbl.toNat
  | .mFill t lbl => r.fill (tileIx t) lbl.toNat
  | .mTopo h t _ _ => r.topo h (tileIx t) q.aval q.bval q.params q.hatch
  | _ => .ok r

/-- What a command would leave, with the translations it made at issue; one that meets a fault all the same leaves what it found. -/
def State.runCmd (s : State) (q : MatCmd) : MRun :=
  match MRun.perform { MRun.of s with known := q.routes } q >>= MRun.settle with
  | .ok r => r
  | .error _ => (MRun.of s).drop 0

/-- The state that the queued commands of the core at issue would leave: what a command at issue finds. -/
def State.afterQueue (s : State) : State := s.core.engine.queue.foldl (fun s q => (s.runCmd q).s) s

/-- Bytes read at issue: a bind's header, a drain's parameters, a topology header (16 R381, R382, R385). -/
def MRun.paramsOf (r : MRun) (op : Instr) (a b : Nat) : Mat (List Byte × MRun) :=
  let drainPars (kind : Nat) : Mat (List Byte × MRun) := do
    if b % 8 ≠ 0 then .error ⟨11, b⟩
    else
      let x ← r.get needR b 16
      if kind ≠ 2 then return x
      else
        let y ← x.2.get needR (b + 16) (8 * (bitsN (fieldAt x.1 0 8) 6 8 + 1))
        return (x.1 ++ y.1, y.2)
  match op with
  | .mBind _ _ _ _ _ fmt _ _ =>
    misaligned2 a 8 b (fmtBits (bindFmt fmt) / 8) >>= fun _ => r.get needR a 64
  | .mDrainWrap _ _ _ _ _ _ _ => drainPars 0
  | .mDrainSat _ _ _ _ _ _ _ => drainPars 1
  | .mDrainRq _ _ _ _ _ _ _ => drainPars 2
  | .mDrainFlt _ _ _ _ _ _ _ => drainPars 3
  | .mTopo _ _ _ _ => if a % 16 ≠ 0 then .error ⟨11, a⟩ else r.get needR a 16
  | _ => .ok ([], r)

/-- A hatch word as the engine reads it: zero at or beyond NH, and in an unsealed half (16 R374). -/
def Core.hatchWord (k : Core) (hp : Nat) : BitVec 128 :=
  let b := k.banks.get ⟨hp / 1024 % 2, Nat.mod_lt _ (by decide)⟩
  if b.isSealed && decide (hp % 1024 < b.nh) then tget k.hatch hp 0 else 0

/-- Hatch words from `hp` on that the operation may take. -/
def State.hatchFor (s : State) (op : Instr) (params : List Byte) : List (BitVec 128) :=
  let n : Nat := match op with
    | .mMma _ h _ _ _ _ => b2n h
    | .mTopo h _ _ _ => if h then ((topoHeader params).map Prod.fst).getD 0 else 0
    | _ => 0
  (List.range n).map fun i => s.core.hatchWord ((s.ctlRead 7).toNat + i)

/-- The command of an operation at issue, and the state after its parameters are read. -/
def State.command (s : State) (op : Instr) (a b : Nat) : Mat (MatCmd × MRun) := do
  let p ← (MRun.of s).paramsOf op a b
  let _ ← p.2.settle
  return ({ ctx := s.curCtx, op := op, aval := a, bval := b, hatch := s.hatchFor op p.1, params := p.1, bits := p.2.bits,
            result := none, grant := none, uses := [], routes := [] }, p.2)

/-! ## What stands in a command's way (16 R365, R368; 01 R30) -/

/-- The tile an operation names. -/
def matTile (op : Instr) : Option (Fin 2) :=
  match op with
  | .mMma _ _ t _ _ _ => some (tileIx t)
  | .mMode t _ => some (tileIx t)
  | .mZero t => some (tileIx t)
  | .mZpc t _ _ _ => some (tileIx t)
  | .mBind _ _ _ _ _ _ _ t => some (tileIx t)
  | .mDrainWrap _ _ _ _ _ t _ => some (tileIx t)
  | .mDrainSat _ _ _ _ _ t _ => some (tileIx t)
  | .mDrainRq _ _ _ _ _ t _ => some (tileIx t)
  | .mDrainFlt _ _ _ _ _ t _ => some (tileIx t)
  | .mSpill t _ => some (tileIx t)
  | .mFill t _ => some (tileIx t)
  | .mTopo _ t _ _ => some (tileIx t)
  | _ => none

/-- The team of the thread at issue claimed the tile. -/
def State.claimed (s : State) (t : Fin 2) : Bool :=
  match s.curRec with
  | some r => (s.core.tiles.get t).owner == some (r.grid, r.team)
  | none => false

def matHome (s : State) : Check :=
  match s.curRec with
  | some r => if r.hallFree then .trap 7 0 else .go
  | none => .go

def State.holds (s : State) : Bool := s.core.engine.holder == .ctx s.curCtx

/-- The engine is held, and the tile is claimed. -/
def matHeld (op : Instr) (s : State) : Check :=
  (matHome s).both ((if s.holds then Check.go else .trap 8 0).both
    (match matTile op with
    | some t => if s.claimed t then .go else .trap 9 t.val
    | none => .go))

/-- An in-flight gallery load of the team writes bytes that the operation reads (09 R225). -/
def State.galleryBusy (s : State) (off len : Nat) : Bool :=
  match s.curRec with
  | none => false
  | some r => s.jobs.any fun j =>
      j.inFlight && j.grid == r.grid && j.team == r.team && bitsN j.card.toNat 0 8 == 7 &&
        meets (bitsN j.card.toNat 32 23) (bitsN (cardReg j.card 0) 4 36) off len

/-- Stalls and races of the bytes that an operation uses. -/
def MRun.usesCheck (r : MRun) (s : State) : Check :=
  (Check.all (r.uses.map fun u =>
    match u.spot with
    | .gal o => if s.galleryBusy o u.len then Check.stall .resource else .go
    | .spad _ => s.drainCheck.both (if s.jobStall ⟨.flat u.va u.len, 0, u.write⟩ then .stall .resource else .go)
    | .mem _ => if s.jobStall ⟨.flat u.va u.len, 0, u.write⟩ then .stall .resource else .go)).andThen
    ((Check.all (r.segs.map fun p => s.segsCheck [p.2] p.1)).both (s.roomCheck r.segs))

/-- Earlier products of the context on the tile are still queued (16 R378). -/
def State.productsQueued (s : State) (t : Fin 2) : Bool :=
  s.core.engine.queue.any fun q => match q.op with
    | .mMma _ _ u _ _ _ => tileIx u == t
    | .mTopo _ u _ _ => tileIx u == t
    | _ => false

def matStalls (op : Instr) (s : State) : Check :=
  (if 8 ≤ s.core.engine.queue.length then Check.stall .resource else .go).both
    (match op with
    | .mMode t _ => if s.productsQueued (tileIx t) then .stall .resource else .go
    | .mZero t => if s.productsQueued (tileIx t) then .stall .resource else .go
    | _ => .go)

/-- The leave class an operation asks for (16 R376). -/
def matLeave (op : Instr) (b : Nat) (params : List Byte) : Option (BitVec 2) :=
  match op with
  | .mMma pair _ _ _ _ _ => some (matClass (Shape.parse b).n (pairSize pair.toNat))
  | .mTopo _ _ _ _ => some (matClass (Shape.parse b).n (pairSize (((topoHeader params).map fun x => x.2.1).getD 0)))
  | _ => none

/-- The operand values of a matrix operation. -/
def State.matOperands (s : State) (op : Instr) : Nat × Nat :=
  let g (a b : Opnd) : Nat × Nat := ((s.ctx.sGet a).toNat, (s.ctx.sGet b).toNat)
  match op with
  | .mLdb a b => g a b
  | .mLdbEdge a b => g a b
  | .mLdbx a b => g a b
  | .mMma _ _ _ _ a b => g a b
  | .mZpc _ _ a b => g a b
  | .mBind _ _ a b _ _ _ _ => g a b
  | .mDrainWrap _ _ a b _ _ _ => g a b
  | .mDrainSat _ _ a b _ _ _ => g a b
  | .mDrainRq _ _ a b _ _ _ => g a b
  | .mDrainFlt _ _ a b _ _ _ => g a b
  | .mTopo _ _ a b => g a b
  | _ => (0, 0)

/-- What the operation would do, run behind the commands that are queued: its command and its run. -/
def State.foresee (s : State) (op : Instr) : Mat (MatCmd × MRun) := do
  let v := s.matOperands op
  let c ← s.command op v.1 v.2
  let r ← (MRun.of c.2.s.afterQueue).perform c.1
  return (c.1, { r with uses := c.2.uses ++ r.uses, segs := c.2.segs ++ r.segs })

/-- Room for the hatch words of an operation that is not dropped (16 R374, R385). -/
def hatchRoom (s : State) (c : MatCmd) (r : MRun) : Check :=
  if !r.dropped && decide (2047 < s.ctx.hp.toNat + c.hatch.length) then .trap 10 0 else .go

/-- Everything a matrix operation other than `m.acq` and `m.rel` meets before its bundle issues. -/
def matCheck (op : Instr) (s : State) : Check :=
  (matHeld op s).both
    (match s.foresee op with
    | .error t => .ofTrouble t
    | .ok (c, r) =>
      ((match worst r.troubles with
        | some t => Check.ofTrouble t
        | none => .go).both (hatchRoom s c r)).both ((r.usesCheck s).both ((matStalls op s).both
        (match matLeave op c.bval c.params with
        | some cls => if r.dropped then .go else leaveCheck cls s
        | none => .go))))

/-! ## Issue -/

/-- Queue a matrix operation: its parameters are read, its lines are registered (03 R73, 10 R254), its hatch words and its leave are
taken, its result is open. -/
def State.enqueue (s : State) (op : Instr) (d : Option (Opnd × Bool)) : State :=
  match s.foresee op with
  | .error _ => s
  | .ok (_, r) =>
    let v := s.matOperands op
    match s.command op v.1 v.2 with
    | .error _ => s
    | .ok (c, p) =>
      let s := match p.pz with
        | some va => (if p.et0 then p.s.poisonReport p.s.curCore p.s.curCtx else p.s).raise cPoison va
        | none => p.s
      let s := s.registerAll r.segs
      let s := s.modCtx fun x => { x with hp := x.hp + BitVec.ofNat 11 (if r.dropped then 0 else r.used) }
      let l : Option (BitVec 2) × State := match matLeave op c.bval c.params with
        | some cls => if r.dropped then (none, s) else s.leaveTake cls
        | none => (none, s)
      let o : Option Nat × State := match d with
        | some (o, ws) => let x := l.2.openLong 3 (.s o) ws; (some x.1, x.2)
        | none => (none, l.2)
      let q : MatCmd := { c with grant := l.1, result := o.1, uses := r.uses, routes := r.routes }
      (o.2.modCore fun k => { k with engine := { k.engine with queue := k.engine.queue ++ [q] } }).post
        .matrixCommandComplete { core := s.curCore }

/-- The status word (16 R369). -/
def Core.status (k : Core) (owner : Option (Nat × Nat)) (bits nsat : Nat) : Nat :=
  let flags (t : Fin 2) (sh : Nat) : Nat :=
    let x := k.tiles.get t
    if x.owner.isSome && x.owner == owner then b2n x.ov * 2 ^ sh + b2n x.sat * 2 ^ (sh + 1) else 0
  min nsat (2 ^ 32 - 1) * 2 ^ 32 + flags 0 10 + flags 1 12 + bits % 128

/-! ## The instructions -/

/-- What `m.acq` meets: another holder stops the context (16 R366). -/
def acqCheck (s : State) : Check :=
  (matHome s).both (if s.core.engine.holder == .nobody || s.holds then .go else .stall .engine)

/-- Take the engine: B reads as zero, 8-bit, with no source; the status bits start anew. -/
def State.acquireEngine (s : State) : State :=
  if s.holds then s
  else (s.modCore fun k => { k with engine := { Engine.reset with holder := .ctx s.curCtx } }).modCtx fun c => { c with mstat := 0 }

/-- `m.acq` (16 R366). -/
def execMAcq (s : State) : Res := guarded acqCheck State.acquireEngine s

def relMatCheck (s : State) : Check :=
  (matHome s).both (if s.holds && !s.matQuiet s.curCore s.curCtx then .stall .resource else .go)

/-- `m.rel` (16 R366). -/
def execMRel (s : State) : Res := guarded relMatCheck (fun s => if s.holds then s.engineFree s.curCore else s) s

/-- `m.mode` (16 R378). -/
def execMMode (t : Bool) (mode : BitVec 2) (s : State) : Res :=
  guarded (matCheck (.mMode t mode)) (fun s => s.enqueue (.mMode t mode) none) s

/-- `m.ldb` (16 R372). -/
def execMLdb (a b : Opnd) (s : State) : Res := guarded (matCheck (.mLdb a b)) (fun s => s.enqueue (.mLdb a b) none) s

/-- `m.ldb.edge` (16 R372). -/
def execMLdbEdge (a b : Opnd) (s : State) : Res :=
  guarded (matCheck (.mLdbEdge a b)) (fun s => s.enqueue (.mLdbEdge a b) none) s

/-- `m.ldbx` (16 R372). -/
def execMLdbx (a b : Opnd) (s : State) : Res := guarded (matCheck (.mLdbx a b)) (fun s => s.enqueue (.mLdbx a b) none) s

/-- `m.mma` (16 R373). -/
def execMMma (pair : BitVec 4) (h t : Bool) (lbl : BitVec 8) (a b : Opnd) (s : State) : Res :=
  guarded (matCheck (.mMma pair h t lbl a b)) (fun s => s.enqueue (.mMma pair h t lbl a b) none) s

/-- `m.zero` (16 R378). -/
def execMZero (t : Bool) (s : State) : Res := guarded (matCheck (.mZero t)) (fun s => s.enqueue (.mZero t) none) s

/-- `m.zpc` (16 R379). -/
def execMZpc (t : Bool) (lbl : BitVec 8) (a b : Opnd) (s : State) : Res :=
  guarded (matCheck (.mZpc t lbl a b)) (fun s => s.enqueue (.mZpc t lbl a b) none) s

/-- `m.bind` (16 R381). -/
def execMBind (ws : Bool) (d a b : Opnd) (clr : Bool) (fmt : BitVec 2) (axis t : Bool) (s : State) : Res :=
  guarded (matCheck (.mBind ws d a b clr fmt axis t)) (fun s => s.enqueue (.mBind ws d a b clr fmt axis t) (some (d, ws))) s

/-- `m.drain.wrap` (16 R382). -/
def execMDrainWrap (ws : Bool) (d a b : Opnd) (tr t : Bool) (lbl : BitVec 8) (s : State) : Res :=
  guarded (matCheck (.mDrainWrap ws d a b tr t lbl)) (fun s => s.enqueue (.mDrainWrap ws d a b tr t lbl) (some (d, ws))) s

/-- `m.drain.sat` (16 R382). -/
def execMDrainSat (ws : Bool) (d a b : Opnd) (tr t : Bool) (lbl : BitVec 8) (s : State) : Res :=
  guarded (matCheck (.mDrainSat ws d a b tr t lbl)) (fun s => s.enqueue (.mDrainSat ws d a b tr t lbl) (some (d, ws))) s

/-- `m.drain.rq` (16 R382). -/
def execMDrainRq (ws : Bool) (d a b : Opnd) (tr t : Bool) (lbl : BitVec 8) (s : State) : Res :=
  guarded (matCheck (.mDrainRq ws d a b tr t lbl)) (fun s => s.enqueue (.mDrainRq ws d a b tr t lbl) (some (d, ws))) s

/-- `m.drain.flt` (16 R382). -/
def execMDrainFlt (ws : Bool) (d a b : Opnd) (tr t : Bool) (lbl : BitVec 8) (s : State) : Res :=
  guarded (matCheck (.mDrainFlt ws d a b tr t lbl)) (fun s => s.enqueue (.mDrainFlt ws d a b tr t lbl) (some (d, ws))) s

/-- `m.spill` (16 R380). -/
def execMSpill (t : Bool) (lbl : BitVec 8) (s : State) : Res :=
  guarded (matCheck (.mSpill t lbl)) (fun s => s.enqueue (.mSpill t lbl) none) s

/-- `m.fill` (16 R380). -/
def execMFill (t : Bool) (lbl : BitVec 8) (s : State) : Res :=
  guarded (matCheck (.mFill t lbl)) (fun s => s.enqueue (.mFill t lbl) none) s

/-- `m.topo` (16 R385). -/
def execMTopo (h t : Bool) (a b : Opnd) (s : State) : Res :=
  guarded (matCheck (.mTopo h t a b)) (fun s => s.enqueue (.mTopo h t a b) none) s

/-- `m.wait` (16 R370). -/
def execMWait (ws : Bool) (d : Opnd) (s : State) : Res :=
  guarded (matCheck (.mWait ws d)) (fun s => s.enqueue (.mWait ws d) (some (d, ws))) s

/-! ## Completion (16 R369) -/

/-- A product operation, whose columns the checker compares (16 R377). -/
def MatCmd.isProduct (q : MatCmd) : Bool :=
  match q.op with
  | .mMma _ _ _ _ _ _ => true
  | .mTopo _ _ _ _ => true
  | _ => false

/-- The checker finds a mismatch in a product operation that was not dropped: RES everywhere, and RESE (16 R377). -/
def MRun.residue (r : MRun) (q : MatCmd) : MRun :=
  if q.isProduct && !r.dropped then { r.flag stRese with s := r.s.resAll } else r

/-- The end of a command: status bits, poison, leave, result. `mismatch` is the checker's finding. -/
def State.finishCmd (s : State) (q : MatCmd) (mismatch : Bool) : State :=
  let r := if mismatch then (s.runCmd q).residue q else s.runCmd q
  let s := match r.pz with
    | some va => (if r.et0 then r.s.poisonReport r.s.curCore r.s.curCtx else r.s).raise cPoison va
    | none => r.s
  let s := match q.grant with
    | some cls => s.leaveDone (dieOf s.curCore) s.curAgent cls
    | none => s
  let owner := s.curRec.map fun x => (x.grid, x.team)
  let wait : Bool := match q.op with
    | .mWait _ _ => true
    | _ => false
  let bits := if wait then s.ctx.mstat.toNat else r.bits
  let s := s.modCtx fun c => { c with mstat := if wait then 0 else c.mstat ||| BitVec.ofNat 7 r.bits }
  match q.result with
  | some id => s.deliver s.curCore s.curCtx id (BitVec.ofNat 2048 (s.core.status owner bits r.nsat))
  | none => s

/-- The memory that a command reaches. -/
def MatCmd.segs (q : MatCmd) : List Seg := q.routes.flatMap fun r => r.2.2

/-- The tick at which a queued command that must wait looks again: the end of its core's drain for a split where it uses the scratchpad
(09 R219); while a line of its memory is under a transaction, or has no entry and no room for one, in two ticks (03 R67, R70, R71). -/
def State.cmdHeld (s : State) (c : Fin 192) (q : MatCmd) : Option Nat :=
  let spad := q.uses.any fun u => match u.spot with
    | .spad _ => true
    | _ => false
  let lines := q.segs.flatMap fun g => if g.place.c then (cutAt 128 g.place.dpa g.len).map (·.1 / 128) else []
  let wants := (lines.map fun l => (l, s.mem.needWays l)).dedup
  match if spad then (s.coreAt c).drain.map Prod.snd else none with
  | some t => some t
  | none => if segsBusy s q.segs || lines.any (fun l => !s.mem.roomFor wants l) then some (s.now + 2) else none

/-- MATRIX_COMMAND_COMPLETE: the oldest command of core `core` performs and leaves the queue. With `flag`, a failing array makes
the residue checker find a mismatch (16 R377). -/
def execMatrixCommandComplete (s : State) : Res :=
  let c := s.arg.core
  match (s.coreAt c).engine.queue with
  | [] => .next s
  | q :: rest =>
    -- while the core's clock stands no command performs; its wake announces the queue again (01 R33)
    if s.frozen c then .next s
    else
    match s.cmdHeld c q with
    | some t => .next ((s.askSegs (q.uses.any (·.write)) (dieOf c) (hallOf c) q.segs).timer (t - s.now) .matrixCommandComplete s.arg)
    | none =>
    let t := s.at_ c q.ctx
    let t := t.finishCmd q s.arg.flag
    let t := t.modCore fun k => { k with engine := { k.engine with queue := rest, stale := k.engine.stale - 1 } }
    .next ((((t.settleLeaving c q.ctx).settleKilled c q.ctx).addBusy c).at_ s.curCore s.curCtx)

end Sys2Proof.Machine
end

