-- ==== Sys2Proof/Machine/Finz.lean ====
section
/-! DEFINITION. Sending and accepting Finzon messages: routing, sequence numbers, acknowledgement, windows (04 R93 to R98). -/

namespace Sys2Proof.Machine

/-! ## Routing (04 R96, R97) -/

def unassigned : Nat := 0x1FFFFF

/-- Bytes of the NODES field: destination in bits 20:0, source in bits 41:21. The hash of a route is taken over these six bytes, the
bits above them zero (log entry 76). -/
def nodesBytes (dst src : Nat) : List Byte := bytesOfNat 6 (dst + src * 2 ^ 21)

def groupOf (node : Nat) : Nat := bitsN node 12 9
def memberOf (node : Nat) : Nat := bitsN node 0 12

/-- The port a message leaves by; `j` is 0, or the SEQ of a checkpoint chunk. None where no route is left. -/
def Finzon.port (f : Finzon) (dst src j : Nat) : Option Nat :=
  let e := if groupOf dst = groupOf f.nid.toNat then tget f.mtab (memberOf dst) (false, 0) else tget f.gtab (groupOf dst) (false, 0)
  let ports := (List.range 16).filter fun i => e.1 && e.2.getLsbD i && getIdx f.up i false
  if ports.isEmpty then none else ports[(crc32c (nodesBytes dst src) + j) % ports.length]?

/-- BADMSG counts a discarded message (04 R94, R96, R97). -/
def State.badMsg (s : State) : State := s.modFz fun f => { f with badmsg := f.badmsg + 1 }

/-- The event that delivers a message of this part to itself (04 R97). -/
def msgEvent (m : FinzonMsg) : Instr :=
  match m.typ with
  | 1 => .finzonPut
  | 2 => .finzonGet
  | 3 => .finzonGetData
  | 4 => .finzonAtomic
  | 5 => .finzonAtomicResult
  | 6 => .finzonAck
  | 7 => .finzonNak
  | 8 => .finzonCollective
  | _ => .finzonReservedType

/-! ## The bits of a message (04 R94) -/

/-- Bytes 251:0 of the header flit. The operands lie in the halves of OPND. With LEN > 128 all of the data lies in the data flits, and INL
is zero (log entry 76). -/
def msgHead (m : FinzonMsg) : List Byte :=
  bytesOfNat 1 m.typ ++ bytesOfNat 1 (b2n m.resp) ++ nodesBytes m.dst m.src ++ bytesOfNat 4 m.seq ++ bytesOfNat 2 m.win ++
    bytesOfNat 2 m.stat ++ bytesOfNat 8 m.va ++ bytesOfNat 4 m.len ++ bytesOfNat 4 m.tag ++ bytesOfNat 16 m.opnd0 ++
    bytesOfNat 16 m.opnd1 ++ padTo 128 (if m.data.length ≤ 128 then m.data else []) ++ List.replicate 60 0

/-- The data flits: none for data that is carried inline, else the data, padded to whole flits of 256 bytes. -/
def msgData (m : FinzonMsg) : List Byte :=
  if m.data.length ≤ 128 then [] else padTo (roundUp m.data.length 256) m.data

/-- A whole message: header flit with its CRC over everything else, then the data flits. -/
def msgFlits (m : FinzonMsg) : List Byte :=
  let c := crc32c (msgHead m ++ msgData m)
  msgHead m ++ bytesOfNat 4 c ++ msgData m

/-- The data bytes of a message of LEN > 128 lie in data flits. -/
def flitData (bs : List Byte) (len : Nat) : List Byte := if len ≤ 128 then (bs.drop 64).take len else (bs.drop 256).take len

/-- What a port reads from the flits of a message; the CRC covers bytes 251:0 and every data flit. Only a message with data carries
LEN bytes: one that asks for data (TYPE 2) or for an atomic (4, 5) carries none. -/
def msgOfFlits (bs : List Byte) : FinzonMsg :=
  let typ := fieldAt bs 0 1
  let nodes := fieldAt bs 2 6
  let len := fieldAt bs 24 4
  let carries : Bool := typ == 1 || typ == 3 || typ == 8
  { typ := typ, resp := bitN (fieldAt bs 1 1) 0, dst := bitsN nodes 0 21, src := bitsN nodes 21 21, seq := fieldAt bs 8 4
    win := fieldAt bs 12 2, stat := fieldAt bs 14 2, va := bitsN (fieldAt bs 16 8) 0 56, len := len, tag := fieldAt bs 28 4
    opnd0 := fieldAt bs 32 16, opnd1 := fieldAt bs 48 16, data := if carries then flitData bs len else []
    crcOk := fieldAt bs 252 4 == crc32c (bs.take 252 ++ bs.drop 256) }

/-- The message of a fabric event: the flits that arrived where the event carries them, else the message as a record. -/
def finzonOf (a : EvArgs) : FinzonMsg := if a.bytes.isEmpty then a.msg else msgOfFlits a.bytes

/-- Put a message on its way. None where it is not sent. -/
def State.launchMsg (s : State) (j : Nat) (m : FinzonMsg) : Option State :=
  let f := s.fz
  if m.dst = unassigned then none
  else if m.dst = f.nid.toNat then some (s.post (msgEvent m) { msg := m })
  else
    match f.port m.dst m.src j with
    | none => none
    | some p => some (s.modFz fun f => { f with sent := f.sent ++ [(p, m)] })

/-- A message that is kept until it is acknowledged (04 R95): it takes the pair's next SEQ, and 10 µs without ACK send it
again. Answers its SEQ. -/
def State.sendKept (s : State) (j : Nat) (job : Option Nat) (m : FinzonMsg) : Option (Nat × State) :=
  let q := tget s.fz.nextSeq m.dst 0
  let m := { m with src := s.fz.nid.toNat, seq := q }
  match s.launchMsg j m with
  | none => none
  | some s =>
    some (q, (s.modFz fun f =>
      { f with
        nextSeq := tset f.nextSeq m.dst ((q + 1) % 2 ^ 32) 0
        kept := f.kept ++ [⟨m, 0, job, j⟩] }).timer 12000 .finzonResendTimeout { num := m.dst, id := q })

/-- ACK or NAK of a message, on the response channel; one that finds no route is discarded and counted (log entry 76). -/
def State.answerMsg (s : State) (m : FinzonMsg) (nak : Option Nat) : State :=
  let r : FinzonMsg :=
    { typ := if nak.isSome then 7 else 6, resp := true, dst := m.src, src := s.fz.nid.toNat, seq := m.seq, stat := nak.getD 0,
      tag := m.tag, va := m.va, win := m.win }
  match s.launchMsg 0 r with
  | some s => s
  | none => s.badMsg

/-! ## Accepting (04 R88, R94, R95) -/

inductive Accept where
  /-- in its turn: perform it -/
  | take (s : State)
  /-- answered, held or discarded -/
  | done (s : State)

/-- The part is asleep for a message (04 R88). Answers to its own requests are still taken during the 1 ms for which it waits for them. -/
def State.asleep (s : State) (m : FinzonMsg) : Bool :=
  s.power.d3hot && !((m.typ == 3 || m.typ == 5) && decide (s.now < s.power.d3At + msTicks))

/-- What the receiver does before a message performs: CRC, sleep, order. A held message is delivered when its turn comes. A message whose
SEQ has had its turn has been answered, and is answered ACK again, also where its first answer was a NAK (log entry 76). -/
def State.accept (s : State) (m : FinzonMsg) : Accept :=
  let want := tget s.fz.expectSeq m.src 0
  if m.dst ≠ s.fz.nid.toNat ∨ m.dst = unassigned then .done s.badMsg
  else if !m.crcOk then .done (s.answerMsg m (some 1))
  else if m.seq = want then
    let s := s.modFz fun f => { f with expectSeq := tset f.expectSeq m.src ((want + 1) % 2 ^ 32) 0 }
    let s := match s.fz.held.find? fun x => x.src == m.src && x.seq == (want + 1) % 2 ^ 32 with
      | some x => (s.modFz fun f => { f with held := f.held.erase x }).post (msgEvent x) { msg := x }
      | none => s
    -- in D3hot the message has had its turn and is answered ASLEEP (04 R88)
    if s.asleep m then .done (s.answerMsg m (some 4)) else .take s
  else if (m.seq + 2 ^ 32 - want) % 2 ^ 32 < 2 ^ 31 then
    .done (s.modFz fun f => { f with held := if f.held.contains m then f.held else f.held ++ [m] })
  else .done (s.answerMsg m none)

/-! ## Windows (04 R98) -/

/-- The window of a message, none where it is unset. -/
def State.window (s : State) (win : Nat) : Option RemoteWin := (s.fz.windows.find? fun p => p.1 == win).map Prod.snd

/-- A message's bytes stay inside one 64 KiB block and are at most 65,536 (04 R99). -/
def msgSpan (va len : Nat) : Bool := decide (va % 65536 + len ≤ 65536)

/-- Remote accesses undergo every check of the window's context (04 R98). -/
def State.remoteWho (s : State) (w : RemoteWin) : Who := ⟨w.dctx, (s.dctxOf w.dctx).dtsr.toNat * 4096, true⟩

/-! ## Messages of jobs -/

/-- Cut [va, va + len) at the 64 KiB boundaries of the VA: (va, offset, length) (04 R99). -/
def msgCuts (va len : Nat) : List (Nat × Nat × Nat) := cutAt 65536 va len

/-- A remote flag post of CA 2 (06 R154): the manual gives it no TYPE, so it travels as a put of no bytes whose operands name
the flag and the team (log entry 18). -/
def flagPost (node win team flag tag : Nat) : FinzonMsg :=
  { typ := 1, dst := node, win := win, len := 0, tag := tag, opnd0 := team, opnd1 := 2 ^ 32 + flag }

end Sys2Proof.Machine
end

