-- ==== Sys2Proof/Machine/Jobs.lean ====
section
/-! DEFINITION. Jobs: the copy slot, the checks of a card, the regions of a job as byte strings, and the hall scheduler (06 R152 to
R158; 17 R388 to R391, R401, R402; 09 R218). -/

namespace Sys2Proof.Machine

/-! ## Cards (06 R152 to R154) -/

def cardFp (card : Block) : Nat := bitsN card.toNat 8 8
def cardMu (card : Block) : Nat := bitsN card.toNat 16 8
def cardDone (card : Block) : Nat := bitsN card.toNat 448 64
def doneCa (d : Nat) : Nat := bitsN d 0 3
def doneScope (d : Nat) : Nat := bitsN d 3 3
def doneFlag (d : Nat) : Nat := bitsN d 6 5
def doneCarg (d : Nat) : Nat := bitsN d 11 53

/-- Job statuses (06 R155). -/
def jsFootprint : Nat := 1
def jsUnknown : Nat := 2
def jsBad : Nat := 3
def jsHost : Nat := 4
def jsCapacity : Nat := 5
def jsLinkDown : Nat := 6
def jsNoRoute : Nat := 7
def jsRemote : Nat := 8
def jsColl : Nat := 9
def jsCancelled : Nat := 10
def jsPoison : Nat := 11

/-- The status of a fault that an engine meets (06 R155, 09 R234). -/
def troubleStatus (t : Trouble) : Nat :=
  if t.cause = cTranslation then 12 else if t.cause = cProtection then 13 else if t.cause = cPageAttr then 14
  else if t.cause = cTsrRange ∨ t.cause = cTensorRange then 15 else if t.cause = cPoison then jsPoison else jsBad

/-- OPX is within the layout of its operation (17 R390). -/
def opxOk (op x : Nat) : Bool :=
  match op with
  | 1 => bitsN x 25 7 == 0
  | 2 => bitsN x 0 18 != 0 && bitsN x 19 13 == 0
  | 3 => bitsN x 0 18 != 0 && bitsN x 19 13 == 0
  | 4 => true
  | 5 => bitsN x 17 15 == 0
  | 6 => bitsN x 17 15 == 0
  | 7 => bitsN x 23 9 == 0
  | 8 => decide (bitsN x 0 3 < 6) && decide (bitsN x 3 2 < 3) && bitsN x 19 13 == 0
  | 9 => bitsN x 1 31 == 0
  | 11 => bitsN x 4 28 == 0
  | _ => true

/-- CARG is zero where its format shows zero (06 R154). -/
def cargOk (d : Nat) : Bool :=
  let c := doneCarg d
  match doneCa d with
  | 0 => c == 0
  | 1 => bitsN c 32 21 == 0
  | 2 => true
  | 3 => bitsN c 8 45 == 0
  | 4 => bitsN c 32 21 == 0
  | 5 => bitsN c 31 22 == 0
  | _ => false

def doneOk (d : Nat) : Bool :=
  decide (doneCa d < 6) && decide (doneScope d < 5) && cargOk d && (doneCa d != 2 || doneScope d == 4)

def Region.isBad : Region → Bool
  | .bad => true
  | _ => false

def Region.isRemote : Region → Bool
  | .remote _ _ _ => true
  | _ => false

/-- KIND of a region. -/
def Region.kind : Region → Nat
  | .unused => 0
  | .flat _ _ => 1
  | .host _ _ => 2
  | .tensor _ _ _ => 3
  | .remote _ _ _ => 4
  | .bad => 7

/-- The row of R155 on formats: kinds, CA, SCOPE, zero bits, lengths, partners. -/
def formatOk (card : Block) : Bool :=
  let regs := (List.range 4).map (cardRegion card)
  let remotes := regs.countP Region.isRemote
  let partner (i : Nat) : Nat := (cardRegion card (if i = 0 then 1 else 0)).kind
  bitsN card.toNat 24 8 == 0 && regs.all (fun r => !r.isBad) && decide (remotes ≤ 1) &&
    ((List.range 4).all fun i => !(cardRegion card i).isRemote || partner i == 1 || partner i == 2) && doneOk (cardDone card)

/-- The rows of R155 on a card's own bits: none for a card that passes. No operation defines an optional field (17 R390). -/
def cardFault (card : Block) (wantOp : Nat) (thread : Bool) : Option Nat :=
  let op := cardOp card
  if op = 0 ∨ 12 ≤ op then some jsBad
  else if (cardMu card &&& cardFp card) ≠ cardMu card then some jsBad
  else if (cardMu card &&& cardFp card) ≠ 0 then some jsUnknown
  else if (wantOp ≠ 0 ∧ op ≠ wantOp) ∨ (thread ∧ op = 10) then some jsBad
  else if !formatOk card then some jsBad
  else none

/-! ## On whose behalf (09 R234) -/

/-- The address space of a job. -/
def State.jobWho (s : State) (j : Job) : Who :=
  match j.owner with
  | .thread _ => s.whoOfGrid j.grid
  | .packet d _ _ _ _ _ _ _ _ => s.fwWho d
  | .plan id =>
    match s.planOf id with
    | some p => ⟨p.dctx, p.tbase, p.pkt.isNone⟩
    | none => Who.none

def Job.die (j : Job) : Nat := j.hall / 12

/-- The context that the job's issuer runs on. -/
def State.issuerCtx (s : State) (j : Job) : Option (Fin 192 × Fin 4) :=
  match j.owner with
  | .thread va => ((s.recOf va j.grid).bind (·.onCtx)).map splitAgent
  | .plan id => ((s.planOf id).bind fun p => p.owner.bind fun va => (s.recOf va j.grid).bind (·.onCtx)).map splitAgent
  | _ => none

/-- Substitutions count for the issuing context (02 R50, R51), in its saved block when it is off its context. -/
def State.substJob (s : State) (j : Job) (n : Nat) : State :=
  if n = 0 then s
  else
    match s.issuerCtx j, j.owner with
    | some p, _ => s.addSubst (agentOf p.1 p.2) n
    | none, .thread va =>
      (match s.recOf va j.grid with
      | some r =>
        if !r.saved then s
        else
          match s.frameRead j.die r.grid r.team r.fsp r.frame 0x400 with
          | .error _ => s
          | .ok bs =>
            let x := satAdd (BitVec.ofNat 48 (fieldAt bs 0x3D8 8)) n
            (match s.frameWrite j.die r.grid r.team r.fsp r.frame (bs.take 0x3D8 ++ bytesOfNat 8 x.toNat ++ bs.drop 0x3E0) with
            | .ok t => t
            | .error _ => s)
      | none => s)
    | none, _ => s

/-! ## Regions as byte strings (17 R391) -/

/-- Length of a region; a fault while a shape record is read gives its status. -/
def State.regionLen (s : State) (j : Job) (i : Nat) : Except Nat Nat :=
  match cardRegion j.card i with
  | .flat _ n => .ok n
  | .host _ n => .ok n
  | .tensor id f l =>
    (match readTsr s (s.jobWho j) id with
    | .ok t => .ok ((l + 1 - f) * t.size)
    | .error e => .error (troubleStatus e))
  | .remote _ _ _ => .ok (partnerLen j.card i)
  | _ => .ok 0

/-- The bytes [off, off + len) of the tiles of a shape record from `first` on, tile by tile. -/
def State.tilePieces (s : State) (who : Who) (n : Need) (t : Tsr) (first off len : Nat) : List (Except Trouble Seg) :=
  (cutAt t.size off len).map fun c =>
    match translateTile s who n t (first + c.1 / t.size) (t.ttp + 8 * (first + c.1 / t.size)) with
    | .error e => .error e
    | .ok p => .ok ⟨0, { p with dpa := p.dpa + c.1 % t.size }, c.2.1, c.2.2⟩

/-- The bytes [off, off + len) of a tensor region as segments: the byte stream of its tiles. -/
def State.tensorSegs (s : State) (who : Who) (n : Need) (id first off len : Nat) : Except Trouble (List Seg) :=
  match readTsr s who id with
  | .error e => .error e
  | .ok t => gatherSegs (s.tilePieces who n t first off len)

/-- Entries of a die's ATC (04 R87). -/
def atcSize : Nat := 1024

/-- The ATC takes an entry; the oldest gives way where it is full. -/
def atcAdd (l : List AtcEntry) (e : AtcEntry) : List AtcEntry := (l ++ [e]).drop (l.length + 1 - atcSize)

/-- A job may use a cached translation for the access. -/
def AtcEntry.serves (e : AtcEntry) (pasid page job : Nat) (write : Bool) : Bool :=
  e.pasid == pasid && e.page == page && (if write then e.w else e.r) && e.only.all (·.contains job)

/-- One host page of a job: cached in the die's ATC, or asked of the host and cached; none where the request fails or grants less
access than the region needs. -/
def State.hostPage (s : State) (j : Job) (pasid page : Nat) (write : Bool) : Option State :=
  let die : Fin 4 := ⟨j.die % 4, Nat.mod_lt _ (by decide)⟩
  if (s.dieAt die).atc.any (·.serves pasid page j.id write) then some s
  else
    match s.atsGrants.find? fun g => g.1 == pasid && g.2.1 == page with
    | none => none
    | some g =>
      if !(if write then g.2.2.2 else g.2.2.1) then none
      else
        some (s.modDie die fun d => { d with
          atc := atcAdd (d.atc.filter fun e => !(e.pasid == pasid && e.page == page && e.only.isNone))
            ⟨pasid, page, g.2.2.1, g.2.2.2, none⟩ })

/-- Host pages that ATS grants (04 R87): every page of the range, with the access needed. -/
def State.hostPages (s : State) (j : Job) (dctx va len : Nat) (write : Bool) : Option State :=
  let pasid := (s.dctxOf dctx).pasid.toNat
  (cutAt 4096 va len).foldlM (fun (s : State) c => s.hostPage j pasid (c.1 / 4096) write) s

/-- Bytes that the manual does not state: free values (log entry 9). -/
def State.freeBytes : Nat → State → List Byte × State
  | 0, s => ([], s)
  | n + 1, s =>
    let x := s.free
    let r := State.freeBytes n x.2
    (x.1.setWidth 8 :: r.1, r.2)

/-- Scratchpad bytes read by the engine of a job: an uncorrectable read raises POISON against the thread that issued it (09 R227). -/
def State.spadTake (s : State) (j : Job) (t : Team) (va len : Nat) : List Byte × State :=
  let x := t.spadRead (va % 2 ^ 48) len
  let s := s.spadSeen j.grid j.team (va % 2 ^ 48) len
  (x.1, if x.2 then (match j.owner with
    | .thread r => s.raiseRec r j.grid cPoison va
    | _ => s) else s)

/-- Read bytes of region `i` of a job. -/
def State.regRead (s : State) (j : Job) (i off len : Nat) : Except Nat (Got × State) :=
  let who := s.jobWho j
  if len = 0 then .ok (Got.empty, s)
  else
    match cardRegion j.card i with
    | .flat va _ =>
      if inAperture va then
        (match s.teamOf j.grid j.team with
        | none => .error jsBad
        | some t =>
          let x := s.spadTake j t (va + off) len
          .ok (⟨x.1, [], false⟩, x.2))
      else
        (match s.vaRead j.die who (va + off) len with
        | .error e => .error (troubleStatus e)
        | .ok r => .ok (r.1, r.2.hotVa (j.hall / 4) who needR (va + off) len))
    | .host va _ =>
      (match s.hostPages j who.dctx (va + off) len false with
      | some t => .ok (⟨Memory.read t.hostMem (va + off) len, [], false⟩, t)
      | none => .error jsHost)
    | .tensor id f _ =>
      (match s.tensorSegs who needR id f off len with
      | .error e => .error (troubleStatus e)
      | .ok segs => .ok ((s.hotSegs (j.hall / 4) segs).engRead j.die segs))
    | _ => .ok (Got.empty, s)

/-- Write bytes of region `i` of a job. -/
def State.regWrite (s : State) (j : Job) (i off : Nat) (bs : List Byte) : Except Nat State :=
  let who := s.jobWho j
  if bs.isEmpty then .ok s
  else
    match cardRegion j.card i with
    | .flat va _ =>
      if inAperture va then .ok (s.modTeam j.grid j.team fun t => t.spadWrite (va % 2 ^ 48 + off) bs)
      else
        (match s.vaWrite j.die who (va + off) bs with
        | .error e => .error (troubleStatus e)
        | .ok r => .ok ((r.2.hotVa (j.hall / 4) who needW (va + off) bs.length).substJob j r.1))
    | .host va _ =>
      (match s.hostPages j who.dctx (va + off) bs.length true with
      | some t => .ok { t with hostMem := Memory.write t.hostMem (va + off) bs }
      | none => .error jsHost)
    | .tensor id f _ =>
      (match s.tensorSegs who needW id f off bs.length with
      | .error e => .error (troubleStatus e)
      | .ok segs => let r := (s.hotSegs (j.hall / 4) segs).engWrite j.die segs bs; .ok (r.2.substJob j r.1))
    | _ => .ok s

/-- The tick at which the drain of the core that holds a team ends, while it drains for a split (09 R219). -/
def State.spadDrain (s : State) (grid team : Nat) : Option Nat :=
  ((s.teamOf grid team).bind (·.core)).bind fun c => if h : c < 192 then (s.coreAt ⟨c, h⟩).drain.map Prod.snd else none

/-- A region that the job's engine writes lies in the scratchpad. -/
def nearWrite (card : Block) (i : Nat) : Bool :=
  regW (cardReg card i) && (match cardRegion card i with
    | .flat va _ => inAperture va
    | _ => false)

/-- The memory of a region; none where it does not translate. -/
def State.regSegs (s : State) (j : Job) (i : Nat) : List Seg :=
  let who := s.jobWho j
  let n := if regW (cardReg j.card i) then needW else needR
  match cardRegion j.card i, s.regionLen j i with
  | .flat va _, .ok len => if inAperture va then [] else (translateRange s who n va len).toOption.getD []
  | .tensor id f _, .ok len => (s.tensorSegs who n id f 0 len).toOption.getD []
  | _, _ => []

/-- The lines of a region are under a transaction or a migration switch (03 R67, R81), or its scratchpad drains (09 R219). -/
def State.regBusy (s : State) (j : Job) (i : Nat) : Bool :=
  nearWrite j.card i && (s.spadDrain j.grid j.team).isSome || segsBusy s (s.regSegs j i)

/-- The requests of a job's engine for the busy lines of its regions (03 R67). -/
def State.regsAsk (s : State) (j : Job) : State :=
  let die : Fin 4 := ⟨j.die % 4, Nat.mod_lt _ (by decide)⟩
  let hall : Fin 48 := ⟨j.hall % 48, Nat.mod_lt _ (by decide)⟩
  (List.range 4).foldl (fun t i => t.askSegs (regW (cardReg j.card i)) die hall (s.regSegs j i)) s

/-- The largest granule class of the pages that a region touches, for the leave of its bursts (01 R28). Pages of it that do not translate
have no class; the bursts to and from the others need leave all the same. -/
def State.regGran (s : State) (who : Who) (card : Block) (i : Nat) : Nat :=
  let any : Need := ⟨false, false, false⟩
  let segs : List Seg := match cardRegion card i with
    | .flat va len => if inAperture va then [] else reached (rangePieces s who any va len)
    | .tensor id f l =>
      (match readTsr s who id with
      | .ok t => reached (s.tilePieces who any t f 0 ((l + 1 - f) * t.size))
      | .error _ => [])
    | _ => []
  (segs.map fun g => g.place.gran).foldl max 0

/-- Leave class of a card's bursts: G256 and G512 pages (01 R28). -/
def State.cardBurst (s : State) (who : Who) (card : Block) : Option (BitVec 2) :=
  let g := ((List.range 4).map (s.regGran who card)).foldl max 0
  if g = 3 then some 1 else if g = 4 then some 2 else none

def State.burstClass (s : State) (j : Job) : Option (BitVec 2) := s.cardBurst (s.jobWho j) j.card

/-! ## JOB_CARD_ENTRY (06 R155) -/

/-- KIND and W of the four regions as an operation has them (17 R391): kinds allowed and whether written. -/
def regionTable (op opx : Nat) : List (List Nat × Bool) :=
  match op with
  | 1 => [([1, 2, 3, 4], false), ([1, 2, 3, 4], true), ([0], false), ([0], false)]
  | 2 => [([1, 2, 3], false), ([1], false), ([1, 2, 3], true), ([0], false)]
  | 3 => [([1, 2, 3], false), ([1], false), ([1, 2, 3], true), ([0], false)]
  | 4 => [([1, 2, 3], true), ([0], false), ([0], false), ([0], false)]
  | 5 => [([1], false), ([0], false), ([0], false), ([0], false)]
  | 6 => [([0], false), ([0], false), ([0], false), ([0], false)]
  | 7 => [([1], false), ([0], false), ([0], false), ([0], false)]
  | 8 => [([1], false), ([1], false), ([1], true), ([0], false)]
  | 9 => [([1], bitN opx 0), ([0], false), ([0], false), ([4], !bitN opx 0)]
  | 11 => [([1], false), ([1], true), ([0], false), ([4], true)]
  | _ => []

def regionsOk (card : Block) : Bool :=
  let t := regionTable (cardOp card) (cardOpx card)
  t.isEmpty || (t.zipIdx.all fun p => p.1.1.contains (cardRegion card p.2).kind && regW (cardReg card p.2) == p.1.2)

/-- A region partly in the aperture, or beyond the team's scratchpad (09 R218); a range that leaves the VA space. -/
def State.apertureBad (s : State) (j : Job) (i : Nat) : Bool :=
  match cardRegion j.card i with
  | .flat va n =>
    if inAperture va || inAperture (va + n - 1) then
      !(inAperture va && inAperture (va + n - 1)) ||
        (match j.owner with
        | .thread _ => (apertureOff va (((s.gridOf j.grid).map (·.spad)).getD 0) n).isNone
        | _ => true)
    else false
  | _ => false

/-- What a look at the shape record of each tensor region finds, `f` first: the region's status, or none. -/
def State.tensorStatus (s : State) (j : Job) (f : Nat → Bool) : Option Nat :=
  (List.range 4).findSome? fun i =>
    match cardRegion j.card i with
    | .tensor id _ l =>
      (match readTsr s (s.jobWho j) id with
      | .error e => some (troubleStatus e)
      | .ok t => if t.tiles ≤ l then some 15 else none).filter f
    | _ => none

/-- The rows of R155 on the shape records of tensor regions: a fault of any of them comes before the range of any. -/
def State.tensorFault (s : State) (j : Job) : Option Nat := (s.tensorStatus j (· != 15)).orElse fun _ => s.tensorStatus j (· == 15)

/-- The fate that entry gives a card; none where it is accepted to run. What the card alone decides comes before any shape record is
read (06 R155; 17 R390, R391). -/
def State.entryFault (s : State) (j : Job) : Option Nat :=
  let thread : Bool := match j.owner with
    | .thread _ => true
    | _ => false
  (cardFault j.card j.wantOp thread).orElse fun _ =>
    if !opxOk (cardOp j.card) (cardOpx j.card) || !regionsOk j.card || (List.range 4).any (s.apertureBad j) then some jsBad
    else s.tensorFault j

/-- A job ends with a status: JOB_COMPLETE follows. -/
def State.endJob (s : State) (id status : Nat) : State :=
  match s.jobOf id with
  | none => s
  | some j =>
    if j.state == .finishing || j.state == .ended then s
    else (s.modJob id fun j => { j with state := .finishing, status := status, awaiting := [] }).post .jobComplete { id := id }

def hallIx (n : Nat) : Fin 48 := ⟨n % 48, Nat.mod_lt _ (by decide)⟩

/-- A card waits for the earlier matrix accesses of its thread, and behind its thread's earlier cards (06 R156, 10 R245). -/
def State.cardHeld (s : State) (j : Job) : Bool :=
  ((s.issuerCtx j).any fun p => (s.coreAt p.1).engine.queue.any fun q => q.ctx == p.2 && !q.uses.isEmpty) ||
    s.jobs.any fun k => k.state == .entering && k.owner == j.owner && k.grid == j.grid && decide (k.id < j.id)

/-- JOB_CARD_ENTRY: the scheduler accepts the card, writes the tag, and checks it. -/
def execJobCardEntry (s : State) : Res :=
  match s.jobOf s.arg.id with
  | none => .next s
  | some j =>
    if j.state != .entering then .next s
    else if s.cardHeld j then .next (s.timer 8 .jobCardEntry { id := j.id })
    else
      let s := match j.result, s.issuerCtx j with
        | some (id, _), some p => s.deliver p.1 p.2 id (BitVec.ofNat 2048 j.tag)
        | _, _ => s
      match s.entryFault j with
      | some status => .next (s.endJob j.id status)
      | none => .next ((s.modJob j.id fun j => { j with state := .waiting }).post .jobDispatch { hall := hallIx j.hall })

/-! ## JOB_DISPATCH (06 R156, R157) -/

/-- Engine kind of an operation: copy, image, gallery, collective, matrix. -/
inductive EngKind where
  | copy | image | gallery | collective | matrix
  deriving DecidableEq, Repr

def engKind (op : Nat) : EngKind :=
  match op with
  | 5 => .image
  | 6 => .image
  | 7 => .gallery
  | 8 => .collective
  | 10 => .matrix
  | _ => .copy

/-- Two jobs are of one stream (06 R156). A COPY packet's jobs follow one another, so that no two of a stream are in flight. -/
def sameStream (a b : Job) : Bool :=
  match a.owner, b.owner with
  | .thread x, .thread y => x == y && a.grid == b.grid
  | .plan x, .plan y => x == y
  | _, _ => false

/-- Length of a checkpoint's safe tier region for footprints (17 R398). -/
def ckptLen (len : Nat) : Nat := len + 8256 * ceilDiv len (2 ^ 21)

/-- Footprints of a card, with the lengths that a remote atomic and a checkpoint set themselves. -/
def jobFeet (card : Block) : List Foot :=
  let x := cardFeet card
  match cardOp card with
  | 9 => x.map fun f => if f.reg.isRemote then { f with rlen := ckptLen (partnerLen card 3) } else f
  | 11 => x.map fun f => if f.reg.isRemote then { f with rlen := if bitN (cardOpx card) 3 then 8 else 4 } else f
  | _ => x

/-- Expansions and seals of one bank keep their order (12 R301). -/
def sameBank (a b : Job) : Bool :=
  engKind (cardOp a.card) == .image && engKind (cardOp b.card) == .image && a.core == b.core &&
    bitN (cardOpx a.card) 16 == bitN (cardOpx b.card) 16

/-- An earlier in-flight job stands before `j`. -/
def State.blockedBy (s : State) (j e : Job) : Bool :=
  e.inFlight && decide (e.id < j.id) &&
    ((sameStream j e && (jobFeet j.card).any fun a => (jobFeet e.card).any fun b => conflict s (s.jobWho j) a b) || sameBank j e)

def State.jobReady (s : State) (j : Job) : Bool := j.state == .waiting && !s.jobs.any (s.blockedBy j)

/-- Engines of a kind in a hall. -/
def engines : EngKind → Nat
  | .copy => 4
  | .image => 1
  | .gallery => 4
  | .collective => 1
  | .matrix => 4

def jobEvent (card : Block) : Instr :=
  match cardOp card with
  | 1 => .engineCopy
  | 2 => .engineGather
  | 3 => .engineScatter
  | 4 => .engineFill
  | 5 => .engineExpand
  | 6 => .engineSeal
  | 7 => .engineGalleryLoad
  | 8 => .engineCollective
  | 9 => if bitN (cardOpx card) 0 then .engineRestore else .engineCheckpoint
  | 10 => .plannedMatrixWork
  | _ => .engineRemoteAtomic

/-- A free engine of the job's kind. -/
def State.engineFor (s : State) (j : Job) : Bool :=
  let k := engKind (cardOp j.card)
  let busy := s.jobs.filter fun x => x.hall == j.hall && x.state == .running && engKind (cardOp x.card) == k
  if k = .gallery then !(busy.any fun x => x.core == j.core) else decide (busy.length < engines k)

/-- The job's device context is not stopped, and a thread's team is resident (06 R164, R166). -/
def State.jobHome (s : State) (j : Job) : Bool :=
  (!(s.dctxOf j.dctx).stopped || (s.gridOf j.grid).any fun g => g.killed.isSome) && (match j.owner with
    | .thread _ => (s.teamOf j.grid j.team).any fun t => t.core.isSome && !t.stopping
    | _ => true)

/-- The die whose governor gives the job leave: its hall's, for planned matrix work that of its core (01 R28; 07 R192). -/
def jobDie (j : Job) : Fin 4 := ⟨(if cardOp j.card = 10 then j.core / 48 else j.die) % 4, Nat.mod_lt _ (by decide)⟩

/-- Give back the leave that the job's engine holds, and withdraw its request. -/
def State.jobLeaveDone (s : State) (j : Job) : State :=
  (s.modJob j.id fun j => { j with grant := none }).leaveForget (jobDie j) (engineOwner j.id)

/-- The class of leave that a job still needs: its issuer obtained it (01 R30), or its engine asks. -/
def State.lacksLeave (s : State) (j : Job) : Option (BitVec 2) :=
  if j.grant.isSome || engKind (cardOp j.card) == .matrix then none else s.burstClass j

/-- A waiting job that an engine of the hall could take. -/
def State.couldRun (s : State) (hall : Nat) (j : Job) : Bool := j.hall == hall && s.jobReady j && s.engineFor j && s.jobHome j

/-- Jobs that could run but for leave ask for it; no engine waits with them. -/
def State.askForJobs (s : State) (hall : Nat) : State :=
  (s.jobs.filter (s.couldRun hall)).foldl (fun s j => match s.lacksLeave j with
    | some cls => s.leaveAsk (jobDie j) cls j.pri (engineOwner j.id)
    | none => s) s

/-- The job that is issued next: lowest class, then oldest. -/
def State.nextJob (s : State) (hall : Nat) : Option Job :=
  (s.jobs.filter fun j => s.couldRun hall j && (s.lacksLeave j).isNone).foldl
    (fun acc j => match acc with
      | none => some j
      | some b => if j.pri < b.pri || (j.pri == b.pri && decide (j.id < b.id)) then some j else some b) none

/-- The saved jobs that wait for an entry of a hall are issued again, the oldest first, while it has one (06 R157, R164). -/
def State.admitJobs (s : State) (hall : Nat) : State :=
  (s.jobs.filter fun j => j.state == .queued && j.hall == hall && s.jobHome j).foldl (fun s j =>
    if s.jobsOfHall hall < 256 then s.modJob j.id fun j => { j with state := .waiting } else s) s

/-- Issue ready jobs to free engines. -/
def State.dispatchFrom (hall : Nat) : Nat → State → State
  | 0, s => s
  | n + 1, s =>
    match s.nextJob hall with
    | none => s
    | some j =>
      State.dispatchFrom hall n ((s.modJob j.id fun j => { j with state := .running }).post (jobEvent j.card) { id := j.id })

/-- JOB_DISPATCH: the hall issues ready jobs; with `flag`, job `id`, whose leave has been granted, is issued or its engine goes on. -/
def execJobDispatch (s : State) : Res :=
  if s.power.d3hot then .next s
  else if s.arg.flag then
    match s.jobOf s.arg.id with
    | some j =>
      if j.state == .running then .next (s.post (jobEvent j.card) { id := j.id })
      else if j.state == .waiting then .next (s.post .jobDispatch { hall := hallIx j.hall })
      else .next s
    | none => .next s
  else .next ((State.dispatchFrom s.arg.hall.val s.jobs.length (s.admitJobs s.arg.hall.val)).askForJobs s.arg.hall.val)

/-! ## The copy slot (17 R388 to R390) -/

/-- In-flight jobs of a team (06 R157): those of a plan are no team's. -/
def State.jobsOfTeam (s : State) (grid team : Nat) : Nat := s.jobs.countP fun j => j.inFlight && j.grid == grid && j.team == team &&
  (match j.owner with
  | .thread _ => true
  | _ => false)

/-- The card at `va`, as a load of the thread. -/
def State.cardAt (s : State) (va : Nat) : Option (Got × State) :=
  match s.route needR va 64 with
  | .error _ => none
  | .ok r => some ((s.registerRoute r false).readRoute false r 64)

def blockOf (bs : List Byte) : Block := BitVec.ofNat 512 (natOfBytes bs)

/-- A permuting copy whose two regions name one tensor id (17 R392): the test is made on a card whose own bits pass. -/
def copyOverlap (card : Block) (wantOp : Nat) : Bool :=
  (cardFault card wantOp true).isNone && cardOp card == 1 && bitN (cardOpx card) 24 &&
    (match cardRegion card 0, cardRegion card 1 with
    | .tensor x _ _, .tensor y _ _ => x == y
    | _, _ => false)

/-- The leave class of the copy operation that a card describes (01 R28, R30): a card that its checks turn away moves nothing. -/
def State.cardClass (s : State) (card : Block) (wantOp : Nat) : Option (BitVec 2) :=
  if (cardFault card wantOp true).isSome || !opxOk (cardOp card) (cardOpx card) || !regionsOk card then none
  else s.cardBurst s.curWho card

/-- A copy operation stalls in its slot until its grant arrives (01 R30). -/
def copyLeaveCheck (card : Block) (wantOp : Nat) (s : State) : Check :=
  match s.cardClass card wantOp with
  | none => .go
  | some cls => if s.ctx.grant == some cls || s.leaveFits (dieOf s.curCore) cls then .go else .stall .leave cls.toNat

/-- The grant of the context at issue becomes that of job `id`, or a grant that fits is taken for it. Behind a matrix operation of its own
bundle the copy may find none: the request is then made for its engine, and the bundles behind it stall (`State.copyAwait`). -/
def State.copyLeave (s : State) (id : Nat) (card : Block) (wantOp : Nat) : Option (BitVec 2) × State :=
  let die := dieOf s.curCore
  match s.cardClass card wantOp with
  | none => (none, s)
  | some cls =>
    let give (s : State) : State := s.modDie die fun d => { d with grants := d.grants ++ [⟨leaveWeight cls, engineOwner id, false⟩] }
    if s.ctx.grant == some cls then
      (some cls, give ((s.modCtx fun c => { c with grant := none }).modDie die fun d =>
        { d with grants := d.grants.erase ⟨leaveWeight cls, s.curAgent, false⟩ }))
    else if s.leaveFits die cls then (some cls, give s)
    else (none, s)

/-- The copy of job `id`, which has been issued, waits in its slot for the leave that it still lacks; every bundle behind it stalls until the
grant arrives (01 R30). -/
def State.copyAwait (s : State) (id : Nat) : State :=
  match s.jobOf id with
  | none => s
  | some j =>
    match s.lacksLeave j with
    | none => s
    | some cls => (s.leaveAsk (jobDie j) cls j.pri (engineOwner id)).modCtx fun c => { c with copyWait := some id }

/-- The copy operation that issued job `id` still waits for its grant. -/
def State.copyWaits (s : State) (id : Nat) : Bool :=
  (s.jobOf id).any fun j => j.inFlight && (s.lacksLeave j).isSome

def cpCheck (wantOp : Nat) (a : Opnd) (s : State) : Check :=
  let va := (s.ctx.sGet a).toNat
  match s.curRec with
  | none => .go
  | some r =>
    (s.accessCheck needR false true 64 va 64).both
      ((if 64 ≤ s.jobsOfTeam r.grid r.team ∨ 256 ≤ s.jobsOfHall (s.curCore.val / 4) then Check.stall .resource else .go).both
        (match s.cardAt va with
        | none => .go
        | some x =>
          if x.1.poison then .trap cPoison va
          else if copyOverlap (blockOf x.1.bytes) wantOp then .trap 21 va
          else copyLeaveCheck (blockOf x.1.bytes) wantOp s))

/-- The next tag of a team (17 R389). -/
def Team.takeTag (t : Team) : Nat × Team := (t.nextTag.toNat, { t with nextTag := if t.nextTag + 1 = 0 then 1 else t.nextTag + 1 })

/-- Issue a job from the card at A. -/
def State.cpIssue (wantOp : Nat) (ws : Bool) (d a : Opnd) (s : State) : State :=
  let va := (s.ctx.sGet a).toNat
  match s.curRec, s.cardAt va with
  | some r, some x =>
    let s := x.2.addSubst x.2.curAgent x.1.subst.length
    let tag := ((s.teamOf r.grid r.team).map fun t => t.takeTag.1).getD 0
    let s := s.modTeam r.grid r.team fun t => t.takeTag.2
    let o := s.openLong 6 (.s d) ws
    let card := blockOf x.1.bytes
    let id := o.2.nextId
    let g := o.2.copyLeave id card wantOp
    let s := g.2.newJob r tag wantOp va card (some (o.1, agentOf s.curCore s.curCtx)) g.1
    if g.1.isNone && (s.cardClass card wantOp).isSome then s.copyAwait id else s
  | _, _ => s

/-- `cp.copy` (17 R388). -/
def execCpCopy (ws : Bool) (d a : Opnd) (s : State) : Res := guarded (cpCheck 1 a) (State.cpIssue 1 ws d a) s

/-- `cp.gath` (17 R388). -/
def execCpGath (ws : Bool) (d a : Opnd) (s : State) : Res := guarded (cpCheck 2 a) (State.cpIssue 2 ws d a) s

/-- `cp.scat` (17 R388). -/
def execCpScat (ws : Bool) (d a : Opnd) (s : State) : Res := guarded (cpCheck 3 a) (State.cpIssue 3 ws d a) s

/-- `cp.fill` (17 R388). -/
def execCpFill (ws : Bool) (d a : Opnd) (s : State) : Res := guarded (cpCheck 4 a) (State.cpIssue 4 ws d a) s

/-- `cp.expand` (17 R388). -/
def execCpExpand (ws : Bool) (d a : Opnd) (s : State) : Res := guarded (cpCheck 5 a) (State.cpIssue 5 ws d a) s

/-- `cp.seal` (17 R388). -/
def execCpSeal (ws : Bool) (d a : Opnd) (s : State) : Res := guarded (cpCheck 6 a) (State.cpIssue 6 ws d a) s

/-- `cp.gal` (17 R388). -/
def execCpGal (ws : Bool) (d a : Opnd) (s : State) : Res := guarded (cpCheck 7 a) (State.cpIssue 7 ws d a) s

/-- `cp.coll` (17 R388). -/
def execCpColl (ws : Bool) (d a : Opnd) (s : State) : Res := guarded (cpCheck 8 a) (State.cpIssue 8 ws d a) s

/-- `cp.ckpt` (17 R388). -/
def execCpCkpt (ws : Bool) (d a : Opnd) (s : State) : Res := guarded (cpCheck 9 a) (State.cpIssue 9 ws d a) s

/-- `cp.job`: any OP but 10 (17 R388). -/
def execCpJob (ws : Bool) (d a : Opnd) (s : State) : Res := guarded (cpCheck 0 a) (State.cpIssue 0 ws d a) s

/-- The in-flight job of a team with a tag. -/
def State.jobTagged (s : State) (grid team tag : Nat) : Option Job :=
  if tag = 0 then none else s.jobs.find? fun j => j.inFlight && j.grid == grid && j.team == team && j.tag == tag

/-- `cp.cancel a` (17 R402): a job that waits or runs ends CANCELLED; one that is finishing, or whose remote post is on its way,
has ended. -/
def execCpCancel (a : Opnd) (s : State) : Res :=
  match s.curRec with
  | none => .next s
  | some r =>
    match s.jobTagged r.grid r.team (s.ctx.sGet a).toNat with
    | none => .next s
    | some j =>
      if j.state == .posting then .next s
      else .next ((s.modJob j.id fun j => { j with byOther := j.owner != .thread r.va }).endJob j.id jsCancelled)

/-- The word of `cp.stat` (17 R401). -/
def State.statWord (s : State) (grid team tag : Nat) : Nat :=
  match s.jobTagged grid team tag with
  | some j => min j.oor (2 ^ 32 - 1) * 2 ^ 16
  | none =>
    match ((s.teamOf grid team).map (·.recent)).bind fun l => l.find? fun x => x.1 == tag && tag != 0 with
    | some (_, status, oor) => min oor (2 ^ 32 - 1) * 2 ^ 16 + 256 + status
    | none => 2 ^ 63

/-- `cp.stat d, a` (17 R401). -/
def execCpStat (ws : Bool) (d a : Opnd) (s : State) : Res :=
  match s.curRec with
  | none => .next (s.answer 6 (.s d) ws (BitVec.ofNat 64 (2 ^ 63)))
  | some r => .next (s.answer 6 (.s d) ws (BitVec.ofNat 64 (s.statWord r.grid r.team (s.ctx.sGet a).toNat)))

end Sys2Proof.Machine
end

