-- ==== Sys2Proof/Machine/Engines.lean ====
section
/-! DEFINITION. What the engines do with a job: copy, gather, scatter, fill, expand, seal, gallery load, collective, checkpoint,
restore and remote atomic (17 R391 to R400; 02 R50, R51, R57; 04 R95, R99 to R104). -/

namespace Sys2Proof.Machine

/-! ## Reading and writing as an engine -/

/-- What an engine's work gives: a status with the state that its accesses have left, errors that they have counted included (02 R47,
R56), or a value. -/
abbrev Done (α : Type) : Type := Except (Nat × State) α

/-- A failure that leaves the state as it is. -/
def State.orStatus {α : Type} (s : State) (r : Except Nat α) : Done α :=
  match r with
  | .error e => .error (e, s)
  | .ok x => .ok x

/-- The phase entries of whose back half the job is a fill (09 R222); a gallery load stands for all eight, since the manual
names no entry for it (02 R51). -/
def State.fillEntries (s : State) (j : Job) : List Nat :=
  match j.owner with
  | .thread _ =>
    if cardOp j.card = 7 then List.range 8
    else (List.range 8).filter fun e => isFill (s.phase j.grid j.team e) j.card
  | _ => []

/-- Poison of an ET = 0 page reached a back half: PZ is set and the card is kept (09 R222). -/
def State.recordPoison (s : State) (j : Job) : State :=
  let spad := ((s.gridOf j.grid).map (·.spad)).getD 0
  let es := s.fillEntries j
  let s := match j.owner, s.teamOf j.grid j.team with
    | .thread _, some t => (s.spadTake j t (apertureBase + (spad * 2 ^ 17 - 128)) 128).2
    | _, _ => s
  es.foldl (fun s e =>
    let p := s.phase j.grid j.team e
    let s := s.setPhase j.grid j.team e { p with pz := true }
    s.modTeam j.grid j.team fun t =>
      { t with kept := if t.kept.contains (e, j.card) then t.kept else t.kept ++ [(e, j.card)] }) s

/-- Bytes [off, off + len) of region `i`, 32 at a time: those of poisoned granules are free values (log entry 9). The read itself has
been made and counted: this looks at what it returned. -/
def State.takeFine (s : State) (j : Job) (i off len : Nat) : Done (List Byte × State) :=
  let base : Nat := match cardRegion j.card i with
    | .flat va _ => va + off
    | _ => off
  (cutAt 32 base len).foldlM (fun (acc : List Byte × State) c => do
    let r ← acc.2.orStatus (acc.2.regRead j i (off + c.2.1) c.2.2)
    if r.1.poison then
      let f := State.freeBytes c.2.2 acc.2
      return (acc.1 ++ f.1, f.2)
    else return (acc.1 ++ r.1.bytes, acc.2)) ([], s)

/-- Bytes of region `i` as the job consumes them (02 R51): substitutions count for the issuer; poison of an ET = 0 page is
recorded against the buffer phase, or ends the job. -/
def State.take (s : State) (j : Job) (i off len : Nat) : Done (List Byte × State) :=
  match s.regRead j i off len with
  | .error e => .error (e, s)
  | .ok (g, t) =>
    if !g.poison then .ok (g.bytes, t.substJob j g.subst.length)
    else if (t.fillEntries j).isEmpty then .error (jsPoison, t.substJob j g.subst.length)
    else (t.takeFine j i off len).map fun x => (x.1, (x.2.substJob j g.subst.length).recordPoison j)

def State.countBytes (s : State) (id n : Nat) : State := s.modJob id fun j => { j with bytes := j.bytes + n }
def State.countOor (s : State) (id n : Nat) : State := s.modJob id fun j => { j with oor := j.oor + n }

/-- Write bytes of region `i` and count them. -/
def State.give (s : State) (j : Job) (i off : Nat) (bs : List Byte) : Done State :=
  (s.orStatus (s.regWrite j i off bs)).map fun s => s.countBytes j.id bs.length

/-- The commands of a transfer over region `i`: pieces of at most 64 KiB, cut at multiples of 64 KiB of its addresses (06 R164).
Answers (offset, length). -/
def regCuts (card : Block) (i len : Nat) : List (Nat × Nat) :=
  let base : Nat := match cardRegion card i with
    | .flat va _ => va
    | .host va _ => va
    | _ => 0
  (cutAt 65536 base len).map fun c => (c.2.1, c.2.2)

/-- Run commands one after another; a command that fails leaves those before it (06 R158). -/
def runCmds {α : Type} (l : List α) (f : α → State → Done State) (s : State) : Done State :=
  l.foldlM (fun s x => f x s) s

/-! ## The frame of an engine's step -/

/-- What an engine reports: go on later, wait for the fabric, or the end with a status. -/
inductive Work where
  | again (s : State)
  | await (s : State)
  | done (status : Nat) (s : State)

def Work.of (r : Done State) : Work :=
  match r with
  | .error e => .done e.1 e.2
  | .ok s => .done 0 s

/-- Nodes that a card names for its messages. -/
def cardNodes (card : Block) : List Nat :=
  (List.range 4).filterMap fun i => match cardRegion card i with
    | .remote _ node _ => some node
    | _ => none

/-- A message to one of these nodes found no route: one addressed to the node that is never a destination is discarded, and BADMSG
counts it (04 R96). -/
def State.countUnassigned (s : State) (nodes : List Nat) (status : Nat) : State :=
  if status = jsNoRoute ∧ nodes.contains unassigned then s.badMsg else s

/-- The job is one of a team that is being pre-empted. -/
def State.teamStops (s : State) (j : Job) : Bool :=
  match j.owner with
  | .thread _ => (s.teamOf j.grid j.team).any (·.stopping)
  | _ => false

/-- A job that no message is out for goes back: it is issued again at swap-in (06 R164). A job that waits gives its leave back too. -/
def State.stopJob (s : State) (j : Job) : State :=
  if j.state == .running && j.awaiting.isEmpty then
    (s.jobLeaveDone j).modJob j.id fun j => { j with state := .waiting }
  else if j.state == .waiting then s.jobLeaveDone j
  else s

/-- A queued matrix command of the thread that issued the job, and so one that comes before it, meets its regions (10 R245). -/
def State.matBefore (s : State) (j : Job) : Bool :=
  match s.issuerCtx j with
  | none => false
  | some p => (s.coreAt p.1).engine.queue.any fun q => q.ctx == p.2 && q.uses.any fun u =>
      (match u.spot with
      | .gal _ => false
      | _ => true) && (cardFeet j.card).any fun g => conflict s (s.jobWho j) ⟨.flat u.va u.len, 0, u.write⟩ g

/-- One step of the engine that runs job `id`: it waits while a line it needs is under a transaction, and for leave (01 R30), which it
holds until the job is complete (01 R29). In D3hot it stays where it is: the return to D0 makes it go on (04 R88). The engine of a team
that is pre-empted stops between commands (06 R164). -/
def State.engineStep (s : State) (work : Job → State → Work) : Res :=
  match s.jobOf s.arg.id with
  | none => .next s
  | some j =>
    if j.state != .running || s.power.d3hot then .next s
    else if s.teamStops j && j.awaiting.isEmpty then .next (s.stopJob j)
    else if s.matBefore j || (List.range 4).any (s.regBusy j) then
      .next ((s.regsAsk j).timer 2 .jobDispatch { id := j.id, flag := true })
    else
      match s.lacksLeave j with
      | some cls => .next (s.leaveAsk (jobDie j) cls j.pri (engineOwner j.id))
      | none =>
        match work j s with
        | .again t => .next (t.timer 2 .jobDispatch { id := j.id, flag := true })
        | .await t => .next t
        | .done status t => .next (((t.countUnassigned (cardNodes j.card) status).jobLeaveDone j).endJob j.id status)

/-! ## Remote transfers (04 R95, R99) -/

/-- The job has sent a message that it waits for: its acknowledgement, and its data or result where it brings one. -/
def State.awaitMsg (s : State) (id dst seq : Nat) (data : Option Nat) : State :=
  s.modJob id fun j => { j with awaiting := j.awaiting ++ (dst, seq) :: (data.toList.map fun va => (dst + 2 ^ 32, va)) }

/-- Send a message of a job; without a route the job ends with NO_ROUTE (04 R97). -/
def State.jobSend (s : State) (id j : Nat) (m : FinzonMsg) (data : Option Nat) : Done State :=
  match s.sendKept j (some id) m with
  | none => .error (jsNoRoute, s)
  | some (q, s) => .ok (s.awaitMsg id m.dst q data)

/-- Remote put: the bytes of region `i` go out message by message. -/
def putWork (i va node win len : Nat) (j : Job) (s : State) : Work :=
  match runCmds (msgCuts va len) (fun c s => do
      let x ← s.take j i c.2.1 c.2.2
      let s ← x.2.jobSend j.id 0 { typ := 1, dst := node, win := win, va := c.1, len := c.2.2, tag := j.tag, data := x.1 } none
      return s.countBytes j.id c.2.2) s with
  | .error e => .done e.1 e.2
  | .ok s => .await s

/-- Remote get: one message asks for each piece. -/
def getWork (va node win len : Nat) (j : Job) (s : State) : Work :=
  match runCmds (msgCuts va len) (fun c s =>
      s.jobSend j.id 0 { typ := 2, dst := node, win := win, va := c.1, len := c.2.2, tag := j.tag } (some c.1)) s with
  | .error e => .done e.1 e.2
  | .ok s => .await s

/-! ## Copy (17 R392) -/

/-- Identity copy of `len` local bytes: overlapping regions are read whole first. -/
def copyWork (len : Nat) (j : Job) (s : State) : Work :=
  let who := s.jobWho j
  match cardFeet j.card with
  | a :: b :: _ =>
    if overlaps s who a b then
      Work.of (runCmds [()] (fun _ s => do
        let x ← s.take j 0 0 len
        x.2.give j 1 0 x.1) s)
    else
      Work.of (runCmds (regCuts j.card 0 len) (fun c s => do
        let x ← s.take j 0 c.1 c.2
        x.2.give j 1 c.1 x.1) s)
  | _ => .done jsBad s

/-- Coordinate of tile number `k` in a grid of tiles. -/
def unflatten (grid : List Nat) (k : Nat) : List Nat :=
  (grid.reverse.foldl (fun (acc : List Nat × Nat) g => ((acc.2 % g) :: acc.1, acc.2 / g)) ([], k)).1

/-- The coordinates of the elements in one tile, in order. -/
def Tsr.coords (t : Tsr) (k : Nat) : List (List Nat) :=
  let ext := tileExts t.fmt t.rank t.tc
  let at_ := unflatten t.grid k
  let base := List.zipWith (· * ·) at_ ext
  let n := List.zipWith (fun d p => min p.2 (d - p.1)) t.dims (base.zip ext)
  (List.range (n.foldl (· * ·) 1)).map fun i => List.zipWith (· + ·) base (unflatten n i)

/-- The bytes of a tensor's elements, padding left out: (stream offset, length), one run for each row of each tile. -/
def Tsr.runs (t : Tsr) (k : Nat) : List (Nat × Nat) :=
  let ext := tileExts t.fmt t.rank t.tc
  let at_ := unflatten t.grid k
  let base := List.zipWith (· * ·) at_ ext
  let n := List.zipWith (fun d p => min p.2 (d - p.1)) t.dims (base.zip ext)
  let cols := n.getLastD 0
  let rows := if 2 ≤ t.rank then n.getD (t.rank - 2) 0 else 1
  (List.range rows).map fun r =>
    let b := r * ext.getLastD 1 * fmtBits t.fmt
    (k * t.size + b / 8, ceilDiv (b + cols * fmtBits t.fmt) 8 - b / 8)

/-- Place bytes in a sparse byte string. -/
def placeRun (m : Memory) (off : Nat) (bs : List Byte) : Memory := Memory.write m off bs

/-- Read the element bytes of a whole tensor region, each granule once. -/
def State.takeTensor (s : State) (j : Job) (i id : Nat) (t : Tsr) : Done (Memory × State) :=
  let runs := (List.range t.tiles).flatMap t.runs
  match gatherSegs (runs.map fun r => match s.tensorSegs (s.jobWho j) needR id 0 r.1 r.2 with
    | .error e => .error e
    | .ok l => .ok ⟨0, (l.headD ⟨0, ⟨0, 0, false, false, false, false, false, 0, 0⟩, 0, 0⟩).place, r.1, r.2⟩) with
  | .error e => .error (troubleStatus e, s)
  | .ok segs =>
    let r := (s.hotSegs (j.hall / 4) segs).engRead j.die segs
    let t := if i = 0 then r.2.substJob j r.1.subst.length else r.2
    if r.1.poison && (t.fillEntries j).isEmpty then .error (jsPoison, t)
    else
      let fill := (segs.foldl (fun (acc : Memory × List Byte) g =>
        (placeRun acc.1 g.off (acc.2.take g.len), acc.2.drop g.len)) (([] : Memory), r.1.bytes)).1
      .ok (fill, t)

/-- A permuted coordinate: y_i = x_(PERM_i), solved for x. -/
def unpermute (perm : List Nat) (y : List Nat) : List Nat :=
  (List.range perm.length).map fun k => ((perm.zip y).find? fun p => p.1 == k).elim 0 Prod.snd

/-- An element of a tensor from its bytes. -/
def Tsr.elemAt (t : Tsr) (m : Memory) (x : List Nat) : Nat :=
  let l := t.locate x
  let bit := l.1 * t.size * 8 + l.2
  bitsN (Memory.num m (bit / 8) (ceilDiv (bit % 8 + fmtBits t.fmt) 8)) (bit % 8) (fmtBits t.fmt)

/-- Permuting copy: every source element is read, then the destination is written tile by tile, padding left as it is. -/
def permuteWork (j : Job) (s : State) : Work :=
  match cardRegion j.card 0, cardRegion j.card 1 with
  | .tensor a fa la, .tensor b fb lb =>
    (match readTsr s (s.jobWho j) a, readTsr s (s.jobWho j) b with
    | .ok ta, .ok tb =>
      let perm := (List.range ta.rank).map fun i => bitsN (cardOpx j.card) (3 * i) 3
      let high := bitsN (cardOpx j.card) 0 24 / 8 ^ ta.rank
      let ok : Bool := fa == 0 && fb == 0 && la + 1 == ta.tiles && lb + 1 == tb.tiles && ta.fmt == tb.fmt && ta.rank == tb.rank &&
        high == 0 && ((List.range ta.rank).all fun k => perm.contains k) && tb.dims == perm.map (fun p => ta.dims.getD p 0)
      if !ok then .done jsBad s
      else
        match s.takeTensor j 0 a ta with
        | .error e => .done e.1 e.2
        | .ok (src, s) =>
          Work.of (runCmds (List.range tb.tiles) (fun k s => do
            let old ← (if fmtBits tb.fmt = 4 then
              (tb.runs k).foldlM (fun (acc : Memory) r => (s.orStatus (s.regRead j 1 (r.1 + r.2 - 1) 1)).map fun x =>
                placeRun acc (r.1 + r.2 - 1) x.1.bytes) ([] : Memory)
              else .ok [])
            let new := (tb.coords k).foldl (fun (m : Memory) y =>
              let l := tb.locate y
              let bit := l.1 * tb.size * 8 + l.2
              let n := ceilDiv (bit % 8 + fmtBits tb.fmt) 8
              let was := Memory.num m (bit / 8) n
              let w := fmtBits tb.fmt
              let v := ta.elemAt src (unpermute perm y)
              placeRun m (bit / 8) (bytesOfNat n (was - bitsN was (bit % 8) w * 2 ^ (bit % 8) + v * 2 ^ (bit % 8)))) old
            (tb.runs k).foldlM (fun s r => s.give j 1 r.1 (Memory.read new r.1 r.2)) s) s)
    | .error e, _ => .done (troubleStatus e) s
    | _, .error e => .done (troubleStatus e) s)
  | _, _ => .done jsBad s

/-- ENGINE_COPY (17 R392; 04 R99). -/
def execEngineCopy (s : State) : Res :=
  s.engineStep fun j s =>
    if bitN (cardOpx j.card) 24 then permuteWork j s
    else
      match s.regionLen j 0, s.regionLen j 1 with
      | .ok m, .ok n =>
        if m ≠ n ∨ bitsN (cardOpx j.card) 0 24 ≠ 0 then .done jsBad s
        else
          match cardRegion j.card 0, cardRegion j.card 1 with
          | .remote va node win, _ => getWork va node win n j s
          | _, .remote va node win => putWork 0 va node win n j s
          | _, _ => copyWork n j s
      | .error e, _ => .done e s
      | _, .error e => .done e s

/-! ## Gather, scatter, fill (17 R393, R394) -/

def rowBytes (card : Block) : Nat := bitsN (cardOpx card) 0 18
def indexBytes (card : Block) : Nat := if bitN (cardOpx card) 18 then 8 else 4

/-- The indices, signed. -/
def indices (n : Nat) (bs : List Byte) : List Int := (List.range (bs.length / n)).map fun i => sextN (8 * n) (fieldAt bs (n * i) n)

/-- Row r of a table of `len` bytes exists. -/
def rowExists (rowb len : Nat) (r : Int) : Bool := decide (0 ≤ r) && decide ((r + 1) * rowb ≤ len)

/-- ENGINE_GATHER (17 R393). -/
def execEngineGather (s : State) : Res :=
  s.engineStep fun j s =>
    let rowb := rowBytes j.card
    let ib := indexBytes j.card
    match s.regionLen j 0, s.regionLen j 1, s.regionLen j 2 with
    | .ok tlen, .ok xlen, .ok dlen =>
      if xlen % ib ≠ 0 ∨ dlen ≠ xlen / ib * rowb then .done jsBad s
      else
        match s.take j 1 0 xlen with
        | .error e => .done e.1 e.2
        | .ok (bs, s) =>
          let ix := indices ib bs
          let s := s.countOor j.id (ix.countP fun r => !rowExists rowb tlen r)
          Work.of (runCmds (regCuts j.card 2 dlen) (fun c s => do
            let x ← (cutAt rowb c.1 c.2).foldlM (fun (acc : List Byte × State) p => do
              let r := ix.getD (p.1 / rowb) 0
              if rowExists rowb tlen r then
                let y ← acc.2.take j 0 (r.toNat * rowb + p.1 % rowb) p.2.2
                return (acc.1 ++ y.1, y.2)
              else return (acc.1 ++ List.replicate p.2.2 0, acc.2)) (([] : List Byte), s)
            x.2.give j 2 c.1 x.1) s)
    | .error e, _, _ => .done e s
    | _, .error e, _ => .done e s
    | _, _, .error e => .done e s

/-- ENGINE_SCATTER (17 R393). -/
def execEngineScatter (s : State) : Res :=
  s.engineStep fun j s =>
    let rowb := rowBytes j.card
    let ib := indexBytes j.card
    match s.regionLen j 0, s.regionLen j 1, s.regionLen j 2 with
    | .ok vlen, .ok xlen, .ok tlen =>
      if xlen % ib ≠ 0 ∨ vlen ≠ xlen / ib * rowb then .done jsBad s
      else
        match s.take j 1 0 xlen with
        | .error e => .done e.1 e.2
        | .ok (bs, s) =>
          Work.of (runCmds (indices ib bs).zipIdx (fun p s =>
            if rowExists rowb tlen p.1 then do
              let y ← s.take j 0 (p.2 * rowb) rowb
              y.2.give j 2 (p.1.toNat * rowb) y.1
            else .ok (s.countOor j.id 1)) s)
    | .error e, _, _ => .done e s
    | _, .error e, _ => .done e s
    | _, _, .error e => .done e s

/-- ENGINE_FILL (17 R394): whole granules are written whole. -/
def execEngineFill (s : State) : Res :=
  s.engineStep fun j s =>
    match s.regionLen j 0 with
    | .error e => .done e s
    | .ok len =>
      let pat := bytesOfNat 4 (cardOpx j.card)
      Work.of (runCmds (regCuts j.card 0 len) (fun c s =>
        s.give j 0 c.1 ((List.range c.2).map fun k => pat.getD ((c.1 + k) % 4) 0)) s)

/-! ## Expand and seal (17 R395) -/

/-- The entry of a segment, none where it cannot be read or breaks a limit. -/
def State.goodEntry (s : State) (who : Who) (table seg nseg : Nat) : Option SegEntry := (s.segEntry who table nseg seg).1.filter (·.ok nseg)

/-- ENGINE_EXPAND (17 R395). -/
def execEngineExpand (s : State) : Res :=
  s.engineStep fun j s =>
    let who := s.jobWho j
    let table := s.jobImage j
    let seg := jobSeg j
    if (((s.coreAt (jobCore j)).banks.get (jobBank j)).loading).isSome then .again s
    else
      let t := s.expand who (jobCore j) (jobBank j) table seg
      match s.image who table with
      | (none, _) => .done jsBad t
      | (some img, u) =>
        if img.nseg ≤ seg then .done jsBad u
        else
          match s.goodEntry who table seg img.nseg with
          | none => .done jsBad t
          | some e =>
            if cardRegion j.card 0 ≠ .flat e.sva e.slen then .done jsBad (u.segEntry who table img.nseg seg).2
            else
              match (s.imageRead who e.sva e.slen).1.bind (Stream.parse e) with
              | none => .done jsBad t
              | some _ => .done 0 (t.countBytes j.id e.slen)

/-- ENGINE_SEAL (17 R395). -/
def execEngineSeal (s : State) : Res :=
  s.engineStep fun j s =>
    let who := s.jobWho j
    let table := s.jobImage j
    let bank := (s.coreAt (jobCore j)).banks.get (jobBank j)
    if bank.loading.isSome then .again s
    else if bank.seg ≠ jobSeg j ∨ bank.table ≠ table ∨ bank.dctx ≠ who.dctx ∨
        (((s.image who table).1.map fun i => decide (i.nseg ≤ jobSeg j)).getD false) then .done jsBad s
    else
      let r := s.seal who (jobCore j) (jobBank j)
      .done (if r.1 then 0 else jsBad) (r.2.bankReady (jobCore j) (jobBank j))

/-! ## Gallery load (17 R396; 06 R168; 09 R225) -/

def gallerySize (s : State) (grid : Nat) : Nat := ((s.gridOf grid).map (·.gal)).getD 0 * 2 ^ 20

/-- A matrix command of the team that is queued reads gallery bytes that the load would write. -/
def State.galleryRead (s : State) (j : Job) (off len : Nat) : Bool :=
  (s.coreAt (jobCore j)).engine.queue.any fun q =>
    ((s.recAt (jobCore j) q.ctx).any fun r => r.grid == j.grid && r.team == j.team) &&
      q.uses.any fun u => u.spot.meets u.len (.gal off) len

/-- The gallery map with a load recorded: entries it covers go, and a seventeenth drops the oldest. -/
def addGalMap (l : List GalMap) (x : GalMap) : List GalMap :=
  let l := l.filter (fun y => !(decide (x.off ≤ y.off) && decide (y.off + y.len ≤ x.off + x.len))) ++ [x]
  if 16 < l.length then l.drop 1 else l

/-- Write gallery bytes; a unit written whole is good again. -/
def Team.galWrite (t : Team) (off : Nat) (bs : List Byte) : Team :=
  { t with
    gal := Memory.write t.gal off bs
    galBad := unitsLeft t.galBad off bs.length
    galSoft := unitsLeft t.galSoft off bs.length }

/-- ENGINE_GALLERY_LOAD (17 R396). -/
def execEngineGalleryLoad (s : State) : Res :=
  s.engineStep fun j s =>
    let off := bitsN (cardOpx j.card) 0 23
    match cardRegion j.card 0 with
    | .flat va len =>
      if gallerySize s j.grid < off + len then .done jsBad s
      else if s.galleryRead j off len then .again s
      else
        let s := s.modTeam j.grid j.team fun t => { t with galMap := addGalMap t.galMap ⟨va, off, len⟩ }
        Work.of (runCmds (regCuts j.card 0 len) (fun c s => do
          let x ← s.take j 0 c.1 c.2
          return (x.2.modTeam j.grid j.team fun t => t.galWrite (off + c.1) x.1).countBytes j.id c.2) s)
    | _ => .done jsBad s

/-! ## Collectives (17 R397; 04 R102 to R104) -/

def collOp (card : Block) : Nat := bitsN (cardOpx card) 0 3
def collFn (card : Block) : Nat := bitsN (cardOpx card) 3 2
def collFmt (card : Block) : Nat := bitsN (cardOpx card) 5 2
def collWin (card : Block) : Nat := bitsN (cardOpx card) 7 12
def collElem (card : Block) : Nat := if collFmt card < 2 then 4 else 2

/-- The hash that every message of a collective carries: of the descriptor's bytes and the operation's low OPX bits, as two
bytes (log entry 18). -/
def collHash (card : Block) (desc : List Byte) : Nat := crc32c (desc ++ bytesOfNat 2 (bitsN (cardOpx card) 0 7))

/-- The nodes of a descriptor, none where its count is out of range or its length does not match. -/
def descNodes (bs : List Byte) : Option (List Nat) :=
  let n := fieldAt bs 0 4
  if n < 2 ∨ 65536 < n ∨ bs.length ≠ 4 + 4 * n then none else some ((List.range n).map fun i => fieldAt bs (4 + 4 * i) 4)

/-- Output length and the constraints on the input length (17 R397). -/
def collLens (card : Block) (c l out : Nat) : Bool :=
  let slices : Bool := collOp card == 3 || collOp card == 5
  let reduces : Bool := collOp card == 1 || collOp card == 2 || collOp card == 3
  (!slices || l % (c * collElem card) == 0) && (reduces || collFn card == 0) &&
    (match collOp card with
    | 3 => out * c == l
    | 4 => out == l * c
    | _ => out == l)

/-- What rank `me` sends to rank `peer`, as (offset, length) of its input; none where it sends it nothing. -/
def collSlice (op c l me peer : Nat) : Option (Nat × Nat) :=
  match op with
  | 0 => if me = 0 then some (0, l) else none
  | 1 => if peer = 0 then some (0, l) else none
  | 3 => some (peer * (l / c), l / c)
  | 5 => some (peer * (l / c), l / c)
  | _ => some (0, l)

/-- One element of a reduction over values in ascending rank order (04 R103). -/
def reduceElem (fmt fn : Nat) (xs : List Nat) : Nat :=
  if fmt = 0 then
    let f (a b : Nat) : Nat := (amoFn (if fn = 0 then 0 else fn) 32 a b 0).getD 0
    (xs.drop 1).foldl f (xs.headD 0)
  else
    let F : Flt := if fmt = 1 then f32 else if fmt = 2 then f16 else bf16
    let ys := xs.map fun x => rne f32 (F.val x)
    if xs.any fun x => (F.val x).isNan then F.cnan
    else if fn = 0 then
      let sum := (ys.drop 1).foldl f32Add (ys.headD 0)
      if (f32.val sum).isNan then F.cnan else rne F (f32.val sum)
    else rne F (f32.val ((ys.drop 1).foldl (fltMinMax f32 (fn == 2)) (ys.headD 0)))

/-- Reduce byte strings of equal length element by element. -/
def reduceBytes (card : Block) (l : List (List Byte)) : List Byte :=
  let e := collElem card
  let n := (l.headD []).length / e
  (List.range n).flatMap fun i => bytesOfNat e (reduceElem (collFmt card) (collFn card) (l.map fun b => fieldAt b (e * i) e))

/-- Keys under which a member keeps its own descriptor and, one higher, its own input as they were read at the start. -/
def ownKey : Nat := 2 ^ 80

/-- The bytes that rank `from_` sent, put together from its pieces; none while one is missing. -/
def Collective.bytesFrom (x : Collective) (from_ len : Nat) : Option (List Byte) :=
  let ps := x.arrived.filter fun p => p.1 % 2 ^ 32 == from_ && decide (p.1 < ownKey)
  let m := ps.foldl (fun (m : Memory) p => Memory.write m (p.1 / 2 ^ 32) p.2) []
  if (ps.map fun p => p.2.length).foldl (· + ·) 0 = len then some (Memory.read m 0 len) else none

/-- Everything a member knows of its collective. -/
structure Member where
  nodes : List Nat
  me : Nat
  len : Nat
  hash : Nat
  input : List Byte
  deriving DecidableEq, Repr

/-- What a descriptor and an input make of a member; none where R397 refuses the card. -/
def memberOf? (card : Block) (nid l out : Nat) (desc input : List Byte) : Option Member :=
  match descNodes desc with
  | none => none
  | some nodes =>
    if nodes.countP (· == nid) ≠ 1 ∨ collLens card nodes.length l out = false then none
    else some ⟨nodes, nodes.findIdx (· == nid), l, collHash card desc, input⟩

/-- VA of the output region, by which the members find each other's job. -/
def collVa (card : Block) : Nat :=
  match cardRegion card 2 with
  | .flat va _ => va
  | _ => 0

/-- Send this member's part to every other rank. -/
def State.collSend (s : State) (j : Job) (m : Member) : Done State :=
  let c := m.nodes.length
  let sends := (List.range c).flatMap fun peer =>
    if peer = m.me then []
    else match collSlice (collOp j.card) c m.len m.me peer with
      | none => []
      | some (o, n) => (cutAt 65536 0 n).map fun p => (peer, p.1, (m.input.drop (o + p.1)).take p.2.2)
  runCmds sends (fun x s => s.jobSend j.id 0
    { typ := 8, dst := m.nodes.getD x.1 0, win := collWin j.card, va := collVa j.card, len := x.2.2.length, tag := j.tag,
      stat := collFn j.card, opnd0 := m.hash, opnd1 := m.me + x.2.1 * 2 ^ 32, data := x.2.2 } none) s

/-- The inputs that this member needs, in rank order, once all have arrived. -/
def collInputs (op c l me : Nat) (own : List Byte) (x : Collective) : Option (List (List Byte)) :=
  let part (r : Nat) : Option (List Byte) :=
    match collSlice op c l r me with
    | none => some []
    | some (o, n) => if r = me then some ((own.drop o).take n) else x.bytesFrom r n
  (List.range c).foldl (fun acc r => match acc, part r with
    | some l, some b => some (l ++ [b])
    | _, _ => none) (some [])

/-- The output of a member, none where it writes none (04 R102). -/
def collOutput (card : Block) (me : Nat) (ins : List (List Byte)) : Option (List Byte) :=
  match collOp card with
  | 0 => some (ins.headD [])
  | 1 => if me = 0 then some (reduceBytes card ins) else none
  | 2 => some (reduceBytes card ins)
  | 3 => some (reduceBytes card ins)
  | _ => some ins.flatten

def State.collOf (s : State) (id : Nat) : Option Collective := s.fz.collectives.find? fun x => x.job == id
def State.modColl (s : State) (id : Nat) (f : Collective → Collective) : State :=
  s.modFz fun z => { z with collectives := modFirst (fun x => x.job == id) f z.collectives }
def State.dropColl (s : State) (id : Nat) : State :=
  s.modFz fun z => { z with collectives := z.collectives.filter fun x => x.job != id }

/-- A message belongs to the collective job: its window and output VA. -/
def collTakes (j : Job) (m : FinzonMsg) : Bool := cardOp j.card == 8 && m.win == collWin j.card && m.va == collVa j.card

/-- Take the messages that came before the job, each piece of a rank once; answers whether one carried another value (04 R102). -/
def State.collEarly (s : State) (j : Job) (hash : Nat) : Bool × State :=
  let mine := s.fz.early.filter (collTakes j)
  mine.foldl (fun (acc : Bool × State) m =>
    match acc.2.collOf j.id with
    | none => acc
    | some x =>
      if x.arrived.any fun p => p.1 == m.opnd1 then acc
      else
        let s := acc.2.modFz fun z => { z with early := z.early.erase m }
        (acc.1 || m.opnd0 != hash, s.modColl j.id fun x => { x with arrived := x.arrived ++ [(m.opnd1, m.data)] })) (false, s)

/-- End a collective whose inputs have arrived and whose messages are acknowledged. -/
def State.collFinish (s : State) (j : Job) (m : Member) : Work :=
  match s.collOf j.id, s.jobOf j.id with
  | some x, some k =>
    (match collInputs (collOp j.card) m.nodes.length m.len m.me m.input x with
    | none => .await s
    | some ins =>
      if !k.awaiting.isEmpty then .await s
      else
        match collOutput j.card m.me ins with
        | none => .done 0 (s.dropColl j.id)
        | some bs => (match s.give j 2 0 bs with
          | .error e => .done e.1 (e.2.dropColl j.id)
          | .ok t => .done 0 (t.dropColl j.id)))
  | _, _ => .await s

/-- The first step of a collective: read descriptor and input, take what came early, and send. -/
def State.collStart (s : State) (j : Job) (glen l out : Nat) : Work :=
  match s.take j 0 0 glen with
  | .error e => .done e.1 e.2
  | .ok d =>
    match d.2.take j 1 0 l with
    | .error e => .done e.1 e.2
    | .ok x =>
      match memberOf? j.card s.fz.nid.toNat l out d.1 x.1 with
      | none => .done jsBad x.2
      | some m =>
        let t := x.2.modFz fun z =>
          { z with collectives := z.collectives ++ [⟨j.id, m.hash, [(ownKey, d.1), (ownKey + 1, x.1)], 0, 0⟩] }
        let r := t.collEarly j m.hash
        if r.1 then .done jsColl (r.2.dropColl j.id)
        else
          match r.2.collSend j m with
          | .error e => .done e.1 ((e.2.countUnassigned m.nodes e.1).dropColl j.id)
          | .ok s => s.collFinish j m

/-- ENGINE_COLLECTIVE (17 R397): the first step sends; later ones, which messages and acknowledgements bring about, look whether
all is there. -/
def execEngineCollective (s : State) : Res :=
  s.engineStep fun j s =>
    match s.regionLen j 0, s.regionLen j 1, s.regionLen j 2 with
    | .ok glen, .ok l, .ok out =>
      (match s.collOf j.id with
      | none => s.collStart j glen l out
      | some x =>
        let own (k : Nat) : List Byte := ((x.arrived.find? fun p => p.1 == ownKey + k).map Prod.snd).getD []
        match memberOf? j.card s.fz.nid.toNat l out (own 0) (own 1) with
        | none => .await s
        | some m => s.collFinish j m)
    | .error e, _, _ => .done e s
    | _, .error e, _ => .done e s
    | _, _, .error e => .done e s

/-! ## Checkpoint and restore (17 R398; 02 R57) -/

/-- Bytes of a local region for a checkpoint: poisoned granules as zeros, and one flag for each 32-byte unit. Poison is not
consumed and counts nothing, and an uncorrectable unit of the scratchpad raises no POISON (02 R59): it is carried as a poisoned one. GRAN is
the class of the page of the chunk's first byte, also where the chunk covers pages of other classes (log entry 36). -/
def State.ckptRead (s : State) (j : Job) (va len : Nat) : Done (List Byte × List Bool × Nat × State) :=
  if inAperture va then
    match s.teamOf j.grid j.team with
    | none => .error (jsBad, s)
    | some t =>
      let off := va % 2 ^ 48
      .ok ((t.spadRead off len).1, (List.range (len / 32)).map (fun k => t.spadBad.contains (off / 32 + k)), 0,
        s.spadSeen j.grid j.team off len)
  else
    match translateRange s (s.jobWho j) needR va len with
    | .error e => .error (troubleStatus e, s)
    | .ok segs =>
      let r := s.engRead j.die segs
      let bad := segs.flatMap fun g => (cutAt 32 g.place.dpa g.len).map fun c => s.mem.poisoned g.place.gran c.1
      let gran := ((segs.head?).map fun g => g.place.gran).getD 0
      .ok (r.1.bytes.zipIdx.map (fun p => if bad.getD (p.2 / 32) false then 0 else p.1), bad, gran, r.2)

/-- Bits packed, lowest first. -/
def bitsNat (l : List Bool) : Nat := l.foldr (fun b acc => b2n b + 2 * acc) 0

/-- One chunk of the stream: header, data, and its poison list where it has one (02 R57). -/
def chunkBytes (va gran seq : Nat) (data : List Byte) (bad : List Bool) : List Byte :=
  let any := bad.any id
  let pmap := bitsNat ((List.range 256).map fun i => ((bad.drop (256 * i)).take 256).any id)
  let head := bytesOfNat 8 va ++ bytesOfNat 4 data.length ++ bytesOfNat 1 gran ++ bytesOfNat 1 (b2n any) ++ bytesOfNat 2 0 ++
    bytesOfNat 8 seq ++ bytesOfNat 32 pmap ++ bytesOfNat 4 0
  let listLen := roundUp (ceilDiv bad.length 8) 8
  head ++ bytesOfNat 4 (crc32c (head ++ data)) ++ data ++ (if any then bytesOfNat listLen (bitsNat bad) else [])

/-- The two regions of a checkpoint card: local VA and length, remote VA, node and window. -/
def ckptRegs (card : Block) : Option (Nat × Nat × Nat × Nat × Nat) :=
  match cardRegion card 0, cardRegion card 3 with
  | .flat va len, .remote rva node win => if va % 32 = 0 ∧ len % 32 = 0 then some (va, len, rva, node, win) else none
  | _, _ => none

/-- ENGINE_CHECKPOINT (17 R398): the stream goes out chunk by chunk, in messages that do not cross 64 KiB of VA. -/
def execEngineCheckpoint (s : State) : Res :=
  s.engineStep fun j s =>
    match ckptRegs j.card with
    | none => .done jsBad s
    | some (va, len, rva, node, win) =>
      let chunks := (cutAt (2 ^ 21) 0 len).map fun c => (c.1, c.2.2)
      let r := runCmds chunks.zipIdx (fun c (s : State) => do
        let x ← s.ckptRead j (va + c.1.1) c.1.2
        let bs := chunkBytes (va + c.1.1) x.2.2.1 c.2 x.1 x.2.1
        let at_ := ((x.2.2.2.collOf j.id).map (·.at_)).getD 0
        let s ← (msgCuts (rva + at_) bs.length).foldlM (fun (s : State) p =>
          s.jobSend j.id c.2 { typ := 1, dst := node, win := win, va := p.1, len := p.2.2, tag := j.tag,
                               data := (bs.drop p.2.1).take p.2.2 } none) x.2.2.2
        return (s.modColl j.id fun x => { x with at_ := x.at_ + bs.length }).countBytes j.id bs.length)
        (s.modFz fun z => { z with collectives := z.collectives ++ [⟨j.id, 0, [], 0, 0⟩] })
      match r with
      | .error e => .done e.1 (e.2.dropColl j.id)
      | .ok s => .await (s.dropColl j.id)

/-- Stream bytes [at, at + n) of a restore, once they have arrived. -/
def Collective.streamBytes (x : Collective) (n : Nat) : Option (List Byte) :=
  let ps := x.arrived.filter fun p => decide (x.at_ ≤ p.1)
  let m := ps.foldl (fun (m : Memory) p => Memory.write m p.1 p.2) []
  let have_ := (List.range n).all fun i => ps.any fun p => decide (p.1 ≤ x.at_ + i) && decide (x.at_ + i < p.1 + p.2.length)
  if have_ then some (Memory.read m x.at_ n) else none

/-- Write poison onto the granules of a VA (02 R57). -/
def State.poisonVa (s : State) (j : Job) (va : Nat) : State :=
  match translate s (s.jobWho j) needW va with
  | .error _ => s
  | .ok p => s.modMem fun m => m.setGran p.gran p.dpa true

/-- One chunk taken from the stream: its size in the stream and in data, or none where it fails. -/
structure Chunk where
  va : Nat
  data : List Byte
  bad : List Bool
  total : Nat
  deriving DecidableEq, Repr

def chunkLens (head : List Byte) : Nat × Nat :=
  let len := fieldAt head 8 4
  (len, if bitN (fieldAt head 13 1) 0 then roundUp (ceilDiv (len / 32) 8) 8 else 0)

def Chunk.parse (bs : List Byte) : Option Chunk :=
  let head := bs.take 64
  let l := chunkLens head
  let data := (bs.drop 64).take l.1
  let list := natOfBytes ((bs.drop (64 + l.1)).take l.2)
  if fieldAt head 60 4 ≠ crc32c (head.take 60 ++ data) then none
  else some ⟨fieldAt head 0 8, data, (List.range (l.1 / 32)).map (bitN list), 64 + l.1 + l.2⟩

/-- Ask for stream bytes. A read that leaves what REG3 covers is outside the footprint (06 R158; 17 R398). -/
def State.restoreAsk (s : State) (j : Job) (rva node win seq off n : Nat) : Done State :=
  (msgCuts (rva + off) n).foldlM (fun (s : State) p =>
    if ckptLen (partnerLen j.card 3) < p.1 - rva + p.2.2 then .error (jsFootprint, s)
    else s.jobSend j.id seq { typ := 2, dst := node, win := win, va := p.1, len := p.2.2, tag := j.tag } (some p.1)) s

/-- ENGINE_RESTORE (17 R398): header, then data and list of one chunk after another; arriving data makes the engine go on. -/
def execEngineRestore (s : State) : Res :=
  s.engineStep fun j s =>
    match ckptRegs j.card with
    | none => .done jsBad s
    | some (va, len, rva, node, win) =>
      let s := if (s.collOf j.id).isSome then s else s.modFz fun z => { z with collectives := z.collectives ++ [⟨j.id, 0, [], 0, 0⟩] }
      let finish (r : Done State) : Work := match r with
        | .error e => .done e.1 (e.2.dropColl j.id)
        | .ok s => .await s
      if !j.awaiting.isEmpty then .await s
      else
        match s.collOf j.id with
        | none => .await s
        | some x =>
          match x.streamBytes 64 with
          | none => finish (s.restoreAsk j rva node win x.seq x.at_ 64)
          | some head =>
            let l := chunkLens head
            if fieldAt head 0 8 < va ∨ va + len < fieldAt head 0 8 + l.1 ∨ l.1 = 0 ∨ 2 ^ 21 < l.1 ∨ l.1 % 32 ≠ 0 then
              .done jsRemote (s.dropColl j.id)
            else
              match x.streamBytes (64 + l.1 + l.2) with
              | none => finish (s.restoreAsk j rva node win x.seq (x.at_ + 64) (l.1 + l.2))
              | some bs =>
                match Chunk.parse bs with
                | none => .done jsRemote (s.dropColl j.id)
                | some c =>
                  match s.give j 0 (c.va - va) c.data with
                  | .error e => .done e.1 (e.2.dropColl j.id)
                  | .ok t =>
                    let t := (c.bad.zipIdx.filter Prod.fst).foldl (fun s p => s.poisonVa j (c.va + 32 * p.2)) t
                    let t := t.modColl j.id fun x => { x with at_ := x.at_ + c.total, seq := x.seq + 1, arrived := [] }
                    if len ≤ j.bytes + c.data.length then .done 0 (t.dropColl j.id) else .again t

/-! ## Remote atomic (17 R400) -/

/-- ENGINE_REMOTE_ATOMIC: one message; the result message brings the old value. -/
def execEngineRemoteAtomic (s : State) : Res :=
  s.engineStep fun j s =>
    match cardRegion j.card 0, cardRegion j.card 1, cardRegion j.card 3 with
    | .flat _ m, .flat _ n, .remote va node win =>
      if m ≠ 16 ∨ n ≠ 8 then .done jsBad s
      else
        let size := if bitN (cardOpx j.card) 3 then 8 else 4
        match s.take j 0 0 16 with
        | .error e => .done e.1 e.2
        | .ok (bs, s) =>
          (match s.jobSend j.id 0
              { typ := 4, dst := node, win := win, va := va, len := size, tag := j.tag, stat := bitsN (cardOpx j.card) 0 3,
                opnd0 := fieldAt bs 0 8 % 2 ^ (8 * size), opnd1 := fieldAt bs 8 8 % 2 ^ (8 * size) } (some va) with
          | .error e => .done e.1 e.2
          | .ok s => .await s)
    | _, _, _ => .done jsBad s

/-! ## ENGINE_CAPACITY_TIMEOUT (03 R71) -/

/-- A request of the job's engine has stalled for 109 µs: the job ends MM_CAPACITY. -/
def execEngineCapacityTimeout (s : State) : Res :=
  match s.jobOf s.arg.id with
  | some j => if j.state == .running then .next ((s.jobLeaveDone j).endJob j.id jsCapacity) else .next s
  | none => .next s

end Sys2Proof.Machine
end

