-- ==== Sys2Proof/Machine/Fabric.lean ====
section
/-! DEFINITION. What arriving Finzon messages, timeouts and port changes do (04 R93 to R102; 17 R400; 06 R154). -/

namespace Sys2Proof.Machine

/-! ## The job behind a message -/

/-- Something that a job waits for has come: with nothing left, a transfer ends, a posting completes its action, and an engine
that gathers messages looks again. -/
def State.jobProgress (s : State) (id : Nat) : State :=
  match s.jobOf id with
  | none => s
  | some j =>
    if j.state == .posting then (if j.awaiting.isEmpty then s.post .jobComplete { id := id } else s)
    else if j.state != .running then s
    else
      match cardOp j.card with
      | 8 => s.post .jobDispatch { id := id, flag := true }
      | 9 => if bitN (cardOpx j.card) 0 then s.post .jobDispatch { id := id, flag := true }
             else if j.awaiting.isEmpty then s.endJob id 0 else s
      | _ => if j.awaiting.isEmpty then s.endJob id 0 else s

def State.jobArrived (s : State) (id : Nat) (x : Nat × Nat) : State :=
  (s.modJob id fun j => { j with awaiting := j.awaiting.erase x }).jobProgress id

/-- The fabric failed a job: it ends with `status`, a posting one too (04 R95). -/
def State.jobFabricFails (s : State) (id status : Nat) : State :=
  match s.jobOf id with
  | none => s
  | some j =>
    let s := (s.jobLeaveDone j).dropColl id
    if j.state == .posting then
      (s.modJob id fun j => { j with status := status, awaiting := [] }).post .jobComplete { id := id }
    else if j.state == .running then s.endJob id status
    else s

/-- The messages kept for node `dst`, in SEQ order, from `seq` onward. -/
def Finzon.from_ (f : Finzon) (dst seq : Nat) : List Kept :=
  f.kept.filter fun k => k.msg.dst == dst && decide ((k.msg.seq + 2 ^ 32 - seq) % 2 ^ 32 < 2 ^ 31)

/-- Every job with messages on the pair ends (04 R95). -/
def State.pairDown (s : State) (dst status : Nat) : State :=
  let ids := ((s.fz.kept.filter fun k => k.msg.dst == dst).filterMap (·.job)).dedup
  let s := s.modFz fun f => { f with kept := f.kept.filter fun k => k.msg.dst != dst }
  ids.foldl (fun s id => s.jobFabricFails id status) s

/-- Send again from a lost SEQ onward: one event with SRC 3; after eight resends of a message its jobs end LINK_DOWN (04 R95). A
resend counts for the lost message alone, not for the later ones that go out again with it (log entry 76). -/
def State.resend (s : State) (dst seq : Nat) : State :=
  match s.fz.kept.find? fun k => k.msg.dst == dst && k.msg.seq == seq with
  | none => s
  | some k =>
    if 8 ≤ k.resends then s.pairDown dst jsLinkDown
    else
      let bump (x : Kept) : Kept := { x with resends := x.resends + 1 }
      let s := s.modFz fun f => { f with kept := modFirst (fun x => x.msg.dst == dst && x.msg.seq == seq) bump f.kept }
      let s := s.reportPf clsCorrectable 3 0
      let r := (s.fz.from_ dst seq).foldl (fun (acc : Bool × State) k =>
        match acc.2.launchMsg k.chunk k.msg with
        | some t => (acc.1, t)
        | none => (false, acc.2)) (true, s)
      if r.1 then r.2 else r.2.pairDown dst jsNoRoute

/-- FINZON_RESEND_TIMEOUT: 10 µs have passed since a message of SEQ `id` was sent to `num`. -/
def execFinzonResendTimeout (s : State) : Res :=
  let a := s.arg
  if s.fz.kept.any fun k => k.msg.dst == a.num && k.msg.seq == a.id then
    let t := s.resend a.num a.id
    .next (if t.fz.kept.any fun k => k.msg.dst == a.num && k.msg.seq == a.id then
      t.timer 12000 .finzonResendTimeout { num := a.num, id := a.id } else t)
  else .next s

/-- FINZON_ACK: the sender's kept message is released. One whose CRC fails is discarded: it has no SEQ of its own to ask for again. -/
def execFinzonAck (s : State) : Res :=
  let m := finzonOf s.arg
  if m.dst ≠ s.fz.nid.toNat then .next s.badMsg
  else if !m.crcOk then .next s
  else
    match s.fz.kept.find? fun k => k.msg.dst == m.src && k.msg.seq == m.seq with
    | none => .next s
    | some k =>
      let s := s.modFz fun f => { f with kept := f.kept.erase k }
      match k.job with
      | some id => .next (s.jobArrived id (m.src, m.seq))
      | none => .next s

/-- FINZON_NAK: RESEND sends again from that SEQ; any other status, the reserved ones included, ends the job with REMOTE_FAULT. -/
def execFinzonNak (s : State) : Res :=
  let m := finzonOf s.arg
  if m.dst ≠ s.fz.nid.toNat then .next s.badMsg
  else if !m.crcOk then .next s
  else if m.stat = 1 then .next (s.resend m.src m.seq)
  else
    match s.fz.kept.find? fun k => k.msg.dst == m.src && k.msg.seq == m.seq with
    | none => .next s
    | some k =>
      let s := s.modFz fun f => { f with kept := f.kept.erase k }
      match k.job with
      | some id => .next (s.jobFabricFails id jsRemote)
      | none => .next s

/-! ## Requests of other parts (04 R98 to R100) -/

/-- The memory that a message touches; none where it does not translate. -/
def State.msgSegs (s : State) (m : FinzonMsg) (n : Need) : List Seg :=
  match s.window m.win with
  | none => []
  | some w => (translateRange s (s.remoteWho w) n m.va m.len).toOption.getD []

/-- Accept a message in its turn and answer it: `work` performs it through its window and gives the state, or the NAK status with what its
reads have counted. -/
def State.served (s : State) (m : FinzonMsg) (n : Need) (work : RemoteWin → State → Done State) : Res :=
  if m.crcOk && m.dst == s.fz.nid.toNat && segsBusy s (s.msgSegs m n) then
    -- its lines are under a transaction: its requests wait in their queues (03 R67)
    .next ((s.askSegs n.w 0 0 (s.msgSegs m n)).timer 2 (msgEvent m) { msg := m })
  else
    match s.accept m with
    | .done s => .next s
    | .take s =>
      match s.window m.win with
      | none => .next (s.answerMsg m (some 2))
      | some w =>
        match work w s with
        | .error e => .next (e.2.answerMsg m (some e.1))
        | .ok s => .next (s.answerMsg m none)

/-- A remote flag post (06 R154, 04 R98): the grid of the window must be live and have the team. -/
def State.remotePost (s : State) (w : RemoteWin) (team flag : Nat) : Done State :=
  match w.grid.bind fun g => (s.gridOf g).map fun x => (g, x) with
  | none => .error (5, s)
  | some (g, x) => if x.killed.isSome || decide (x.teams ≤ team) then .error (5, s) else .ok (s.postFlag g team flag)

/-- FINZON_PUT: the bytes are written through the window as NcWr; a put of no bytes with an operand is a flag post. On a C = 0 page the
access acts through die 0 (log entry 76). -/
def execFinzonPut (s : State) : Res :=
  let m := finzonOf s.arg
  s.served m needW fun w s =>
    if m.len = 0 ∧ 2 ^ 32 ≤ m.opnd1 then s.remotePost w m.opnd0 (m.opnd1 % 2 ^ 32)
    else if !w.w || !msgSpan m.va m.len || m.data.length != m.len then .error (3, s)
    else
      match s.vaWrite 0 (s.remoteWho w) m.va m.data with
      | .error _ => .error (3, s)
      | .ok r => .ok r.2

/-- FINZON_GET: the bytes are read through the window as NcRd and go back as get data, whose route takes j = 0: this part does not
know the chunk's number (log entry 76). -/
def execFinzonGet (s : State) : Res :=
  let m := finzonOf s.arg
  s.served m needR fun w s =>
    if !w.r || !msgSpan m.va m.len then .error (3, s)
    else
      match s.vaRead 0 (s.remoteWho w) m.va m.len with
      | .error _ => .error (3, s)
      | .ok r =>
        if r.1.poison then .error (3, r.2)
        else
          match r.2.sendKept 0 none
              { typ := 3, resp := true, dst := m.src, win := m.win, va := m.va, len := m.len, tag := m.tag, data := r.1.bytes } with
          | some x => .ok x.2
          | none => .ok r.2.badMsg

/-- One remote atomic at the home of its word (04 R100, 15 R442). On an ET = 1 page poison is taken as zeros and the granule is written
clean; on an ET = 0 page it counts and stops the atomic. -/
def State.remoteAtomic (s : State) (p : Place) (fn n x y : Nat) : Done (Nat × State) :=
  let f (old : Nat) : Option Nat := amoFn fn (8 * n) old x y
  if p.c then
    let r := s.amoHome p p.dpa n f
    if r.1.poison then .error (3, r.2.2) else .ok (r.1.old, r.2.2)
  else
    let seg : Seg := ⟨0, p, 0, n⟩
    let g := s.engRead 0 [seg]
    if g.1.poison then .error (3, if s.mem.granState p.gran p.dpa = .stored then g.2.countPoison p.gran p.dpa else g.2)
    else
      let old := natOfBytes g.1.bytes
      let t := g.1.subst.foldl (fun s a => s.cleanGran p.gran a) g.2
      .ok (old, match f old with
        | none => t
        | some v => (t.engWrite 0 [seg] (bytesOfNat n v)).2)

/-- FINZON_ATOMIC: performed as one access, and the old value goes back, in the low half of OPND (log entry 76). -/
def execFinzonAtomic (s : State) : Res :=
  let m := finzonOf s.arg
  s.served m needRW fun w s =>
    if !w.a || !(m.len == 4 || m.len == 8) || m.va % m.len != 0 || decide (8 ≤ m.stat) then .error (3, s)
    else
      match translate s (s.remoteWho w) needRW m.va with
      | .error _ => .error (3, s)
      | .ok p =>
        match s.remoteAtomic p m.stat m.len (m.opnd0 % 2 ^ (8 * m.len)) (m.opnd1 % 2 ^ (8 * m.len)) with
        | .error e => .error e
        | .ok (old, s) =>
          match s.sendKept 0 none
              { typ := 5, resp := true, dst := m.src, win := m.win, va := m.va, len := m.len, tag := m.tag, opnd0 := old } with
          | some x => .ok x.2
          | none => .ok s.badMsg

/-! ## Answers with data -/

/-- The job that waits for the data of a VA from a node. -/
def State.jobAwaiting (s : State) (m : FinzonMsg) : Option Job :=
  s.jobs.find? fun j => j.state == .running && j.tag == m.tag && j.awaiting.contains (m.src + 2 ^ 32, m.va)

/-- The tick until which an answer waits: its job writes into a scratchpad whose core drains for a split (09 R219). -/
def State.answerHeld (s : State) (m : FinzonMsg) : Option Nat :=
  (s.jobAwaiting m).bind fun j => if (List.range 4).any (nearWrite j.card) then s.spadDrain j.grid j.team else none

/-- Accept an answer and acknowledge it; `work` gives it to its job. One that cannot be written yet arrives again later. -/
def State.answered (s : State) (event : Instr) (m : FinzonMsg) (work : Job → State → State) : Res :=
  match s.answerHeld m with
  | some t => .next (s.timer (t - s.now) event s.arg)
  | none =>
  match s.accept m with
  | .done s => .next s
  | .take s =>
    let s := s.answerMsg m none
    match s.jobAwaiting m with
    | some j => .next (work j s)
    | none => .next s

/-- FINZON_GET_DATA: the bytes of a remote get reach the local region; those of a restore wait for its engine. -/
def execFinzonGetData (s : State) : Res :=
  let m := finzonOf s.arg
  s.answered .finzonGetData m fun j s =>
    let x := (m.src + 2 ^ 32, m.va)
    if cardOp j.card = 9 then
      match cardRegion j.card 3 with
      | .remote rva _ _ => (s.modColl j.id fun c => { c with arrived := c.arrived ++ [(m.va - rva, m.data)] }).jobArrived j.id x
      | _ => s
    else
      match cardRegion j.card 0 with
      | .remote rva _ _ =>
        (match s.give j 1 (m.va - rva) m.data with
        | .error e => e.2.endJob j.id e.1
        | .ok t => t.jobArrived j.id x)
      | _ => s

/-- FINZON_ATOMIC_RESULT: the old value, sign-extended from its size, is written to REG1. -/
def execFinzonAtomicResult (s : State) : Res :=
  let m := finzonOf s.arg
  s.answered .finzonAtomicResult m fun j s =>
    match s.give j 1 0 (bytesOfNat 8 (wrapN 64 (sextN (8 * m.len) m.opnd0))) with
    | .error e => e.2.endJob j.id e.1
    | .ok t => t.jobArrived j.id (m.src + 2 ^ 32, m.va)

/-- FINZON_COLLECTIVE: a member's piece joins the collective in progress, or waits for its job; a member that receives another
hash ends its job with COLL_MISMATCH (04 R102). -/
def execFinzonCollective (s : State) : Res :=
  let m := finzonOf s.arg
  s.served m ⟨false, false, false⟩ fun w s =>
    if !w.w || m.data.length != m.len then .error (3, s)
    else
      match s.jobs.find? fun j => j.state == .running && collTakes j m &&
          ((s.collOf j.id).any fun x => !(x.arrived.any fun p => p.1 == m.opnd1)) with
      | none => .ok (s.modFz fun f => { f with early := f.early ++ [m] })
      | some j =>
        if (s.collOf j.id).any fun x => x.hash != m.opnd0 then .ok ((s.dropColl j.id).endJob j.id jsColl)
        else
          .ok ((s.modColl j.id fun x => { x with arrived := x.arrived ++ [(m.opnd1, m.data)] }).jobProgress j.id)

/-! ## Transit, reserved types, ports (04 R93, R94, R97) -/

/-- FINZON_TRANSIT: a message for another node is forwarded, or discarded where no route is left. Its route takes j = 0 (log entry
76). -/
def execFinzonTransit (s : State) : Res :=
  let m := finzonOf s.arg
  if m.dst = unassigned then .next s.badMsg
  else
    match s.fz.port m.dst m.src 0 with
    | none => .next s.badMsg
    | some p => .next (s.modFz fun f => { f with sent := f.sent ++ [(p, m)] })

/-- FINZON_RESERVED_TYPE: discarded and counted. -/
def execFinzonReservedType (s : State) : Res := .next s.badMsg

/-- FINZON_PORT_CHANGE: a port trains up or fails; none comes up while NID is unassigned (04 R96) or after a fatal event (04 R91). -/
def execFinzonPortChange (s : State) : Res :=
  let a := s.arg
  let up : Bool := a.flag && s.fz.nid != 0x1FFFFF && !s.power.fatal
  .next (s.modFz fun f => { f with up := f.up.set a.port.val up a.port.isLt })

end Sys2Proof.Machine
end

