-- ==== Sys2Proof/Machine/Tensors.lean ====
section
/-! DEFINITION. Tensor values and the operators of a query: shapes, refusals and results (07 R172 to R176, R183; 22 R431). Where the
manual leaves a result open, `Config.planChoice` stands for it (log entry 19). -/

namespace Sys2Proof.Machine

def prod (l : List Nat) : Nat := l.foldl (· * ·) 1

/-- Rows of a shape: the product of every dimension but the last; for rank 1, the elements (07 R183). -/
def rowsOf (dims : List Nat) : Nat := if 2 ≤ dims.length then prod dims.dropLast else dims.headD 0

/-! ## Reading and writing whole tensors -/

/-- Byte span of an element in the stream of a tensor's tiles, with the element's bit offset in it. -/
def Tsr.span (t : Tsr) (x : List Nat) : Nat × Nat × Nat :=
  let l := t.locate x
  let bit := l.1 * t.size * 8 + l.2
  (bit / 8, ceilDiv (bit % 8 + fmtBits t.fmt) 8, bit % 8)

/-- Adjoining byte spans joined. -/
def joinRuns (l : List (Nat × Nat)) : List (Nat × Nat) :=
  (l.foldl (fun (acc : List (Nat × Nat)) x => match acc with
    | [] => [x]
    | (o, n) :: rest => if o ≤ x.1 ∧ x.1 ≤ o + n then (o, max n (x.1 + x.2 - o)) :: rest else x :: acc) []).reverse

/-- Row-major position of a coordinate. -/
def flatten (dims x : List Nat) : Nat := (dims.zip x).foldl (fun acc p => acc * p.1 + p.2) 0

/-- The position in a value of dimensions `d` of the element that belongs at coordinate `x`: rows of a tensor take those of the value one after
another (22 R431). -/
def Tsr.position (t : Tsr) (d x : List Nat) : Nat := flatten t.dims.dropLast x.dropLast * d.getLastD 1 + x.getLastD 0

/-- The coordinates in tile `k` for which a value of dimensions `d` has an element. -/
def Tsr.tileCoords (t : Tsr) (k : Nat) (d : List Nat) : List (List Nat) :=
  (t.coords k).filter fun x => decide (flatten t.dims.dropLast x.dropLast < prod d.dropLast) && decide (x.getLastD 0 < d.getLastD 0)

/-- Segments of byte runs of a tensor's stream. -/
def State.runSegs (s : State) (who : Who) (n : Need) (id : Nat) (t : Tsr) (runs : List (Nat × Nat)) : Except Trouble (List Seg) :=
  gatherSegs (runs.flatMap fun r => (cutAt t.size r.1 r.2).map fun c =>
    match translateTile s who n t (c.1 / t.size) (tsrVa who id) with
    | .error e => .error e
    | .ok p => .ok ⟨0, { p with dpa := p.dpa + c.1 % t.size }, c.1, c.2.2⟩)

/-- Bytes of segments as a sparse string by their offsets. -/
def segMemory (segs : List Seg) (bs : List Byte) : Memory :=
  (segs.foldl (fun (acc : Memory × List Byte) g => (Memory.write acc.1 g.off (acc.2.take g.len), acc.2.drop g.len))
    (([] : Memory), bs)).1

/-- A tensor's value as byte runs of its stream hold it, with the granules of ET = 1 pages that were taken as zero. Poison of an ET = 0 page
is trouble. -/
def State.tensorRuns (s : State) (die : Nat) (who : Who) (id : Nat) (t : Tsr) (runs : List (Nat × Nat)) :
    Except Trouble (TVal × Nat × State) :=
  match s.runSegs who needR id t runs with
  | .error e => .error e
  | .ok segs =>
    let r := s.engRead die segs
    if r.1.poison then .error ⟨cPoison, tsrVa who id⟩
    else
      let m := segMemory segs r.1.bytes
      .ok (⟨t.fmt, t.dims, (List.range (prod t.dims)).map fun i => t.elemAt m (unflatten t.dims i)⟩, r.1.subst.length, r.2)

/-- The whole value of a tensor. -/
def State.tensorGet (s : State) (die : Nat) (who : Who) (id : Nat) : Except Trouble (TVal × Nat × State) :=
  match readTsr s who id with
  | .error e => .error e
  | .ok t => s.tensorRuns die who id t ((List.range t.tiles).flatMap t.runs)

/-- The bytes of the elements that `sel` names, tile by tile. -/
def Tsr.spans (t : Tsr) (xs : List (List Nat)) : List (Nat × Nat) := joinRuns (xs.map fun x => let p := t.span x; (p.1, p.2.1))

/-- The value of a tensor at the coordinates that `sel` names; no other element is read. -/
def State.tensorPick (s : State) (die : Nat) (who : Who) (id : Nat) (sel : List Nat → Bool) : Except Trouble (TVal × Nat × State) :=
  match readTsr s who id with
  | .error e => .error e
  | .ok t => s.tensorRuns die who id t ((List.range t.tiles).flatMap fun k => t.spans ((t.coords k).filter sel))

/-- Write a value to a tensor, each element at its place, where `sel` names its coordinate; bytes of other elements and padding keep what
they hold (22 R431). -/
def State.tensorPut (s : State) (die : Nat) (who : Who) (id : Nat) (v : TVal) (sel : List Nat → Bool) : Except Trouble (Nat × State) :=
  match readTsr s who id with
  | .error e => .error e
  | .ok t =>
    let w := fmtBits t.fmt
    (List.range t.tiles).foldlM (fun (acc : Nat × State) k => do
      let xs := (t.tileCoords k v.dims).filter sel
      let segs ← acc.2.runSegs who needW id t (t.spans xs)
      let old : Memory := if w = 4 then segMemory segs (acc.2.engRead die segs).1.bytes else []
      let new := xs.foldl (fun (m : Memory) x =>
        let p := t.span x
        let was := Memory.num m p.1 p.2.1
        let i := t.position v.dims x
        Memory.write m p.1 (bytesOfNat p.2.1 (was - bitsN was p.2.2 w * 2 ^ p.2.2 + v.elems.getD i 0 % 2 ^ w * 2 ^ p.2.2))) old
      return segs.foldl (fun (acc : Nat × State) g =>
        let r := acc.2.engWrite die [{ g with off := 0 }] (Memory.read new g.off g.len)
        (acc.1 + r.1, r.2)) acc) (0, s)

/-- Write the whole of a value. -/
def State.tensorSet (s : State) (die : Nat) (who : Who) (id : Nat) (v : TVal) : Except Trouble (Nat × State) :=
  s.tensorPut die who id v fun _ => true

/-! ## Node records (07 R173, R174) -/

def nByte (x : BitVec 256) (i : Nat) : Nat := bitsN x.toNat (8 * i) 8
def nOp (x : BitVec 256) : Nat := nByte x 0
def nFmt (x : BitVec 256) : Nat := nByte x 1
def nIn (x : BitVec 256) (i : Nat) : Nat := nByte x (2 + i)
def nCt (x : BitVec 256) : Nat := nByte x 4
def nOut (x : BitVec 256) : Nat := nByte x 5
def nConst (x : BitVec 256) : Nat := bitsN x.toNat 96 32

/-- The inputs that are given. -/
def nIns (x : BitVec 256) : List Nat := [nIn x 0, nIn x 1].filter (· != 0xFF)

/-- Parameter bytes that an operator reads. -/
def nParams (op : Nat) : List Nat :=
  match op with
  | 1 => (List.range 24).map (· + 8)
  | 2 => [8, 9, 12, 13, 14, 15]
  | 3 => [8, 12, 13, 14, 15]
  | 4 => [8, 9]
  | 5 => [8]
  | 6 => [8, 9]
  | 7 => [8, 10, 11]
  | 8 => [12, 13, 14, 15]
  | 9 => [8]
  | 10 => (List.range 8).map (· + 8)
  | 11 => [8, 9]
  | _ => [8, 9]

/-- QD_FORMAT of a node record (07 R173, R174, R176); `nb` bindings, `wr` says which may be written. -/
def nodeFormatOk (x : BitVec 256) (nb : Nat) (wr : Nat → Bool) : Bool :=
  let op := nOp x
  let inOk (v : Nat) : Bool := decide (v < 0x20) || (decide (0x40 ≤ v) && decide (v < 0x40 + nb)) || v == 0xFF
  let codeOk : Bool := match op with
    | 2 => decide (nByte x 8 ≤ 6) && decide (nByte x 9 ≤ 1)
    | 3 => decide (nByte x 8 ≤ 5)
    | 4 => decide (nByte x 8 ≤ 2)
    | 6 => decide (nByte x 9 ≤ 1) && nOut x != 0xFF
    | 7 => decide (1 ≤ bitsN x.toNat 80 16) && decide (bitsN x.toNat 80 16 ≤ 1024)
    | 11 => decide (nByte x 8 ≤ 2)
    | 12 => decide (nByte x 8 ≤ 2)
    | _ => true
  decide (1 ≤ op) && decide (op ≤ 12) && decide (nFmt x ≤ 9) && decide (nCt x ≤ 2) && decide (nByte x 6 ≤ 1) && nByte x 7 == 0 &&
    inOk (nIn x 0) && inOk (nIn x 1) && (nOut x == 0xFF || (decide (nOut x < nb) && wr (nOut x))) && codeOk &&
    ((List.range 24).all fun i => nByte x (i + 8) == 0 || (nParams op).contains (i + 8))

/-- The inputs an operator takes are given, and no others; that of a MAP is optional under every FN, and FN 0, 1 and 5 do not look at it (log
entry 19). -/
def nodeArityOk (x : BitVec 256) : Bool :=
  let two := nIn x 1 != 0xFF
  nIn x 0 != 0xFF && (match nOp x with
    | 3 => true
    | 4 => !two
    | 7 => !two
    | 8 => !two
    | 10 => !two
    | _ => two)

/-- In post-order the subtrees of a node's inputs are the last ones before it: `done` holds the roots that no node has named yet, the latest
first (07 R173). Which of two inputs comes first is left open. -/
def postOrder (nodes : List (BitVec 256)) : Option (List Nat) :=
  nodes.zipIdx.foldl (fun (done : Option (List Nat)) p => done.bind fun l =>
    let ins := (nIns p.1).filter (· < 0x20)
    let top := l.take ins.length
    if ins.Nodup ∧ top.length = ins.length ∧ ins.all top.contains then some (p.2 :: l.drop ins.length) else none) (some [])

/-- The nodes form a tree in post-order (07 R173). -/
def treeOk (nodes : List (BitVec 256)) : Bool :=
  let refs := (nodes.flatMap nIns).filter (· < 0x20)
  let n := nodes.length
  nodes.all nodeArityOk && (postOrder nodes).isSome && (nodes.zipIdx.all fun p => (nIns p.1).all fun v => decide (0x20 ≤ v) || decide (v < p.2)) &&
    ((List.range n).all fun i => refs.count i == if i + 1 = n then 0 else 1) && ((nodes.getLast?).map nOut).getD 0xFF != 0xFF

/-! ## Letters of a CONTRACT -/

/-- A letter list: none where zeros do not trail, a letter is out of range, or one is repeated. -/
def letterList (x : BitVec 256) (o : Nat) : Option (List Nat) :=
  let raw := (List.range 8).map fun i => nByte x (o + i)
  let ls := raw.takeWhile (· != 0)
  if (raw.drop ls.length).all (· == 0) ∧ ls.all (· ≤ 8) ∧ ls.Nodup then some ls else none

structure Letters where
  la : List Nat
  lb : List Nat
  lo : List Nat
  /-- letter and its extent, in order of appearance -/
  size : List (Nat × Nat)
  deriving DecidableEq, Repr

def Letters.ext (l : Letters) (x : Nat) : Nat := ((l.size.find? fun p => p.1 == x).map Prod.snd).getD 0

/-- The summed letters, in the order in which IN0 and then IN1 name them. -/
def Letters.summed (l : Letters) : List Nat := (l.size.map Prod.fst).filter fun x => !l.lo.contains x

def letters (x : BitVec 256) (da db : List Nat) : Option Letters :=
  match letterList x 8, letterList x 16, letterList x 24 with
  | some la, some lb, some lo =>
    let pairs := la.zip da ++ lb.zip db
    let size := pairs.foldl (fun (acc : List (Nat × Nat)) p => if acc.any (fun q => q.1 == p.1) then acc else acc ++ [p]) []
    let l : Letters := ⟨la, lb, lo, size⟩
    if la.length = da.length ∧ lb.length = db.length ∧ lo ≠ [] ∧ (pairs.all fun p => l.ext p.1 == p.2) ∧
        (lo.all fun y => size.any fun q => q.1 == y) then some l else none
  | _, _, _ => none

/-- The letters of a node as it runs: a letter has the least extent that an input has for it, since a compacted dimension may be shorter than
its bound (22 R431). -/
def lettersOf (x : BitVec 256) (da db : List Nat) : Letters :=
  let la := (letterList x 8).getD []
  let lb := (letterList x 16).getD []
  let size := (la.zip da ++ lb.zip db).foldl (fun (acc : List (Nat × Nat)) p =>
    if acc.any fun q => q.1 == p.1 then acc.map fun q => if q.1 = p.1 then (q.1, min q.2 p.2) else q else acc ++ [p]) []
  ⟨la, lb, (letterList x 24).getD [], size⟩

/-! ## Shapes (07 R174) -/

/-- A format and dimensions. -/
abbrev TType := Nat × List Nat

def setAt {α : Type} (l : List α) (i : Nat) (x : α) : List α := l.set i x

/-- Dimensions with the one at `ax` replaced by others. -/
def splice (d : List Nat) (ax : Nat) (mid : List Nat) : List Nat := d.take ax ++ mid ++ d.drop (ax + 1)

def groupLen (g : Nat) : Nat := 32 * 2 ^ g

/-- The shape of a node's result, none for QD_SHAPE. `target` is the bound tensor of a SCATTER. -/
def nodeShape (x : BitVec 256) (ins : List TType) (target : Option TType) : Option (List Nat) :=
  let a := ins.headD (0, [])
  let b := ins.getD 1 (0, [])
  let ax := nByte x 8
  let check (ok : Bool) (d : List Nat) : Option (List Nat) := if ok && decide (1 ≤ d.length) && decide (d.length ≤ 8) then some d else none
  match nOp x with
  | 1 => (letters x a.2 b.2).bind fun l => check true (l.lo.map l.ext)
  | 2 => check (b.2 == [rowsOf a.2]) (if nByte x 9 = 0 ∨ a.2.length ≤ 2 then a.2 else [rowsOf a.2, a.2.getLastD 0])
  | 3 => check (ins.length == 1 || !(decide (2 ≤ ax) && decide (ax ≤ 4)) || b.2 == a.2) a.2
  | 4 =>
    let kept := (a.2.zipIdx.filter fun p => !bitN (nByte x 9) p.2).map Prod.fst
    check (decide (nByte x 9 < 2 ^ a.2.length)) (if kept.isEmpty then [1] else kept)
  | 5 => check (decide (ax < a.2.length) && b.1 == 9) (splice a.2 ax b.2)
  | 6 => (match target with
    | none => none
    | some t => check (decide (ax < t.2.length) && b.1 == 9 && a.2 == splice t.2 ax b.2) t.2)
  | 7 =>
    let k := bitsN x.toNat 80 16
    check (decide (ax < a.2.length) && decide (k ≤ a.2.getD ax 0) && nFmt x == 9) (setAt a.2 ax k)
  | 8 => check true a.2
  | 9 =>
    check (decide (ax < a.2.length) && a.2.length == b.2.length && setAt a.2 ax 0 == setAt b.2 ax 0)
      (setAt a.2 ax (a.2.getD ax 0 + b.2.getD ax 0))
  | 10 =>
    let r := a.2.length
    let p := (List.range r).map fun i => nByte x (8 + i)
    check (((List.range r).all fun i => p.contains i) && ((List.range 8).all fun i => decide (i < r) || nByte x (8 + i) == 0))
      (p.map fun i => a.2.getD i 0)
  | 11 =>
    check (b.1 == 6 && isIntFmt (nFmt x) && b.2 == a.2.dropLast ++ [ceilDiv (a.2.getLastD 0) (groupLen (nByte x 8))]) a.2
  | _ =>
    check (b.1 == 6 && isIntFmt a.1 && b.2 == a.2.dropLast ++ [ceilDiv (a.2.getLastD 0) (groupLen (nByte x 8))]) a.2

/-- Formats that EXACT allows (07 R175): i4, n4, i8, n8, e4m3, e5m2. -/
def exactFmt (f : Nat) : Bool := decide (f ≤ 5)

/-- Largest magnitude of an element of an integer format of at most 8 bits. -/
def maxMag (f : Nat) : Nat :=
  match f with
  | 0 => 8
  | 1 => 15
  | 2 => 128
  | _ => 255

/-- A contract applies to the node: CONTRACT, REDUCE with a sum, SCATTER that adds. -/
def hasContract (x : BitVec 256) : Bool :=
  nOp x == 1 || (nOp x == 4 && nByte x 8 == 0) || (nOp x == 6 && nByte x 9 == 1)

/-- QD_CONTRACT (07 R173, R175, R176). -/
def contractOk (x : BitVec 256) (ins : List TType) : Bool :=
  let op := nOp x
  if nCt x ≠ 0 then op == 1 || op == 4 || (op == 6 && nByte x 9 == 1)
  else if !hasContract x then true
  else
    let fs := (if op = 6 then ins.take 1 else ins).map Prod.fst
    fs.all exactFmt &&
      (match op, ins with
      | 1, [a, b] =>
        if a.1 < 4 ∧ b.1 < 4 then
          (match letters x a.2 b.2 with
          | some l => decide (prod (l.summed.map l.ext) * (maxMag a.1 * maxMag b.1) < 2 ^ 47)
          | none => true)
        else true
      | _, _ => true)

/-! ## Values -/

/-- The exact sum of an EXACT node taken to an integer format once: R175 lets an implementation wrap or saturate (log entry 19). -/
def narrowInt (fmt : Nat) (v : Int) : Nat :=
  let c := satf fmt v
  if c.2 && Config.planChoice [fmt, v.natAbs, b2n (decide (v < 0))] 0 0 % 2 == 1 then wrapN (fmtBits fmt) v
  else wrapN (fmtBits fmt) c.1

/-- One final rounding of a value to the node's format, or its conversion to an integer format (11 R263). -/
def intoFmt (fmt : Nat) (v : Num) : Nat :=
  match fltOf fmt with
  | some F => rne F v
  | none => wrapN (fmtBits fmt) (f2i fmt 0 v)

/-- The one rounding, wrapping or saturation of an EXACT sum (07 R175). -/
def exactFmtOf (fmt : Nat) (v : Num) : Nat :=
  match fltOf fmt, v with
  | none, .fin neg m e more => narrowInt fmt (roundInt 0 neg m e more)
  | _, _ => intoFmt fmt v

/-- A raw element carried over to another format (11 R263). The same format keeps its bits, but those of a NaN: no payload is carried
through (R258). -/
def carry (src dst x : Nat) : Nat := if src = dst ∧ (elemVal src x).isNan = false then x else convert src dst 0 x

def strides (d : List Nat) : List Nat := (List.range d.length).map fun i => prod (d.drop (i + 1))

def TVal.at_ (t : TVal) (x : List Nat) : Nat := t.elems.getD (flatten t.dims x) 0

/-- Build a value element by element. -/
def TVal.build (fmt : Nat) (dims : List Nat) (f : List Nat → Nat) : TVal :=
  ⟨fmt, dims, (List.range (prod dims)).map fun i => f (unflatten dims i)⟩

/-! ## Sums (07 R175, R177) -/

/-- A permutation of a list chosen by a number. -/
def permute {α : Type} : Nat → Nat → List α → List α
  | 0, _, l => l
  | fuel + 1, n, l =>
    match l[n % l.length]? with
    | none => l
    | some x => x :: permute fuel (n / l.length) (l.eraseIdx (n % l.length))

/-- The magnitude of a value. -/
def Num.mag (x : Num) : Num := if x.isNeg then x.neg else x

/-- R175's bound on a RELAXED element: |r − s| ≤ (⌈K / 32⌉ + 16) × 2^-23 × Σ|x|, over the K terms `xs` with exact sum s. -/
def withinBound (xs : List Num) (r : Num) : Bool :=
  let err := (Num.add 0 r (Num.sum 0 xs).neg).mag
  let lim := Num.mul (.fin false (ceilDiv xs.length 32 + 16) (-23) false) (Num.sum 0 (xs.map Num.mag))
  match r with
  | .fin _ _ _ _ => decide (Num.cmp err lim ≤ 0)
  | _ => false

def Num.isFin : Num → Bool
  | .fin _ _ _ _ => true
  | _ => false

/-- The value of a RELAXED element before its final rounding to `fmt`: the f32 that `c` chooses where R175's bound allows it, else the exact
sum rounded once. Where the ORDERED result, before or after its final rounding, is NaN or an infinity, it stands. -/
def relaxedSum (fmt c : Nat) (ordered : Num) (xs : List Num) : Num :=
  let pick := f32.val (c % 2 ^ 32)
  let near := f32.val (rne f32 (Num.sum 0 xs))
  if !ordered.isFin || !(elemVal fmt (intoFmt fmt ordered)).isFin then ordered
  else if withinBound xs pick then pick
  else if withinBound xs near then near
  else ordered

/-- The sum of a node's terms as its ORDERED contract forms it: exactly, as the INT and LX modes do, whose zero has no sign (11 R269), or in
f32 by blocks of 32 or term by term. -/
def orderedSum (wide blocks : Bool) (xs : List Num) : Num :=
  if !wide then
    let r := Num.sum 0 xs
    if r.isZero then Num.zero else r
  else if blocks then f32.val ((blocks32 (xs.length + 1) xs).foldl (fun e b => f32Add e (blkF32 b)) 0)
  else
    match xs with
    | [] => Num.zero
    | x :: rest => f32.val (rest.foldl (fun e v => rne f32 (Num.add 0 (f32.val e) v)) (rne f32 x))

/-- Sum of exact products or elements under contract `ct`, taken to a format. `relax` is the free choice of a RELAXED node with
a float input; an integer sum is exact under every contract (07 R175). -/
def contractSum (fmt ct : Nat) (wide blocks : Bool) (xs : List Num) (relax : Option Nat) : Nat :=
  let r := orderedSum wide blocks xs
  match relax with
  | some c => intoFmt fmt (relaxedSum fmt c r xs)
  | none => if ct = 0 then exactFmtOf fmt r else intoFmt fmt r

/-- The exact product of two elements; that of two integers has no sign when it is zero (11 R259). -/
def elemProduct (fa fb x y : Nat) : Num :=
  if (fltOf fa).isNone ∧ (fltOf fb).isNone then Num.ofInt (intElem fa x * intElem fb y) else Num.mul (elemVal fa x) (elemVal fb y)

/-! ## The operators (07 R174) -/

def isFlt (f : Nat) : Bool := (fltOf f).isSome

/-- Accumulation is in f32: a float input wider than 8 bits takes part. -/
def wideFmts (l : List Nat) : Bool := l.any (fun f => (fltOf f).isSome) && l.any fun f => decide (8 < fmtBits f)

def runContract (x : BitVec 256) (a b : TVal) (relax : List Nat → Option Nat) : TVal :=
  let l := lettersOf x a.dims b.dims
  let ks := l.summed
  let kd := ks.map l.ext
  TVal.build (nFmt x) (l.lo.map l.ext) fun o =>
    let xs := (List.range (prod kd)).map fun k =>
      let env := l.lo.zip o ++ ks.zip (unflatten kd k)
      let ix (ls : List Nat) : List Nat := ls.map fun y => ((env.find? fun p => p.1 == y).map Prod.snd).getD 0
      elemProduct a.fmt b.fmt (a.at_ (ix l.la)) (b.at_ (ix l.lb))
    contractSum (nFmt x) (nCt x) (wideFmts [a.fmt, b.fmt]) true xs ((relax o).filter fun _ => isFlt a.fmt || isFlt b.fmt)

/-- PRED of a FILTER (07 R174): equality and order as IEEE 754 has them, and non-zero. -/
def predHolds (pred fmt k c : Nat) : Bool :=
  if pred = 6 then !(elemVal fmt k).isZero else Num.rel pred (elemVal fmt k) (elemVal fmt c)

def runFilter (x : BitVec 256) (a b : TVal) : TVal :=
  let w := if 2 ≤ a.dims.length then a.dims.getLastD 1 else 1
  let keep := b.elems.map fun k => predHolds (nByte x 8) b.fmt k (nConst x % 2 ^ fmtBits b.fmt)
  let rows := (List.range (rowsOf a.dims)).map fun r => (keep.getD r false, (a.elems.drop (r * w)).take w)
  if nByte x 9 = 1 then
    let l := rows.filter Prod.fst
    ⟨nFmt x, (if 2 ≤ a.dims.length then [l.length, w] else [l.length]), (l.flatMap Prod.snd).map (carry a.fmt (nFmt x))⟩
  else
    ⟨nFmt x, a.dims, rows.flatMap fun r => r.2.map fun e => if r.1 then carry a.fmt (nFmt x) e else 0⟩

def runMap (x : BitVec 256) (a : TVal) (b : Option TVal) : TVal :=
  let fn := nByte x 8
  ⟨nFmt x, a.dims, a.elems.zipIdx.map fun p =>
    let u := rne f32 (elemVal a.fmt p.1)
    let y := match b with
      | some b => rne f32 (elemVal b.fmt (b.elems.getD p.2 0))
      | none => nConst x
    let out (r : Nat) : Nat := intoFmt (nFmt x) (f32.val r)
    match fn with
    | 0 => carry a.fmt (nFmt x) p.1
    | 1 => out (fltMinMax f32 true u 0)
    | 2 => out (f32Add u y)
    | 3 => out (rne f32 (Num.mul (f32.val u) (f32.val y)))
    | 4 => out (rne f32 (Num.add 0 (f32.val u) (f32.val y).neg))
    | _ => out (rne f32 (approx 2 (f32.val u)))⟩

/-- Minimum or maximum of raw elements of one format; of none, an open value (log entry 19). -/
def extremum (fmt : Nat) (isMax : Bool) (xs : List Nat) : Nat :=
  match xs with
  | [] => Config.planChoice [fmt, b2n isMax] 0 1 % 2 ^ fmtBits fmt
  | y :: rest =>
    rest.foldl (fun acc z => match fltOf fmt with
      | some F => fltMinMax F isMax acc z
      | none => if (decide (intElem fmt acc < intElem fmt z)) == isMax then z else acc) y

def runReduce (x : BitVec 256) (a : TVal) (relax : List Nat → Option Nat) : TVal :=
  let red := (List.range a.dims.length).filter fun i => bitN (nByte x 9) i
  let kept := (List.range a.dims.length).filter fun i => !bitN (nByte x 9) i
  let rd := red.map fun i => a.dims.getD i 0
  let kd := kept.map fun i => a.dims.getD i 0
  let fn := nByte x 8
  let v := TVal.build (nFmt x) kd fun o =>
    let xs := (List.range (prod rd)).map fun k =>
      let env := kept.zip o ++ red.zip (unflatten rd k)
      a.at_ ((List.range a.dims.length).map fun i => ((env.find? fun p => p.1 == i).map Prod.snd).getD 0)
    if fn = 0 then contractSum (nFmt x) (nCt x) (isFlt a.fmt && nCt x != 0) false (xs.map (elemVal a.fmt)) ((relax o).filter fun _ => isFlt a.fmt)
    else carry a.fmt (nFmt x) (extremum a.fmt (fn == 2) xs)
  { v with dims := if kd.isEmpty then [1] else kd }

/-- Gathered slices, with the number of indices outside the dimension. -/
def runGather (x : BitVec 256) (a b : TVal) : TVal × Nat :=
  let ax := nByte x 8
  let n := a.dims.getD ax 0
  let r := b.dims.length
  let v := TVal.build (nFmt x) (splice a.dims ax b.dims) fun o =>
    let j := intElem 9 (b.at_ ((o.drop ax).take r))
    if j < 0 ∨ (n : Int) ≤ j then 0 else carry a.fmt (nFmt x) (a.at_ (o.take ax ++ [j.toNat] ++ o.drop (ax + r)))
  (v, b.elems.countP fun e => decide (intElem 9 e < 0) || decide ((n : Int) ≤ intElem 9 e))

/-- Where the values have the element that source position `p` scatters to `o`. -/
def scatterFrom (x : BitVec 256) (b : TVal) (o : List Nat) (p : Nat) : List Nat :=
  o.take (nByte x 8) ++ unflatten b.dims p ++ o.drop (nByte x 8 + 1)

/-- The source positions whose index names the slice of `o`, ascending; those that a compacted input does not have are none. -/
def scatterHits (x : BitVec 256) (a b : TVal) (o : List Nat) : List Nat :=
  if b.dims.isEmpty then []
  else (List.range (prod b.dims)).filter fun p =>
    intElem 9 (b.elems.getD p 0) == ((o.getD (nByte x 8) 0 : Nat) : Int) &&
      (((scatterFrom x b o p).zip a.dims).all fun q => decide (q.1 < q.2))

/-- Values scattered into the target: overwrite, or add in ascending source position. Only slices that an index names are written, and
only an add looks at what they held. -/
def runScatter (x : BitVec 256) (a b t : TVal) (relax : List Nat → Option Nat) : TVal :=
  TVal.build (nFmt x) t.dims fun o =>
    let hits := scatterHits x a b o
    let src (p : Nat) : Nat := a.at_ (scatterFrom x b o p)
    if hits.isEmpty then t.at_ o
    else if nByte x 9 = 0 then carry a.fmt (nFmt x) (src (hits.getLastD 0))
    else contractSum (nFmt x) (nCt x) (isFlt a.fmt && nCt x != 0) false
      (elemVal (nFmt x) (t.at_ o) :: hits.map fun p => elemVal a.fmt (src p)) ((relax o).filter fun _ => isFlt a.fmt)

/-- `p` comes before `q` among the greatest: greater value, then lower index; NaN ranks below every number. -/
def ranksBefore (fmt : Nat) (p q : Nat × Nat) : Bool :=
  let u := elemVal fmt p.1
  let v := elemVal fmt q.1
  if u.isNan then v.isNan && decide (p.2 < q.2)
  else if v.isNan then true
  else decide (0 < Num.cmp u v) || (Num.cmp u v == 0 && decide (p.2 < q.2))

def runTopk (x : BitVec 256) (a : TVal) : TVal :=
  let ax := nByte x 8
  let k := bitsN x.toNat 80 16
  TVal.build 9 (setAt a.dims ax k) fun o =>
    let col := (List.range (a.dims.getD ax 0)).map fun i => (a.at_ (setAt o ax i), i)
    let rank (p : Nat × Nat) : Nat := col.countP fun q => ranksBefore a.fmt q p
    ((col.find? fun p => rank p == o.getD ax 0).map Prod.snd).getD 0

def runThreshold (x : BitVec 256) (a : TVal) : TVal :=
  ⟨nFmt x, a.dims, a.elems.map fun e =>
    if Num.rel 5 (elemVal a.fmt e) (f32.val (nConst x)) then carry a.fmt (nFmt x) e else 0⟩

def runConcat (x : BitVec 256) (a b : TVal) : TVal :=
  let ax := nByte x 8
  let n := a.dims.getD ax 0
  TVal.build (nFmt x) (setAt a.dims ax (n + b.dims.getD ax 0)) fun o =>
    let i := o.getD ax 0
    if i < n then carry a.fmt (nFmt x) (a.at_ o) else carry b.fmt (nFmt x) (b.at_ (setAt o ax (i - n)))

def runPermute (x : BitVec 256) (a : TVal) : TVal :=
  let p := (List.range a.dims.length).map fun i => nByte x (8 + i)
  TVal.build (nFmt x) (p.map fun i => a.dims.getD i 0) fun o => carry a.fmt (nFmt x) (a.at_ (unpermute p o))

/-- IEEE 754 quotient of two values. -/
def numDiv (a b : Num) : Num :=
  match a, b with
  | .nan, _ => .nan
  | _, .nan => .nan
  | .inf _, .inf _ => .nan
  | .inf s, y => .inf (s != y.isNeg)
  | x, .inf s => .fin (x.isNeg != s) 0 0 false
  | .fin na ma ea _, .fin nb mb eb _ =>
    if mb = 0 then (if ma = 0 then .nan else .inf (na != nb))
    else if ma = 0 then .fin (na != nb) 0 0 false
    else Num.divFin na ma ea nb mb eb

/-- The scale of an element: one for each group along the last dimension. -/
def scaleOf (x : BitVec 256) (b : TVal) (o : List Nat) : Num :=
  elemVal 6 (b.at_ (o.dropLast ++ [o.getLastD 0 / groupLen (nByte x 8)]))

def zeroPoint (x : BitVec 256) : Int := sextN 8 (nByte x 9)

def runQuant (x : BitVec 256) (a b : TVal) : TVal :=
  TVal.build (nFmt x) a.dims fun o =>
    let q := rne f32 (numDiv (elemVal a.fmt (a.at_ o)) (scaleOf x b o))
    let i : Int := match f32.val q with
      | .nan => 0
      | .inf neg => if neg then -(2 ^ 64 : Int) else 2 ^ 64
      | .fin neg m e more => roundInt 0 neg m e more
    wrapN (fmtBits (nFmt x)) (satf (nFmt x) (i + zeroPoint x)).1

def runDequant (x : BitVec 256) (a b : TVal) : TVal :=
  TVal.build (nFmt x) a.dims fun o =>
    let q := Num.ofInt (intElem a.fmt (a.at_ o) - zeroPoint x)
    intoFmt (nFmt x) (f32.val (rne f32 (Num.mul q (scaleOf x b o))))

/-- The result of a node, with its out-of-range gather indices. `target` is what the bound tensor of a SCATTER holds. -/
def runNode (x : BitVec 256) (a : TVal) (b : Option TVal) (target : TVal) (relax : List Nat → Option Nat) : TVal × Nat :=
  let b' := b.getD ⟨9, [], []⟩
  match nOp x with
  | 1 => (runContract x a b' relax, 0)
  | 2 => (runFilter x a b', 0)
  | 3 => (runMap x a b, 0)
  | 4 => (runReduce x a relax, 0)
  | 5 => runGather x a b'
  | 6 => (runScatter x a b' target relax, 0)
  | 7 => (runTopk x a, 0)
  | 8 => (runThreshold x a, 0)
  | 9 => (runConcat x a b', 0)
  | 10 => (runPermute x a, 0)
  | 11 => (runQuant x a b', 0)
  | _ => (runDequant x a b', 0)

/-! ## Statistics of a value (07 R183) -/

structure Stats where
  rows : Nat
  nzr : Nat
  min : Nat
  max : Nat
  deriving DecidableEq, Repr

/-- The form of MIN and MAX: f32 bits for a float format, otherwise i32. -/
def statWord (fmt x : Nat) : Nat :=
  match fltOf fmt with
  | some F => rne f32 (F.val x)
  | none => wrapN 32 (intElem fmt x)

def TVal.stats (v : TVal) : Stats :=
  let rows := rowsOf v.dims
  let w := if rows = 0 then 1 else v.elems.length / rows
  { rows := rows
    nzr := (List.range rows).countP fun r => ((v.elems.drop (r * w)).take w).any fun e => !(elemVal v.fmt e).isZero
    min := statWord v.fmt (extremum v.fmt false v.elems)
    max := statWord v.fmt (extremum v.fmt true v.elems) }

end Sys2Proof.Machine
end

