-- ==== Sys2Proof/Machine/Packets.lean ====
section
/-! DEFINITION. The end of a packet: status codes, completion writes, writes that are kept, and queues that stall (05 R114, R116,
R119, R120, R124). -/

namespace Sys2Proof.Machine

/-- Completion status codes (05 R119). -/
def psAborted : Nat := 1
def psBadPacket : Nat := 2
def psUnknown : Nat := 3
def psSealReject : Nat := 4
def psKilled : Nat := 5
def psPlanInvalid : Nat := 6
def psJobFault : Nat := 7

/-- No completion signal. -/
def noSignal : Nat := 0xFFFFFFFF

def DCtx.queue (d : DCtx) (q : Nat) : Queue := getIdx d.queues q Queue.reset
def State.queueOf (s : State) (dctx q : Nat) : Queue := (s.dctxOf dctx).queue q
def State.modQueue (s : State) (dctx q : Nat) (f : Queue → Queue) : State :=
  s.modDctx dctx fun d => { d with queues := setIdx d.queues q (f (d.queue q)) }

/-- Die whose firmware core serves a queue (05 R106). -/
def Queue.die (q : Queue) : Nat := q.hwq.toNat / 16

/-- Send the queue's vector to the host (05 R109). -/
def State.sendQv (s : State) (dctx q : Nat) : State := s.msix (s.fnOf dctx) (s.queueOf dctx q).qv.toNat

/-- STALL_FAULT with FSTAT 0 (05 R124). -/
def State.stallQueue (s : State) (dctx q : Nat) : State :=
  (s.modQueue dctx q fun x => { x with st := .stallFault, fstat := 0 }).sendQv dctx q

/-- What a completion writes: 0 stands for the decrement, else the failure value (05 R119). -/
def completionWord (status jobStatus : Nat) : Nat := if status = 0 then 0 else 2 ^ 63 + status + jobStatus * 256

/-- The write of a completion signal: a decrement, or a plain store of the failure value. -/
def State.signalWrite (s : State) (die dctx csig word : Nat) : Except Trouble State :=
  let who := s.fwWho dctx
  if word = 0 then s.sigUpdate die who dctx csig sigDec
  else (s.vaWrite die who (s.sigVa dctx csig) (bytesOfNat 8 word)).map Prod.snd

/-- The release of a completion: dirty lines of C = 0 pages are written back (03 R77). -/
def State.releaseAll (s : State) : State := (List.range 4).foldl State.ncFlush s

/-- The signal lies on poison of an ET = 0 page. -/
def State.signalPoisoned (s : State) (die dctx csig : Nat) : Bool :=
  match s.vaRead die (s.fwWho dctx) (s.sigVa dctx csig) 8 with
  | .error _ => false
  | .ok r => r.1.poison

/-- A completion write outside the checks of a poll: it may meet a fault or poison on the signal's page (05 R119). -/
def State.completionWrite (s : State) (die dctx csig word : Nat) : Except Trouble State :=
  if s.signalPoisoned die dctx csig then .error ⟨cPoison, s.sigVa dctx csig⟩ else s.signalWrite die dctx csig word

/-- A completion write outside a poll: one that meets a fault or poison, and every later one of the queue, is kept (05 R119). -/
def State.completion (s : State) (dctx q csig word : Nat) : State :=
  let s := s.releaseAll
  if csig = noSignal then s
  else if !(s.queueOf dctx q).kept.isEmpty then s.modQueue dctx q fun x => { x with kept := x.kept ++ [(csig, word)] }
  else
    match s.completionWrite (s.queueOf dctx q).die dctx csig word with
    | .ok t => t
    | .error _ => (s.modQueue dctx q fun x => { x with kept := x.kept ++ [(csig, word)] }).stallQueue dctx q

/-- A launched packet completes: FSTAT records a failure, then its signal is written, and the queue that it held with B = 1 goes on
(05 R109, R114). Where the write faults, STALL_FAULT leaves FSTAT 0 (R119). -/
def State.packetDone (s : State) (dctx q csig : Nat) (b : Bool) (status jobStatus : Nat) : State :=
  let s := if status = 0 || !(s.queueOf dctx q).kept.isEmpty then s
    else s.modQueue dctx q fun x => { x with fstat := BitVec.ofNat 8 status }
  let s := s.completion dctx q csig (completionWord status jobStatus)
  if b then s.modQueue dctx q fun x => { x with held := false } else s

/-- A grid leaves the part: contexts, records, teams, tiles, jobs and FIFO places go, and its table entry is free. -/
def State.dropGrid (s : State) (g : Nat) : State :=
  let on := s.recs.filterMap fun r => if r.grid == g then r.onCtx else none
  let s := on.foldl (fun s a => let p := splitAgent a; s.vacate p.1 p.2) s
  let mine (j : Job) : Bool := j.grid == g && (match j.owner with
    | .packet _ _ _ _ _ _ _ _ _ => false
    | _ => true)
  let s := (s.jobs.filter mine).foldl State.jobLeaveDone s
  { s with
    recs := s.recs.filter fun r => r.grid != g
    teams := s.teams.filter fun t => t.grid != g
    jobs := s.jobs.filter fun j => !mine j
    fifo := s.fifo.filter fun f => f.grid != g
    grids := s.grids.filter fun x => x.1 != g
    cores := s.cores.map fun (c : Core) => { c with tiles := c.tiles.map fun (t : Tile) =>
      if (t.owner.map Prod.fst == some g) then { t with owner := none } else t } }

end Sys2Proof.Machine
end

