-- ==== Sys2Proof/Machine/Plan.lean ====
section
/-! DEFINITION. The drafting unit: submission, planning, plan records, handles, runs, breaks, hints, pins, invalidation, statistics
and planned matrix work (07; 17 R413 to R417; 22 R431, R432). -/

namespace Sys2Proof.Machine

/-! ## Tables (07 R170, R171, R183) -/

def statVa (tbase six : Nat) : Nat := tbase + 0x400000 + 32 * six
def poolVa (tbase : Nat) : Nat := tbase + 0x420000

/-- Fields of a statistics entry (07 R183). -/
def stRows (e : Nat) : Nat := bitsN e 0 64
def stNzr (e : Nat) : Nat := bitsN e 64 64
def stMin (e : Nat) : Nat := bitsN e 128 32
def stMax (e : Nat) : Nat := bitsN e 160 32
def stV (e : Nat) : Bool := bitN e 192
def stVer (e : Nat) : Nat := bitsN e 224 32

/-- Rewrite an entry; VER rises by one. -/
def State.statWrite (s : State) (dctx tbase six : Nat) (x : Stats) (sf : Nat) : State :=
  match s.tableRead dctx (statVa tbase six) 32 with
  | .error _ => s
  | .ok bs =>
    s.tableWrite dctx (statVa tbase six)
      (bytesOfNat 8 x.rows ++ bytesOfNat 8 x.nzr ++ bytesOfNat 4 x.min ++ bytesOfNat 4 x.max ++ bytesOfNat 4 sf ++
        bytesOfNat 4 (stVer (natOfBytes bs) + 1))

/-! ## What a planning reads (07 R172, R173, R180) -/

/-- A query with everything that its planning depends on. -/
structure Query where
  nodes : List (BitVec 256)
  binds : List (BitVec 64)
  whole : Bool
  types : List TType
  bindTypes : List TType
  sixes : List Nat
  stats : List Nat
  pools : List (Nat × Nat)
  /-- the bytes read, as the numbers that R180 makes the plan a function of -/
  read : List Nat
  deriving DecidableEq, Repr

def bindId (w : BitVec 64) : Nat := bitsN w.toNat 0 16
def bindWr (w : BitVec 64) : Bool := w.getLsbD 16

/-- Who reads and writes for a plan (09 R234). -/
def Plan.who (p : Plan) : Who := ⟨p.dctx, p.tbase, p.pkt.isNone⟩
def draftWho (dctx tbase : Nat) : Who := ⟨dctx, tbase, false⟩

def State.bytesAt (s : State) (who : Who) (va n : Nat) : Option (List Byte) :=
  match s.vaRead 0 who va n with
  | .ok r => if r.1.poison then none else some r.1.bytes
  | .error _ => none

/-- The type of an input: a node's result or a bound tensor. -/
def inType (types bindTypes : List TType) (v : Nat) : TType := if v < 0x20 then types.getD v (9, []) else bindTypes.getD (v - 0x40) (9, [])

/-- Types of all nodes in order, or QD_SHAPE (4) or QD_CONTRACT (5). -/
def nodeTypes (nodes : List (BitVec 256)) (bindTypes : List TType) : Except Nat (List TType) :=
  nodes.foldlM (fun (types : List TType) x => do
    let ins := (nIns x).map (inType types bindTypes)
    let target := if nOut x = 0xFF then none else bindTypes[nOut x]?
    match nodeShape x ins target with
    | none => .error 4
    | some d =>
      if (match target with
          | some t => t.1 != nFmt x || t.2 != d
          | none => false) then .error 4
      else if !contractOk x ins then .error 5
      else .ok (types ++ [(nFmt x, d)])) []

/-- Shape records and statistics of the bindings, or QD_FAULT. -/
def State.bindInfo (s : State) (who : Who) (binds : List (BitVec 64)) : Except Nat (List (TType × Nat × Nat)) :=
  binds.foldlM (fun (acc : List (TType × Nat × Nat)) w =>
    match readTsr s who (bindId w) with
    | .error _ => .error 7
    | .ok t =>
      match s.tableRead who.dctx (statVa who.tsrt t.six) 32 with
      | .error _ => .error 7
      | .ok bs => .ok (acc ++ [((t.fmt, t.dims), t.six, natOfBytes bs)])) []

/-- Bytes that a thread's submission reads: as loads of the thread, the local aperture among them (17 R413). -/
def State.threadBytes (s : State) (va n : Nat) : Option (List Byte) :=
  match s.route needR va n with
  | .error _ => none
  | .ok r => let x := (s.readRoute false r n).1; if x.poison then none else some x.bytes

/-- The pools of a descriptor page: base, and size, 0 where the entry is not aligned (07 R171). -/
def poolsOf (pb : List Byte) : List (Nat × Nat) :=
  (List.range 5).map fun c =>
    let base := fieldAt pb (16 * c) 8
    let size := fieldAt pb (16 * c + 8) 8
    (base, if base % 2 ^ 21 = 0 ∧ size % 2 ^ 21 = 0 then size else 0)

/-- A descriptor with its bindings: header, nodes, binding words (07 R172). -/
structure QueryText where
  head : Nat
  nodes : List (BitVec 256)
  binds : List (BitVec 64)
  deriving DecidableEq, Repr

/-- Read and check a descriptor and its bindings: QD_FORMAT, QD_TREE or QD_FAULT, or what they say (07 R172, R173, R176). `rd` reads
as the submitter does. -/
def readText (rd : Nat → Nat → Option (List Byte)) (qd bd : Nat) : Except Nat QueryText :=
  if qd % 8 ≠ 0 ∨ bd % 8 ≠ 0 then .error 2
  else
    match rd qd 64 with
    | none => .error 7
    | some hd =>
      let nn := fieldAt hd 4 1
      let nb := fieldAt hd 5 1
      if fieldAt hd 0 4 ≠ 0x48585144 ∨ nn < 1 ∨ 32 < nn ∨ nb < 1 ∨ 64 < nb then .error 2
      else
        match rd (qd + 64) (32 * nn), rd bd (8 * nb) with
        | some nr, some br =>
          let nodes := (words 32 nr nn).map (BitVec.ofNat 256)
          let binds := (words 8 br nb).map (BitVec.ofNat 64)
          let wr (j : Nat) : Bool := (binds[j]?).any bindWr
          if 1 < fieldAt hd 6 1 ∨ fieldAt hd 7 57 ≠ 0 ∨ (binds.any fun w => decide (2 ^ 17 ≤ w.toNat)) = true ∨
              (nodes.all fun x => nodeFormatOk x nb wr) = false then .error 2
          else if !treeOk nodes then .error 3
          else .ok ⟨natOfBytes hd, nodes, binds⟩
        | _, _ => .error 7

/-- A query put together from what was read. -/
def Query.of (x : QueryText) (types shapes : List TType) (sixes stats : List Nat) (pb : List Byte) : Query where
  nodes := x.nodes
  binds := x.binds
  whole := bitsN x.head 48 8 == 1
  types := types
  bindTypes := shapes
  sixes := sixes
  stats := stats
  pools := poolsOf pb
  read := x.head :: x.nodes.map BitVec.toNat ++ x.binds.map BitVec.toNat ++ (shapes.flatMap fun t => t.1 :: t.2) ++ stats ++ [natOfBytes pb]

/-- What a planning reads beside the text: shape records, statistics and pools; the refusal code, or the query (07 R174 to R176). -/
def State.readTables (s : State) (who : Who) (x : QueryText) : Except Nat Query := do
  let info ← s.bindInfo who x.binds
  let bt := info.map Prod.fst
  let types ← nodeTypes x.nodes bt
  match s.tableRead who.dctx (poolVa who.tsrt) 80 with
  | .error _ => .error 7
  | .ok pb => return Query.of x types bt (info.map (·.2.1)) (info.map (·.2.2)) pb

/-- Read and check a query: the refusal code, or its text and all that its planning reads (07 R172 to R176). -/
def State.readQuery (s : State) (who : Who) (rd : Nat → Nat → Option (List Byte)) (qd bd : Nat) : Except Nat (QueryText × Query) := do
  let x ← readText rd qd bd
  let q ← s.readTables who x
  return (x, q)

/-- The query of a live plan for a re-planning at a break (07 R180, R184): its text and shapes as they were read at submission (17
R414), with the statistics and pools of now. An entry that cannot be read counts as not valid, an unreadable pool page as no pools. -/
def State.queryAgain (s : State) (p : Plan) : Query :=
  let stats := p.sixes.map fun six => match s.tableRead p.dctx (statVa p.tbase six) 32 with
    | .ok bs => natOfBytes bs
    | .error _ => 0
  let pb := match s.tableRead p.dctx (poolVa p.tbase) 80 with
    | .ok bs => bs
    | .error _ => []
  Query.of ⟨p.head, p.nodes, p.binds⟩ p.types p.shapes p.sixes stats pb

/-! ## The plan space (07 R177 to R180, R187) -/

/-- Rows estimated for an input, from the estimates so far and the statistics. -/
def Query.rowsEst (q : Query) (eff : List Nat) (v : Nat) : Nat :=
  if v < 0x20 then eff.getD v 0
  else
    let e := q.stats.getD (v - 0x40) 0
    if stV e then stRows e else rowsOf (q.bindTypes.getD (v - 0x40) (9, [])).2

/-- MIN or MAX of an entry as a value. -/
def statNum (fmt x : Nat) : Num := if (fltOf fmt).isSome then f32.val x else Num.ofInt (sextN 32 x)

/-- No value, or every value, in [lo, hi] satisfies the predicate against c (07 R179). -/
def predNone (pred : Nat) (lo hi : Int) : Bool :=
  match pred with
  | 0 => decide (0 < lo) || decide (hi < 0)
  | 1 => lo == 0 && hi == 0
  | 2 => decide (0 ≤ lo)
  | 3 => decide (0 < lo)
  | 4 => decide (hi ≤ 0)
  | _ => decide (hi < 0)

def predEvery (pred : Nat) (lo hi : Int) : Bool :=
  match pred with
  | 0 => lo == 0 && hi == 0
  | 1 => decide (0 < lo) || decide (hi < 0)
  | 2 => decide (hi < 0)
  | 3 => decide (hi ≤ 0)
  | 4 => decide (0 < lo)
  | _ => decide (0 ≤ lo)

/-- n_e of a node (07 R179). A key that a node computes has no entry: its count is the planner's own (log entry 19). -/
def Query.estimate (q : Query) (input : List Nat) (i : Nat) (x : BitVec 256) (eff : List Nat) : Nat :=
  match nOp x with
  | 5 => prod (inType q.types q.bindTypes (nIn x 1)).2
  | 7 => bitsN x.toNat 80 16
  | 2 =>
    let k := nIn x 1
    if k < 0x20 then Config.planChoice input i 9 % (q.rowsEst eff (nIn x 0) + 1)
    else
      let e := q.stats.getD (k - 0x40) 0
      let t := q.bindTypes.getD (k - 0x40) (9, [])
      let rows := q.rowsEst eff k
      let c := elemVal t.1 (nConst x % 2 ^ fmtBits t.1)
      if nByte x 8 = 6 then (if stV e then stNzr e else rows)
      else if c.isNan then (if nByte x 8 = 1 then rows else 0)
      else if !stV e then rows / 2
      else
        let lo := statNum t.1 (stMin e)
        let hi := statNum t.1 (stMax e)
        if lo.isNan || hi.isNan then rows / 2
        else if predNone (nByte x 8) (Num.cmp lo c) (Num.cmp hi c) then 0
        else if predEvery (nByte x 8) (Num.cmp lo c) (Num.cmp hi c) then stRows e
        else rows / 2
  | _ => q.rowsEst eff (nIn x 0)

def isCompact (x : BitVec 256) : Bool := nOp x == 2 && nByte x 9 == 1

/-- The node that consumes node `i`. -/
def Query.consumer (q : Query) (i : Nat) : Option (BitVec 256) := q.nodes.find? fun y => (nIns y).contains i

def pick (l : List Nat) (n : Nat) : Nat := l.getD (n % l.length) 0

/-- A hint word's fields (17 R416). -/
def hintPhys (h : BitVec 16) : Option Nat := if h.getLsbD 8 then some (bitsN h.toNat 9 3) else none
def hintGran (h : BitVec 16) : Option Nat := if h.getLsbD 12 then some (bitsN h.toNat 13 3) else none

/-- The physical operator (07 R177, R178, R187). -/
def Query.physOf (q : Query) (input : List Nat) (i : Nat) (x : BitVec 256) (eff : List Nat) (h : BitVec 16) : Nat :=
  if nOp x ≠ 1 then 0
  else
    let drain : Bool := (q.consumer i).any fun y => nOp y == 3 || nOp y == 11
    let legal := [1, 2, 3, 4] ++ (if drain then [5] else [])
    match (hintPhys h).filter legal.contains with
    | some p => p
    | none =>
      match (nIns x).find? fun v => decide (v < 0x20) && ((q.nodes[v]?).any isCompact) with
      | some v =>
        let data := ((q.nodes[v]?).map fun y => rowsOf (inType q.types q.bindTypes (nIn y 0)).2).getD 0
        if 4 * eff.getD v 0 < data then 3 else 1
      | none => pick legal (Config.planChoice input i 0)

/-- Access path of an input: a pool only for a node, an index gather only for a compacted or gathered one. -/
def Query.pathOf (q : Query) (input : List Nat) (i k : Nat) (v : Nat) : Nat :=
  if v = 0xFF then 0xFF
  else
    let gathered : Bool := decide (v < 0x20) && ((q.nodes[v]?).any fun y => isCompact y || nOp y == 5)
    pick ([0, 1, 3] ++ (if gathered then [2] else []) ++ (if v < 0x20 then [4] else [])) (Config.planChoice input i (1 + k))

/-- The letters of a node, outermost first, in one of their orders. -/
def Query.orderOf (q : Query) (input : List Nat) (i : Nat) (x : BitVec 256) : List Nat :=
  if nOp x ≠ 1 then []
  else
    match letters x (inType q.types q.bindTypes (nIn x 0)).2 (inType q.types q.bindTypes (nIn x 1)).2 with
    | some l => let ls := l.size.map Prod.fst; permute ls.length (Config.planChoice input i 3) ls
    | none => []

def Query.verOf (q : Query) (v : Nat) : Nat := if 0x40 ≤ v ∧ v < 0x80 then stVer (q.stats.getD (v - 0x40) 0) else 0

/-- Bytes of an intermediate. -/
def typeBytes (t : TType) : Nat := ceilDiv (prod t.2 * fmtBits t.1) 8

/-- Every page of [va, va + len) carries granule class `g` (07 R171). -/
def State.poolPages (s : State) (who : Who) (g va len : Nat) : Bool :=
  (cutAt 4096 va len).all fun c => match translate s who ⟨false, false, false⟩ c.1 with
    | .ok p => p.gran == g
    | .error _ => false

/-- The K-blocks of 32 of a node's sums: a split has no more pieces (07 R177). -/
def Query.kBlocks (q : Query) (x : BitVec 256) : Nat :=
  let a := inType q.types q.bindTypes (nIn x 0)
  let k : Nat := match nOp x with
    | 1 => ((letters x a.2 (inType q.types q.bindTypes (nIn x 1)).2).map fun l => prod (l.summed.map l.ext)).getD 1
    | 4 => prod ((a.2.zipIdx.filter fun p => bitN (nByte x 9) p.2).map Prod.fst)
    | _ => prod (inType q.types q.bindTypes (nIn x 1)).2
  max 1 (ceilDiv k 32)

/-- The lowest place for `n` bytes in [base, base + size) beside what is taken; a place starts at a whole granule (log entry 19). -/
def placeIn (base size n unit : Nat) (taken : List (Nat × Nat)) : Option Nat :=
  let ends := taken.map fun t => base + roundUp (t.1 + t.2 - base) unit
  (sortBy id (base :: ends)).find? fun a =>
    decide (base ≤ a) && decide (a + n ≤ base + size) && taken.all fun t => !(decide (a < t.1 + t.2) && decide (t.1 < a + n))

/-- What a planning keeps of an earlier one: choices and places of nodes, the rows observed, and the places that a node had in the
initial plan. -/
structure PlanKept where
  choice : Nat → Option Choice
  obs : Nat → Option Nat
  place : Nat → Option PoolPart
  was : List PoolPart

def PlanKept.fresh : PlanKept := ⟨fun _ => Option.none, fun _ => Option.none, fun _ => Option.none, []⟩

/-- The place of an intermediate of `size` bytes in pool `g`: the one that the node had there, or the lowest that is free (07 R171, R191),
else NOSPACE (6); QD_FAULT (7) where a page of it is not the pool's. -/
def State.placeNode (s : State) (who : Who) (q : Query) (i g size : Nat) (was taken : List PoolPart) : Except Nat PoolPart :=
  let pool := q.pools.getD g (0, 0)
  match (was.find? fun p => p.node == i && p.pool == g && p.len == size).map (·.va) <|>
      placeIn pool.1 pool.2 size (32 * 2 ^ g) (taken.map fun p => (p.va, p.len)) with
  | none => .error 6
  | some va => if s.poolPages who g va size then .ok ⟨i, g, va, size⟩ else .error 7

/-- What a granule's choice looks at: the text, the shapes and the pools. What a break observes or a table counts has no part in it, so a
re-plan chooses as the initial planning did (log entry 19). -/
def Query.granInput (q : Query) : List Nat :=
  q.nodes.map BitVec.toNat ++ q.binds.map BitVec.toNat ++ (q.bindTypes.flatMap fun t => t.1 :: t.2) ++ q.pools.flatMap fun p => [p.1, p.2]

/-- Room of a pool that an intermediate of `n` bytes takes: whole granules. -/
def takes (g n : Nat) : Nat := roundUp n (32 * 2 ^ g)

/-- Rooms of the five pools after one intermediate. -/
def roomAfter (rooms : List Nat) (g n : Nat) : List Nat := setAt rooms g (rooms.getD g 0 - takes g n)

/-- The pools `gs` can hold intermediates of these sizes, each in some class (07 R176, R177). -/
def canHold (gs rooms : List Nat) : List Nat → Bool
  | [] => true
  | n :: rest => gs.any fun g => decide (takes g n ≤ rooms.getD g 0) && canHold gs (roomAfter rooms g n) rest

/-- The classes for an intermediate of `n` bytes with which the pools can hold those that follow too. -/
def legalGrans (gs rooms : List Nat) (n : Nat) (later : List Nat) : List Nat :=
  gs.filter fun g => decide (takes g n ≤ rooms.getD g 0) && canHold gs (roomAfter rooms g n) later

/-- Class and place of an intermediate. The hinted class counts where its pool has room for it (07 R187). The class of the model's own choice
looks at the sizes of the pools alone; where others leave no place in that pool, the submission is refused, and a node that is re-planned
stays where the initial plan has it. -/
def State.granPlace (s : State) (who : Who) (q : Query) (i size : Nat) (h : BitVec 16) (legal : List Nat) (was taken : List PoolPart) :
    Except Nat PoolPart :=
  match ((hintGran h).filter legal.contains).bind fun g => (s.placeNode who q i g size was taken).toOption with
  | some part => .ok part
  | none =>
    let own : Except Nat PoolPart :=
      if legal.isEmpty then .error 6 else s.placeNode who q i (pick legal (Config.planChoice q.granInput i 7)) size was taken
    match own, was.find? fun p => p.node == i with
    | .ok part, _ => .ok part
    | .error _, some part => .ok part
    | .error e, none => .error e

/-- Choices of the nodes in order, as a function of what R180 names, and the places of the intermediates beside what other handles
take: the room that others hold can only refuse the plan (R176), or a hint (R187). Answers choices and places, or NOSPACE (6) or
QD_FAULT (7). -/
def State.choose (s : State) (who : Who) (q : Query) (input : List Nat) (hints : Table (BitVec 16)) (kept : PlanKept)
    (taken : List PoolPart) : Except Nat (List Choice × List PoolPart) := do
  let sizeOf (i : Nat) : Nat := typeBytes (q.types.getD i (9, []))
  let gs := (List.range 5).filter fun g => decide (0 < (q.pools.getD g (0, 0)).2)
  let inner := q.nodes.zipIdx.filter fun p => nOut p.1 == 0xFF
  let open_ := inner.filter fun p => (kept.choice p.2).isNone
  let rooms := inner.foldl (fun rooms p => match kept.choice p.2 with
    | some c => roomAfter rooms c.gran (sizeOf p.2)
    | none => rooms) (q.pools.map Prod.snd)
  let r ← q.nodes.zipIdx.foldlM (fun (acc : List Choice × List Nat × List Nat × List PoolPart) p => do
    let x := p.1
    let i := p.2
    let eff := acc.2.2.1
    let parts := acc.2.2.2
    let ne := q.estimate input i x eff
    let h := tget hints i 0
    let c : Choice := (kept.choice i).getD
      { phys := q.physOf input i x eff h, path0 := q.pathOf input i 0 (nIn x 0), path1 := q.pathOf input i 1 (nIn x 1), gran := 7
        split := if hasContract x && nCt x == 2 then 1 + Config.planChoice input i 4 % min 16 (q.kBlocks x) else 1
        breakAfter := isCompact x || nOp x == 7 || Config.planChoice input i 5 % 2 == 1
        order := q.orderOf input i x, nest := ne, nobs := 0xFFFFFFFF, sv0 := q.verOf (nIn x 0), sv1 := q.verOf (nIn x 1)
        replanned := false, in1 := nOp x == 1 && Config.planChoice input i 6 % 2 == 1 }
    let est := (kept.obs i).getD c.nest
    if nOut x ≠ 0xFF then return (acc.1 ++ [c], acc.2.1, eff ++ [est], parts)
    else if (kept.choice i).isSome then return (acc.1 ++ [c], acc.2.1, eff ++ [est], parts ++ (kept.place i).toList)
    else
      let later := (open_.filter fun p => decide (i < p.2)).map fun p => sizeOf p.2
      let part ← s.granPlace who q i (sizeOf i) h (legalGrans gs acc.2.1 (sizeOf i) later) kept.was (taken ++ parts)
      return (acc.1 ++ [{ c with gran := part.pool }], roomAfter acc.2.1 part.pool (sizeOf i), eff ++ [est], parts ++ [part]))
    ([], rooms, [], [])
  return (r.1, r.2.2.2)

/-- The places that the other handles of an address space hold in the pools: they are free again with their handle (07 R181). -/
def State.poolTakenBy (s : State) (dctx id : Nat) : List PoolPart :=
  (s.plans.filter fun p => s.sameSpace p.dctx dctx && p.id != id).flatMap fun p => p.room ++ p.roomNow

/-- The numbers that a planning result is a function of (07 R180). -/
def planInput (q : Query) (e : Nat) (hints : Table (BitVec 16)) (pinned : Bool) (pins : List Nat) (obs : List Nat) (fwv : Nat) : List Nat :=
  q.read ++ [e, b2n pinned, Config.partRevision.toNat, fwv] ++ (hints.flatMap fun h => [h.1, h.2.toNat]) ++ (sortBy id pins).dedup ++ obs

/-! ## Plan records (07 R182) -/

def HState.code : HState → Nat
  | .free => 0
  | .planning => 1
  | .ready => 2
  | .running => 3
  | .done => 4
  | .invalid => 5

def Choice.bytes (c : Choice) (pinned : Bool) : List Byte :=
  bytesOfNat 1 c.phys ++ bytesOfNat 1 c.path0 ++ bytesOfNat 1 c.path1 ++ bytesOfNat 1 c.gran ++ bytesOfNat 1 c.split ++
    bytesOfNat 1 (b2n c.breakAfter + 2 * b2n pinned + 4 * b2n c.replanned + 8 * b2n c.in1) ++ bytesOfNat 2 0 ++
    padTo 8 (c.order.map (BitVec.ofNat 8)) ++ bytesOfNat 4 (min c.nest (2 ^ 32 - 1)) ++ bytesOfNat 4 (min c.nobs (2 ^ 32 - 1)) ++
    bytesOfNat 4 c.sv0 ++ bytesOfNat 4 c.sv1

def Plan.record (p : Plan) (l : List Choice) : List Byte :=
  bytesOfNat 4 0x48585052 ++ bytesOfNat 1 p.st.code ++ bytesOfNat 1 p.nodes.length ++ bytesOfNat 1 p.e ++
    bytesOfNat 1 (b2n p.pinned + 2 * b2n p.invalidated + 4 * b2n p.resume.isSome + 8 * b2n p.runPending) ++
    bytesOfNat 4 p.runs ++ bytesOfNat 4 p.repl ++ bytesOfNat 4 (min p.goob (2 ^ 32 - 1)) ++
    bytesOfNat 4 Config.partRevision.toNat ++ bytesOfNat 4 p.fwv ++ bytesOfNat 4 (min p.pt (2 ^ 32 - 1)) ++ bytesOfNat 32 0 ++
    (l.zipIdx.flatMap fun c => c.1.bytes (p.nodePins.contains c.2))

/-- The slot of a handle shows its records. -/
def State.showPlan (s : State) (id : Nat) : State :=
  match s.planOf id with
  | none => s
  | some p =>
    (s.tableWrite p.dctx (planSlot p.tbase p.handle) (p.record p.current)).tableWrite p.dctx
      (planSlot p.tbase p.handle + 0x600) (p.record p.initial)

/-- Change a plan and show it. -/
def State.setPlan (s : State) (id : Nat) (f : Plan → Plan) : State := (s.modPlan id f).showPlan id

/-! ## Submission (07 R176, R181; 22 R432) -/

/-- What a submission brings. -/
structure Submission where
  dctx : Nat
  tbase : Nat
  grid : Option Nat
  die : Nat
  qd : Nat
  bd : Nat
  e : Nat
  pinned : Bool
  owner : Option Nat
  result : Option (Nat × Nat × Nat)
  pkt : Option (Nat × Nat)
  pri : Nat
  deriving DecidableEq, Repr

/-- The lowest-numbered FREE handle of a table. -/
def State.freeHandle (s : State) (w : Who) : Option Nat := (List.range 256).find? fun h => (s.planAt w h).isNone

/-- The drafting unit of a die takes its next query: planning takes (1 + 0.75 n) µs (07 R181). -/
def State.draft (s : State) (die : Nat) : State :=
  let d : Fin 4 := ⟨die % 4, Nat.mod_lt _ (by decide)⟩
  match (s.dieAt d).drafting with
  | [] => s
  | id :: _ =>
    if s.power.d3hot || s.timers.any (fun t => t.2.1 == .planningEnd && t.2.2.die == d) then s
    else s.timer (((s.planOf id).map (·.pt)).getD 0) .planningEnd { die := d }

def State.enqueuePlan (s : State) (die id : Nat) : State :=
  (s.modDie ⟨die % 4, Nat.mod_lt _ (by decide)⟩ fun x => { x with drafting := x.drafting ++ [id] }).draft die

/-- A new handle: the refusal code, or the state in which it is PLANNING. Where several causes of a refusal hold, alignment comes first, then a
free handle, the descriptor's format and tree, the reads of its shape records, shapes and contracts node by node, and the pools last (log
entry 67). -/
def State.submit (s : State) (x : Submission) : Except Nat State :=
  let who := draftWho x.dctx x.tbase
  if x.qd % 8 ≠ 0 ∨ x.bd % 8 ≠ 0 then .error 2
  else
    match s.freeHandle who with
    | none => .error 1
    | some h => do
      let (text, q) ← s.readQuery who (if x.pkt.isSome then s.bytesAt who else s.threadBytes) x.qd x.bd
      let pins := (q.nodes.zipIdx.filter fun n => nByte n.1 6 == 1).map Prod.snd
      let fwv := s.sec.fwVer.toNat
      let input := planInput q x.e [] (q.whole || x.pinned) pins [] fwv
      let r ← s.choose who q input [] PlanKept.fresh (s.poolTakenBy x.dctx 0)
      let (id, s) := s.fresh
      let p : Plan :=
        { id := id, tbase := x.tbase, handle := h, dctx := x.dctx, grid := x.grid, die := x.die, desc := x.qd, bind := x.bd
          nodes := q.nodes, binds := q.binds, st := .planning, e := x.e, pinned := q.whole || x.pinned, nodePins := pins, hints := []
          invalidated := false, resume := none, runPending := x.pkt.isSome, owner := x.owner, hall := none, runs := 0, repl := 0, goob := 0
          initial := r.1, current := r.1, done := [], nextNode := 0, code := 3, result := x.result, pkt := x.pkt, fwv := fwv
          pri := x.pri, types := q.types, sixes := q.sixes, shapes := q.bindTypes, head := text.head, room := r.2, roomNow := r.2
          pt := 1200 + 900 * q.nodes.length, replanNext := false
          job := none }
      return (({ s with plans := s.plans ++ [p] }).showPlan id).enqueuePlan x.die id

/-- An INVALID handle submitted again: nodes that have not started are planned afresh, kept results stay (07 R189, 17 R414). -/
def State.resubmit (s : State) (p : Plan) (e die : Nat) (result : Option (Nat × Nat × Nat)) : Except Nat State := do
  let who := draftWho p.dctx p.tbase
  let (text, q) ← s.readQuery who s.threadBytes p.desc p.bind
  let kept : Bool := p.resume.isSome && q.nodes.length == p.nodes.length
  let from_ := if kept then p.resume.getD 0 else 0
  let obs := if kept then (p.current.take from_).map (·.nobs) else []
  let pins := (q.nodes.zipIdx.filter fun n => nByte n.1 6 == 1).map Prod.snd
  let fwv := s.sec.fwVer.toNat
  let input := planInput q e p.hints q.whole pins obs fwv
  let stay := p.roomNow.filter fun x => decide (x.node < from_)
  let r ← s.choose who q input p.hints
    { choice := fun i => if i < from_ then p.current[i]? else none, obs := fun i => (obs[i]?).filter (· != 0xFFFFFFFF)
      place := fun i => stay.find? fun x => x.node == i, was := [] } (s.poolTakenBy p.dctx p.id ++ stay)
  return (s.setPlan p.id fun p =>
    { p with
      nodes := q.nodes, binds := q.binds, st := .planning, e := e, die := die, pinned := q.whole, nodePins := pins
      invalidated := false, resume := if kept then p.resume else none, runPending := kept && p.resume.isSome
      initial := r.1.map fun c => { c with nobs := 0xFFFFFFFF, replanned := false }
      current := r.1, done := p.done.filter fun d => decide (d.1 < from_), nextNode := from_, result := result, fwv := fwv
      types := q.types, sixes := q.sixes, shapes := q.bindTypes, head := text.head, room := r.2, roomNow := r.2
      pt := 1200 + 900 * q.nodes.length }).enqueuePlan die p.id

/-! ## Runs (07 R186, R191, R192) -/

/-- The hall that holds the plan's job stream: the run owner's (06 R156); of a PLAN packet that of a team of its grid (log entry 55). -/
def State.planHall (s : State) (p : Plan) : Nat :=
  p.hall.getD (((s.teams.find? fun t => some t.grid == p.grid && t.core.isSome).bind (·.core)).getD 0 / 4)

/-- The next node of a running plan becomes a job, or the plan is complete. While its hall holds 256 jobs the plan waits (06 R157). -/
def State.planAdvance (s : State) (id : Nat) : State :=
  match s.planOf id with
  | none => s
  | some p =>
    if p.st != .running then s
    else if p.nodes.length ≤ p.nextNode then s.post .planComplete { id := id }
    else
      let hall := s.planHall p
      if 256 ≤ s.jobsOfHall hall then s.timer 512 .planBreak { id := id, flag := true }
      else
      let (j, s) := s.fresh
      let job : Job :=
        { id := j, owner := .plan id, dctx := p.dctx, grid := p.grid.getD 0, team := 0, hall := hall, core := 4 * hall, tag := 0,
          card := 10, wantOp := 10, cardVa := 0, pri := p.pri, state := .waiting, status := 0, oor := 0, bytes := 0, result := none,
          byOther := false, grant := none, awaiting := [] }
      let s := { s with jobs := s.jobs ++ [job] }
      (s.modPlan id fun p => { p with job := some j }).post .jobDispatch { hall := hallIx hall }

/-- A run starts from the initial plan. -/
def State.planStart (s : State) (id : Nat) : State :=
  (s.setPlan id fun p =>
    { p with
      st := .running, runPending := false, resume := none, current := p.initial, roomNow := p.room, done := [], nextNode := 0, repl := 0
      goob := 0 }).planAdvance id

/-- Raise a cause against the run owner. -/
def State.planRaise (s : State) (p : Plan) (cause info : Nat) : State :=
  match p.owner, p.grid with
  | some va, some g => s.raiseRec va g cause info
  | _, _ => s

/-- A PLAN packet completes: its grid goes, and the handle is freed (07 R193). -/
def State.planPacketEnd (s : State) (p : Plan) (status jobStatus : Nat) : State :=
  match p.pkt, p.grid with
  | some (q, csig), some g =>
    let b := ((s.gridOf g).map fun x => bitN x.pkt.toNat 8).getD false
    let s := s.dropGrid g
    ((s.planFree p).packetDone p.dctx q csig b status jobStatus).offerRoom
  | _, _ => s

/-- What follows a change of a handle: waits on it are examined, and a grid that waited for the run may complete. -/
def State.planTell (s : State) (p : Plan) : State :=
  let s := s.post .waitSatisfied {}
  match p.grid with
  | some g => s.post .gridComplete { grid := ⟨g % 256, Nat.mod_lt _ (by decide)⟩ }
  | none => s

/-- The plan stops at a break that saw an invalidation (07 R189). -/
def State.planStop (s : State) (p : Plan) : State :=
  let s := s.setPlan p.id fun p => { p with st := .invalid, code := 2, resume := some p.nextNode, invalidated := false }
  if p.pkt.isSome then s.planPacketEnd p psPlanInvalid 0 else (s.planRaise p 22 p.handle).planTell p

/-- A job of the plan failed: the plan stops at its node; the status is raised against the run owner (06 R154), and a PLAN packet
completes JOB_FAULT (07 R193). -/
def State.planFail (s : State) (p : Plan) (status : Nat) : State :=
  let s := s.setPlan p.id fun p => { p with st := .invalid, code := 2, resume := some p.nextNode, invalidated := false, job := none }
  if p.pkt.isSome then s.planPacketEnd p psJobFault status else (s.planRaise p (32 + status) status).planTell p

/-- A job of the plan has ended. -/
def State.planJobEnd (s : State) (id status : Nat) : State :=
  match s.planOf id with
  | none => s
  | some p =>
    if p.st != .running then s
    else if status ≠ 0 then s.planFail p status
    else
      let brk := ((p.current[p.nextNode]?).map (·.breakAfter)).getD false
      let s := s.modPlan id fun p => { p with nextNode := p.nextNode + 1, job := none }
      if brk then s.post .planBreak { id := id } else s.planAdvance id

/-! ## The events (07 R181, R184, R185, R189) -/

/-- PLANNING_END: the query that the die's drafting unit planned is finished, and the next is taken. -/
def execPlanningEnd (s : State) : Res :=
  let die := s.arg.die
  match (s.dieAt die).drafting with
  | [] => .next s
  | id :: _ =>
    let s := s.modDie die fun d => { d with drafting := d.drafting.drop 1 }
    match s.planOf id with
    | none => .next (s.draft die.val)
    | some p =>
      let s := match p.result with
        | some (core, x, long) =>
          let c := splitAgent (4 * core + x)
          s.deliver c.1 c.2 long (BitVec.ofNat 2048 (p.handle * 256))
        | none => s
      let s := s.modPlan id fun p => { p with result := none }
      let s :=
        if p.invalidated then
          let s := s.setPlan id fun p =>
            { p with st := .invalid, code := if p.resume.isSome then 2 else 3, invalidated := false, runPending := false }
          if p.pkt.isSome then s.planPacketEnd p psPlanInvalid 0 else s.planTell p
        else if p.resume.isSome then
          (s.setPlan id fun p => { p with st := .running, runPending := false, nextNode := p.resume.getD 0, resume := none }).planAdvance id
        else if p.runPending then (s.modPlan id fun p => { p with runs := if p.pkt.isSome then 1 else p.runs }).planStart id
        else (s.setPlan id fun p => { p with st := .ready }).planTell p
      .next (s.draft die.val)

/-- A re-planning at the break after node `j` (07 R184, R185): nodes that have started keep their choices, and so do pinned ones unless a
restore asks for it (06 R169). -/
def State.replan (s : State) (p : Plan) (j : Nat) : State :=
  let q := s.queryAgain p
  let obs := (p.current.take (j + 1)).map (·.nobs)
  let fwv := s.sec.fwVer.toNat
  let input := planInput q p.e p.hints p.pinned p.nodePins obs fwv
  let whole : Bool := p.pinned && !p.replanNext
  let pinned (i : Nat) : Bool := whole || (p.nodePins.contains i && !p.replanNext)
  let stays (i : Nat) : Bool := decide (i ≤ j) || pinned i
  let kept : PlanKept :=
    { choice := fun i => if stays i then p.current[i]? else none, obs := fun i => (obs[i]?).filter (· != 0xFFFFFFFF)
      place := fun i => p.roomNow.find? fun x => x.node == i, was := p.room }
  match s.choose (draftWho p.dctx p.tbase) q input p.hints kept
      (s.poolTakenBy p.dctx p.id ++ p.room ++ p.roomNow.filter fun x => stays x.node) with
  | .error _ => s
  | .ok r =>
    let mark (c : Choice × Nat) : Choice := if stays c.2 then c.1 else { c.1 with replanned := true }
    s.modPlan p.id fun p =>
      { p with current := r.1.zipIdx.map mark, roomNow := r.2, repl := p.repl + 1, fwv := fwv, replanNext := false }

/-- The re-plan rule (07 R184). -/
def replanRule (e ne no : Nat) : Bool :=
  e != 0 && (if ne = 0 then decide (0 < no) else decide (no * 2 ^ e < ne) || decide (ne * 2 ^ e < no))

/-- PLAN_BREAK: NOBS is recorded; a pending invalidation stops the plan; else the re-plan rule applies and the plan goes on. With
`flag`, a plan that found its hall full looks again. -/
def execPlanBreak (s : State) : Res :=
  match s.planOf s.arg.id with
  | none => .next s
  | some p =>
    if s.arg.flag then .next (if p.job.isNone then s.planAdvance p.id else s)
    else if p.st != .running || p.nextNode == 0 then .next s
    else if s.power.d3hot then .next (s.timer 192 .planBreak { id := p.id })
    else
      let j := p.nextNode - 1
      let no := ((p.done.find? fun d => d.1 == j).map fun d => rowsOf d.2.dims).getD 0
      let note (c : Choice × Nat) : Choice := if c.2 = j then { c.1 with nobs := no } else c.1
      let s := s.modPlan p.id fun p => { p with current := p.current.zipIdx.map note }
      match s.planOf p.id with
      | none => .next s
      | some p =>
        if p.invalidated then .next (s.planStop p)
        else
          let ne := ((p.current[j]?).map (·.nest)).getD 0
          let s := if p.replanNext || (!p.pinned && replanRule p.e ne no) then s.replan p j else s
          .next ((s.showPlan p.id).planAdvance p.id)

/-- Statistics of every bound tensor that the plan wrote (07 R183, 22 R431). -/
def State.planStats (s : State) (p : Plan) : State :=
  let outs := ((((p.nodes.map nOut).filter (· != 0xFF)).filterMap fun b => match p.binds[b]?, p.sixes[b]? with
    | some w, some six => some (bindId w, six)
    | _, _ => none)).dedup
  outs.foldl (fun s b =>
    match s.tensorGet p.die p.who b.1 with
    | .ok r => r.2.2.statWrite p.dctx p.tbase b.2 r.1.stats 1
    | .error _ => s) s

/-- PLAN_COMPLETE: statistics, then the release at grid scope, then DONE, or INVALID where an invalidation is pending. -/
def execPlanComplete (s : State) : Res :=
  match s.planOf s.arg.id with
  | none => .next s
  | some p =>
    if p.st != .running then .next s
    else
      let s := (s.planStats p).releaseAll
      let s := s.setPlan p.id fun q =>
        if q.invalidated then { q with st := .invalid, code := 1, invalidated := false, resume := none } else { q with st := .done, code := 0 }
      if p.pkt.isSome then .next (s.planPacketEnd p (if p.invalidated then psPlanInvalid else 0) 0) else .next (s.planTell p)

/-! ## Planned matrix work (07 R192) -/

/-- A resident team of the grid with a claimed tile on a core whose engine nobody holds, on one die where it is named. -/
def State.planTile (s : State) (grid : Nat) (die : Option (Fin 4)) : Option (Fin 192 × Fin 2) :=
  (s.teams.filter fun t => t.grid == grid).findSome? fun t =>
    t.core.bind fun c =>
      if h : c < 192 then
        let k := s.coreAt ⟨c, h⟩
        if k.engine.holder == .nobody && die.all (· == dieOf ⟨c, h⟩) then
          ((List.finRange 2).find? fun i => (k.tiles.get i).owner == some (grid, t.num)).map fun i => (⟨c, h⟩, i)
        else none
      else none

/-- After the job the tile is empty; its mode and owner stay. -/
def Tile.cleared (t : Tile) : Tile := { Tile.reset with owner := t.owner, mode := t.mode }

/-- The elements of an intermediate as bytes: row-major, without gaps (log entry 19). -/
def packElems (w : Nat) (l : List Nat) : List Byte :=
  if w = 4 then (takeEach 2 ((l.length + 1) / 2) l).map fun p => BitVec.ofNat 8 (p.getD 0 0 % 16 + 16 * (p.getD 1 0 % 16))
  else l.flatMap (bytesOfNat (w / 8))
where
  takeEach (k : Nat) : Nat → List Nat → List (List Nat)
    | 0, _ => []
    | n + 1, l => l.take k :: takeEach k n (l.drop k)

def unpackElems (w n : Nat) (bs : List Byte) : List Nat :=
  if w = 4 then (bs.flatMap fun b => [b.toNat % 16, b.toNat / 16]).take n
  else each (w / 8) n bs
where
  each (k : Nat) : Nat → List Byte → List Nat
    | 0, _ => []
    | n + 1, l => natOfBytes (l.take k) :: each k n (l.drop k)

/-- The place of a node's result in the pools. -/
def Plan.partOf (p : Plan) (i : Nat) : Option PoolPart := p.roomNow.find? fun x => x.node == i

/-- The tensor that is bound to a node's result. -/
def Plan.outId (p : Plan) (i : Nat) : Nat := ((p.binds[nOut (p.nodes.getD i 0)]?).map bindId).getD 0

/-- Inputs of a node as values: an intermediate is read from its pool (07 R191), a bound tensor through its shape record. -/
def State.planValue (s : State) (p : Plan) (v : Nat) : Except Trouble (TVal × Nat × State) :=
  if v < 0x20 then
    let x := ((p.done.find? fun d => d.1 == v).map Prod.snd).getD ⟨9, [], []⟩
    match p.partOf v with
    | none =>
      -- a SCATTER's result is its target as it now stands
      if nOp (p.nodes.getD v 0) = 6 then s.tensorGet p.die p.who (p.outId v) else .ok (x, 0, s)
    | some part =>
      match s.vaRead p.die (draftWho p.dctx p.tbase) part.va (typeBytes (x.fmt, x.dims)) with
      | .error t => .error t
      | .ok r =>
        if r.1.poison then .error ⟨cPoison, part.va⟩
        else .ok ({ x with elems := unpackElems (fmtBits x.fmt) (prod x.dims) r.1.bytes }, r.1.subst.length, r.2)
  else s.tensorGet p.die p.who (((p.binds[v - 0x40]?).map bindId).getD 0)

/-- Keep the result of a node: in its pool, or in the tensor that is bound to it, at the coordinates that `sel` names. Answers the
substitutions. -/
def State.planKeep (s : State) (p : Plan) (i : Nat) (v : TVal) (sel : List Nat → Bool) : Except Trouble (Nat × State) :=
  match p.partOf i with
  | some part => s.vaWrite p.die (draftWho p.dctx p.tbase) part.va (packElems (fmtBits v.fmt) v.elems)
  | none => if nOut (p.nodes.getD i 0) = 0xFF then .ok (0, s) else s.tensorPut p.die p.who (p.outId i) v sel

/-- The free choice of a RELAXED node for the element at `o` (07 R175). -/
def relaxOf (x : BitVec 256) (seed : Nat) (o : List Nat) : Option Nat :=
  if nCt x = 2 then some (Config.planChoice (seed :: o) 0 8) else none

/-- Compute a node and keep its result. -/
def State.planNode (s : State) (p : Plan) (i : Nat) : Except Trouble (Nat × State) := do
  let x := p.nodes.getD i 0
  let a ← s.planValue p (nIn x 0)
  let b ← (if nIn x 1 = 0xFF then .ok (none, a.2.1, a.2.2) else
    (a.2.2.planValue p (nIn x 1)).map fun r => (some r.1, a.2.1 + r.2.1, r.2.2))
  -- a SCATTER touches the slices that its indices name, and reads them where it adds (07 R174)
  let named (o : List Nat) : Bool := nOp x != 6 || !(scatterHits x a.1 (b.1.getD ⟨9, [], []⟩) o).isEmpty
  let t ← (if nOp x = 6 then b.2.2.tensorPick p.die p.who (p.outId i) fun o => nByte x 9 == 1 && named o
    else .ok (⟨9, [], []⟩, 0, b.2.2))
  let free := t.2.2.free
  let r := runNode x a.1 b.1 t.1 (relaxOf x free.1.toNat)
  let w ← free.2.planKeep p i r.1 named
  let kept : TVal := if (p.partOf i).isSome || nOp x == 6 then { r.1 with elems := [] } else r.1
  return (b.2.1 + t.2.1 + w.1, w.2.modPlan p.id fun p => { p with done := p.done ++ [(i, kept)], goob := p.goob + r.2 })

/-- Energy class of a node's matrix work, from the columns of its result and the widest format that it multiplies (01 R28). -/
def Plan.matrixClass (p : Plan) (i : Nat) : BitVec 2 :=
  let x := p.nodes.getD i 0
  let bits := ((nIns x).map fun v => fmtBits (inType p.types p.shapes v).1).foldl max 0
  let n := min 256 ((p.types.getD i (9, [])).2.getLastD 1 * (if bits ≤ 8 then 1 else bits / 8))
  BitVec.ofNat 2 ((n - 1) / 64)

/-- The job waits for a grant on the die of its core. -/
def State.leavePending (s : State) (j : Job) : Bool := (s.dieAt (jobDie j)).waiting.any fun q => q.owner == engineOwner j.id

/-- The job takes the core that a tile has been found on: its leave is asked of that core's die. -/
def State.planAsk (s : State) (j : Job) (p : Plan) (c : Fin 192) : State :=
  (s.modJob j.id fun j => { j with core := c.val }).leaveAsk (dieOf c) (p.matrixClass p.nextNode) p.pri (engineOwner j.id)

/-- PLANNED_MATRIX_WORK: the job of the plan's next node. It waits for a resident team, and a CONTRACT for an engine, a tile and
leave on the die of that engine's core. -/
def execPlannedMatrixWork (s : State) : Res :=
  match s.jobOf s.arg.id with
  | none => .next s
  | some j =>
    match j.owner with
    | .plan id =>
      (match s.planOf id with
      | none => .next (s.endJob j.id jsCancelled)
      | some p =>
        let wait (s : State) : Res := .next (s.timer 512 .jobDispatch { id := j.id, flag := true })
        let grid := p.grid.getD 0
        let contract : Bool := (p.nodes[p.nextNode]?).any fun x => nOp x == 1
        let run (s : State) (on : Option (Fin 192 × Fin 2)) : Res :=
          match s.planNode p p.nextNode with
          | .error t => .next ((s.jobLeaveDone j).endJob j.id (troubleStatus t))
          | .ok (n, t) =>
            let t := t.substJob j n
            let t := match on with
              | some (c, i) => t.modCoreAt c fun k => { k with tiles := k.tiles.set i.val (k.tiles.get i).cleared i.isLt }
              | none => t
            .next ((t.jobLeaveDone j).endJob j.id 0)
        -- in D3hot the engine stops before its next command; D0_RETURN calls it again (04 R88)
        if j.state != .running || s.power.d3hot then .next s
        else if !s.teams.any (fun t => t.grid == grid && t.core.isSome) then wait s
        else if !contract then run s none
        else
          match s.planTile grid (if j.grant.isSome then some (jobDie j) else none) with
          | some (c, i) => if j.grant.isSome then run s (some (c, i)) else if s.leavePending j then .next s else .next (s.planAsk j p c)
          | none => wait (if j.grant.isSome && (s.planTile grid none).isSome then s.jobLeaveDone j else s))
    | _ => .next (s.endJob j.id jsBad)

/-! ## The plan instructions (17 R413 to R417) -/

def cPlanInvalid : Nat := 22

/-- A handle with high bits set, or a FREE one, takes PLAN_STATE. -/
def handleCheck (s : State) (h : Nat) : Check :=
  if 256 ≤ h ∨ (s.planAt s.curWho h).isNone then .trap cPlanState h else .go

/-- Bytes read at issue as a load of the thread, whose faults the instruction itself reports. -/
def loadLike (s : State) (ea len : Nat) : Check :=
  match s.route needR ea len with
  | .error _ => .go
  | .ok r => s.routeCheck false true ea len r

/-- The load is made: it registers, and its substitutions count. -/
def State.loadedLike (s : State) (ea len : Nat) : State :=
  match s.route needR ea len with
  | .error _ => s
  | .ok r => let x := (s.registerRoute r false).readRoute false r len; x.2.addSubst x.2.curAgent x.1.subst.length

/-- Lengths of a descriptor and of its bindings as its header gives them. -/
def State.queryLens (s : State) (qd : Nat) : Nat × Nat :=
  match s.threadBytes qd 64 with
  | some hd => (64 + 32 * fieldAt hd 4 1, 8 * fieldAt hd 5 1)
  | none => (64, 8)

def queryCheck (qd bd : Nat) (s : State) : Check :=
  if qd % 8 ≠ 0 ∨ bd % 8 ≠ 0 then .go
  else
    let n := s.queryLens qd
    (loadLike s qd n.1).both (loadLike s bd n.2)

/-- The descriptor and the bindings are read at issue, as loads of the thread (17 R413). -/
def State.queryLoaded (s : State) (qd bd : Nat) : State :=
  if qd % 8 = 0 ∧ bd % 8 = 0 then
    let n := s.queryLens qd
    (s.loadedLike qd n.1).loadedLike bd n.2
  else s

/-- A submission of the thread at issue. -/
def State.threadSubmit (s : State) (ws : Bool) (d : Opnd) (f : State → Option (Nat × Nat × Nat) → Except Nat State) : State :=
  let o := s.openLong 7 (.s d) ws
  match f o.2 (some (s.curCore.val, s.curCtx.val, o.1)) with
  | .ok t => t
  | .error code => s.openArrived 7 (.s d) ws (BitVec.ofNat 2048 code) id

/-- `y.qsub d, a, b` (17 R414). -/
def execYQsub (ws : Bool) (d a b : Opnd) (s : State) : Res :=
  let qd := (s.ctx.sGet a).toNat
  let bd := (s.ctx.sGet b).toNat
  guarded (queryCheck qd bd) (fun s =>
    let s := s.queryLoaded qd bd
    let w := s.curWho
    s.threadSubmit ws d fun s result => s.submit
      { dctx := w.dctx, tbase := w.tsrt, grid := some s.curGrid, die := (dieOf s.curCore).val, qd := qd, bd := bd,
        e := (s.ctlRead 2).toNat, pinned := false, owner := s.curRec.map (·.va), result := result, pkt := none, pri := s.curPri }) s

/-- `y.qsub.re d, h` (17 R414): a handle that is not INVALID takes PLAN_STATE. -/
def execYQsubRe (ws : Bool) (d : Opnd) (h : BitVec 8) (s : State) : Res :=
  let plan (s : State) : Option Plan := (s.planAt s.curWho h.toNat).filter fun p => p.st == .invalid
  guarded (fun s => match plan s with
    | none => .trap cPlanState h.toNat
    | some p => queryCheck p.desc p.bind s) (fun s =>
    match plan s with
    | none => s
    | some p => (s.queryLoaded p.desc p.bind).threadSubmit ws d fun s result => s.resubmit p (s.ctlRead 2).toNat (dieOf s.curCore).val result) s

/-- A job of the run owner's stream that stands before a run (07 R191). -/
def State.runBlocked (s : State) (p : Plan) : Bool :=
  match s.curRec with
  | none => false
  | some r => s.jobs.any fun j =>
    j.inFlight && j.owner == .thread r.va && j.grid == r.grid &&
      (cardFeet j.card).any fun f => p.binds.any fun w =>
        (f.write || bindWr w) && overlaps s s.curWho f ⟨.tensor (bindId w) 0 (2 ^ 32 - 1), 0, true⟩

def qrunCheck (h : Nat) (s : State) : Check :=
  if 256 ≤ h then .trap cPlanState h
  else
    match s.planAt s.curWho h with
    | none => .trap cPlanState h
    | some p =>
      if p.st == .running then .trap cPlanState h
      else if p.st == .invalid then .trap cPlanInvalid h
      else if s.runBlocked p then .stall .resource
      else releaseCheck s

/-- `y.qrun a` (17 R415; 07 R181, R191): a release at grid scope; the handle is RUNNING before the instruction completes. -/
def execYQrun (a : Opnd) (s : State) : Res :=
  let h := (s.ctx.sGet a).toNat
  guarded (qrunCheck h) (fun s =>
    let s := (s.releaseAt 3).syncDone
    match s.planAt s.curWho h, s.curRec with
    | some p, some r =>
      let s := s.modPlan p.id fun p =>
        { p with owner := some r.va, hall := some r.hall, grid := some r.grid, runs := (p.runs + 1) % 2 ^ 32, pri := r.pri }
      if p.st == .planning then s.setPlan p.id fun p => { p with runPending := true } else s.planStart p.id
    | _, _ => s) s

/-- `y.qwait d, a` and `y.qwait.rel d, a` (17 R415). -/
def execYQwait (ws : Bool) (d a : Opnd) (rel : Bool) (s : State) : Res :=
  let h := (s.ctx.sGet a).toNat
  guarded (fun s => (handleCheck s h).both (syncCheck s)) (fun s => s.beginWait (.plan h rel) (.s d) ws) s

/-- A hint word without a reserved value (17 R416). -/
def hintOk (w : Nat) : Bool :=
  decide (w < 2 ^ 16) && bitsN w 5 3 == 0 && (!bitN w 12 || decide (bitsN w 13 3 ≤ 4)) &&
    (!bitN w 8 || (decide (1 ≤ bitsN w 9 3) && decide (bitsN w 9 3 ≤ 5)))

/-- `y.hint a, b` (17 R416). -/
def execYHint (a b : Opnd) (s : State) : Res :=
  let h := (s.ctx.sGet a).toNat
  let w := (s.ctx.sGet b).toNat
  guarded (fun s => handleCheck s h) (fun s =>
    match s.planAt s.curWho h with
    | none => s
    | some p =>
      if hintOk w && decide (w % 32 < p.nodes.length) then
        s.modPlan p.id fun p => { p with hints := tset p.hints (w % 32) (if bitN w 8 || bitN w 12 then BitVec.ofNat 16 w else 0) 0 }
      else s) s

/-- Pin or unpin the handle, or one node (07 R185). -/
def State.pinning (s : State) (h : Nat) (whole : Bool) (node : Nat) (on : Bool) : State :=
  match s.planAt s.curWho h with
  | none => s
  | some p =>
    s.setPlan p.id fun p =>
      if whole then { p with pinned := on }
      else if p.nodes.length ≤ node then p
      else { p with nodePins := if on then (if p.nodePins.contains node then p.nodePins else p.nodePins ++ [node])
                                else p.nodePins.filter (· != node) }

/-- `y.pin a` and `y.pin a, node` (17 R417). -/
def execYPin (a : Opnd) (whole : Bool) (node : BitVec 5) (s : State) : Res :=
  let h := (s.ctx.sGet a).toNat
  guarded (fun s => handleCheck s h) (fun s => s.pinning h whole node.toNat true) s

/-- `y.unpin a` and `y.unpin a, node` (17 R417). -/
def execYUnpin (a : Opnd) (whole : Bool) (node : BitVec 5) (s : State) : Res :=
  let h := (s.ctx.sGet a).toNat
  guarded (fun s => handleCheck s h) (fun s => s.pinning h whole node.toNat false) s

/-- Store bytes for the thread at issue. -/
def State.storeBytes (s : State) (ea : Nat) (bs : List Byte) : State :=
  match s.route needW ea bs.length with
  | .error _ => s
  | .ok r => (s.registerRoute r true).writeRoute r bs

/-- `y.planrd a, b` (17 R417): the current record, one snapshot. -/
def execYPlanrd (a b : Opnd) (s : State) : Res :=
  let h := (s.ctx.sGet a).toNat
  let va := (s.ctx.sGet b).toNat
  let record (s : State) : List Byte := ((s.planAt s.curWho h).map fun p => p.record p.current).getD []
  guarded (fun s => (handleCheck s h).both
      (if (record s).isEmpty then .go else s.accessCheck needW true false 8 va (record s).length))
    (fun s => s.storeBytes va (record s)) s

/-- A statistics index above 4,095 takes TSR_RANGE; the entry itself must be mapped. -/
def statCheck (i : Nat) (s : State) : Check :=
  if 4096 ≤ i then .trap 16 i
  else
    match translateRange s ⟨s.curWho.dctx, 0, false⟩ ⟨false, false, false⟩ (statVa s.curWho.tsrt i) 32 with
    | .error t => .ofTrouble t
    | .ok _ => .go

/-- `y.statrd a, b` (17 R417). -/
def execYStatrd (a b : Opnd) (s : State) : Res :=
  let i := (s.ctx.sGet a).toNat
  let va := (s.ctx.sGet b).toNat
  guarded (fun s => (statCheck i s).both (s.accessCheck needW true false 8 va 32)) (fun s =>
    match s.tableRead s.curWho.dctx (statVa s.curWho.tsrt i) 32 with
    | .ok bs => s.storeBytes va bs
    | .error _ => (s.poisonReport s.curCore s.curCtx).raise cPoison (statVa s.curWho.tsrt i)) s

/-- The mark of `y.statwr.inv` on one handle (07 R188). -/
def Plan.mark (p : Plan) : Plan :=
  match p.st with
  | .planning => { p with invalidated := true }
  | .running => { p with invalidated := true }
  | .ready => { p with st := .invalid, code := 3, resume := none }
  | .done => { p with st := .invalid, code := 1, resume := none }
  | _ => p

/-- Mark every handle of the table that depends on an entry. -/
def State.markPlans (s : State) (w : Who) (six : Nat) : State :=
  let hit := s.plans.filter fun p => s.ofTable w p && p.sixes.contains six
  (hit.foldl (fun (s : State) p => s.setPlan p.id Plan.mark) s).post .waitSatisfied {}

/-- The write of `y.statwr`: ROWS, NZR, MIN and MAX are taken from 32 bytes at B. -/
def State.statPut (s : State) (i va : Nat) : State :=
  match s.route needR va 32 with
  | .error _ => s
  | .ok r =>
    let x := (s.registerRoute r false).readRoute false r 32
    let s := x.2.addSubst x.2.curAgent x.1.subst.length
    let n := natOfBytes x.1.bytes
    s.statWrite s.curWho.dctx s.curWho.tsrt i ⟨stRows n, stNzr n, stMin n, stMax n⟩ 3

/-- A read of poison on an ET = 0 page stops the bundle before it issues (02 R51). -/
def poisonCheck (va n : Nat) (s : State) : Check :=
  match s.route needR va n with
  | .error _ => .go
  | .ok r => if (s.readRoute false r n).1.poison then .trap cPoison va else .go

/-- The 32 bytes that `y.statwr` reads need no alignment (15 R348, 17 R417). -/
def statwrCheck (i va : Nat) (s : State) : Check :=
  (statCheck i s).both ((s.accessCheck needR false true 1 va 32).both (poisonCheck va 32 s))

/-- `y.statwr a, b` (17 R417): a release at grid scope (10 R242). -/
def execYStatwr (a b : Opnd) (s : State) : Res :=
  let i := (s.ctx.sGet a).toNat
  let va := (s.ctx.sGet b).toNat
  guarded (fun s => (statwrCheck i va s).both (releaseCheck s)) (fun s => ((s.statPut i va).releaseAt 3).syncDone) s

/-- `y.statwr.inv a, b` (07 R188): the marks come before the instruction completes, which is a release at grid scope. -/
def execYStatwrInv (a b : Opnd) (s : State) : Res :=
  let i := (s.ctx.sGet a).toNat
  let va := (s.ctx.sGet b).toNat
  guarded (fun s => (statwrCheck i va s).both (releaseCheck s)) (fun s =>
    (((s.statPut i va).markPlans s.curWho i).releaseAt 3).syncDone) s

end Sys2Proof.Machine
end

