-- ==== Sys2Proof/Machine/Firmware.lean ====
section
/-! DEFINITION. The firmware cores: the Landing, minor frames, polls, packets, and the end of a grid (05 R106 to R128; 06 R144;
07 R193; 21 R428, R429). -/

namespace Sys2Proof.Machine

/-! ## The Landing (05 R127, R128) -/

/-- Runs of set bits among the 64 of a mask: (offset, length). -/
def maskRuns (m : Nat) : List (Nat × Nat) :=
  ((List.range 64).foldl (fun (acc : List (Nat × Nat)) i =>
    if !bitN m i then acc
    else
      match acc with
      | (o, n) :: rest => if o + n = i then (o, n + 1) :: rest else (i, 1) :: acc
      | [] => [(i, 1)]) []).reverse

def State.dropWrite (s : State) (d : Nat) : State := s.modDctx d fun x => { x with hwDrop := satAdd x.hwDrop 1 }

/-- Apply one entry through the context's page tables; one that faults is dropped. -/
def State.applyLanding (s : State) (d : Nat) (e : Landing) : State :=
  match translateRange s (s.fwWho d) needW e.va 64 with
  | .error _ => s.dropWrite d
  | .ok _ =>
    let bs := bytesOf 64 e.data
    (maskRuns e.mask.toNat).foldl (fun s r =>
      match s.vaWrite 0 (s.fwWho d) (e.va + r.1) ((bs.drop r.1).take r.2) with
      | .ok x => x.2
      | .error _ => s) s

/-- The entries of some contexts that are due at one point, in arrival order. -/
def State.dueEntries (s : State) (ds : List Nat) (due : Landing → Bool) : List (Nat × Landing) :=
  sortBy (fun (x : Nat × Landing) => x.2.seq) (ds.flatMap fun d => ((s.dctxOf d).landing.filter due).map fun e => (d, e))

/-- LANDING_APPLY: the entries that are due at one point leave the Landing and are applied together, in arrival order. -/
def State.applyDue (s : State) (ds : List Nat) (due : Landing → Bool) : State :=
  let l := s.dueEntries ds due
  let s := ds.foldl (fun s d =>
    if (s.dctxOf d).landing.any due then s.modDctx d fun x => { x with landing := x.landing.filter fun e => !due e } else s) s
  l.foldl (fun s x => s.applyLanding x.1 x.2) s

/-- The team of an entry is resident. -/
def State.landingHome (s : State) (e : Landing) : Option Nat :=
  e.team.bind fun t => (s.teamOf t.1 t.2).bind (·.core)

/-- Due at a minor frame boundary: queue windows, absent teams, and entries that have waited 1 ms. -/
def State.frameDue (s : State) (e : Landing) : Bool := e.team.isNone || e.due || (s.landingHome e).isNone

/-- The host window point of a bundle with HW set: entries of the teams of the core. -/
def State.hostWindowPoint (s : State) (c : Fin 192) : State :=
  s.applyDue (List.range 256) fun e => s.landingHome e == some c.val

/-! ## Packets (05 R115 to R118) -/

/-- A field of a packet: byte offset and bytes. -/
def pkF (p : Block) (o n : Nat) : Nat := bitsN p.toNat (8 * o) (8 * n)
def pkType (p : Block) : Nat := pkF p 0 1
def pkB (p : Block) : Bool := bitN p.toNat 8
def pkSys (p : Block) : Bool := bitN p.toNat 9
def pkFp (p : Block) : Nat := pkF p 2 1
def pkMu (p : Block) : Nat := pkF p 3 1
def pkCsig (p : Block) : Nat := pkF p 4 4

/-- Optional fields of a type, field 0 first: offset and bytes. -/
def pkOptional (typ : Nat) : List (Nat × Nat) :=
  match typ with
  | 1 => [(40, 8), (48, 8), (56, 2)]
  | 6 => [(32, 8)]
  | _ => []

/-- Fields that every packet of a type has. -/
def pkFields (typ : Nat) : List (Nat × Nat) :=
  match typ with
  | 1 => [(8, 25)]
  | 2 => [(8, 32)]
  | 3 => [(8, 32)]
  | 4 => [(8, 25)]
  | 5 => [(8, 5), (16, 8)]
  | 6 => [(8, 21)]
  | _ => []

/-- Zero bits inside a byte that a field shares: byte and mask. -/
def pkZeroBits (typ : Nat) : Nat × Nat :=
  match typ with
  | 1 => (32, 0xF0)
  | 4 => (32, 0xFC)
  | 6 => (28, 0xF8)
  | _ => (0, 0)

def pkExtra (p : Block) : Nat := pkFp p / 2 ^ (pkOptional (pkType p)).length * 2 ^ (pkOptional (pkType p)).length

/-- Every byte and bit of the body that is shown as zero is zero. -/
def pkBodyZero (p : Block) : Bool :=
  let opt := ((pkOptional (pkType p)).zipIdx.filter fun f => bitN (pkFp p) f.2).map (·.1)
  let used := pkFields (pkType p) ++ opt
  let z := pkZeroBits (pkType p)
  ((List.range 64).all fun i => decide (i < 8) || used.any (fun f => decide (f.1 ≤ i) && decide (i < f.1 + f.2)) || pkF p i 1 == 0) &&
    (pkF p z.1 1 &&& z.2) == 0

def sigOk (logs i : Nat) : Bool := i == noSignal || decide (i < 2 ^ logs)

def pkDeps (p : Block) : List Nat := ((List.range 8).map fun i => pkF p (8 + 4 * i) 4).filter (· != noSignal)

/-- Every defined field is within its limits, and every signal index is in the pool. -/
def pkLimits (p : Block) (logs : Nat) : Bool :=
  sigOk logs (pkCsig p) &&
    match pkType p with
    | 1 =>
      decide (1 ≤ pkF p 24 4) && (decide (pkF p 24 4 ≤ 2 ^ 28) || bitsN (pkF p 32 1) 0 2 == 0) && decide (1 ≤ pkF p 28 2) &&
        decide (pkF p 28 2 ≤ 4096) && decide (4 ≤ pkF p 30 1) && decide (pkF p 30 1 ≤ 16) && decide (pkF p 31 1 ≤ 8) &&
        (!bitN (pkFp p) 2 || decide (1 ≤ pkF p 56 2))
    | 2 => (pkDeps p).all (sigOk logs)
    | 3 => (pkDeps p).all (sigOk logs) && !(pkDeps p).isEmpty
    | 4 =>
      let n := pkF p 24 8
      decide (1 ≤ n) && decide (n ≤ 2 ^ 40) && decide (pkF p 8 8 + n ≤ 2 ^ 56) && decide (pkF p 16 8 + n ≤ 2 ^ 56)
    | 5 => decide (pkF p 12 1 ≤ 2) && sigOk logs (pkF p 8 4)
    | 6 => decide (1 ≤ pkF p 24 4) && decide (pkF p 24 4 ≤ 2 ^ 28)
    | _ => false

/-- The checks of R116, the first case that applies; none for a packet that passes. A field that is ignored takes the zero bytes and bits of
the body out of the checks, but not the header's zero bits nor the limits of the defined fields (log entry 55). -/
def pkFault (p : Block) (logs : Nat) : Option Nat :=
  if 7 ≤ pkType p then some psBadPacket
  else if pkMu p &&& pkFp p ≠ pkMu p then some psBadPacket
  else if pkExtra p &&& pkMu p ≠ 0 then some psUnknown
  else if bitsN p.toNat 10 6 ≠ 0 then some psBadPacket
  else if pkExtra p = 0 ∧ pkBodyZero p = false then some psBadPacket
  else if !pkLimits p logs then some psBadPacket
  else none

/-! ## A poll (05 R107, R110, R113, R119, R124, R125) -/

/-- VA of a queue's head slot. -/
def Queue.head (x : Queue) : Nat := x.base.toNat * 4096 + 64 * (x.rdix.toNat % 2 ^ x.logn)

/-- A write of a poll: what it needs was checked before. -/
def State.pollSignal (s : State) (d q csig word : Nat) : State :=
  if csig = noSignal then s.releaseAll
  else
    match s.releaseAll.signalWrite (s.queueOf d q).die d csig word with
    | .ok t => t
    | .error _ => s.releaseAll

/-- The packet leaves the head (05 R113). -/
def State.leaveHead (s : State) (d q : Nat) : State :=
  let x := s.queueOf d q
  let s := match s.vaWrite x.die (s.fwWho d) x.head [0] with
    | .ok r => r.2
    | .error _ => s
  s.modQueue d q fun x => { x with rdix := x.rdix + 1 }

/-- A packet is rejected: FSTAT, PKT_FAIL and the failure value (05 R116). -/
def State.rejectPacket (s : State) (d q : Nat) (p : Block) (status : Nat) : State :=
  let s := if sigOk (s.dctxOf d).logs (pkCsig p) then s.pollSignal d q (pkCsig p) (completionWord status 0) else s.releaseAll
  let s := s.modQueue d q fun x => { x with fstat := BitVec.ofNat 8 status }
  (s.modDctx d fun x => { x with pktFail := satAdd x.pktFail 1 }).leaveHead d q

/-- The locations that the poll touches beside the slot: signal and need (05 R124). The packet's completion writes CSIG; a SIGNAL packet's
poll reads it too, for its decrement. -/
def pollPlaces (p : Block) (run : Bool) : List (Nat × Need) :=
  (if !run then []
   else
     match pkType p with
     | 2 => (pkDeps p).map fun i => (i, needR)
     | 3 => (pkDeps p).map fun i => (i, needR)
     | 5 => [(pkF p 8 4, if pkF p 12 1 = 0 then needW else needRW)]
     | _ => []) ++
    [(pkCsig p, if run && pkType p == 5 then needRW else needW)]

/-- The signals of a barrier packet, read in ascending entry order (21 R429). -/
def State.readDeps (s : State) (d q : Nat) (p : Block) : Except Trouble (List Int × State) :=
  (pkDeps p).foldlM (fun (acc : List Int × State) i =>
    ((acc.2.ncInvalidate (s.queueOf d q).die).sigRead (s.queueOf d q).die (s.fwWho d) d i).map fun r => (acc.1 ++ [r.1], r.2)) ([], s)

/-- What a barrier packet decides (05 R122): none while it waits. -/
def barrierDecides (any : Bool) (l : List Int) : Option Nat :=
  if l.any (fun x => decide (x < 0)) then some psAborted
  else if l.all (fun x => decide (x = 0)) then some 0
  else if any && l.any (fun x => decide (x = 0)) then some 0
  else none

/-- This poll completes a barrier packet with OK: its decrement reads CSIG. -/
def State.barrierDone (s : State) (d q : Nat) (p : Block) : Bool :=
  (pkType p == 2 || pkType p == 3) && (match s.readDeps d q p with
    | .ok r => barrierDecides (pkType p == 3) r.1 == some 0
    | .error _ => false)

/-- The checks that come before every effect of the poll: translation, and poison of what is read (05 R124). -/
def State.pollFaults (s : State) (d q : Nat) (p : Block) (run : Bool) : Bool :=
  let x := s.queueOf d q
  let who := s.fwWho d
  let bad (va : Nat) (n : Need) (len : Nat) : Bool := match translateRange s who n va len with
    | .error _ => true
    | .ok segs => n.r && (s.engRead x.die segs).1.poison
  let signal (i : Nat) (n : Need) : Bool := s.sigIn d i && bad (s.sigVa d i) n 8
  bad x.head needRW 64 || (pollPlaces p run).any (fun l => signal l.1 l.2) || (run && s.barrierDone d q p && signal (pkCsig p) needRW)

/-! ## Launching (05 R117, R118; 06 R144; 07 R193) -/

/-- Units of 64 bytes that a grid's images and arenas take in the swap pool. -/
def poolNeed (g : Grid) : Nat := ceilDiv (g.teams * teamBytes g) 64

def State.poolBase (s : State) (d : Nat) : Nat := (s.dctxOf d).swBase.toNat * 2 ^ 21
def State.poolSize (s : State) (d : Nat) : Nat := (s.dctxOf d).swSize.toNat * 2 ^ 15

/-- Reservations in a context's pool: start and length, in units of 64 bytes from its base. -/
def State.poolTaken (s : State) (d : Nat) : List (Nat × Nat) :=
  (s.grids.filter fun g => g.2.dctx == d).map fun g => ((g.2.pool - s.poolBase d) / 64, g.2.poolUnits)

/-- The lowest place for `n` units (log entry 17). -/
def State.poolPlace (s : State) (d n : Nat) : Option Nat :=
  let taken := s.poolTaken d
  ((sortBy id (0 :: taken.map fun t => t.1 + t.2)).find? fun a =>
    decide (a + n ≤ s.poolSize d) && taken.all fun t => !(decide (a < t.1 + t.2) && decide (t.1 < a + n)))

def State.freeGrid (s : State) : Option Nat := (List.range 256).find? fun i => (s.gridOf i).isNone

def State.addGrid (s : State) (i : Nat) (g : Grid) : State :=
  { s with grids := s.grids.filter (fun x => decide (x.1 < i)) ++ (i, g) :: s.grids.filter (fun x => decide (i < x.1)) }

/-- The grid of a KERNEL or PLAN packet. -/
def State.packetGrid (s : State) (d q : Nat) (p : Block) : Grid :=
  let x := s.queueOf d q
  let kernel : Bool := pkType p == 1
  let fp := pkFp p
  { Grid.placeless with
    dctx := d, q := q, hwq := x.hwq.toNat
    img := if kernel then pkF p 8 8 else 0
    args := if kernel then pkF p 16 8 else 0
    teams := pkF p 24 4
    threads := if kernel then pkF p 28 2 else 0
    spad := if kernel then pkF p 30 1 else 4
    gal := if kernel then pkF p 31 1 else 0
    claim := if kernel then pkF p 32 1 else 3 + 4 * bitsN (pkF p 28 1) 1 2
    tsrt := if bitN fp 0 then (if kernel then pkF p 40 8 else pkF p 32 8) else (s.dctxOf d).dtsr.toNat * 4096
    spillBase := if kernel && bitN fp 1 then pkF p 48 8 else (s.dctxOf d).dspill.toNat * 4096
    qnt := if kernel && bitN fp 2 then pkF p 56 2 else 20
    csig := pkCsig p, sys := pkSys p, pkt := p, slot := x.rdix.toNat % 2 ^ x.logn }
where
  Grid.placeless : Grid :=
    { dctx := 0, q := 0, hwq := 0, img := 0, args := 0, teams := 0, threads := 0, spad := 0, gal := 0, claim := 0, tsrt := 0,
      spillBase := 0, qnt := 20, csig := 0, sys := false, pool := 0, poolUnits := 0, haltedTeams := 0, killed := none, plan := none,
      boundary := 0, pkt := 0, slot := 0 }

/-- What the claim of a grid entry and a reservation finds (06 R144). -/
inductive Claim where
  | wait
  | never
  | got (entry : Nat) (g : Grid)

def State.claim (s : State) (d q : Nat) (p : Block) : Claim :=
  let g := s.packetGrid d q p
  let n := poolNeed g
  if s.poolSize d < n then .never
  else
    match s.freeGrid, s.poolPlace d n with
    | some i, some a => .got i { g with pool := s.poolBase d + 64 * a, poolUnits := n, boundary := s.now + g.qnt * 120000 }
    | _, _ => .wait

/-- The grid is live: its quantum runs, and its teams are offered to the dies. -/
def State.startGrid (s : State) (i : Nat) (g : Grid) : State :=
  let e : Fin 256 := ⟨i % 256, Nat.mod_lt _ (by decide)⟩
  ((s.addGrid i g).timer (g.qnt * 120000) .quantumBoundary { grid := e }).post .teamPlacement { grid := e, id := 0, flag := true }

/-- A packet that launches holds its queue when B = 1, and leaves the head. -/
def State.launched (s : State) (d q : Nat) (p : Block) : State :=
  (if pkB p then s.modQueue d q fun x => { x with held := true } else s).leaveHead d q

/-- KERNEL (05 R117; 06 R144). -/
def State.runKernel (s : State) (d q : Nat) (p : Block) : State :=
  match s.claim d q p with
  | .wait => s
  | .never => s.rejectPacket d q p psBadPacket
  | .got i g => (s.launched d q p).startGrid i g

/-- PLAN (07 R193): a refusal under R176 is BAD_PACKET. The plan's E is that of a thread that has not written RPLN. -/
def State.runPlan (s : State) (d q : Nat) (p : Block) : State :=
  match s.claim d q p with
  | .wait => s
  | .never => s.rejectPacket d q p psBadPacket
  | .got i g =>
    let t := (s.launched d q p).startGrid i { g with plan := some 0 }
    match t.submit
      { dctx := d, tbase := g.tsrt, grid := some i, die := (s.queueOf d q).die, qd := pkF p 8 8, bd := pkF p 16 8, e := 1
        pinned := bitN (pkF p 28 1) 0, owner := none, result := none, pkt := some (q, pkCsig p), pri := bitsN (pkF p 28 1) 1 2 } with
    | .ok u => u
    | .error _ => s.rejectPacket d q p psBadPacket

/-- One job of a COPY packet: at most 2^35 bytes (06 R153). -/
def State.copyJob (s : State) (d q csig : Nat) (sys b : Bool) (src dst len hostf : Nat) : State :=
  let n := min len (2 ^ 35)
  let reg (host w : Bool) (va : Nat) : Nat := (if host then 2 else 1) + 8 * b2n w + n * 16 + va * 2 ^ 40
  let (id, s) := s.fresh
  let hall := 12 * (s.queueOf d q).die
  let j : Job :=
    { id := id, owner := .packet d q csig sys b (src + n) (dst + n) (len - n) hostf, dctx := d, grid := 256, team := 0, hall := hall
      core := 4 * hall, tag := 0
      card := BitVec.ofNat 512 (1 + reg (bitN hostf 0) false src * 2 ^ 64 + reg (bitN hostf 1) true dst * 2 ^ 160)
      wantOp := 1, cardVa := 0, pri := 0, state := .entering, status := 0, oor := 0, bytes := 0, result := none, byOther := false
      grant := none, awaiting := [] }
  ({ s with jobs := s.jobs ++ [j] }).post .jobCardEntry { id := id }

/-- COPY (05 R118): while its hall holds 256 jobs the packet waits at the head. -/
def State.runCopy (s : State) (d q : Nat) (p : Block) : State :=
  if 256 ≤ s.jobsOfHall (12 * (s.queueOf d q).die) then s
  else (s.launched d q p).copyJob d q (pkCsig p) (pkSys p) (pkB p) (pkF p 8 8) (pkF p 16 8) (pkF p 24 8) (pkF p 32 1)

/-- SIGNAL (05 R118): one atomic at the signal's home, then the completion. TGT = 0xFFFF_FFFF names no signal: nothing is changed, and the
packet completes OK (log entry 55). -/
def State.runSignal (s : State) (d q : Nat) (p : Block) : State :=
  let die := (s.queueOf d q).die
  let tgt := pkF p 8 4
  let val := pkF p 16 8
  let t : Except Trouble State :=
    if tgt = noSignal then .ok s
    else
      match pkF p 12 1 with
      | 0 => (s.vaWrite die (s.fwWho d) (s.sigVa d tgt) (bytesOfNat 8 val)).map Prod.snd
      | 1 => s.sigUpdate die (s.fwWho d) d tgt fun x => some (x + val)
      | _ => s.sigUpdate die (s.fwWho d) d tgt sigDec
  (((t.toOption.getD s).pollSignal d q (pkCsig p) 0)).leaveHead d q

/-- BARRIER_AND and BARRIER_OR (05 R122, R123). -/
def State.runBarrier (s : State) (d q : Nat) (p : Block) : State :=
  match s.readDeps d q p with
  | .error _ => s.stallQueue d q
  | .ok r =>
    match barrierDecides (pkType p == 3) r.1 with
    | none => r.2
    | some 0 => (r.2.pollSignal d q (pkCsig p) 0).leaveHead d q
    | some status =>
      let s := r.2.pollSignal d q (pkCsig p) (completionWord status 0)
      let s := (s.modQueue d q fun x => { x with st := .aborted, fstat := BitVec.ofNat 8 status }).sendQv d q
      s.leaveHead d q

/-- A head packet of an ABORTED queue is abandoned (05 R123). -/
def State.abandon (s : State) (d q : Nat) (p : Block) : State :=
  (if sigOk (s.dctxOf d).logs (pkCsig p) then s.pollSignal d q (pkCsig p) (completionWord psAborted 0) else s.releaseAll).leaveHead d q

/-- The head packet of a queue that may proceed, read with acquire at system scope; `only` keeps to packets of one type. -/
def State.pollHead (s : State) (d q : Nat) (only : Option Nat) : State :=
  let x := s.queueOf d q
  match (s.ncInvalidate x.die).vaRead x.die (s.fwWho d) x.head 64 with
  | .error _ => s.stallQueue d q
  | .ok r =>
    if r.1.poison then r.2.stallQueue d q
    else
      let p := blockOf r.1.bytes
      let s := r.2
      if pkType p = 0 || only.any (· != pkType p) then s
      else
        let abort : Bool := x.st == .aborted
        let bad := pkFault p (s.dctxOf d).logs
        if s.pollFaults d q p (!abort && bad.isNone) then s.stallQueue d q
        else if abort then s.abandon d q p
        else
          match bad with
          | some status => s.rejectPacket d q p status
          | none =>
            match pkType p with
            | 1 => s.runKernel d q p
            | 4 => s.runCopy d q p
            | 5 => s.runSignal d q p
            | 6 => s.runPlan d q p
            | _ => s.runBarrier d q p

/-- Kept completion writes, in order, up to one that faults again (05 R119, R125). -/
def State.flushKept (d q : Nat) : List (Nat × Nat) → State → State
  | [], s => s.modQueue d q fun x => { x with kept := [] }
  | (csig, word) :: rest, s =>
    match s.completionWrite (s.queueOf d q).die d csig word with
    | .ok t => State.flushKept d q rest t
    | .error _ => s.modQueue d q fun x => { x with kept := (csig, word) :: rest, st := .stallFault }

/-- RST at the poll (05 R125). -/
def State.pollReset (s : State) (d q : Nat) : State :=
  let x := s.queueOf d q
  if !x.rst then s
  else
    let s := s.modQueue d q fun x => { x with rst := false }
    if x.st == .idle then s
    else State.flushKept d q x.kept (s.modQueue d q fun x => { x with st := .active, fstat := 0 })

/-- A poll of one queue: what its registers ask for, then its head packet. -/
def State.poll (s : State) (d q : Nat) (only : Option Nat) : State :=
  let x := s.queueOf d q
  if x.disabling then s.modQueue d q fun x => { x with st := .idle, disabling := false, rst := false }
  else
    let s := s.pollReset d q
    let x := s.queueOf d q
    if x.st == .idle || x.st == .stallFault || !x.en || x.held || (s.dctxOf d).stopped then s
    else s.pollHead d q only

/-- The queues that hardware queue `h` serves. -/
def State.queuesOf (s : State) (h : Nat) : List (Nat × Nat) :=
  (List.range 256).flatMap fun d =>
    ((List.range 16).filter fun q =>
      let x := s.queueOf d q
      (x.en || x.disabling) && x.hwq.toNat == h).map fun q => (d, q)

/-! ## MINOR_FRAME (05 R106, R128, R135) -/

/-- The firmware runs its cyclic executive: the part is up and in D0. A fatal event does not stop it (04 R91). -/
def State.firmwareUp (s : State) : Bool := s.power.bringup == 7 && !s.power.d3hot

/-- The listed functions of a waiting patch are inactive at this boundary. -/
def State.patchDue (s : State) : Bool :=
  match s.sec.patch with
  | some (_, qfn, _) => s.sec.fwStat == 1 && qfn.all fun f => !Config.functionActive f s.frames
  | none => false

/-- The next minor frame, at a multiple of 160 ns. -/
def State.armFrame (s : State) : State :=
  if s.timers.any fun t => t.2.1 == .minorFrame then s else s.timer (192 - s.now % 192) .minorFrame {}

/-- The fixed work of a frame: due Landing entries, then the 16 polling slots, the dies side by side. -/
def State.frameWork (s : State) : State :=
  let s := s.applyDue (List.range 256) s.frameDue
  (List.range 16).foldl (fun s slot =>
    (List.range 4).foldl (fun s die => (s.queuesOf (16 * die + slot)).foldl (fun s k => s.poll k.1 k.2 none) s) s) s

/-- The firmware core of a die has not finished the fixed work of the frame before, or has met a fault of its own code or data: a
fatal event (05 R108; 04 R90). -/
def State.firmwareFault (s : State) (die : Fin 4) : State := s.reportPf clsFatal 11 die.val

/-- MINOR_FRAME: a frame boundary, then the frame's fixed work. A patch that is due is applied at the boundary, before the polls: the
frame goes on behind it, with `flag2`. With `flag`, the firmware core of die `die` has faulted; the executive runs on (log entry 79). -/
def execMinorFrame (s : State) : Res :=
  let a := s.arg
  let s := if a.flag then s.firmwareFault a.die else s
  if a.flag2 then .next (if s.firmwareUp then s.frameWork else s)
  else
    let s := ({ s with frames := s.frames + 1 }).armFrame
    if !s.firmwareUp then .next s
    else if s.patchDue then .next ((s.postFirst .minorFrame { flag2 := true }).postFirst .patchApply {})
    else .next s.frameWork

/-! ## The packets, one by one -/

/-- KERNEL: the packet at the head of queue `q` launches its grid (05 R117; 06 R144). -/
def execKernel (s : State) : Res := .next (s.poll s.arg.dctx.val s.arg.q.val (some 1))

/-- BARRIER_AND (05 R122). -/
def execBarrierAnd (s : State) : Res := .next (s.poll s.arg.dctx.val s.arg.q.val (some 2))

/-- BARRIER_OR (05 R122). -/
def execBarrierOr (s : State) : Res := .next (s.poll s.arg.dctx.val s.arg.q.val (some 3))

/-- COPY (05 R118). -/
def execCopy (s : State) : Res := .next (s.poll s.arg.dctx.val s.arg.q.val (some 4))

/-- SIGNAL (05 R118). -/
def execSignal (s : State) : Res := .next (s.poll s.arg.dctx.val s.arg.q.val (some 5))

/-- PLAN (07 R193). -/
def execPlan (s : State) : Res := .next (s.poll s.arg.dctx.val s.arg.q.val (some 6))

/-! ## Queue registers (05 R110, R125) -/

/-- Another queue holds the hardware queue. -/
def State.hwqTaken (s : State) (d q h : Nat) : Bool := (s.queuesOf h).any fun k => k != (d, q) && (s.queueOf k.1 k.2).en

/-- EN := 1, ignored where another enabled queue holds the same HWQ. -/
def State.enableQueue (s : State) (d q : Nat) : State :=
  let x := s.queueOf d q
  if x.en || s.hwqTaken d q x.hwq.toNat then s
  else s.modQueue d q fun x => { x with en := true, disabling := false, st := if x.st == .idle then .active else x.st }

/-- EN := 0; the queue is IDLE from its next poll. -/
def State.disableQueue (s : State) (d q : Nat) : State :=
  s.modQueue d q fun x => { x with en := false, disabling := x.disabling || x.en }

/-- RST := 1, which takes effect at the next poll; on an IDLE queue it has no effect. -/
def State.resetQueue (s : State) (d q : Nat) : State := s.modQueue d q fun x => { x with rst := x.rst || x.st != .idle }

/-- QUEUE_ENABLE: EN := 1. -/
def execQueueEnable (s : State) : Res := .next (s.enableQueue s.arg.dctx.val s.arg.q.val)

/-- QUEUE_DISABLE: EN := 0. -/
def execQueueDisable (s : State) : Res := .next (s.disableQueue s.arg.dctx.val s.arg.q.val)

/-- QUEUE_RESET: RST := 1. -/
def execQueueReset (s : State) : Res := .next (s.resetQueue s.arg.dctx.val s.arg.q.val)

/-! ## GRID_COMPLETE (21 R428; 05 R117, R119) -/

/-- Nothing of the grid is left to end: jobs of its threads, and runs that they own. -/
def State.gridQuiet (s : State) (g : Nat) : Bool :=
  !(s.jobs.any fun j => j.inFlight && j.grid == g && (match j.owner with
      | .thread _ => true
      | _ => false)) &&
    !(s.plans.any fun p => p.grid == some g && p.st == .running && p.pkt.isNone)

/-- Runs whose owner was killed stop INVALID. -/
def State.stopRuns (s : State) (g : Nat) : State :=
  (s.plans.filter fun p => p.grid == some g && p.st == .running && p.pkt.isNone).foldl (fun s p =>
    let s := s.setPlan p.id fun p => { p with st := .invalid, code := 2, resume := some p.nextNode, invalidated := false, job := none }
    match p.job.bind s.jobOf with
    | some j => { s.jobLeaveDone j with jobs := s.jobs.filter fun x => x.id != j.id }
    | none => s) s

/-- The grid's entry and reservation are free, then the completion write is performed. -/
def State.gridDone (s : State) (g : Nat) (x : Grid) (status : Nat) : State :=
  (((s.stopRuns g).dropGrid g).packetDone x.dctx x.q x.csig (pkB x.pkt) status 0).offerRoom

/-- GRID_COMPLETE: the completion write of a grid whose threads have halted, or that was killed. -/
def execGridComplete (s : State) : Res :=
  let g := s.arg.grid.val
  match s.gridOf g with
  | none => .next s
  | some x =>
    if x.plan.isSome then .next s
    else
      match x.killed with
      | some status => .next (if (s.gridJobs g).isEmpty && !(s.recs.any fun r => r.grid == g) then s.gridDone g x status else s)
      | none => if x.haltedTeams = x.teams ∧ s.gridQuiet g then .next (s.gridDone g x 0) else .next s

end Sys2Proof.Machine
end

