-- ==== Sys2Proof/Machine/Home.lean ====
section
/-! DEFINITION. The messages of the coherence fabric, one by one: requests at a home agent, snoops at a die, answers, writebacks and
completions (03 R64 to R71). The requester of a message here is a die; a core's own access applies the whole transaction
(Coherence; log entry 5). -/

namespace Sys2Proof.Machine

def dieIx (d : Nat) : Fin 4 := ⟨d % 4, Nat.mod_lt _ (by decide)⟩

/-- The kind of snoop a transaction sends. -/
def snoopEvent (st : DirSt) (k : DirReqKind) : Instr :=
  match st, k with
  | .bS, _ => .snpshr
  | .bC, _ => .snpcur
  | .bR, _ => .backinv
  | .bM, _ => .backinv
  | _, _ => .snpinv

/-- Enter a transient state: snoops go to `dies`. -/
def State.beginTxn (s : State) (e : DirEntry) (st : DirSt) (r : DirReq) (dies : List Nat) : State :=
  let s := s.modMem fun m =>
    m.putEntry { e with st := st, txn := some r, waiting := dies, dirty := none, shr := if st = .bS then 0 else e.shr }
  dies.foldl (fun s d => s.post (snoopEvent st r.kind) { die := dieIx d, addr := e.line }) s

/-- The completion of a request on its way to die `d`. `nc` marks one that installs nothing. -/
def State.reply (s : State) (line d : Nat) (excl nc : Bool) : State :=
  s.post .dataToRequester { die := dieIx d, addr := line, flag := excl, flag2 := nc }

/-- The write of an NcWr at the home: read-modify-writes or whole writes of its granules (02 R39, R50). -/
def State.homeWrite (s : State) (line : Nat) (mask : BitVec 128) (d : Line) (gran : BitVec 3) (et : Bool) (agent : Nat) : State :=
  s.lineWrite gran.toNat et agent line mask.toNat (bytesOf 128 d)

def State.lineStable (s : State) (e : DirEntry) (st : DirSt) (shr : BitVec 4) : State :=
  s.modMem fun m => (m.putEntry { e with st := st, shr := shr, txn := none, waiting := [], dirty := none }).touch e.line

/-! ## Serving a request for a stable line (03 R66) -/

/-- The transition of a request `r` for entry `e`. -/
def State.serveReq (s : State) (e : DirEntry) (r : DirReq) : State :=
  let line := e.line
  let d := r.die
  match r.kind with
  | .rds =>
    match e.st with
    | .em => s.beginTxn e .bS r [e.own.val]
    | .s => (s.lineStable e .s (e.shr ||| dieBit d)).reply line d false false
    | _ => (s.lineStable e .s (dieBit d)).reply line d false false
  | .rde =>
    match e.st with
    | .em => s.beginTxn e .bE r [e.own.val]
    | .s => s.beginTxn e .bE r ((diesOf e.shr).filter (· != d))
    | _ => (s.lineStable { e with own := dieIx d } .em 0).bumpVersion line |>.reply line d true false
  | .upg =>
    match e.st with
    | .em => s.beginTxn e .bE r [e.own.val]
    | .s => s.beginTxn e .bE r ((diesOf e.shr).filter (· != d))
    | _ => (s.lineStable { e with own := dieIx d } .em 0).bumpVersion line |>.reply line d true false
  | .ncrd =>
    match e.st with
    | .em => s.beginTxn e .bC r [e.own.val]
    | _ => s.reply line d false true
  | .migrd =>
    match e.st with
    | .em => s.beginTxn e .bS r [e.own.val]
    | _ => s
  | .ncwr mask data g et agent =>
    match e.st with
    | .em => s.beginTxn e .bE r [e.own.val]
    | .s => s.beginTxn e .bE r (diesOf e.shr)
    | _ => ((s.homeWrite line mask data g et agent).bumpVersion line).reply line d false true
  | .recall => s.beginTxn e .bR r e.holders
  | .switch => s.beginTxn e .bM r e.holders

/-- Every snoop has been answered: the transaction ends (03 R66). -/
def State.endTxn (s : State) (e : DirEntry) (r : DirReq) : State :=
  let line := e.line
  let d := r.die
  let s := match e.dirty with
    | some x => s.ownerWrite line x
    | none => s
  match e.st, r.kind with
  | .bE, .ncwr mask data g et agent => (((s.homeWrite line mask data g et agent).bumpVersion line).lineStable e .i 0).reply line d false true
  | .bE, _ => ((s.bumpVersion line).lineStable { e with own := dieIx d } .em 0).reply line d true false
  | .bS, .migrd => if e.shr = 0 then s.lineStable e .i 0 else s.lineStable e .s e.shr
  | .bS, _ => (s.lineStable e .s (e.shr ||| dieBit d)).reply line d false false
  | .bC, _ => (s.lineStable e .em 0).reply line d false true
  | _, _ => s.lineStable e .i 0

/-- Requests that wait for a line that has become stable are served in their order (03 R67). -/
def State.serveQueue (line : Nat) : Nat → State → State
  | 0, s => s
  | n + 1, s =>
    let e := s.mem.entry line
    if !e.st.stable || s.mem.blocked line then
      -- a transaction that sends no snoop ends at once
      match e.txn with
      | some r => if e.waiting.isEmpty then State.serveQueue line n (s.endTxn e r) else s
      | none => s
    else
      match e.queue with
      | [] => s
      | r :: rest =>
        let e := { e with queue := rest }
        State.serveQueue line n ((s.modMem fun m => m.putEntry e).serveReq e r)

/-- Serve what can be served: each request takes at most two turns. -/
def State.settle (s : State) (line : Nat) : State := State.serveQueue line (2 * (s.mem.entry line).queue.length + 3) s

/-- The access of a request to an MG page counts for the wing of its hall; `value` is the DPA of the page's translation entry, which
every access to such a page carries, and 0 for any other page, `flag2` says that the page has 2 MiB (03 R79). -/
def State.countRequest (s : State) (line : Nat) : State :=
  let a := s.arg
  if a.value = 0 then s else s.hotAccess (a.hall.val / 4) line a.value.toNat (if a.flag2 then 2 ^ 21 else 4096)

/-- A request reaches the home agent: it is counted, and served, waits in the line's queue, or stalls while its set has no way (03 R66,
R67, R70, R71, R79). -/
def State.homeRequest (s : State) (event : Instr) (line : Nat) (r : DirReq) (installs : Bool) : State :=
  let s := s.countRequest line
  let again := { s.arg with value := 0 }
  let e := s.mem.entry line
  if !e.st.stable || s.mem.blocked line then s.modMem fun m => m.putEntry { e with queue := e.queue ++ [r] }
  else
    match (if installs then s.mem.room line (s.mem.needWays line) else .have_) with
    | .have_ => ((s.modMem fun m => m.putEntry { e with queue := e.queue ++ [r] }).settle line)
    | .full => s.timer 2 event again
    | .recall v =>
      let x := s.mem.entry v
      let s := s.serveReq x { die := 0, kind := .recall }
      (s.settle v).timer 2 event again

/-- A die sends no request for a line while its writeback is unacknowledged, and no caching request for one that it holds in E
or M (03 R69). -/
def State.mayAsk (s : State) (die line : Nat) (caching : Bool) : Bool :=
  !(s.mem.wbPending.contains (die, line)) && !(caching && (match s.mem.dieSt die line with
    | some .e => true
    | some .m => true
    | _ => false))

def State.dieRequest (s : State) (event : Instr) (kind : DirReqKind) (caching : Bool) : Res :=
  let d := s.arg.die.val
  if s.mayAsk d s.arg.addr caching then .next (s.homeRequest event s.arg.addr { die := d, kind := kind } caching) else .next s

/-- RDS: a request to read shared. -/
def execRds (s : State) : Res := s.dieRequest .rds .rds true

/-- RDE: a request for ownership. -/
def execRde (s : State) : Res := s.dieRequest .rde .rde true

/-- UPG: an upgrade from S; from a die that is no sharer it is served as RdE. -/
def execUpg (s : State) : Res := s.dieRequest .upg .upg true

/-- NCRD: a read that does not allocate. -/
def execNcrd (s : State) : Res := s.dieRequest .ncrd .ncrd false

/-- NCWR: a write that does not allocate; `mask` names the bytes of the line that `data` replaces, under class `gran` and ET attribute
`flag`, for the context `core`, `ctx`. -/
def execNcwr (s : State) : Res :=
  let a := s.arg
  s.dieRequest .ncwr (.ncwr (a.mask.setWidth 128) (a.data.setWidth 1024) a.gran a.flag (agentOf a.core a.ctx)) false

/-- MIGRD: the copy read of a migration. -/
def execMigrd (s : State) : Res := .next (s.homeRequest .migrd s.arg.addr { die := 0, kind := .migrd } false)

/-! ## Snoops at a die (03 R64, R68) -/

/-- A die answers a snoop. -/
def State.answerSnoop (s : State) (a : SnoopAns) : State :=
  s.post .snoopAnswer { die := s.arg.die, addr := s.arg.addr, ans := a }

/-- What travels beside the data of a line: class, ET, the agent that wrote it, and in `mask` the sectors held marked poisoned (bits 3:0)
and those not held (bits 7:4). -/
def carryOwned (a : EvArgs) (o : OwnerData) : EvArgs :=
  let p := splitAgent o.writer
  { a with gran := o.gran, flag := o.et, core := p.1, ctx := p.2, mask := BitVec.ofNat 512 (o.bad.toNat + 16 * o.unheld.toNat) }

def ownedArgs (a : EvArgs) (d : Line) : OwnerData where
  data := d
  bad := BitVec.ofNat 4 a.mask.toNat
  unheld := BitVec.ofNat 4 (a.mask.toNat / 16)
  gran := a.gran
  et := a.flag
  writer := agentOf a.core a.ctx

/-- What a die that holds the line does with it, and what it answers: `keep` is its state afterwards. -/
def State.snoop (s : State) (keep : LineSt → Option LineSt) : State :=
  let d := s.arg.die.val
  let line := s.arg.addr
  if s.mem.wbPending.contains (d, line) then s.answerSnoop .ackWb
  else
    match s.mem.dieLine? d line with
    | none => s.answerSnoop .ack
    | some x =>
      let data := s.mem.lineData line
      let t := match keep x.st with
        | none => s.dropLine d line
        | some y => s.modMem fun m => m.setDie d line (some y)
      if x.st = .m then t.post .snoopAnswer (carryOwned { die := s.arg.die, addr := line, ans := .data data } (x.owned data))
      else t.answerSnoop .ackClean

/-- SNPINV: invalidate; data is returned from M. -/
def execSnpinv (s : State) : Res := .next (s.snoop fun _ => none)

/-- SNPSHR: downgrade to S; data is returned from M. -/
def execSnpshr (s : State) : Res := .next (s.snoop fun _ => some .s)

/-- SNPCUR: current data; the state is kept. -/
def execSnpcur (s : State) : Res := .next (s.snoop some)

/-- BACKINV: invalidate for a recall or a migration. -/
def execBackinv (s : State) : Res := .next (s.snoop fun _ => none)

/-! ## Answers and writebacks at the home (03 R66, R68) -/

/-- An answer of die `d` is counted: `copy` says that it still holds the line, `dirty` what it returned. -/
def State.counted (s : State) (e : DirEntry) (d : Nat) (copy : Bool) (dirty : Option OwnerData) : State :=
  let e := { e with
    waiting := e.waiting.erase d
    dirty := dirty.orElse fun _ => e.dirty
    shr := if e.st = .bS && copy then e.shr ||| dieBit d else e.shr }
  let s := s.modMem fun m => m.putEntry e
  match e.txn with
  | some r => if e.waiting.isEmpty then (s.endTxn e r).settle e.line else s
  | none => s

/-- SNOOP_ANSWER: AckWb leaves the home waiting for the writeback on its way. -/
def execSnoopAnswer (s : State) : Res :=
  let d := s.arg.die.val
  let e := s.mem.entry s.arg.addr
  if !e.waiting.contains d then .next s
  else
    match s.arg.ans with
    | .ackWb => .next s
    | .ack => .next (s.counted e d false none)
    | .ackClean => .next (s.counted e d true none)
    | .data x => .next (s.counted e d true (some (ownedArgs s.arg x)))

/-- An eviction from M or E. The die drops its copy and sends the message; the message that has arrived is the answer to a snoop
under way, or makes the line I. -/
def State.writeback (s : State) (event : Instr) (from_ : LineSt) (data : Option OwnerData) : State :=
  let d := s.arg.die.val
  let line := s.arg.addr
  if s.mem.wbPending.contains (d, line) then
    let e := s.mem.entry line
    let s := s.post .wback { die := s.arg.die, addr := line }
    if e.waiting.contains d then s.counted e d data.isSome data
    else if e.st = .em && e.own == s.arg.die then
      let s := match data with
        | some x => s.ownerWrite line x
        | none => s
      (s.lineStable e .i 0).settle line
    else s
  else if s.mem.dieSt d line = some from_ then
    let t := (s.dropLine d line).modMem fun m => { m with wbPending := m.wbPending ++ [(d, line)] }
    let a := { s.arg with data := (s.mem.lineData line).setWidth 4096 }
    t.post event (match s.mem.dieLine? d line with
      | some x => carryOwned a (x.owned (s.mem.lineData line))
      | none => a)
  else s

/-- WBM: a dirty writeback; the home writes memory and answers WbAck. -/
def execWbm (s : State) : Res := .next (s.writeback .wbm .m (some (ownedArgs s.arg (s.arg.data.setWidth 1024))))

/-- EVE: the eviction of a clean exclusive copy. -/
def execEve (s : State) : Res := .next (s.writeback .eve .e none)

/-- WBACK: the die may send requests for the line again. -/
def execWback (s : State) : Res :=
  .next (s.modMem fun m => { m with wbPending := m.wbPending.filter fun x => x != (s.arg.die.val, s.arg.addr) })

/-- A line as its data from memory reach a die: all its sectors, those of poisoned granules held marked poisoned, under the class stored
there, in the slice of the hall that asked. The message names no page, so ET counts as 0 (log entry 5). -/
def MemSys.arrived (m : MemSys) (die line : Nat) (hall : Fin 48) : DieLine :=
  let g := (m.unit (line * 128)).gc.toNat
  let bad : BitVec 4 := BitVec.ofNat 4 (((List.range 4).map fun i => if m.poisoned g (line * 128 + 32 * i) then 2 ^ i else 0).foldl (· + ·) 0)
  { DieLine.fresh die line .s with slices := sliceBit hall, valid := ~~~bad, bad := bad, gran := BitVec.ofNat 3 g }

/-- A die installs a line; one whose copy survived keeps what it holds (03 R66). -/
def MemSys.install (m : MemSys) (die line : Nat) (st : LineSt) (hall : Fin 48) : MemSys :=
  let x := (m.dieLine? die line).getD (m.arrived die line hall)
  (m.setDie die line (some st)).modDieLine die line fun _ => { x with st := st, slices := x.slices ||| sliceBit hall }

/-- DATA_TO_REQUESTER: a die installs the line, or finishes an access that installs nothing. A die that the home no longer lists
has lost the line again. -/
def execDataToRequester (s : State) : Res :=
  let a := s.arg
  let d := a.die.val
  let e := s.mem.entry a.addr
  let listed : Bool := e.holders.contains d || e.waiting.contains d
  if a.flag2 || !listed then .next s
  else .next (s.modMem fun m => m.install d a.addr (if a.flag then .e else .s) a.hall)

/-! ## Registration messages (03 R73, R74) -/

/-- A registration reaches the home agent: it is recorded, answered MM_RACE, or stalls while its set has no way (03 R71). The VA of
the access travels in `value`. -/
def State.registration (s : State) (event : Instr) (write : Bool) : State :=
  let a := s.arg
  if s.mem.lineBusy a.addr then s.timer 2 event a
  else
    match s.mem.regAnswer a.id a.addr write with
    | .ok => (s.regRecord a.id a.addr write).post .registrationAnswer
        { id := a.id, addr := a.addr, flag := write, flag2 := true, value := a.value }
    | .race => s.post .registrationAnswer { id := a.id, addr := a.addr, flag := write, flag2 := false, value := a.value }
    | .full => s.timer 2 event a

/-- REGR: a read registration. -/
def execRegr (s : State) : Res := .next (s.registration .regr false)

/-- REGW: a write registration. -/
def execRegw (s : State) : Res := .next (s.registration .regw true)

end Sys2Proof.Machine
end

