-- ==== Sys2Proof/Machine/Migrate.lean ====
section
/-! DEFINITION. The directory sweep, the hot tables and page migration, and the answers that reach a requester (03 R73, R75, R78 to
R84). -/

namespace Sys2Proof.Machine

/-! ## DIRECTORY_SWEEP (03 R75) -/

/-- Rewrite the stale slots of an entry as empty. -/
def MemSys.sweepEntry (m : MemSys) (e : DirEntry) : DirEntry :=
  { e with
    writer := m.openWriter e
    readers := e.readers.filter m.slotOpen
    exts := (e.exts.filter m.extOpen).map fun x => { x with slots := x.slots.filter m.slotOpen } }

/-- Sweep the sets that `f` selects, and drop entries that are free. -/
def MemSys.sweepSets (m : MemSys) (k : Nat) (f : Nat → Bool) : MemSys :=
  m.modHome k fun h =>
    { h with dir := (h.dir.map fun e => if f (dirSet e.line) then m.sweepEntry e else e).filter fun e => !m.entryFree e }

/-- A pass begins: the epoch of every agent is recorded. -/
def MemSys.beginPass (m : MemSys) (k : Nat) : MemSys :=
  m.modHome k fun h => { h with sweep := 0, passEpochs := m.epochs }

/-- DIRECTORY_SWEEP: the home of `stack` sweeps one set and goes on to the next. With `flag`, the sets left of the pass, which ends:
a pass takes 131,072 fabric cycles (log entry 2). -/
def execDirectorySweep (s : State) : Res :=
  let k := s.arg.stack.val
  if s.arg.flag then
    .next ((s.modMem fun m => (m.sweepSets k fun _ => true).beginPass k).timer 131072 .directorySweep s.arg)
  else
    let n := (s.mem.home k).sweep
    let s := s.modMem fun m => (m.sweepSets k fun x => x == n).modHome k fun h => { h with sweep := n + 1 }
    .next (if 131072 ≤ n + 1 then s.modMem fun m => m.beginPass k else s)

/-! ## Candidates and moves (03 R78 to R81) -/

def HotPage.size (p : HotPage) : Nat := if p.big then 2 ^ 21 else 4096

/-- Lines of a page. -/
def HotPage.lines (p : HotPage) : List Nat := (List.range (p.size / 128)).map fun i => p.page / 128 + i

/-- A line of the page holds an open race slot. -/
def MemSys.pageOpen (m : MemSys) (p : HotPage) : Bool :=
  (m.home (stackOf p.page)).dir.any fun e => p.holds e.line && m.hasOpen e

/-- The wing that makes the page a candidate (03 R79). -/
def HotPage.winner (p : HotPage) (thresh : Nat) : Option Nat :=
  let total := p.counts.toList.foldl (· + ·) 0
  (List.range 12).find? fun w =>
    let n := getIdx p.counts w 0
    decide (1 ≤ n) && decide (thresh ≤ n) && decide (3 * total ≤ 4 * n)

/-- Entry `i` of the frame ring of stack `k`. -/
def MemSys.ringVa (m : MemSys) (k i : Nat) : Nat := (m.home k).ring.toNat * 2 ^ 15 + 8 * (i % 4096)
def MemSys.ringEntry (m : MemSys) (k i : Nat) : Nat := Memory.num m.bytes (m.ringVa k i) 8

/-- A free entry of the right size, with nothing for which it is skipped (03 R80). -/
def ringFree (k : Nat) (big : Bool) (e : Nat) : Bool :=
  bitsN e 0 2 == 1 && bitsN e 40 24 == 0 && bitsN e 3 9 == 0 && (bitN e 2 == big) && bitsN e 36 4 == k &&
    (!big || bitsN e 12 9 == 0)

/-- Hardware writes eight bytes at a DPA: every cached copy of the line goes, and the granule takes a partial write (02 R39, R50). No
translation gives the access a class or ET: it has the stored class and ET = 0 (DESIGN CHOICE, log entry 84). -/
def State.hwWrite8 (s : State) (dpa x : Nat) : State :=
  ((s.cohNcWrite (dpa / 128)).dpaWrite (s.mem.unit dpa).gc.toNat dpa false (bytesOfNat 8 x)).2

/-- MigRd of a line that is in no transaction: an owner is downgraded to S (03 R66). -/
def State.migRead (s : State) (line : Nat) : State :=
  let e := s.mem.entry line
  match e.st with
  | .em => s.modMem fun m => (m.setDie e.own.val line (some .s)).putEntry { e with st := .s, shr := dieBit e.own.val }
  | _ => s

/-- Copy a page to its new frame, granule by granule; poison travels with the data (02 R49). No copy of what the frame held before is left
in any cache. -/
def State.copyPage (s : State) (p : HotPage) (frame : Nat) : State :=
  let g := peGran (entryAt s p.entry)
  let s := p.lines.foldl State.migRead s
  let s := (List.range (p.size / 128)).foldl (fun s i => s.cohNcWrite (frame / 128 + i)) s
  (cutAt (granBytes g) p.page p.size).foldl (fun s c =>
    let r := s.granRead g c.1
    r.2.2.modMem fun m => m.granWrite g (frame + c.2.1) r.1 r.2.1) s

/-- The ring entries scanned from the cursor: up to 8 of them, the first that will do. -/
def MemSys.takeFrame (m : MemSys) (k : Nat) (big : Bool) : Option Nat :=
  let c := (m.home k).cursor
  ((List.range 8).map fun i => (c + i) % 4096).find? fun i => ringFree k big (m.ringEntry k i)

def State.modPage (s : State) (k page : Nat) (f : HotPage → HotPage) : State :=
  s.modMem fun m => m.modHome k fun h => { h with hot := modFirst (fun p => p.page == page) f h.hot }

/-- The page makes no further attempt in its window (03 R83). -/
def State.settlePage (s : State) (k page : Nat) : State :=
  ((s.modPage k page fun p => { p with settled := true }).modMem fun m =>
    m.modHome k fun h => { h with migSettle := satAdd h.migSettle 1 }).reportPf clsCorrectable 5 (k / 3)

def stackIx (k : Nat) : Fin 12 := ⟨k % 12, Nat.mod_lt _ (by decide)⟩

/-- Ticks of a move's copy phase, which the manual bounds by 1 ms (log entry 5). -/
def copyTicks : Nat := 8192

/-- Ticks of a migration window, 2^24 cycles. -/
def windowTicks : Nat := 2 ^ 25

/-- A line of the page is under a transaction: MigRd waits there (03 R66, R81). -/
def MemSys.pageBusy (m : MemSys) (k : Nat) (p : HotPage) : Bool := (m.home k).dir.any fun e => p.holds e.line && !e.st.stable

/-- The copy phase of a move: once no line of the page is under a transaction any longer it is made, and the switch follows. A write
that comes before it changes the write version that the move began with, and the move is abandoned (03 R81). -/
def State.copyPhase (s : State) (k : Nat) (p : HotPage) (frame : Nat) : State :=
  if s.mem.pageBusy k p then s.timer 2 .migrationSwitch { stack := stackIx k, addr := p.page, flag := true }
  else (s.copyPage p frame).timer copyTicks .migrationSwitch { stack := stackIx k, addr := p.page }

/-- Start a move of page `p` of stack `k` towards stack `to_`. -/
def State.startMove (s : State) (k to_ : Nat) (p : HotPage) : State :=
  match s.mem.takeFrame to_ p.big with
  | none =>
    s.modMem fun m => m.modHome to_ fun h => { h with cursor := (h.cursor + 8) % 4096, noFrame := satAdd h.noFrame 1 }
  | some i =>
    let frame := bitsN (s.mem.ringEntry to_ i) 12 28 * 4096
    let s := s.modMem fun m => m.modHome to_ fun h => { h with cursor := (i + 1) % 4096 }
    let s := if p.window.isSome then s else
      (s.modPage k p.page fun x =>
        { x with window := some (s.now + windowTicks), moves := 0, abandons := 0, settled := false }).timer windowTicks .migrationWindowEnd
        { stack := stackIx k, addr := p.page }
    let s := s.modPage k p.page fun x => { x with move := some (x.wver, to_, frame, i) }
    s.copyPhase k p frame

/-- A page may move: its entry still maps it with MG = 1 and C = 1, no line of it is open, and it is not settled (03 R78, R83). -/
def State.movable (s : State) (p : HotPage) : Bool :=
  let e := entryAt s p.entry
  peV e && peC e && peMg e && peFrame e == p.page && !s.mem.pageOpen p && !p.settled && p.move.isNone

/-- HOT_TABLE_PERIOD_END: candidates of the home of `stack` start their moves, and the next period of 65,536 cycles begins. Entries with
no window and no move leave the table then, since their counts start anew (DESIGN CHOICE, log entry 75). -/
def execHotTablePeriodEnd (s : State) : Res :=
  let k := s.arg.stack.val
  let h := s.mem.home k
  let s := if !h.en then s else h.hot.foldl (fun s p =>
    match p.winner h.thresh.toNat with
    | some w => if w != k && s.movable p then s.startMove k w p else s
    | none => s) s
  let clear (p : HotPage) : HotPage := { p with counts := Vector.replicate 12 0 }
  .next ((s.modMem fun m => m.modHome k fun h =>
    { h with hot := (h.hot.map clear).filter fun p => p.window.isSome || p.move.isSome }).timer 131072 .hotTablePeriodEnd s.arg)

/-! ## The switch (03 R81 to R83) -/

/-- Every request held for the page is answered Retry. -/
def State.retryHeld (s : State) (k : Nat) (p : HotPage) : State :=
  let held := ((s.mem.home k).dir.filter fun e => p.holds e.line).flatMap fun e => e.queue.map fun r => (e.line, r.die)
  held.foldl (fun s x => s.post .retry { die := dieIx x.2, addr := x.1 }) s

/-- The attempt is abandoned: the page is unblocked, and three attempts settle it. -/
def State.abandonMove (s : State) (k : Nat) (p : HotPage) : State :=
  let s := (s.modPage k p.page fun x => { x with move := none, blocked := false, abandons := x.abandons + 1 }).modMem fun m =>
    m.modHome k fun h => { h with abandon := satAdd h.abandon 1 }
  let s := ((s.mem.home k).dir.filter fun e => p.holds e.line).foldl (fun s e => s.settle e.line) s
  if 3 ≤ p.abandons + 1 then s.settlePage k p.page else s

/-- The hot table of a home takes in a page that has moved to it, in a place whose window has ended when the table is full. -/
def Home.takeIn (h : Home) (p : HotPage) : Home :=
  if h.hot.length < 256 then { h with hot := h.hot ++ [p] }
  else if h.hot.any fun x => x.window.isNone && x.move.isNone then
    { h with hot := modFirst (fun x => x.window.isNone && x.move.isNone) (fun _ => p) h.hot }
  else { h with hot := h.hot ++ [p] }

/-- The move completes: every copy goes, FRAME is the new frame, the old one goes back through the ring, and the window's state
travels with the page. -/
def State.switchMove (s : State) (k : Nat) (p : HotPage) (to_ frame slot : Nat) : State :=
  let s := s.retryHeld k p
  let gone := ((s.mem.home k).dir.filter fun e => p.holds e.line).map (·.line)
  let s := gone.foldl (fun s l => s.recall l) s
  let e := entryAt s p.entry
  let s := s.hwWrite8 p.entry (e - bitsN e 12 28 * 4096 + frame)
  let s := s.hwWrite8 (s.mem.ringVa to_ slot) (p.page + 4 * b2n p.big + 2)
  let moved : HotPage :=
    { p with page := frame, counts := Vector.replicate 12 0, wver := 0, moves := p.moves + 1, move := none, blocked := false }
  let s := s.modMem fun m =>
    (m.modHome k fun h => { h with hot := h.hot.filter (fun x => x.page != p.page), moves := satAdd h.moves 1 }).modHome to_ fun h =>
      h.takeIn moved
  let s := match p.window with
    | some t => s.timer (t - s.now) .migrationWindowEnd { stack := stackIx to_, addr := frame }
    | none => s
  if 2 ≤ moved.moves then s.settlePage to_ frame else s

/-- MIGRATION_SWITCH: the page is blocked; once no line of it is under a transaction, the move is switched or abandoned. With `flag` the
copy phase still waits. -/
def execMigrationSwitch (s : State) : Res :=
  let k := s.arg.stack.val
  match (s.mem.home k).hot.find? fun p => p.page == s.arg.addr with
  | none => .next s
  | some p =>
    match p.move with
    | none => .next s
    | some (v0, to_, frame, slot) =>
      if s.arg.flag then .next (s.copyPhase k p frame)
      else if s.mem.pageBusy k p then
        .next ((s.modPage k p.page fun x => { x with blocked := true }).timer 2 .migrationSwitch s.arg)
      else if p.wver ≠ v0 ∨ s.mem.pageOpen p then .next (s.abandonMove k p)
      else .next (s.switchMove k p to_ frame slot)

/-- MIGRATION_WINDOW_END: the page may become a candidate again. -/
def execMigrationWindowEnd (s : State) : Res :=
  let k := s.arg.stack.val
  .next (s.modPage k s.arg.addr fun p =>
    if p.window.any (fun t => decide (t ≤ s.now)) then { p with window := none, moves := 0, abandons := 0, settled := false } else p)

/-! ## Answers at a requester (03 R73, R82) -/

/-- A context whose bundle waits for a line looks again. -/
def State.lookAgain (s : State) (c : Fin 192) (x : Fin 4) : State :=
  let s := s.modCtxAt c x fun k => { k with stall := if k.stall == some .registration then none else k.stall }
  s.addBusy c

/-- RETRY: the requesters of the die translate again and reissue: each access translates anew when its bundle or command is looked
at again. -/
def execRetry (s : State) : Res :=
  let die := s.arg.die.val
  .next (((List.finRange 192).filter fun c => c.val / 48 == die).foldl (fun s c =>
    if (s.coreAt c).running.isSome then (List.finRange 4).foldl (fun s x => s.lookAgain c x) s else s) s)

/-- REGISTRATION_ANSWER: agent `id` has registered the line, or takes MM_RACE before its access performs. -/
def execRegistrationAnswer (s : State) : Res :=
  let a := s.arg
  let p := splitAgent a.id
  if (s.ctxAt p.1 p.2).phase == .free then .next s
  else if a.flag2 then .next ((s.modCtxAt p.1 p.2 fun c => c.remember a.addr a.flag).lookAgain p.1 p.2)
  else .next (s.takeTrapAt p.1 p.2 cMmRace a.value.toNat)

end Sys2Proof.Machine
end

