-- ==== Sys2Proof/Machine/JobEnd.lean ====
section
/-! DEFINITION. The end of a job: its completion action, or its failure (06 R151, R153 to R155; 17 R401, R402; 04 R90, R101). -/

namespace Sys2Proof.Machine

/-- A team remembers its 64 most recently ended jobs (17 R401). -/
def Team.remember (t : Team) (x : Nat × Nat × Nat) : Team :=
  if x.1 = 0 then t else { t with recent := (x :: t.recent.filter fun y => y.1 != x.1).take 64 }

/-- The job is gone: jobs that waited for it, or for its engine, may be issued. -/
def State.retire (s : State) (j : Job) (status : Nat) : State :=
  let s := (s.jobLeaveDone j).dropColl j.id
  let s := { s with jobs := s.jobs.filter fun x => x.id != j.id }
  let s := s.post .jobDispatch { hall := hallIx j.hall }
  -- a thread that has moved may have jobs behind this one in other halls
  let others := ((s.jobs.filter fun x => x.hall != j.hall && x.state == .waiting && sameStream j x).map (·.hall)).dedup
  let s := others.foldl (fun s h => s.post .jobDispatch { hall := hallIx h }) s
  match j.owner with
  | .thread _ => (s.modTeam j.grid j.team fun t => t.remember (j.tag, status, j.oor)).teamCheck j.grid j.team
  | _ => s

/-- The context number of the job's issuer, 0 where it is on none. -/
def State.jobAgent (s : State) (j : Job) : Nat := ((s.issuerCtx j).map fun p => agentOf p.1 p.2).getD 0

/-- Events of a job's end for the host (04 R90). -/
def State.reportJob (s : State) (j : Job) (status : Nat) : State :=
  let fn := s.fnOf j.dctx
  if status = jsPoison then s.report clsNonFatal 7 fn j.die (s.jobAgent j) 0
  else if [jsHost, jsLinkDown, jsNoRoute, jsRemote, jsColl].contains status then s.report clsNonFatal 9 fn j.die (s.jobAgent j) 0
  else s

/-- The issuing thread has not halted. -/
def State.issuerLive (s : State) (va grid : Nat) : Bool := (s.recOf va grid).any fun r => r.st != .halted

/-- A thread's job failed: the status is raised against the issuer; without one the grid is killed. A cancelled job raises only
when another thread cancelled it, and kills nothing. -/
def State.jobFailed (s : State) (j : Job) (va status : Nat) : State :=
  let t := s.retire j status
  if status = jsCancelled then (if j.byOther && s.issuerLive va j.grid then t.raiseRec va j.grid (32 + status) status else t)
  else if s.issuerLive va j.grid then t.raiseRec va j.grid (32 + status) status
  else if (t.gridOf j.grid).any fun g => g.killed.isSome then t
  else (t.report clsNonFatal 8 (t.fnOf j.dctx) j.die 0 0).killGrid j.grid 5

/-- The release of a completion action at SCOPE; that of a collective is at system scope whatever its card holds (04 R104). -/
def State.jobRelease (s : State) (j : Job) : State :=
  if 3 ≤ doneScope (cardDone j.card) ∨ cardOp j.card = 8 then s.ncFlush j.die else s

/-- The outcome of a completion action. -/
inductive Action where
  | done (s : State)
  | fails (status : Nat)
  /-- the job stays in flight -/
  | stays (s : State)

/-- CA 4: a signal that cannot be reached ends the job with the status of the fault. -/
def State.signalAction (s : State) (j : Job) (i : Nat) : Action :=
  let who := s.jobWho j
  if !s.sigIn who.dctx i then .fails 13
  else
    match s.sigUpdate j.die who who.dctx i sigDec with
    | .error t => .fails (troubleStatus t)
    | .ok t => .done t

/-- The completion action of a thread's job (06 R154, R151). -/
def State.jobAction (s : State) (j : Job) : Action :=
  let d := cardDone j.card
  let c := doneCarg d
  let s := s.jobRelease j
  match doneCa d with
  | 1 =>
    let team := bitsN c 0 32
    .done (if (s.gridOf j.grid).any fun g => decide (team < g.teams) then s.postFlag j.grid team (doneFlag d) else s)
  | 2 =>
    let node := bitsN c 0 21
    (match s.sendKept 0 (some j.id) (flagPost node (bitsN c 21 12) (bitsN c 33 20) (doneFlag d) j.tag) with
    | none => .fails jsNoRoute
    | some (q, t) => .stays (t.modJob j.id fun j => { j with state := .posting, awaiting := [(node, q)] }))
  | 3 => .done (s.barrierUpdate j.grid j.team (bitsN c 0 8) (j.bytes % 2 ^ 56) 0)
  | 4 => s.signalAction j (bitsN c 0 32)
  | 5 =>
    -- a killed grid starts no thread any more (log entry 57)
    if (s.gridOf j.grid).any fun g => g.killed.isSome then .done s
    else
    let core := ((s.teamOf j.grid j.team).bind (·.core)).getD j.core
    (match s.handlerCreate j.grid j.team core (core / 4) (bitsN c 0 12) (bitsN c 12 16) (bitN c 28) (bitsN c 29 2) j.cardVa with
    | some t => .done t
    | none => .stays (s.modTeam j.grid j.team fun t => { t with owed := t.owed ++ [(3, j.id)] }))
  | _ => .done s

/-- The end of a thread's job. -/
def State.threadJobEnd (s : State) (j : Job) (va : Nat) : State :=
  if j.status ≠ 0 then (s.reportJob j j.status).jobFailed j va j.status
  else
    match s.jobAction j with
    | .done t => t.retire j 0
    | .stays t => t
    | .fails status =>
      let node := bitsN (doneCarg (cardDone j.card)) 0 21
      ((s.countUnassigned (if doneCa (cardDone j.card) = 2 then [node] else []) status).reportJob j status).jobFailed j va status

/-- JOB_COMPLETE: the job of number `id` ends, its posting is acknowledged, or a handler record has come free for it. -/
def execJobComplete (s : State) : Res :=
  match s.jobOf s.arg.id with
  | none => .next s
  | some j =>
    if j.state == .posting then
      (match j.owner with
      | .thread va =>
        if j.status ≠ 0 then .next ((s.reportJob j j.status).jobFailed j va j.status)
        else if j.awaiting.isEmpty then .next (s.retire j 0)
        else .next s
      | _ => .next s)
    else if j.state != .finishing then .next s
    else
      match j.owner with
      | .thread va => .next (s.threadJobEnd j va)
      | .packet d q csig sys b src dst len hostf =>
        let t := (s.reportJob j j.status).retire j j.status
        .next (if j.status ≠ 0 then t.packetDone d q csig b psJobFault j.status
          else if len = 0 then t.packetDone d q csig b 0 0
          else t.copyJob d q csig sys b src dst len hostf)
      | .plan id => .next (((s.reportJob j j.status).retire j j.status).planJobEnd id j.status)

end Sys2Proof.Machine
end

