-- ==== Sys2Proof/Machine/Hazards.lean ====
section
/-! DEFINITION. What an operation meets before its bundle issues: the registers that an interlock watches, and the check that
its meaning makes (08 R196, R197, R211). -/

namespace Sys2Proof.Machine

/-! ## Interlocks (08 R197) -/

/-- A written register; with WS = 1 none is (08 R197). -/
def wr (ws : Bool) (d : Dest) : List Dest := if ws then [] else [d]

/-- The predicate mask that MK names. -/
def mkDest (mk : BitVec 3) : Dest := .k (.main ⟨mk.toNat, by omega⟩)

/-- `n + 1` scalar registers from A on. -/
def runDests (a : Opnd) (n : BitVec 4) : List Dest := (List.range (n.toNat + 1)).map fun i => .s (regAfter a i)

/-- Every register that an operation reads or writes. -/
def touches (i : Instr) : List Dest :=
  match i with
  | .sAddReg ws d a b | .sSub ws d a b | .sMulReg ws d a b | .sMulh ws d a b | .sDiv ws d a b | .sRem ws d a b
  | .sAndReg ws d a b | .sOrReg ws d a b | .sXorReg ws d a b | .sShlReg ws d a b | .sShrReg ws d a b | .sSarReg ws d a b
  | .sMinReg ws d a b | .sMaxReg ws d a b | .sAddsc ws d a b _ => wr ws (.s d) ++ [.s a, .s b]
  | .sAddImm ws d a _ | .sMulImm ws d a _ | .sAndImm ws d a _ | .sOrImm ws d a _ | .sXorImm ws d a _ | .sMinImm ws d a _
  | .sMaxImm ws d a _ => wr ws (.s d) ++ [.s a]
  | .sShlImm ws d a _ | .sShrImm ws d a _ | .sSarImm ws d a _ => wr ws (.s d) ++ [.s a]
  | .sSel ws d a b c => wr ws (.s d) ++ [.s a, .s b, .s c]
  | .sLi ws d _ => wr ws (.s d)
  | .sLih _ d _ => [.s d]
  | .sGetc ws d _ => wr ws (.s d)
  | .sJal ws d _ => wr ws (.s d)
  | .sSetc a _ | .sJr a | .sTret a => [.s a]
  | .sLoopReg a _ => [.s a]
  | .sCmpEqReg a b | .sCmpNeReg a b | .sCmpLtReg a b | .sCmpLeReg a b | .sCmpGtReg a b | .sCmpGeReg a b | .sCmpLtuReg a b
  | .sCmpLeuReg a b | .sCmpGtuReg a b | .sCmpGeuReg a b => [.s a, .s b]
  | .sCmpEqImm a _ | .sCmpNeImm a _ | .sCmpLtImm a _ | .sCmpLeImm a _ | .sCmpGtImm a _ | .sCmpGeImm a _ | .sCmpLtuImm a _
  | .sCmpLeuImm a _ | .sCmpGtuImm a _ | .sCmpGeuImm a _ => [.s a]
  | .vAdd _ ws d a b mk _ | .vSub _ ws d a b mk _ | .vMul _ ws d a b mk _ | .vMin _ ws d a b mk _ | .vMax _ ws d a b mk _
  | .vShlVec _ ws d a b mk _ | .vShrVec _ ws d a b mk _ | .vSarVec _ ws d a b mk _ | .vThrcnt _ ws d a b mk _
  | .vThrsel _ ws d a b mk _ => wr ws (.v d) ++ [.v a, .v b, mkDest mk]
  | .vFma _ _ d a b mk _ | .vScacc _ _ d a b mk _ => [.v d, .v a, .v b, mkDest mk]
  | .vAnd _ ws d a b mk | .vOr _ ws d a b mk | .vXor _ ws d a b mk | .vPerm _ ws d a b mk =>
    wr ws (.v d) ++ [.v a, .v b, mkDest mk]
  | .vAbs _ ws d a mk _ | .vScan _ ws d a mk _ => wr ws (.v d) ++ [.v a, mkDest mk]
  | .vShlImm _ ws d a mk _ _ | .vShrImm _ ws d a mk _ _ | .vSarImm _ ws d a mk _ _ => wr ws (.v d) ++ [.v a, mkDest mk]
  | .vCmpEq _ ws d a b mk _ | .vCmpNe _ ws d a b mk _ | .vCmpLt _ ws d a b mk _ | .vCmpLe _ ws d a b mk _
  | .vCmpGt _ ws d a b mk _ | .vCmpGe _ ws d a b mk _ => wr ws (.k d) ++ [.v a, .v b, mkDest mk]
  | .vAny _ a | .vAll _ a => [.k a]
  | .vCvt _ ws d a mk _ _ _ => wr ws (.v d) ++ [.v a, mkDest mk]
  | .vRq _ ws d a b mk _ => wr ws (.v d) ++ [.v a, .v b, .v (regAfter b 1), mkDest mk]
  | .vRot _ ws d a mk _ => wr ws (.v d) ++ [.v a, mkDest mk]
  | .vBcast _ ws d a mk => wr ws (.v d) ++ [.s a, mkDest mk]
  | .vIota _ ws d mk _ => wr ws (.v d) ++ [mkDest mk]
  | .vExt _ ws d a _ => wr ws (.s d) ++ [.v a]
  | .vRsum _ ws d a mk _ | .vRmin _ ws d a mk _ | .vRmax _ ws d a mk _ => wr ws (.s d) ++ [.v a, mkDest mk]
  | .vRcp _ ws d a mk | .vRsq _ ws d a mk | .vExp2 _ ws d a mk | .vLog2 _ ws d a mk => wr ws (.v d) ++ [.v a, mkDest mk]
  | .vGnorm _ ws d a b mk kx => wr ws (.v d) ++ wr ws (mkDest kx) ++ [.v a, .v b, mkDest mk]
  | .kAnd _ ws d a b | .kOr _ ws d a b => wr ws (.k d) ++ [.k a, .k b]
  | .kNot _ ws d a => wr ws (.k d) ++ [.k a]
  | .kPop _ ws d a => wr ws (.s d) ++ [.k a]
  | .ldS ws d a _ _ _ | .ldSB ws d a _ _ _ => wr ws (.s d) ++ [.s a]
  | .ldV ws d a _ | .ldVB ws d a _ => wr ws (.v d) ++ [.s a]
  | .ldVt ws d a n => wr ws (.v d) ++ runDests a n
  | .ldG ws d a b _ => wr ws (.v d) ++ [.s a, .v b]
  | .ldBc ws d a _ _ _ => wr ws (.v d) ++ [.s a]
  | .ldK ws d a _ => wr ws (.k d) ++ [.s a]
  | .pf a _ => [.s a]
  | .res a b => [.s a, .s b]
  | .stS d a _ _ _ _ => [.s d, .s a]
  | .stV d a _ _ _ => [.v d, .s a]
  | .stVt d a n => .v d :: runDests a n
  | .stSc d a b _ => [.v d, .s a, .v b]
  | .amoAdd ws d a _ _ _ c | .amoMin ws d a _ _ _ c | .amoMax ws d a _ _ _ c | .amoAnd ws d a _ _ _ c | .amoOr ws d a _ _ _ c
  | .amoXor ws d a _ _ _ c | .amoSwap ws d a _ _ _ c => wr ws (.s d) ++ [.s a, .s c]
  | .amoCas ws d a _ _ _ c => wr ws (.s d) ++ [.s a, .s c, .s (regAfter c 1)]
  | .mLdb a b | .mLdbEdge a b | .mLdbx a b | .mMma _ _ _ _ a b | .mZpc _ _ a b | .mTopo _ _ a b => [.s a, .s b]
  | .mBind ws d a b _ _ _ _ => wr ws (.s d) ++ [.s a, .s b]
  | .mDrainWrap ws d a b _ _ _ | .mDrainSat ws d a b _ _ _ | .mDrainRq ws d a b _ _ _ | .mDrainFlt ws d a b _ _ _ =>
    wr ws (.s d) ++ [.s a, .s b]
  | .mWait ws d => wr ws (.s d)
  | .cpCopy ws d a | .cpGath ws d a | .cpScat ws d a | .cpFill ws d a | .cpExpand ws d a | .cpSeal ws d a | .cpGal ws d a
  | .cpColl ws d a | .cpCkpt ws d a | .cpJob ws d a | .cpStat ws d a => wr ws (.s d) ++ [.s a]
  | .cpCancel a => [.s a]
  | .yPost a _ _ _ | .yWait a _ _ | .yWaitSig a _ | .yBar a _ _ | .yBarw a _ _ | .ySev a _ _ | .ySig a _ | .yTsrinv a
  | .yQrun a | .yPin a _ _ | .yUnpin a _ _ => [.s a]
  | .yWfe ws d a => wr ws (.s d) ++ [.s a]
  | .ySplit ws d _ => wr ws (.s d)
  | .ySwap ws d _ => wr ws (.s d)
  | .yQsub ws d a b => wr ws (.s d) ++ [.s a, .s b]
  | .yQsubRe ws d _ => wr ws (.s d)
  | .yQwait ws d a _ => wr ws (.s d) ++ [.s a]
  | .yHint a b | .yPlanrd a b | .yStatrd a b | .yStatwr a b | .yStatwrInv a b => [.s a, .s b]
  | _ => []

/-- The operation names a register that awaits an interlocked result. -/
def Ctx.interlocked (c : Ctx) (i : Instr) : Bool := (touches i).any c.awaits

/-! ## Operations by what they do at issue -/

/-- Pushes onto the condition queue (08 R204). -/
def pushes (i : Instr) : Bool :=
  match i with
  | .sCmpEqReg _ _ | .sCmpNeReg _ _ | .sCmpLtReg _ _ | .sCmpLeReg _ _ | .sCmpGtReg _ _ | .sCmpGeReg _ _ | .sCmpLtuReg _ _
  | .sCmpLeuReg _ _ | .sCmpGtuReg _ _ | .sCmpGeuReg _ _ | .sCmpEqImm _ _ | .sCmpNeImm _ _ | .sCmpLtImm _ _
  | .sCmpLeImm _ _ | .sCmpGtImm _ _ | .sCmpGeImm _ _ | .sCmpLtuImm _ _ | .sCmpLeuImm _ _ | .sCmpGtuImm _ _
  | .sCmpGeuImm _ _ | .vAny _ _ | .vAll _ _ => true
  | _ => false

/-- The operations that decide where issue continues (12 R288, 13 R320). -/
def steers (i : Instr) : Bool :=
  match i with
  | .sJmp _ | .sJal _ _ _ | .sJr _ | .sJbank _ _ | .sTret _ | .sYield | .sHalt | .sLoopReg _ _ | .sLoopImm _ _ => true
  | _ => false

def isHalt (i : Instr) : Bool :=
  match i with
  | .sHalt => true
  | _ => false

/-! ## The memory that a bundle reaches (03 R70, R71) -/

/-- The memory of a route, with whether it is written. -/
def routeSegs (write : Bool) (r : Except Trouble Route) : List (Bool × Seg) :=
  match r with
  | .ok (.mem segs) => segs.map fun g => (write, g)
  | _ => []

/-- The memory that an operation of the thread reaches, piece by piece with whether it is written: the lines of one bundle need entries
together. -/
def State.reach (s : State) (i : Instr) : List (Bool × Seg) :=
  let sA (a : Opnd) : Nat := (s.ctx.sGet a).toNat
  let ld (ea n : Nat) : List (Bool × Seg) := routeSegs false (s.route needR ea n)
  let st (ea n : Nat) : List (Bool × Seg) := routeSegs true (s.route needW ea n)
  let run (write : Bool) (r : Except Trouble Run) : List (Bool × Seg) := (r.toOption.map fun x => x.segs.map fun g => (write, g)).getD []
  let sig (n : Need) (i : Nat) : List (Bool × Seg) :=
    ((translateRange s s.curWho n (s.sigVa s.curWho.dctx i) 8).toOption.getD []).map fun g => (n.w, g)
  match i with
  | .ldS _ _ a sz _ off | .ldSB _ _ a sz _ off | .ldBc _ _ a sz _ off => ld (s.ea a off) (szBytes sz)
  | .ldV _ _ a off | .ldVB _ _ a off => ld (s.ea a off) 256
  | .ldK _ _ a off => ld (s.ea a off) 8
  | .ldVt _ _ a n => run false (s.runOf needR a n)
  | .ldG _ _ a b sz => (s.lanes a b).flatMap fun ea => ld ea (szBytes sz)
  | .stS _ a sz _ _ off => st (s.ea a off) (szBytes sz)
  | .stV _ a _ _ off => st (s.ea a off) 256
  | .stVt _ a n => run true (s.runOf needW a n)
  | .stSc _ a b sz => (s.lanes a b).flatMap fun ea => st ea (szBytes sz)
  | .amoAdd _ _ a w8 _ _ _ | .amoMin _ _ a w8 _ _ _ | .amoMax _ _ a w8 _ _ _ | .amoAnd _ _ a w8 _ _ _
  | .amoOr _ _ a w8 _ _ _ | .amoXor _ _ a w8 _ _ _ | .amoSwap _ _ a w8 _ _ _ | .amoCas _ _ a w8 _ _ _ =>
    routeSegs true (s.route needRW (sA a) (amoBytes w8))
  | .yWaitSig a _ => sig needR (sA a % 2 ^ 32)
  | .ySig a _ => sig needRW (sA a)
  | .yPlanrd a b => st (sA b) (((s.planAt s.curWho (sA a)).map fun p => (p.record p.current).length).getD 0)
  | .yStatrd _ b => st (sA b) 32
  | .yStatwr _ b | .yStatwrInv _ b => ld (sA b) 32
  | _ => ((s.foresee i).toOption.map fun x => x.2.segs).getD []

/-! ## The check of every operation (08 R211) -/

/-- What stands in the way of an operation: the check that its meaning names. -/
def issueCheck (i : Instr) (s : State) : Check :=
  let sA (a : Opnd) : Nat := (s.ctx.sGet a).toNat
  match i with
  | .sJr a => if s.curBank.nb ≤ sA a % 4096 then .trap 1 (sA a % 4096) else .go
  | .sLoopReg _ _ | .sLoopImm _ _ => loopCheck s
  | .sTret a => (s.tretCheck (sA a)).both (syncCheck s)
  | .ldS _ _ a sz _ off => loadCheck false (szBytes sz) (szBytes sz) (s.ea a off) s
  | .ldSB _ _ a sz _ off => loadCheck true (szBytes sz) (szBytes sz) (s.ea a off) s
  | .ldV _ _ a off => loadCheck false 4 256 (s.ea a off) s
  | .ldVB _ _ a off => loadCheck true 4 256 (s.ea a off) s
  | .ldVt _ _ a n => runCheck false a n s
  | .ldG _ _ a b sz => lanesCheck false a b sz s
  | .ldBc _ _ a sz _ off => loadCheck false (szBytes sz) (szBytes sz) (s.ea a off) s
  | .ldK _ _ a off => loadCheck false 8 8 (s.ea a off) s
  | .stS _ a sz rel _ off => (storeCheck (szBytes sz) (szBytes sz) (s.ea a off) s).both (relCheck rel s)
  | .stV _ a rel _ off => (storeCheck 4 256 (s.ea a off) s).both (relCheck rel s)
  | .stVt _ a n => runCheck true a n s
  | .stSc _ a b sz => lanesCheck true a b sz s
  | .amoAdd _ _ a w8 ord _ _ | .amoMin _ _ a w8 ord _ _ | .amoMax _ _ a w8 ord _ _ | .amoAnd _ _ a w8 ord _ _
  | .amoOr _ _ a w8 ord _ _ | .amoXor _ _ a w8 ord _ _ | .amoSwap _ _ a w8 ord _ _ | .amoCas _ _ a w8 ord _ _ =>
    amoCheck a w8 ord s
  | .mAcq => acqCheck s
  | .mRel => relMatCheck s
  | .mMode t m => matCheck (.mMode t m) s
  | .mLdb a b => matCheck (.mLdb a b) s
  | .mLdbEdge a b => matCheck (.mLdbEdge a b) s
  | .mLdbx a b => matCheck (.mLdbx a b) s
  | .mMma p h t l a b => matCheck (.mMma p h t l a b) s
  | .mZero t => matCheck (.mZero t) s
  | .mZpc t l a b => matCheck (.mZpc t l a b) s
  | .mBind ws d a b clr fmt axis t => matCheck (.mBind ws d a b clr fmt axis t) s
  | .mDrainWrap ws d a b tr t l => matCheck (.mDrainWrap ws d a b tr t l) s
  | .mDrainSat ws d a b tr t l => matCheck (.mDrainSat ws d a b tr t l) s
  | .mDrainRq ws d a b tr t l => matCheck (.mDrainRq ws d a b tr t l) s
  | .mDrainFlt ws d a b tr t l => matCheck (.mDrainFlt ws d a b tr t l) s
  | .mSpill t l => matCheck (.mSpill t l) s
  | .mFill t l => matCheck (.mFill t l) s
  | .mTopo h t a b => matCheck (.mTopo h t a b) s
  | .mWait ws d => matCheck (.mWait ws d) s
  | .cpCopy _ _ a => cpCheck 1 a s
  | .cpGath _ _ a => cpCheck 2 a s
  | .cpScat _ _ a => cpCheck 3 a s
  | .cpFill _ _ a => cpCheck 4 a s
  | .cpExpand _ _ a => cpCheck 5 a s
  | .cpSeal _ _ a => cpCheck 6 a s
  | .cpGal _ _ a => cpCheck 7 a s
  | .cpColl _ _ a => cpCheck 8 a s
  | .cpCkpt _ _ a => cpCheck 9 a s
  | .cpJob _ _ a => cpCheck 0 a s
  | .yWait _ _ _ => syncCheck s
  | .yFenceAcq _ => acqFenceCheck s
  | .yPost _ _ _ _ | .yTsrinvAll => releaseCheck s
  | .yWaitSig a _ => (sigCheck needR (sA a % 2 ^ 32) s).both (syncCheck s)
  | .yFenceRel _ | .yFenceAr _ => (relFenceCheck s).both (syncCheck s)
  | .yBar _ _ _ | .yBarw _ _ _ => barCheck s
  | .ySig a _ => (sigCheck needRW (sA a) s).both (releaseCheck s)
  | .ySplit _ _ _ => splitCheck s
  | .ySwap _ _ e => swapCheck e s
  | .yIfence => ifenceCheck s
  | .yTsrinv a => (if 65536 ≤ sA a then Check.trap 16 (sA a) else .go).both (releaseCheck s)
  | .yQsub _ _ a b => queryCheck (sA a) (sA b) s
  | .yQsubRe _ _ h =>
    (match (s.planAt s.curWho h.toNat).filter fun p => p.st == .invalid with
    | none => .trap cPlanState h.toNat
    | some p => queryCheck p.desc p.bind s)
  | .yQrun a => qrunCheck (sA a) s
  | .yQwait _ _ a _ => (handleCheck s (sA a)).both (syncCheck s)
  | .yHint a _ | .yPin a _ _ | .yUnpin a _ _ => handleCheck s (sA a)
  | .yPlanrd a b =>
    let bs : List Byte := ((s.planAt s.curWho (sA a)).map fun p => p.record p.current).getD []
    (handleCheck s (sA a)).both (if bs.isEmpty then .go else s.accessCheck needW true false 8 (sA b) bs.length)
  | .yStatrd a b => (statCheck (sA a) s).both (s.accessCheck needW true false 8 (sA b) 32)
  | .yStatwr a b | .yStatwrInv a b => (statwrCheck (sA a) (sA b) s).both (releaseCheck s)
  | .yLeave cls => leaveReserveCheck cls s
  | _ => .go

end Sys2Proof.Machine
end

