-- ==== Sys2Proof/Machine/Issue.lean ====
section
/-! DEFINITION. BUNDLE_ISSUE, the end of an issue cycle, the arrival of interlocked results, the end of a replay's wait and the
65,536-cycle limit of a stalled access (08 R194 to R216; 12 R286 to R288, R305, R306; 03 R71; 06 R148; 09 R228; 16 R367). -/

namespace Sys2Proof.Machine

/-! ## Stalls and stops (08 R196, 06 R148) -/

/-- A hold stall: nothing of the context moves. -/
def State.hold (s : State) (why : Stall) : State := s.modCtx fun c => { c with stall := some why }

/-- The context at issue stops and waits; results in flight are written first, for the core switches (08 R201). -/
def State.stopWaiting (s : State) (why : Option Stall) (f : Rec → Rec) : State :=
  let r := s.curRec
  let s := s.modCtx fun c => { c.flush with phase := .waiting, stall := why, waitSince := s.now }
  let s := s.modCore fun k => { k with running := none }
  match r with
  | some r => s.modRec r.va r.grid fun r => { f r with st := .waiting }
  | none => s

/-- The context at issue stops but stays ready. -/
def State.stopReady (s : State) : State :=
  ((s.recSt s.curCore s.curCtx .ready).modCtx fun c => { c.flush with phase := .ready, readySince := s.now }).modCore fun k => { k with running := none }

/-- Another context of the core is ready. -/
def State.othersReady (s : State) : Bool :=
  (List.finRange 4).any fun x => x != s.curCtx && (s.core.ctx x).phase == .ready && !(s.core.ctx x).stopping

/-! ## What comes before a bundle (08 R211; 16 R367; 17 R418, R443) -/

/-- The oldest cause, then the lowest number. -/
def Ctx.firstCause (c : Ctx) : Option AsyncCause :=
  c.async.foldl (fun (acc : Option AsyncCause) a => match acc with
    | none => some a
    | some b => if a.age < b.age ∨ (a.age = b.age ∧ a.cause < b.cause) then some a else some b) none

/-- What a deferred load meets when it is reissued. -/
def State.reissueCheck (s : State) (q : LongResult) : Check :=
  match decodeSlot 4 q.word with
  | .ok (some i) =>
    (match i with
    | .ldS _ _ _ sz _ _ => loadCheck false (szBytes sz) (szBytes sz) q.va s
    | .ldSB _ _ _ sz _ _ => loadCheck true (szBytes sz) (szBytes sz) q.va s
    | .ldV _ _ _ _ => loadCheck false 4 256 q.va s
    | .ldVB _ _ _ _ => loadCheck true 4 256 q.va s
    | .ldBc _ _ _ sz _ _ => loadCheck false (szBytes sz) (szBytes sz) q.va s
    | .ldK _ _ _ _ => loadCheck false 8 8 q.va s
    | .ldVt _ _ a n =>
      let xs := q.again (s.runArgs a n)
      runCheckOf false (s.runAt needR (xs.headD 0) xs.tail) s
    | .ldG _ _ a b sz => lanesCheckAt false (q.again (s.lanes a b)) sz s
    | _ => .go)
  | _ => .go

/-- The next deferred load takes the place of one that was reissued. -/
def Ctx.nextDeferred (c : Ctx) : Ctx :=
  match c.deferredRest with
  | [] => { c with deferred := none }
  | q :: rest => { c with deferred := some q, deferredRest := rest }

/-- A leave request of the context at issue, made once; an unused grant of another class goes back. -/
def State.askLeave (s : State) (cls : Nat) : State :=
  let s := s.leaveGiveBack s.curCore s.curCtx
  if (s.dieAt (dieOf s.curCore)).waiting.any fun q => q.owner == s.curAgent then s
  else s.post .leaveRequest { core := s.curCore, ctx := s.curCtx, cls := BitVec.ofNat 2 cls }

def isLeave (i : Instr) : Bool :=
  match i with
  | .yLeave _ => true
  | _ => false

/-- The operations that may need leave of their own (01 R28): those that drive the array, and copies. -/
def takesLeave (i : Instr) : Bool :=
  match i with
  | .mMma _ _ _ _ _ _ => true
  | .mTopo _ _ _ _ => true
  | .cpCopy _ _ _ => true
  | .cpGath _ _ _ => true
  | .cpScat _ _ _ => true
  | .cpFill _ _ _ => true
  | .cpExpand _ _ _ => true
  | .cpGal _ _ _ => true
  | .cpColl _ _ _ => true
  | .cpCkpt _ _ _ => true
  | .cpJob _ _ _ => true
  | _ => false

/-- An operation stalls for leave before its bundle only where no earlier slot of the bundle may take leave: together the two might never
fit, so the later one takes its leave as it performs, and waits behind the other in its slot (01 R30, R31; log entry 73). -/
def leaveInTurn (ops : List Latched) (o : Latched) (k : Check) : Check :=
  match k with
  | .stall .leave _ => if ops.any fun p => decide (p.slot < o.slot) && takesLeave p.op then .go else k
  | _ => k

/-- A cycle stalled for leave counts (01 R30). -/
def State.leaveStalled (s : State) : State := s.modCtx fun c => { c with leaveStall := satAdd c.leaveStall 1 }

/-- An access waits for a line under a transaction or a switch: its die's request enters the home's queue and is served in its turn
(03 R67), but for a line that the die holds as the access needs it (R69). -/
def State.askHome (s : State) (info : Nat) : State :=
  if info < 2 then s
  else
    let line := (info - 2) / 2
    let write : Bool := info % 2 == 1
    let die := dieOf s.curCore
    let holds : Bool := match s.mem.dieSt die.val line with
      | some .s => !write
      | some _ => true
      | none => false
    if holds then s else s.askLine (if write then .rde else .rds) die (hallOf s.curCore) line

/-- The bundle at issue stalls. `ops` are its enabled operations. -/
def State.stalled (s : State) (ops : List Latched) (why : Stall) (info : Nat) : State :=
  match why with
  | .leave =>
    -- a second `y.leave` first releases the old reservation (17 R418); the stalled cycles of matrix and copy operations count
    -- (01 R30)
    let s := if (ops.any fun o => isLeave o.op) && !ops.any (fun o => takesLeave o.op) then s.leaveUnreserve else s
    let s := if ops.any fun o => takesLeave o.op then s.leaveStalled else s
    (s.hold .leave).askLeave info
  | .capacity =>
    -- the limit counts the core's own cycles: none pass while its clock stands (03 R71, 01 R33)
    let n := if s.ctx.stall = some .capacity then s.ctx.capCycles + 1 else 1
    let s := (s.modCtx fun c => { c with capCycles := n }).hold .capacity
    if n = 65536 then
      s.post .coreCapacityTimeout { core := s.curCore, ctx := s.curCtx, addr := info, num := s.ctx.icnt.toNat }
    else s
  | .engine => s.stopWaiting (some .engine) fun r => { r with wk := 5 }
  | .registration => (s.hold .registration).askHome info
  | w => s.hold w

/-- A leave reservation is requested again before the thread next issues (17 R418). -/
def State.issueReserve (s : State) (cls : BitVec 2) : State :=
  match leaveReserveCheck cls s with
  | .go => s.leaveReserve cls
  | _ => s.stalled [] .leave cls.toNat

/-- The engine is acquired again and repeats its last B load (16 R367), which stalls as any read of those bytes does (09 R219, R225). -/
def State.issueEngine (s : State) (b : BSource) : State :=
  if s.core.engine.holder != .nobody && !s.holds then s.stalled [] .engine 0
  else
    let t := s.acquireEngine
    match (if b.kind = 0 then .ok (MRun.of t) else (MRun.of t).loadB b.kind b.aval b.shape >>= MRun.settle : Mat MRun) with
    | .error x => s.takeTrap x.cause x.info
    | .ok r =>
      match r.usesCheck s with
      | .trap cause info => s.takeTrap cause info
      | .stall why info => s.stalled [] why info
      | .go =>
      let u := (r.s.registerAll r.segs).modCtx fun c => { c with mstat := s.ctx.mstat ||| BitVec.ofNat 7 r.bits, reacquire := none }
      match r.pz with
      | some va => (if r.et0 then u.poisonReport u.curCore u.curCtx else u).raise cPoison va
      | none => u

/-! ## Fetch (12 R305, 09 R228) -/

/-- An expansion or seal of the context's segment is queued or in flight for its bank. -/
def State.fetchLoads (s : State) : Bool := s.loadsSeg s.curCore s.ctx.bank s.curWho.dctx s.curImg s.ctx.seg

/-- UNSEALED_FETCH at the bundle that would be fetched. No rule says what INFO holds then (log entry 9). -/
def State.unsealed (s : State) : State :=
  let x := s.free
  x.2.takeTrap 1 x.1.toNat

/-- The context waits for its segment: WK 6 (09 R228). -/
def State.waitBank (s : State) : State :=
  let c := s.curCore
  let b := s.ctx.bank
  let seg := s.ctx.seg
  let grid := s.curGrid
  let used := (List.finRange 4).any fun x => x != s.curCtx && (s.core.ctx x).phase != .free && (s.core.ctx x).bank == b &&
    s.bankNamed c x
  let t := s.stopWaiting (some .bank) fun r => { r with wk := 6 }
  if (s.core.banks.get b).loading.isSome then t
  else if used then t.bankTimer c b
  else t.startLoad c b grid seg .fetch

/-! ## The bundle (08 R194, R202 to R205; 12 R286, R288, R306) -/

/-- The operations of a bundle with their tags; none where a slot does not decode. -/
def bundleOps (b : Block) : Option (List (Nat × Latched)) :=
  (List.finRange 8).foldr (fun n (acc : Option (List (Nat × Latched))) =>
    match decodeSlot n (slotOf b n.val) with
    | .error _ => none
    | .ok none => acc
    | .ok (some i) => acc.map fun l => (((slotOf b n.val).extractLsb' 53 3).toNat, ⟨n.val, i, slotOf b n.val⟩) :: l) (some [])

/-- The order in which the operations of one bundle perform: loads, then stores, then matrix operations (15 R355, 16 R368);
`s.halt` comes after every other enabled slot (13 R326). -/
def performKey (l : Latched) : Nat :=
  if isHalt l.op then 16 else if l.op == .matrixCommandComplete then 13 else if l.slot = 3 then 11 else 2 * l.slot

/-- The releases of the sync slot (10 R242). -/
def isRelease (i : Instr) : Bool :=
  match i with
  | .yPost _ _ _ _ => true
  | .yFenceRel _ => true
  | .yFenceAr _ => true
  | .yBar _ _ _ => true
  | .yBarw _ _ _ => true
  | .ySig _ _ => true
  | .ySwap _ _ _ => true
  | .yTsrinv _ => true
  | .yTsrinvAll => true
  | .yQrun _ => true
  | .yStatwr _ _ => true
  | .yStatwrInv _ _ => true
  | _ => false

/-- The acquire fences of the sync slot. -/
def isAcqFence (i : Instr) : Bool :=
  match i with
  | .yFenceAcq _ => true
  | .yFenceAr _ => true
  | _ => false

/-- A release, or an acquire fence, bundled with a matrix operation that uses memory or scratchpad comes after it (10 R242 to R244): the
command completes first (log entry 83). -/
def State.flushes (s : State) (ops : List Latched) : List Latched :=
  if !ops.any fun o => isRelease o.op || isAcqFence o.op then []
  else if ops.any fun o => o.slot == 3 && (match s.foresee o.op with
    | .ok x => !x.2.uses.isEmpty
    | .error _ => false)
  then [⟨3, .matrixCommandComplete, 0⟩]
  else []

/-- Such a bundle waits for the commands that are queued before its own. -/
def State.flushCheck (s : State) (ops : List Latched) : Check :=
  if !s.core.engine.queue.isEmpty && !(s.flushes ops).isEmpty then .stall .resource else .go

/-- CQ_OVERFLOW: the pushes of the bundle in slot order (08 R204). -/
def overflowCheck (c : Ctx) (drop : Nat) (ops : List Latched) : Check :=
  let n := ops.countP fun o => pushes o.op
  if 0 < n ∧ 16 < c.cq.length - drop + c.pushes + n then .trap 3 0 else .go

/-- An OB bundle queues segment NEXT for the other bank (12 R306). -/
def State.otherBank (s : State) : Fin 2 := ⟨1 - bankOf s.ctx.bix, by omega⟩

/-- A load of NEXT into the other bank is queued or in flight. -/
def State.overlayFound (s : State) : Bool := s.loadsSeg s.curCore s.otherBank s.curWho.dctx s.curImg s.curBank.next

/-- The other bank holds NEXT sealed. -/
def State.overlayHeld (s : State) : Bool :=
  let o := s.core.banks.get s.otherBank
  o.names s.curWho.dctx s.curImg s.curBank.next && o.isSealed

/-- A load that the bundle starts or finds counts for the thread's `y.ifence`. -/
def State.overlay (s : State) (ob : Bool) : State :=
  if !ob then s
  else
    let va := (s.curRec.map (·.va)).getD 0
    let seg := s.curBank.next
    let note (s : State) : State :=
      s.modBank s.curCore s.otherBank fun k => { k with watch := if k.watch.contains (va, s.curGrid, seg) then k.watch else k.watch ++ [(va, s.curGrid, seg)] }
    if s.overlayFound then note s
    else if s.overlayHeld then s
    else note (s.queueLoad s.curCore s.otherBank s.curGrid seg (.overlay s.curGrid va))

/-- A `y.swap` of the bundle that refetches instead of completing (09 R223). -/
def State.refetches (s : State) (ops : List Latched) : Option (BitVec 3) :=
  ops.findSome? fun o => match o.op with
    | .ySwap _ _ e => if s.swapRefetch e then some e else none
    | _ => none

/-- The bundle issues: the pops are made, issue continues as the leaf and the loops say unless an operation decides it, and the
enabled operations are ready to perform. -/
def State.commit (s : State) (h : Header) (leaf drop : Nat) (ops : List Latched) : State :=
  let c := s.ctx
  let i := c.bix % 2048
  let ops := ops ++ s.flushes ops
  let s := s.overlay h.ob
  let s := s.modCtx fun c =>
    { c with cq := c.cq.drop drop, stall := none, copyWait := none, replays := 0, issuedSince := c.issuedSince + 1 }
  let s := if leaf ≠ 0 then s.modCtx fun c => { c with bix := bixOf (bankOf c.bix) (h.target leaf i).toNat }
    else if ops.any fun o => steers o.op then s
    else s.modCtx fun c => { c with bix := bixOf (bankOf c.bix) (loopEnd i c.loops).1, loops := (loopEnd i c.loops).2 }
  { s with issued := true, latched := sortBy performKey ops, ctlOld := [(0, c.ctl 0)] }

/-- Decide one bundle: the chain, then interlocks, then every enabled operation's check (08 R194, R197, R202, R211). -/
def State.issueBundle (s : State) (b : Block) : State :=
  let h := Header.of b
  match bundleOps b with
  | none => s.unsealed
  | some all =>
    match s.ctx.chain h with
    | .bubble => s.modCtx fun c => { c.advance with stall := some .bubble }
    | .empty => s.takeTrap 2 0
    | .leaf leaf drop =>
      let ops := (all.filter fun p => tagEnables p.1 leaf).map Prod.snd
      if (ops.any fun o => s.ctx.interlocked o.op) || (h.hw && (s.matPending || s.ctx.long.any fun r => r.load || r.slot == 5)) then
        s.hold .interlock
      else
        let t := if h.hw then s.hostWindowPoint s.curCore else s
        let t := { t with curBix := s.ctx.bix % 2048, curLeaf := leaf, curHeader := b.extractLsb' 448 64 }
        match (overflowCheck t.ctx drop ops).both ((Check.all (ops.map fun o => leaveInTurn ops o (issueCheck o.op { t with curWord := o.word }))).both
            ((t.roomCheck (ops.flatMap fun o => t.reach o.op)).both (t.flushCheck ops))) with
        | .trap cause info => s.takeTrap cause info
        | .stall why info => s.stalled ops why info
        | .go =>
          match t.refetches ops with
          | some e => (t.refetch e).hold .resource
          | none => t.commit h leaf drop ops

/-- Fetch and decide the next bundle (12 R305). -/
def State.fetchIssue (s : State) : State :=
  let bank := s.curBank
  if !s.bankNamed s.curCore s.curCtx then (if s.fetchLoads then s.hold .bank else s.waitBank)
  else if bank.isSealed && decide (s.ctx.bix < 4096) && decide (s.ctx.bix % 2048 < bank.nb) then
    s.issueBundle (tget s.core.bundles s.ctx.bix 0)
  else if s.fetchLoads then s.hold .bank
  else s.unsealed

/-- What the running context does in one cycle. -/
def State.issue (s : State) : State :=
  let c := s.ctx
  if c.halting then (if s.haltReady s.curCore s.curCtx then s.haltNow s.curCore s.curCtx else s.hold .interlock)
  else
    match c.firstCause with
    | some a => (s.modCtx fun c => { c with async := c.async.erase a }).takeTrap a.cause a.info
    | none =>
      match c.deferred with
      | some q =>
        (match s.reissueCheck q with
        | .go => (s.modCtx Ctx.nextDeferred).reissue q
        | .trap cause info => s.takeTrap cause info
        | .stall why info => s.stalled [] why info)
      | none =>
        if c.wait.isSome then
          let t := s.tryWait
          if t.ctx.wait.isSome then t.hold .wait else t
        else if c.copyWait.any s.copyWaits then s.leaveStalled.hold .leave
        else
          match c.rereserve, c.reacquire with
          | some cls, _ => s.issueReserve cls
          | none, some b => s.issueEngine b
          | none, none => s.fetchIssue

/-- BUNDLE_ISSUE: core `core` issues the next bundle of its running context, or it stalls or traps. -/
def execBundleIssue (s : State) : Res :=
  match (s.coreAt s.arg.core).running with
  | none => .next s
  | some x => .next (s.at_ s.arg.core x).issue

/-! ## The end of an issue cycle (08 R195, 06 R148, 17 R404) -/

/-- The context stops in a wait with SP set, after 4,096 bundles at a suspension point, or because it yielded. -/
def State.endTurn (s : State) : State :=
  match s.ctx.phase with
  | .running =>
    (match s.ctx.wait with
    | some w =>
      if w.stops then
        let f := w.cond.fields
        let s := s.stopWaiting none fun r => { r with wk := f.1, wsig := f.2.1, wcnt := f.2.2.1, wix := f.2.2.2 }
        if !s.ctx.async.isEmpty then
          -- a cause that its own bundle raised: the thread is ready to take it (17 R443)
          ((s.recSt s.curCore s.curCtx .ready).modCtx fun c => { c with phase := .ready, readySince := s.now }).addBusy s.curCore
        else if f.1 = 4 then s.repollLater else s
      else s
    | none => if s.curHeader.getLsbD 2 && decide (4096 ≤ s.ctx.issuedSince) && s.othersReady then s.stopReady else s)
  | .ready => s.modCtx Ctx.flush
  | _ => s

/-- RESULT_WRITEBACK: the results that are due at the end of the issue cycle reach their destinations. -/
def execResultWriteback (s : State) : Res :=
  let s := { s with issued := false, latched := [], ctlOld := [] }
  .next (if s.ctx.phase = .free then s else (s.modCtx Ctx.advance).endTurn)

/-! ## Interlocked results (08 R197, R211; 02 R51; 15 R442) -/

/-- A load whose data is poisoned on an ET = 0 page: a deferred trap; its destination is not written. -/
def State.deferLoad (s : State) (c : Fin 192) (x : Fin 4) (r : LongResult) : State :=
  ((s.poisonReport c x).modCtxAt c x fun k =>
    if k.deferred.isSome then { k with deferredRest := k.deferredRest ++ [r] } else { k with deferred := some r }).raiseAt c x
      cPoison r.va

/-- INTERLOCK_ARRIVAL: the data of result `id` of a context arrives. -/
def execInterlockArrival (s : State) : Res :=
  let a := s.arg
  match (s.ctxAt a.core a.ctx).long.find? fun r => r.id == a.id with
  | none => .next s
  | some r =>
    -- while the core's clock stands nothing of it changes; TRIP_RECOVERY and D0_RETURN announce the arrival again (01 R33)
    if s.frozen a.core then .next s
    else
    match r.data with
    | none => .next s
    | some d =>
      let t := s.modCtxAt a.core a.ctx fun c => { c with long := c.long.filter fun q => q.id != a.id }
      let t := if r.poison && r.load then t.deferLoad a.core a.ctx r
        else
          let t := t.modCtxAt a.core a.ctx fun c => c.writeResult r.slot r.dest r.ws d (BitVec.allOnes 2048)
          if r.poison then (if inAperture r.va then t else t.poisonReport a.core a.ctx).raiseAt a.core a.ctx cPoison r.va else t
      .next ((t.settleLeaving a.core a.ctx).addBusy a.core)

/-! ## Timers of a context (08 R214, 03 R71) -/

/-- A replayed context is ready again, unless its wait is still pending (17 R443). -/
def State.replayOver (s : State) (c : Fin 192) (x : Fin 4) : State :=
  let q := s.ctxAt c x
  let t := match q.wait, s.recAt c x with
    | some w, some r =>
      let f := w.cond.fields
      s.modRec r.va r.grid fun r => { r with wk := f.1, wsig := f.2.1, wcnt := f.2.2.1, wix := f.2.2.2 }
    | _, _ => s
  let t := if q.wait.isSome && q.async.isEmpty then t else t.recSt c x .ready
  let t := t.modCtxAt c x fun k =>
    { k with replayAt := none, phase := if k.wait.isSome && k.async.isEmpty then .waiting else .ready, readySince := s.now }
  let t := (((t.at_ c x).tryWait).at_ s.curCore s.curCtx).addBusy c
  match s.recAt c x with
  | some r => t.repollRec r.va r.grid
  | none => t

/-- REPLAY_READY: 1,024 cycles have passed since the trap of record `id` of grid `num`, which counts wherever the record is. -/
def execReplayReady (s : State) : Res :=
  match s.recOf s.arg.id s.arg.num with
  | none => .next s
  | some r =>
    match r.onCtx with
    | some a =>
      let p := splitAgent a
      (match (s.ctxAt p.1 p.2).replayAt with
      | some t => .next (if t ≤ s.now then s.replayOver p.1 p.2 else s)
      | none => .next s)
    | none =>
      (match r.side.bind (·.replayAt) with
      | some t =>
        if t ≤ s.now then
          let u := s.modRec r.va r.grid fun r => { r with side := r.side.map fun x => { x with replayAt := none } }
          -- a cause that was raised meanwhile is taken without the condition (17 R443)
          .next (if r.st ≠ .waiting then u
            else if (r.side.map (·.async)).getD [] ≠ [] then u.recWake r.va r.grid
            else if u.recHolds r then u.recReady r.va r.grid
            else u.repollRec r.va r.grid)
        else .next s
      | none => .next s)

/-- CORE_CAPACITY_TIMEOUT: an access to `addr` has stalled for 65,536 cycles at the bundle that was to issue at ICNT `num`: it
traps with MM_CAPACITY (03 R71). -/
def execCoreCapacityTimeout (s : State) : Res :=
  let a := s.arg
  let c := s.ctxAt a.core a.ctx
  if c.phase = .running ∧ c.stall = some .capacity ∧ c.icnt.toNat = a.num then
    .next (((s.at_ a.core a.ctx).takeTrap 20 a.addr).at_ s.curCore s.curCtx)
  else .next s

end Sys2Proof.Machine
end

