-- ==== Sys2Proof/Machine/Image.lean ====
section
/-! DEFINITION. Records as they stand in their arena (06 R141) and team images (06 R163, R168). -/

namespace Sys2Proof.Machine

/-! ## Records in memory (06 R141, R142) -/

def RecSt.code : RecSt → Nat
  | .free => 0
  | .ready => 1
  | .waiting => 2
  | .running => 3
  | .parked => 4
  | .halted => 5

def RecSt.ofCode : Nat → Option RecSt
  | 0 => some .free
  | 1 => some .ready
  | 2 => some .waiting
  | 3 => some .running
  | 4 => some .parked
  | 5 => some .halted
  | _ => none

/-- The eight words of a record. -/
def Rec.words (r : Rec) : List Nat :=
  [resumeWord r.hptr r.seg r.bix, b2n r.fsp * 2 ^ 63 + r.frame % 2 ^ 56,
   r.grid % 256 * 2 ^ 45 + r.thread % 8192 * 2 ^ 32 + r.team % 2 ^ 32,
   r.wsig % 2 ^ 32 * 2 ^ 32 + r.wcnt % 2 ^ 16 * 2 ^ 16 + r.wix % 256 * 256 + r.wk % 8,
   r.evl % 2 ^ 16 * 2 ^ 16 + (if r.hallFree then 0 else r.core % 256) * 256 + r.st.code * 16 + b2n r.hallFree * 4 + r.pri % 4,
   r.arg % 2 ^ 64, r.sw % 2 ^ 64, r.link % 2 ^ 56 / 64 * 64]

def Rec.bytes (r : Rec) : List Byte := r.words.flatMap (bytesOfNat 8)

/-- A record with a reserved bit set, or with a reserved code, is not run (06 R143). -/
def recBad (bs : List Byte) : Bool :=
  let w (i : Nat) : Nat := fieldAt bs (8 * i) 8
  decide (bitsN (w 0) 39 25 ≠ 0) || decide (bitsN (w 1) 56 7 ≠ 0) || decide (bitsN (w 2) 53 11 ≠ 0) || decide (bitsN (w 3) 3 5 ≠ 0) ||
    decide (bitsN (w 3) 0 3 = 7) || decide (bitsN (w 4) 32 32 ≠ 0) || bitN (w 4) 3 || (RecSt.ofCode (bitsN (w 4) 4 4)).isNone ||
    decide (bitsN (w 7) 56 8 ≠ 0) || decide (bitsN (w 7) 0 6 ≠ 0)

/-- A record read back from its 64 bytes. What no field of it says is found from them: a thread that has run and lies on no
context keeps its registers at FRAME or in its team's image. -/
def Rec.ofBytes (va grid : Nat) (bs : List Byte) : Rec :=
  let w (i : Nat) : Nat := fieldAt bs (8 * i) 8
  let base := Rec.fresh va grid (bitsN (w 2) 0 32) (bitsN (w 2) 32 13) (bitsN (w 4) 8 8)
  let frame := bitsN (w 1) 0 56
  { base with
    hptr := bitsN (w 0) 28 11, seg := bitsN (w 0) 12 16, bix := bitsN (w 0) 0 12, fsp := bitN (w 1) 63, frame := frame
    wsig := bitsN (w 3) 32 32, wcnt := bitsN (w 3) 16 16, wix := bitsN (w 3) 8 8, wk := bitsN (w 3) 0 3
    evl := bitsN (w 4) 16 16, st := (RecSt.ofCode (bitsN (w 4) 4 4)).getD .free, hallFree := bitN (w 4) 2, pri := bitsN (w 4) 0 2
    arg := w 5, sw := w 6, link := bitsN (w 7) 0 56, started := frame != 0, saved := frame != 0
    trapped := bitsN (w 4) 4 4 == 4 }

/-- Firmware and the dispatchers write for a device context without U (09 R234). -/
def State.fwPut (s : State) (d va : Nat) (bs : List Byte) : State :=
  match s.vaWrite 0 (s.fwWho d) va bs with
  | .ok r => r.2
  | .error _ => s

def State.fwGet (s : State) (d va n : Nat) : Option (List Byte) :=
  match s.vaRead 0 (s.fwWho d) va n with
  | .ok r => some r.1.bytes
  | .error _ => none

/-- Bytes that their agent holds marked poisoned stand in memory as poisoned granules, with valid check symbols (02 R49). -/
def State.fwPoison (s : State) (d va n : Nat) : State :=
  match translateRange s (s.fwWho d) needW va n with
  | .error _ => s
  | .ok segs => segs.foldl (fun s g => s.modMem fun m =>
      (cutAt (granBytes g.place.gran) g.place.dpa g.len).foldl (fun m c => m.setGran g.place.gran c.1 true) m) s

/-- The poisoned pieces of a range: (offset, length). -/
def State.poisonIn (s : State) (d va n : Nat) : List (Nat × Nat) :=
  match translateRange s (s.fwWho d) needR va n with
  | .error _ => []
  | .ok segs => segs.flatMap fun g =>
      ((cutAt (granBytes g.place.gran) g.place.dpa g.len).filter fun c => s.mem.poisoned g.place.gran c.1).map fun c => (g.off + c.2.1, c.2.2)

/-- Copy bytes from one device context's memory to another's; poison goes with them (02 R49). -/
def State.fwMove (s : State) (src va dst to_ n : Nat) : State :=
  match s.fwGet src va n with
  | none => s
  | some bs => (s.poisonIn src va n).foldl (fun s p => s.fwPoison dst (to_ + p.1) p.2) (s.fwPut dst to_ bs)

/-- The arena of a team: its records, zero where none is in use. -/
def State.arenaOut (s : State) (g : Grid) (grid team : Nat) : State :=
  (List.range (g.threads + 64)).foldl (fun s i =>
    let va := arenaVa g team + 64 * i
    s.fwPut g.dctx va (((s.recOf va grid).map Rec.bytes).getD (List.replicate 64 0))) s

/-! ## Side state, entries and tags of a tile (06 R168) -/

def Tile.side (t : Tile) : List Byte :=
  padTo 0x048 ([BitVec.ofNat 8 t.mode.toNat, BitVec.ofNat 8 (b2n t.ov + 2 * b2n t.sat), 0, 0] ++ bytesOf 4 t.kcount ++
      t.slots.toList.flatMap fun x =>
        [BitVec.ofNat 8 x.label.toNat, BitVec.ofNat 8 (b2n x.valid), BitVec.ofNat 8 x.age, BitVec.ofNat 8 x.ur] ++ bytesOfNat 4 x.uc) ++
    List.replicate 56 0 ++ t.rowSum.toList.flatMap (bytesOf 6) ++ t.colSum.toList.flatMap (bytesOf 6)

def Entry.nibble (e : Entry) : Nat := e.tag.toNat % 8 + 8 * b2n e.poison

/-- Bytes of the entries, and of the tags. Entries that are zero are as unlisted ones. -/
def Tile.entryPieces (t : Tile) (base : Nat) : List (Nat × List Byte) := t.entries.map fun e => (base + 16 * e.1, bytesOf 16 e.2.val)

def Tile.tagPieces (t : Tile) (base : Nat) : List (Nat × List Byte) :=
  (t.entries.map fun e => e.1 / 2).dedup.map fun i =>
    (base + i, [BitVec.ofNat 8 ((tget t.entries (2 * i) Entry.zero).nibble + 16 * (tget t.entries (2 * i + 1) Entry.zero).nibble)])

/-- A tile from its side state, entries and tags. -/
def Tile.ofBytes (side : List Byte) (val : Nat → Nat) (nib : Nat → Nat) : Tile :=
  let slot (i : Nat) : LabelSlot :=
    let o := 8 + 8 * i
    { valid := bitN (fieldAt side (o + 1) 1) 0, label := BitVec.ofNat 8 (fieldAt side o 1), age := fieldAt side (o + 2) 1 % 8
      ur := fieldAt side (o + 3) 1, uc := fieldAt side (o + 4) 2 }
  { Tile.reset with
    mode := BitVec.ofNat 2 (fieldAt side 0 1), ov := bitN (fieldAt side 1 1) 0, sat := bitN (fieldAt side 1 1) 1
    kcount := BitVec.ofNat 32 (fieldAt side 4 4)
    slots := Vector.ofFn fun i : Fin 8 => slot i.val
    rowSum := Vector.ofFn fun i : Fin 64 => BitVec.ofNat 48 (fieldAt side (0x80 + 6 * i.val) 6)
    colSum := Vector.ofFn fun i : Fin 256 => BitVec.ofNat 48 (fieldAt side (0x200 + 6 * i.val) 6)
    entries := (List.range 131072).foldl (fun t k =>
      tset t k ⟨BitVec.ofNat 128 (val k), BitVec.ofNat 4 (nib k % 8), bitN (nib k) 3⟩ Entry.zero) [] }

/-! ## The image of a team (06 R168) -/

/-- A job's 64 bytes of progress (log entry 20), with its position in a stream: the layout of this block is the model's. -/
def Job.progress (j : Job) (at_ seq : Nat) : List Byte :=
  let va : Nat := match j.owner with
    | .thread va => va
    | _ => 0
  padTo 64 (bytesOfNat 8 va ++ bytesOfNat 4 j.tag ++ bytesOfNat 4 (min j.oor (2 ^ 32 - 1)) ++ bytesOfNat 8 j.cardVa ++
    bytesOfNat 1 j.wantOp ++ bytesOfNat 1 j.pri ++ bytesOfNat 1 (b2n j.byOther) ++ bytesOfNat 1 (b2n (j.state == .finishing)) ++
    bytesOfNat 8 j.bytes ++ bytesOfNat 8 at_ ++ bytesOfNat 8 seq ++ bytesOfNat 4 (va / 2 ^ 64) ++ bytesOfNat 1 j.status)

/-- The progress of a job: where it is in its stream, if it has one. -/
def State.progressOf (s : State) (j : Job) : List Byte :=
  let x := s.collOf j.id
  j.progress ((x.map (·.at_)).getD 0) ((x.map (·.seq)).getD 0)

/-- Jobs of a team that a pre-emption saves, in their order. -/
def State.teamJobs (s : State) (grid team : Nat) : List Job :=
  s.jobs.filter fun j => j.inFlight && j.grid == grid && j.team == team && (match j.owner with
    | .thread _ => true
    | _ => false)

def claimedTiles (claim : Nat) : List Nat := (List.range 2).filter (bitN claim)

/-- The pieces of an image at offsets, but for the context blocks in use: what is not listed is written as zeros, unused blocks too. The
tag count is the last word of the control context (17 R389; log entry 20). -/
def State.imagePieces (s : State) (g : Grid) (t : Team) (blocks head tail : Nat) : List (Nat × List Byte) :=
  let jobs := s.teamJobs t.grid t.num
  let claim := bitsN g.claim 0 2
  let tiles := claimedTiles claim
  let tile (i : Nat) : Tile := ((t.tiles.find? fun p => p.1 == i).map Prod.snd).getD Tile.reset
  let spadLen := g.spad * 2 ^ 17
  let header := bytesOfNat 4 0x48585449 ++ bytesOfNat 4 t.num ++ bytesOfNat 1 t.grid ++ bytesOfNat 1 g.spad ++ bytesOfNat 1 g.gal ++
    bytesOfNat 1 g.claim ++ bytesOfNat 1 jobs.length ++ bytesOfNat 1 blocks ++ bytesOfNat 1 (t.core.getD 0) ++
    bytesOfNat 1 t.galMap.length ++ bytesOfNat 8 head ++ bytesOfNat 8 tail
  [(0, padTo 0x40 header), (0x40, t.flags.toList.flatMap (bytesOf 2)),
   (0x80, padTo 0x780 (t.galMap.flatMap fun m => bytesOfNat 16 (m.src % 2 ^ 56 + m.off % 2 ^ 23 * 2 ^ 56 + m.len % 2 ^ 24 * 2 ^ 79))),
   (0x800, (tile 0).side), (0x1000, (tile 1).side), (0x1800, List.replicate 0x800 0), (0x4000, List.replicate 0xC000 0),
   (0x10000 + 0x8000 * blocks, List.replicate (0x8000 * (4 - blocks)) 0),
   (0x2000, padTo 0x2000 ((jobs.take 64).flatMap fun j => bytesOf 64 j.card ++ s.progressOf j)),
   (0x3FFC, bytesOfNat 4 t.nextTag.toNat), (0x30000, Memory.read t.spad 0 spadLen)] ++
    (tiles.zipIdx.flatMap fun p => (tile p.1).entryPieces (0x30000 + spadLen + 2 ^ 21 * p.2)) ++
    (tiles.zipIdx.flatMap fun p => (tile p.1).tagPieces (0x30000 + spadLen + 2 ^ 21 * tiles.length + 2 ^ 16 * p.2))

/-- Ready records in the order in which they became ready; each links to the next (06 R163). -/
def State.pendingChain (s : State) (grid team : Nat) : List Rec :=
  sortBy (·.readySince) (s.recs.filter fun r => r.grid == grid && r.team == team && r.st == .ready)

def State.linkChain (s : State) (grid team : Nat) : State :=
  let l := (s.pendingChain grid team).map (·.va)
  let next (va : Nat) : Nat := ((l.dropWhile (· != va)).drop 1).headD 0
  s.mapRecs (fun r => r.grid == grid && r.team == team) fun r => { r with link := if l.contains r.va then next r.va else 0 }

/-! ## Records as the scheduler writes them (06 R141, R149, R163) -/

/-- A ready record on no context stands in a queue. -/
def Rec.queued (r : Rec) : Bool := r.st == .ready && r.onCtx.isNone

/-- The queue that a ready record stands in: its hall's, or the pending chain of its team where the team is not resident. -/
def State.queueKey (s : State) (r : Rec) : Nat × Nat :=
  if ((s.teamOf r.grid r.team).bind (·.core)).isSome then (0, r.hall) else (1 + r.grid, r.team)

/-- The records of a queue, in the order in which they became ready. -/
def State.queueRecs (s : State) (key : Nat × Nat) : List Rec :=
  sortBy (·.readySince) (s.recs.filter fun r => r.queued && s.queueKey r == key)

/-- LINK of a record in its queue. -/
def linkIn (l : List Rec) (r : Rec) : Nat :=
  (((l.dropWhile fun q => !(q.va == r.va && q.grid == r.grid)).drop 1).head?.map (·.va)).getD 0

/-- Head and tail of a pending chain stand in the image of its team (06 R163, R168). -/
def State.chainOut (s : State) (key : Nat × Nat) (l : List Rec) : State :=
  if key.1 = 0 then s
  else s.mirrorImage (key.1 - 1) key.2 16 (bytesOfNat 8 ((l.head?.map (·.va)).getD 0) ++ bytesOfNat 8 ((l.getLast?.map (·.va)).getD 0))

/-- The queue is linked again. -/
def State.relink (s : State) (key : Nat × Nat) : State :=
  let l := s.queueRecs key
  (s.mapRecs (fun r => r.queued && s.queueKey r == key && r.link != linkIn l r) fun r => { r with link := linkIn l r }).chainOut key l

/-- The records written this step, in their order. -/
def State.written (s : State) : List (Nat × Nat) := s.touched.reverse.dedup

/-- The queues that records written this step have joined or left. -/
def State.queuesWritten (s : State) : List (Nat × Nat) :=
  let l := s.written
  let vas := l.map Prod.fst
  ((s.recs.filter fun r => (r.queued && l.contains (r.va, r.grid)) || (r.link != 0 && vas.contains r.link)).map s.queueKey).dedup

/-- Records in no queue have LINK 0. -/
def State.unlink (s : State) : State :=
  let l := s.written
  s.mapRecs (fun r => r.link != 0 && !r.queued && l.contains (r.va, r.grid)) fun r => { r with link := 0 }

/-- The bytes of one record, or of a freed one. -/
def State.recordOut (s : State) (x : Nat × Nat) : State :=
  match s.gridOf x.2 with
  | none => s
  | some g => s.fwPut g.dctx x.1 (((s.recOf x.1 x.2).map Rec.bytes).getD (List.replicate 64 0))

/-- The end of a step: the records that the scheduler has written in it, and the links of their queues, stand in memory. -/
def State.recordsOut (s : State) : State :=
  if s.touched.isEmpty then s
  else
    let keys := s.queuesWritten
    let s := keys.foldl State.relink s.unlink
    s.written.foldl State.recordOut { s with touched := [] }

/-- What a record says is what its 64 bytes say; a record that cannot be read is as the scheduler left it, and none stands for one that
is not run (06 R143). -/
def State.recTaken (s : State) (r : Rec) : Option Rec :=
  match (s.gridOf r.grid).bind fun g => s.fwGet g.dctx r.va 64 with
  | none => some r
  | some bs =>
    if recBad bs then none
    else
      let m := Rec.ofBytes r.va r.grid bs
      some { r with hptr := m.hptr, seg := m.seg, bix := m.bix, fsp := m.fsp, frame := m.frame, evl := m.evl, pri := m.pri, arg := m.arg
                    sw := m.sw }

/-- A tile as its image takes it: the entries that an unreadable word of side state would correct are marked poisoned, and the words are
zero (09 R227; log entry 82). -/
def Tile.settle (t : Tile) : Tile :=
  if t.sideBad.isEmpty then { t with soft := [] }
  else
    let t := (List.range 8).foldl (fun t i => if (t.slot i).valid then t.mapCells i 64 256 fun m n e => { e with poison := e.poison || t.sumsBad m n } else t) t
    let gone (i : Nat) : Bool := t.sideBad.contains i
    { t with
      soft := [], sideBad := []
      rowSum := Vector.ofFn fun i : Fin 64 => if gone i.val then 0 else t.rowSum.get i
      colSum := Vector.ofFn fun i : Fin 256 => if gone (64 + i.val) then 0 else t.colSum.get i
      kcount := if gone 320 then 0 else t.kcount }

/-- A team whose scratchpad and tiles have been read for its image: units that cannot be read are zeros. -/
def Team.settle (t : Team) : Team :=
  { t with
    spad := t.spadBad.foldl (fun m u => Memory.write m (32 * u) (List.replicate 32 0)) t.spad
    spadBad := [], spadSoft := [], tiles := t.tiles.map fun p => (p.1, p.2.settle) }

/-- The image engine reads what a team holds on chip: corrected reads are reported, and an uncorrectable scratchpad read raises POISON
against the first of the team's threads that lives (09 R227; log entry 82). -/
def State.settleTeam (s : State) (grid team : Nat) : State :=
  match s.teamOf grid team with
  | none => s
  | some t =>
    let n := t.spadSoft.length + (t.tiles.map fun p => p.2.soft.length).foldl (· + ·) 0
    let s := (s.modTeam grid team Team.settle).corrected t.die n
    match t.spadBad, s.recs.find? fun r => r.grid == grid && r.team == team && r.st != .free && r.st != .halted with
    | u :: _, some r => s.raiseRec r.va grid cPoison (apertureBase + 32 * u)
    | _, _ => s

/-- The back halves that hold poison (09 R222): they are written poisoned (02 R49). -/
def State.poisonedHalves (s : State) (grid team : Nat) : List (Nat × Nat) :=
  ((List.range 8).map (s.phase grid team)).filterMap fun p => if p.pz then some (p.back.1, p.len) else none

/-- Write an image into the pool, with the arena behind it. Tiles are cleared first, since zero entries are not listed. -/
def State.imageOut (s : State) (grid team blocks : Nat) : State :=
  let s := s.settleTeam grid team
  match s.gridOf grid, (s.linkChain grid team).teamOf grid team with
  | some g, some t =>
    let s := s.linkChain grid team
    let chain := (s.pendingChain grid team).map (·.va)
    let base := imageVa g team
    let tiles := claimedTiles (bitsN g.claim 0 2)
    let s := s.fwPut g.dctx (base + 0x30000 + g.spad * 2 ^ 17) (List.replicate (tiles.length * (2 ^ 21 + 2 ^ 16)) 0)
    let s := (s.imagePieces g t blocks (chain.headD 0) (chain.getLastD 0)).foldl (fun s p => s.fwPut g.dctx (base + p.1) p.2) s
    let s := (s.poisonedHalves grid team).foldl (fun s p =>
      if p.1 + p.2 ≤ g.spad * 2 ^ 17 then s.fwPoison g.dctx (base + 0x30000 + p.1) p.2 else s) s
    s.arenaOut g grid team
  | _, _ => s

/-- VA of context block `k` of a team's image. -/
def imageBlockVa (g : Grid) (team k : Nat) : Nat := imageVa g team + 0x10000 + 0x8000 * k

/-! ## Pre-emption (06 R164) -/

/-- Contexts that run threads of a team, as agent numbers. -/
def State.teamAgents (s : State) (grid team : Nat) : List Nat :=
  sortBy id (s.recs.filterMap fun r => if r.grid == grid && r.team == team then r.onCtx else none)

/-- The context stops issuing at this bundle boundary; nothing of it is flushed. A halt that waits for its results goes on. -/
def State.stopCtx (s : State) (a : Nat) : State :=
  let p := splitAgent a
  if (s.ctxAt p.1 p.2).halting then s
  else
    let s := (((s.leaveWithdraw p.1 p.2).leaveGiveBack p.1 p.2).leaveRelease (dieOf p.1) a true).leaveGrantAll (dieOf p.1)
    let s := if (s.ctxAt p.1 p.2).phase = .running then
        (s.recSt p.1 p.2 .ready).modCtxAt p.1 p.2 fun c => { c with phase := .ready, readySince := s.now }
      else s
    let s := s.modCtxAt p.1 p.2 fun c => { c with stopping := true, reserve := none, rereserve := c.reserveAgain }
    s.modCoreAt p.1 fun k => { k with running := if k.running == some p.2 then none else k.running }

/-- Steps 1 to 5: contexts stop, engines finish their commands, leave is withdrawn. -/
def State.stopTeam (s : State) (grid team : Nat) : State :=
  let s := s.modTeam grid team fun t => { t with stopping := true }
  let s := (s.teamAgents grid team).foldl State.stopCtx s
  (s.teamJobs grid team).foldl State.stopJob s

/-- The job has ended but for the handler that it waits to create (06 R151). -/
def State.jobOwed (s : State) (j : Job) : Bool :=
  j.state == .finishing && (s.teamOf j.grid j.team).any fun t => t.owed.contains (3, j.id)

/-- Nothing of the team is in flight, and no more than four contexts have no frame to go to. -/
def State.teamQuiet (s : State) (grid team : Nat) : Bool :=
  let l := s.teamAgents grid team
  (l.all fun a => let p := splitAgent a
    s.quiet p.1 p.2 && !s.frozen p.1 && !(s.ctxAt p.1 p.2).halting && (s.ctxAt p.1 p.2).leaving.isNone) &&
    ((l.drop 4).all fun a => let p := splitAgent a
      (s.recAt p.1 p.2).any fun r => r.frame != 0 && !s.frameDrains r) &&
    (s.teamJobs grid team).all fun j => j.state == .waiting || s.jobOwed j

/-- The status in which a stopped thread is kept: whatever SP its bundle held, it waits while its wait is pending, but for a cause that it
is ready to take (17 R443); a fetch or an `m.acq` is made again. -/
def Ctx.keptSt (c : Ctx) : RecSt := if c.replayAt.isSome || (c.wait.isSome && c.async.isEmpty) then .waiting else .ready

/-- One context of a stopped team goes to block `k` of the image, or to its frame from the fifth on. A fault is FRAME_FAULT. -/
def State.stowCtx (s : State) (k a : Nat) : State :=
  let p := splitAgent a
  match s.recAt p.1 p.2 with
  | none => s
  | some r =>
    let c := s.ctxAt p.1 p.2
    let w : Except Trouble State := match s.gridOf r.grid with
      | some g =>
        if k < 4 then (s.vaWrite 0 (s.fwWho g.dctx) (imageBlockVa g r.team k) (s.contextBlock p.1 p.2 r c.idleInfo)).map Prod.snd
        else s.frameWrite (dieOf p.1).val r.grid r.team r.fsp r.frame (s.contextBlock p.1 p.2 r c.idleInfo)
      | none => .ok s
    match w with
    | .error _ => (s.modCtxAt p.1 p.2 fun c => { c with cause := 24 }).killThread p.1 p.2
    | .ok s =>
      let s := s.keepContext p.1 p.2 r c.idleInfo
      let s := s.modRec r.va r.grid fun r =>
        { (if r.st = c.keptSt then r else r.enter c.keptSt s.now) with
          imgBlock := if k < 4 then some k else none, wk := if c.wait.isSome then r.wk else 0 }
      s.vacate p.1 p.2

/-- Every context of the team to its block; answers how many blocks of the image are in use. -/
def State.stowTeam (s : State) (grid team : Nat) : Nat × State :=
  let l := s.teamAgents grid team
  (min 4 l.length, l.zipIdx.foldl (fun s p => s.stowCtx p.2 p.1) s)

/-- The tiles that a team holds leave its core with it. -/
def State.stowTiles (s : State) (grid team : Nat) : State :=
  match (s.teamOf grid team).bind (·.core) with
  | none => s
  | some c =>
    if h : c < 192 then
      let core := s.coreAt ⟨c, h⟩
      let mine := core.tiles.toList.zipIdx.filterMap fun p =>
        if p.1.owner == some (grid, team) then some (p.2, { p.1 with owner := none }) else none
      (s.modTeam grid team fun t => { t with tiles := mine }).modCoreAt ⟨c, h⟩ fun k =>
        { k with tiles := k.tiles.map fun (t : Tile) => if t.owner == some (grid, team) then Tile.reset else t }
    else s

/-- SWAP_OUT: a quiet team leaves its core; its image is written and it joins the tail of the FIFO (06 R161, R163). -/
def State.swapOut (s : State) (grid team : Nat) : State :=
  let r := s.stowTeam grid team
  if (r.2.gridOf grid).any (fun g => g.killed.isSome) then r.2
  else
    let s := (r.2.stowTiles grid team).imageOut grid team r.1
    let s := s.modTeam grid team fun t => { t with core := none, stopping := false, gal := [], galBad := [], galSoft := [] }
    { s with fifo := s.fifo ++ [⟨grid, team, 1⟩] }

end Sys2Proof.Machine
end

