-- ==== Sys2Proof/Machine/Next.lean ====
section
/-! DEFINITION. Which event is the next step of the part (log entry 2): events on their way, then timers that are due, then the
bring-up step under way, then what the cores do (06 R148 to R150), then the next timer. -/

namespace Sys2Proof.Machine

/-! ## Records for a core (06 R149) -/

/-- The team of a record is resident and not stopped. -/
def State.teamIn (s : State) (r : Rec) : Option Nat :=
  (s.teamOf r.grid r.team).bind fun t => if t.stopping then none else t.core

/-- A ready record that a context of the core may take: one whose registers lie in a scratchpad that drains cannot be read yet (09
R219). -/
def State.takable (s : State) (c : Fin 192) (r : Rec) : Bool :=
  r.st == .ready && r.onCtx.isNone && !s.dctxStopped r.grid && !(r.saved && r.imgBlock.isNone && s.frameDrains r) &&
    (match s.teamIn r with
    | none => false
    | some k => if r.hallFree then r.hall == c.val / 4 else k == c.val)

/-- Of two keys the smaller pair first. -/
def pairLt (a b : Nat × Nat) : Bool := decide (a.1 < b.1) || (a.1 == b.1 && decide (a.2 < b.2))

def leastBy {α : Type} (key : α → Nat × Nat) (l : List α) : Option α :=
  l.foldl (fun acc x => match acc with
    | none => some x
    | some y => if pairLt (key x) (key y) then some x else some y) none

/-- The record a free context of the core takes: lowest class, then longest ready (06 R149). -/
def State.nextRec (s : State) (c : Fin 192) : Option Rec :=
  leastBy (fun r => (r.pri, r.readySince)) (s.recs.filter (s.takable c))

/-- The core-bound record that waits for the core, of the same order: it is the one that an eviction makes room for (06 R150). -/
def State.nextBound (s : State) (c : Fin 192) : Option Rec :=
  leastBy (fun r => (r.pri, r.readySince)) (s.recs.filter fun r => s.takable c r && !r.hallFree)

def Core.freeCtx (k : Core) : Option (Fin 4) := (List.finRange 4).find? fun x => (k.ctx x).phase == .free

/-! ## Choosing a context (06 R148) -/

/-- A ready context that has been passed over for 65,536 cycles. -/
def State.ctxAged (s : State) (k : Ctx) : Bool := decide (k.readySince + 131072 ≤ s.now)

def State.ctxClass (s : State) (c : Fin 192) (x : Fin 4) : Nat := ((s.recAt c x).map (·.pri)).getD 3

/-- The next ready context: the lowest class, where an aged context counts as class 0, then round robin. Where the turn comes to an aged
context, the aged one that has been ready longest has it (log entry 81). -/
def State.nextCtx (s : State) (c : Fin 192) : Option (Fin 4) :=
  let k := s.coreAt c
  let ready := (List.finRange 4).filter fun x => (k.ctx x).phase == .ready && !(k.ctx x).stopping
  let aged := ready.filter fun x => s.ctxAged (k.ctx x)
  let cls (x : Fin 4) : Nat := if s.ctxAged (k.ctx x) then 0 else s.ctxClass c x
  match leastBy (fun x => (cls x, (x.val + 4 - k.rr % 4) % 4)) ready with
  | none => none
  | some x => if s.ctxAged (k.ctx x) then leastBy (fun x => ((k.ctx x).readySince, x.val)) aged else some x

/-- The context that an eviction takes: waiting, with a frame, the longest (06 R150). It waits for its results first. -/
def State.victim (s : State) (c : Fin 192) : Option (Fin 4) :=
  leastBy (fun x => ((s.ctxAt c x).waitSince, x.val))
    ((List.finRange 4).filter fun x => (s.ctxAt c x).phase == .waiting && (s.ctxAt c x).leaving.isNone && !(s.ctxAt c x).stopping &&
      !(s.ctxAt c x).halting &&
      ((s.recAt c x).any fun r => r.frame != 0))

/-- What a core does next. -/
def State.coreAction (s : State) (c : Fin 192) : Option (Instr × EvArgs) :=
  if s.frozen c then none
  else
    let k := s.coreAt c
    let want := s.nextRec c
    match want, k.freeCtx with
    | some _, some x => some (.contextTakeRecord, { core := c, ctx := x })
    | _, _ =>
      let evict : Bool := (s.nextBound c).isSome &&
        (match s.victim c with
        | some x => s.canPark c x
        | none => false)
      if evict then some (.eviction, { core := c })
      else if k.running.isSome then some (.bundleIssue, { core := c })
      else if (s.nextCtx c).isSome then some (.contextSwitch, { core := c })
      else none

/-- The first core of the rotation with something to do, and those behind it. -/
def State.pickCore (s : State) : List (Fin 192) → Option (Fin 192 × Instr × EvArgs × List (Fin 192))
  | [] => none
  | c :: rest =>
    match s.coreAction c with
    | some e => some (c, e.1, e.2, rest)
    | none => s.pickCore rest

/-! ## Timers -/

/-- The earliest timer, the first of equal ones. -/
def State.firstTimer (s : State) : Option (Nat × Instr × EvArgs) :=
  s.timers.foldl (fun acc t => match acc with
    | none => some t
    | some u => if t.1 < u.1 then some t else some u) none

def State.dropTimer (s : State) (t : Nat × Instr × EvArgs) : State := { s with timers := s.timers.erase t }

/-! ## The input arbiter of a home agent, and requests at the controllers -/

/-- A die's request for a line on its way to the home. -/
def dieMessage (e : Instr) : Bool :=
  match e with
  | .rds => true
  | .rde => true
  | .upg => true
  | .ncrd => true
  | .ncwr => true
  | _ => false

/-- Of the events of a cycle the first one, but of the requests for one line that enter its home's arbiter together that of the lowest
die, then of the lowest hall (03 R67). -/
def arbitrate (e : Instr × EvArgs) (rest : List (Instr × EvArgs)) : (Instr × EvArgs) × List (Instr × EvArgs) :=
  if dieMessage e.1 then
    match leastBy (fun (x : Instr × EvArgs) => (x.2.die.val, x.2.hall.val))
        ((e :: rest).filter fun x => dieMessage x.1 && x.2.addr == e.2.addr) with
    | some x => (x, (e :: rest).erase x)
    | none => (e, rest)
  else (e, rest)

/-- The oldest request that waits at a memory controller, with its event. -/
def MemSys.waitingReq (m : MemSys) : Option (Instr × EvArgs) :=
  (m.stk.toList.findSome? fun k => k.reqs.head?).map fun r =>
    (match r.op with
      | .read => .granuleRead
      | .write _ => .granuleWrite
      | .partialWrite _ _ _ _ => .granulePartialWrite, { addr := r.dpa, gran := r.gran, id := r.id })

/-- The events of the controllers themselves. -/
def controllerEvent (e : Instr) : Bool :=
  match e with
  | .granuleRead => true
  | .granuleWrite => true
  | .granulePartialWrite => true
  | .requestReserving => true
  | .patrolScrub => true
  | _ => false

/-- The next event of the part, but for requests that wait at the controllers. -/
def State.scheduled (s : State) : Instr × EvArgs × State :=
  match s.agenda with
  | e :: rest => let x := arbitrate e rest; (x.1.1, x.1.2, { s with agenda := x.2 })
  | [] =>
    match s.firstTimer.filter (fun t => decide (t.1 ≤ s.now)) with
    | some t => (t.2.1, t.2.2, s.dropTimer t)
    | none =>
      if s.power.bringup != 7 && s.power.failedStep.isNone then (.bringupStepDone, { flag := true }, s)
      else
        match s.pickCore s.busy with
        | some (c, e, a, rest) =>
          (e, a, { s with busy := rest ++ [c], now := if e = .bundleIssue then s.now + 2 else s.now })
        | none =>
          match s.firstTimer with
          | some t => (t.2.1, t.2.2, { s.dropTimer t with now := t.1, busy := [] })
          | none => (.minorFrame, {}, { s with now := s.now + 192, busy := [] })

/-- Take the next event of the part. A request that waits at a controller issues before any event but those of the controllers, so
that whatever reads or writes memory comes behind it (02 R40; log entry 77). -/
def State.nextEvent (s : State) : Instr × EvArgs × State :=
  let s := s.l2Trim
  let x := s.scheduled
  match s.mem.waitingReq with
  | some r => if controllerEvent x.1 then x else (r.1, r.2, s)
  | none => x

end Sys2Proof.Machine
end

