-- ==== Sys2Proof/Machine/Sched.lean ====
section
/-! DEFINITION. The team dispatchers, the choice of contexts and records, eviction, balancing and swapping (06 R145 to R150, R159,
R161 to R163). -/

namespace Sys2Proof.Machine

/-! ## Room (06 R145; 09 R217, R224, R226) -/

def State.teamsOn (s : State) (c : Nat) : List Team := s.teams.filter fun t => t.core == some c

def State.sumTeams (s : State) (l : List Team) (f : Grid → Nat) : Nat :=
  (l.map fun t => ((s.gridOf t.grid).map f).getD 0).foldl (· + ·) 0

/-- A core has room for a team of the grid, under the split in force. -/
def State.roomOn (s : State) (g : Grid) (c : Fin 192) : Bool :=
  let here := s.teamsOn c.val
  let k := s.coreAt c
  decide (s.sumTeams here (·.spad) + g.spad + k.cacheUnits ≤ 16) &&
    ((List.finRange 2).all fun t => !bitN g.claim t.val || (k.tiles.get t).owner.isNone) &&
    decide (s.sumTeams here (·.gal) + g.gal ≤ 8) && decide (here.length < 4)

/-- The core of one die: the fewest teams, then the lower number. -/
def State.coreOfDie (s : State) (g : Grid) (die : Nat) : Option (Fin 192) :=
  leastBy (fun c => ((s.teamsOn c.val).length, c.val)) ((List.finRange 192).filter fun c => c.val / 48 == die && s.roomOn g c)

/-- Team `num` is offered to dies num mod 4 on. -/
def State.coreFor (s : State) (g : Grid) (num : Nat) : Option (Fin 192) :=
  (List.range 4).findSome? fun i => s.coreOfDie g ((num + i) % 4)

/-! ## Placing a team (06 R146, R163, R169) -/

/-- The records of a team that is placed for the first time, in ascending thread number. -/
def State.newRecords (s : State) (g : Grid) (grid num core evl : Nat) : List Rec :=
  (List.range g.threads).map fun i =>
    let base := Rec.fresh (arenaVa g num + 64 * i) grid num i core
    { base with pri := bitsN g.claim 2 2, arg := g.args, evl := evl, readySince := s.now }

/-- A tile of the core is the team's: its saved contents, or zero entries and an empty label map at the first claim (09 R226). -/
def Core.claimTiles (k : Core) (g : Grid) (t : Team) : Core :=
  { k with tiles := Vector.ofFn fun i : Fin 2 =>
      if bitN g.claim i.val then
        { ((t.tiles.find? fun p => p.1 == i.val).map Prod.snd).getD Tile.reset with owner := some (t.grid, t.num) }
      else k.tiles.get i }

/-- Gallery slices are read again from where they came; a source that faults leaves zeros (06 R168). -/
def State.reloadGallery (s : State) (grid num : Nat) : State :=
  match s.teamOf grid num with
  | none => s
  | some t => t.galMap.foldl (fun s m =>
      if inAperture m.src then (s.spadSeen grid num (m.src % 2 ^ 48) m.len).modTeam grid num fun t => t.galWrite m.off (t.spadRead (m.src % 2 ^ 48) m.len).1
      else
        match s.vaRead 0 (s.whoOfGrid grid) m.src m.len with
        | .ok r => r.2.modTeam grid num fun t => t.galWrite m.off r.1.bytes
        | .error _ => s) s

/-- The segments that the records of a team name are loaded into their banks for its grid, unless they stand there sealed (06 R147; 12
R297, R304). -/
def State.loadBanks (s : State) (grid num : Nat) (c : Fin 192) : State :=
  let names := (s.recs.filter fun r => r.grid == grid && r.team == num && !r.hallFree && (r.st == .ready || r.st == .waiting)).map
    fun r => (bankOf r.bix, r.seg)
  (List.finRange 2).foldl (fun s b =>
    match names.find? (fun p => p.1 == b.val), s.gridOf grid with
    | some p, some g =>
      let bank := (s.coreAt c).banks.get b
      if bank.names g.dctx g.img p.2 && bank.isSealed then s else s.queueLoad c b grid p.2 (.grid grid)
    | _, _ => s) s

/-- Rebase a swapped-out team's records and jobs to its new core, in whose hall the jobs are issued again (06 R157, R164). The runs of
its threads go on in their thread's hall (06 R156). -/
def State.rebase (s : State) (grid num core : Nat) : State :=
  let runs (p : Plan) : Bool := p.grid == some grid && (p.owner.bind fun va => s.recOf va grid).any fun r => r.team == num
  let s := { s with plans := s.plans.map fun (p : Plan) => if runs p then { p with hall := some (core / 4) } else p }
  let s := s.mapRecs (fun r => r.grid == grid && r.team == num) fun r =>
    { r with core := if r.hallFree then r.core else core, hall := core / 4 }
  let again (j : Job) : JobState := if j.state == .waiting then .queued else j.state
  { s with
    jobs := s.jobs.map fun (j : Job) => if j.grid == grid && j.team == num && (match j.owner with
        | .thread _ => true
        | _ => false) then { j with core := core, hall := core / 4, state := again j } else j }

/-- When a team that is placed now became resident: one that takes a place freed at the boundary is resident from the boundary, whose
pre-emptions take up to 20 µs (06 R161, R164). -/
def State.residentSince (s : State) (g : Grid) : Nat :=
  let start := g.boundary - g.qnt * 120000
  if s.now ≤ start + 24000 then start else s.now

/-- A team takes its place on a core; one that comes from its image is rebased, the image's core field too (06 R169). -/
def State.placeTeam (s : State) (grid num : Nat) (g : Grid) (c : Fin 192) : State :=
  let s := s.ensureTeam grid num
  match s.teamOf grid num with
  | none => s
  | some t =>
    let s := s.modCoreAt c fun k => k.claimTiles g t
    let s := s.modTeam grid num fun t =>
      { t with core := some c.val, placed := true, stopping := false, since := s.residentSince g, evl := 0, tiles := [] }
    let s := if t.placed then
        (((s.fwPut g.dctx (imageVa g num + 14) (bytesOfNat 1 c.val)).rebase grid num c.val).reloadGallery grid num)
      else s.addRecs (s.newRecords g grid num c.val t.evl)
    let s := s.loadBanks grid num c
    let s := if s.recs.any fun r => r.grid == grid && r.team == num && r.st == .waiting && r.wk == 4 then s.repollHall (hallOf c) else s
    ((s.addBusyHall (c.val / 4)).post .waitSatisfied {}).post .jobDispatch { hall := hallOf c }

/-- Place teams `first` on, up to `n`, until one finds no room; answers the first that is not placed. -/
def State.placeRun (grid : Nat) (g : Grid) : Nat → Nat → State → Nat × State
  | 0, first, s => (first, s)
  | n + 1, first, s =>
    match s.coreFor g first with
    | none => (first, s)
    | some c => State.placeRun grid g n (first + 1) (s.placeTeam grid first g c)

/-- The first entry of the FIFO whose device context is not stopped. -/
def State.fifoHead (s : State) : Option FifoItem := s.fifo.find? fun f => !s.dctxStopped f.grid

/-- Place teams from the head of the FIFO while there is room. -/
def State.placeFifo : Nat → State → State
  | 0, s => s
  | n + 1, s =>
    match s.fifoHead with
    | none => s
    | some f =>
      match s.gridOf f.grid with
      | none => State.placeFifo n { s with fifo := s.fifo.erase f }
      | some g =>
        match s.coreFor g f.first with
        | none => s
        | some c =>
          let rest : List FifoItem := if f.count ≤ 1 then [] else [⟨f.grid, f.first + 1, f.count - 1⟩]
          let s := { s with fifo := s.fifo.takeWhile (· != f) ++ rest ++ (s.fifo.dropWhile (· != f)).drop 1 }
          State.placeFifo n (s.placeTeam f.grid f.first g c)

/-- TEAM_PLACEMENT: the dispatchers place the teams of a newly launched grid (`flag`) from team `id` on, and those that no core
can hold enter the FIFO; or they place teams from the head of the FIFO (06 R145, R161). 192 cores hold at most 768 teams. -/
def execTeamPlacement (s : State) : Res :=
  let grid := s.arg.grid.val
  if s.arg.flag then
    match s.gridOf grid with
    | none => .next s
    | some g =>
      if g.killed.isSome then .next s
      else
        let r := State.placeRun grid g (min 769 (g.teams - s.arg.id)) s.arg.id s
        .next (if r.1 < g.teams then { r.2 with fifo := r.2.fifo ++ [⟨grid, r.1, g.teams - r.1⟩] } else r.2)
  else .next (State.placeFifo 769 s)

/-! ## Contexts (06 R148 to R150) -/

/-- CONTEXT_SWITCH: core `core` runs the next ready context. -/
def execContextSwitch (s : State) : Res :=
  let c := s.arg.core
  if (s.coreAt c).running.isSome then .next s
  else
    match s.nextCtx c with
    | none => .next s
    | some x =>
      let s := s.modCoreAt c fun k =>
        { k.modCtx x (fun k => { k with phase := .running, issuedSince := 0, stall := none }) with running := some x, rr := x.val + 1 }
      .next (s.recSt c x .running)

/-- A context in which a record starts for the first time (06 R146). -/
def Ctx.start (r : Rec) : Ctx :=
  let c := Ctx.reset
  { ((c.setS 1 (BitVec.ofNat 64 r.arg)).setS 2 (BitVec.ofNat 64 r.team)).setS 3 (BitVec.ofNat 64 r.thread) with
    phase := .ready, recVa := r.va, seg := r.seg, bix := r.bix, hp := BitVec.ofNat 11 r.hptr, hm := r.thread == 8191
    evl := BitVec.ofNat 16 r.evl, readySince := r.readySince }

/-- The bytes of the block that keeps a record's registers. -/
def State.savedBlock (s : State) (die : Nat) (r : Rec) : Except Trouble (List Byte) :=
  match r.imgBlock, s.gridOf r.grid with
  | some k, some g => (s.vaRead 0 (s.fwWho g.dctx) (imageBlockVa g r.team k) 0x8000).map fun x => x.1.bytes
  | _, _ => s.frameRead die r.grid r.team r.fsp r.frame 0x8000

/-- A context reloaded from its block, its pending wait too (17 R443). -/
def Ctx.resume (bs : List Byte) (r : Rec) (now : Nat) : Ctx :=
  let c := Ctx.load bs r now
  let sw := fieldAt bs 0 8
  let w : Option PendingWait := if bitN sw 48 && bitsN sw 45 3 == 7 then waitOfWord (BitVec.ofNat 56 (fieldAt bs 0x20 7)) r else none
  { c with wait := w.orElse fun _ => c.wait, readySince := r.readySince }

/-- A thread that ran before comes to a die: what it stored to C = 0 pages on another one is written back, and the die gives up its older
copies of their lines, so that program order goes on across the switch (10 R243, R253; DEDUCED, log entry 85). -/
def State.rejoin (s : State) (die : Nat) : State := ((List.range 4).foldl State.ncFlush s).ncInvalidate die

/-- A record takes its context. The L1 of the core gives up its lines to a thread that ran before, perhaps on another core: they may be
older than what it has written and read (10 R243, R249). -/
def State.occupy (s : State) (c : Fin 192) (x : Fin 4) (r : Rec) (k : Ctx) : State :=
  let s := if r.saved then s.rejoin (dieOf c).val else s
  let s := s.modCoreAt c fun core => { core.modCtx x fun _ => { k with readySince := s.now } with l1 := if r.saved then [] else core.l1 }
  (s.modRec r.va r.grid fun r =>
    { r with onCtx := some (agentOf c x), started := true, saved := false, imgBlock := none, side := none
             wk := if k.wait.isSome then r.wk else 0 }).addBusy c

/-- CONTEXT_TAKE_RECORD: the free context `ctx` of core `core` takes a record; with `flag`, after an eviction, a core-bound one. The entry of a handler closes its agent's region
(10 R242). A record with a reserved bit or code kills its grid (06 R143), and a block that cannot be read stops it as a frame fault. -/
def execContextTakeRecord (s : State) : Res :=
  let c := s.arg.core
  let x := s.arg.ctx
  if (s.ctxAt c x).phase != .free then .next s
  else
    match (if s.arg.flag then s.nextBound c else s.nextRec c).map fun r => (r, s.recTaken r) with
    | none => .next s
    | some (r, none) =>
      let d := ((s.gridOf r.grid).map (·.dctx)).getD 0
      .next ((s.report clsNonFatal 8 (s.fnOf d) (dieOf c).val (agentOf c x) 0).killGrid r.grid 5)
    | some (_, some r) =>
      if !r.saved then
        let s := if r.handler.isSome then s.closeRegion c x else s
        .next (s.occupy c x r (Ctx.start r))
      else
        match s.savedBlock (dieOf c).val r with
        | .ok bs =>
          let t := (s.occupy c x r (Ctx.resume bs r s.now)).at_ c x
          .next ((t.frameSeen r.grid r.team (r.fsp && r.imgBlock.isNone) r.frame 0x8000).at_ s.curCore s.curCtx)
        | .error _ =>
          let s := s.occupy c x r { Ctx.start r with cause := 24 }
          .next (s.killThread c x)

/-- EVICTION: the longest waiting context of core `core` that has a frame gives up its context to the core-bound record that waits
(06 R150). -/
def execEviction (s : State) : Res :=
  let c := s.arg.core
  match s.victim c with
  | none => .next s
  | some x =>
    if !s.canPark c x then .next s
    else
      match s.recAt c x with
      | none => .next s
      | some r =>
        match s.saveContext c x r.fsp r.frame (s.ctxAt c x).idleInfo with
        | .error _ => .next ((s.modCtxAt c x fun k => { k with cause := 24 }).killThread c x)
        | .ok s => .next ((s.vacate c x).postFirst .contextTakeRecord { core := c, ctx := x, flag := true })

/-! ## Balancing (06 R159) -/

/-- Ready hall-free records in the queue of a hall, the most recently readied first. -/
def State.hallQueue (s : State) (hall : Nat) : List Rec :=
  (sortBy (·.readySince) (s.recs.filter fun r =>
    r.hallFree && r.st == .ready && r.onCtx.isNone && r.hall == hall && (s.teamIn r).isSome)).reverse

/-- Where a hall pushes to, and how many records. -/
def pushFrom (depth : Nat → Nat) (th base h : Nat) : Option (Nat × Nat) :=
  let lo := base + min ((h + 1) % 12) ((h + 11) % 12)
  let hi := base + max ((h + 1) % 12) ((h + 11) % 12)
  let me := depth (base + h)
  let ok (n : Nat) : Bool := decide (depth n + th < me)
  let to_ : Option Nat :=
    if ok lo && ok hi then some (if depth hi < depth lo then hi else lo)
    else if ok lo then some lo
    else if ok hi then some hi
    else none
  to_.map fun n => (n, min 16 ((me - depth n) / 2))

/-- BALANCE_EXCHANGE: the twelve halls of die `die` exchange depths; again in 4,096 cycles. -/
def execBalanceExchange (s : State) : Res :=
  let die := s.arg.die
  let s := s.timer 8192 .balanceExchange { die := die }
  if !s.regs.balEn then .next s
  else
    let base := 12 * die.val
    let queues := (List.range 12).map fun h => s.hallQueue (base + h)
    let depth (n : Nat) : Nat := (queues.getD (n - base) []).length
    let moves := (List.range 12).flatMap fun h =>
      match pushFrom depth s.regs.balTh.toNat base h with
      | some (n, k) => ((queues.getD h []).take k).map fun r => (r, n)
      | none => []
    if moves.isEmpty then .next s
    else
      -- a release and an acquire at grid scope for each record
      let s := (s.ncFlush die.val).ncInvalidate die.val
      let s := moves.foldl (fun s m => (s.modRec m.1.va m.1.grid fun r => { r with hall := m.2 }).addBusyHall m.2) s
      .next (s.modDieCores die.val fun k => { k with l1 := k.l1.filter fun x => !x.w })

/-! ## The quantum (06 R161) -/

def State.waitingTeams (s : State) : Nat := (s.fifo.map fun (f : FifoItem) => f.count).foldl (· + ·) 0

/-- Teams of the grid that have been resident for a whole quantum, the longest first. -/
def State.fullTeams (s : State) (grid : Nat) (g : Grid) : List Team :=
  sortBy (·.since) ((sortBy (·.num) s.teams).filter fun t =>
    t.grid == grid && t.core.any (fun c => !s.frozen ⟨c % 192, Nat.mod_lt _ (by decide)⟩) && !t.stopping && decide (t.since + g.qnt * 120000 ≤ s.now))

/-- The swap-out of a team whose pre-emption has begun: once it is quiet its image is written. -/
def State.swapWhenQuiet (s : State) (grid num : Nat) : State :=
  if !((s.teamOf grid num).any (·.stopping)) then s
  else if s.teamQuiet grid num then (s.swapOut grid num).offerRoom
  else
    let s := (s.teamAgents grid num).foldl (fun s a =>
      let p := splitAgent a
      if (s.ctxAt p.1 p.2).halting && s.haltReady p.1 p.2 && !s.frozen p.1 then s.haltNow p.1 p.2 else s) s
    s.timer 192 .quantumBoundary { grid := ⟨grid % 256, Nat.mod_lt _ (by decide)⟩, id := num, flag := true }

/-- QUANTUM_BOUNDARY: the quantum of grid `grid` ends. As many of its teams as wait in the FIFO are pre-empted. With `flag`, the
pre-emption of team `id` is looked at again. -/
def execQuantumBoundary (s : State) : Res :=
  let grid := s.arg.grid.val
  if s.arg.flag then .next (s.swapWhenQuiet grid s.arg.id)
  else
    match s.gridOf grid with
    | none => .next s
    | some g =>
      if s.now < g.boundary then .next s
      else
        let victims := if g.killed.isSome || s.dctxStopped grid then [] else (s.fullTeams grid g).take s.waitingTeams
        let s := (s.modGrid grid fun g => { g with boundary := s.now + g.qnt * 120000 }).timer (g.qnt * 120000) .quantumBoundary
          { grid := s.arg.grid }
        .next ((victims.foldl (fun s t => (s.stopTeam grid t.num).swapWhenQuiet grid t.num) s).offerRoom)

end Sys2Proof.Machine
end

