-- ==== Sys2Proof/Machine/Save.lean ====
section
/-! DEFINITION. Context save, restore and resume (06 R165 to R169). -/

namespace Sys2Proof.Machine

/-! ## The area (06 R165, R167) -/

def State.areaVa (s : State) : Nat := s.save.areaHigh.toNat * 2 ^ 40 + s.save.areaBase.toNat * 2 ^ 16

/-- ST changes; 3 to 6 send the PF's vector 0. -/
def State.setSaveSt (s : State) (st : Nat) : State :=
  let s := { s with save := { s.save with st := st } }
  if 3 ≤ st then s.msix 0 0 else s

/-- Live grids of a device context, in entry order. -/
def State.gridsOf (s : State) (d : Nat) : List (Nat × Grid) := s.grids.filter fun p => p.2.dctx == d && p.2.killed.isNone

/-- Teams whose images a save writes: the index of their grid in the area, and the team. -/
def State.savedTeams (s : State) (d : Nat) : List (Nat × Team) :=
  (s.gridsOf d).zipIdx.flatMap fun p => (sortBy (·.num) (s.teams.filter fun t => t.grid == p.1.1)).map fun t => (p.2, t)

/-- Waiting teams in FIFO order: index of the grid and team number. -/
def State.savedFifo (s : State) (d : Nat) : List (Nat × Nat) :=
  s.fifo.flatMap fun f =>
    match (s.gridsOf d).zipIdx.find? fun p => p.1.1 == f.grid with
    | some p => (List.range f.count).map fun i => (p.2, f.first + i)
    | none => []

structure Area where
  fifoOff : Nat
  imgOff : Nat
  offs : List Nat
  total : Nat
  deriving DecidableEq, Repr

def gridImage (g : Grid) : Nat := imageBytes g.spad g.claim

/-- Where everything of a save lies. -/
def State.areaOf (s : State) (d : Nat) : Area :=
  let teams := s.savedTeams d
  let fifoOff := roundUp (0x20000 + 16 * teams.length) 65536
  let imgOff := roundUp (fifoOff + 16 * (s.savedFifo d).length) 65536
  let sizes := teams.map fun p => roundUp (((s.gridOf p.2.grid).map gridImage).getD 0) 65536
  let offs := sizes.foldl (fun (acc : List Nat × Nat) n => (acc.1 ++ [acc.2], acc.2 + n)) ([], imgOff)
  ⟨fifoOff, imgOff, offs.1, offs.2⟩

/-- A grid record: the packet, then its queue, its slot, the teams halted, the image size, and where its reservation lies. The places
within bytes 95:64 are the model's (log entry 20). -/
def gridRecord (g : Grid) : List Byte :=
  padTo 256 (bytesOf 64 g.pkt ++ bytesOfNat 2 g.q ++ bytesOfNat 2 g.slot ++ bytesOfNat 4 g.haltedTeams ++ bytesOfNat 8 (gridImage g) ++
    bytesOfNat 8 g.pool)

/-- What a save writes, but for the images. -/
def State.areaPieces (s : State) (d : Nat) (a : Area) : List (Nat × List Byte) :=
  let grids := s.gridsOf d
  let teams := s.savedTeams d
  let fifo := s.savedFifo d
  let header := bytesOfNat 4 0x48585341 ++ bytesOfNat 4 1 ++ bytesOfNat 1 d ++ bytesOfNat 1 4 ++ bytesOfNat 2 grids.length ++
    bytesOfNat 4 teams.length ++ bytesOfNat 8 a.total ++ bytesOfNat 8 fifo.length ++ bytesOfNat 8 a.fifoOff
  [(0, padTo 0x1000 header), (0x10000, grids.flatMap fun p => gridRecord p.2),
   (0x20000, (teams.zip a.offs).flatMap fun p => bytesOfNat 4 p.1.1 ++ bytesOfNat 4 p.1.2.num ++ bytesOfNat 8 p.2),
   (a.fifoOff, fifo.flatMap fun p => bytesOfNat 4 p.1 ++ bytesOfNat 4 p.2 ++ bytesOfNat 8 0)]

/-- Copy the image of a team from the pool into the area, padded to 64 KiB. -/
def State.copyImage (s : State) (adc d : Nat) (g : Grid) (team off : Nat) : State :=
  (cutAt 65536 0 (gridImage g)).foldl (fun s c =>
    s.fwMove d (imageVa g team + c.1) adc (s.areaVa + off + c.1) c.2.2) s

/-! ## Keys of what a save takes off the part -/

/-- The number under which the records, teams, jobs and plans of a saved grid are kept: what no image holds of them (log entry
16) is found again at a restore into the same part. No live grid has such a number. -/
def shadowKey (d i : Nat) : Nat := 256 + 256 * d + i

/-- Everything keyed by one grid number is keyed by another. -/
def State.rekey (s : State) (a b : Nat) : State :=
  { s with
    recs := s.recs.map fun (r : Rec) => if r.grid == a then { r with grid := b } else r
    teams := s.teams.map fun (t : Team) => if t.grid == a then { t with grid := b } else t
    jobs := s.jobs.map fun (j : Job) => if j.grid == a then { j with grid := b } else j
    plans := s.plans.map fun (p : Plan) => if p.grid == some a then { p with grid := some b } else p }

/-- Forget what an earlier save of the device context kept. -/
def State.dropShadows (s : State) (d : Nat) : State :=
  let old (g : Nat) : Bool := decide (shadowKey d 0 ≤ g) && decide (g < shadowKey (d + 1) 0)
  let s := (s.jobs.filter fun j => old j.grid).foldl (fun s j => s.dropColl j.id) s
  { s with
    recs := s.recs.filter fun r => !old r.grid
    teams := s.teams.filter fun t => !old t.grid
    jobs := s.jobs.filter fun j => !old j.grid
    plans := s.plans.map fun (p : Plan) => if p.grid.any old then { p with grid := none } else p }

/-! ## Save (06 R166) -/

def State.residentTeams (s : State) (d : Nat) : List Team :=
  s.teams.filter fun t => t.core.isSome && (s.gridOf t.grid).any fun g => g.dctx == d && g.killed.isNone

/-- The device context stops: no launches, every resident team pre-empted, Landing applied. -/
def State.stopDctx (s : State) (d : Nat) : State :=
  let s := s.modDctx d fun x => { x with stopped := true }
  let s := (s.residentTeams d).foldl (fun s t => s.stopTeam t.grid t.num) s
  s.applyDue [d] fun _ => true

/-- Every context of the device context closes its region, and its dirty C = 0 lines are written back (03 R72, R77). -/
def State.quiesce (s : State) (d : Nat) : State :=
  let agents := (s.residentTeams d).flatMap fun t => s.teamAgents t.grid t.num
  let s := agents.foldl (fun s a => let p := splitAgent a; s.closeRegion p.1 p.2) s
  (List.range 4).foldl (fun s die => s.ncFlush die) s

/-- Phase 2. -/
def State.savePhase2 (s : State) (adc d : Nat) : State :=
  let s := (s.residentTeams d).foldl (fun s t =>
    let r := s.stowTeam t.grid t.num
    let s := (r.2.stowTiles t.grid t.num).imageOut t.grid t.num r.1
    s.modTeam t.grid t.num fun t => { t with core := none, stopping := false, gal := [], galBad := [], galSoft := [] }) s
  let s := (s.teams.filter fun t => !t.placed && (s.gridOf t.grid).any fun g => g.dctx == d).foldl (fun s t =>
    s.imageOut t.grid t.num 0) s
  let s := s.recordsOut
  let a := s.areaOf d
  let s := (s.areaPieces d a).foldl (fun s p => s.fwPut adc (s.areaVa + p.1) p.2) s
  let s := ((s.savedTeams d).zip a.offs).foldl (fun s p =>
    match s.gridOf p.1.2.grid with
    | some g => s.copyImage adc d g p.1.2.num p.2
    | none => s) s
  let grids := s.gridsOf d
  let s := grids.foldl (fun s p => (s.rekey p.1 (shadowKey d p.1)).modGrid p.1 fun g => g) (s.dropShadows d)
  let gone (g : Nat) : Bool := grids.any fun p => p.1 == g
  let s := { s with
    grids := s.grids.filter fun p => !gone p.1
    fifo := s.fifo.filter fun f => !gone f.grid }
  ((s.modDctx d fun x => { x with saved := true }).setSaveSt 3).offerRoom

/-- Phase 1: the size, and a translation of every page of the area. -/
def State.savePhase1 (s : State) (adc d : Nat) : State :=
  let need := ceilDiv (s.areaOf d).total 65536
  let s := { s with save := { s.save with need := BitVec.ofNat 24 need } }
  match translateRange s (s.fwWho adc) needW s.areaVa (s.save.areaLen.toNat * 65536) with
  | .error _ => s.setSaveSt 4
  | .ok _ => if s.save.areaLen.toNat < need then s.setSaveSt 5 else (s.setSaveSt 2).savePhase2 adc d

/-- SAVE: of the device context that SAVECTL names. With `flag`, the pre-emption is looked at again. The save under way goes by SAVECTL and
SAVEAREA as they stand at each look, also where they have been rewritten meanwhile (log entry 24). -/
def execSave (s : State) : Res :=
  let d := s.save.dctx.toNat
  if s.arg.flag then
    if s.save.st ≠ 1 then .next s
    else if (s.residentTeams d).all fun t => s.teamQuiet t.grid t.num then .next ((s.quiesce d).savePhase1 s.save.adc.toNat d)
    else
      let s := (s.residentTeams d).foldl (fun s t => (s.teamAgents t.grid t.num).foldl (fun s a =>
        let p := splitAgent a
        if (s.ctxAt p.1 p.2).halting && s.haltReady p.1 p.2 && !s.frozen p.1 then s.haltNow p.1 p.2 else s) s) s
      .next (s.timer 192 .save { flag := true })
  else if s.save.st = 1 ∨ s.save.st = 2 then .next s
  else .next (((s.stopDctx d).setSaveSt 1).post .save { flag := true })

/-! ## Resume (06 R165) -/

/-- RESUME: a stopped device context whose teams are resident goes on; one that has been saved stays stopped until a restore or a
function-level reset (06 R166). -/
def execResume (s : State) : Res :=
  let d := s.save.dctx.toNat
  if s.save.st = 1 ∨ s.save.st = 2 ∨ !(s.dctxOf d).stopped ∨ (s.dctxOf d).saved then .next s
  else
    let teams := s.residentTeams d
    let s := s.modDctx d fun x => { x with stopped := false }
    let s := teams.foldl (fun s t =>
      let s := s.modTeam t.grid t.num fun t => { t with stopping := false }
      let s := (s.teamAgents t.grid t.num).foldl (fun s a =>
        let p := splitAgent a
        (s.modCtxAt p.1 p.2 fun c => { c with stopping := false, readySince := s.now }).addBusy p.1) s
      s.post .jobDispatch { hall := ⟨t.core.getD 0 / 4 % 48, Nat.mod_lt _ (by decide)⟩ }) s
    .next ((s.post .waitSatisfied {}).offerRoom)

/-! ## Restore (06 R169) -/

/-- A job read back from its card and progress. -/
def Job.ofBytes (id d grid team : Nat) (bs : List Byte) : Job where
  id := id
  owner := .thread (fieldAt bs 64 8 + fieldAt bs 116 4 * 2 ^ 64)
  dctx := d
  grid := grid
  team := team
  hall := 0
  core := 0
  tag := fieldAt bs 72 4
  card := blockOf (bs.take 64)
  wantOp := fieldAt bs 88 1
  cardVa := fieldAt bs 80 8
  pri := fieldAt bs 89 1
  state := if fieldAt bs 91 1 = 1 then .finishing else .waiting
  status := fieldAt bs 120 1
  oor := fieldAt bs 76 4
  bytes := fieldAt bs 92 8
  result := none
  byOther := fieldAt bs 90 1 == 1
  grant := none
  awaiting := []

/-- A team read back from its image; `old` is what was kept of it on this part. -/
def Team.ofImage (grid num : Nat) (g : Grid) (old : Option Team) (img : Nat → Nat → Nat) (bytes : Nat → Nat → List Byte) : Team :=
  let base := old.getD (Team.fresh grid num)
  let tiles := claimedTiles (bitsN g.claim 0 2)
  let spadLen := g.spad * 2 ^ 17
  let ent (k : Nat) : Nat := 0x30000 + spadLen + 2 ^ 21 * k
  let tag (k : Nat) : Nat := 0x30000 + spadLen + 2 ^ 21 * tiles.length + 2 ^ 16 * k
  { base with
    grid := grid, num := num, core := none, stopping := false
    flags := Vector.ofFn fun i : Fin 32 => BitVec.ofNat 16 (img (0x40 + 2 * i.val) 2)
    galMap := (List.range (min 16 (img 15 1))).map fun i =>
      let x := img (0x80 + 16 * i) 16
      ⟨bitsN x 0 56, bitsN x 56 23, bitsN x 79 24⟩
    nextTag := if img 0x3FFC 4 = 0 then 1 else BitVec.ofNat 32 (img 0x3FFC 4)
    gal := [], galBad := [], spadBad := [], galSoft := [], spadSoft := []
    spad := Memory.write [] 0 (bytes 0x30000 spadLen)
    tiles := tiles.zipIdx.map fun p =>
      (p.1, Tile.ofBytes (bytes (0x800 + 0x800 * p.1) 0x800) (fun k => img (ent p.2 + 16 * k) 16)
        (fun k => bitsN (img (tag p.2 + k / 2) 1) (4 * (k % 2)) 4)) }

/-- The stream position of a saved job: what this part has kept of it, or what its progress says (log entry 20). -/
def State.restorePosition (s : State) (old : List Job) (j : Job) (bs : List Byte) : State :=
  match old.find? fun k => k.tag == j.tag with
  | some k => s.modColl k.id fun x => { x with job := j.id }
  | none =>
    if fieldAt bs 100 8 = 0 then s
    else s.modFz fun z => { z with collectives := z.collectives ++ [⟨j.id, 0, [], fieldAt bs 100 8, fieldAt bs 108 8⟩] }

/-- What a restored team owes: handlers of jobs go by the jobs' new numbers. -/
def owedAgain (owed : List (Nat × Nat)) (old new : List Job) : List (Nat × Nat) :=
  if old.isEmpty then owed ++ (new.filter fun j => j.state == .finishing).map fun j => (3, j.id)
  else owed.map fun x =>
    if x.1 = 3 then
      (3, (((old.find? fun k => k.id == x.2).bind fun k => new.find? fun j => j.tag == k.tag).map (·.id)).getD x.2)
    else x

/-- A record that waits after a trap with replay is ready when its 1,024 cycles have passed, whatever its grid's entry is now (08
R214). -/
def State.replayAgain (s : State) (r : Rec) : State :=
  match r.side.bind (·.replayAt) with
  | some t => s.timer (t - s.now) .replayReady { id := r.va, num := r.grid }
  | none => s

/-- One team of the area: its image goes to the pool, its records are read from their arena, its jobs are issued again. -/
def State.restoreTeam (s : State) (adc d grid num off old : Nat) : State :=
  match s.gridOf grid with
  | none => s
  | some g =>
    let area := s.areaVa + off
    let bytes (s : State) (o n : Nat) : List Byte := (s.fwGet adc (area + o) n).getD (List.replicate n 0)
    let s' := (cutAt 65536 0 (gridImage g)).foldl (fun s c => s.fwMove adc (area + c.1) d (imageVa g num + c.1) c.2.2) s
    let img (o n : Nat) : Nat := natOfBytes (bytes s o n)
    let recs : List Rec := (List.range (g.threads + 64)).filterMap fun i =>
      let va := arenaVa g num + 64 * i
      match s.fwGet d va 64 with
      | none => none
      | some bs =>
        if recBad bs then none
        else
          let r := Rec.ofBytes va grid bs
          let block := (List.range (min 4 (img 13 1))).find? fun k => img (0x10000 + 0x8000 * k + 8) 8 == va
          let side : Option Side := (s.recOf va old).bind Rec.side
          if r.st == .free then none
          else some { r with
            side := side, imgBlock := block, saved := r.saved || block.isSome, started := r.started || block.isSome
            handler := if g.threads ≤ i then some (i - g.threads) else none }
    let bad := (List.range (g.threads + 64)).any fun i =>
      ((s.fwGet d (arenaVa g num + 64 * i) 64).map recBad).getD false
    let t := Team.ofImage grid num g (s.teamOf old num) img (bytes s)
    let t := { t with placed := !recs.isEmpty, handlers := recs.countP (fun (r : Rec) => r.handler.isSome),
                      halted := recs.countP (fun (r : Rec) => r.st == RecSt.halted) }
    let blocks := (List.range (min 64 (img 12 1))).map fun i => bytes s (0x2000 + 128 * i) 128
    let jobs := blocks.zipIdx.map fun p => Job.ofBytes (s.nextId + p.2) d grid num p.1
    let was := s.jobs.filter fun j => j.grid == old && j.team == num
    let t := { t with owed := owedAgain t.owed was jobs }
    let s := { s' with teams := s'.teams ++ [t], jobs := s'.jobs ++ jobs, nextId := s'.nextId + jobs.length }
    let s := (jobs.zip blocks).foldl (fun s p => s.restorePosition was p.1 p.2) (s.addRecs recs)
    let s := recs.foldl State.replayAgain s
    if bad then (s.report clsNonFatal 8 (s.fnOf d) 0 0 0).killGrid grid 5 else s

/-- The grids of the area, in order; answers the entries they took. -/
def State.restoreGrids (adc d : Nat) : List Nat → State → List Nat × State
  | [], s => ([], s)
  | k :: rest, s =>
    match s.fwGet adc (s.areaVa + 0x10000 + 256 * k) 256, s.freeGrid with
    | some bs, some i =>
      let q := fieldAt bs 64 2
      let g0 := s.packetGrid d q (blockOf (bs.take 64))
      let g := { g0 with
        slot := fieldAt bs 66 2, haltedTeams := fieldAt bs 68 4, pool := fieldAt bs 80 8, poolUnits := poolNeed g0
        plan := if pkType g0.pkt = 6 then some 0 else none, boundary := s.now + g0.qnt * 120000 }
      let s := (s.addGrid i g).timer (g.qnt * 120000) .quantumBoundary { grid := ⟨i % 256, Nat.mod_lt _ (by decide)⟩ }
      let r := State.restoreGrids adc d rest s
      (i :: r.1, r.2)
    | _, _ => let r := State.restoreGrids adc d rest s; (256 :: r.1, r.2)

/-- The key under which the old grid of a restored one was kept: the area's header names the device context saved, and the image header
its table entry. -/
def State.oldKey (s : State) (adc d off : Nat) : Nat := shadowKey d (((s.fwGet adc (s.areaVa + off + 8) 1).map natOfBytes).getD 0)

/-- Everything an area holds is placed (06 R169). -/
def State.restoreAll (s : State) (adc d : Nat) (hd : List Byte) : State :=
  let r := State.restoreGrids adc d (List.range (fieldAt hd 10 2)) s
  let was := fieldAt hd 8 1
  let entry (k : Nat) : Nat := r.1.getD k 256
  let dir := (List.range (fieldAt hd 12 4)).filterMap fun i => (r.2.fwGet adc (r.2.areaVa + 0x20000 + 16 * i) 16).map fun bs =>
    (fieldAt bs 0 1, fieldAt bs 4 4, fieldAt bs 8 8)
  let fifo := (List.range (fieldAt hd 24 8)).filterMap fun i =>
    (r.2.fwGet adc (r.2.areaVa + fieldAt hd 32 8 + 16 * i) 16).map fun bs => (fieldAt bs 0 1, fieldAt bs 4 4)
  let s := dir.foldl (fun s e => s.restoreTeam adc d (entry e.1) e.2.1 e.2.2 (s.oldKey adc was e.2.2)) r.2
  -- plans kept for a grid of the area run on in its new entry
  let s := dir.foldl (fun s e =>
    { s with plans := s.plans.map fun (p : Plan) =>
        if p.grid == some (s.oldKey adc was e.2.2) then { p with grid := some (entry e.1), dctx := d } else p }) s
  let s := { s with
    fifo := s.fifo ++ fifo.map fun (p : Nat × Nat) => (⟨entry p.1, p.2, 1⟩ : FifoItem)
    plans := s.plans.map fun (p : Plan) => if p.dctx == d then { p with replanNext := true } else p }
  let s := (dir.filter fun e => !fifo.contains (e.1, e.2.1)).foldl (fun s e =>
    match s.gridOf (entry e.1) with
    | none => s
    | some g =>
      match s.coreFor g e.2.1 with
      | some c => s.placeTeam (entry e.1) e.2.1 g c
      | none => { s with fifo := s.fifo ++ [(⟨entry e.1, e.2.1, 1⟩ : FifoItem)] }) s
  (s.dropShadows was).offerRoom

/-- RESTORE: into the device context that SAVECTL names. An area whose header cannot be read ends with ST = FAULT (log entry 24). -/
def execRestore (s : State) : Res :=
  let d := s.save.dctx.toNat
  let adc := s.save.adc.toNat
  if s.save.st = 1 ∨ s.save.st = 2 ∨ !(s.dctxOf d).valid ∨ s.grids.any (fun p => p.2.dctx == d) then .next s
  else
    match s.fwGet adc s.areaVa 64 with
    | none => .next (s.setSaveSt 4)
    | some hd =>
      if fieldAt hd 0 4 ≠ 0x48585341 ∨ fieldAt hd 4 4 ≠ 1 ∨ fieldAt hd 9 1 ≠ 4 then .next (s.setSaveSt 6)
      else
        let s := s.restoreAll adc d hd
        .next ((s.modDctx d fun x => { x with stopped := false, saved := false }).setSaveSt 3)

end Sys2Proof.Machine
end

