-- ==== Sys2Proof/Machine/HostPort.lean ====
section
/-! DEFINITION. What the host does to the part through its memory space: register writes, host windows, notify writes, and what
register writes start (05 R109 to R133; 01 R27; 02 R56; 03 R84; 04 R92, R96, R97; 06 R160, R165; 09 R236, R237; 15 R360;
16 R386). -/

namespace Sys2Proof.Machine

/-- Memory space is decoded: bring-up is complete, no fatal event, in D0, and the link is in FLIT mode (01 R23; 04 R85, R88, R91). -/
def State.decodes (s : State) : Bool := s.power.bringup == 7 && !s.power.fatal && !s.power.d3hot && !s.power.linkNoFlit

/-! ## Posted writes that wait behind a full Landing (05 R127) -/

def isPosted (e : Instr) : Bool := e == .hostWindowWrite || e == .nwake || e == .registerWrite

/-- A posted write that stands before this one is held at the port. `id` is the place of a held write, 0 for one that arrives. -/
def State.portHeld (s : State) : Bool :=
  s.timers.any fun t => isPosted t.2.1 && t.2.2.id != 0 && (s.arg.id == 0 || decide (t.2.2.id < s.arg.id))

/-- The write is held: it is looked at again at the next minor frame. -/
def State.holdWrite (s : State) (event : Instr) : State :=
  let x := s.fresh
  let id := if s.arg.id = 0 then x.1 else s.arg.id
  x.2.timer 192 event { s.arg with id := id }

/-- A posted write of the host: discarded where memory space is not decoded, held behind an earlier one, else performed. -/
def State.posted (s : State) (event : Instr) (perform : State → State) : Res :=
  if !s.decodes then .next s else if s.portHeld then .next (s.holdWrite event) else .next (perform s)

/-! ## Host windows (05 R126, R127) -/

/-- The device contexts of a function, in order: V = 1 and FN names it (05 R132). -/
def State.contextsOf (s : State) (fn : Nat) : List Nat :=
  (List.range 256).filter fun d => (s.dctxOf d).valid && (s.dctxOf d).fn.toNat == fn

/-- The one that owns the window aperture of its function. -/
def State.ownsAperture (s : State) (d : Nat) : Bool := (s.contextsOf (s.fnOf d)).head? == some d

def DCtx.win (x : DCtx) (i : Nat) : HWin := getIdx x.wins i HWin.reset

/-- A 1 ms limit in ticks. -/
def landingTicks : Nat := 1200000

/-- Landing entries of a write: one for each 64-byte block. `seq` is the write's place among all. -/
def landingEntries (w : HWin) (off : Nat) (bs : List Byte) (now seq : Nat) : List Landing :=
  (cutAt 64 off bs.length).map fun c =>
    let o := c.1 % 64
    { va := w.base.toNat * 4096 + (c.1 - o), mask := BitVec.ofNat 64 ((2 ^ c.2.2 - 1) * 2 ^ o)
      data := BitVec.ofNat 512 (natOfBytes ((bs.drop c.2.1).take c.2.2) * 2 ^ (8 * o)), at_ := now, seq := seq, due := false
      team := if w.queueKind then none else some (w.grid.toNat, w.team.toNat) }

/-- A posted write, of at most 512 bytes (04 R85), to window `i` of device context `d` at offset `off` of the window. -/
def State.windowWrite (s : State) (event : Instr) (d i off : Nat) (bs : List Byte) : State :=
  let x := s.dctxOf d
  let w := x.win i
  if !s.ownsAperture d || bs.isEmpty || decide (512 < bs.length) || decide (0x20000 < off + bs.length) then s
  else if !w.valid then s.dropWrite d
  else
    let l := landingEntries w off bs s.now s.nextId
    if 256 < x.landing.length + l.length then s.holdWrite event
    else
      (s.fresh.2.modDctx d fun x => { x with landing := x.landing ++ l }).timer landingTicks .landingTimeout { dctx := ⟨d % 256, Nat.mod_lt _ (by decide)⟩ }

/-- HOST_WINDOW_WRITE: `bytes` at offset `addr` of window `win` of device context `dctx`. -/
def execHostWindowWrite (s : State) : Res :=
  s.posted .hostWindowWrite fun s => s.windowWrite .hostWindowWrite s.arg.dctx.val s.arg.win.val s.arg.addr s.arg.bytes

/-- LANDING_TIMEOUT: entries that have waited 1 ms are due at the next minor frame. The limit does not run in D3hot (04 R88). -/
def execLandingTimeout (s : State) : Res :=
  if s.power.d3hot then .next s
  else
    let d := s.arg.dctx.val
    let late (e : Landing) : Bool := !e.due && decide (e.at_ + landingTicks ≤ s.now)
    let n := (s.dctxOf d).landing.countP late
    .next (s.modDctx d fun x =>
      { x with landing := x.landing.map fun (e : Landing) => if late e then { e with due := true } else e
               landingLate := satAdd x.landingLate n })

/-! ## The notify aperture (05 R130, R131) -/

/-- A write to NWAKE is dropped. -/
def State.nwakeDrop (s : State) (d : Nat) : State := s.modDctx d fun x => { x with notifyDrop := satAdd x.notifyDrop 1 }

/-- A write to NWAKE of the page of device context `d`; `aligned` says that it is an aligned write of 8 bytes. -/
def State.nwakeWrite (s : State) (d : Nat) (aligned : Bool) (v : Nat) : State :=
  if !aligned || decide (bitsN v 48 16 ≠ 0) then s.nwakeDrop d
  else
    match s.gridOf (bitsN v 40 8) with
    | none => s.nwakeDrop d
    | some g =>
      if g.killed.isSome || g.dctx != d || decide (g.teams ≤ bitsN v 8 32) then s.nwakeDrop d
      else s.sevTeam (bitsN v 40 8) (bitsN v 8 32) (bitsN v 0 8)

/-- A write of bytes at an offset of BAR2 of function `fn`: page k is that of the function's k-th device context (05 R132). A write
that touches none of the eight bytes of NWAKE is ignored. -/
def State.writeBar2 (s : State) (fn o : Nat) (bs : List Byte) : State :=
  match (s.contextsOf fn)[o / 0x1000]? with
  | none => s
  | some d => if bs.isEmpty || decide (8 ≤ o % 0x1000) then s
    else s.nwakeWrite d (o % 0x1000 == 0 && bs.length == 8) (natOfBytes bs)

/-- NWAKE: `bytes` at offset `addr` of BAR2 of function `fn`. -/
def execNwake (s : State) : Res := s.posted .nwake fun s => s.writeBar2 s.arg.fn.val s.arg.addr s.arg.bytes

/-! ## TLBI (09 R237) -/

/-- TLBI_GO: no translation is kept but those of queued matrix commands, so the invalidation removes the L1 lines, and BUSY stays until
every command that was queued then has performed (log entry 14). With `flag` it looks again. -/
def execTlbiGo (s : State) : Res :=
  let s := if s.arg.flag then s
    else { s with cores := s.cores.map fun (c : Core) =>
      { c with l1 := [], engine := { c.engine with stale := c.engine.queue.length } } }
  .next (if s.cores.toList.any fun (c : Core) => decide (0 < c.engine.stale) then s.timer 2 .tlbiGo { flag := true }
    else { s with regs := { s.regs with tlbiBusy := false } })

/-! ## The page of a device context (05 R109) -/

/-- A write to QCTL of queue `q`: fields, then EN and RST, all before any later write (05 R110). The unprivileged view leaves HWQ alone. -/
def State.writeQctl (s : State) (d q v : Nat) (priv : Bool) : State :=
  let s := s.modQueue d q fun x => { x with
    qv := BitVec.ofNat 4 (bitsN v 8 4)
    logn := if x.en then x.logn else max 6 (min 16 (bitsN v 16 5))
    hwq := if x.en || !priv then x.hwq else BitVec.ofNat 6 (bitsN v 24 6) }
  let s := if bitN v 0 then s.enableQueue d q else s.disableQueue d q
  if bitN v 2 then s.resetQueue d q else s

/-- A write of `v` at offset `o` of the register page of device context `d`. -/
def State.writePage (s : State) (d o v : Nat) (priv : Bool) : State :=
  if o % 8 ≠ 0 then s
  else if o < 0x80 then
    s.modQueue d (o / 8) fun x => if x.en then x else { x with base := BitVec.ofNat 44 (bitsN v 12 44) }
  else if o < 0x100 then s.writeQctl d ((o - 0x80) / 8) v priv
  else if o = 0x180 then
    s.modDctx d fun x => { x with sigBase := BitVec.ofNat 44 (bitsN v 12 44), logs := min 24 (bitsN v 0 5) }
  else if 0x200 ≤ o ∧ o < 0x300 then
    let i := (o - 0x200) / 16
    s.modDctx d fun x =>
      let w := x.win i
      let w := if o % 16 = 0 then
          { w with valid := bitN v 63, queueKind := bitN v 62, base := BitVec.ofNat 44 (bitsN v 12 44) }
        else { w with grid := BitVec.ofNat 8 (bitsN v 32 8), team := BitVec.ofNat 32 (bitsN v 0 32) }
      { x with wins := setIdx x.wins i w }
  else if o = 0x300 then
    s.modDctx d fun x => { x with
      hwDrop := BitVec.ofNat 16 (bitsN v 48 16), landingLate := BitVec.ofNat 16 (bitsN v 32 16)
      notifyDrop := BitVec.ofNat 16 (bitsN v 16 16), pktFail := BitVec.ofNat 16 (bitsN v 0 16) }
  else if o = 0x380 ∧ priv then
    s.modDctx d fun x => { x with
      valid := bitN v 63, pasid := BitVec.ofNat 20 (bitsN v 32 20), fn := BitVec.ofNat 4 (bitsN v 0 4) }
  else s

/-! ## Global registers (05 R133) -/

/-- NODE: while NID is unassigned every port is down (04 R96). -/
def State.writeNode (s : State) (v : Nat) : State :=
  let n := bitsN v 0 21
  s.modFz fun f => { f with nid := BitVec.ofNat 21 n, up := if n = unassigned then Vector.replicate 16 false else f.up }

/-- FWPATCH: ADDR, and GO or CANCEL (05 R135). -/
def State.writeFwpatch (s : State) (v : Nat) : State :=
  let s := s.modSec fun q => { q with fwAddr := BitVec.ofNat 37 (bitsN v 3 37) }
  if s.sec.fwStat = 1 then (if bitN v 1 then s.post .fwpatchCancel {} else s)
  else if bitN v 0 then s.post .fwpatchGo {} else s

/-- The governor control of a die: CAP (01 R27). -/
def State.writeCap (s : State) (d : Fin 4) (v : Nat) : State :=
  s.modDie d fun x => { x with cap := BitVec.ofNat 10 (max 200 (min 550 (bitsN v 16 10))) }

/-- The status of a stack (02 R56). -/
def Stack.written (k : Stack) (v : Nat) : Stack :=
  { k with
    ce := BitVec.ofNat 16 (bitsN v 48 16), ue := BitVec.ofNat 16 (bitsN v 32 16)
    spv := k.spv && !bitN v 25, gmm := k.gmm && !bitN v 24, pzw := k.pzw && !bitN v 23 }

def State.writeStack (s : State) (k v : Nat) : State :=
  s.modMem fun m => { m with stk := setIdx m.stk k ((m.stackAt k).written v) }

/-- MCTL and MCNT of a home agent (03 R84). -/
def State.writeMctl (s : State) (k v : Nat) : State :=
  s.modMem fun m => m.modHome k fun h =>
    { h with ring := BitVec.ofNat 25 (bitsN v 15 25), thresh := BitVec.ofNat 12 (bitsN v 1 12), en := bitN v 0 }

def State.writeMcnt (s : State) (k v : Nat) : State :=
  s.modMem fun m => m.modHome k fun h =>
    { h with moves := BitVec.ofNat 16 (bitsN v 48 16), abandon := BitVec.ofNat 16 (bitsN v 32 16)
             migSettle := BitVec.ofNat 16 (bitsN v 16 16), noFrame := BitVec.ofNat 16 (bitsN v 0 16) }

/-- SAVECTL: fields, and what is started; a start is ignored while a save or restore runs (06 R165). -/
def State.writeSavectl (s : State) (v : Nat) : State :=
  let s := { s with save := { s.save with adc := BitVec.ofNat 8 (bitsN v 16 8), dctx := BitVec.ofNat 8 (bitsN v 8 8) } }
  if s.save.st = 1 ∨ s.save.st = 2 then s
  else
    let s := if bitN v 0 then s.post .save {} else s
    let s := if bitN v 1 then s.post .restore {} else s
    if bitN v 2 then s.post .resume {} else s

def State.writeSavearea (s : State) (v : Nat) : State :=
  { s with save := { s.save with
      areaLen := BitVec.ofNat 24 (bitsN v 40 24), areaBase := BitVec.ofNat 24 (bitsN v 16 24), areaHigh := BitVec.ofNat 16 (bitsN v 0 16) } }

/-- TLBI: fields, and GO (09 R236). -/
def State.writeTlbi (s : State) (v : Nat) : State :=
  let r := s.regs
  let go : Bool := bitN v 0 && !r.tlbiBusy
  let s := { s with regs := { r with
      tlbiVa := BitVec.ofNat 44 (bitsN v 12 44), tlbiDctx := BitVec.ofNat 8 (bitsN v 4 8), tlbiAll := bitN v 2
      tlbiBusy := r.tlbiBusy || go } }
  if go then s.post .tlbiGo {} else s

/-- An entry of a routing table (04 R97). -/
def routeEntry (v : Nat) : Bool × BitVec 16 := (bitN v 16, BitVec.ofNat 16 (bitsN v 0 16))

/-- An aligned 8-byte write to a table of 32-bit entries writes two of them. -/
def routeWrite (t : Table (Bool × BitVec 16)) (i v : Nat) : Table (Bool × BitVec 16) :=
  tset (tset t i (routeEntry v) (false, 0)) (i + 1) (routeEntry (v / 2 ^ 32)) (false, 0)

/-- A write of `v` at global offset `o` (05 R133 and the rules that name registers there). -/
def State.writeGlobal (s : State) (o v : Nat) : State :=
  if o % 8 ≠ 0 then s
  else if o = 0x00 then
    (if bitN v 63 then { s with errs := { s.errs with ferr := { s.errs.ferr with v := false } } } else s)
  else if o = 0x08 then s.writeNode v
  else if o = 0x10 then s.writeFwpatch v
  else if o = 0x20 then s.modSec fun q => { q with maxLevel := q.maxLevel &&& (3 - bitsN v 0 2) }
  else if o = 0x40 then s.writeSavectl v
  else if o = 0x48 then s.writeSavearea v
  else if o = 0x60 then { s with regs := { s.regs with balEn := bitN v 8, balTh := BitVec.ofNat 8 (bitsN v 0 8) } }
  else if o = 0x68 then s.writeTlbi v
  else if o = 0x70 then { s with regs := { s.regs with swapth := min 65 (bitsN v 0 7) } }
  else if 0x100 ≤ o ∧ o < 0x120 then s.writeCap ⟨(o - 0x100) / 8 % 4, Nat.mod_lt _ (by decide)⟩ v
  else if 0x200 ≤ o ∧ o < 0x260 then s.writeStack ((o - 0x200) / 8) v
  else if 0x300 ≤ o ∧ o < 0x3C0 then (if o % 16 = 0 then s.writeMctl ((o - 0x300) / 16) v else s.writeMcnt ((o - 0x300) / 16) v)
  else if 0x1000 ≤ o ∧ o < 0x1800 then s.modFz fun f => { f with gtab := routeWrite f.gtab ((o - 0x1000) / 4) v }
  else if 0x4000 ≤ o ∧ o < 0x8000 then s.modFz fun f => { f with mtab := routeWrite f.mtab ((o - 0x4000) / 4) v }
  else if 0xA000 ≤ o ∧ o < 0xB000 then
    s.modDctx ((o - 0xA000) / 16) fun x =>
      if o % 16 = 0 then { x with swBase := BitVec.ofNat 35 (bitsN v 21 35) } else { x with swSize := BitVec.ofNat 32 (bitsN v 0 32) }
  else if 0xC000 ≤ o ∧ o < 0xC800 then s.modDctx ((o - 0xC000) / 8) fun x => { x with ptroot := BitVec.ofNat 29 (bitsN v 11 29) }
  else if 0xD000 ≤ o ∧ o < 0xD800 then
    s.modDctx ((o - 0xD000) / 8) fun x => { x with dtsr := BitVec.ofNat 44 (bitsN v 23 33 * 2 ^ 11) }
  else if 0xE000 ≤ o ∧ o < 0xE800 then s.modDctx ((o - 0xE000) / 8) fun x => { x with dspill := BitVec.ofNat 44 (bitsN v 12 44) }
  else if 0xF000 ≤ o ∧ o < 0xF800 then s.modDctx ((o - 0xF000) / 8) fun x => { x with hintDrop := BitVec.ofNat 48 (bitsN v 0 48) }
  else s

/-! ## Register views (05 R132) -/

/-- A write of 8 bytes at a BAR0 offset of function `fn`. -/
def State.writeBar0 (s : State) (fn o v : Nat) : State :=
  let own (k : Nat) : Option Nat := (s.contextsOf fn)[k]?
  let page (base : Nat) : State := match own ((o - base) / 0x1000) with
    | some d => s.writePage d (o % 0x1000) v false
    | none => s
  let window (base : Nat) : State := match own 0 with
    | some d => s.windowWrite .registerWrite d ((o - base) / 0x20000) ((o - base) % 0x20000) (bytesOfNat 8 v)
    | none => s
  if fn = 0 then
    if o < 0x100000 then s.writeGlobal o v
    else if o < 0x200000 then s.writePage ((o - 0x100000) / 0x1000) (o % 0x1000) v true
    else if 0x2000000 ≤ o ∧ o < 0x2100000 then page 0x2000000
    else if 0x3E00000 ≤ o ∧ o < 0x4000000 then window 0x3E00000
    else s
  else if o < 0x100000 then page 0
  else if 0x200000 ≤ o ∧ o < 0x400000 then window 0x200000
  else s

/-! ## The mailbox's registers, in configuration space (05 R138) -/

/-- The event of a mailbox command. -/
def mailboxEvent (cmd : Nat) : Instr :=
  match cmd with
  | 1 => .attOpen
  | 2 => .attQuote
  | 3 => .attClose
  | 4 => .recBegin
  | 5 => .recPiece
  | 6 => .recEnd
  | _ => .mbcmdReserved

/-- The mailbox is decoded from the end of bring-up step 2 on and while the part is locked, as R138 says of it in particular, though
01 R23 answers configuration requests with a retry until step 6 completes (log entry 80). -/
def State.mailboxUp (s : State) : Bool := decide (3 ≤ s.power.bringup) || s.sec.lock

/-- A write of 32 bits at byte offset `o` of the mailbox. -/
def State.writeMailbox (s : State) (o v : Nat) : State :=
  if o % 4 ≠ 0 || !s.mailboxUp then s
  else if o = 0x00C then
    if s.sec.mbBusy then s
    else
      let s := s.modSec fun q => { q with mbCmd := BitVec.ofNat 32 (v % 1024), mbBusy := decide (v % 256 ≠ 0) }
      if v % 256 = 0 then s else s.post (mailboxEvent (v % 256)) {}
  else if o = 0x014 then s.modSec fun q => { q with mbArg := BitVec.ofNat 32 v }
  else if o = 0x018 then s.modSec fun q => { q with mbLen := BitVec.ofNat 32 v }
  else if 0x100 ≤ o ∧ o < 0x200 then
    s.modSec fun q =>
      let d := (q.mbData ++ List.replicate (256 - q.mbData.length) 0).take 256
      { q with mbData := d.take (o - 0x100) ++ bytesOfNat 4 v ++ d.drop (o - 0x100 + 4) }
  else s

/-- REGISTER_WRITE: `value` is written at BAR0 offset `addr` of function `fn`; with `flag`, its low 32 bits at offset `addr` of the
security mailbox in the PF's configuration space. -/
def execRegisterWrite (s : State) : Res :=
  let a := s.arg
  if a.flag then .next (s.writeMailbox a.addr a.value.toNat)
  else s.posted .registerWrite fun s => s.writeBar0 a.fn.val a.addr a.value.toNat

/-! ## ATS (04 R87) -/

/-- The jobs in progress that use a host page. -/
def State.atsUsers (s : State) (pasid page : Nat) : List Nat :=
  (s.jobs.filter fun j => j.state == .running && (s.dctxOf (s.jobWho j).dctx).pasid.toNat == pasid &&
    (List.range 4).any fun i => match cardRegion j.card i with
      | .host va len => decide (va / 4096 ≤ page) && decide (page * 4096 < va + len)
      | _ => false).map Job.id

/-- No die holds the translation any longer. -/
def State.atsDrop (s : State) (pasid page : Nat) : State :=
  { s with dies := s.dies.map fun (d : Die) => { d with atc := d.atc.filter fun e => !(e.pasid == pasid && e.page == page) } }

/-- Only these jobs go on with the translation that the host granted. -/
def State.atsKeep (s : State) (pasid page : Nat) (users : List Nat) : State :=
  let old := s.atsGrants.find? fun g => g.1 == pasid && g.2.1 == page
  match old with
  | none => s.atsDrop pasid page
  | some g =>
    let s := s.atsDrop pasid page
    { s with dies := s.dies.map fun (d : Die) => { d with atc := atcAdd d.atc ⟨pasid, page, g.2.2.1, g.2.2.2, some users⟩ } }

/-- ATS_INVALIDATION: the host no longer grants page `addr` of PASID `num`. The answer goes out when every job that was using the
translation has finished its accesses through it; until then the part looks again, with `flag`. -/
def execAtsInvalidation (s : State) : Res :=
  let a := s.arg
  let users := if a.flag then
      (s.atsUsers a.num a.addr).filter fun i => s.dies.toList.any fun d => d.atc.any fun e =>
        e.pasid == a.num && e.page == a.addr && e.only.any (·.contains i)
    else s.atsUsers a.num a.addr
  let s := if a.flag then s else s.atsKeep a.num a.addr users
  let s := { s with atsGrants := s.atsGrants.filter fun g => !(g.1 == a.num && g.2.1 == a.addr) }
  if users.isEmpty then
    let s := s.atsDrop a.num a.addr
    .next { s with errs := { s.errs with sent := s.errs.sent ++ [.atsDone a.num a.addr] } }
  else .next (s.timer 192 .atsInvalidation { num := a.num, addr := a.addr, flag := true })

/-- HOST_LINK_TRAINING: a partner without FLIT mode leaves a link on which only configuration space is decoded (04 R85). -/
def execHostLinkTraining (s : State) : Res := .next { s with power := { s.power with linkNoFlit := !s.arg.flag } }

end Sys2Proof.Machine
end

