-- ==== Sys2Proof/Machine/Hash.lean ====
section
/-! DEFINITION. SHA-256 and the length of an LMS signature, which 05 R134 and R139 take from other standards (FIPS 180-4, RFC 8554; log
entry 4). -/

namespace Sys2Proof.Machine

abbrev W32 := BitVec 32

/-- The round constants. -/
def shaK : List W32 :=
  [0x428a2f98, 0x71374491, 0xb5c0fbcf, 0xe9b5dba5, 0x3956c25b, 0x59f111f1, 0x923f82a4, 0xab1c5ed5,
   0xd807aa98, 0x12835b01, 0x243185be, 0x550c7dc3, 0x72be5d74, 0x80deb1fe, 0x9bdc06a7, 0xc19bf174,
   0xe49b69c1, 0xefbe4786, 0x0fc19dc6, 0x240ca1cc, 0x2de92c6f, 0x4a7484aa, 0x5cb0a9dc, 0x76f988da,
   0x983e5152, 0xa831c66d, 0xb00327c8, 0xbf597fc7, 0xc6e00bf3, 0xd5a79147, 0x06ca6351, 0x14292967] ++
  [0x27b70a85, 0x2e1b2138, 0x4d2c6dfc, 0x53380d13, 0x650a7354, 0x766a0abb, 0x81c2c92e, 0x92722c85,
   0xa2bfe8a1, 0xa81a664b, 0xc24b8b70, 0xc76c51a3, 0xd192e819, 0xd6990624, 0xf40e3585, 0x106aa070,
   0x19a4c116, 0x1e376c08, 0x2748774c, 0x34b0bcb5, 0x391c0cb3, 0x4ed8aa4a, 0x5b9cca4f, 0x682e6ff3,
   0x748f82ee, 0x78a5636f, 0x84c87814, 0x8cc70208, 0x90befffa, 0xa4506ceb, 0xbef9a3f7, 0xc67178f2]

/-- The eight working variables. -/
structure ShaState where
  a : W32
  b : W32
  c : W32
  d : W32
  e : W32
  f : W32
  g : W32
  h : W32
  deriving DecidableEq, Repr

def ShaState.first : ShaState :=
  ⟨0x6a09e667, 0xbb67ae85, 0x3c6ef372, 0xa54ff53a, 0x510e527f, 0x9b05688c, 0x1f83d9ab, 0x5be0cd19⟩

def ShaState.add (x y : ShaState) : ShaState :=
  ⟨x.a + y.a, x.b + y.b, x.c + y.c, x.d + y.d, x.e + y.e, x.f + y.f, x.g + y.g, x.h + y.h⟩

/-- One round with round constant and schedule word `kw`. -/
def ShaState.round (x : ShaState) (kw : W32 × W32) : ShaState :=
  let s1 := x.e.rotateRight 6 ^^^ x.e.rotateRight 11 ^^^ x.e.rotateRight 25
  let ch := (x.e &&& x.f) ^^^ (~~~x.e &&& x.g)
  let t1 := x.h + s1 + ch + kw.1 + kw.2
  let s0 := x.a.rotateRight 2 ^^^ x.a.rotateRight 13 ^^^ x.a.rotateRight 22
  let maj := (x.a &&& x.b) ^^^ (x.a &&& x.c) ^^^ (x.b &&& x.c)
  ⟨t1 + (s0 + maj), x.a, x.b, x.c, x.d + t1, x.e, x.f, x.g⟩

/-- The next schedule word behind a window of sixteen, oldest first. -/
def shaWord (w : List W32) : W32 :=
  let x := w.getD 14 0
  let y := w.getD 1 0
  (x.rotateRight 17 ^^^ x.rotateRight 19 ^^^ (x >>> (10 : Nat))) + w.getD 9 0 +
    (y.rotateRight 7 ^^^ y.rotateRight 18 ^^^ (y >>> (3 : Nat))) + w.getD 0 0

/-- The rounds of one block: `w` is the window of sixteen schedule words. -/
def shaRounds : List W32 → List W32 → ShaState → ShaState
  | [], _, x => x
  | k :: ks, w, x => shaRounds ks (w.drop 1 ++ [shaWord w]) (x.round (k, w.headD 0))

/-- A big-endian number. -/
def natBig (bs : List Byte) : Nat := bs.foldl (fun n b => 256 * n + b.toNat) 0

def bytesBig (n x : Nat) : List Byte := (bytesOfNat n x).reverse

/-- One block of 64 bytes. -/
def shaBlock (x : ShaState) (bs : List Byte) : ShaState :=
  let w := (List.range 16).map fun i => BitVec.ofNat 32 (natBig ((bs.drop (4 * i)).take 4))
  x.add (shaRounds shaK w x)

/-- The padded message: a bit 1, zeros, and the length in bits. -/
def shaPad (bs : List Byte) : List Byte :=
  bs ++ [0x80] ++ List.replicate ((119 - bs.length % 64) % 64) 0 ++ bytesBig 8 (8 * bs.length)

/-- The 32 bytes of a digest. -/
def ShaState.digest (x : ShaState) : List Byte := [x.a, x.b, x.c, x.d, x.e, x.f, x.g, x.h].flatMap fun w => bytesBig 4 w.toNat

/-- SHA-256 of a byte string (FIPS 180-4). -/
def sha256 (bs : List Byte) : List Byte :=
  let m := shaPad bs
  ((List.range (m.length / 64)).foldl (fun x i => shaBlock x ((m.drop (64 * i)).take 64)) ShaState.first).digest

/-- A digest as the field that holds it, its first byte lowest. -/
def digestField (bs : List Byte) : BitVec 256 := BitVec.ofNat 256 (natOfBytes bs)

/-- Hash values of an LM-OTS signature of a typecode, beside the randomizer (RFC 8554). -/
def lmotsChains (typecode : Nat) : Option Nat :=
  match typecode with
  | 1 => some 265
  | 2 => some 133
  | 3 => some 67
  | 4 => some 34
  | _ => none

/-- Height of an LMS tree of a typecode (RFC 8554). -/
def lmsHeight (typecode : Nat) : Option Nat :=
  match typecode with
  | 5 => some 5
  | 6 => some 10
  | 7 => some 15
  | 8 => some 20
  | 9 => some 25
  | _ => none

/-- Length of the LMS signature at the head of a byte string, as its typecodes give it; none where they name no parameter set. -/
def lmsSigLen (sig : List Byte) : Option Nat :=
  (lmotsChains (natBig ((sig.drop 4).take 4))).bind fun p =>
    let ots := 8 + 32 * (1 + p)
    (lmsHeight (natBig ((sig.drop ots).take 4))).map fun h => ots + 4 + 32 * h

end Sys2Proof.Machine
end

