-- ==== Sys2Proof/Machine/Registers.lean ====
section
/-! DEFINITION. What the host reads: the register views of BAR0, the notify aperture of BAR2, and the security mailbox in configuration
space (00 R14; 01 R27; 02 R56; 03 R84; 04 R86, R90 to R92, R96, R97; 05 R109, R126 to R133, R138; 06 R160, R165; 09 R236; 15 R360;
16 R386). A read changes nothing. -/

namespace Sys2Proof.Machine

/-- How the part completes a non-posted memory request of the host. -/
inductive HostRead where
  | data (v : Word)
  /-- Unsupported Request (04 R91, 05 R127) -/
  | unsupported
  deriving DecidableEq, Repr

/-- A register word from its fields, each with its lowest bit: what no field names reads zero (00 R14). -/
def fieldsWord (l : List (Nat × Nat)) : Nat := l.foldl (fun acc f => acc + f.2 * 2 ^ f.1) 0

/-! ## The page of a device context (05 R109, R111, R121, R126, R129) -/

def QState.code : QState → Nat
  | .idle => 0
  | .active => 1
  | .aborted => 2
  | .stallFault => 3

/-- QCTL; RST reads 0, and HWQ reads zero in the unprivileged view. -/
def Queue.ctlWord (x : Queue) (priv : Bool) : Nat :=
  fieldsWord [(24, if priv then x.hwq.toNat else 0), (16, x.logn), (8, x.qv.toNat), (0, b2n x.en)]

def Queue.statWord (x : Queue) : Nat := fieldsWord [(32, x.rdix.toNat), (16, x.st.code), (0, x.fstat.toNat)]

def HWin.word0 (w : HWin) : Nat := fieldsWord [(63, b2n w.valid), (62, b2n w.queueKind), (12, w.base.toNat)]
def HWin.word1 (w : HWin) : Nat := fieldsWord [(32, w.grid.toNat), (0, w.team.toNat)]

/-- The word at offset `o` of a device context's page. -/
def DCtx.readPage (x : DCtx) (o : Nat) (priv : Bool) : Nat :=
  if o % 8 ≠ 0 then 0
  else if o < 0x80 then (x.queue (o / 8)).base.toNat * 2 ^ 12
  else if o < 0x100 then (x.queue ((o - 0x80) / 8)).ctlWord priv
  else if o < 0x180 then (x.queue ((o - 0x100) / 8)).statWord
  else if o = 0x180 then fieldsWord [(12, x.sigBase.toNat), (0, x.logs)]
  else if 0x200 ≤ o ∧ o < 0x300 then (if o % 16 = 0 then (x.win ((o - 0x200) / 16)).word0 else (x.win ((o - 0x200) / 16)).word1)
  else if o = 0x300 then
    fieldsWord [(48, x.hwDrop.toNat), (32, x.landingLate.toNat), (16, x.notifyDrop.toNat), (0, x.pktFail.toNat)]
  else if o = 0x380 ∧ priv then fieldsWord [(63, b2n x.valid), (32, x.pasid.toNat), (0, x.fn.toNat)]
  else 0

/-! ## Global registers (05 R133) -/

/-- FERR (04 R92). -/
def Ferr.word (f : Ferr) : Nat :=
  fieldsWord [(63, b2n f.v), (61, f.cls.toNat), (56, f.src.toNat), (54, f.die.toNat), (51, f.step.toNat), (47, f.fn.toNat),
    (37, f.agent.toNat), (0, f.time.toNat)]

/-- The governor control of a die (01 R27): EXC says that LIMIT has fallen within the past 1 ms. -/
def Die.word (d : Die) (now : Nat) : Nat :=
  fieldsWord [(16, d.cap.toNat), (7, d.limit.toNat), (2, b2n d.hot), (1, b2n (d.exc && decide (now < d.excAt + 1200000)))]

/-- The status register of a stack (02 R56). -/
def Stack.word (k : Stack) : Nat :=
  fieldsWord [(48, k.ce.toNat), (32, k.ue.toNat), (26, k.spc.toNat), (25, b2n k.spv), (24, b2n k.gmm), (23, b2n k.pzw)]

def Home.ctlWord (h : Home) : Nat := fieldsWord [(15, h.ring.toNat), (1, h.thresh.toNat), (0, b2n h.en)]
def Home.cntWord (h : Home) : Nat :=
  fieldsWord [(48, h.moves.toNat), (32, h.abandon.toNat), (16, h.migSettle.toNat), (0, h.noFrame.toNat)]

/-- An entry of a routing table (04 R97). -/
def routeWord (e : Bool × BitVec 16) : Nat := fieldsWord [(16, b2n e.1), (0, e.2.toNat)]

/-- Two entries of a table of 32-bit words. -/
def routeRead (t : Table (Bool × BitVec 16)) (i : Nat) : Nat :=
  routeWord (tget t i (false, 0)) + routeWord (tget t (i + 1) (false, 0)) * 2 ^ 32

/-- SAVECTL: what starts something reads 0 (06 R165). -/
def SaveEngine.ctlWord (x : SaveEngine) : Nat := fieldsWord [(16, x.adc.toNat), (8, x.dctx.toNat)]
def SaveEngine.areaWord (x : SaveEngine) : Nat := fieldsWord [(40, x.areaLen.toNat), (16, x.areaBase.toNat), (0, x.areaHigh.toNat)]
def SaveEngine.statWord (x : SaveEngine) : Nat := fieldsWord [(40, x.need.toNat), (0, x.st)]

/-- TLBI: GO reads 0 (09 R236). -/
def Regs.tlbiWord (r : Regs) : Nat :=
  fieldsWord [(12, r.tlbiVa.toNat), (4, r.tlbiDctx.toNat), (2, b2n r.tlbiAll), (1, b2n r.tlbiBusy)]

/-- ALARM (05 R137). -/
def Security.alarmWord (q : Security) : Nat := fieldsWord [(24, q.next.toNat), (2, b2n q.lock), (0, q.maxLevel)]

/-- FWPST (05 R135). -/
def Security.fwpstWord (q : Security) : Nat := fieldsWord [(32, q.fwVer.toNat), (0, q.fwStat)]

/-- Half of an alarm log entry of 16 bytes. -/
def Security.logWord (q : Security) (i : Nat) (high : Bool) : Nat :=
  bitsN (getIdx q.log i 0).toNat (if high then 64 else 0) 64

/-- The word at global offset `o`. -/
def State.readGlobal (s : State) (o : Nat) : Nat :=
  let home (k : Nat) : Home := getIdx s.mem.homes k Home.reset
  if o % 8 ≠ 0 then 0
  else if o = 0x00 then s.errs.ferr.word
  else if o = 0x08 then s.fz.nid.toNat
  else if o = 0x10 then s.sec.fwAddr.toNat * 8
  else if o = 0x18 then s.sec.fwpstWord
  else if o = 0x20 then s.sec.alarmWord
  else if o = 0x40 then s.save.ctlWord
  else if o = 0x48 then s.save.areaWord
  else if o = 0x50 then s.save.statWord
  else if o = 0x60 then fieldsWord [(8, b2n s.regs.balEn), (0, s.regs.balTh.toNat)]
  else if o = 0x68 then s.regs.tlbiWord
  else if o = 0x70 then s.regs.swapth
  else if 0x100 ≤ o ∧ o < 0x120 then (s.dieAt ⟨(o - 0x100) / 8 % 4, Nat.mod_lt _ (by decide)⟩).word s.now
  else if 0x200 ≤ o ∧ o < 0x260 then (s.mem.stackAt ((o - 0x200) / 8)).word
  else if 0x300 ≤ o ∧ o < 0x3C0 then
    (if o % 16 = 0 then (home ((o - 0x300) / 16)).ctlWord else (home ((o - 0x300) / 16)).cntWord)
  else if 0x1000 ≤ o ∧ o < 0x1800 then routeRead s.fz.gtab ((o - 0x1000) / 4)
  else if 0x4000 ≤ o ∧ o < 0x8000 then routeRead s.fz.mtab ((o - 0x4000) / 4)
  else if 0x8000 ≤ o ∧ o < 0x8400 then s.sec.logWord ((o - 0x8000) / 16) (o % 16 == 8)
  else if 0xA000 ≤ o ∧ o < 0xB000 then
    let x := s.dctxOf ((o - 0xA000) / 16)
    if o % 16 = 0 then x.swBase.toNat * 2 ^ 21 else x.swSize.toNat
  else if 0xC000 ≤ o ∧ o < 0xC800 then (s.dctxOf ((o - 0xC000) / 8)).ptroot.toNat * 2 ^ 11
  else if 0xD000 ≤ o ∧ o < 0xD800 then (s.dctxOf ((o - 0xD000) / 8)).dtsr.toNat * 2 ^ 12
  else if 0xE000 ≤ o ∧ o < 0xE800 then (s.dctxOf ((o - 0xE000) / 8)).dspill.toNat * 2 ^ 12
  else if 0xF000 ≤ o ∧ o < 0xF800 then (s.dctxOf ((o - 0xF000) / 8)).hintDrop.toNat
  else 0

/-! ## Views (04 R86; 05 R132) -/

/-- The offset lies in the function's window aperture (05 R126). -/
def inWindows (fn o : Nat) : Bool :=
  if fn = 0 then decide (0x3E00000 ≤ o) && decide (o < 0x4000000) else decide (0x200000 ≤ o) && decide (o < 0x400000)

/-- The word that function `fn` sees at an offset of its BAR0: the PF sees the global registers and every page as privileged, a VF the
unprivileged pages of its own device contexts and the global registers nowhere. -/
def State.viewWord (s : State) (fn o : Nat) : Nat :=
  let own (base : Nat) : Nat := match (s.contextsOf fn)[(o - base) / 0x1000]? with
    | some d => (s.dctxOf d).readPage (o % 0x1000) false
    | none => 0
  if fn = 0 then
    if o < 0x100000 then s.readGlobal o
    else if o < 0x200000 then (s.dctxOf ((o - 0x100000) / 0x1000)).readPage (o % 0x1000) true
    else if 0x2000000 ≤ o ∧ o < 0x2100000 then own 0x2000000
    else 0
  else if o < 0x100000 then own 0
  else 0

/-- A read of 8 bytes at a BAR0 offset of function `fn`: Unsupported Request where memory space is not decoded, and in the window
aperture. -/
def State.readBar0 (s : State) (fn o : Nat) : HostRead :=
  if !s.decodes || inWindows fn o then .unsupported else .data (BitVec.ofNat 64 (s.viewWord fn o))

/-- A read of the notify aperture: NWAKE and every other offset read zero (05 R130). -/
def State.readBar2 (s : State) (_fn _o : Nat) : HostRead := if !s.decodes then .unsupported else .data 0

/-! ## Configuration space: AER, and the security mailbox (04 R90; 05 R138) -/

/-- The Uncorrectable Internal Error Severity bit is read-only and reads 0 (04 R90). -/
def uncInternalSeverity : Bool := false

/-- Extended capability header: the DVSEC capability, version 1; the pointer to a next capability is the device's own (log entry 79). -/
def mailboxHeader : Nat := fieldsWord [(20, Config.nextCapability.toNat), (16, 1), (0, 0x0023)]

/-- DVSEC header 1: Length 0x200, Revision 1, the vendor's ID. -/
def dvsecHeader1 : Nat := fieldsWord [(20, 0x200), (16, 1), (0, Config.vendorId.toNat)]

/-- DVSEC header 2: DVSEC ID 0x0A51. -/
def dvsecHeader2 : Nat := 0x0A51

/-- A read of 32 bits at byte offset `o` of the mailbox, none where it is not decoded. -/
def State.readMailbox (s : State) (o : Nat) : Option (BitVec 32) :=
  let q := s.sec
  if !s.mailboxUp then none
  else
    some (if o % 4 ≠ 0 then 0
      else if o = 0x000 then BitVec.ofNat 32 mailboxHeader
      else if o = 0x004 then BitVec.ofNat 32 dvsecHeader1
      else if o = 0x008 then BitVec.ofNat 32 dvsecHeader2
      else if o = 0x00C then q.mbCmd
      else if o = 0x010 then BitVec.ofNat 32 (fieldsWord [(31, b2n q.mbBusy), (0, q.mbRc.toNat)])
      else if o = 0x014 then q.mbArg
      else if o = 0x018 then q.mbLen
      else if 0x100 ≤ o ∧ o < 0x200 then BitVec.ofNat 32 (fieldAt q.mbData (o - 0x100) 4)
      else 0)

end Sys2Proof.Machine
end

