-- ==== Sys2Proof/Machine/Security.lean ====
section
/-! DEFINITION. Reset and bring-up, hot patches, the security mailbox, attestation and recovery (01 R22 to R24, R34; 05 R134 to
R140). -/

namespace Sys2Proof.Machine

/-! ## RESET (01 R22) -/

/-- What outlives every reset: what the host holds and has received, the non-volatile counter, the lock with the keys it took, and
the model's own counter of free values (05 R137). -/
def State.afterReset (s : State) : State :=
  let z := State.reset
  { z with
    hostMem := s.hostMem, atsGrants := s.atsGrants, freeCounter := s.freeCounter
    errs := { z.errs with sent := s.errs.sent }
    fz := { z.fz with sent := s.fz.sent }
    sec := { z.sec with lock := s.sec.lock, counter := s.sec.counter, keys := !s.sec.lock } }

/-- COLD_RESET: every step from the first. -/
def execColdReset (s : State) : Res := .next s.afterReset

/-- A warm reset: every step but the first. The alarm log keeps its contents, memory keeps its own until step 4, and a patched
firmware is the image's again (01 R22, R23). -/
def State.warm (s : State) : State :=
  let z := s.afterReset
  { z with
    power := { z.power with bringup := 2 }
    mem := { z.mem with bytes := s.mem.bytes, units := s.mem.units }
    sec := { z.sec with
      log := s.sec.log, next := s.sec.next, maxLevel := s.sec.maxLevel
      fwVer := s.sec.imgVer, imgVer := s.sec.imgVer, fwHash := s.sec.fwHash } }

/-- WARM_RESET: PERST# with power held, or a fundamental or hot reset after a fatal event (04 R91). -/
def execWarmReset (s : State) : Res := .next s.warm

/-! ## Bring-up (01 R23, R24) -/

/-- The governor estimates its die's power anew in a microsecond (01 R26). The estimate is a free value: no rule relates the activity
counters to watts (log entry 9). -/
def State.armGovernor (s : State) (d : Fin 4) : State :=
  let x := s.free
  x.2.timer 1200 .governorTick { die := d, num := x.1.toNat % 2 ^ 16, flag := true }

/-- The periodic work of the part starts with the firmware's executive: minor frames, exchanges, governor ticks, periods, sweeps,
patrol scrubs (log entry 2). -/
def State.armAll (s : State) : State :=
  let s := (List.finRange 4).foldl (fun s d =>
    (s.timer 8192 .balanceExchange { die := d }).armGovernor d) s.armFrame
  (List.finRange 12).foldl (fun s k =>
    ((s.timer 131072 .hotTablePeriodEnd { stack := k }).timer 131072 .directorySweep { stack := k, flag := true }).timer
      (16 * scrubTicks) .patrolScrub { addr := k.val * 2 ^ 36, flag := true }) s

/-- A step of bring-up has failed: it goes no further. -/
def State.bringupFails (s : State) (step : Nat) : State := { s with power := { s.power with failedStep := some step } }

/-- The next step starts. -/
def State.bringupNext (s : State) : State := { s with power := { s.power with bringup := s.power.bringup + 1 } }

/-- BRINGUP_STEP_DONE: the step under way ends, well with `flag`. While the part is locked the boot ROM goes no further than step 2
and waits for a recovery image (05 R137). -/
def execBringupStepDone (s : State) : Res :=
  let ok := s.arg.flag
  if s.power.failedStep.isSome then .next s
  else
    match s.power.bringup with
    | 1 => .next (if ok then s.bringupNext else s)
    | 2 =>
      if s.sec.lock then .next (s.bringupFails 2)
      else .next (if ok then s.bringupNext else (s.alarm .firmwareSig).bringupFails 2)
    | 3 => .next (if ok then s.bringupNext else (s.report clsFatal 13 0 0 0 3).bringupFails 3)
    | 4 =>
      .next (if ok then (s.modMem fun m => { m with bytes := [], units := [] }).bringupNext
        else (s.report clsFatal 13 0 0 0 4).bringupFails 4)
    | 5 => .next (if ok then s.bringupNext else (s.report clsFatal 13 0 0 0 5).bringupFails 5)
    | 6 =>
      if ok then
        let split (c : Core) : Core := { c with cacheUnits := 8, drain := none }
        .next ({ s.bringupNext with cores := s.cores.map split }).armAll
      else .next s
    | _ => .next s

/-! ## Alarms that monitors raise (01 R34; 05 R136) -/

/-- SUPPLY_GLITCH: level 2. -/
def execSupplyGlitch (s : State) : Res := .next (s.alarm .supply)

/-- TAMPER_MESH_BROKEN: level 3. -/
def execTamperMeshBroken (s : State) : Res := .next (s.alarm .tamper)

/-! ## Hot patches (05 R134, R135) -/

/-- Bytes of a patch image before its signature. -/
def patchLen (nfn nq codeLen : Nat) : Nat := 64 + roundUp (2 * nq) 8 + 8 * nfn + codeLen

/-- The format of an image (05 R134): header limits, zero bits, and table entries. -/
def patchOk (hd : List Byte) (ents : List Nat) : Bool :=
  fieldAt hd 0 4 == 0x4B465048 && decide (fieldAt hd 4 4 < fieldAt hd 8 4) && decide (1 ≤ fieldAt hd 12 2) &&
    decide (fieldAt hd 12 2 ≤ 1024) && decide (fieldAt hd 14 2 ≤ 64) && fieldAt hd 16 4 % 8 == 0 &&
    decide (fieldAt hd 16 4 ≤ 262144) && fieldAt hd 20 44 == 0 && ents.all fun e => bitsN e 10 6 == 0 && bitsN e 48 16 == 0

/-- Bytes read at a DPA by the firmware under the classes stored there: none where they are poisoned. -/
def State.dpaBytes (s : State) (dpa n : Nat) : Option (List Byte) :=
  if !dpaExists (dpa + n - 1) then none
  else if (cutAt 32 dpa n).any fun c => s.mem.poisoned (s.mem.unit c.1).gc.toNat c.1 then none
  else some (Memory.read s.mem.bytes dpa n)

/-- What a patch image comes to: a status of FWPST, or a patch that waits. -/
def State.patchCheck (s : State) (dpa : Nat) : Except Nat (BitVec 32 × List Nat × List Byte) :=
  match s.dpaBytes dpa 64 with
  | none => .error 5
  | some hd =>
    let nfn := fieldAt hd 12 2
    let nq := fieldAt hd 14 2
    let n := patchLen nfn nq (fieldAt hd 16 4)
    if !patchOk hd [] then .error 5
    else
      match s.dpaBytes dpa n with
      | none => .error 5
      | some bs =>
        let e0 := 64 + roundUp (2 * nq) 8
        if !patchOk hd ((List.range nfn).map fun i => fieldAt bs (e0 + 8 * i) 8) then .error 5
        else
          -- the signature behind the code ends the image: its own typecodes give its length (log entry 4)
          match lmsSigLen (Memory.read s.mem.bytes (dpa + n) 9324) with
          | none => .error 3
          | some sig =>
            match s.dpaBytes dpa (n + sig) with
            | none => .error 5
            | some image =>
              if !Config.lmsVerify 0 image then .error 3
              else if fieldAt hd 4 4 ≠ s.sec.fwVer.toNat then .error 4
              else .ok (BitVec.ofNat 32 (fieldAt hd 8 4), (List.range nq).map (fun i => fieldAt bs (64 + 2 * i) 2), image)

/-- FWPATCH_GO: the image is read, its format and signature are checked, then its base version; then it waits. -/
def execFwpatchGo (s : State) : Res :=
  if s.sec.fwStat = 1 then .next s
  else
    match s.patchCheck (s.sec.fwAddr.toNat * 8) with
    | .ok p => .next (s.modSec fun q => { q with patch := some p, fwStat := 1 })
    | .error code =>
      let s := s.modSec fun q => { q with patch := none, fwStat := code }
      .next (if code = 3 then s.alarm .patchSig else s)

/-- FWPATCH_CANCEL: a waiting patch ends with CANCELLED. -/
def execFwpatchCancel (s : State) : Res :=
  .next (if s.sec.fwStat = 1 then s.modSec fun q => { q with patch := none, fwStat := 6 } else s)

/-- The table entries of an image: index and code offset (05 R134). -/
def patchEnts (image : List Byte) : List (Nat × Nat) :=
  let e0 := 64 + roundUp (2 * fieldAt image 14 2) 8
  (List.range (fieldAt image 12 2)).map fun i => (bitsN (fieldAt image (e0 + 8 * i) 8) 0 10, bitsN (fieldAt image (e0 + 8 * i) 8) 16 32)

/-- The code of an image. -/
def patchCode (image : List Byte) : List Byte :=
  (image.drop (64 + roundUp (2 * fieldAt image 14 2) 8 + 8 * fieldAt image 12 2)).take (fieldAt image 16 4)

/-- PATCH_APPLY: at a minor frame boundary with every listed function inactive, all four dies replace their entries together, and the
image's code stands in patch memory. -/
def execPatchApply (s : State) : Res :=
  match s.sec.patch with
  | some (v, _, image) =>
    if s.sec.fwStat = 1 then
      .next (s.modSec fun q => { q with
        fwVer := v, fwStat := 2, patch := none
        fnTable := (patchEnts image).foldl (fun t e => tset t e.1 (v.toNat, e.2) (0, 0)) q.fnTable
        patchMem := q.patchMem ++ [(v.toNat, patchCode image)]
        pch := digestField (sha256 (bytesOf 32 q.pch ++ sha256 image)) })
    else .next s
  | none => .next s

/-! ## The security mailbox (05 R138) -/

def rcBadCmd : Nat := 1
def rcNoSession : Nat := 2
def rcNoSpace : Nat := 3
def rcExhausted : Nat := 4
def rcLocked : Nat := 5
def rcRange : Nat := 6
def rcSigFail : Nat := 7
def rcAborted : Nat := 8

/-- A command ends with a result. -/
def State.mailDone (s : State) (rc : Nat) : State := s.modSec fun q => { q with mbRc := BitVec.ofNat 8 rc, mbBusy := false }

/-- SES of MBCMD. -/
def Security.ses (q : Security) : Nat := bitsN q.mbCmd.toNat 8 2
def Security.session (q : Security) (i : Nat) : Option Session := getIdx q.sessions i none
def State.setSession (s : State) (i : Nat) (x : Option Session) : State :=
  s.modSec fun q => { q with sessions := setIdx q.sessions i x }

/-- The 256 bytes of MBDATA. -/
def Security.window (q : Security) : List Byte := padTo 256 q.mbData

/-- An attestation command: LOCKED while the part is locked. -/
def State.attest (s : State) (work : State → State) : Res := if s.sec.lock then .next (s.mailDone rcLocked) else .next (work s)

/-- A recovery command: BADCMD while the part is not locked. -/
def State.recover (s : State) (work : State → State) : Res := if s.sec.lock then .next (work s) else .next (s.mailDone rcBadCmd)

/-- ATT_OPEN: the lowest-numbered free session; one that an alarm ended is free. -/
def execAttOpen (s : State) : Res :=
  s.attest fun s =>
    match (List.range 4).find? fun i => ((s.sec.session i).map (·.aborted)).getD true with
    | none => s.mailDone rcNoSpace
    | some i =>
      let nonce : BitVec 256 := BitVec.ofNat 256 (natOfBytes (s.sec.window.take 32))
      ((s.setSession i (some { nonce := nonce, report := none, key := none, aborted := false })).modSec fun q => { q with mbArg := BitVec.ofNat 32 i }).mailDone 0

/-- Signatures of the attestation tree. -/
def signatures : Nat := 1048576

/-- The 256 bytes of a report with signature index `six` (05 R139). -/
def State.report256 (s : State) (nonce : BitVec 256) (six : Nat) : List Byte :=
  let q := s.sec
  padTo 256 (bytesOfNat 4 0x48584154 ++ bytesOfNat 4 1 ++ bytesOf 32 nonce ++ bytesOf 32 Config.attestationKeyHash ++
    bytesOf 32 q.fwHash ++ bytesOf 32 q.pch ++ bytesOf 4 q.fwVer ++ bytesOfNat 1 4 ++ bytesOf 1 Config.partRevision ++
    bytesOfNat 1 (q.maxLevel % 4 + 4 * b2n q.lock) ++ bytesOfNat 1 0 ++ bytesOfNat 8 six ++ bytesOf 8 Config.serialNumber)

/-- Piece `i` of a signed report goes to MBDATA. -/
def State.quotePiece (s : State) (signed : List Byte) : State :=
  let i := s.sec.mbArg.toNat
  (s.modSec fun q => { q with mbData := padTo 256 ((signed.drop (256 * i)).take 256), mbLen := 5332 }).mailDone 0

/-- ATT_QUOTE: the first quote of a session signs its report; the counter advances before the signature is used. A piece index out of range
is refused before a report is made, so that it uses no signature (log entry 61). -/
def execAttQuote (s : State) : Res :=
  s.attest fun s =>
    let i := s.sec.ses
    match s.sec.session i with
    | none => s.mailDone rcNoSession
    | some x =>
      if x.aborted then s.mailDone rcAborted
      else if 21 ≤ s.sec.mbArg.toNat then s.mailDone rcRange
      else
        match x.report with
        | some r => s.quotePiece r
        | none =>
          let six := s.sec.counter
          if signatures ≤ six then s.mailDone rcExhausted
          else
            let s := s.modSec fun q => { q with counter := six + 1 }
            let r := s.report256 x.nonce six
            let signed := r ++ padTo 5076 (Config.hssSign six r)
            let s := (s.setSession i (some { x with report := some signed, key := some (Config.oneTimeKey six) })).quotePiece signed
            if six + 1 = signatures then s.alarm .exhausted else s

/-- ATT_CLOSE: the session's keys are zeroised and it is free. -/
def execAttClose (s : State) : Res :=
  s.attest fun s =>
    match s.sec.session s.sec.ses with
    | none => s.mailDone rcNoSession
    | some x => (s.setSession s.sec.ses none).mailDone (if x.aborted then rcAborted else 0)

/-- REC_BEGIN: the staging buffer is emptied for an image of MBLEN bytes. -/
def execRecBegin (s : State) : Res :=
  s.recover fun s =>
    let n := s.sec.mbLen.toNat
    if n = 0 ∨ 2 ^ 20 < n then s.mailDone rcRange
    else (s.modSec fun q => { q with staging := List.replicate n 0, stagingLen := n }).mailDone 0

/-- REC_PIECE: MBDATA is copied into piece MBARG, as far as the image reaches. -/
def execRecPiece (s : State) : Res :=
  s.recover fun s =>
    let o := 256 * s.sec.mbArg.toNat
    if s.sec.stagingLen ≤ o then s.mailDone rcRange
    else (s.modSec fun q => { q with
      staging := (q.staging.take o ++ q.window ++ q.staging.drop (o + 256)).take q.stagingLen }).mailDone 0

/-- REC_END: a verified image clears the lock, derives the identity keys again and is what a warm reset starts from. -/
def execRecEnd (s : State) : Res :=
  s.recover fun s =>
    if Config.lmsVerify 1 s.sec.staging then
      let image := s.sec.staging
      (s.modSec fun q => { q with
        lock := false, keys := true, imgVer := Config.imageVersion image, fwHash := digestField (sha256 image) }).warm
    else (s.modSec fun q => { q with staging := [], stagingLen := 0 }).mailDone rcSigFail

/-- MBCMD_RESERVED: a reserved command. -/
def execMbcmdReserved (s : State) : Res := .next (s.mailDone rcBadCmd)

end Sys2Proof.Machine
end

