-- ==== Sys2Proof/Machine/Power.lean ====
section
/-! DEFINITION. Power and monitors, D3hot, and function-level reset (01 R17, R21, R31, R33; 04 R88 to R90). -/

namespace Sys2Proof.Machine

/-! ## The governor (01 R26, R27, R31) -/

/-- Quarter watts of the effective cap: CAP, or 3/4 of it while HOT is set. -/
def Die.capQ (d : Die) : Nat := if d.hot then 3 * d.cap.toNat else 4 * d.cap.toNat

/-- LIMIT halves, rounded down, and never falls below 8; a LIMIT that has fallen sets EXC. -/
def Die.halve (d : Die) (now : Nat) : Die :=
  let n := max 8 (d.limit.toNat / 2)
  if n < d.limit.toNat then { d with limit := BitVec.ofNat 9 n, exc := true, excAt := now } else d

/-- What an estimate of `w` watts does to LIMIT. -/
def Die.estimate (d : Die) (w now : Nat) : Die :=
  let d := { d with exc := d.exc && decide (now < d.excAt + msTicks) }
  if 4 * w ≤ d.capQ then { d with limit := BitVec.ofNat 9 (min 384 (d.limit.toNat + 16)), overSince := none }
  else
    let d := { d with overSince := d.overSince.orElse fun _ => some now }
    if 400 * w ≤ 115 * d.capQ then d else d.halve now

/-- GOVERNOR_TICK: die `die` has drawn `num` watts over the past microsecond. An estimate above the cap for 1 ms is an event of its
own. The governor's own tick, with `flag`, comes again every microsecond (01 R26). -/
def execGovernorTick (s : State) : Res :=
  let a := s.arg
  let s := if a.flag then s.armGovernor a.die else s
  let s := s.modDie a.die fun d => d.estimate a.num s.now
  let d := s.dieAt a.die
  let s := if 400 * a.num ≤ 115 * d.capQ && d.overSince.any (fun t => decide (t + msTicks ≤ s.now)) then
      s.post .limitHalveExcursion { die := a.die } else s
  .next (s.leaveGrantAll a.die)

/-- LIMIT_HALVE_EXCURSION: the estimate has stayed above the cap for 1 ms. -/
def execLimitHalveExcursion (s : State) : Res :=
  let t := s.now
  .next (s.modDie s.arg.die fun d => d.halve t)

/-! ## Monitors (01 R21, R32, R33) -/

/-- DROOP_DETECT: the core's next cycles are stretched, or, without `flag`, no longer. No count in cycles changes. -/
def execDroopDetect (s : State) : Res :=
  let on := s.arg.flag
  .next (s.modCoreAt s.arg.core fun k => { k with stretched := on })

/-- THERMAL_HOT: a sensor reads 95 °C or more, or, without `flag`, every sensor reads below 90 °C. -/
def execThermalHot (s : State) : Res :=
  let on := s.arg.flag
  .next (s.modDie s.arg.die fun d => { d with hot := on })

/-- CRITICAL_TRIP: a sensor reads 105 °C: the core clocks of the die stop, alarm level 1 is raised, and the event is reported. -/
def execCriticalTrip (s : State) : Res :=
  let d := s.arg.die
  .next (((s.modDie d fun x => { x with tripped := true, hot := true }).reportPf clsCorrectable 6 d.val).alarm .thermal)

/-- The results of a context that have their data. -/
def State.arrivals (s : State) (p : Fin 192 × Fin 4) : List (Instr × EvArgs) :=
  ((s.ctxAt p.1 p.2).long.filter fun r => r.data.isSome).map fun r => (.interlockArrival, { core := p.1, ctx := p.2, id := r.id })

/-- The clocks of a die's cores run again: they look for work, data that came meanwhile arrives, queued matrix commands perform, and
threads that were about to leave their contexts do (01 R33). -/
def State.wakeDie (s : State) (d : Nat) : State :=
  let cores := (List.finRange 192).filter fun c => c.val / 48 == d
  let here := s.contexts.filter fun p => p.1.val / 48 == d
  let s := { s with agenda := s.agenda ++ here.flatMap s.arrivals }
  let s := cores.foldl (fun s c => (List.range (s.coreAt c).engine.queue.length).foldl (fun s _ => s.post .matrixCommandComplete { core := c }) s) s
  (cores.foldl State.addBusy s).settleAll here

/-- TRIP_RECOVERY: every sensor reads below 90 °C: the frozen contexts go on where they stopped. -/
def execTripRecovery (s : State) : Res :=
  .next ((s.modDie s.arg.die fun x => { x with tripped := false, hot := false }).wakeDie s.arg.die.val)

/-- DIE_LINK_FAILURE: fatal (01 R17; 04 R90). -/
def execDieLinkFailure (s : State) : Res :=
  .next ((s.modDie s.arg.die fun x => { x with linksUp := false }).reportPf clsFatal 10 s.arg.die.val)

/-- DIE_LINK_RETRY: a correctable event (04 R90). -/
def execDieLinkRetry (s : State) : Res := .next (s.reportPf clsCorrectable 4 s.arg.die.val)

/-! ## D3hot (04 R88) -/

/-- Jobs that still have an unanswered message end with LINK_DOWN. -/
def State.unansweredFail (s : State) : State :=
  (s.jobs.filter fun j => !j.awaiting.isEmpty).foldl (fun s j =>
    (s.modFz fun f => { f with kept := f.kept.filter fun k => k.job != some j.id }).jobFabricFails j.id jsLinkDown) s

/-- D3HOT_ENTRY: memory space is no longer decoded, the cores are frozen, engines and firmware stop. Messages may be answered for
1 ms, after which, with `flag`, the jobs still waiting end. -/
def execD3hotEntry (s : State) : Res :=
  if s.arg.flag then .next (if s.power.d3hot then s.unansweredFail else s)
  else if s.power.d3hot || s.power.bringup != 7 then .next s
  else .next ({ s with power := { s.power with d3hot := true, d3At := s.now } }.timer msTicks .d3hotEntry { flag := true })

/-- Landing entries have not aged in D3hot. -/
def State.landingWakes (s : State) (slept : Nat) : State :=
  (List.range 256).foldl (fun s d =>
    let l := (s.dctxOf d).landing
    if l.isEmpty then s
    else
      let later (e : Landing) : Landing := { e with at_ := e.at_ + slept }
      let s := s.modDctx d fun x => { x with landing := x.landing.map later }
      (l.filter fun e => !e.due).foldl (fun s e =>
        s.timer (e.at_ + slept + landingTicks - s.now) .landingTimeout { dctx := ⟨d % 256, Nat.mod_lt _ (by decide)⟩ }) s) s

/-- An engine in the middle of a job: it waits for no message, or gathers them itself. -/
def Job.goesOn (j : Job) : Bool := j.state == .running && (j.awaiting.isEmpty || cardOp j.card == 8)

/-- The engine's next command is on its way already. -/
def State.engineCalled (s : State) (j : Job) : Bool :=
  let mine (e : Instr) (a : EvArgs) : Bool := a.id == j.id && (e == jobEvent j.card || e == .jobDispatch && a.flag)
  s.agenda.any (fun x => mine x.1 x.2) || s.timers.any fun x => mine x.2.1 x.2.2

/-- PMCSR.No_Soft_Reset reads 1 (04 R88). -/
def noSoftReset : Bool := true

/-- The part is in D0 again: the firmware polls, engines go on from the command at which they stopped, the frozen contexts resume. -/
def State.wakeUp (s : State) : State :=
  if !s.power.d3hot then s
  else
    let s := { s with power := { s.power with d3hot := false } }
    let s := (s.landingWakes (s.now - s.power.d3At)).armFrame
    let s := (s.jobs.filter fun j => j.goesOn && !s.engineCalled j).foldl (fun s j => s.post .jobDispatch { id := j.id, flag := true }) s
    let s := (List.finRange 48).foldl (fun s h => s.post .jobDispatch { hall := h }) s
    (List.range 4).foldl (fun s d => (s.draft d).wakeDie d) s

/-- D0_RETURN. -/
def execD0Return (s : State) : Res := .next s.wakeUp

/-! ## Function-level reset (04 R89) -/

/-- Zeros in the banks, the hatch stores and the tiles that the teams of a device context used, and, with `held`, in the cache units of the
near store of a core that held one of them (09 R217). -/
def Core.scrub (k : Core) (d : Nat) (grids : List Nat) (held : Bool) : Core :=
  let mine (b : Nat) : Bool := let x := getIdx k.banks b Bank.reset; x.loaded && x.dctx == d
  { k with
    l1 := if held then [] else k.l1
    bundles := k.bundles.filter fun p => !mine (p.1 / 2048)
    hatch := k.hatch.filter fun p => !mine (p.1 / 1024)
    banks := k.banks.map fun (b : Bank) => if b.dctx == d then { Bank.reset with queue := b.queue, watch := b.watch } else b
    tiles := k.tiles.map fun (t : Tile) => if (match t.owner with
      | some o => grids.contains o.1
      | none => false) then Tile.reset else t }

/-- Jobs and plans of a device context end without a completion. -/
def State.dropWork (s : State) (d : Nat) : State :=
  let mine := s.jobs.filter fun j => j.dctx == d
  let s := mine.foldl (fun s j => (s.jobLeaveDone j).dropColl j.id) s
  { s with
    jobs := s.jobs.filter fun j => j.dctx != d
    plans := s.plans.filter fun p => p.dctx != d
    dies := s.dies.map fun (x : Die) => { x with drafting := x.drafting.filter fun i => s.plans.any fun p => p.id == i && p.dctx != d } }

/-- The reset of one device context. -/
def State.resetContext (s : State) (d : Nat) : State :=
  let grids := (s.grids.filter fun g => g.2.dctx == d).map Prod.fst
  let held (c : Nat) : Bool := s.teams.any fun t => t.core == some c && grids.contains t.grid
  let s := { s with cores := Vector.ofFn fun c => (s.coreAt c).scrub d grids (held c.val) }
  let s := grids.foldl State.dropGrid s
  let s := (s.dropWork d).dropShadows d
  let s := s.modDctx d fun x => { x with queues := Vector.replicate 16 Queue.reset, landing := [], stopped := false, saved := false }
  let s := s.modFz fun f => { f with windows := f.windows.filter fun w => w.2.dctx != d }
  if s.save.dctx.toNat = d ∧ (s.save.st = 1 ∨ s.save.st = 2) then s.setSaveSt 0 else s

/-- Every context of a function. -/
def State.resetFunction (s : State) (fn : Nat) : State :=
  (((List.range 256).filter fun d => (s.dctxOf d).fn.toNat == fn).foldl State.resetContext s).offerRoom

/-- FUNCTION_LEVEL_RESET_VF. -/
def execFunctionLevelResetVf (s : State) : Res := .next (s.resetFunction s.arg.fn.val)

/-- Every register returns to its reset value; no link is retrained and memory keeps its bytes. -/
def State.resetRegisters (s : State) : State :=
  let z := State.reset
  let die (x : Die) : Die := { x with cap := 550, limit := 384, hot := false, exc := false, overSince := none }
  let stack (x : Stack) : Stack := { x with ce := 0, ue := 0, spc := 0, spv := false, gmm := false, pzw := false }
  let home (h : Home) : Home :=
    { h with ring := 0, thresh := 0x400, en := false, moves := 0, abandon := 0, migSettle := 0, noFrame := 0 }
  { s with
    dctxs := z.dctxs, regs := z.regs, save := z.save
    dies := s.dies.map die
    mem := { s.mem with stk := s.mem.stk.map stack, homes := s.mem.homes.map home }
    errs := { z.errs with sent := s.errs.sent }
    fz := { s.fz with nid := 0x1FFFFF, gtab := [], mtab := [], up := Vector.replicate 16 false, windows := [] }
    sec := { s.sec with
      fwAddr := 0, fwStat := 0, patch := none, mbCmd := 0, mbBusy := false, mbRc := 0, mbArg := 0, mbLen := 0, mbData := [] } }

/-- FUNCTION_LEVEL_RESET_PF: the PF, every VF, and every register; PowerState is D0 again. -/
def execFunctionLevelResetPf (s : State) : Res := .next (((List.range 16).foldl State.resetFunction s).resetRegisters).wakeUp

end Sys2Proof.Machine
end

