-- ==== Sys2Proof/Machine/Scalar.lean ====
section
/-! DEFINITION. Scalar arithmetic, constants and control registers (13 R311 to R316). Every result goes to `l.s.0` and, unless
WS = 1, to the destination, at the latency of 08 R198. -/

namespace Sys2Proof.Machine

/-! ## The functions of 13 R312 -/

/-- Bits 127:64 of the signed product. -/
def sMulhVal (a b : Word) : Word := ((a.signExtend 128 * b.signExtend 128).extractLsb' 64 64)

/-- Signed quotient truncated toward zero; division by zero gives all ones, and −2^63 ÷ −1 gives −2^63. -/
def sDivVal (a b : Word) : Word := if b = 0 then BitVec.allOnes 64 else a.sdiv b

/-- Remainder with the sign of the dividend; remainder by zero gives the dividend. -/
def sRemVal (a b : Word) : Word := if b = 0 then a else a.srem b

def sShlVal (a b : Word) : Word := a <<< (b.setWidth 6).toNat
def sShrVal (a b : Word) : Word := a >>> (b.setWidth 6).toNat
def sSarVal (a b : Word) : Word := a.sshiftRight (b.setWidth 6).toNat
def sMinVal (a b : Word) : Word := if a.slt b then a else b
def sMaxVal (a b : Word) : Word := if a.slt b then b else a

/-- A scalar operation on two values (13 R311). -/
def State.scalar2 (s : State) (lat : Nat) (f : Word → Word → Word) (ws : Bool) (d : Opnd) (a b : Word) : Res :=
  .next (s.resultS 0 lat d ws (f a b))

/-- `s.add d, a, b` (13 R312). -/
def execSAddReg (ws : Bool) (d a b : Opnd) (s : State) : Res :=
  s.scalar2 1 (· + ·) ws d (s.ctx.sGet a) (s.ctx.sGet b)

/-- `s.sub d, a, b` (13 R312). -/
def execSSub (ws : Bool) (d a b : Opnd) (s : State) : Res :=
  s.scalar2 1 (· - ·) ws d (s.ctx.sGet a) (s.ctx.sGet b)

/-- `s.mul d, a, b` (13 R312). -/
def execSMulReg (ws : Bool) (d a b : Opnd) (s : State) : Res :=
  s.scalar2 3 (· * ·) ws d (s.ctx.sGet a) (s.ctx.sGet b)

/-- `s.mulh d, a, b` (13 R312). -/
def execSMulh (ws : Bool) (d a b : Opnd) (s : State) : Res :=
  s.scalar2 3 sMulhVal ws d (s.ctx.sGet a) (s.ctx.sGet b)

/-- `s.div d, a, b` (13 R312). -/
def execSDiv (ws : Bool) (d a b : Opnd) (s : State) : Res :=
  s.scalar2 6 sDivVal ws d (s.ctx.sGet a) (s.ctx.sGet b)

/-- `s.rem d, a, b` (13 R312). -/
def execSRem (ws : Bool) (d a b : Opnd) (s : State) : Res :=
  s.scalar2 6 sRemVal ws d (s.ctx.sGet a) (s.ctx.sGet b)

/-- `s.and d, a, b` (13 R312). -/
def execSAndReg (ws : Bool) (d a b : Opnd) (s : State) : Res :=
  s.scalar2 1 (· &&& ·) ws d (s.ctx.sGet a) (s.ctx.sGet b)

/-- `s.or d, a, b` (13 R312). -/
def execSOrReg (ws : Bool) (d a b : Opnd) (s : State) : Res :=
  s.scalar2 1 (· ||| ·) ws d (s.ctx.sGet a) (s.ctx.sGet b)

/-- `s.xor d, a, b` (13 R312). -/
def execSXorReg (ws : Bool) (d a b : Opnd) (s : State) : Res :=
  s.scalar2 1 (· ^^^ ·) ws d (s.ctx.sGet a) (s.ctx.sGet b)

/-- `s.shl d, a, b` (13 R312). -/
def execSShlReg (ws : Bool) (d a b : Opnd) (s : State) : Res :=
  s.scalar2 1 sShlVal ws d (s.ctx.sGet a) (s.ctx.sGet b)

/-- `s.shr d, a, b` (13 R312). -/
def execSShrReg (ws : Bool) (d a b : Opnd) (s : State) : Res :=
  s.scalar2 1 sShrVal ws d (s.ctx.sGet a) (s.ctx.sGet b)

/-- `s.sar d, a, b` (13 R312). -/
def execSSarReg (ws : Bool) (d a b : Opnd) (s : State) : Res :=
  s.scalar2 1 sSarVal ws d (s.ctx.sGet a) (s.ctx.sGet b)

/-- `s.min d, a, b` (13 R312). -/
def execSMinReg (ws : Bool) (d a b : Opnd) (s : State) : Res :=
  s.scalar2 1 sMinVal ws d (s.ctx.sGet a) (s.ctx.sGet b)

/-- `s.max d, a, b` (13 R312). -/
def execSMaxReg (ws : Bool) (d a b : Opnd) (s : State) : Res :=
  s.scalar2 1 sMaxVal ws d (s.ctx.sGet a) (s.ctx.sGet b)

/-- `s.add d, a, imm`: the immediate is sign-extended (13 R312). -/
def execSAddImm (ws : Bool) (d a : Opnd) (imm : BitVec 14) (s : State) : Res :=
  s.scalar2 1 (· + ·) ws d (s.ctx.sGet a) (imm.signExtend 64)

/-- `s.mul d, a, imm`: the immediate is sign-extended (13 R312). -/
def execSMulImm (ws : Bool) (d a : Opnd) (imm : BitVec 14) (s : State) : Res :=
  s.scalar2 3 (· * ·) ws d (s.ctx.sGet a) (imm.signExtend 64)

/-- `s.and d, a, imm`: the immediate is sign-extended (13 R312). -/
def execSAndImm (ws : Bool) (d a : Opnd) (imm : BitVec 14) (s : State) : Res :=
  s.scalar2 1 (· &&& ·) ws d (s.ctx.sGet a) (imm.signExtend 64)

/-- `s.or d, a, imm`: the immediate is sign-extended (13 R312). -/
def execSOrImm (ws : Bool) (d a : Opnd) (imm : BitVec 14) (s : State) : Res :=
  s.scalar2 1 (· ||| ·) ws d (s.ctx.sGet a) (imm.signExtend 64)

/-- `s.xor d, a, imm`: the immediate is sign-extended (13 R312). -/
def execSXorImm (ws : Bool) (d a : Opnd) (imm : BitVec 14) (s : State) : Res :=
  s.scalar2 1 (· ^^^ ·) ws d (s.ctx.sGet a) (imm.signExtend 64)

/-- `s.shl d, a, n`: the count is 0 to 63 (13 R312). -/
def execSShlImm (ws : Bool) (d a : Opnd) (n : BitVec 6) (s : State) : Res :=
  s.scalar2 1 sShlVal ws d (s.ctx.sGet a) (n.setWidth 64)

/-- `s.shr d, a, n`: the count is 0 to 63 (13 R312). -/
def execSShrImm (ws : Bool) (d a : Opnd) (n : BitVec 6) (s : State) : Res :=
  s.scalar2 1 sShrVal ws d (s.ctx.sGet a) (n.setWidth 64)

/-- `s.sar d, a, n`: the count is 0 to 63 (13 R312). -/
def execSSarImm (ws : Bool) (d a : Opnd) (n : BitVec 6) (s : State) : Res :=
  s.scalar2 1 sSarVal ws d (s.ctx.sGet a) (n.setWidth 64)

/-- `s.min d, a, imm`: the immediate is sign-extended (13 R312). -/
def execSMinImm (ws : Bool) (d a : Opnd) (imm : BitVec 14) (s : State) : Res :=
  s.scalar2 1 sMinVal ws d (s.ctx.sGet a) (imm.signExtend 64)

/-- `s.max d, a, imm`: the immediate is sign-extended (13 R312). -/
def execSMaxImm (ws : Bool) (d a : Opnd) (imm : BitVec 14) (s : State) : Res :=
  s.scalar2 1 sMaxVal ws d (s.ctx.sGet a) (imm.signExtend 64)

/-- `s.sel d, a, b, c`: a if c is not zero, else b (13 R313). -/
def execSSel (ws : Bool) (d a b c : Opnd) (s : State) : Res :=
  .next (s.resultS 0 1 d ws (if s.ctx.sGet c ≠ 0 then s.ctx.sGet a else s.ctx.sGet b))

/-- `s.li d, imm`: the 34-bit immediate, sign-extended (13 R313). -/
def execSLi (ws : Bool) (d : Opnd) (imm : BitVec 34) (s : State) : Res :=
  .next (s.resultS 0 1 d ws (imm.signExtend 64))

/-- `s.lih d, imm`: bits 63:34 from the immediate, bits 33:0 from the destination as read at issue (13 R313). -/
def execSLih (ws : Bool) (d : Opnd) (imm : BitVec 30) (s : State) : Res :=
  .next (s.resultS 0 1 d ws (imm ++ (s.ctx.sGet d).setWidth 34))

/-- `s.addsc d, a, b, sh`: a + (b << sh) (13 R313). -/
def execSAddsc (ws : Bool) (d a b : Opnd) (sh : BitVec 3) (s : State) : Res :=
  .next (s.resultS 0 1 d ws (s.ctx.sGet a + s.ctx.sGet b <<< sh.toNat))

/-- `s.getc d, n` (13 R315). -/
def execSGetc (ws : Bool) (d : Opnd) (n : BitVec 4) (s : State) : Res :=
  .next (s.resultS 0 1 d ws (s.ctlRead n.toNat))

/-- A write of ATB moves the thread's frame with it (22 R430). -/
def State.frameFollows (s : State) (atb : Word) : State :=
  match s.curRec with
  | none => s
  | some r => s.modRec r.va r.grid fun q => { q with fsp := false, frame := if atb = 0 then 0 else atb.toNat + 0x200 }

/-- `s.setc a, n`: the register takes its new value at once, so that increments of this cycle are applied after it (13 R316),
and the value before the bundle is kept for the other operations of the bundle (13 R315). ATB takes FRAME with it (22 R430). -/
def execSSetc (a : Opnd) (n : BitVec 4) (s : State) : Res :=
  let t := { s.modCtx (fun c => c.setCtl n.toNat (c.sGet a)) with ctlOld := (n.toNat, s.ctlRead n.toNat) :: s.ctlOld }
  .next (if n = 1 then t.frameFollows t.ctx.atb else t)

end Sys2Proof.Machine
end

