-- ==== Sys2Proof/Machine/Vector.lean ====
section
/-! DEFINITION. Vector and mask operations (14 R329 to R345). A disabled lane is not written, and shows as zero in the
last-result file and the latches (R331). -/

namespace Sys2Proof.Machine

/-! ## Types (14 R329) -/

/-- Element width of a TY code. -/
def tyBits (ty : BitVec 4) : Nat := if ty.toNat < 3 then 32 else 16

/-- Float format of a TY code. -/
def tyFlt (ty : BitVec 4) : Option Flt :=
  match ty.toNat with
  | 2 => some f32
  | 5 => some f16
  | 6 => some bf16
  | _ => none

/-- Signed integer types: i32 and i16x2. -/
def tySigned (ty : BitVec 4) : Bool := ty.toNat == 0 || ty.toNat == 3

/-- Latency of arithmetic by type: integer 2, float `fl` (08 R198). -/
def tyLat (ty : BitVec 4) (fl : Nat) : Nat := if (tyFlt ty).isSome then fl else 2

/-- Lane `i` of a register. -/
def laneN (x : VReg) (i : Nat) : Nat := elemN 32 x.toNat i

/-! ## Results -/

/-- A vector result whose elements of `w` bits are given by `f`; `on` says which elements are enabled (14 R331). Bits from
`n × w` up are written as zero (14 R336). -/
def State.vecElems (s : State) (sl : VSlot) (lat : Nat) (ws : Bool) (d : Opnd) (w n : Nat) (on : Nat → Bool) (f : Nat → Nat) :
    State :=
  let data := packList w ((List.range n).map fun i => if on i then f i else 0)
  let mask := maskList w n on + (2 ^ 2048 - 2 ^ (w * n))
  s.modCtx fun c => c.result (slotNum sl) lat (.v d) ws (BitVec.ofNat 2048 data) (BitVec.ofNat 2048 mask) none

/-- A vector result lane by lane under mask MK. -/
def State.vecLanes (s : State) (sl : VSlot) (lat : Nat) (ws : Bool) (d : Opnd) (mk : BitVec 3) (f : Nat → Nat) : State :=
  s.vecElems sl lat ws d 32 64 (fun i => (s.ctx.pred mk).getLsbD i) f

/-- An element-wise result under TY: `f` maps an element number to its value. -/
def State.vecTy (s : State) (sl : VSlot) (lat : Nat) (ws : Bool) (d : Opnd) (mk : BitVec 3) (ty : BitVec 4) (f : Nat → Nat) :
    State :=
  let w := tyBits ty
  s.vecElems sl lat ws d w (2048 / w) (fun i => (s.ctx.pred mk).getLsbD (i * w / 32)) f

/-- The rounding of a vector float result: SW.RM, then FTZ (14 R332). -/
def State.rndV (s : State) (F : Flt) (x : Num) : Nat := flush F s.ftzNow (rnd F s.rmNow x)

/-- An element-wise operation of two sources: integers modulo 2^w, or floats rounded once. -/
def State.vecArith (s : State) (sl : VSlot) (fl : Nat) (ws : Bool) (d a b : Opnd) (mk : BitVec 3) (ty : BitVec 4)
    (fi : Int → Int → Int) (ff : Num → Num → Num) : State :=
  let w := tyBits ty
  let x := (s.ctx.vGet a).toNat
  let y := (s.ctx.vGet b).toNat
  s.vecTy sl (tyLat ty fl) ws d mk ty fun i =>
    match tyFlt ty with
    | some F => s.rndV F (ff (F.val (elemN w x i)) (F.val (elemN w y i)))
    | none => wrapN w (fi (elemN w x i) (elemN w y i))

/-- Element minimum or maximum (14 R333). -/
def State.elemMinMax (s : State) (ty : BitVec 4) (isMax : Bool) (x y : Nat) : Nat :=
  match tyFlt ty with
  | some F => flush F s.ftzNow (fltMinMax F isMax x y)
  | none =>
    let w := tyBits ty
    let less := if tySigned ty then decide (sextN w x < sextN w y) else decide (x < y)
    if less != isMax then x else y

def State.vecMinMax (s : State) (isMax : Bool) (sl : VSlot) (ws : Bool) (d a b : Opnd) (mk : BitVec 3) (ty : BitVec 4) :
    State :=
  let w := tyBits ty
  let x := (s.ctx.vGet a).toNat
  let y := (s.ctx.vGet b).toNat
  s.vecTy sl (tyLat ty 4) ws d mk ty fun i => s.elemMinMax ty isMax (elemN w x i) (elemN w y i)

/-- Bitwise operation lane by lane (14 R335). -/
def State.vecBits (s : State) (f : Nat → Nat → Nat) (sl : VSlot) (ws : Bool) (d a b : Opnd) (mk : BitVec 3) : State :=
  s.vecLanes sl 2 ws d mk fun i => f (laneN (s.ctx.vGet a) i) (laneN (s.ctx.vGet b) i)

/-- An element shifted: kind 0 left, 1 right zero-filled, 2 right sign-filled (14 R335). -/
def shiftElem (w kind x n : Nat) : Nat :=
  match kind with
  | 0 => x * 2 ^ n % 2 ^ w
  | 1 => x / 2 ^ n
  | _ => wrapN w (sextN w x / (2 ^ n : Int))

def State.vecShift (s : State) (kind : Nat) (sl : VSlot) (ws : Bool) (d a : Opnd) (count : Nat → Nat) (mk : BitVec 3)
    (ty : BitVec 4) : State :=
  let w := tyBits ty
  let x := (s.ctx.vGet a).toNat
  s.vecTy sl 2 ws d mk ty fun i => shiftElem w kind (elemN w x i) (count i)

/-- The count of element `i` of b: its bits 5:0. -/
def State.shiftCount (s : State) (b : Opnd) (ty : BitVec 4) (i : Nat) : Nat :=
  elemN (tyBits ty) (s.ctx.vGet b).toNat i % 64

/-- A lane relation under TY 0 to 2: 0 eq, 1 ne, 2 lt, 3 le, 4 gt, 5 ge (14 R335). -/
def laneRel (cc : Nat) (ty : BitVec 4) (x y : Nat) : Bool :=
  match ty.toNat with
  | 0 => Num.rel cc (Num.ofInt (sextN 32 x)) (Num.ofInt (sextN 32 y))
  | 2 => Num.rel cc (f32.val x) (f32.val y)
  | _ => Num.rel cc (Num.ofInt x) (Num.ofInt y)

/-- `v.cmp.<cc>`: disabled lanes give 0 (14 R335). -/
def State.vecCmp (s : State) (cc : Nat) (sl : VSlot) (ws : Bool) (d a b : Opnd) (mk : BitVec 3) (ty : BitVec 4) : State :=
  let x := s.ctx.vGet a
  let y := s.ctx.vGet b
  let bits := packList 1 ((List.range 64).map fun i =>
    b2n ((s.ctx.pred mk).getLsbD i && laneRel cc ty (laneN x i) (laneN y i)))
  s.resultK (slotNum sl) 2 d ws (BitVec.ofNat 64 bits)

/-! ## Reductions and scans (14 R340) -/

/-- The enabled lanes of a register in ascending order. -/
def State.enabled (s : State) (a : Opnd) (mk : BitVec 3) : List Nat :=
  ((List.range 64).filter fun i => (s.ctx.pred mk).getLsbD i).map fun i => laneN (s.ctx.vGet a) i

/-- One step of a float sum. -/
def State.addStep (s : State) (x y : Nat) : Nat := s.rndV f32 (Num.add s.rmNow (f32.val x) (f32.val y))

/-- A NaN becomes the canonical NaN; any other start stands as it is (14 R340). -/
def startF32 (x : Nat) : Nat := if (f32.val x).isNan then f32.cnan else x

/-- A float reduction by steps from the first enabled lane; `e` when no lane is enabled. -/
def foldF32 (step : Nat → Nat → Nat) (e : Nat) : List Nat → Nat
  | [] => e
  | x :: xs => startF32 (xs.foldl step x)

/-- A lane read as an integer under TY 0 or 1. -/
def laneInt (ty : BitVec 4) (x : Nat) : Int := if ty.toNat = 0 then sextN 32 x else (x : Int)

def State.reduceSum (s : State) (a : Opnd) (mk : BitVec 3) (ty : BitVec 4) : Word :=
  let l := s.enabled a mk
  if ty.toNat = 2 then BitVec.ofNat 64 (foldF32 s.addStep 0 l)
  else BitVec.ofInt 64 ((l.map (laneInt ty)).foldl (· + ·) 0)

def State.reduceMinMax (s : State) (isMax : Bool) (a : Opnd) (mk : BitVec 3) (ty : BitVec 4) : Word :=
  let l := s.enabled a mk
  match ty.toNat with
  | 2 => BitVec.ofNat 64 (foldF32 (s.elemMinMax 2 isMax) (f32.withSign isMax f32.infBits) l)
  | 0 => BitVec.ofInt 64 ((l.map (sextN 32)).foldl (if isMax then max else min) (if isMax then -(2 ^ 31) else 2 ^ 31 - 1))
  | _ => BitVec.ofNat 64 (l.foldl (if isMax then max else min) (if isMax then 0 else 2 ^ 32 - 1))

/-- The sum of the enabled lanes up to and with lane `i`. -/
def State.scanAt (s : State) (a : Opnd) (mk : BitVec 3) (ty : BitVec 4) (i : Nat) : Nat :=
  let l := ((List.range (i + 1)).filter fun j => (s.ctx.pred mk).getLsbD j).map fun j => laneN (s.ctx.vGet a) j
  if ty.toNat = 2 then foldF32 s.addStep 0 l else l.foldl (· + ·) 0 % 2 ^ 32

/-! ## The gate stage (14 R342, R343) -/

/-- Lane `i` is a winner: enabled, and strictly above its group's threshold. -/
def State.winner (s : State) (a b : Opnd) (mk : BitVec 3) (ty : BitVec 4) (i : Nat) : Bool :=
  (s.ctx.pred mk).getLsbD i && laneRel 4 ty (laneN (s.ctx.vGet a) i) (laneN (s.ctx.vGet b) (16 * (i / 16)))

/-- The winners of group `g`. -/
def State.winners (s : State) (a b : Opnd) (mk : BitVec 3) (ty : BitVec 4) (g : Nat) : List Nat :=
  ((List.range 16).map (16 * g + ·)).filter (s.winner a b mk ty)

/-- The exact sum of a group's winners. -/
def State.groupSum (s : State) (a b : Opnd) (mk : BitVec 3) (g : Nat) : Num :=
  Num.sum 0 ((s.winners a b mk 2 g).map fun i => f32.val (laneN (s.ctx.vGet a) i))

/-- A group is degenerate: no winner, a sum that is not finite, or one below 2^-126 in magnitude (14 R343). -/
def State.groupDegen (s : State) (a b : Opnd) (mk : BitVec 3) (g : Nat) : Bool :=
  (s.winners a b mk 2 g).isEmpty ||
    match s.groupSum a b mk g with
    | .fin _ m e more => decide (Num.cmp (.fin false m e more) (.fin false 1 (-126) false) < 0)
    | _ => true

/-- The weight of winner `i` of group `g`. -/
def State.gnormLane (s : State) (a b : Opnd) (mk : BitVec 3) (i : Nat) : Nat :=
  let g := i / 16
  if !s.winner a b mk 2 i then 0
  else if s.groupDegen a b mk g then s.rndV f32 (Num.divFin false 1 0 false (s.winners a b mk 2 g).length 0)
  else
    match f32.val (laneN (s.ctx.vGet a) i), s.groupSum a b mk g with
    | .fin n m e _, .fin n' m' e' _ => s.rndV f32 (Num.divFin n m e n' m' e')
    | _, _ => f32.cnan

/-! ## The instructions -/

/-- `v.add.<ty> d, a, b` (14 R333). -/
def execVAdd (sl : VSlot) (ws : Bool) (d a b : Opnd) (mk : BitVec 3) (ty : BitVec 4) (s : State) : Res :=
  .next (s.vecArith sl 4 ws d a b mk ty (· + ·) (Num.add s.rmNow))

/-- `v.sub.<ty> d, a, b` (14 R333). -/
def execVSub (sl : VSlot) (ws : Bool) (d a b : Opnd) (mk : BitVec 3) (ty : BitVec 4) (s : State) : Res :=
  .next (s.vecArith sl 4 ws d a b mk ty (· - ·) (fun x y => Num.add s.rmNow x y.neg))

/-- `v.mul.<ty> d, a, b` (14 R333). -/
def execVMul (sl : VSlot) (ws : Bool) (d a b : Opnd) (mk : BitVec 3) (ty : BitVec 4) (s : State) : Res :=
  .next (s.vecArith sl 5 ws d a b mk ty (· * ·) Num.mul)

/-- `v.fma.<ty> d, a, b`: a × b + d with one rounding; d is read at issue (14 R334). -/
def execVFma (sl : VSlot) (ws : Bool) (d a b : Opnd) (mk : BitVec 3) (ty : BitVec 4) (s : State) : Res :=
  let w := tyBits ty
  let x := (s.ctx.vGet a).toNat
  let y := (s.ctx.vGet b).toNat
  let z := (s.ctx.vGet d).toNat
  .next (s.vecTy sl 5 ws d mk ty fun i =>
    match tyFlt ty with
    | some F => s.rndV F (Num.add s.rmNow (Num.mul (F.val (elemN w x i)) (F.val (elemN w y i))) (F.val (elemN w z i)))
    | none => 0)

/-- `v.min.<ty> d, a, b` (14 R333). -/
def execVMin (sl : VSlot) (ws : Bool) (d a b : Opnd) (mk : BitVec 3) (ty : BitVec 4) (s : State) : Res :=
  .next (s.vecMinMax false sl ws d a b mk ty)

/-- `v.max.<ty> d, a, b` (14 R333). -/
def execVMax (sl : VSlot) (ws : Bool) (d a b : Opnd) (mk : BitVec 3) (ty : BitVec 4) (s : State) : Res :=
  .next (s.vecMinMax true sl ws d a b mk ty)

/-- `v.abs.<ty> d, a` (14 R333). -/
def execVAbs (sl : VSlot) (ws : Bool) (d a : Opnd) (mk : BitVec 3) (ty : BitVec 4) (s : State) : Res :=
  let w := tyBits ty
  let x := (s.ctx.vGet a).toNat
  .next (s.vecTy sl (tyLat ty 4) ws d mk ty fun i =>
    match tyFlt ty with
    | some F => if (F.val (elemN w x i)).isNan then F.cnan else flush F s.ftzNow (elemN w x i % 2 ^ (w - 1))
    | none => wrapN w (sextN w (elemN w x i)).natAbs)

/-- `v.and d, a, b` (14 R335). -/
def execVAnd (sl : VSlot) (ws : Bool) (d a b : Opnd) (mk : BitVec 3) (s : State) : Res :=
  .next (s.vecBits (· &&& ·) sl ws d a b mk)

/-- `v.or d, a, b` (14 R335). -/
def execVOr (sl : VSlot) (ws : Bool) (d a b : Opnd) (mk : BitVec 3) (s : State) : Res :=
  .next (s.vecBits (· ||| ·) sl ws d a b mk)

/-- `v.xor d, a, b` (14 R335). -/
def execVXor (sl : VSlot) (ws : Bool) (d a b : Opnd) (mk : BitVec 3) (s : State) : Res :=
  .next (s.vecBits (· ^^^ ·) sl ws d a b mk)

/-- `v.shl.<ty> d, a, b`: vector counts (14 R335). -/
def execVShlVec (sl : VSlot) (ws : Bool) (d a b : Opnd) (mk : BitVec 3) (ty : BitVec 4) (s : State) : Res :=
  .next (s.vecShift 0 sl ws d a (s.shiftCount b ty) mk ty)

/-- `v.shl.<ty> d, a, n`: one count (14 R335). -/
def execVShlImm (sl : VSlot) (ws : Bool) (d a : Opnd) (mk : BitVec 3) (n : BitVec 6) (ty : BitVec 4) (s : State) : Res :=
  .next (s.vecShift 0 sl ws d a (fun _ => n.toNat) mk ty)

/-- `v.shr.<ty> d, a, b`: vector counts (14 R335). -/
def execVShrVec (sl : VSlot) (ws : Bool) (d a b : Opnd) (mk : BitVec 3) (ty : BitVec 4) (s : State) : Res :=
  .next (s.vecShift 1 sl ws d a (s.shiftCount b ty) mk ty)

/-- `v.shr.<ty> d, a, n`: one count (14 R335). -/
def execVShrImm (sl : VSlot) (ws : Bool) (d a : Opnd) (mk : BitVec 3) (n : BitVec 6) (ty : BitVec 4) (s : State) : Res :=
  .next (s.vecShift 1 sl ws d a (fun _ => n.toNat) mk ty)

/-- `v.sar.<ty> d, a, b`: vector counts (14 R335). -/
def execVSarVec (sl : VSlot) (ws : Bool) (d a b : Opnd) (mk : BitVec 3) (ty : BitVec 4) (s : State) : Res :=
  .next (s.vecShift 2 sl ws d a (s.shiftCount b ty) mk ty)

/-- `v.sar.<ty> d, a, n`: one count (14 R335). -/
def execVSarImm (sl : VSlot) (ws : Bool) (d a : Opnd) (mk : BitVec 3) (n : BitVec 6) (ty : BitVec 4) (s : State) : Res :=
  .next (s.vecShift 2 sl ws d a (fun _ => n.toNat) mk ty)

/-- `v.cmp.eq.<ty> kd, a, b` (14 R335). -/
def execVCmpEq (sl : VSlot) (ws : Bool) (d a b : Opnd) (mk : BitVec 3) (ty : BitVec 4) (s : State) : Res :=
  .next (s.vecCmp 0 sl ws d a b mk ty)

/-- `v.cmp.ne.<ty> kd, a, b` (14 R335). -/
def execVCmpNe (sl : VSlot) (ws : Bool) (d a b : Opnd) (mk : BitVec 3) (ty : BitVec 4) (s : State) : Res :=
  .next (s.vecCmp 1 sl ws d a b mk ty)

/-- `v.cmp.lt.<ty> kd, a, b` (14 R335). -/
def execVCmpLt (sl : VSlot) (ws : Bool) (d a b : Opnd) (mk : BitVec 3) (ty : BitVec 4) (s : State) : Res :=
  .next (s.vecCmp 2 sl ws d a b mk ty)

/-- `v.cmp.le.<ty> kd, a, b` (14 R335). -/
def execVCmpLe (sl : VSlot) (ws : Bool) (d a b : Opnd) (mk : BitVec 3) (ty : BitVec 4) (s : State) : Res :=
  .next (s.vecCmp 3 sl ws d a b mk ty)

/-- `v.cmp.gt.<ty> kd, a, b` (14 R335). -/
def execVCmpGt (sl : VSlot) (ws : Bool) (d a b : Opnd) (mk : BitVec 3) (ty : BitVec 4) (s : State) : Res :=
  .next (s.vecCmp 4 sl ws d a b mk ty)

/-- `v.cmp.ge.<ty> kd, a, b` (14 R335). -/
def execVCmpGe (sl : VSlot) (ws : Bool) (d a b : Opnd) (mk : BitVec 3) (ty : BitVec 4) (s : State) : Res :=
  .next (s.vecCmp 5 sl ws d a b mk ty)

/-- `v.cvt.<dst>.<src> d, a`: the mask governs elements (14 R336). -/
def execVCvt (sl : VSlot) (ws : Bool) (d a : Opnd) (mk : BitVec 3) (rmo : BitVec 3) (src dst : BitVec 4) (s : State) : Res :=
  let x := (s.ctx.vGet a).toNat
  let m := if rmo = 0 then s.rmNow else rmo.toNat - 1
  let fl (y : Nat) : Nat := match dst.toNat with
    | 6 => flush f16 s.ftzNow y
    | 7 => flush bf16 s.ftzNow y
    | 8 => flush f32 s.ftzNow y
    | _ => y
  .next (s.vecElems sl 4 ws d (fmtBits dst.toNat) 64 (fun i => (s.ctx.pred mk).getLsbD i) fun i =>
    fl (convert src.toNat dst.toNat m (elemN (fmtBits src.toNat) x i)))

/-- `v.rq.<dst> d, a, b`: mul from b, sh and zo from the register after b (14 R337). -/
def execVRq (sl : VSlot) (ws : Bool) (d a b : Opnd) (mk : BitVec 3) (dst : BitVec 4) (s : State) : Res :=
  let x := s.ctx.vGet a
  let y := s.ctx.vGet b
  let z := s.ctx.vGet (regAfter b 1)
  .next (s.vecElems sl 4 ws d (fmtBits dst.toNat) 64 (fun i => (s.ctx.pred mk).getLsbD i) fun i =>
    wrapN (fmtBits dst.toNat) (rq (sextN 32 (laneN x i)) (sextN 32 (laneN y i)) (laneN z i % 64)
      (sextN 16 (laneN z i / 2 ^ 16)) dst.toNat).1)

/-- `v.scacc.<ty> d, a, b`: d + a × b, RNE whatever SW.RM holds (14 R338). -/
def execVScacc (sl : VSlot) (ws : Bool) (d a b : Opnd) (mk : BitVec 3) (ty : BitVec 4) (s : State) : Res :=
  let x := s.ctx.vGet a
  let y := s.ctx.vGet b
  let z := s.ctx.vGet d
  .next (s.vecLanes sl 5 ws d mk fun i =>
    let p := if ty.toNat = 0 then Num.ofInt (sextN 32 (laneN x i)) else f32.val (laneN x i)
    flush f32 s.ftzNow (rne f32 (Num.add 0 (f32.val (laneN z i)) (Num.mul p (f32.val (laneN y i))))))

/-- `v.perm d, a, b` (14 R339). -/
def execVPerm (sl : VSlot) (ws : Bool) (d a b : Opnd) (mk : BitVec 3) (s : State) : Res :=
  .next (s.vecLanes sl 3 ws d mk fun i => laneN (s.ctx.vGet a) (laneN (s.ctx.vGet b) i % 64))

/-- `v.rot d, a, n` (14 R339). -/
def execVRot (sl : VSlot) (ws : Bool) (d a : Opnd) (mk : BitVec 3) (n : BitVec 6) (s : State) : Res :=
  .next (s.vecLanes sl 3 ws d mk fun i => laneN (s.ctx.vGet a) ((i + n.toNat) % 64))

/-- `v.bcast d, sa`: bits 31:0 of a scalar in every lane (14 R339). -/
def execVBcast (sl : VSlot) (ws : Bool) (d a : Opnd) (mk : BitVec 3) (s : State) : Res :=
  .next (s.vecLanes sl 3 ws d mk fun _ => (s.ctx.sGet a).toNat % 2 ^ 32)

/-- `v.iota.<ty> d`: lane i receives i (14 R339). -/
def execVIota (sl : VSlot) (ws : Bool) (d : Opnd) (mk : BitVec 3) (ty : BitVec 4) (s : State) : Res :=
  .next (s.vecLanes sl 3 ws d mk fun i => if ty.toNat = 2 then rne f32 (Num.ofInt i) else i)

/-- `v.ext sd, a, n`: lane n zero-extended (14 R339). -/
def execVExt (sl : VSlot) (ws : Bool) (d a : Opnd) (n : BitVec 6) (s : State) : Res :=
  .next (s.resultS (slotNum sl) 3 d ws (BitVec.ofNat 64 (laneN (s.ctx.vGet a) n.toNat)))

/-- `v.rsum.<ty> sd, a` (14 R340). -/
def execVRsum (sl : VSlot) (ws : Bool) (d a : Opnd) (mk : BitVec 3) (ty : BitVec 4) (s : State) : Res :=
  .next (s.resultS (slotNum sl) 6 d ws (s.reduceSum a mk ty))

/-- `v.rmin.<ty> sd, a` (14 R340). -/
def execVRmin (sl : VSlot) (ws : Bool) (d a : Opnd) (mk : BitVec 3) (ty : BitVec 4) (s : State) : Res :=
  .next (s.resultS (slotNum sl) 6 d ws (s.reduceMinMax false a mk ty))

/-- `v.rmax.<ty> sd, a` (14 R340). -/
def execVRmax (sl : VSlot) (ws : Bool) (d a : Opnd) (mk : BitVec 3) (ty : BitVec 4) (s : State) : Res :=
  .next (s.resultS (slotNum sl) 6 d ws (s.reduceMinMax true a mk ty))

/-- `v.scan.<ty> d, a` (14 R340). -/
def execVScan (sl : VSlot) (ws : Bool) (d a : Opnd) (mk : BitVec 3) (ty : BitVec 4) (s : State) : Res :=
  .next (s.vecLanes sl 6 ws d mk (s.scanAt a mk ty))

/-- `v.rcp d, a` (14 R341). -/
def execVRcp (sl : VSlot) (ws : Bool) (d a : Opnd) (mk : BitVec 3) (s : State) : Res :=
  .next (s.vecLanes sl 6 ws d mk fun i => s.rndV f32 (approx 0 (f32.val (laneN (s.ctx.vGet a) i))))

/-- `v.rsq d, a` (14 R341). -/
def execVRsq (sl : VSlot) (ws : Bool) (d a : Opnd) (mk : BitVec 3) (s : State) : Res :=
  .next (s.vecLanes sl 6 ws d mk fun i => s.rndV f32 (approx 1 (f32.val (laneN (s.ctx.vGet a) i))))

/-- `v.exp2 d, a` (14 R341). -/
def execVExp2 (sl : VSlot) (ws : Bool) (d a : Opnd) (mk : BitVec 3) (s : State) : Res :=
  .next (s.vecLanes sl 6 ws d mk fun i => s.rndV f32 (approx 2 (f32.val (laneN (s.ctx.vGet a) i))))

/-- `v.log2 d, a` (14 R341). -/
def execVLog2 (sl : VSlot) (ws : Bool) (d a : Opnd) (mk : BitVec 3) (s : State) : Res :=
  .next (s.vecLanes sl 6 ws d mk fun i => s.rndV f32 (approx 3 (f32.val (laneN (s.ctx.vGet a) i))))

/-- `v.thrcnt.<ty> d, a, b`: the number of winners of the lane's group (14 R342). -/
def execVThrcnt (sl : VSlot) (ws : Bool) (d a b : Opnd) (mk : BitVec 3) (ty : BitVec 4) (s : State) : Res :=
  .next (s.vecLanes sl 6 ws d mk fun i => (s.winners a b mk ty (i / 16)).length)

/-- `v.thrsel.<ty> d, a, b`: winners keep their value (14 R342). -/
def execVThrsel (sl : VSlot) (ws : Bool) (d a b : Opnd) (mk : BitVec 3) (ty : BitVec 4) (s : State) : Res :=
  .next (s.vecLanes sl 6 ws d mk fun i => if s.winner a b mk ty i then laneN (s.ctx.vGet a) i else 0)

/-- `v.gnorm.f32 d, a, b, kx` (14 R343). The degenerate groups travel with the result and take effect at its write-back (R344). -/
def execVGnorm (sl : VSlot) (ws : Bool) (d a b : Opnd) (mk : BitVec 3) (kx : BitVec 3) (s : State) : Res :=
  let on (i : Nat) : Bool := (s.ctx.pred mk).getLsbD i
  let data := packList 32 ((List.range 64).map fun i => if on i then s.gnormLane a b mk i else 0)
  let degen := packList 1 ((List.range 4).map fun g => b2n (s.groupDegen a b mk g))
  .next (s.modCtx fun c => c.result (slotNum sl) 6 (.v d) ws (BitVec.ofNat 2048 data)
    (BitVec.ofNat 2048 (maskList 32 64 on)) (some ⟨kx.toNat, degen⟩))

/-- `k.and kd, ka, kb` (14 R345). -/
def execKAnd (sl : VSlot) (ws : Bool) (d a b : Opnd) (s : State) : Res :=
  .next (s.resultK (slotNum sl) 2 d ws (s.ctx.kGet a &&& s.ctx.kGet b))

/-- `k.or kd, ka, kb` (14 R345). -/
def execKOr (sl : VSlot) (ws : Bool) (d a b : Opnd) (s : State) : Res :=
  .next (s.resultK (slotNum sl) 2 d ws (s.ctx.kGet a ||| s.ctx.kGet b))

/-- `k.not kd, ka` (14 R345). -/
def execKNot (sl : VSlot) (ws : Bool) (d a : Opnd) (s : State) : Res :=
  .next (s.resultK (slotNum sl) 2 d ws (~~~ s.ctx.kGet a))

/-- `k.pop sd, ka`: the number of bits set (14 R345). -/
def execKPop (sl : VSlot) (ws : Bool) (d a : Opnd) (s : State) : Res :=
  .next (s.resultS (slotNum sl) 2 d ws (BitVec.ofNat 64 ((List.range 64).countP fun i => (s.ctx.kGet a).getLsbD i)))

end Sys2Proof.Machine
end

