-- ==== Sys2Proof/Machine/Dispatch.lean ====
section
/-! DEFINITION. The dispatch: one arm for each operation and event, each a direct call of its meaning. -/

namespace Sys2Proof.Machine

def exec (i : Instr) (s : State) : Host.Outcome State Fault Refusal :=
  match i with
  | .sAddReg ws d a b => Sys2Proof.Machine.execSAddReg ws d a b s
  | .sAddImm ws d a imm => Sys2Proof.Machine.execSAddImm ws d a imm s
  | .sSub ws d a b => Sys2Proof.Machine.execSSub ws d a b s
  | .sMulReg ws d a b => Sys2Proof.Machine.execSMulReg ws d a b s
  | .sMulImm ws d a imm => Sys2Proof.Machine.execSMulImm ws d a imm s
  | .sMulh ws d a b => Sys2Proof.Machine.execSMulh ws d a b s
  | .sDiv ws d a b => Sys2Proof.Machine.execSDiv ws d a b s
  | .sRem ws d a b => Sys2Proof.Machine.execSRem ws d a b s
  | .sAndReg ws d a b => Sys2Proof.Machine.execSAndReg ws d a b s
  | .sAndImm ws d a imm => Sys2Proof.Machine.execSAndImm ws d a imm s
  | .sOrReg ws d a b => Sys2Proof.Machine.execSOrReg ws d a b s
  | .sOrImm ws d a imm => Sys2Proof.Machine.execSOrImm ws d a imm s
  | .sXorReg ws d a b => Sys2Proof.Machine.execSXorReg ws d a b s
  | .sXorImm ws d a imm => Sys2Proof.Machine.execSXorImm ws d a imm s
  | .sShlReg ws d a b => Sys2Proof.Machine.execSShlReg ws d a b s
  | .sShlImm ws d a n => Sys2Proof.Machine.execSShlImm ws d a n s
  | .sShrReg ws d a b => Sys2Proof.Machine.execSShrReg ws d a b s
  | .sShrImm ws d a n => Sys2Proof.Machine.execSShrImm ws d a n s
  | .sSarReg ws d a b => Sys2Proof.Machine.execSSarReg ws d a b s
  | .sSarImm ws d a n => Sys2Proof.Machine.execSSarImm ws d a n s
  | .sMinReg ws d a b => Sys2Proof.Machine.execSMinReg ws d a b s
  | .sMinImm ws d a imm => Sys2Proof.Machine.execSMinImm ws d a imm s
  | .sMaxReg ws d a b => Sys2Proof.Machine.execSMaxReg ws d a b s
  | .sMaxImm ws d a imm => Sys2Proof.Machine.execSMaxImm ws d a imm s
  | .sSel ws d a b c => Sys2Proof.Machine.execSSel ws d a b c s
  | .sLi ws d imm => Sys2Proof.Machine.execSLi ws d imm s
  | .sLih ws d imm => Sys2Proof.Machine.execSLih ws d imm s
  | .sAddsc ws d a b sh => Sys2Proof.Machine.execSAddsc ws d a b sh s
  | .sGetc ws d n => Sys2Proof.Machine.execSGetc ws d n s
  | .sSetc a n => Sys2Proof.Machine.execSSetc a n s
  | .sCmpEqReg a b => Sys2Proof.Machine.execSCmpEqReg a b s
  | .sCmpNeReg a b => Sys2Proof.Machine.execSCmpNeReg a b s
  | .sCmpLtReg a b => Sys2Proof.Machine.execSCmpLtReg a b s
  | .sCmpLeReg a b => Sys2Proof.Machine.execSCmpLeReg a b s
  | .sCmpGtReg a b => Sys2Proof.Machine.execSCmpGtReg a b s
  | .sCmpGeReg a b => Sys2Proof.Machine.execSCmpGeReg a b s
  | .sCmpLtuReg a b => Sys2Proof.Machine.execSCmpLtuReg a b s
  | .sCmpLeuReg a b => Sys2Proof.Machine.execSCmpLeuReg a b s
  | .sCmpGtuReg a b => Sys2Proof.Machine.execSCmpGtuReg a b s
  | .sCmpGeuReg a b => Sys2Proof.Machine.execSCmpGeuReg a b s
  | .sCmpEqImm a imm => Sys2Proof.Machine.execSCmpEqImm a imm s
  | .sCmpNeImm a imm => Sys2Proof.Machine.execSCmpNeImm a imm s
  | .sCmpLtImm a imm => Sys2Proof.Machine.execSCmpLtImm a imm s
  | .sCmpLeImm a imm => Sys2Proof.Machine.execSCmpLeImm a imm s
  | .sCmpGtImm a imm => Sys2Proof.Machine.execSCmpGtImm a imm s
  | .sCmpGeImm a imm => Sys2Proof.Machine.execSCmpGeImm a imm s
  | .sCmpLtuImm a imm => Sys2Proof.Machine.execSCmpLtuImm a imm s
  | .sCmpLeuImm a imm => Sys2Proof.Machine.execSCmpLeuImm a imm s
  | .sCmpGtuImm a imm => Sys2Proof.Machine.execSCmpGtuImm a imm s
  | .sCmpGeuImm a imm => Sys2Proof.Machine.execSCmpGeuImm a imm s
  | .sJmp t => Sys2Proof.Machine.execSJmp t s
  | .sJal ws d t => Sys2Proof.Machine.execSJal ws d t s
  | .sJr a => Sys2Proof.Machine.execSJr a s
  | .sJbank seg x => Sys2Proof.Machine.execSJbank seg x s
  | .sLoopReg a off => Sys2Proof.Machine.execSLoopReg a off s
  | .sLoopImm count off => Sys2Proof.Machine.execSLoopImm count off s
  | .sMark n => Sys2Proof.Machine.execSMark n s
  | .sTrap n => Sys2Proof.Machine.execSTrap n s
  | .sTret a => Sys2Proof.Machine.execSTret a s
  | .sYield => Sys2Proof.Machine.execSYield s
  | .sHalt => Sys2Proof.Machine.execSHalt s
  | .vAdd sl ws d a b mk ty => Sys2Proof.Machine.execVAdd sl ws d a b mk ty s
  | .vSub sl ws d a b mk ty => Sys2Proof.Machine.execVSub sl ws d a b mk ty s
  | .vMul sl ws d a b mk ty => Sys2Proof.Machine.execVMul sl ws d a b mk ty s
  | .vFma sl ws d a b mk ty => Sys2Proof.Machine.execVFma sl ws d a b mk ty s
  | .vMin sl ws d a b mk ty => Sys2Proof.Machine.execVMin sl ws d a b mk ty s
  | .vMax sl ws d a b mk ty => Sys2Proof.Machine.execVMax sl ws d a b mk ty s
  | .vAbs sl ws d a mk ty => Sys2Proof.Machine.execVAbs sl ws d a mk ty s
  | .vAnd sl ws d a b mk => Sys2Proof.Machine.execVAnd sl ws d a b mk s
  | .vOr sl ws d a b mk => Sys2Proof.Machine.execVOr sl ws d a b mk s
  | .vXor sl ws d a b mk => Sys2Proof.Machine.execVXor sl ws d a b mk s
  | .vShlVec sl ws d a b mk ty => Sys2Proof.Machine.execVShlVec sl ws d a b mk ty s
  | .vShrVec sl ws d a b mk ty => Sys2Proof.Machine.execVShrVec sl ws d a b mk ty s
  | .vSarVec sl ws d a b mk ty => Sys2Proof.Machine.execVSarVec sl ws d a b mk ty s
  | .vShlImm sl ws d a mk n ty => Sys2Proof.Machine.execVShlImm sl ws d a mk n ty s
  | .vShrImm sl ws d a mk n ty => Sys2Proof.Machine.execVShrImm sl ws d a mk n ty s
  | .vSarImm sl ws d a mk n ty => Sys2Proof.Machine.execVSarImm sl ws d a mk n ty s
  | .vCmpEq sl ws d a b mk ty => Sys2Proof.Machine.execVCmpEq sl ws d a b mk ty s
  | .vCmpNe sl ws d a b mk ty => Sys2Proof.Machine.execVCmpNe sl ws d a b mk ty s
  | .vCmpLt sl ws d a b mk ty => Sys2Proof.Machine.execVCmpLt sl ws d a b mk ty s
  | .vCmpLe sl ws d a b mk ty => Sys2Proof.Machine.execVCmpLe sl ws d a b mk ty s
  | .vCmpGt sl ws d a b mk ty => Sys2Proof.Machine.execVCmpGt sl ws d a b mk ty s
  | .vCmpGe sl ws d a b mk ty => Sys2Proof.Machine.execVCmpGe sl ws d a b mk ty s
  | .vAny sl a => Sys2Proof.Machine.execVAny sl a s
  | .vAll sl a => Sys2Proof.Machine.execVAll sl a s
  | .vCvt sl ws d a mk rmo src dst => Sys2Proof.Machine.execVCvt sl ws d a mk rmo src dst s
  | .vRq sl ws d a b mk dst => Sys2Proof.Machine.execVRq sl ws d a b mk dst s
  | .vScacc sl ws d a b mk ty => Sys2Proof.Machine.execVScacc sl ws d a b mk ty s
  | .vPerm sl ws d a b mk => Sys2Proof.Machine.execVPerm sl ws d a b mk s
  | .vRot sl ws d a mk n => Sys2Proof.Machine.execVRot sl ws d a mk n s
  | .vBcast sl ws d a mk => Sys2Proof.Machine.execVBcast sl ws d a mk s
  | .vIota sl ws d mk ty => Sys2Proof.Machine.execVIota sl ws d mk ty s
  | .vExt sl ws d a n => Sys2Proof.Machine.execVExt sl ws d a n s
  | .vRsum sl ws d a mk ty => Sys2Proof.Machine.execVRsum sl ws d a mk ty s
  | .vRmin sl ws d a mk ty => Sys2Proof.Machine.execVRmin sl ws d a mk ty s
  | .vRmax sl ws d a mk ty => Sys2Proof.Machine.execVRmax sl ws d a mk ty s
  | .vScan sl ws d a mk ty => Sys2Proof.Machine.execVScan sl ws d a mk ty s
  | .vRcp sl ws d a mk => Sys2Proof.Machine.execVRcp sl ws d a mk s
  | .vRsq sl ws d a mk => Sys2Proof.Machine.execVRsq sl ws d a mk s
  | .vExp2 sl ws d a mk => Sys2Proof.Machine.execVExp2 sl ws d a mk s
  | .vLog2 sl ws d a mk => Sys2Proof.Machine.execVLog2 sl ws d a mk s
  | .vThrcnt sl ws d a b mk ty => Sys2Proof.Machine.execVThrcnt sl ws d a b mk ty s
  | .vThrsel sl ws d a b mk ty => Sys2Proof.Machine.execVThrsel sl ws d a b mk ty s
  | .vGnorm sl ws d a b mk kx => Sys2Proof.Machine.execVGnorm sl ws d a b mk kx s
  | .kAnd sl ws d a b => Sys2Proof.Machine.execKAnd sl ws d a b s
  | .kOr sl ws d a b => Sys2Proof.Machine.execKOr sl ws d a b s
  | .kNot sl ws d a => Sys2Proof.Machine.execKNot sl ws d a s
  | .kPop sl ws d a => Sys2Proof.Machine.execKPop sl ws d a s
  | .ldS ws d a sz sx off => Sys2Proof.Machine.execLdS ws d a sz sx off s
  | .ldSB ws d a sz sx off => Sys2Proof.Machine.execLdSB ws d a sz sx off s
  | .ldV ws d a off => Sys2Proof.Machine.execLdV ws d a off s
  | .ldVB ws d a off => Sys2Proof.Machine.execLdVB ws d a off s
  | .ldVt ws d a n => Sys2Proof.Machine.execLdVt ws d a n s
  | .ldG ws d a b sz => Sys2Proof.Machine.execLdG ws d a b sz s
  | .ldBc ws d a sz sx off => Sys2Proof.Machine.execLdBc ws d a sz sx off s
  | .ldK ws d a off => Sys2Proof.Machine.execLdK ws d a off s
  | .pf a off => Sys2Proof.Machine.execPf a off s
  | .res a b => Sys2Proof.Machine.execRes a b s
  | .stS d a sz rel scope off => Sys2Proof.Machine.execStS d a sz rel scope off s
  | .stV d a rel scope off => Sys2Proof.Machine.execStV d a rel scope off s
  | .stVt d a n => Sys2Proof.Machine.execStVt d a n s
  | .stSc d a b sz => Sys2Proof.Machine.execStSc d a b sz s
  | .amoAdd ws d a w8 ord scope c => Sys2Proof.Machine.execAmoAdd ws d a w8 ord scope c s
  | .amoMin ws d a w8 ord scope c => Sys2Proof.Machine.execAmoMin ws d a w8 ord scope c s
  | .amoMax ws d a w8 ord scope c => Sys2Proof.Machine.execAmoMax ws d a w8 ord scope c s
  | .amoAnd ws d a w8 ord scope c => Sys2Proof.Machine.execAmoAnd ws d a w8 ord scope c s
  | .amoOr ws d a w8 ord scope c => Sys2Proof.Machine.execAmoOr ws d a w8 ord scope c s
  | .amoXor ws d a w8 ord scope c => Sys2Proof.Machine.execAmoXor ws d a w8 ord scope c s
  | .amoSwap ws d a w8 ord scope c => Sys2Proof.Machine.execAmoSwap ws d a w8 ord scope c s
  | .amoCas ws d a w8 ord scope c => Sys2Proof.Machine.execAmoCas ws d a w8 ord scope c s
  | .mAcq => Sys2Proof.Machine.execMAcq s
  | .mRel => Sys2Proof.Machine.execMRel s
  | .mMode t mode => Sys2Proof.Machine.execMMode t mode s
  | .mLdb a b => Sys2Proof.Machine.execMLdb a b s
  | .mLdbEdge a b => Sys2Proof.Machine.execMLdbEdge a b s
  | .mLdbx a b => Sys2Proof.Machine.execMLdbx a b s
  | .mMma pair h t lbl a b => Sys2Proof.Machine.execMMma pair h t lbl a b s
  | .mZero t => Sys2Proof.Machine.execMZero t s
  | .mZpc t lbl a b => Sys2Proof.Machine.execMZpc t lbl a b s
  | .mBind ws d a b clr fmt axis t => Sys2Proof.Machine.execMBind ws d a b clr fmt axis t s
  | .mDrainWrap ws d a b tr t lbl => Sys2Proof.Machine.execMDrainWrap ws d a b tr t lbl s
  | .mDrainSat ws d a b tr t lbl => Sys2Proof.Machine.execMDrainSat ws d a b tr t lbl s
  | .mDrainRq ws d a b tr t lbl => Sys2Proof.Machine.execMDrainRq ws d a b tr t lbl s
  | .mDrainFlt ws d a b tr t lbl => Sys2Proof.Machine.execMDrainFlt ws d a b tr t lbl s
  | .mSpill t lbl => Sys2Proof.Machine.execMSpill t lbl s
  | .mFill t lbl => Sys2Proof.Machine.execMFill t lbl s
  | .mTopo h t a b => Sys2Proof.Machine.execMTopo h t a b s
  | .mWait ws d => Sys2Proof.Machine.execMWait ws d s
  | .cpCopy ws d a => Sys2Proof.Machine.execCpCopy ws d a s
  | .cpGath ws d a => Sys2Proof.Machine.execCpGath ws d a s
  | .cpScat ws d a => Sys2Proof.Machine.execCpScat ws d a s
  | .cpFill ws d a => Sys2Proof.Machine.execCpFill ws d a s
  | .cpExpand ws d a => Sys2Proof.Machine.execCpExpand ws d a s
  | .cpSeal ws d a => Sys2Proof.Machine.execCpSeal ws d a s
  | .cpGal ws d a => Sys2Proof.Machine.execCpGal ws d a s
  | .cpColl ws d a => Sys2Proof.Machine.execCpColl ws d a s
  | .cpCkpt ws d a => Sys2Proof.Machine.execCpCkpt ws d a s
  | .cpJob ws d a => Sys2Proof.Machine.execCpJob ws d a s
  | .cpCancel a => Sys2Proof.Machine.execCpCancel a s
  | .cpStat ws d a => Sys2Proof.Machine.execCpStat ws d a s
  | .yPost a own scope flag => Sys2Proof.Machine.execYPost a own scope flag s
  | .yWait a scope flag => Sys2Proof.Machine.execYWait a scope flag s
  | .yWaitSig a scope => Sys2Proof.Machine.execYWaitSig a scope s
  | .yFenceAcq scope => Sys2Proof.Machine.execYFenceAcq scope s
  | .yFenceRel scope => Sys2Proof.Machine.execYFenceRel scope s
  | .yFenceAr scope => Sys2Proof.Machine.execYFenceAr scope s
  | .yBar a scope bar => Sys2Proof.Machine.execYBar a scope bar s
  | .yBarw a scope bar => Sys2Proof.Machine.execYBarw a scope bar s
  | .yWfe ws d a => Sys2Proof.Machine.execYWfe ws d a s
  | .ySev a own ev => Sys2Proof.Machine.execYSev a own ev s
  | .ySig a scope => Sys2Proof.Machine.execYSig a scope s
  | .ySplit ws d n => Sys2Proof.Machine.execYSplit ws d n s
  | .ySwap ws d e => Sys2Proof.Machine.execYSwap ws d e s
  | .yIfence => Sys2Proof.Machine.execYIfence s
  | .yTsrinv a => Sys2Proof.Machine.execYTsrinv a s
  | .yTsrinvAll => Sys2Proof.Machine.execYTsrinvAll s
  | .yQsub ws d a b => Sys2Proof.Machine.execYQsub ws d a b s
  | .yQsubRe ws d h => Sys2Proof.Machine.execYQsubRe ws d h s
  | .yQrun a => Sys2Proof.Machine.execYQrun a s
  | .yQwait ws d a rel => Sys2Proof.Machine.execYQwait ws d a rel s
  | .yHint a b => Sys2Proof.Machine.execYHint a b s
  | .yPin a whole node => Sys2Proof.Machine.execYPin a whole node s
  | .yUnpin a whole node => Sys2Proof.Machine.execYUnpin a whole node s
  | .yPlanrd a b => Sys2Proof.Machine.execYPlanrd a b s
  | .yStatrd a b => Sys2Proof.Machine.execYStatrd a b s
  | .yStatwr a b => Sys2Proof.Machine.execYStatwr a b s
  | .yStatwrInv a b => Sys2Proof.Machine.execYStatwrInv a b s
  | .yLeave cls => Sys2Proof.Machine.execYLeave cls s
  | .yLeaveRel cls => Sys2Proof.Machine.execYLeaveRel cls s
  | .coldReset => Sys2Proof.Machine.execColdReset s
  | .warmReset => Sys2Proof.Machine.execWarmReset s
  | .bringupStepDone => Sys2Proof.Machine.execBringupStepDone s
  | .functionLevelResetVf => Sys2Proof.Machine.execFunctionLevelResetVf s
  | .functionLevelResetPf => Sys2Proof.Machine.execFunctionLevelResetPf s
  | .d3hotEntry => Sys2Proof.Machine.execD3hotEntry s
  | .d0Return => Sys2Proof.Machine.execD0Return s
  | .droopDetect => Sys2Proof.Machine.execDroopDetect s
  | .thermalHot => Sys2Proof.Machine.execThermalHot s
  | .criticalTrip => Sys2Proof.Machine.execCriticalTrip s
  | .tripRecovery => Sys2Proof.Machine.execTripRecovery s
  | .governorTick => Sys2Proof.Machine.execGovernorTick s
  | .limitHalveExcursion => Sys2Proof.Machine.execLimitHalveExcursion s
  | .leaveRequest => Sys2Proof.Machine.execLeaveRequest s
  | .leaveGrant => Sys2Proof.Machine.execLeaveGrant s
  | .leaveAging => Sys2Proof.Machine.execLeaveAging s
  | .supplyGlitch => Sys2Proof.Machine.execSupplyGlitch s
  | .tamperMeshBroken => Sys2Proof.Machine.execTamperMeshBroken s
  | .dieLinkFailure => Sys2Proof.Machine.execDieLinkFailure s
  | .granuleRead => Sys2Proof.Machine.execGranuleRead s
  | .granuleWrite => Sys2Proof.Machine.execGranuleWrite s
  | .granulePartialWrite => Sys2Proof.Machine.execGranulePartialWrite s
  | .requestReserving => Sys2Proof.Machine.execRequestReserving s
  | .patrolScrub => Sys2Proof.Machine.execPatrolScrub s
  | .rds => Sys2Proof.Machine.execRds s
  | .rde => Sys2Proof.Machine.execRde s
  | .upg => Sys2Proof.Machine.execUpg s
  | .ncrd => Sys2Proof.Machine.execNcrd s
  | .ncwr => Sys2Proof.Machine.execNcwr s
  | .migrd => Sys2Proof.Machine.execMigrd s
  | .wbm => Sys2Proof.Machine.execWbm s
  | .eve => Sys2Proof.Machine.execEve s
  | .snpinv => Sys2Proof.Machine.execSnpinv s
  | .snpshr => Sys2Proof.Machine.execSnpshr s
  | .snpcur => Sys2Proof.Machine.execSnpcur s
  | .backinv => Sys2Proof.Machine.execBackinv s
  | .snoopAnswer => Sys2Proof.Machine.execSnoopAnswer s
  | .wback => Sys2Proof.Machine.execWback s
  | .retry => Sys2Proof.Machine.execRetry s
  | .coreCapacityTimeout => Sys2Proof.Machine.execCoreCapacityTimeout s
  | .engineCapacityTimeout => Sys2Proof.Machine.execEngineCapacityTimeout s
  | .regr => Sys2Proof.Machine.execRegr s
  | .regw => Sys2Proof.Machine.execRegw s
  | .directorySweep => Sys2Proof.Machine.execDirectorySweep s
  | .hotTablePeriodEnd => Sys2Proof.Machine.execHotTablePeriodEnd s
  | .migrationSwitch => Sys2Proof.Machine.execMigrationSwitch s
  | .migrationWindowEnd => Sys2Proof.Machine.execMigrationWindowEnd s
  | .atsInvalidation => Sys2Proof.Machine.execAtsInvalidation s
  | .finzonPortChange => Sys2Proof.Machine.execFinzonPortChange s
  | .finzonPut => Sys2Proof.Machine.execFinzonPut s
  | .finzonGet => Sys2Proof.Machine.execFinzonGet s
  | .finzonGetData => Sys2Proof.Machine.execFinzonGetData s
  | .finzonAtomic => Sys2Proof.Machine.execFinzonAtomic s
  | .finzonAtomicResult => Sys2Proof.Machine.execFinzonAtomicResult s
  | .finzonAck => Sys2Proof.Machine.execFinzonAck s
  | .finzonNak => Sys2Proof.Machine.execFinzonNak s
  | .finzonCollective => Sys2Proof.Machine.execFinzonCollective s
  | .finzonTransit => Sys2Proof.Machine.execFinzonTransit s
  | .finzonResendTimeout => Sys2Proof.Machine.execFinzonResendTimeout s
  | .minorFrame => Sys2Proof.Machine.execMinorFrame s
  | .kernel => Sys2Proof.Machine.execKernel s
  | .barrierAnd => Sys2Proof.Machine.execBarrierAnd s
  | .barrierOr => Sys2Proof.Machine.execBarrierOr s
  | .copy => Sys2Proof.Machine.execCopy s
  | .signal => Sys2Proof.Machine.execSignal s
  | .plan => Sys2Proof.Machine.execPlan s
  | .gridComplete => Sys2Proof.Machine.execGridComplete s
  | .queueEnable => Sys2Proof.Machine.execQueueEnable s
  | .queueDisable => Sys2Proof.Machine.execQueueDisable s
  | .queueReset => Sys2Proof.Machine.execQueueReset s
  | .hostWindowWrite => Sys2Proof.Machine.execHostWindowWrite s
  | .landingTimeout => Sys2Proof.Machine.execLandingTimeout s
  | .nwake => Sys2Proof.Machine.execNwake s
  | .fwpatchGo => Sys2Proof.Machine.execFwpatchGo s
  | .fwpatchCancel => Sys2Proof.Machine.execFwpatchCancel s
  | .patchApply => Sys2Proof.Machine.execPatchApply s
  | .attOpen => Sys2Proof.Machine.execAttOpen s
  | .attQuote => Sys2Proof.Machine.execAttQuote s
  | .attClose => Sys2Proof.Machine.execAttClose s
  | .recBegin => Sys2Proof.Machine.execRecBegin s
  | .recPiece => Sys2Proof.Machine.execRecPiece s
  | .recEnd => Sys2Proof.Machine.execRecEnd s
  | .mbcmdReserved => Sys2Proof.Machine.execMbcmdReserved s
  | .tlbiGo => Sys2Proof.Machine.execTlbiGo s
  | .save => Sys2Proof.Machine.execSave s
  | .restore => Sys2Proof.Machine.execRestore s
  | .resume => Sys2Proof.Machine.execResume s
  | .registerWrite => Sys2Proof.Machine.execRegisterWrite s
  | .teamPlacement => Sys2Proof.Machine.execTeamPlacement s
  | .contextSwitch => Sys2Proof.Machine.execContextSwitch s
  | .contextTakeRecord => Sys2Proof.Machine.execContextTakeRecord s
  | .eviction => Sys2Proof.Machine.execEviction s
  | .waitSatisfied => Sys2Proof.Machine.execWaitSatisfied s
  | .signalWaitRepoll => Sys2Proof.Machine.execSignalWaitRepoll s
  | .balanceExchange => Sys2Proof.Machine.execBalanceExchange s
  | .quantumBoundary => Sys2Proof.Machine.execQuantumBoundary s
  | .replayReady => Sys2Proof.Machine.execReplayReady s
  | .bundleIssue => Sys2Proof.Machine.execBundleIssue s
  | .resultWriteback => Sys2Proof.Machine.execResultWriteback s
  | .interlockArrival => Sys2Proof.Machine.execInterlockArrival s
  | .splitDrainEnd => Sys2Proof.Machine.execSplitDrainEnd s
  | .jobCardEntry => Sys2Proof.Machine.execJobCardEntry s
  | .jobDispatch => Sys2Proof.Machine.execJobDispatch s
  | .engineCopy => Sys2Proof.Machine.execEngineCopy s
  | .engineGather => Sys2Proof.Machine.execEngineGather s
  | .engineScatter => Sys2Proof.Machine.execEngineScatter s
  | .engineFill => Sys2Proof.Machine.execEngineFill s
  | .engineExpand => Sys2Proof.Machine.execEngineExpand s
  | .engineSeal => Sys2Proof.Machine.execEngineSeal s
  | .engineGalleryLoad => Sys2Proof.Machine.execEngineGalleryLoad s
  | .engineCollective => Sys2Proof.Machine.execEngineCollective s
  | .engineCheckpoint => Sys2Proof.Machine.execEngineCheckpoint s
  | .engineRestore => Sys2Proof.Machine.execEngineRestore s
  | .engineRemoteAtomic => Sys2Proof.Machine.execEngineRemoteAtomic s
  | .plannedMatrixWork => Sys2Proof.Machine.execPlannedMatrixWork s
  | .jobComplete => Sys2Proof.Machine.execJobComplete s
  | .sealComplete => Sys2Proof.Machine.execSealComplete s
  | .matrixCommandComplete => Sys2Proof.Machine.execMatrixCommandComplete s
  | .planningEnd => Sys2Proof.Machine.execPlanningEnd s
  | .planBreak => Sys2Proof.Machine.execPlanBreak s
  | .planComplete => Sys2Proof.Machine.execPlanComplete s
  | .dataToRequester => Sys2Proof.Machine.execDataToRequester s
  | .registrationAnswer => Sys2Proof.Machine.execRegistrationAnswer s
  | .dieLinkRetry => Sys2Proof.Machine.execDieLinkRetry s
  | .finzonReservedType => Sys2Proof.Machine.execFinzonReservedType s
  | .hostLinkTraining => Sys2Proof.Machine.execHostLinkTraining s

end Sys2Proof.Machine
end

