-- ==== Sys2Proof/Machine/Place.lean ====
section
/-! DEFINITION. A bundle placed where core 0 fetches next: what `withFetchWord` sets. It stands for a launched grid whose first
segment holds that bundle (log entry 2). -/

namespace Sys2Proof.Machine

/-- A grid of one team of one thread. -/
def Grid.placed : Grid where
  dctx := 0
  q := 0
  hwq := 0
  img := 0
  args := 0
  teams := 1
  threads := 1
  spad := 4
  gal := 8
  claim := 3
  tsrt := 0
  spillBase := 0
  qnt := 20
  csig := 0xFFFFFFFF
  sys := false
  pool := 0
  poolUnits := 0
  haltedTeams := 0
  killed := none
  plan := none
  boundary := 0
  pkt := 0
  slot := 0

/-- The context fetches and issues: nothing stands before its next bundle. -/
def Ctx.fetching (c : Ctx) (va : Nat) : Ctx :=
  { c with
    phase := .running, recVa := va, wait := none, deferred := none, async := [], replayAt := none, stall := none
    leaving := none, stopping := false, halting := false, rereserve := none, copyWait := none, reacquire := none, long := [] }

/-- The bank sealed with one bundle at every index that the context may name. -/
def Bank.placed (b : Bank) (seg : Nat) : Bank :=
  { b with
    loaded := true, dctx := 0, table := 0, seg := seg, nb := 2048, nh := 0, next := 0xFFFF, nseg := seg + 1, isSealed := true
    loading := none, failure := none, queue := [], watch := [] }

/-- The record, team and grid of the thread on core 0, context 0. -/
def State.withThread (s : State) (seg bix : Nat) : State :=
  { s with
    recs := [{ Rec.fresh 64 0 0 0 0 with
                seg := seg, bix := bix, st := .running, started := true, onCtx := some 0, frame := 0 }]
    teams := [{ Team.fresh 0 0 with core := some 0, placed := true }]
    grids := [(0, Grid.placed)] }

/-- The part runs: bring-up is complete and no die is stopped. -/
def State.awake (s : State) : State :=
  { s with
    power := { s.power with bringup := 7, failedStep := none, fatal := false, d3hot := false }
    dies := s.dies.set 0 { s.dieAt 0 with tripped := false } (by decide)
    agenda := [], timers := s.timers.filter (fun t => decide (s.now < t.1)), issued := false, latched := [], ctlOld := [] }

/-- Bundle `b` stored at the fetch point of core 0, context 0, which runs. -/
def State.place (s : State) (b : Block) : State :=
  let bix := (s.ctxAt 0 0).bix % 4096
  let bank : Fin 2 := ⟨bix / 2048 % 2, Nat.mod_lt _ (by decide)⟩
  let seg := (s.ctxAt 0 0).seg
  let s := (s.awake.withThread seg bix).modCoreAt 0 fun k =>
    { k with
      ctxs := k.ctxs.set 0 { (k.ctxs.get 0).fetching 64 with bix := bix } (by decide)
      running := some 0
      drain := none
      banks := k.banks.set bank.val ((k.banks.get bank).placed seg) bank.isLt
      bundles := tset k.bundles bix b 0 }
  { s with busy := [0] }

end Sys2Proof.Machine
end

