-- ==== Sys2Proof/Machine/Step.lean ====
section
/-! DEFINITION. One step of the part: the next event, and when that event issues a bundle, the bundle's operations in slot order and
the write-back that ends the issue cycle (08 R194, R195). -/

namespace Sys2Proof.Machine

/-- The operations of the bundle at issue, then the end of the issue cycle. -/
def runLatched : List Latched → State → Host.Outcome State Fault Refusal
  | [], s => exec .resultWriteback s
  | l :: rest, s =>
    match exec l.op { s with curWord := l.word } with
    | .next t => runLatched rest t
    | o => o

/-- The rest of a step after its event; the records written in it then stand in memory (06 R141). -/
def finishStep (s : State) : Host.Outcome State Fault Refusal :=
  match (if s.issued then runLatched s.latched s else .next s) with
  | .next t => .next t.recordsOut
  | o => o

def step (s : State) : Host.Outcome State Fault Refusal :=
  let e := s.nextEvent
  match exec e.1 { e.2.2 with arg := e.2.1 } with
  | .next t => finishStep t
  | o => o

/-- The state with the bundle of bits `w` placed where the next step fetches. -/
def State.withFetchWord (s : State) (_nbits w : Nat) : State := s.place (BitVec.ofNat 512 w)

end Sys2Proof.Machine
end

