-- ==== Sys2Proof/Safety.lean ====
section
/-! DEFINITION. What a safe run is: no step of it stops. -/

namespace Sys2Proof.Safety

/-- A state from which `k` steps all answer a next state. -/
def SafeFor (k : Nat) (s : Machine.State) : Prop :=
  match k with
  | 0 => True
  | k + 1 => ∃ t, Machine.step s = .next t ∧ SafeFor k t

/-- A state from which every run goes on for ever. -/
def Safe (s : Machine.State) : Prop := ∀ k, SafeFor k s

end Sys2Proof.Safety
end

