-- ==== Sys2Proof/Certificates/Slice0/Obligations.lean ====
section
/-! DEFINITION. The statements for the provers. A statement says of an instruction or an event what the rules of the manual say of
it: the state that `exec` answers, for every state and operands that meet its hypotheses, and what stays as it was. A statement of
several clauses is assembled at the end from its clauses. -/

set_option Elab.async false

namespace Sys2Proof.Claims

open Sys2Proof.Machine

/-! ## Words that the statements share -/

/-- A fixed-latency result has been sent on its way and can be named through a latch (08 R195, R201); all else stands. -/
def sent (s : State) (slot lat : Nat) (d : Dest) (ws : Bool) (data mask : VReg) (degen : Option Degen) : State :=
  s.modCtx fun c => { c with
    pipe := c.pipe ++ [⟨slot, lat, lat, d, ws, data, mask, degen⟩]
    latches := c.latches ++ [⟨slot, 0, lat, data⟩] }

/-- A scalar or mask result: 64 bits, zero-filled. -/
def sent64 (s : State) (slot lat : Nat) (d : Dest) (ws : Bool) (x : Word) : State :=
  sent s slot lat d ws (BitVec.ofNat 2048 x.toNat) (BitVec.allOnes 2048) none

/-- A result of the scalar slot for register `d`. -/
def sentS (s : State) (lat : Nat) (d : Opnd) (ws : Bool) (x : Word) : State := sent64 s 0 lat (.s d) ws x

/-- A push onto the condition queue is on its way (08 R202); it can be named through no latch. -/
def pushed (s : State) (slot lat : Nat) (b : Bool) : State :=
  s.modCtx fun c => { c with
    pipe := c.pipe ++ [⟨slot, lat, lat, .cq, false, BitVec.ofNat 2048 b.toNat, BitVec.allOnes 2048, none⟩] }

/-- The bundle at issue has issued, or nothing stands in the way of this operation of it. -/
def Clear (check : State → Check) (s : State) : Prop := s.issued = true ∨ check s = .go

/-- Pushes in flight and entries leave room for one more (08 R204). -/
def RoomToPush (s : State) : Prop := s.issued = true ∨ s.ctx.cq.length + (s.ctx.pipe.filter fun r => r.dest == .cq).length < 16

/-- A vector result of `n` elements of `w` bits: element `i` is `f i` where `on i` holds, zero elsewhere; the destination keeps
its disabled elements and takes zeros above the last element (14 R331, R336). -/
def VecResult (s t : State) (sl : VSlot) (lat : Nat) (ws : Bool) (d : Opnd) (w n : Nat) (on : Nat → Bool) (f : Nat → Nat) : Prop :=
  ∃ data mask : VReg, t = sent s (slotNum sl) lat (.v d) ws data mask none ∧
    (∀ i < n, elemN w data.toNat i = if on i then f i % 2 ^ w else 0) ∧
    (∀ b < 2048, mask.getLsbD b = if b < w * n then on (b / w) else true) ∧
    (∀ b, w * n ≤ b → data.getLsbD b = false)

/-- A result lane by lane under a predicate mask. -/
def LaneResult (s t : State) (sl : VSlot) (lat : Nat) (ws : Bool) (d : Opnd) (mk : BitVec 3) (f : Nat → Nat) : Prop :=
  VecResult s t sl lat ws d 32 64 (fun i => (s.ctx.pred mk).getLsbD i) f

/-- A result element by element under a lane type: the mask bit of the lane governs its elements. -/
def TyResult (s t : State) (sl : VSlot) (lat : Nat) (ws : Bool) (d : Opnd) (mk : BitVec 3) (w : Nat) (f : Nat → Nat) : Prop :=
  VecResult s t sl lat ws d w (2048 / w) (fun i => (s.ctx.pred mk).getLsbD (w * i / 32)) f

/-- Element `i` of `w` bits of a vector operand, and lane `i`. -/
def el (s : State) (o : Opnd) (w i : Nat) : Nat := (s.ctx.vGet o).toNat / 2 ^ (w * i) % 2 ^ w
def lane (s : State) (o : Opnd) (i : Nat) : Nat := el s o 32 i

/-- The same read in two's complement. -/
def elS (s : State) (o : Opnd) (w i : Nat) : Int := (BitVec.ofNat w (el s o w i)).toInt

/-- The integer lane types and their element width; the float ones and their format (14 R329). -/
def intTy (ty : BitVec 4) : Prop := ty = 0 ∨ ty = 1 ∨ ty = 3 ∨ ty = 4
def widthOf (ty : BitVec 4) : Nat := if ty = 0 ∨ ty = 1 ∨ ty = 2 then 32 else 16
def floatTy (ty : BitVec 4) (F : Flt) : Prop := (ty = 2 ∧ F = f32) ∨ (ty = 5 ∧ F = f16) ∨ (ty = 6 ∧ F = bf16)

/-- An integer reduced modulo 2^w. -/
def wrapped (w : Nat) (x : Int) : Nat := (x % (2 ^ w : Nat)).toNat

/-- A vector float result under the rounding mode and FTZ in force (14 R332). -/
def fres (s : State) (F : Flt) (x : Machine.Num) : Nat := flush F s.ftzNow (rnd F s.rmNow x)

/-- The region of the issuing agent has closed: its epoch has risen by one (03 R72). -/
def closed (s t : State) : Prop := getIdx t.mem.epochs s.curAgent 0 = getIdx s.mem.epochs s.curAgent 0 + 1

/-- Two contexts agree but for the control registers that `s.setc` writes. -/
def controlsOnly (c c' : Ctx) : Prop :=
  c' = { c with
    rm := c'.rm
    ftz := c'.ftz
    atb := c'.atb
    rpln := c'.rpln
    leaveStall := c'.leaveStall
    subst := c'.subst
    gateDegen := c'.gateDegen
    evl := c'.evl
    hp := c'.hp }

/-- The opcode under which an operation is encoded: bits 52:45 of its slot (12 R283). -/
def opcode (i : Instr) : Nat := ((encode 0 i).extractLsb' 45 8).toNat

/-- The winners of the group of lane `i` (14 R342). -/
def wins (s : State) (a b : Opnd) (mk : BitVec 3) (gt : Nat → Nat → Prop) [∀ x y, Decidable (gt x y)] (g : Nat) : List Nat :=
  ((List.range 64).filter fun i => i / 16 == g && (s.ctx.pred mk).getLsbD i && decide (gt (lane s a i) (lane s b (16 * g))))

end Sys2Proof.Claims

open Sys2Proof Sys2Proof.Machine Sys2Proof.Claims

/-! ## Scalar slot (13) -/

/-- 13 R312: sums, products, quotients and remainders, each modulo 2^64, at their latencies (08 R198). -/
def Sys2Proof.Claims.ScalarArithmetic : Prop :=
  ∀ (s : State) (ws : Bool) (d a b : Opnd) (imm : BitVec 14),
    let x := s.ctx.sGet a
    let y := s.ctx.sGet b
    let k := imm.toInt
    exec (.sAddReg ws d a b) s = .next (sentS s 1 d ws (BitVec.ofInt 64 (x.toInt + y.toInt))) ∧
    exec (.sAddImm ws d a imm) s = .next (sentS s 1 d ws (BitVec.ofInt 64 (x.toInt + k))) ∧
    exec (.sSub ws d a b) s = .next (sentS s 1 d ws (BitVec.ofInt 64 (x.toInt - y.toInt))) ∧
    exec (.sMulReg ws d a b) s = .next (sentS s 3 d ws (BitVec.ofInt 64 (x.toInt * y.toInt))) ∧
    exec (.sMulImm ws d a imm) s = .next (sentS s 3 d ws (BitVec.ofInt 64 (x.toInt * k))) ∧
    exec (.sMulh ws d a b) s = .next (sentS s 3 d ws (BitVec.ofInt 64 (x.toInt * y.toInt / 2 ^ 64))) ∧
    exec (.sDiv ws d a b) s =
      .next (sentS s 6 d ws (BitVec.ofInt 64 (if y = 0 then -1 else x.toInt.tdiv y.toInt))) ∧
    exec (.sRem ws d a b) s =
      .next (sentS s 6 d ws (BitVec.ofInt 64 (if y = 0 then x.toInt else x.toInt.tmod y.toInt))) ∧
    [Instr.sAddReg ws d a b, .sAddImm ws d a imm, .sSub ws d a b, .sMulReg ws d a b, .sMulImm ws d a imm, .sMulh ws d a b,
      .sDiv ws d a b, .sRem ws d a b].map opcode = [0x01, 0x11, 0x02, 0x03, 0x13, 0x04, 0x05, 0x06]

/-- 13 R312: bitwise operations, shifts (register counts b[5:0], immediate counts 0 gives 63) and signed minimum and maximum. -/
def Sys2Proof.Claims.ScalarLogicShiftsMinMax : Prop :=
  ∀ (s : State) (ws : Bool) (d a b : Opnd) (imm : BitVec 14) (n : BitVec 6),
    let x := s.ctx.sGet a
    let y := s.ctx.sGet b
    let c := y.toNat % 64
    let k : Word := BitVec.ofInt 64 imm.toInt
    let gives (i : Instr) (v : Word) : Prop := exec i s = .next (sentS s 1 d ws v)
    gives (.sAndReg ws d a b) (x &&& y) ∧ gives (.sAndImm ws d a imm) (x &&& k) ∧
    gives (.sOrReg ws d a b) (x ||| y) ∧ gives (.sOrImm ws d a imm) (x ||| k) ∧
    gives (.sXorReg ws d a b) (x ^^^ y) ∧ gives (.sXorImm ws d a imm) (x ^^^ k) ∧
    gives (.sShlReg ws d a b) (BitVec.ofNat 64 (x.toNat * 2 ^ c)) ∧
    gives (.sShlImm ws d a n) (BitVec.ofNat 64 (x.toNat * 2 ^ n.toNat)) ∧
    gives (.sShrReg ws d a b) (BitVec.ofNat 64 (x.toNat / 2 ^ c)) ∧
    gives (.sShrImm ws d a n) (BitVec.ofNat 64 (x.toNat / 2 ^ n.toNat)) ∧
    gives (.sSarReg ws d a b) (BitVec.ofInt 64 (x.toInt / 2 ^ c)) ∧
    gives (.sSarImm ws d a n) (BitVec.ofInt 64 (x.toInt / 2 ^ n.toNat)) ∧
    gives (.sMinReg ws d a b) (BitVec.ofInt 64 (min x.toInt y.toInt)) ∧
    gives (.sMinImm ws d a imm) (BitVec.ofInt 64 (min x.toInt imm.toInt)) ∧
    gives (.sMaxReg ws d a b) (BitVec.ofInt 64 (max x.toInt y.toInt)) ∧
    gives (.sMaxImm ws d a imm) (BitVec.ofInt 64 (max x.toInt imm.toInt)) ∧
    [Instr.sAndReg ws d a b, .sOrReg ws d a b, .sXorReg ws d a b, .sShlReg ws d a b, .sShrReg ws d a b, .sSarReg ws d a b,
      .sMinReg ws d a b, .sMaxReg ws d a b].map opcode = [0x07, 0x08, 0x09, 0x0A, 0x0B, 0x0C, 0x0D, 0x0E] ∧
    [Instr.sAndImm ws d a imm, .sOrImm ws d a imm, .sXorImm ws d a imm, .sShlImm ws d a n, .sShrImm ws d a n, .sSarImm ws d a n,
      .sMinImm ws d a imm, .sMaxImm ws d a imm].map opcode = [0x17, 0x18, 0x19, 0x1A, 0x1B, 0x1C, 0x1D, 0x1E]

/-- 13 R313: select, the two halves of a constant, and the scaled sum. -/
def Sys2Proof.Claims.ScalarSelectConstants : Prop :=
  ∀ (s : State) (ws : Bool) (d a b c : Opnd) (lo : BitVec 34) (hi : BitVec 30) (sh : BitVec 3),
    exec (.sSel ws d a b c) s =
      .next (sentS s 1 d ws (if s.ctx.sGet c = 0 then s.ctx.sGet b else s.ctx.sGet a)) ∧
    exec (.sLi ws d lo) s = .next (sentS s 1 d ws (BitVec.ofInt 64 lo.toInt)) ∧
    exec (.sLih ws d hi) s =
      .next (sentS s 1 d ws (BitVec.ofNat 64 (hi.toNat * 2 ^ 34 + (s.ctx.sGet d).toNat % 2 ^ 34))) ∧
    exec (.sAddsc ws d a b sh) s =
      .next (sentS s 1 d ws (BitVec.ofNat 64 ((s.ctx.sGet a).toNat + (s.ctx.sGet b).toNat * 2 ^ sh.toNat))) ∧
    [Instr.sSel ws d a b c, .sLi ws d lo, .sLih ws d hi, .sAddsc ws d a b sh].map opcode = [0x0F, 0x20, 0x21, 0x22]

/-- 13 R315: what `s.setc` stores in each control register, what it leaves alone, and that the operations of its own bundle
still read the old value. A write of ATB also moves the thread's frame (22 R430), which lies in its record. -/
def Sys2Proof.Claims.ControlRegisterWrite : Prop :=
  ∀ (s : State) (a : Opnd) (n : BitVec 4), n.toNat ≤ 7 →
    ∃ t, exec (.sSetc a n) s = .next t ∧
      (let x := s.ctx.sGet a
       let c := t.ctx
       (n = 0 → c.rm.toNat = (if 5 ≤ x.toNat / 32 % 8 then 0 else x.toNat / 32 % 8) ∧ c.ftz = x.getLsbD 4) ∧
       (n = 1 → c.atb.toNat = x.toNat % 2 ^ 56 / 64 * 64) ∧
       (n = 2 → c.rpln.toNat = min (x.toNat % 16) 8) ∧
       (n = 3 → c.leaveStall.toNat = x.toNat % 2 ^ 48) ∧
       (n = 4 → c.subst.toNat = x.toNat % 2 ^ 48) ∧
       (n = 5 → c.gateDegen.toNat = x.toNat % 2 ^ 48) ∧
       (n = 6 → c.evl.toNat = x.toNat % 2 ^ 16) ∧
       (n = 7 → c.hp.toNat = x.toNat % 2048)) ∧
      (∀ m, t.ctlRead m = s.ctlRead m) ∧
      controlsOnly s.ctx t.ctx ∧
      (∀ m, m ≠ n.toNat → t.ctx.ctl m = s.ctx.ctl m) ∧
      t.mem = s.mem ∧ (n ≠ 1 → t.recs = s.recs)

/-- 13 R315, 08 R194: `s.getc` copies a control register as the bundle found it, at latency 1; `ctlOld` holds, the latest first, what the
bundle found of the registers that it has changed. -/
def Sys2Proof.Claims.ControlRegisterRead : Prop :=
  ∀ (s : State) (ws : Bool) (d : Opnd) (n : BitVec 4),
    ((∀ p ∈ s.ctlOld, p.1 ≠ n.toNat) → exec (.sGetc ws d n) s = .next (sentS s 1 d ws (s.ctx.ctl n.toNat))) ∧
    (∀ l r x, s.ctlOld = l ++ (n.toNat, x) :: r → (∀ p ∈ l, p.1 ≠ n.toNat) → exec (.sGetc ws d n) s = .next (sentS s 1 d ws x))

/-- 13 R314, 08 R204: every compare pushes 1 exactly when its relation holds, at latency 1, where there is room; where count and
pushes in flight make 16 its bundle takes CQ_OVERFLOW, cause 3. -/
def Obligations.ComparesPush : Prop :=
  ∀ (s : State) (a b : Opnd) (imm : BitVec 14),
    let x := s.ctx.sGet a
    let y := s.ctx.sGet b
    let k : Word := BitVec.ofInt 64 imm.toInt
    let ok (i : Instr) (v : Bool) : Prop := exec i s = .next (pushed s 0 1 v)
    let full (i : Instr) : Prop := exec i s = .next (s.takeTrap 3 0)
    (RoomToPush s →
      ok (.sCmpEqReg a b) (x.toInt == y.toInt) ∧ ok (.sCmpEqImm a imm) (x.toInt == imm.toInt) ∧
      ok (.sCmpNeReg a b) (x.toInt != y.toInt) ∧ ok (.sCmpNeImm a imm) (x.toInt != imm.toInt) ∧
      ok (.sCmpLtReg a b) (decide (x.toInt < y.toInt)) ∧ ok (.sCmpLtImm a imm) (decide (x.toInt < imm.toInt)) ∧
      ok (.sCmpLeReg a b) (decide (x.toInt ≤ y.toInt)) ∧ ok (.sCmpLeImm a imm) (decide (x.toInt ≤ imm.toInt)) ∧
      ok (.sCmpGtReg a b) (decide (y.toInt < x.toInt)) ∧ ok (.sCmpGtImm a imm) (decide (imm.toInt < x.toInt)) ∧
      ok (.sCmpGeReg a b) (decide (y.toInt ≤ x.toInt)) ∧ ok (.sCmpGeImm a imm) (decide (imm.toInt ≤ x.toInt)) ∧
      ok (.sCmpLtuReg a b) (decide (x.toNat < y.toNat)) ∧ ok (.sCmpLtuImm a imm) (decide (x.toNat < k.toNat)) ∧
      ok (.sCmpLeuReg a b) (decide (x.toNat ≤ y.toNat)) ∧ ok (.sCmpLeuImm a imm) (decide (x.toNat ≤ k.toNat)) ∧
      ok (.sCmpGtuReg a b) (decide (y.toNat < x.toNat)) ∧ ok (.sCmpGtuImm a imm) (decide (k.toNat < x.toNat)) ∧
      ok (.sCmpGeuReg a b) (decide (y.toNat ≤ x.toNat)) ∧ ok (.sCmpGeuImm a imm) (decide (k.toNat ≤ x.toNat))) ∧
    (¬ RoomToPush s →
      full (.sCmpEqReg a b) ∧ full (.sCmpEqImm a imm) ∧ full (.sCmpNeReg a b) ∧ full (.sCmpNeImm a imm) ∧ full (.sCmpLtReg a b) ∧
      full (.sCmpLtImm a imm) ∧ full (.sCmpLeReg a b) ∧ full (.sCmpLeImm a imm) ∧ full (.sCmpGtReg a b) ∧ full (.sCmpGtImm a imm) ∧
      full (.sCmpGeReg a b) ∧ full (.sCmpGeImm a imm) ∧ full (.sCmpLtuReg a b) ∧ full (.sCmpLtuImm a imm) ∧
      full (.sCmpLeuReg a b) ∧ full (.sCmpLeuImm a imm) ∧ full (.sCmpGtuReg a b) ∧ full (.sCmpGtuImm a imm) ∧
      full (.sCmpGeuReg a b) ∧ full (.sCmpGeuImm a imm)) ∧
    [Instr.sCmpEqReg a b, .sCmpNeReg a b, .sCmpLtReg a b, .sCmpLeReg a b, .sCmpGtReg a b, .sCmpGeReg a b, .sCmpLtuReg a b,
      .sCmpLeuReg a b, .sCmpGtuReg a b, .sCmpGeuReg a b].map opcode = (List.range 10).map (0x30 + ·) ∧
    [Instr.sCmpEqImm a imm, .sCmpNeImm a imm, .sCmpLtImm a imm, .sCmpLeImm a imm, .sCmpGtImm a imm, .sCmpGeImm a imm,
      .sCmpLtuImm a imm, .sCmpLeuImm a imm, .sCmpGtuImm a imm, .sCmpGeuImm a imm].map opcode = (List.range 10).map (0x40 + ·)

/-- 14 R335, 08 R204: the votes push at latency 2. -/
def Sys2Proof.Claims.MaskVotesPush : Prop :=
  ∀ (s : State) (sl : VSlot) (a : Opnd),
    (RoomToPush s →
      (∃ b, exec (.vAny sl a) s = .next (pushed s (slotNum sl) 2 b) ∧ (b = true ↔ ∃ i < 64, (s.ctx.kGet a).getLsbD i = true)) ∧
      (∃ b, exec (.vAll sl a) s = .next (pushed s (slotNum sl) 2 b) ∧ (b = true ↔ ∀ i < 64, (s.ctx.kGet a).getLsbD i = true))) ∧
    (¬ RoomToPush s → exec (.vAny sl a) s = .next (s.takeTrap 3 0) ∧ exec (.vAll sl a) s = .next (s.takeTrap 3 0))

/-! ## Vector slots (14) -/

/-- 14 R333: integer elements wrap and never saturate; minimum and maximum follow the signedness of TY. -/
def Obligations.VectorIntegerArithmetic : Prop :=
  ∀ (s : State) (sl : VSlot) (ws : Bool) (d a b : Opnd) (mk : BitVec 3) (ty : BitVec 4), intTy ty →
    let w := widthOf ty
    let gives (i : Instr) (f : Nat → Nat) : Prop := ∃ t, exec i s = .next t ∧ TyResult s t sl 2 ws d mk w f
    let below (i : Nat) : Prop :=
      if ty = 0 ∨ ty = 3 then elS s a w i < elS s b w i else el s a w i < el s b w i
    gives (.vAdd sl ws d a b mk ty) (fun i => wrapped w (elS s a w i + elS s b w i)) ∧
    gives (.vSub sl ws d a b mk ty) (fun i => wrapped w (elS s a w i - elS s b w i)) ∧
    gives (.vMul sl ws d a b mk ty) (fun i => wrapped w (elS s a w i * elS s b w i)) ∧
    (∃ f, gives (.vMin sl ws d a b mk ty) f ∧ ∀ i, (below i → f i = el s a w i) ∧ (¬ below i → f i = el s b w i)) ∧
    (∃ f, gives (.vMax sl ws d a b mk ty) f ∧ ∀ i, (below i → f i = el s b w i) ∧ (¬ below i → f i = el s a w i)) ∧
    (ty = 0 ∨ ty = 3 → gives (.vAbs sl ws d a mk ty) (fun i => (elS s a w i).natAbs))

/-- 14 R332 to R334: float elements are exact and rounded once under SW.RM, then flushed under FTZ; minimum and maximum are the
selection of R333; the absolute value clears the sign bit and makes a NaN canonical. -/
def Obligations.VectorFloatArithmetic : Prop :=
  ∀ (s : State) (sl : VSlot) (ws : Bool) (d a b : Opnd) (mk : BitVec 3) (ty : BitVec 4) (F : Flt), floatTy ty F →
    let w := F.bits
    let x (i : Nat) := F.val (el s a w i)
    let y (i : Nat) := F.val (el s b w i)
    let gives (lat : Nat) (i : Instr) (f : Nat → Nat) : Prop := ∃ t, exec i s = .next t ∧ TyResult s t sl lat ws d mk w f
    gives 4 (.vAdd sl ws d a b mk ty) (fun i => fres s F (Machine.Num.add s.rmNow (x i) (y i))) ∧
    gives 4 (.vSub sl ws d a b mk ty) (fun i => fres s F (Machine.Num.add s.rmNow (x i) (y i).neg)) ∧
    gives 5 (.vMul sl ws d a b mk ty) (fun i => fres s F (Machine.Num.mul (x i) (y i))) ∧
    gives 5 (.vFma sl ws d a b mk ty) (fun i => fres s F (Machine.Num.add s.rmNow (Machine.Num.mul (x i) (y i)) (F.val (el s d w i)))) ∧
    gives 4 (.vMin sl ws d a b mk ty) (fun i => flush F s.ftzNow (fltMinMax F false (el s a w i) (el s b w i))) ∧
    gives 4 (.vMax sl ws d a b mk ty) (fun i => flush F s.ftzNow (fltMinMax F true (el s a w i) (el s b w i))) ∧
    gives 4 (.vAbs sl ws d a mk ty) (fun i =>
      if (x i).isNan then F.cnan else flush F s.ftzNow (el s a w i % 2 ^ (w - 1)))

/-- 14 R335: bitwise operations over the lanes. -/
def Sys2Proof.Claims.VectorBitwise : Prop :=
  ∀ (s : State) (sl : VSlot) (ws : Bool) (d a b : Opnd) (mk : BitVec 3),
    let gives (i : Instr) (f : Nat → Nat) : Prop := ∃ t, exec i s = .next t ∧ LaneResult s t sl 2 ws d mk f
    gives (.vAnd sl ws d a b mk) (fun i => lane s a i &&& lane s b i) ∧
    gives (.vOr sl ws d a b mk) (fun i => lane s a i ||| lane s b i) ∧
    gives (.vXor sl ws d a b mk) (fun i => lane s a i ^^^ lane s b i)

/-- 14 R335: shifts by bits 5:0 of the same element of b, or by one count; a count at or above the width gives 0, or the sign. -/
def Sys2Proof.Claims.VectorShifts : Prop :=
  ∀ (s : State) (sl : VSlot) (ws : Bool) (d a b : Opnd) (mk : BitVec 3) (n : BitVec 6) (ty : BitVec 4), intTy ty →
    let w := widthOf ty
    let gives (i : Instr) (f : Nat → Nat) : Prop := ∃ t, exec i s = .next t ∧ TyResult s t sl 2 ws d mk w f
    let c (i : Nat) : Nat := el s b w i % 64
    gives (.vShlVec sl ws d a b mk ty) (fun i => el s a w i * 2 ^ c i) ∧
    gives (.vShrVec sl ws d a b mk ty) (fun i => el s a w i / 2 ^ c i) ∧
    gives (.vSarVec sl ws d a b mk ty) (fun i => wrapped w (elS s a w i / 2 ^ c i)) ∧
    gives (.vShlImm sl ws d a mk n ty) (fun i => el s a w i * 2 ^ n.toNat) ∧
    gives (.vShrImm sl ws d a mk n ty) (fun i => el s a w i / 2 ^ n.toNat) ∧
    gives (.vSarImm sl ws d a mk n ty) (fun i => wrapped w (elS s a w i / 2 ^ n.toNat))

/-- 14 R335: bit i of the mask is set when lane i is enabled and the relation holds; signed for TY 0, unsigned for TY 1, IEEE 754
for TY 2. -/
def Sys2Proof.Claims.VectorCompares : Prop :=
  ∀ (s : State) (sl : VSlot) (ws : Bool) (d a b : Opnd) (mk : BitVec 3) (ty : BitVec 4), ty = 0 ∨ ty = 1 ∨ ty = 2 →
    let x (i : Nat) : Machine.Num := if ty = 0 then Machine.Num.ofInt (elS s a 32 i) else if ty = 1 then Machine.Num.ofInt (lane s a i) else f32.val (lane s a i)
    let y (i : Nat) : Machine.Num := if ty = 0 then Machine.Num.ofInt (elS s b 32 i) else if ty = 1 then Machine.Num.ofInt (lane s b i) else f32.val (lane s b i)
    let gives (i : Instr) (rel : Machine.Num → Machine.Num → Bool) : Prop :=
      ∃ m : Word, exec i s = .next (sent64 s (slotNum sl) 2 (.k d) ws m) ∧
        ∀ j < 64, m.getLsbD j = ((s.ctx.pred mk).getLsbD j && rel (x j) (y j))
    gives (.vCmpEq sl ws d a b mk ty) (Machine.Num.rel 0) ∧ gives (.vCmpNe sl ws d a b mk ty) (Machine.Num.rel 1) ∧
    gives (.vCmpLt sl ws d a b mk ty) (Machine.Num.rel 2) ∧ gives (.vCmpLe sl ws d a b mk ty) (Machine.Num.rel 3) ∧
    gives (.vCmpGt sl ws d a b mk ty) (Machine.Num.rel 4) ∧ gives (.vCmpGe sl ws d a b mk ty) (Machine.Num.rel 5)

/-- 14 R336, R337: 64 elements converted, or requantised with the parameters of two registers; the mask governs elements. -/
def Obligations.VectorConversions : Prop :=
  ∀ (s : State) (sl : VSlot) (ws : Bool) (d a b : Opnd) (mk rmo : BitVec 3) (src dst : BitVec 4),
    src.toNat ≤ 9 → dst.toNat ≤ 9 → rmo.toNat ≤ 5 →
    let on (i : Nat) : Bool := (s.ctx.pred mk).getLsbD i
    let m : Nat := if rmo = 0 then s.rmNow else rmo.toNat - 1
    let ftz (y : Nat) : Nat := match fltOf dst.toNat with
      | some F => if F = e4m3 ∨ F = e5m2 then y else flush F s.ftzNow y
      | none => y
    let z : Opnd := regAfter b 1
    (∃ t, exec (.vCvt sl ws d a mk rmo src dst) s = .next t ∧
      VecResult s t sl 4 ws d (fmtBits dst.toNat) 64 on fun i =>
        ftz (convert src.toNat dst.toNat m (el s a (fmtBits src.toNat) i))) ∧
    (∃ t, exec (.vRq sl ws d a b mk dst) s = .next t ∧
      VecResult s t sl 4 ws d (fmtBits dst.toNat) 64 on fun i =>
        wrapped (fmtBits dst.toNat) (rq (elS s a 32 i) (elS s b 32 i) (lane s z i % 64) (elS s z 16 (2 * i + 1)) dst.toNat).1)

/-- 14 R338 to R341: scale and accumulate under RNE, the lane moves, and the approximations. Which value `v.rcp`, `v.rsq`, `v.exp2` and
`v.log2` round is the model's choice: `approx`, the fixed-point computation of log entry 12. The clauses do not say that the result is the
correctly rounded one. -/
def Obligations.VectorMovesAndFunctions : Prop :=
  ∀ (s : State) (sl : VSlot) (ws : Bool) (d a b : Opnd) (mk : BitVec 3) (n : BitVec 6),
    let gives (lat : Nat) (i : Instr) (f : Nat → Nat) : Prop := ∃ t, exec i s = .next t ∧ LaneResult s t sl lat ws d mk f
    let acc (i : Nat) (p : Machine.Num) : Nat := flush f32 s.ftzNow (rne f32 (Machine.Num.add 0 (f32.val (lane s d i)) (Machine.Num.mul p (f32.val (lane s b i)))))
    gives 5 (.vScacc sl ws d a b mk 0) (fun i => acc i (Machine.Num.ofInt (elS s a 32 i))) ∧
    gives 5 (.vScacc sl ws d a b mk 2) (fun i => acc i (f32.val (lane s a i))) ∧
    gives 3 (.vPerm sl ws d a b mk) (fun i => lane s a (lane s b i % 64)) ∧
    gives 3 (.vRot sl ws d a mk n) (fun i => lane s a ((i + n.toNat) % 64)) ∧
    gives 3 (.vBcast sl ws d a mk) (fun _ => (s.ctx.sGet a).toNat % 2 ^ 32) ∧
    gives 3 (.vIota sl ws d mk 0) (fun i => i) ∧
    gives 3 (.vIota sl ws d mk 2) (fun i => rne f32 (Machine.Num.ofInt i)) ∧
    exec (.vExt sl ws d a n) s = .next (sent64 s (slotNum sl) 3 (.s d) ws (BitVec.ofNat 64 (lane s a n.toNat))) ∧
    gives 6 (.vRcp sl ws d a mk) (fun i => fres s f32 (approx 0 (f32.val (lane s a i)))) ∧
    gives 6 (.vRsq sl ws d a mk) (fun i => fres s f32 (approx 1 (f32.val (lane s a i)))) ∧
    gives 6 (.vExp2 sl ws d a mk) (fun i => fres s f32 (approx 2 (f32.val (lane s a i)))) ∧
    gives 6 (.vLog2 sl ws d a mk) (fun i => fres s f32 (approx 3 (f32.val (lane s a i))))

/-- 14 R340: sums, minima and maxima of the enabled lanes, their identities, and prefix sums. -/
def Obligations.VectorReductions : Prop :=
  ∀ (s : State) (sl : VSlot) (ws : Bool) (d a : Opnd) (mk : BitVec 3),
    let on (i : Nat) : Bool := (s.ctx.pred mk).getLsbD i
    let lanes : List Nat := (List.range 64).filter on
    let gives (i : Instr) (x : Word) : Prop := exec i s = .next (sent64 s (slotNum sl) 6 (.s d) ws x)
    let signed : List Int := lanes.map (elS s a 32)
    let plain : List Nat := lanes.map (lane s a)
    let step (x y : Nat) : Nat := fres s f32 (Machine.Num.add s.rmNow (f32.val x) (f32.val y))
    let fold (f : Nat → Nat → Nat) (e : Nat) (l : List Nat) : Nat := match l with
      | [] => e
      | x :: xs => if (f32.val (xs.foldl f x)).isNan then f32.cnan else xs.foldl f x
    let seq : List Nat → Nat := fold step 0
    let pick (isMax : Bool) (x y : Nat) : Nat := flush f32 s.ftzNow (fltMinMax f32 isMax x y)
    gives (.vRsum sl ws d a mk 0) (BitVec.ofInt 64 signed.sum) ∧
    gives (.vRsum sl ws d a mk 1) (BitVec.ofNat 64 plain.sum) ∧
    gives (.vRsum sl ws d a mk 2) (BitVec.ofNat 64 (seq plain)) ∧
    gives (.vRmin sl ws d a mk 0) (BitVec.ofInt 64 (signed.foldr min (2 ^ 31 - 1))) ∧
    gives (.vRmin sl ws d a mk 1) (BitVec.ofNat 64 (plain.foldr min (2 ^ 32 - 1))) ∧
    gives (.vRmax sl ws d a mk 0) (BitVec.ofInt 64 (signed.foldr max (-(2 ^ 31)))) ∧
    gives (.vRmax sl ws d a mk 1) (BitVec.ofNat 64 (plain.foldr max 0)) ∧
    gives (.vRmin sl ws d a mk 2) (BitVec.ofNat 64 (fold (pick false) 0x7F800000 plain)) ∧
    gives (.vRmax sl ws d a mk 2) (BitVec.ofNat 64 (fold (pick true) 0xFF800000 plain)) ∧
    (∃ t, exec (.vScan sl ws d a mk 0) s = .next t ∧
      LaneResult s t sl 6 ws d mk fun i => ((lanes.filter (· ≤ i)).map (lane s a)).sum) ∧
    (∃ t, exec (.vScan sl ws d a mk 1) s = .next t ∧
      LaneResult s t sl 6 ws d mk fun i => ((lanes.filter (· ≤ i)).map (lane s a)).sum) ∧
    (∃ t, exec (.vScan sl ws d a mk 2) s = .next t ∧
      LaneResult s t sl 6 ws d mk fun i => seq ((lanes.filter (· ≤ i)).map (lane s a)))

/-- 14 R342, R343: the gate stage. -/
def Obligations.GateStage : Prop :=
  ∀ (s : State) (sl : VSlot) (ws : Bool) (d a b : Opnd) (mk kx : BitVec 3),
    let on (i : Nat) : Bool := (s.ctx.pred mk).getLsbD i
    let gt (x y : Nat) : Prop := Machine.Num.rel 4 (f32.val x) (f32.val y) = true
    let gti (x y : Nat) : Prop := (BitVec.ofNat 32 y).toInt < (BitVec.ofNat 32 x).toInt
    let gives (i : Instr) (f : Nat → Nat) : Prop := ∃ t, exec i s = .next t ∧ LaneResult s t sl 6 ws d mk f
    gives (.vThrcnt sl ws d a b mk 0) (fun i => (wins s a b mk gti (i / 16)).length) ∧
    gives (.vThrcnt sl ws d a b mk 1) (fun i => (wins s a b mk (· > ·) (i / 16)).length) ∧
    gives (.vThrcnt sl ws d a b mk 2) (fun i => (wins s a b mk gt (i / 16)).length) ∧
    gives (.vThrsel sl ws d a b mk 0) (fun i => if i ∈ wins s a b mk gti (i / 16) then lane s a i else 0) ∧
    gives (.vThrsel sl ws d a b mk 1) (fun i => if i ∈ wins s a b mk (· > ·) (i / 16) then lane s a i else 0) ∧
    gives (.vThrsel sl ws d a b mk 2) (fun i => if i ∈ wins s a b mk gt (i / 16) then lane s a i else 0) ∧
    (∃ data mask : VReg, ∃ bits : Nat,
      exec (.vGnorm sl ws d a b mk kx) s = .next (sent s (slotNum sl) 6 (.v d) ws data mask (some ⟨kx.toNat, bits⟩)) ∧
      (∀ j < 2048, mask.getLsbD j = on (j / 32)) ∧
      (∀ g < 4, let l := wins s a b mk gt g
        let sum := Machine.Num.sum 0 (l.map fun i => f32.val (lane s a i))
        let small : Prop := l = [] ∨ match sum with
          | .fin _ m e _ => Machine.Num.cmp (.fin false m e false) (.fin false 1 (-126) false) < 0
          | _ => True
        (bits.testBit g = true ↔ small) ∧
        (∀ i < 64, i / 16 = g → i ∉ l → elemN 32 data.toNat i = 0) ∧
        (small → ∀ i ∈ l, elemN 32 data.toNat i = fres s f32 (Machine.Num.divFin false 1 0 false l.length 0) % 2 ^ 32) ∧
        (¬ small → ∀ i ∈ l, ∃ (n : Bool) (m : Nat) (e : Int) (n' : Bool) (m' : Nat) (e' : Int) (p p' : Bool),
          f32.val (lane s a i) = .fin n m e p ∧ sum = .fin n' m' e' p' ∧
          elemN 32 data.toNat i = fres s f32 (Machine.Num.divFin n m e n' m' e') % 2 ^ 32)))

/-- 14 R345: the mask operations, at latency 2, with their opcodes; a destination `k0` is not written, and the last-result file takes
a mask as it takes a scalar (08 R200). -/
def Obligations.MaskOperations : Prop :=
  ∀ (s : State) (sl : VSlot) (ws : Bool) (d a b : Opnd) (c : Ctx) (slot : Fin 8) (r mask : VReg),
    let x := s.ctx.kGet a
    let y := s.ctx.kGet b
    exec (.kAnd sl ws d a b) s = .next (sent64 s (slotNum sl) 2 (.k d) ws (x &&& y)) ∧
    exec (.kOr sl ws d a b) s = .next (sent64 s (slotNum sl) 2 (.k d) ws (x ||| y)) ∧
    exec (.kNot sl ws d a) s = .next (sent64 s (slotNum sl) 2 (.k d) ws (BitVec.allOnes 64 ^^^ x)) ∧
    exec (.kPop sl ws d a) s =
      .next (sent64 s (slotNum sl) 2 (.s d) ws (BitVec.ofNat 64 ((List.range 64).filter x.getLsbD).length)) ∧
    [Instr.kAnd sl ws d a b, .kOr sl ws d a b, .kNot sl ws d a, .kPop sl ws d a].map opcode = [0x70, 0x71, 0x72, 0x73] ∧
    (c.writeResult slot.val (.k (.main 0)) ws r mask).k = c.k ∧
    (c.writeResult slot.val (.k d) ws r mask).last.get ⟨2 * slot.val, by omega⟩ = r ∧
    (c.writeResult slot.val (.k d) ws r mask).last.get ⟨2 * slot.val + 1, by omega⟩ = c.last.get ⟨2 * slot.val, by omega⟩

/-! ## Results and operands (08) -/

namespace Sys2Proof.Claims

/-- Of the results that `p` holds of, the one that is kept: that of the latest slot, and of one slot the one that issued later
(08 R197). -/
def kept (due : List InFlight) (p : InFlight → Bool) : Option InFlight :=
  (due.filter p).foldl (fun acc r => match acc with
    | some q => if r.slot < q.slot then some q else some r
    | none => some r) none

/-- What is kept of the results that `p` holds of, read by `f`; what stood before where there is none. -/
def keptOr {α : Type} (due : List InFlight) (p : InFlight → Bool) (f : InFlight → α) (old : α) : α := ((kept due p).map f).getD old

end Sys2Proof.Claims

/-- 08 R195, R197, R200, R202, 14 R343, R344: the end of an issue cycle takes one count from every result in flight; those on their last
count reach their destinations in one cycle and every other one keeps the register as it was. Of several that write one register, that of
the latest slot is kept; disabled bits of a vector keep what they were. Each enters its slot's last-result entries, the earlier-issued one
first, also with WS = 1; pushes enter the condition queue at the tail in slot order; a `v.gnorm` adds its degenerate groups to GATE_DEGEN,
and sets their bits in the mask it names after every other write. -/
def Sys2Proof.Claims.ResultTiming : Prop :=
  ∀ (c : Ctx), (∀ r ∈ c.pipe, r.slot < 8) →
    let due := c.pipe.filter fun r => decide (r.left ≤ 1)
    let c' := c.advance
    let writes (d : Dest) (r : InFlight) : Bool := r.dest == d && !r.ws
    c'.pipe = ((c.pipe.filter fun r => decide (2 ≤ r.left)).map fun r => { r with left := r.left - 1 }) ∧
    (∀ k : Fin 8,
      let h := ((due.filter fun r => r.slot == k.val && r.dest != .cq && r.dest != .nowhere).map (·.data)).reverse ++
        [c.last.get ⟨2 * k.val, by omega⟩, c.last.get ⟨2 * k.val + 1, by omega⟩]
      c'.last.get ⟨2 * k.val, by omega⟩ = h.getD 0 0 ∧ c'.last.get ⟨2 * k.val + 1, by omega⟩ = h.getD 1 0) ∧
    (∀ n : Fin 64, c'.sMain n =
      if n = 0 then 0 else keptOr due (writes (.s (.main n))) (fun r => r.data.setWidth 64) (c.sMain n)) ∧
    (∀ n : Fin 16, c'.os.get n = keptOr due (writes (.s (.oper n))) (fun r => r.data.setWidth 64) (c.os.get n)) ∧
    (∀ n : Fin 64, ∀ b < 2048, (c'.v.get n).getLsbD b =
      keptOr due (fun r => writes (.v (.main n)) r && r.wmask.getLsbD b) (fun r => r.data.getLsbD b) ((c.v.get n).getLsbD b)) ∧
    (∀ n : Fin 16, ∀ b < 2048, (c'.ov.get n).getLsbD b =
      keptOr due (fun r => writes (.v (.oper n)) r && r.wmask.getLsbD b) (fun r => r.data.getLsbD b) ((c.ov.get n).getLsbD b)) ∧
    (∀ m : Fin 8, ∀ b < 64, (c'.kMain m).getLsbD b =
      (decide (m = 0) ||
        keptOr due (fun r => !r.ws && (match r.dest with
          | .k (.main n) => n.val % 8 == m.val
          | _ => false)) (fun r => r.data.getLsbD b) ((c.kMain m).getLsbD b) ||
        due.any fun r => !r.ws && r.degen.any fun d => d.kx % 8 == m.val && d.bits.testBit b)) ∧
    c'.cq = c.cq ++ (List.range 8).flatMap (fun k =>
      (due.filter fun r => r.slot == k && r.dest == .cq).map fun r => r.data.getLsbD 0) ∧
    c'.gateDegen.toNat = min (2 ^ 48 - 1) (c.gateDegen.toNat +
      (due.map fun r => (r.degen.map fun d => ((List.range 4).filter d.bits.testBit).length).getD 0).sum)

/-- 08 R199: `s0` reads zero and `k0` all ones whatever has been written to them. -/
def Sys2Proof.Claims.HardwiredRegisters : Prop :=
  ∀ (c : Ctx) (slot : Nat) (ws : Bool) (data mask : VReg),
    (c.writeResult slot (.s (.main 0)) ws data mask).sGet (.main 0) = 0 ∧
    (c.writeResult slot (.k (.main 0)) ws data mask).kGet (.main 0) = BitVec.allOnes 64 ∧
    (c.writeResult slot (.s (.main 0)) ws data mask).s = c.s ∧ (c.writeResult slot (.k (.main 0)) ws data mask).k = c.k

/-- 08 R201: a latch names the result issued j cycles ago by its slot when 1 ≤ j and its latency is at most j + 1, and reads zero
in every other case. -/
def Sys2Proof.Claims.LatchReads : Prop :=
  ∀ (c : Ctx) (slot : Fin 8) (stage : Fin 32),
    (∀ l ∈ c.latches, l.slot = slot.val → l.age = stage.val →
      (∀ m ∈ c.latches, m.slot = slot.val → m.age = stage.val → m = l) →
      c.vGet (.latch slot stage) = (if 1 ≤ stage.val ∧ l.lat ≤ stage.val + 1 then l.data else 0) ∧
      c.sGet (.latch slot stage) = (if 1 ≤ stage.val ∧ l.lat ≤ stage.val + 1 then l.data.setWidth 64 else 0)) ∧
    ((∀ l ∈ c.latches, ¬ (l.slot = slot.val ∧ l.age = stage.val)) →
      c.vGet (.latch slot stage) = 0 ∧ c.sGet (.latch slot stage) = 0 ∧ c.kGet (.latch slot stage) = 0) ∧
    c.advance.latches = ((c.latches.filter fun l => decide (l.age < 5)).map fun l => { l with age := l.age + 1 })

/-- 08 R202, R204: a single test: what it reads, whether it pops, the leaf it takes; with no entry the bundle waits for a push in
flight and otherwise finds the queue empty. -/
def Sys2Proof.Claims.DecisionChainTest : Prop :=
  ∀ (c : Ctx) (sel : BitVec 5),
    let mode := sel.toNat % 4
    let idx := if 2 ≤ mode then sel.toNat / 4 else 0
    let inv := decide (mode % 2 = 1)
    let pushes := (c.pipe.filter fun r => r.dest == .cq).length
    (∀ b, c.cq[idx]? = some b →
      c.chainFrom [sel] 0 0 0 = .leaf (if (b != inv) = true then 1 else 0) (if mode < 2 then 1 else 0)) ∧
    (c.cq.length ≤ idx → idx + 1 - c.cq.length ≤ pushes → c.chainFrom [sel] 0 0 0 = .bubble) ∧
    (c.cq.length ≤ idx → pushes < idx + 1 - c.cq.length → c.chainFrom [sel] 0 0 0 = .empty)

/-! ## Control transfers (13) -/

/-- 13 R317, R318: `s.jmp` goes to its target and removes loop entries innermost first while the target lies outside them;
`s.jal` links i + 1 and removes none. Nothing else changes. -/
def Sys2Proof.Claims.JumpAndLink : Prop :=
  ∀ (s : State) (ws : Bool) (d : Opnd) (t : BitVec 11),
    let bix := s.ctx.bix / 2048 % 2 * 2048 + t.toNat
    let inside (l : Loop) : Prop := l.start ≤ t.toNat ∧ t.toNat ≤ l.stop
    (∃ k, k ≤ s.ctx.loops.length ∧ exec (.sJmp t) s = .next (s.modCtx fun c => { c with bix := bix, loops := c.loops.take k }) ∧
      (∀ j l, k ≤ j → s.ctx.loops[j]? = some l → ¬ inside l) ∧
      (∀ l, 0 < k → s.ctx.loops[k - 1]? = some l → inside l)) ∧
    exec (.sJal ws d t) s =
      .next (sentS (s.modCtx fun c => { c with bix := bix }) 1 d ws (BitVec.ofNat 64 (s.curBix + 1)))

/-- 13 R317: `s.jr` goes to a[11:0] in its segment; a target at or beyond NB takes UNSEALED_FETCH, cause 1, with INFO the target. -/
def Sys2Proof.Claims.JumpRegister : Prop :=
  ∀ (s : State) (a : Opnd),
    let t := (s.ctx.sGet a).toNat % 4096
    (t < s.curBank.nb → exec (.sJr a) s = .next (s.modCtx fun c => { c with bix := bixOf (bankOf c.bix) t })) ∧
    (t < 2048 → bixOf (bankOf s.ctx.bix) t = s.ctx.bix / 2048 % 2 * 2048 + t) ∧
    (s.issued = false → s.curBank.nb ≤ t → exec (.sJr a) s = .next (s.takeTrap 1 t))

/-- 13 R319: `s.jbank` stays in a bank that holds the segment sealed and otherwise goes to the other one; the loop stack and the
mark go, and hp, cq and every register stay. -/
def Sys2Proof.Claims.BankJump : Prop :=
  ∀ (s : State) (seg : BitVec 16) (x : BitVec 11),
    let cur := s.ctx.bix / 2048 % 2
    let here := s.curBank.isSealed ∧ s.curBank.dctx = s.curWho.dctx ∧ s.curBank.table = s.curImg ∧ s.curBank.seg = seg.toNat
    (here → exec (.sJbank seg x) s =
      .next (s.modCtx fun c => { c with seg := seg.toNat, bix := cur * 2048 + x.toNat, loops := [], mark := none })) ∧
    (¬ here → exec (.sJbank seg x) s =
      .next (s.modCtx fun c => { c with seg := seg.toNat, bix := (1 - cur) * 2048 + x.toNat, loops := [], mark := none }))

/-- 13 R317, R319, 08 R216, 13 R324: every transfer completes: `s.jmp`, `s.jal` and `s.jbank` in every state, `s.jr` to every bundle of
its segment; and so does `s.tret` of a handler that names the aligned block of a parked thread of its grid without reserved bits, unless
the block lies in a near store that drains for a split (09 R219). -/
def Sys2Proof.Claims.TransfersComplete : Prop :=
  ∀ (s : State) (ws : Bool) (d a : Opnd) (t : BitVec 11) (seg : BitVec 16),
    let x := (s.ctx.sGet a).toNat
    let stays (u : State) : Prop := u.mem = s.mem ∧ u.recs = s.recs ∧ u.ctx.s = s.ctx.s ∧ u.ctx.v = s.ctx.v ∧ u.ctx.cq = s.ctx.cq
    (∃ u, exec (.sJmp t) s = .next u ∧ stays u ∧ u.ctx.bix = s.ctx.bix / 2048 % 2 * 2048 + t.toNat) ∧
    (∃ u, exec (.sJal ws d t) s = .next u ∧ stays u ∧ u.ctx.bix = s.ctx.bix / 2048 % 2 * 2048 + t.toNat ∧
      u.ctx.loops = s.ctx.loops) ∧
    (x % 4096 < min 2048 s.curBank.nb → ∃ u, exec (.sJr a) s = .next u ∧ stays u ∧ u.ctx.bix % 2048 = x % 2048 ∧
      u.ctx.loops = s.ctx.loops) ∧
    (∃ u, exec (.sJbank seg t) s = .next u ∧ stays u ∧ u.ctx.seg = seg.toNat ∧ u.ctx.bix % 2048 = t.toNat ∧ u.ctx.loops = []) ∧
    (∀ me q bs, s.mem.epochBlocked s.curAgent = none → s.curRec = some me → s.ctx.hm = true → x % 64 = 0 →
      s.frameRead (dieOf s.curCore).val me.grid me.team (x.testBit 63) (x % 2 ^ 56) 0x8000 = .ok bs → blockBad bs = false →
      s.recOf (fieldAt bs 8 8) me.grid = some q → q.st = .parked → q.trapped = true →
      (s.issued = true ∨ x.testBit 63 = false ∨ s.teamDrains me.grid me.team = false) →
      ∃ u, exec (.sTret a) s = .next u ∧ u.ctx.bix = bixOf (bankOf s.ctx.bix) (s.curBix + 1))

/-- 13 R320: a loop opens with START i + 1 and END i + off unless its count is 0, which skips the body; four live entries take
LOOP_DEPTH, cause 6. `i` is inside the segment with its loop. -/
def Sys2Proof.Claims.LoopOpens : Prop :=
  ∀ (s : State) (a : Opnd) (count : BitVec 20) (off : BitVec 11),
    let i := s.curBix
    let n := (s.ctx.sGet a).toNat % 2 ^ 32
    let base := s.ctx.bix / 2048 % 2 * 2048
    let opened (n : Nat) : State :=
      if n = 0 then (if s.curLeaf = 0 then s.modCtx fun c => { c with bix := base + (i + off.toNat + 1) } else s)
      else if s.curLeaf = 0 then
        s.modCtx fun c => { c with bix := base + (i + 1), loops := c.loops ++ [⟨i + 1, i + off.toNat, n⟩] }
      else s.modCtx fun c => { c with loops := c.loops ++ [⟨i + 1, i + off.toNat, n⟩] }
    (i + off.toNat + 1 < 2048 → s.ctx.loops.length < 4 →
      exec (.sLoopReg a off) s = .next (opened n) ∧ exec (.sLoopImm count off) s = .next (opened count.toNat)) ∧
    (s.issued = false → 4 ≤ s.ctx.loops.length →
      exec (.sLoopReg a off) s = .next (s.takeTrap 6 0) ∧ exec (.sLoopImm count off) s = .next (s.takeTrap 6 0))

/-- 08 R205, 13 R321: the END rule, for a stack whose innermost entry is `top`. -/
def Sys2Proof.Claims.LoopEndRule : Prop :=
  ∀ (i : Nat) (l : List Loop) (top : Loop),
    loopEnd i [] = (i + 1, []) ∧
    (top.stop ≠ i → loopEnd i (l ++ [top]) = (i + 1, l ++ [top])) ∧
    (top.stop = i → 1 < top.count → loopEnd i (l ++ [top]) = (top.start, l ++ [{ top with count := top.count - 1 }])) ∧
    (top.stop = i → top.count ≤ 1 → loopEnd i (l ++ [top]) = loopEnd i l)

/-- 13 R322, R323, R325: `s.mark` changes nothing but the mark, which leaves out bundles beyond NB − 1; `s.trap` records cause 48 + n against the context; `s.yield` ends
the turn, and where no other context is ready only its count of issues restarts. -/
def Sys2Proof.Claims.MarkTrapYield : Prop :=
  ∀ (s : State) (n : BitVec 7) (m : BitVec 4),
    (∃ m, exec (.sMark n) s = .next (s.modCtx fun c => { c with mark := m }) ∧
      ∀ i, (∃ p, m = some p ∧ p.1 ≤ i ∧ i < p.1 + p.2) ↔ s.curBix + 1 ≤ i ∧ i ≤ s.curBix + n.toNat ∧ i < s.curBank.nb) ∧
    (∃ t, exec (.sTrap m) s = .next t ∧ t.mem = s.mem ∧ (s.ctx.phase = .running → t.recs = s.recs) ∧
      t.ctx = { s.ctx with async := t.ctx.async, phase := t.ctx.phase, readySince := t.ctx.readySince } ∧
      (s.ctx.phase = .running → t.ctx.phase = .running) ∧
      ∃ x, t.ctx.async = s.ctx.async ++ [⟨s.now, 48 + m.toNat, x⟩]) ∧
    (s.curBix + 1 < 2048 → (∀ x, x ≠ s.curCtx → (s.core.ctx x).phase ≠ .ready) →
      exec .sYield s =
        .next (s.modCtx fun c => { c with bix := c.bix / 2048 % 2 * 2048 + (s.curBix + 1), issuedSince := 0 })) ∧
    (s.curBix + 1 < 2048 → (∃ x, x ≠ s.curCtx ∧ (s.core.ctx x).phase = .ready) →
      ∃ t, exec .sYield s = .next t ∧ t.core.running = none ∧ t.ctx.phase = .ready ∧
        t.ctx.bix = s.ctx.bix / 2048 % 2 * 2048 + (s.curBix + 1) ∧
        t.recs = (s.recSt s.curCore s.curCtx .ready).recs ∧ t.mem = s.mem)

/-- 13 R326: a thread with nothing outstanding ends: its record is halted, its context is free, and its results in flight are gone;
with loads or atomics outstanding it waits for them. -/
def Sys2Proof.Claims.HaltEndsThread : Prop :=
  ∀ (s : State),
    (∀ r, s.recAt s.curCore s.curCtx = some r → r.handler = none →
      (s.recs.filter fun q => q.va == r.va && q.grid == r.grid) = [r] →
      s.ctx.long = [] → s.core.engine.holder ≠ .ctx s.curCtx →
      ∃ t, exec .sHalt s = .next t ∧ t.ctxAt s.curCore s.curCtx = Ctx.reset ∧ (t.coreAt s.curCore).running ≠ some s.curCtx ∧
        ∀ q ∈ t.recs, q.va = r.va → q.grid = r.grid → q.st = .halted) ∧
    (∀ r ∈ s.ctx.long, r.load = true →
      exec .sHalt s = .next (s.modCtx fun c => { c with halting := true }))

/-! ## Traps (08 R210 to R216) -/

namespace Sys2Proof.Claims

/-- The grid of `r`, whose thread ran on context (c, x), has been killed with status 5 and completes so (05 R119): none of its records is
left but those whose context waits for its queued matrix commands, and no team but one that such a record or a job of its threads still
needs (21 R428, 08 R210); the thread's own context is free, or issues nothing more while its commands perform. -/
def killedBy (s t : State) (c : Fin 192) (x : Fin 4) (r : Rec) : Prop :=
  (∃ g, t.gridOf r.grid = some g ∧ g.killed = some 5) ∧
  (Instr.gridComplete, ({ grid := ⟨r.grid % 256, Nat.mod_lt _ (by decide)⟩ } : EvArgs)) ∈ t.agenda ∧
  (∀ q ∈ t.recs, q.grid = r.grid → q.onCtx.isSome = true) ∧
  (∀ q ∈ t.teams, q.grid = r.grid → (∃ p ∈ t.recs, p.grid = r.grid ∧ p.team = q.num) ∨
    ∃ j ∈ t.jobs, j.grid = r.grid ∧ j.team = q.num ∧ j.state ≠ .ended) ∧
  (s.matQuiet c x = true → t.ctxAt c x = Ctx.reset) ∧
  (s.matQuiet c x = false → (s.coreAt c).engine.holder = .ctx x →
    (t.ctxAt c x).phase = .waiting ∧ (t.ctxAt c x).halting = true ∧ (t.coreAt c).running ≠ some x)

end Sys2Proof.Claims

/-- 08 R210, R213, R214: under the default table causes 13, 14, 19 and 20 replay: the context stays with every register, result in
flight and latch as it was, waits, and is ready 1,024 cycles (2,048 ticks) later; the sixteenth trap in a row kills. -/
def Sys2Proof.Claims.DefaultReplay : Prop :=
  ∀ (s : State) (c : Fin 192) (x : Fin 4) (cause info : Nat),
    (s.ctxAt c x).atb = 0 → cause = 13 ∨ cause = 14 ∨ cause = 19 ∨ cause = 20 →
    let k := s.ctxAt c x
    let t := s.takeTrapAt c x cause info
    let same := k.replayCause = cause ∧ k.replayBix = k.seg * 4096 + k.bix
    ((same → k.replays < 15) →
      (let k' := t.ctxAt c x
       k'.phase = .waiting ∧ k'.replayAt = some (s.now + 2048) ∧ k'.cause = BitVec.ofNat 6 cause ∧
       k'.replays = (if same then k.replays + 1 else 1) ∧
       k'.s = k.s ∧ k'.v = k.v ∧ k'.k = k.k ∧ k'.os = k.os ∧ k'.ov = k.ov ∧ k'.last = k.last ∧ k'.pipe = k.pipe ∧
       k'.latches = k.latches ∧ k'.cq = k.cq ∧ k'.loops = k.loops ∧ k'.seg = k.seg ∧ k'.bix = k.bix) ∧
      t.recs = (s.recSt c x .waiting).recs ∧ t.mem = s.mem ∧ (t.coreAt c).running ≠ some x) ∧
    (∀ r g, same → k.replays = 15 → s.recAt c x = some r → s.gridOf r.grid = some g → g.killed = none → killedBy s t c x r)

/-- 08 R213, R214: under the default table every other cause kills: the grid completes KILLED (status 5). -/
def Sys2Proof.Claims.DefaultKill : Prop :=
  ∀ (s : State) (c : Fin 192) (x : Fin 4) (cause info : Nat) (r : Rec) (g : Grid),
    (s.ctxAt c x).atb = 0 → cause ≠ 13 → cause ≠ 14 → cause ≠ 19 → cause ≠ 20 →
    s.recAt c x = some r → s.gridOf r.grid = some g → g.killed = none → killedBy s (s.takeTrapAt c x cause info) c x r

/-- 08 R214, R215: an action table entry that says park, for a thread with a frame and no long result outstanding: the 32 KiB context
block stands at FRAME, in the team's scratchpad or in memory, the record is parked by a trap at its resume point, and the context is
free. -/
def Sys2Proof.Claims.ParkWritesFrame : Prop :=
  ∀ (s u : State) (c : Fin 192) (x : Fin 4) (entry info : Nat) (r : Rec),
    s.recAt c x = some r → entry % 4 = 2 → entry.testBit 7 = false → r.wk ≠ 5 →
    (s.recs.filter fun q => q.va == r.va && q.grid == r.grid) = [r] →
    s.saveContext c x r.fsp r.frame info = .ok u →
    ∃ t q, s.trapPark c x entry info = t ∧ t.ctxAt c x = Ctx.reset ∧
      t.recOf r.va r.grid = some q ∧ q.st = .parked ∧ q.trapped = true ∧ q.saved = true ∧ q.onCtx = none ∧
      q.seg = (s.ctxAt c x).seg ∧ q.bix = (s.ctxAt c x).bix ∧ q.hptr = (s.ctxAt c x).hp.toNat ∧
      t.mem.bytes = u.mem.bytes ∧ t.teams = u.teams ∧
      (let bs := s.contextBlock c x r info
       bs.length = 0x8000 ∧
       (r.fsp = true → t.mem.bytes = s.mem.bytes ∧ ∃ m m', s.teamOf r.grid r.team = some m ∧ t.teamOf r.grid r.team = some m' ∧
         m'.spad = Memory.write m.spad r.frame bs) ∧
       (r.fsp = false → ∃ n w, s.vaWrite (dieOf c).val (s.whoOfGrid r.grid) r.frame bs = .ok (n, w) ∧ t.mem.bytes = w.mem.bytes))

/-- 08 R215, R216: a context reloaded from its own block has its registers, queue and loops again; `k0` reads all ones (08 R199). -/
def Sys2Proof.Claims.ContextBlockRoundTrip : Prop :=
  ∀ (c : Ctx) (r : Rec) (info now : Nat) (eng : Option BSource),
    c.cq.length ≤ 16 → c.loops.length ≤ 4 →
    (∀ l ∈ c.loops, l.start < 4096 ∧ l.stop < 4096 ∧ l.count < 2 ^ 32) →
    let k := Ctx.load (c.block r.va info eng) r now
    (c.block r.va info eng).length = 0x8000 ∧
    k.s = c.s ∧ k.v = c.v ∧ (∀ m : Fin 8, k.kMain m = c.kMain m) ∧ k.os = c.os ∧ k.ov = c.ov ∧ k.last = c.last ∧ k.cq = c.cq ∧
    k.loops = c.loops

/-- 08 R216, 13 R324: a return to a record of the handler's grid that is parked by a trap: the record is ready at the resume point of its
block (or waits again, where the block holds a pending wait) and will be reloaded from it, and the handler continues at i + 1. A thread that is no handler, and one whose block names no such
record, takes ILLEGAL_TRET, cause 4, a block address that is not 64-byte aligned MISALIGNED, cause 11, and a block with reserved bits
STATUS_RESERVED, cause 5. While the team's core drains for a split a block in its scratchpad is not reached (09 R219). -/
def Sys2Proof.Claims.TrapReturn : Prop :=
  ∀ (s : State) (a : Opnd) (me : Rec) (bs : List Byte),
    let x := (s.ctx.sGet a).toNat
    let addr := x % 2 ^ 56
    let target : Option Rec := s.recOf (fieldAt bs 8 8) me.grid
    let waits : Bool := (fieldAt bs 0 8).testBit 48 && fieldAt bs 0 8 / 2 ^ 45 % 8 == 7
    let drains : Bool := x.testBit 63 && s.teamDrains me.grid me.team
    s.mem.epochBlocked s.curAgent = none → s.curRec = some me →
    (s.ctx.hm = true → addr % 64 = 0 → s.frameRead (dieOf s.curCore).val me.grid me.team (x.testBit 63) addr 0x8000 = .ok bs →
      (∀ q, s.issued = false → target = some q → q.st = .parked → q.trapped = true → blockBad bs = false → drains = true →
        exec (.sTret a) s = .next (s.modCtx fun c => { c with stall := some .drain })) ∧
      (∀ q, s.issued = true ∨ drains = false → target = some q → q.st = .parked → q.trapped = true → blockBad bs = false →
        ∃ t q', exec (.sTret a) s = .next t ∧ t.ctx.bix = bixOf (bankOf s.ctx.bix) (s.curBix + 1) ∧
          t.recOf q.va q.grid = some q' ∧ (q'.st = if waits then .waiting else .ready) ∧ q'.trapped = false ∧
          q'.saved = true ∧ q'.frame = addr ∧ q'.fsp = x.testBit 63 ∧ q'.bix = fieldAt bs 0x10 8 % 4096 ∧ q'.seg = fieldAt bs 0x10 8 / 4096 % 65536 ∧ closed s t) ∧
      (∀ q, s.issued = false → target = some q → q.st = .parked → q.trapped = true → blockBad bs = true →
        exec (.sTret a) s = .next (s.takeTrap 5 addr)) ∧
      (s.issued = false → (∀ q, target = some q → q.st ≠ .parked ∨ q.trapped = false) →
        exec (.sTret a) s = .next (s.takeTrap 4 addr))) ∧
    (s.issued = false → s.ctx.hm = false → exec (.sTret a) s = .next (s.takeTrap 4 addr)) ∧
    (s.issued = false → s.ctx.hm = true → addr % 64 ≠ 0 → exec (.sTret a) s = .next (s.takeTrap 11 addr))

/-! ## Loads, stores, atomics and hints (15) -/

namespace Sys2Proof.Claims

/-- The bytes that translated segments name, in order, as memory holds them. -/
def memBytes (s : State) (segs : List Seg) : List Byte := segs.flatMap fun g => Memory.read s.mem.bytes g.place.dpa g.len

/-- Segments of coherent pages (C = 1, RC = 0) without poison, of whose lines the issuing core's L1 holds no copy. -/
def Plain (s : State) (segs : List Seg) : Prop :=
  ∀ g ∈ segs, g.place.c = true ∧ g.place.rc = false ∧ ∀ a, g.place.dpa ≤ a → a < g.place.dpa + g.len →
    s.mem.poisoned g.place.gran a = false ∧ ∀ x ∈ s.core.l1, x.line ≠ a / 128

/-- Pages that two segments of one access share are mapped under one granule class. -/
def oneClass (segs : List Seg) : Prop :=
  ∀ g ∈ segs, ∀ h ∈ segs, g.place.gran = h.place.gran ∨
    ∀ x < g.len, ∀ y < h.len, (g.place.dpa + x) / 4096 ≠ (h.place.dpa + y) / 4096

/-- Segments that a store may write: coherent pages (C = 1, RC = 0) without poison, each page under one class. -/
def Storable (s : State) (segs : List Seg) : Prop :=
  oneClass segs ∧ ∀ g ∈ segs, g.place.c = true ∧ g.place.rc = false ∧
    ∀ x < g.len, s.mem.poisoned g.place.gran (g.place.dpa + x) = false

/-- Memory after the bytes `bs` were stored along segments, in their order. -/
def storedAlong (m : Memory) (segs : List Seg) (bs : List Byte) : Memory :=
  segs.foldl (fun m g => Memory.write m g.place.dpa ((bs.drop g.off).take g.len)) m

/-- An interlocked result of `slot` is open, its data is in, and its arrival is announced (08 R197). -/
def arrives (s t : State) (slot : Nat) (d : Dest) (ws : Bool) (data : VReg) : Prop :=
  ∃ q : LongResult, t.ctx.long = s.ctx.long ++ [q] ∧ q.slot = slot ∧ q.dest = d ∧ q.ws = ws ∧ q.data = some data ∧
    q.poison = false ∧ (Instr.interlockArrival, ({ core := s.curCore, ctx := s.curCtx, id := q.id } : EvArgs)) ∈ t.agenda

/-- Scratchpad bytes of the thread's team, in units whose read is neither uncorrectable nor corrected and reported (09 R227). -/
def spadBytes (t : Team) (off n : Nat) : List Byte := Memory.read t.spad off n
def spadGood (t : Team) (off n : Nat) : Prop := ∀ i < n, (off + i) / 32 ∉ t.spadBad ∧ (off + i) / 32 ∉ t.spadSoft

/-- The value a scalar load makes of `n` bytes read as `x`: zero-extended, or sign-extended with SX. -/
def scalarOf (n : Nat) (sx : Bool) (x : Nat) : VReg :=
  BitVec.ofNat 2048 (if sx then (BitVec.ofInt 64 (BitVec.ofNat (8 * n) x).toInt).toNat else x)

/-- The value of `ld.bc`: one value in every lane, or the halves of eight bytes in even and odd lanes. -/
def isBroadcast (sz : BitVec 2) (sx : Bool) (x : Nat) (v : VReg) : Prop :=
  ∀ i < 64, elemN 32 v.toNat i =
    if sz = 3 then x / 2 ^ (32 * (i % 2)) % 2 ^ 32
    else if sx then wrapped 32 (BitVec.ofNat (8 * 2 ^ sz.toNat) x).toInt else x % 2 ^ 32

/-- No release, or one that finds no dirty line of a C = 0 page to write back in its die (03 R77). -/
def quietRelease (s : State) (rel : Bool) (scope : BitVec 3) : Prop :=
  rel = false ∨ scope.toNat < 3 ∨ ∀ x ∈ s.mem.nc, ¬ (x.die = (dieOf s.curCore).val ∧ x.dirty ≠ 0)

/-- The bytes `bs` stand at `a`, and every byte outside them is as it was. -/
def storedAt (m m' : Memory) (a : Nat) (bs : List Byte) : Prop :=
  (∀ i (h : i < bs.length), Memory.byte m' (a + i) = bs[i]) ∧ ∀ j, (j < a ∨ a + bs.length ≤ j) → Memory.byte m' j = Memory.byte m j

end Sys2Proof.Claims

/-- 15 R347, R350: a flat load whose bytes lie in the team's scratchpad takes 6 cycles and writes the bytes it read: little-endian,
zero- or sign-extended, a whole vector, a broadcast, or a mask. Memory is unchanged. -/
def Sys2Proof.Claims.LoadsFromScratchpad : Prop :=
  ∀ (s : State) (ws : Bool) (d a : Opnd) (sz : BitVec 2) (sx : Bool) (off : BitVec 14) (o : Nat) (r : Rec) (t : Team),
    let ea := ((s.ctx.sGet a).toNat + 2 ^ 64 + off.toInt).toNat % 2 ^ 64
    let n := 2 ^ sz.toNat
    s.curRec = some r → s.teamOf r.grid r.team = some t →
    (s.route needR ea n = .ok (.spad o) → spadGood t o n →
      let x := natOfBytes (spadBytes t o n)
      (Clear (loadCheck false n n ea) s → exec (.ldS ws d a sz sx off) s =
        .next (sent s 4 6 (.s d) ws (scalarOf n sx x) (BitVec.allOnes 2048) none)) ∧
      (Clear (loadCheck true n n ea) s → exec (.ldSB ws d a sz sx off) s =
        .next (sent s 4 6 (.s d) ws (scalarOf n sx x) (BitVec.allOnes 2048) none)) ∧
      (Clear (loadCheck false n n ea) s → ∃ v, isBroadcast sz sx x v ∧
        exec (.ldBc ws d a sz sx off) s = .next (sent s 4 6 (.v d) ws v (BitVec.allOnes 2048) none))) ∧
    (s.route needR ea 256 = .ok (.spad o) → spadGood t o 256 →
      let v : VReg := BitVec.ofNat 2048 (natOfBytes (spadBytes t o 256))
      (Clear (loadCheck false 4 256 ea) s → exec (.ldV ws d a off) s =
        .next (sent s 4 6 (.v d) ws v (BitVec.allOnes 2048) none)) ∧
      (Clear (loadCheck true 4 256 ea) s → exec (.ldVB ws d a off) s =
        .next (sent s 4 6 (.v d) ws v (BitVec.allOnes 2048) none))) ∧
    (s.route needR ea 8 = .ok (.spad o) → spadGood t o 8 → Clear (loadCheck false 8 8 ea) s →
      exec (.ldK ws d a off) s =
        .next (sent s 4 6 (.k d) ws (BitVec.ofNat 2048 (natOfBytes (spadBytes t o 8))) (BitVec.allOnes 2048) none))

/-- 15 R350, 08 R197: a flat load from coherent memory is an interlocked result that holds the bytes memory holds; no byte of
memory changes. -/
def Sys2Proof.Claims.LoadsFromMemory : Prop :=
  ∀ (s : State) (ws : Bool) (d a : Opnd) (sz : BitVec 2) (sx : Bool) (off : BitVec 14) (segs : List Seg),
    let ea := ((s.ctx.sGet a).toNat + 2 ^ 64 + off.toInt).toNat % 2 ^ 64
    let n := 2 ^ sz.toNat
    let x := natOfBytes (memBytes s segs)
    let gives (i : Instr) (dst : Dest) (v : VReg → Prop) : Prop :=
      ∃ t w, exec i s = .next t ∧ v w ∧ arrives s t 4 dst ws w ∧ t.mem.bytes = s.mem.bytes
    Plain s segs →
    (s.route needR ea n = .ok (.mem segs) →
      (Clear (loadCheck false n n ea) s → gives (.ldS ws d a sz sx off) (.s d) (· = scalarOf n sx x)) ∧
      (Clear (loadCheck true n n ea) s → gives (.ldSB ws d a sz sx off) (.s d) (· = scalarOf n sx x)) ∧
      (Clear (loadCheck false n n ea) s → gives (.ldBc ws d a sz sx off) (.v d) (isBroadcast sz sx x))) ∧
    (s.route needR ea 256 = .ok (.mem segs) →
      (Clear (loadCheck false 4 256 ea) s → gives (.ldV ws d a off) (.v d) (· = BitVec.ofNat 2048 x)) ∧
      (Clear (loadCheck true 4 256 ea) s → gives (.ldVB ws d a off) (.v d) (· = BitVec.ofNat 2048 x))) ∧
    (s.route needR ea 8 = .ok (.mem segs) → Clear (loadCheck false 8 8 ea) s →
      gives (.ldK ws d a off) (.k d) (· = BitVec.ofNat 2048 x))

/-- 15 R351, R352: a gather reads 64 values in lane order, zero-extended, from the scratchpad or from memory; a tensor run gives its
elements inside the dimension and zeros above them. Both are interlocked, and no byte of memory changes. -/
def Sys2Proof.Claims.GatherAndTensorLoads : Prop :=
  (∀ (s : State) (ws : Bool) (d a b : Opnd) (sz : BitVec 2) (o : Nat → Nat) (r : Rec) (t : Team),
    let n := 2 ^ sz.toNat
    let ea (i : Nat) : Nat := ((s.ctx.sGet a) + BitVec.ofInt 64 (elS s b 32 i)).toNat
    sz ≠ 3 → s.curRec = some r → s.teamOf r.grid r.team = some t →
    (∀ i < 64, s.route needR (ea i) n = .ok (.spad (o i)) ∧ spadGood t (o i) n) → Clear (lanesCheck false a b sz) s →
    ∃ u w, exec (.ldG ws d a b sz) s = .next u ∧ arrives s u 4 (.v d) ws w ∧ u.mem.bytes = s.mem.bytes ∧
      ∀ i < 64, elemN 32 w.toNat i = natOfBytes (spadBytes t (o i) n)) ∧
  (∀ (s : State) (ws : Bool) (d a b : Opnd) (sz : BitVec 2) (segs : Nat → List Seg),
    let n := 2 ^ sz.toNat
    let ea (i : Nat) : Nat := ((s.ctx.sGet a) + BitVec.ofInt 64 (elS s b 32 i)).toNat
    sz ≠ 3 → (∀ i < 64, s.route needR (ea i) n = .ok (.mem (segs i)) ∧ Plain s (segs i)) → Clear (lanesCheck false a b sz) s →
    ∃ u w, exec (.ldG ws d a b sz) s = .next u ∧ arrives s u 4 (.v d) ws w ∧ u.mem.bytes = s.mem.bytes ∧
      ∀ i < 64, elemN 32 w.toNat i = natOfBytes (memBytes s (segs i))) ∧
  (∀ (s : State) (ws : Bool) (d a : Opnd) (k : BitVec 4) (r : Run),
    s.runOf needR a k = .ok r → Plain s r.segs → Clear (runCheck false a k) s →
    ∃ u, exec (.ldVt ws d a k) s = .next u ∧ u.mem.bytes = s.mem.bytes ∧
      arrives s u 4 (.v d) ws
        (BitVec.ofNat 2048 (natOfBytes (memBytes s r.segs) % 2 ^ (r.count * fmtBits r.tsr.fmt))))

/-- 15 R353, R354: a flat store to coherent memory, in one run or in several, writes its bytes there and nothing else; a release also
closes the agent's region. The hypothesis on the release leaves out the write-back of other C = 0 lines (03 R77), stated of the fences. -/
def Sys2Proof.Claims.StoresWriteTheirBytes : Prop :=
  (∀ (s : State) (d a : Opnd) (sz : BitVec 2) (rel : Bool) (scope : BitVec 3) (off : BitVec 14) (segs : List Seg),
    let ea := ((s.ctx.sGet a).toNat + 2 ^ 64 + off.toInt).toNat % 2 ^ 64
    let n := 2 ^ sz.toNat
    let gives (i : Instr) (bs : List Byte) : Prop := ∃ t, exec i s = .next t ∧
      t.mem.bytes = storedAlong s.mem.bytes segs bs ∧ t.teams = s.teams ∧ (rel = true → closed s t)
    Memory.wf s.mem.bytes = true → Storable s segs → quietRelease s rel scope →
    (s.route needW ea n = .ok (.mem segs) → Clear (fun s => (storeCheck n n ea s).both (relCheck rel s)) s →
      gives (.stS d a sz rel scope off) (bytesOfNat n (s.ctx.sGet d).toNat)) ∧
    (s.route needW ea 256 = .ok (.mem segs) → Clear (fun s => (storeCheck 4 256 ea s).both (relCheck rel s)) s →
      gives (.stV d a rel scope off) (bytesOfNat 256 (s.ctx.vGet d).toNat))) ∧
  ∀ (s : State) (d a : Opnd) (sz : BitVec 2) (rel : Bool) (scope : BitVec 3) (off : BitVec 14) (g : Seg),
    let ea := ((s.ctx.sGet a).toNat + 2 ^ 64 + off.toInt).toNat % 2 ^ 64
    let n := 2 ^ sz.toNat
    Memory.wf s.mem.bytes = true → g.place.c = true → g.place.rc = false → g.off = 0 → quietRelease s rel scope →
    (∀ x < g.len, s.mem.poisoned g.place.gran (g.place.dpa + x) = false) →
    (s.route needW ea n = .ok (.mem [g]) → g.len = n →
      Clear (fun s => (storeCheck n n ea s).both (relCheck rel s)) s →
      ∃ t, exec (.stS d a sz rel scope off) s = .next t ∧
        storedAt s.mem.bytes t.mem.bytes g.place.dpa (bytesOfNat n (s.ctx.sGet d).toNat) ∧ t.teams = s.teams ∧
        (rel = true → closed s t) ∧ (rel = false → t.ctx.s = s.ctx.s ∧ t.ctx.pipe = s.ctx.pipe)) ∧
    (s.route needW ea 256 = .ok (.mem [g]) → g.len = 256 →
      Clear (fun s => (storeCheck 4 256 ea s).both (relCheck rel s)) s →
      ∃ t, exec (.stV d a rel scope off) s = .next t ∧
        storedAt s.mem.bytes t.mem.bytes g.place.dpa (bytesOfNat 256 (s.ctx.vGet d).toNat) ∧ t.teams = s.teams ∧
        (rel = true → closed s t))

/-- 15 R351, R353, R354, R357: stores to the scratchpad write the team's bytes, and a release among them also closes the agent's region;
scatters write 64 values in ascending lane order; a tensor store writes the elements of its run, and of an odd last 4-bit element only the
nibble; a store to a C = 0 page changes no byte at the controllers (03 R76). -/
def Sys2Proof.Claims.StoreFrames : Prop :=
  (∀ (s : State) (d a : Opnd) (sz : BitVec 2) (rel : Bool) (scope : BitVec 3) (off : BitVec 14) (o : Nat) (r : Rec) (t : Team),
    let ea := ((s.ctx.sGet a).toNat + 2 ^ 64 + off.toInt).toNat % 2 ^ 64
    let n := 2 ^ sz.toNat
    let gives (i : Instr) (bs : List Byte) : Prop := ∃ u t', exec i s = .next u ∧ u.mem.bytes = s.mem.bytes ∧
      u.teamOf r.grid r.team = some t' ∧ t'.spad = Memory.write t.spad o bs ∧ t'.flags = t.flags ∧ t'.gal = t.gal ∧
      (rel = true → closed s u) ∧ (rel = false → u.mem = s.mem ∧ u.cores = s.cores)
    s.curRec = some r → s.teamOf r.grid r.team = some t → quietRelease s rel scope →
    (s.route needW ea n = .ok (.spad o) → Clear (fun s => (storeCheck n n ea s).both (relCheck rel s)) s →
      gives (.stS d a sz rel scope off) (bytesOfNat n (s.ctx.sGet d).toNat)) ∧
    (s.route needW ea 256 = .ok (.spad o) → Clear (fun s => (storeCheck 4 256 ea s).both (relCheck rel s)) s →
      gives (.stV d a rel scope off) (bytesOfNat 256 (s.ctx.vGet d).toNat))) ∧
  (∀ (s : State) (d a : Opnd) (k : BitVec 4) (r : Run),
    let bits := r.count * fmtBits r.tsr.fmt
    let old := natOfBytes (memBytes s r.segs)
    s.runOf needW a k = .ok r → Memory.wf s.mem.bytes = true → Storable s r.segs → Clear (runCheck true a k) s →
    ∃ u, exec (.stVt d a k) s = .next u ∧ u.mem.bytes = storedAlong s.mem.bytes r.segs
      (bytesOfNat ((bits + 7) / 8) ((s.ctx.vGet d).toNat % 2 ^ bits + old / 2 ^ bits * 2 ^ bits))) ∧
  (∀ (s : State) (d a : Opnd) (sz : BitVec 2) (off : BitVec 14) (o : Nat) (r : Rec) (t : Team),
    let ea := ((s.ctx.sGet a).toNat + 2 ^ 64 + off.toInt).toNat % 2 ^ 64
    let n := 2 ^ sz.toNat
    s.curRec = some r → s.teamOf r.grid r.team = some t → s.route needW ea n = .ok (.spad o) →
    Clear (fun s => (storeCheck n n ea s).both (relCheck false s)) s →
    ∃ u t', exec (.stS d a sz false 0 off) s = .next u ∧ u.mem = s.mem ∧ u.cores = s.cores ∧
      u.teamOf r.grid r.team = some t' ∧ t'.spad = Memory.write t.spad o (bytesOfNat n (s.ctx.sGet d).toNat) ∧
      t'.flags = t.flags ∧ t'.gal = t.gal) ∧
  (∀ (s : State) (d a b : Opnd) (sz : BitVec 2) (o : Nat → Nat) (r : Rec) (t : Team),
    let n := 2 ^ sz.toNat
    let ea (i : Nat) : Nat := ((s.ctx.sGet a) + BitVec.ofInt 64 (elS s b 32 i)).toNat
    sz ≠ 3 → s.curRec = some r → s.teamOf r.grid r.team = some t →
    (∀ i < 64, s.route needW (ea i) n = .ok (.spad (o i))) → Clear (lanesCheck true a b sz) s →
    ∃ u t', exec (.stSc d a b sz) s = .next u ∧ u.mem = s.mem ∧ u.teamOf r.grid r.team = some t' ∧
      t'.spad = (List.range 64).foldl (fun m i => Memory.write m (o i) (bytesOfNat n (lane s d i))) t.spad) ∧
  (∀ (s : State) (d a : Opnd) (k : BitVec 4) (r : Run),
    s.runOf needW a k = .ok r → Memory.wf s.mem.bytes = true → Clear (runCheck true a k) s →
    oneClass r.segs → (∀ g ∈ r.segs, ∀ x < g.len, s.mem.poisoned g.place.gran (g.place.dpa + x) = false) →
    ∃ u, exec (.stVt d a k) s = .next u ∧
      ∀ j, (∀ g ∈ r.segs, j < g.place.dpa ∨ g.place.dpa + g.len ≤ j) → Memory.byte u.mem.bytes j = Memory.byte s.mem.bytes j) ∧
  (∀ (s : State) (d a : Opnd) (sz : BitVec 2) (off : BitVec 14) (g : Seg),
    let ea := ((s.ctx.sGet a).toNat + 2 ^ 64 + off.toInt).toNat % 2 ^ 64
    let n := 2 ^ sz.toNat
    s.route needW ea n = .ok (.mem [g]) → g.place.c = false →
    Clear (fun s => (storeCheck n n ea s).both (relCheck false s)) s →
    ∃ u, exec (.stS d a sz false 0 off) s = .next u ∧ u.mem.bytes = s.mem.bytes)

/-- 15 R361 to R363: an atomic on coherent memory gives the old value, sign-extended, as an interlocked result, and writes what its
operation makes of it as one unit; a compare-and-swap that fails writes nothing. With ORD bit 0 it is also an acquire, which leaves no line
of a written page in the core's L1 and at grid or system scope no clean C = 0 line in its die, with bit 1 a release, and either closes the
agent's region. -/
def Obligations.AtomicsExchange : Prop :=
  ∀ (s : State) (ws : Bool) (d a c : Opnd) (w8 : Bool) (ord : BitVec 2) (scope : BitVec 3) (g : Seg),
    let n := if w8 then 8 else 4
    let w := 8 * n
    let ea := (s.ctx.sGet a).toNat
    let old := natOfBytes (Memory.read s.mem.bytes g.place.dpa n)
    let x := (s.ctx.sGet c).toNat % 2 ^ w
    let y := (s.ctx.sGet (regAfter c 1)).toNat % 2 ^ w
    let int (v : Nat) : Int := (BitVec.ofNat w v).toInt
    let gives (i : Instr) (new : Nat) : Prop := ∃ t, exec i s = .next t ∧
      arrives s t 5 (.s d) ws (BitVec.ofNat 2048 (BitVec.ofInt 64 (int old)).toNat) ∧
      storedAt s.mem.bytes t.mem.bytes g.place.dpa (bytesOfNat n new) ∧
      (ord ≠ 0 → closed s t) ∧
      (ord.getLsbD 0 = true → (∀ x ∈ t.core.l1, x.w = false) ∧
        (3 ≤ scope.toNat → ∀ x ∈ t.mem.nc, x.die = (dieOf s.curCore).val → x.dirty ≠ 0))
    Memory.wf s.mem.bytes = true → s.route needRW ea n = .ok (.mem [g]) → g.place.c = true → g.place.rc = false →
    g.place.dpa % n = 0 → quietRelease s (ord.getLsbD 1) scope →
    (∀ i < n, s.mem.poisoned g.place.gran (g.place.dpa + i) = false) → Clear (amoCheck a w8 ord) s →
    gives (.amoAdd ws d a w8 ord scope c) ((old + x) % 2 ^ w) ∧
    gives (.amoMin ws d a w8 ord scope c) (if int x < int old then x else old) ∧
    gives (.amoMax ws d a w8 ord scope c) (if int old < int x then x else old) ∧
    gives (.amoAnd ws d a w8 ord scope c) (old &&& x) ∧ gives (.amoOr ws d a w8 ord scope c) (old ||| x) ∧
    gives (.amoXor ws d a w8 ord scope c) (old ^^^ x) ∧ gives (.amoSwap ws d a w8 ord scope c) x ∧
    gives (.amoCas ws d a w8 ord scope c) (if old = x then y else old)

namespace Sys2Proof.Claims

/-- Nothing but its alignment stands in the way of an access: its bytes translate and no check of them traps (15 R357). -/
def onlyAlignment (s : State) (n : Need) (write near : Bool) (ea len : Nat) : Prop :=
  ∃ r, s.route n ea len = .ok r ∧ ∀ k i, s.routeCheck write near ea len r ≠ .trap k i

end Sys2Proof.Claims

/-- 15 R348: the alignment of each access: one that breaks it takes MISALIGNED, cause 11, at its address (R357: the lowest one of a
gather or a scatter, a tensor run names none, and its elements of 8 bits and more are aligned by its layout); hints have none. -/
def Obligations.AccessAlignment : Prop :=
  ∀ (s : State) (ws rel w8 : Bool) (d a b c : Opnd) (sz ord : BitVec 2) (sx : Bool) (scope : BitVec 3) (off : BitVec 14)
    (k : BitVec 4) (t : Tsr),
    let ea := ((s.ctx.sGet a).toNat + 2 ^ 64 + off.toInt).toNat % 2 ^ 64
    let n := 2 ^ sz.toNat
    let m := if w8 then 8 else 4
    let va := (s.ctx.sGet a).toNat
    let traps (i : Instr) (info : Nat) : Prop := exec i s = .next (s.takeTrap 11 info)
    let lane (i : Nat) : Nat := ((s.ctx.sGet a) + BitVec.ofInt 64 (elS s b 32 i)).toNat
    let lanes (i : Instr) : Prop := (∃ j < 64, lane j % n ≠ 0) →
      ∃ j < 64, traps i (lane j) ∧ lane j % n ≠ 0 ∧ ∀ x < 64, lane x % n ≠ 0 → lane j ≤ lane x
    (s.issued = false →
      (onlyAlignment s needR false true ea n → ea % n ≠ 0 → traps (.ldS ws d a sz sx off) ea ∧ traps (.ldBc ws d a sz sx off) ea) ∧
      (onlyAlignment s needR false false ea n → ea % n ≠ 0 → traps (.ldSB ws d a sz sx off) ea) ∧
      (onlyAlignment s needR false true ea 256 → ea % 4 ≠ 0 → traps (.ldV ws d a off) ea) ∧
      (onlyAlignment s needR false false ea 256 → ea % 4 ≠ 0 → traps (.ldVB ws d a off) ea) ∧
      (onlyAlignment s needR false true ea 8 → ea % 8 ≠ 0 → traps (.ldK ws d a off) ea) ∧
      (onlyAlignment s needW true false ea n → ea % n ≠ 0 → traps (.stS d a sz rel scope off) ea) ∧
      (onlyAlignment s needW true false ea 256 → ea % 4 ≠ 0 → traps (.stV d a rel scope off) ea) ∧
      (sz ≠ 3 → (∀ j < 64, onlyAlignment s needR false true (lane j) n) → lanes (.ldG ws d a b sz)) ∧
      (sz ≠ 3 → (∀ j < 64, onlyAlignment s needW true false (lane j) n) → lanes (.stSc d a b sz)) ∧
      (onlyAlignment s needRW true false va m → va % m ≠ 0 →
        traps (.amoAdd ws d a w8 ord scope c) va ∧ traps (.amoMin ws d a w8 ord scope c) va ∧
        traps (.amoMax ws d a w8 ord scope c) va ∧ traps (.amoAnd ws d a w8 ord scope c) va ∧
        traps (.amoOr ws d a w8 ord scope c) va ∧ traps (.amoXor ws d a w8 ord scope c) va ∧
        traps (.amoSwap ws d a w8 ord scope c) va ∧ traps (.amoCas ws d a w8 ord scope c) va) ∧
      (va < 65536 → readTsr s s.curWho va = .ok t → fmtBits t.fmt = 4 → k.toNat = t.rank → 0 < t.rank →
        (∀ (j x : Nat), t.dims[j]? = some x → (s.ctx.sGet (regAfter a (j + 1))).toNat < x) →
        (s.ctx.sGet (regAfter a t.rank)).toNat % 2 = 1 →
        ∃ x, traps (.ldVt ws d a k) x ∧ traps (.stVt d a k) x)) ∧
    (∃ u, exec (.pf a off) s = .next u ∧ { u.ctx with stall := s.ctx.stall } = s.ctx) ∧ (∃ u, exec (.res a b) s = .next u ∧ u.ctx = s.ctx)

/-- 15 R357: an access to an address that no page maps takes TRANSLATION, cause 13, with INFO its address: every flat load, store and
atomic, the lowest such lane of a gather or a scatter, and a tensor run whose tile or record is not mapped. -/
def Sys2Proof.Claims.UnmappedLoad : Prop :=
  ∀ (s : State) (ws rel w8 : Bool) (d a b c : Opnd) (sz ord : BitVec 2) (sx : Bool) (scope : BitVec 3) (off : BitVec 14)
    (k : BitVec 4) (x : Nat),
    let ea := ((s.ctx.sGet a).toNat + 2 ^ 64 + off.toInt).toNat % 2 ^ 64
    let n := 2 ^ sz.toNat
    let m := if w8 then 8 else 4
    let va := (s.ctx.sGet a).toNat
    let traps (info : Nat) (i : Instr) : Prop := exec i s = .next (s.takeTrap 13 info)
    let lane (i : Nat) : Nat := ((s.ctx.sGet a) + BitVec.ofInt 64 (elS s b 32 i)).toNat
    let missing (nd : Need) (i : Nat) : Prop := s.route nd (lane i) n = .error ⟨13, lane i⟩
    let lowest (nd : Need) (i : Instr) : Prop := ∃ j < 64, traps (lane j) i ∧ missing nd j ∧ ∀ y < 64, missing nd y → lane j ≤ lane y
    s.issued = false →
    (s.route needR ea n = .error ⟨13, x⟩ → ea % n = 0 →
      traps x (.ldS ws d a sz sx off) ∧ traps x (.ldSB ws d a sz sx off) ∧ traps x (.ldBc ws d a sz sx off)) ∧
    (s.route needR ea 256 = .error ⟨13, x⟩ → ea % 4 = 0 → inAperture ea = false →
      traps x (.ldV ws d a off) ∧ traps x (.ldVB ws d a off)) ∧
    (s.route needR ea 8 = .error ⟨13, x⟩ → ea % 8 = 0 → traps x (.ldK ws d a off)) ∧
    (s.route needW ea n = .error ⟨13, x⟩ → ea % n = 0 → traps x (.stS d a sz rel scope off)) ∧
    (s.route needW ea 256 = .error ⟨13, x⟩ → ea % 4 = 0 → inAperture ea = false → traps x (.stV d a rel scope off)) ∧
    (s.route needRW va m = .error ⟨13, x⟩ → va % m = 0 →
      traps x (.amoAdd ws d a w8 ord scope c) ∧ traps x (.amoMin ws d a w8 ord scope c) ∧ traps x (.amoMax ws d a w8 ord scope c) ∧
      traps x (.amoAnd ws d a w8 ord scope c) ∧ traps x (.amoOr ws d a w8 ord scope c) ∧ traps x (.amoXor ws d a w8 ord scope c) ∧
      traps x (.amoSwap ws d a w8 ord scope c) ∧ traps x (.amoCas ws d a w8 ord scope c)) ∧
    (sz ≠ 3 → (∀ j < 64, lane j % n = 0 ∧ (missing needR j ∨ onlyAlignment s needR false true (lane j) n)) →
      (∃ j < 64, missing needR j) → lowest needR (.ldG ws d a b sz)) ∧
    (sz ≠ 3 → (∀ j < 64, lane j % n = 0 ∧ (missing needW j ∨ onlyAlignment s needW true false (lane j) n)) →
      (∃ j < 64, missing needW j) → lowest needW (.stSc d a b sz)) ∧
    (s.runOf needR a k = .error ⟨13, x⟩ → traps x (.ldVt ws d a k)) ∧ (s.runOf needW a k = .error ⟨13, x⟩ → traps x (.stVt d a k))

/-- 15 R358, R359: a hint never traps or stalls and changes no value that any access reads: no byte of memory, no register, no record;
where its page faults it is dropped and counted, by `res` once for each page of its range that faults. While the core drains for a split its
L1 takes nothing (09 R219). -/
def Sys2Proof.Claims.HintsChangeNoValue : Prop :=
  ∀ (s : State) (a b : Opnd) (off : BitVec 14),
    let quiet (i : Instr) : Prop := ∃ t, exec i s = .next t ∧ t.mem.bytes = s.mem.bytes ∧ t.mem.units = s.mem.units ∧
      t.ctx = s.ctx ∧ t.recs = s.recs ∧ t.teams = s.teams ∧ t.agenda = s.agenda
    let ea := ((s.ctx.sGet a).toNat + 2 ^ 64 + off.toInt).toNat % 2 ^ 64
    let va := (s.ctx.sGet a).toNat
    let n := min (s.ctx.sGet b).toNat (2 ^ 20)
    let dropped : State := s.modDctx s.curWho.dctx fun q => { q with hintDrop := BitVec.ofNat 48 (min (q.hintDrop.toNat + 1) (2 ^ 48 - 1)) }
    quiet (.pf a off) ∧ quiet (.res a b) ∧
    (s.core.drain.isSome = true → ∃ t, exec (.pf a off) s = .next t ∧ ∀ x ∈ t.core.l1, x ∈ s.core.l1) ∧
    (∀ x, ea < 0xFF * 2 ^ 48 → translate s s.curWho needR ea = .error x → exec (.pf a off) s = .next dropped) ∧
    -- a range inside one page that faults
    (∀ size, 0 < n → va + n ≤ 0xFF * 2 ^ 48 → va / size = (va + n - 1) / size →
      (∀ i < n, (∃ x, translate s s.curWho needR (va + i) = .error x) ∧ leafSize s s.curWho (va + i) = size) → 4096 ∣ size →
      exec (.res a b) s = .next dropped)

/-! ## Matrix, copy, sync and plan slots (16, 17) -/

/-- 16 R365, R366: `m.acq` makes the context the holder of a free engine, with B at zero and 8-bit, and does nothing for its holder;
`m.rel` frees the engine of a holder with no command queued and does nothing for another context. -/
def Sys2Proof.Claims.EngineAcquireRelease : Prop :=
  ∀ (s : State),
    (Clear acqCheck s → s.core.engine.holder = .nobody →
      ∃ t, exec .mAcq s = .next t ∧ t.core.engine.holder = .ctx s.curCtx ∧ t.core.engine.b = [] ∧ t.core.engine.es = 1 ∧
        t.core.engine.queue = [] ∧ t.ctx.mstat = 0 ∧ t.core.tiles = s.core.tiles ∧ t.mem = s.mem ∧ t.recs = s.recs) ∧
    (Clear acqCheck s → s.core.engine.holder = .ctx s.curCtx → exec .mAcq s = .next s) ∧
    (Clear relMatCheck s → s.core.engine.holder = .ctx s.curCtx →
      ∃ t, exec .mRel s = .next t ∧ t.core.engine.holder = .nobody ∧ t.core.tiles = s.core.tiles ∧ t.mem = s.mem ∧
        ∀ q ∈ t.recs, q.core = s.curCore.val → q.wk ≠ 5) ∧
    (Clear relMatCheck s → s.core.engine.holder ≠ .ctx s.curCtx → exec .mRel s = .next s) ∧
    (s.issued = false → ∀ r, s.curRec = some r → r.hallFree = true →
      exec .mAcq s = .next (s.takeTrap 7 0) ∧ exec .mRel s = .next (s.takeTrap 7 0))

/-- 16 R365, R369: a matrix operation that meets nothing joins the queue of its engine behind the earlier ones, and one with a
destination opens an interlocked result; with no engine held every one of them takes ENGINE_NOT_HELD, cause 8, and of a hall-free thread
NOT_HOME, cause 7. -/
def Sys2Proof.Claims.MatrixOperationsQueue : Prop :=
  ∀ (s : State) (ws h t tr clr axis : Bool) (d a b : Opnd) (mode fmt : BitVec 2) (pair : BitVec 4) (lbl : BitVec 8),
    let queued (i : Instr) : Prop := matCheck i s = .go → ∃ u q, exec i s = .next u ∧
      u.core.engine.queue = s.core.engine.queue ++ [q] ∧ q.op = i ∧ q.ctx = s.curCtx ∧ q.result = none ∧
      u.core.engine.holder = s.core.engine.holder ∧ u.ctx.long = s.ctx.long ∧
      (Instr.matrixCommandComplete, ({ core := s.curCore } : EvArgs)) ∈ u.agenda
    let answered (i : Instr) : Prop := matCheck i s = .go → ∃ u q x, exec i s = .next u ∧
      u.core.engine.queue = s.core.engine.queue ++ [q] ∧ q.op = i ∧ q.ctx = s.curCtx ∧ q.result = some x.id ∧
      u.core.engine.holder = s.core.engine.holder ∧ u.ctx.long = s.ctx.long ++ [x] ∧ x.slot = 3 ∧ x.dest = .s d ∧ x.ws = ws ∧
      x.data = none ∧ (Instr.matrixCommandComplete, ({ core := s.curCore } : EvArgs)) ∈ u.agenda
    queued (.mMode t mode) ∧ queued (.mLdb a b) ∧ queued (.mLdbEdge a b) ∧ queued (.mLdbx a b) ∧
    queued (.mMma pair h t lbl a b) ∧ queued (.mZero t) ∧ queued (.mZpc t lbl a b) ∧ queued (.mSpill t lbl) ∧
    queued (.mFill t lbl) ∧ queued (.mTopo h t a b) ∧
    answered (.mBind ws d a b clr fmt axis t) ∧ answered (.mDrainWrap ws d a b tr t lbl) ∧
    answered (.mDrainSat ws d a b tr t lbl) ∧ answered (.mDrainRq ws d a b tr t lbl) ∧
    answered (.mDrainFlt ws d a b tr t lbl) ∧ answered (.mWait ws d) ∧
    (let all : List Instr := [.mMode t mode, .mLdb a b, .mLdbEdge a b, .mLdbx a b, .mMma pair h t lbl a b, .mZero t, .mZpc t lbl a b,
      .mSpill t lbl, .mFill t lbl, .mTopo h t a b, .mBind ws d a b clr fmt axis t, .mDrainWrap ws d a b tr t lbl,
      .mDrainSat ws d a b tr t lbl, .mDrainRq ws d a b tr t lbl, .mDrainFlt ws d a b tr t lbl, .mWait ws d]
     (s.issued = false → (∀ r, s.curRec = some r → r.hallFree = false) → s.core.engine.holder ≠ .ctx s.curCtx →
       ∀ i ∈ all, exec i s = .next (s.takeTrap 8 0)) ∧
     (s.issued = false → ∀ r, s.curRec = some r → r.hallFree = true → ∀ i ∈ all, exec i s = .next (s.takeTrap 7 0)))

/-- 11 R265, R266: an integer product adds, to every entry of the rows of a and columns of b, the sum of the kept products, modulo
2^48, and leaves every other entry alone. -/
def Obligations.IntegerProductAccumulates : Prop :=
  ∀ (t : Tile) (slot row0 pair k : Nat) (a b : List (List Nat)) (kept : List Bool),
    t.mode = 0 → pair < 8 → a.length + row0 ≤ 64 → b.length ≤ 256 → slot < 8 → kept.length = k →
    (∀ r ∈ a, r.length = k) → (∀ c ∈ b, c.length = k) → tableWf Entry.zero t.entries = true →
    let t' := t.product slot row0 pair a b kept
    (∀ i j ra cb, a[i]? = some ra → b[j]? = some cb →
      (t'.at_ slot (row0 + i) j).val =
        intEntry (sextN 48 (t.at_ slot (row0 + i) j).val.toNat +
          (((List.range k).filter fun n => kept.getD n false).map fun n =>
            intElem (pairFmts pair).1 (ra.getD n 0) * intElem (pairFmts pair).2 (cb.getD n 0)).sum)) ∧
    (∀ i j, i < row0 ∨ row0 + a.length ≤ i ∨ b.length ≤ j → i < 64 → j < 256 → t'.at_ slot i j = t.at_ slot i j) ∧
    t'.kcount = BitVec.ofNat 32 (t.kcount.toNat + kept.countP id)

namespace Sys2Proof.Claims

/-- A job but for the leave that its engine has been granted. -/
def ungranted (j : Job) : Job := { j with grant := none }

end Sys2Proof.Claims

/-- 17 R388, R389: a job-issuing instruction captures its card, takes the team's next tag, and enters the job in the hall scheduler;
the tag is an interlocked result still to come. Where its copy must ask for leave (01 R30), engines of other jobs may be granted theirs at
the same time. -/
def Sys2Proof.Claims.JobIssue : Prop :=
  ∀ (s u : State) (ws : Bool) (d a : Opnd) (r : Rec) (t : Team) (got : Got),
    let va := (s.ctx.sGet a).toNat
    s.curRec = some r → s.teamOf r.grid r.team = some t → s.cardAt va = some (got, u) →
    let issues (op : Nat) (i : Instr) : Prop := Clear (cpCheck op a) s → ∃ w j x t', exec i s = .next w ∧
      j ∈ w.jobs ∧ w.jobs.map ungranted = s.jobs.map ungranted ++ [ungranted j] ∧ j.owner = .thread r.va ∧ j.grid = r.grid ∧ j.team = r.team ∧ j.tag = t.nextTag.toNat ∧
      j.card = blockOf got.bytes ∧ j.wantOp = op ∧ j.state = .entering ∧ j.result = some (x.id, agentOf s.curCore s.curCtx) ∧
      w.ctx.long = s.ctx.long ++ [x] ∧ x.slot = 6 ∧ x.dest = .s d ∧ x.ws = ws ∧ x.data = none ∧
      w.teamOf r.grid r.team = some t' ∧ t'.nextTag.toNat = (if t.nextTag.toNat = 2 ^ 32 - 1 then 1 else t.nextTag.toNat + 1) ∧
      (Instr.jobCardEntry, ({ id := j.id } : EvArgs)) ∈ w.agenda
    issues 1 (.cpCopy ws d a) ∧ issues 2 (.cpGath ws d a) ∧ issues 3 (.cpScat ws d a) ∧ issues 4 (.cpFill ws d a) ∧
    issues 5 (.cpExpand ws d a) ∧ issues 6 (.cpSeal ws d a) ∧ issues 7 (.cpGal ws d a) ∧ issues 8 (.cpColl ws d a) ∧
    issues 9 (.cpCkpt ws d a) ∧ issues 0 (.cpJob ws d a)

/-- 17 R388, R389: every job-issuing instruction completes where its checks pass: the job is entered under the team's tag. -/
def Sys2Proof.Claims.CopySlotCompletes : Prop :=
  ∀ (s : State) (ws : Bool) (d a : Opnd) (r : Rec), s.curRec = some r →
    let enters (op : Nat) (i : Instr) : Prop := cpCheck op a s = .go → ∃ u j, exec i s = .next u ∧ u.jobs = s.jobs ++ [j] ∧
      j.owner = .thread r.va ∧ j.wantOp = op ∧ j.state = .entering ∧ (Instr.jobCardEntry, ({ id := j.id } : EvArgs)) ∈ u.agenda
    enters 1 (.cpCopy ws d a) ∧ enters 2 (.cpGath ws d a) ∧ enters 3 (.cpScat ws d a) ∧ enters 4 (.cpFill ws d a) ∧
    enters 5 (.cpExpand ws d a) ∧ enters 6 (.cpSeal ws d a) ∧ enters 7 (.cpGal ws d a) ∧ enters 8 (.cpColl ws d a) ∧
    enters 9 (.cpCkpt ws d a) ∧ enters 0 (.cpJob ws d a)

/-- 17 R401, R402: `cp.stat` answers UNK, the state of a job in flight, or the status of one of the recently ended jobs; `cp.cancel`
of an unknown tag does nothing, and a job it names that has not been issued yet or is running ends CANCELLED, status 10. That a job whose
own completion is already being posted takes no notice of it is the model's choice (log entry 53). -/
def Sys2Proof.Claims.JobStatusAndCancel : Prop :=
  ∀ (s : State) (ws : Bool) (d a : Opnd) (r : Rec),
    let tag := (s.ctx.sGet a).toNat
    let answers (x : Word) : Prop := ∃ t, exec (.cpStat ws d a) s = .next t ∧ arrives s t 6 (.s d) ws (x.setWidth 2048)
    let mine (j : Job) : Prop := j.grid = r.grid ∧ j.team = r.team ∧ j.tag = tag ∧ j.state ≠ .ended
    s.curRec = some r →
    ((∀ j ∈ s.jobs, ¬ mine j) → (∀ t, s.teamOf r.grid r.team = some t → ∀ x ∈ t.recent, x.1 ≠ tag) →
      answers (BitVec.ofNat 64 (2 ^ 63)) ∧ exec (.cpCancel a) s = .next s) ∧
    (∀ j, tag ≠ 0 → (s.jobs.filter fun j => j.grid == r.grid && j.team == r.team && j.tag == tag && j.state != .ended) = [j] →
      answers (BitVec.ofNat 64 (min j.oor (2 ^ 32 - 1) * 2 ^ 16)) ∧
      ((s.jobs.filter fun k => k.id == j.id) = [j] → j.state = .entering ∨ j.state = .waiting ∨ j.state = .running →
        ∃ t k, exec (.cpCancel a) s = .next t ∧ t.jobOf j.id = some k ∧ k.state = .finishing ∧ k.status = 10 ∧
          k.byOther = (j.owner != .thread r.va) ∧ (Instr.jobComplete, ({ id := j.id } : EvArgs)) ∈ t.agenda) ∧
      (j.state = .posting → exec (.cpCancel a) s = .next s))

/-- 17 R403, R410: a post adds 1 modulo 2^16 to one flag of the team it names and closes the region; a team the grid does not have
gets none; `y.sev` ORs its bits into the latch of every context of the team, also of a thread off its context, whose latch stands in its
context block (08 R215), and of a team the grid does not have into none. -/
def Sys2Proof.Claims.PostsAndEvents : Prop :=
  ∀ (s : State) (a : Opnd) (own : Bool) (scope : BitVec 3) (flag : BitVec 5) (ev : BitVec 8),
    (Clear releaseCheck s → quietRelease s true scope → ∀ g n t, s.namedTeam own a = some (g, n) → s.teamOf g n = some t →
      t.core ≠ none →
      ∃ u t', exec (.yPost a own scope flag) s = .next u ∧ u.teamOf g n = some t' ∧ closed s u ∧ u.mem.bytes = s.mem.bytes ∧
        (∀ f : Fin 32, t'.flags.get f = if f.val = flag.toNat then t.flags.get f + 1 else t.flags.get f) ∧
        (Instr.waitSatisfied, ({} : EvArgs)) ∈ u.agenda) ∧
    (Clear releaseCheck s → quietRelease s true scope → s.namedTeam own a = none →
      ∃ u, exec (.yPost a own scope flag) s = .next u ∧ u.teams = s.teams ∧ closed s u) ∧
    (∀ g n, s.namedTeam own a = some (g, n) → ∃ u, exec (.ySev a own ev) s = .next u ∧
      (∀ t, s.teamOf g n = some t → t.core ≠ none →
        (∀ q ∈ s.recs, q.grid = g → q.team = n → q.onCtx = none → q.saved = false) → u.mem = s.mem) ∧
      (∀ q, (s.recs.filter fun r => r.grid == g && r.team == n && r.onCtx.isNone) = [q] →
        (s.recs.filter fun r => r.va == q.va && r.grid == q.grid) = [q] →
        (∃ q', u.recOf q.va q.grid = some q' ∧ q'.evl = q.evl ||| ev.toNat) ∧
        (∀ t, s.teamOf g n = some t → t.core ≠ none → Memory.wf t.spad = true → q.saved = true → q.imgBlock = none → q.fsp = true →
          spadGood t (q.frame + 0x3E8) 2 → ∃ t', u.teamOf g n = some t' ∧ u.mem = s.mem ∧
            natOfBytes (Memory.read t'.spad (q.frame + 0x3E8) 2) = natOfBytes (Memory.read t.spad (q.frame + 0x3E8) 2) ||| ev.toNat)) ∧
      (∀ q ∈ s.recs, q.grid = g → q.team = n → ∀ k, q.onCtx = some k →
        (u.ctxAt (splitAgent k).1 (splitAgent k).2).evl =
          (s.ctxAt (splitAgent k).1 (splitAgent k).2).evl ||| BitVec.ofNat 16 ev.toNat) ∧
      (Instr.waitSatisfied, ({} : EvArgs)) ∈ u.agenda) ∧
    (s.namedTeam own a = none → exec (.ySev a own ev) s = .next s)

/-- 17 R404, R405, R410, R415: a wait whose condition holds completes at once, and one for a flag or a signal is then an acquire; one whose
condition does not hold is pending with its operands, stops the context where SP is set, and changes nothing else; a mask of 0 completes at
once with 0. `y.wfe` finds the event latch as its bundle found it (13 R315). -/
def Sys2Proof.Claims.WaitsPendOrComplete : Prop :=
  ∀ (s : State) (ws rel : Bool) (d a : Opnd) (scope : BitVec 3) (flag : BitVec 5) (r : Rec) (t : Team),
    s.curRec = some r → s.teamOf r.grid r.team = some t →
    let x := (s.ctx.sGet a).toNat
    let pends (i : Instr) (cond : WaitCond) (dst : Dest) (ws : Bool) : Prop :=
      exec i s = .next (s.modCtx fun c => { c with wait := some ⟨cond, dst, ws, s.curWord, s.curHeader.getLsbD 2⟩ })
    (Clear syncCheck s → (t.flags.get flag.toFin).toNat < x % 65536 →
      pends (.yWait a scope flag) (.flag flag.toNat (x % 65536) scope.toNat) .nowhere false) ∧
    (s.mem.epochBlocked s.curAgent = none → x % 65536 ≤ (t.flags.get flag.toFin).toNat →
      ∃ u, exec (.yWait a scope flag) s = .next u ∧ u.ctx.wait = none ∧ closed s u ∧ ∀ l ∈ u.core.l1, l.w = false) ∧
    (∀ segs, Clear (fun s => (sigCheck needR (x % 2 ^ 32) s).both (syncCheck s)) s →
      translateRange s s.curWho needR (s.sigVa s.curWho.dctx (x % 2 ^ 32)) 8 = .ok segs →
      (s.registerSegs segs false).condHolds (dieOf s.curCore).val r.grid r.team s.ctx.evl (.signal (x % 2 ^ 32) scope.toNat) = false →
      ((∀ g ∈ segs, g.place.rc = false) → pends (.yWaitSig a scope) (.signal (x % 2 ^ 32) scope.toNat) .nowhere false) ∧
      -- on a race-checked page the read registers first (03 R73, 10 R254)
      ((∃ g ∈ segs, g.place.rc = true) → ∃ u w, exec (.yWaitSig a scope) s = .next u ∧ u.ctx.wait = some w ∧
        w.cond = .signal (x % 2 ^ 32) scope.toNat ∧ u.mem = (s.registerSegs segs false).mem ∧
        u.ctx.filter = (s.registerSegs segs false).ctx.filter)) ∧
    (∀ segs, Clear (fun s => (sigCheck needR (x % 2 ^ 32) s).both (syncCheck s)) s → s.mem.epochBlocked s.curAgent = none →
      translateRange s s.curWho needR (s.sigVa s.curWho.dctx (x % 2 ^ 32)) 8 = .ok segs →
      (s.registerSegs segs false).condHolds (dieOf s.curCore).val r.grid r.team s.ctx.evl (.signal (x % 2 ^ 32) scope.toNat) = true →
      ∃ u, exec (.yWaitSig a scope) s = .next u ∧ u.ctx.wait = none ∧ closed s u ∧ u.mem.bytes = s.mem.bytes ∧
        (∀ l ∈ u.core.l1, l.w = false) ∧ (3 ≤ scope.toNat → ∀ y ∈ u.mem.nc, y.die = (dieOf s.curCore).val → y.dirty ≠ 0)) ∧
    (let evl : BitVec 16 := (s.ctlRead 6).setWidth 16
     (x % 65536 ≠ 0 → (evl &&& BitVec.ofNat 16 x) = 0 → pends (.yWfe ws d a) (.event (x % 65536)) (.s d) ws) ∧
     ((evl &&& BitVec.ofNat 16 x) ≠ 0 →
       ∃ u, exec (.yWfe ws d a) s = .next u ∧ u.ctx.wait = none ∧ u.ctx.evl = s.ctx.evl &&& ~~~ (evl &&& BitVec.ofNat 16 x) ∧
         u.ctx.last.get 14 = ((evl &&& BitVec.ofNat 16 x).setWidth 2048))) ∧
    (x % 65536 = 0 → ∃ u, exec (.yWfe ws d a) s = .next u ∧ arrives s u 7 (.s d) ws 0) ∧
    (∀ p, x < 256 → s.mem.epochBlocked s.curAgent = none → s.planAt s.curWho x = some p →
      (p.st = .planning ∨ p.st = .running → pends (.yQwait ws d a rel) (.plan x rel) (.s d) ws) ∧
      (p.st = .done → rel = false → ∃ u, exec (.yQwait ws d a rel) s = .next u ∧ u.ctx.wait = none ∧ closed s u ∧
        u.ctx.last.get 14 = 0))

/-- 17 R406, 03 R72, R77, 09 R220: an acquire fence leaves no W = 1 line in the core's L1, and at grid or system scope no clean C = 0
line in its die; a release at those scopes leaves no dirty one; each fence closes the region of its agent. R412 and R215 name no INFO of
TSR_RANGE: that it is the tensor id is the model's choice (log entry 41). -/
def Obligations.FencesOrderMemory : Prop :=
  ∀ (s : State) (scope : BitVec 3),
    let die := (dieOf s.curCore).val
    let cleanGone (u : State) : Prop := (∀ l ∈ u.core.l1, l.w = false) ∧
      (3 ≤ scope.toNat → ∀ x ∈ u.mem.nc, x.die = die → x.dirty ≠ 0)
    let dirtyGone (u : State) : Prop := 3 ≤ scope.toNat → ∀ x ∈ u.mem.nc, x.die = die → x.dirty = 0
    (Clear acqFenceCheck s → ∃ u, exec (.yFenceAcq scope) s = .next u ∧ cleanGone u ∧ closed s u ∧ u.mem.bytes = s.mem.bytes) ∧
    (Clear (fun s => (relFenceCheck s).both (syncCheck s)) s →
      (∃ u, exec (.yFenceRel scope) s = .next u ∧ dirtyGone u ∧ closed s u) ∧
      (∃ u, exec (.yFenceAr scope) s = .next u ∧ (∀ l ∈ u.core.l1, l.w = false) ∧
        (3 ≤ scope.toNat → ∀ x ∈ u.mem.nc, x.die ≠ die) ∧ closed s u)) ∧
    (Clear releaseCheck s → ∃ u, exec .yTsrinvAll s = .next u ∧ (∀ x ∈ u.mem.nc, x.die = die → x.dirty = 0) ∧ closed s u) ∧
    (∀ a, Clear (fun s => (if 65536 ≤ (s.ctx.sGet a).toNat then Check.trap 16 (s.ctx.sGet a).toNat else .go).both (releaseCheck s)) s →
      ∃ u, exec (.yTsrinv a) s = .next u ∧ (∀ x ∈ u.mem.nc, x.die = die → x.dirty = 0) ∧ closed s u) ∧
    (Clear ifenceCheck s → exec .yIfence s = .next s) ∧
    (∀ a, s.issued = false → 65536 ≤ (s.ctx.sGet a).toNat →
      exec (.yTsrinv a) s = .next (s.takeTrap 16 (s.ctx.sGet a).toNat))

/-- 17 R407, R408: an arrival takes the expected bytes from PEND and adds 1 to ARR; the phase completes when ARR reaches EXP with PEND
at 0, and PH rises and flag FL is posted; `y.barw` then waits for FL to reach PH + 1. -/
def Obligations.BarrierArrivals : Prop :=
  (∀ (w pend : Nat), bitsN w 61 3 = 0 → bitsN w 112 16 = 0 → w < 2 ^ 128 → bitsN w 80 16 ≠ 0 → bitsN w 64 16 < 2 ^ 16 - 1 →
    let p := (bitsN w 0 56 + pend) % 2 ^ 56
    let n := barrierStep w pend 1
    let full := bitsN w 64 16 + 1 = bitsN w 80 16 ∧ p = 0
    bitsN n.1 56 8 = bitsN w 56 8 ∧ bitsN n.1 80 16 = bitsN w 80 16 ∧
    (full → bitsN n.1 0 56 = 0 ∧ bitsN n.1 64 16 = 0 ∧ bitsN n.1 96 16 = (bitsN w 96 16 + 1) % 65536 ∧ n.2 = some (bitsN w 56 5)) ∧
    (¬ full → bitsN n.1 0 56 = p ∧ bitsN n.1 64 16 = bitsN w 64 16 + 1 ∧ bitsN n.1 96 16 = bitsN w 96 16 ∧ n.2 = none)) ∧
  (∀ (s : State) (a : Opnd) (scope : BitVec 3) (bar : BitVec 8) (r : Rec) (t : Team),
    Clear barCheck s → quietRelease s true scope → s.curRec = some r → s.teamOf r.grid r.team = some t → t.core ≠ none →
    let off := barrierOff (((s.gridOf r.grid).map (·.spad)).getD 0) bar.toNat
    let n := barrierStep (s.barrierWord r.grid r.team bar.toNat) (2 ^ 56 - (s.ctx.sGet a).toNat % 2 ^ 56) 1
    (∃ u t', exec (.yBar a scope bar) s = .next u ∧ u.teamOf r.grid r.team = some t' ∧ closed s u ∧
      t'.spad = Memory.write t.spad off (bytesOfNat 16 n.1) ∧
      ∀ f : Fin 32, t'.flags.get f = if n.2 = some f.val then t.flags.get f + 1 else t.flags.get f) ∧
    (n.2 = none → (t.flags.get ⟨bitsN (s.barrierWord r.grid r.team bar.toNat) 56 5 % 32, Nat.mod_lt _ (by decide)⟩).toNat <
        (bitsN (s.barrierWord r.grid r.team bar.toNat) 96 16 + 1) % 65536 →
      ∃ u w, exec (.yBarw a scope bar) s = .next u ∧ u.ctx.wait = some w ∧ closed s u ∧
        w.cond = .flag (bitsN (s.barrierWord r.grid r.team bar.toNat) 56 5)
          ((bitsN (s.barrierWord r.grid r.team bar.toNat) 96 16 + 1) % 65536) scope.toNat))

/-- 17 R411, 05 R120: `y.sig` takes one from a signal that is not negative and leaves a negative one alone; an index beyond the pool
takes PROTECTION, cause 14, with INFO the signal's address. The signal's page is coherent and clean. -/
def Sys2Proof.Claims.SignalDecrement : Prop :=
  ∀ (s : State) (a : Opnd) (scope : BitVec 3) (g : Seg),
    let i := (s.ctx.sGet a).toNat
    let va := s.sigVa s.curWho.dctx i
    let old : Int := (BitVec.ofNat 64 (natOfBytes (Memory.read s.mem.bytes g.place.dpa 8))).toInt
    (Memory.wf s.mem.bytes = true → quietRelease s true scope → Clear (fun s => (sigCheck needRW i s).both (releaseCheck s)) s →
      (∀ n, translateRange s s.curWho n va 8 = .ok [g]) → g.off = 0 → g.len = 8 → g.place.c = true → g.place.dpa % 8 = 0 →
      (∀ k < 8, s.mem.poisoned g.place.gran (g.place.dpa + k) = false) →
      ∃ u, exec (.ySig a scope) s = .next u ∧ closed s u ∧
        (0 ≤ old → storedAt s.mem.bytes u.mem.bytes g.place.dpa (bytesOfNat 8 (BitVec.ofInt 64 (old - 1)).toNat)) ∧
        (old < 0 → u.mem.bytes = s.mem.bytes)) ∧
    (s.issued = false → 2 ^ (s.dctxOf s.curWho.dctx).logs ≤ i → exec (.ySig a scope) s = .next (s.takeTrap 14 va))

/-- 09 R219: a split applies min(C′, 12, 16 − A) and answers it; a new split drains the core for 1,024 cycles, and then it is in
force; an equal one changes nothing. -/
def Sys2Proof.Claims.SplitDrains : Prop :=
  ∀ (s : State) (ws : Bool) (d : Opnd) (n : BitVec 4),
    let c := min (min n.toNat 12) (16 - s.unitsHeld s.curCore.val)
    Clear splitCheck s →
    ∃ u, exec (.ySplit ws d n) s = .next u ∧ arrives s u 7 (.s d) ws (BitVec.ofNat 2048 c) ∧
      (c = s.core.cacheUnits → u.core.drain = s.core.drain ∧ u.core.l1 = s.core.l1 ∧ u.timers = s.timers) ∧
      (c ≠ s.core.cacheUnits → u.core.drain = some (c, s.now + 2048) ∧ u.core.cacheUnits = s.core.cacheUnits ∧
        (s.now + 2048, Instr.splitDrainEnd, ({ core := s.curCore } : EvArgs)) ∈ u.timers ∧
        ∃ v, exec .splitDrainEnd { u with arg := { core := s.curCore } } = .next v ∧ v.core.cacheUnits = c ∧ v.core.drain = none)

/-- 09 R223: a swap of a clean entry commits: the selection turns over, RF is 0, and the result is 0, or 1 after a refetch; a residue
mark refuses with 3 and poison after two refetches with 2, and the selection stands. -/
def Sys2Proof.Claims.SwapCommitsOrRefuses : Prop :=
  ∀ (s : State) (ws : Bool) (d : Opnd) (e : BitVec 3) (r : Rec) (t : Team),
    s.curRec = some r → s.teamOf r.grid r.team = some t → Memory.wf t.spad = true →
    let p := s.phase r.grid r.team e.toNat
    let base := phaseOff (((s.gridOf r.grid).map (·.spad)).getD 0) e.toNat
    t.spadBad = [] → Clear (swapCheck e) s →
    let ends (x : Word) (sel : Bool) (rf : Nat) : Prop := ∃ u t', exec (.ySwap ws d e) s = .next u ∧
      u.teamOf r.grid r.team = some t' ∧ arrives s u 7 (.s d) ws (x.setWidth 2048) ∧
      (Memory.byte t'.spad (base + 8)).getLsbD 0 = sel ∧ (Memory.byte t'.spad (base + 9)).toNat = rf
    (p.res = false → p.pz = false → ends (if 0 < p.rf then 1 else 0) (!p.sel) 0) ∧
    (p.res = true → ends 3 p.sel p.rf) ∧
    (p.res = false → p.pz = true → 2 ≤ p.rf → ends 2 p.sel 0)

/-- 01 R29, 17 R418: a reservation that fits is granted, held and given back whole by `y.leave.rel`. One that no longer fits behind an
operation of its own bundle that has taken leave is requested before the thread next issues (log entry 73). -/
def Sys2Proof.Claims.LeaveReservation : Prop :=
  ∀ (s : State) (cls any : BitVec 2),
    (leaveReserveCheck cls s = .go → ∃ u, exec (.yLeave cls) s = .next u ∧ u.ctx.reserve = some (cls, false) ∧
      u.ctx.rereserve = none ∧ u.mem = s.mem ∧ u.recs = s.recs) ∧
    (s.issued = true → leaveReserveCheck cls s ≠ .go → ∃ u, exec (.yLeave cls) s = .next u ∧ u.ctx.reserve = none ∧
      u.ctx.rereserve = some cls ∧ u.mem = s.mem ∧ u.recs = s.recs) ∧
    (∃ u, exec (.yLeaveRel any) s = .next u ∧ u.ctx.reserve = none ∧ u.mem = s.mem ∧ ∀ g ∈ (u.dieAt (dieOf s.curCore)).grants, g.owner = s.curAgent → g.reservation = false)

/-- 17 R414 to R417: submissions answer at once with a reject code or open a result for their handle; the handle operations act on a
live handle and take PLAN_STATE, cause 23, on any other. These rules name no INFO: that it is the whole register value is the model's
choice (log entry 41). -/
def Sys2Proof.Claims.PlanSlotOperations : Prop :=
  ∀ (s : State) (ws whole : Bool) (d a b : Opnd) (h : BitVec 8) (node : BitVec 5) (p : Plan),
    let x := (s.ctx.sGet a).toNat
    let y := (s.ctx.sGet b).toNat
    (x % 8 ≠ 0 ∨ y % 8 ≠ 0 → ∃ u, exec (.yQsub ws d a b) s = .next u ∧ arrives s u 7 (.s d) ws 2 ∧ u.plans = s.plans) ∧
    (Clear (queryCheck x y) s → ∃ u q, exec (.yQsub ws d a b) s = .next u ∧ u.ctx.long = s.ctx.long ++ [q] ∧ q.slot = 7 ∧
      q.dest = .s d ∧ q.ws = ws) ∧
    (Clear (queryCheck p.desc p.bind) s → s.planAt s.curWho h.toNat = some p → p.st = .invalid →
      ∃ u q, exec (.yQsubRe ws d h) s = .next u ∧ u.ctx.long = s.ctx.long ++ [q] ∧ q.slot = 7 ∧ q.dest = .s d ∧ q.ws = ws) ∧
    (s.planAt s.curWho x = some p → x < 256 →
      (s.plans.filter fun q => q.id == p.id) = [p] → tableWf 0 p.hints = true → hintOk y = true → y % 32 < p.nodes.length →
      ∃ u q, exec (.yHint a b) s = .next u ∧ u.planOf p.id = some q ∧
        tget q.hints (y % 32) 0 = (if y.testBit 8 ∨ y.testBit 12 then BitVec.ofNat 16 y else 0) ∧ q.st = p.st) ∧
    (s.issued = false → s.planAt s.curWho x = none →
      exec (.yHint a b) s = .next (s.takeTrap 23 x) ∧ exec (.yPin a whole node) s = .next (s.takeTrap 23 x) ∧
      exec (.yUnpin a whole node) s = .next (s.takeTrap 23 x) ∧ exec (.yQrun a) s = .next (s.takeTrap 23 x))

/-! ## Events of the package, its monitors and its security (01, 04, 05) -/

namespace Sys2Proof.Claims

/-- One entry of the security log at NEXT, and MAXLEVEL (05 R137). -/
def logged (s t : State) (level : Nat) : Prop :=
  t.sec.next.toNat = (s.sec.next.toNat + 1) % 64 ∧ t.sec.maxLevel = max s.sec.maxLevel level ∧
  (∀ i < 64, i ≠ s.sec.next.toNat % 64 → getIdx t.sec.log i 0 = getIdx s.sec.log i 0) ∧
  bitsN (getIdx t.sec.log (s.sec.next.toNat % 64) 0).toNat 0 64 = s.micros % 2 ^ 64 ∧
  bitsN (getIdx t.sec.log (s.sec.next.toNat % 64) 0).toNat 72 56 = level

/-- Open sessions are aborted without their keys and reports, and a waiting patch is cancelled (05 R137). -/
def zeroised (s t : State) : Prop :=
  (∀ i, t.sec.session i = (s.sec.session i).map fun _ => ⟨0, none, none, true⟩) ∧ t.sec.patch = none ∧
  (s.sec.patch ≠ none → t.sec.fwStat = 6)

/-- A device event is recorded and its message sent unless masked; a fatal one takes the ports down (04 R90 to R92). -/
def reported (s t : State) (cls src fn die step : Nat) : Prop :=
  (s.errs.ferr.v = true → t.errs.ferr = s.errs.ferr) ∧
  (s.errs.ferr.v = false → t.errs.ferr.v = true ∧ t.errs.ferr.cls.toNat = cls ∧ t.errs.ferr.src.toNat = src ∧
    t.errs.ferr.die.toNat = die ∧ t.errs.ferr.step.toNat = step ∧ t.errs.ferr.fn.toNat = fn) ∧
  t.errs.sent = s.errs.sent ++
    (if (if cls = 0 then getIdx s.errs.corMask fn false else getIdx s.errs.uncMask fn false) then [] else [.aer cls src fn]) ∧
  (cls = 2 → t.power.fatal = true ∧ ∀ i < 16, getIdx t.fz.up i true = false) ∧
  (cls ≠ 2 → t.power = s.power ∧ t.fz = s.fz)

/-- Nothing of the threads, of memory or of the schedule has moved. -/
def workStands (s t : State) : Prop :=
  t.mem = s.mem ∧ t.cores = s.cores ∧ t.recs = s.recs ∧ t.teams = s.teams ∧ t.grids = s.grids ∧ t.jobs = s.jobs ∧
  t.plans = s.plans ∧ t.dctxs = s.dctxs ∧ t.now = s.now

end Sys2Proof.Claims

/-- 01 R22 to R24, 05 R137: what the two resets leave, and the steps of bring-up: a step that ends well starts the next one, step 4
leaves memory zero, step 6 sets the reset split; a step that fails is reported and goes no further. Model choices among these: a locked
part stops at step 2 (log entry 4), and every core, die, context, register and table that R22 to R24 do not name is what it is in
`State.reset` after either reset (log entries 5 and 8). -/
def Obligations.ResetAndBringup : Prop :=
  ∀ (s : State),
    let z := State.reset
    let st := s.power.bringup
    (∃ t, exec .coldReset s = .next t ∧ t.power = z.power ∧ t.mem = z.mem ∧ t.cores = z.cores ∧ t.dies = z.dies ∧
      t.dctxs = z.dctxs ∧ t.regs = z.regs ∧ t.recs = [] ∧ t.grids = [] ∧ t.sec.lock = s.sec.lock ∧
      t.sec.counter = s.sec.counter ∧ t.hostMem = s.hostMem) ∧
    (∃ t, exec .warmReset s = .next t ∧ t.power.bringup = 2 ∧ t.power.fatal = false ∧ t.mem.bytes = s.mem.bytes ∧
      t.mem.units = s.mem.units ∧ t.cores = z.cores ∧ t.dies = z.dies ∧ t.dctxs = z.dctxs ∧ t.regs = z.regs ∧ t.recs = [] ∧
      t.grids = [] ∧ t.sec.log = s.sec.log ∧ t.sec.maxLevel = s.sec.maxLevel ∧ t.sec.lock = s.sec.lock ∧
      t.sec.patch = none ∧ t.sec.fwVer = s.sec.imgVer ∧ t.hostMem = s.hostMem) ∧
    (s.power.failedStep = none → s.sec.lock = false →
      (s.arg.flag = true → 1 ≤ st → st ≤ 6 → ∃ t, exec .bringupStepDone s = .next t ∧ t.power.bringup = st + 1 ∧
        t.power.failedStep = none ∧
        t.mem.bytes = (if st = 4 then [] else s.mem.bytes) ∧ t.mem.units = (if st = 4 then [] else s.mem.units) ∧
        (st = 6 → ∀ c, (t.coreAt c).cacheUnits = 8) ∧ (st ≠ 6 → t.cores = s.cores)) ∧
      (s.arg.flag = false → st = 2 → ∃ t, exec .bringupStepDone s = .next t ∧ t.power.failedStep = some 2 ∧
        t.sec.lock = true ∧ t.sec.keys = false ∧ logged s t 3 ∧ zeroised s t) ∧
      (s.arg.flag = false → st = 3 ∨ st = 4 ∨ st = 5 → ∃ t, exec .bringupStepDone s = .next t ∧
        t.power.failedStep = some st ∧ t.power.fatal = true ∧ reported s t 2 13 0 0 st)) ∧
    (s.power.failedStep = none → s.sec.lock = true → st = 2 → ∃ t, exec .bringupStepDone s = .next t ∧
      t.power.failedStep = some 2 ∧ workStands s t ∧ t.sec = s.sec)

/-- 01 R21, R26, R31 to R33: droop, HOT, the critical trip and the recovery from it, and what an estimate of power does to LIMIT. -/
def Obligations.PowerMonitors : Prop :=
  ∀ (s : State),
    let a := s.arg
    let d := s.dieAt a.die
    let capQ := if d.hot then 3 * d.cap.toNat else 4 * d.cap.toNat
    let halved (e : Die) : Prop := e.limit.toNat = (if 8 ≤ d.limit.toNat / 2 then d.limit.toNat / 2 else min d.limit.toNat 8) ∧
      (e.limit.toNat < d.limit.toNat → e.exc = true)
    (∃ t, exec .droopDetect s = .next t ∧ (t.coreAt a.core).stretched = a.flag ∧ t.mem = s.mem ∧ t.recs = s.recs ∧
      ∀ c, (t.coreAt c).ctxs = (s.coreAt c).ctxs ∧ (t.coreAt c).running = (s.coreAt c).running) ∧
    (∃ t, exec .thermalHot s = .next t ∧ (t.dieAt a.die).hot = a.flag ∧ (∀ e, e ≠ a.die → t.dieAt e = s.dieAt e) ∧
      workStands s t) ∧
    (∃ t, exec .criticalTrip s = .next t ∧ (t.dieAt a.die).tripped = true ∧ (∀ e, e ≠ a.die → t.dieAt e = s.dieAt e) ∧
      logged s t 1 ∧ reported s t 0 6 0 a.die.val 0 ∧ workStands s t ∧ ∀ c, dieOf c = a.die → t.frozen c = true) ∧
    -- the frozen contexts go on where they stopped; one that was about to leave its context may do so now
    (∃ t, exec .tripRecovery s = .next t ∧ (t.dieAt a.die).tripped = false ∧ (∀ c, dieOf c = a.die → c ∈ t.busy) ∧
      ((∀ p ∈ s.contexts, dieOf p.1 = a.die → (s.ctxAt p.1 p.2).leaving = none) →
        (∀ e, e ≠ a.die → t.dieAt e = s.dieAt e) ∧ workStands s t ∧
        (∀ p ∈ s.contexts, dieOf p.1 = a.die → ∀ r ∈ (s.ctxAt p.1 p.2).long, r.data.isSome = true →
          (Instr.interlockArrival, ({ core := p.1, ctx := p.2, id := r.id } : EvArgs)) ∈ t.agenda) ∧
        ∀ c, dieOf c = a.die → (s.coreAt c).engine.queue ≠ [] →
          (Instr.matrixCommandComplete, ({ core := c } : EvArgs)) ∈ t.agenda)) ∧
    -- while the clocks of its core stand no data arrives and no matrix command performs
    (s.frozen a.core = true → (∃ r ∈ (s.ctxAt a.core a.ctx).long, r.id = a.id) →
      exec .interlockArrival s = .next s ∧ exec .matrixCommandComplete s = .next s) ∧
    (∃ t, exec .governorTick s = .next t ∧
      (let e := t.dieAt a.die
       e.cap = d.cap ∧ e.hot = d.hot ∧ t.mem = s.mem ∧ t.recs = s.recs ∧
       (4 * a.num ≤ capQ → e.limit.toNat = min 384 (d.limit.toNat + 16) ∧ e.overSince = none) ∧
       (capQ < 4 * a.num → 400 * a.num ≤ 115 * capQ → e.limit = d.limit ∧
         e.overSince = (d.overSince.orElse fun _ => some s.now) ∧
         -- above the cap for 1 ms: LIMIT halves
         (∀ t0, d.overSince = some t0 → t0 + 1200000 ≤ s.now →
           (Instr.limitHalveExcursion, ({ die := a.die } : EvArgs)) ∈ t.agenda)) ∧
       (115 * capQ < 400 * a.num → halved e))) ∧
    (∃ t, exec .limitHalveExcursion s = .next t ∧ halved (t.dieAt a.die) ∧ (∀ e, e ≠ a.die → t.dieAt e = s.dieAt e) ∧
      workStands s t)

/-- 01 R17, R34, 04 R90 to R92, 05 R136, R137: alarms of level 2 and 3, and failures of the links between dies and to the host. -/
def Sys2Proof.Claims.AlarmsAndLinkEvents : Prop :=
  ∀ (s : State),
    let recent := (s.sec.level2At ++ [s.micros]).filter fun t => decide (s.micros - t < 1000000)
    (recent.length < 3 → ∃ t, exec .supplyGlitch s = .next t ∧ logged s t 2 ∧ zeroised s t ∧ t.sec.lock = s.sec.lock ∧
      t.sec.keys = s.sec.keys ∧ t.sec.level2At = recent ∧ workStands s t) ∧
    (3 ≤ recent.length → ∃ t, exec .supplyGlitch s = .next t ∧ t.sec.lock = true ∧ t.sec.keys = false ∧
      reported s t 2 12 0 0 0 ∧ workStands s t) ∧
    (∃ t, exec .tamperMeshBroken s = .next t ∧ logged s t 3 ∧ zeroised s t ∧ t.sec.lock = true ∧ t.sec.keys = false ∧
      reported s t 2 12 0 0 0 ∧ workStands s t) ∧
    (∃ t, exec .dieLinkFailure s = .next t ∧ (t.dieAt s.arg.die).linksUp = false ∧ reported s t 2 10 0 s.arg.die.val 0 ∧
      workStands s t ∧ t.sec = s.sec) ∧
    (∃ t, exec .dieLinkRetry s = .next t ∧ reported s t 0 4 0 s.arg.die.val 0 ∧ workStands s t ∧ t.sec = s.sec ∧
      t.dies = s.dies)

/-- 05 R134, R135: a patch image that reads and verifies waits; one that does not says why; a waiting patch is cancelled or applied,
and a command without one changes nothing. -/
def Sys2Proof.Claims.HotPatches : Prop :=
  ∀ (s : State),
    let check := s.patchCheck (s.sec.fwAddr.toNat * 8)
    (s.sec.fwStat ≠ 1 →
      (∀ p, check = .ok p → ∃ t, exec .fwpatchGo s = .next t ∧ t.sec.fwStat = 1 ∧ t.sec.patch = some p ∧
        t.sec.fwVer = s.sec.fwVer ∧ workStands s t) ∧
      (∀ code, check = .error code → ∃ t, exec .fwpatchGo s = .next t ∧ t.sec.fwStat = code ∧ t.sec.patch = none ∧
        (code = 3 ∨ code = 4 ∨ code = 5) ∧ (code = 3 → logged s t 1) ∧ workStands s t)) ∧
    (s.sec.fwStat = 1 → exec .fwpatchGo s = .next s ∧
      (∃ t, exec .fwpatchCancel s = .next t ∧ t.sec.fwStat = 6 ∧ t.sec.patch = none ∧ t.sec.fwVer = s.sec.fwVer ∧
        workStands s t)) ∧
    (s.sec.fwStat ≠ 1 → exec .fwpatchCancel s = .next s ∧ exec .patchApply s = .next s) ∧
    (∀ v l image, s.sec.fwStat = 1 → s.sec.patch = some (v, l, image) → ∃ t, exec .patchApply s = .next t ∧
      t.sec.fwVer = v ∧ t.sec.fwStat = 2 ∧ t.sec.patch = none ∧ t.sec.imgVer = s.sec.imgVer ∧ workStands s t ∧
      t.sec.pch = digestField (sha256 (bytesOf 32 s.sec.pch ++ sha256 image)))

/-- 05 R138 to R140: what each mailbox command does, and the results that turn one away. Model choices (log entry 61): an aborted session
counts as free for ATT_OPEN, ATT_CLOSE of it answers 8 and frees it, and a piece index out of range is refused before a report is made. -/
def Obligations.SecurityMailbox : Prop :=
  ∀ (s : State),
    let q := s.sec
    let i := bitsN q.mbCmd.toNat 8 2
    let piece := q.mbArg.toNat
    let window := padTo 256 q.mbData
    let ends (e : Instr) (rc : Nat) (P : State → Prop) : Prop :=
      ∃ t, exec e s = .next t ∧ t.sec.mbRc.toNat = rc ∧ t.sec.mbBusy = false ∧ P t
    let same (t : State) : Prop := workStands s t ∧ t.sec.sessions = q.sessions ∧ t.sec.counter = q.counter ∧
      t.sec.lock = q.lock ∧ t.sec.staging = q.staging
    let opens (j : Nat) : Prop := ∃ x, q.session j = some x ∧ x.aborted = false
    ends .mbcmdReserved 1 same ∧
    (q.lock = true → ends .attOpen 5 same ∧ ends .attQuote 5 same ∧ ends .attClose 5 same) ∧
    (q.lock = false → ends .recBegin 1 same ∧ ends .recPiece 1 same ∧ ends .recEnd 1 same) ∧
    (q.lock = false →
      (∀ j < 4, (∀ k < j, opens k) → ¬ opens j → ends .attOpen 0 fun t => t.sec.mbArg.toNat = j ∧
        t.sec.session j = some ⟨BitVec.ofNat 256 (natOfBytes (window.take 32)), none, none, false⟩ ∧
        ∀ k, k ≠ j → t.sec.session k = q.session k) ∧
      ((∀ k < 4, opens k) → ends .attOpen 3 same) ∧
      (q.session i = none → ends .attQuote 2 same ∧ ends .attClose 2 same) ∧
      (∀ x, q.session i = some x →
        ends .attClose (if x.aborted then 8 else 0) (fun t => t.sec.session i = none ∧
          ∀ k, k ≠ i → t.sec.session k = q.session k) ∧
        (x.aborted = true → ends .attQuote 8 same) ∧
        (x.aborted = false → 21 ≤ piece → ends .attQuote 6 same) ∧
        (x.aborted = false → piece < 21 →
          (∀ r, x.report = some r → ends .attQuote 0 fun t => t.sec.mbLen = 5332 ∧ t.sec.counter = q.counter ∧
            t.sec.mbData = padTo 256 ((r.drop (256 * piece)).take 256)) ∧
          (x.report = none → signatures ≤ q.counter → ends .attQuote 4 same) ∧
          (x.report = none → q.counter < signatures → ends .attQuote 0 fun t => t.sec.mbLen = 5332 ∧
            t.sec.counter = q.counter + 1 ∧ ∃ r, t.sec.session i = some ⟨x.nonce, some r, some (Config.oneTimeKey q.counter), false⟩ ∧
            r.take 256 = s.report256 x.nonce q.counter ∧
            t.sec.mbData = padTo 256 ((r.drop (256 * piece)).take 256))))) ∧
    (q.lock = true →
      (let n := q.mbLen.toNat
       (n = 0 ∨ 2 ^ 20 < n → ends .recBegin 6 same) ∧
       (1 ≤ n → n ≤ 2 ^ 20 → ends .recBegin 0 fun t => t.sec.stagingLen = n ∧ t.sec.staging.length = n)) ∧
      (q.stagingLen ≤ 256 * piece → ends .recPiece 6 same) ∧
      (256 * piece < q.stagingLen → q.staging.length = q.stagingLen → ends .recPiece 0 fun t =>
        t.sec.staging.length = q.stagingLen ∧ ∀ j < q.stagingLen, t.sec.staging[j]? =
          if 256 * piece ≤ j ∧ j < 256 * piece + 256 then window[j - 256 * piece]? else q.staging[j]?) ∧
      (Config.lmsVerify 1 q.staging = false → ends .recEnd 7 fun t => t.sec.lock = true ∧ t.sec.staging = [] ∧
        workStands s t) ∧
      (Config.lmsVerify 1 q.staging = true → ends .recEnd 0 fun t => t.sec.lock = false ∧ t.sec.keys = true ∧
        t.sec.fwVer = Config.imageVersion q.staging ∧ t.sec.fwHash = digestField (sha256 q.staging)))

/-- 01 R29, R30: a request waits at its governor until it fits, requests are granted from the first on, and one that has waited
65,536 cycles counts as class 0 and suspends every reservation of its die (R30). -/
def Sys2Proof.Claims.LeaveEvents : Prop :=
  ∀ (s : State),
    let a := s.arg
    let die := dieOf a.core
    let me := agentOf a.core a.ctx
    let idle (t : State) : Prop := t.mem = s.mem ∧ t.recs = s.recs ∧ t.teams = s.teams ∧ ∀ d,
      (t.dieAt d).limit = (s.dieAt d).limit ∧ (t.dieAt d).cap = (s.dieAt d).cap
    let settled (t : State) (d : Fin 4) : Prop := ∀ r, (t.dieAt d).firstReq = some r →
      (t.dieAt d).limit.toNat < (t.dieAt d).outstanding + leaveWeight r.cls
    (∃ t, exec .leaveRequest s = .next t ∧ idle t ∧
      (((s.dieAt die).waiting.any fun r => r.owner == me) = true → t = s) ∧
      ((s.dieAt die).waiting = [] → (s.dieAt die).outstanding + leaveWeight a.cls ≤ (s.dieAt die).limit.toNat →
        (t.dieAt die).waiting = [] ∧ (t.dieAt die).grants = (s.dieAt die).grants ++ [⟨leaveWeight a.cls, me, false⟩] ∧
        (t.ctxAt a.core a.ctx).grant = some a.cls) ∧
      ((s.dieAt die).waiting = [] → (s.dieAt die).limit.toNat < (s.dieAt die).outstanding + leaveWeight a.cls →
        (∃ r, (t.dieAt die).waiting = [r] ∧ r.owner = me ∧ r.cls = a.cls ∧ r.since = s.now) ∧
        (t.dieAt die).grants = (s.dieAt die).grants)) ∧
    (∃ t, exec .leaveGrant s = .next t ∧ idle t ∧ settled t a.die) ∧
    (∃ t, exec .leaveAging s = .next t ∧ idle t ∧
      (a.flag = false → (∀ r ∈ (s.dieAt die).waiting, r.owner = me → s.now < r.since + 131072) → t = s) ∧
      (a.flag = false → (∃ r ∈ (s.dieAt die).waiting, r.owner = me ∧ r.since + 131072 ≤ s.now) →
        settled t die ∧ ∀ g ∈ (t.dieAt die).grants, g.reservation = false))

/-! ## Events of the memory controllers and the coherence fabric (02, 03) -/

namespace Sys2Proof.Claims

/-- Lines that a home agent has: stacks 0 to 11. -/
def homed (line : Nat) : Prop := line < 12 * 2 ^ 29

/-- The line is stable at its home, with no request queued and no switch under way. -/
def quietLine (s : State) (line : Nat) : Prop :=
  homed line ∧ (s.mem.entry line).st.stable = true ∧ (s.mem.entry line).queue = [] ∧ (s.mem.entry line).txn = none ∧
  s.mem.blocked line = false

/-- The entry of a line waits for the answers of `dies` to snoops `e`, which are on their way, for request `k` of die `d`. -/
def snooping (s t : State) (line : Nat) (st : DirSt) (d : Nat) (k : DirReqKind) (dies : List Nat) (e : Instr) : Prop :=
  (t.mem.entry line).st = st ∧ (t.mem.entry line).txn = some ⟨d, k⟩ ∧ (t.mem.entry line).waiting = dies ∧
  t.agenda = s.agenda ++ dies.map (fun x => (e, ({ die := dieIx x, addr := line } : EvArgs))) ∧ t.mem.bytes = s.mem.bytes

/-- The completion of a request is on its way to die `d`. -/
def answered (s t : State) (line d : Nat) (excl nc : Bool) : Prop :=
  t.agenda = s.agenda ++ [(.dataToRequester, ({ die := dieIx d, addr := line, flag := excl, flag2 := nc } : EvArgs))]

end Sys2Proof.Claims

/-- 02 R36, R39, R40, R49 to R55: a controller reads, writes whole or in part, makes requests wait and reserve, and scrubs; no read
changes a byte, poison is cleared by a whole write or a substitution, and an address in no stack stops. The patrol goes from each granule to
the next one that carries its own stored code, and rests in D3hot (04 R88). The times are the model's choice: a reserving request issues
after 1,888 ticks (R55 bounds it by 2 µs; log entry 65), a patrol that finds its granule busy looks again after 2 (log entry 77), and each
unit of 32 bytes takes `scrubTicks` (log entry 2). -/
def Obligations.ControllerEvents : Prop :=
  ∀ (s : State),
    let a := s.arg
    let g := a.gran.toNat
    let base := granBase g a.addr
    let n := granBytes g
    let k := s.mem.stackAt (stackOf a.addr)
    let at_ (t : State) := t.mem.stackAt (stackOf a.addr)
    let waits : Bool := a.flag2 || reqHeld k.reqs ⟨s.nextId, base, a.gran, .read, false⟩
    let bytesKept (t : State) : Prop := t.mem.bytes = s.mem.bytes
    let outside (t : State) : Prop := ∀ j, (j < base ∨ base + n ≤ j) → Memory.byte t.mem.bytes j = Memory.byte s.mem.bytes j
    (dpaExists a.addr = false →
      exec .granuleRead s = .fault (.noSuchAddress a.addr) ∧ exec .granuleWrite s = .fault (.noSuchAddress a.addr) ∧
      exec .granulePartialWrite s = .fault (.noSuchAddress a.addr) ∧ exec .patrolScrub s = .fault (.noSuchAddress a.addr)) ∧
    (dpaExists a.addr = true → g < 5 → a.id = 0 → waits = true →
      ∀ e ∈ [Instr.granuleRead, .granuleWrite, .granulePartialWrite], ∃ t r, exec e s = .next t ∧ bytesKept t ∧
        (at_ t).reqs = k.reqs ++ [r] ∧ r.reserving = false ∧ r.id = s.nextId ∧ r.dpa = base ∧ r.event = e ∧
        t.timers = s.timers ++ [(s.now + 512, .requestReserving,
          ({ stack := ⟨stackOf a.addr % 12, Nat.mod_lt _ (by decide)⟩, id := r.id } : EvArgs))]) ∧
    (dpaExists a.addr = true → g < 5 → a.id = 0 → waits = false →
      (∃ t, exec .granuleRead s = .next t ∧ bytesKept t ∧ t.mem.units = s.mem.units ∧
        (s.mem.granState g a.addr = .ok .clean → t = s) ∧
        (s.mem.granState g a.addr = .ok .corrected → (at_ t).ce = satAdd k.ce 1) ∧
        (s.mem.granState g a.addr = .bad → (at_ t).ue = satAdd k.ue 1) ∧
        (s.mem.granState g a.addr = .mismatch → (at_ t).ue = satAdd k.ue 1 ∧ (at_ t).gmm = true)) ∧
      (Memory.wf s.mem.bytes = true → tableWf UnitMeta.reset s.mem.units = true →
        (∃ t, exec .granuleWrite s = .next t ∧ t.mem.poisoned g a.addr = false ∧ outside t ∧
          ∀ i < n, Memory.byte t.mem.bytes (base + i) = BitVec.ofNat 8 (a.data.toNat / 2 ^ (8 * i))) ∧
        (∃ t, exec .granulePartialWrite s = .next t ∧ outside t ∧
          (∀ i < n, a.mask.getLsbD i = true →
            Memory.byte t.mem.bytes (base + i) = BitVec.ofNat 8 (a.data.toNat / 2 ^ (8 * i))) ∧
          (s.mem.poisoned g a.addr = false → t.mem.poisoned g a.addr = false ∧ ∀ i < n, a.mask.getLsbD i = false →
            Memory.byte t.mem.bytes (base + i) = Memory.byte s.mem.bytes (base + i)) ∧
          (s.mem.poisoned g a.addr = true → a.flag = true → t.mem.poisoned g a.addr = false ∧
            (t.ctxAt a.core a.ctx).subst = satAdd (s.ctxAt a.core a.ctx).subst 1 ∧
            ∀ i < n, a.mask.getLsbD i = false → Memory.byte t.mem.bytes (base + i) = 0) ∧
          (s.mem.poisoned g a.addr = true → a.flag = false → t.mem.poisoned g a.addr = true ∧ (at_ t).pzw = true ∧
            (at_ t).ue = satAdd k.ue 1)))) ∧
    (∀ r, (s.mem.stackAt a.stack.val).reqs.find? (fun q => q.id == a.id) = some r → stackOf r.dpa = a.stack.val →
      ∃ t r', exec .requestReserving s = .next t ∧ bytesKept t ∧
        (t.mem.stackAt a.stack.val).reqs.find? (fun q => q.id == a.id) = some r' ∧ r' = { r with reserving := true } ∧
        t.timers = s.timers ++ [(s.now + 1888, r.event, ({ addr := r.dpa, gran := r.gran, id := r.id } : EvArgs))]) ∧
    (let gc := (s.mem.unit a.addr).gc.toNat
     let again (ticks : Nat) : Prop := exec .patrolScrub s = .next { s with timers := s.timers ++ [(s.now + ticks, .patrolScrub, a)] }
     dpaExists a.addr = true → tableWf UnitMeta.reset s.mem.units = true →
      (s.power.d3hot = true → again scrubTicks) ∧
      (s.power.d3hot = false → s.mem.queued gc a.addr 1 = true → again 2) ∧
      (s.power.d3hot = false → s.mem.queued gc a.addr 1 = false → ∃ t, exec .patrolScrub s = .next t ∧ bytesKept t ∧
        (a.flag = true → ∃ k, 1 ≤ k ∧ k ≤ 16 ∧
          (let unit (i : Nat) : Nat := a.addr - a.addr % 32 + 32 * i
           (∀ i, 1 ≤ i → i < k → t.mem.scrubHead (unit i) = false) ∧ (k < 16 → t.mem.scrubHead (unit k) = true) ∧
           t.timers = s.timers ++ [(s.now + scrubTicks * k, .patrolScrub,
            ({ addr := if stackOf (unit k) = stackOf a.addr then unit k else stackOf a.addr * 2 ^ 36, flag := true } : EvArgs))])) ∧
        (s.mem.granState gc a.addr = .ok .clean ∨ s.mem.granState gc a.addr = .stored → t.mem = s.mem ∧ (a.flag = false → t = s)) ∧
        (s.mem.granState gc a.addr = .ok .corrected → t.mem.granState gc a.addr = .ok .clean ∧ (at_ t).ce = satAdd k.ce 1) ∧
        (s.mem.granState gc a.addr = .bad → t.mem.granState gc a.addr = .stored ∧ (at_ t).ue = satAdd k.ue 1)))

/-- 03 R66, R67, R69: what each request finds at the home of a stable line with nothing queued and room for its entry. -/
def Obligations.HomeAgentRequests : Prop :=
  ∀ (s : State),
    let a := s.arg
    let d := a.die.val
    let line := a.addr
    let e := s.mem.entry line
    quietLine s line → (d, line) ∉ s.mem.wbPending → s.mem.room line (s.mem.needWays line) = .have_ →
    let others := (diesOf e.shr).filter (· != d)
    let wants (i : Instr) (k : DirReqKind) : Prop :=
      (e.st = .i ∨ e.st = .s ∧ others = [] → ∃ t, exec i s = .next t ∧ (t.mem.entry line).st = .em ∧
        (t.mem.entry line).own = a.die ∧ answered s t line d true false ∧ t.mem.bytes = s.mem.bytes) ∧
      (e.st = .s → others ≠ [] → ∃ t, exec i s = .next t ∧ snooping s t line .bE d k others .snpinv) ∧
      (e.st = .em → ∃ t, exec i s = .next t ∧ snooping s t line .bE d k [e.own.val] .snpinv)
    (s.mem.dieSt d line ≠ some .e → s.mem.dieSt d line ≠ some .m →
      wants .rde .rde ∧ wants .upg .upg ∧
      (e.st ≠ .em → ∃ t, exec .rds s = .next t ∧ (t.mem.entry line).st = .s ∧
        (t.mem.entry line).shr = (if e.st = .s then e.shr else 0) ||| dieBit d ∧ answered s t line d false false ∧
        t.mem.bytes = s.mem.bytes) ∧
      (e.st = .em → ∃ t, exec .rds s = .next t ∧ snooping s t line .bS d .rds [e.own.val] .snpshr)) ∧
    (e.st ≠ .em → ∃ t, exec .ncrd s = .next t ∧ (t.mem.entry line).st = e.st ∧
      (e.st = .s → (t.mem.entry line).shr = e.shr) ∧ answered s t line d false true ∧ t.mem.bytes = s.mem.bytes) ∧
    (e.st = .em → ∃ t, exec .ncrd s = .next t ∧ snooping s t line .bC d .ncrd [e.own.val] .snpcur) ∧
    (let w := a.data.setWidth 1024
     let m : BitVec 128 := a.mask.setWidth 128
     (Memory.wf s.mem.bytes = true → e.st = .i → (a.flag = true → ∀ i < 128, s.mem.poisoned a.gran.toNat (128 * line + i) = false) →
       ∃ t, exec .ncwr s = .next t ∧ (t.mem.entry line).st = .i ∧ answered s t line d false true ∧
       (∀ j, (j < 128 * line ∨ 128 * line + 128 ≤ j) → Memory.byte t.mem.bytes j = Memory.byte s.mem.bytes j) ∧
       ∀ i < 128, Memory.byte t.mem.bytes (128 * line + i) =
         if m.getLsbD i then BitVec.ofNat 8 (w.toNat / 2 ^ (8 * i)) else Memory.byte s.mem.bytes (128 * line + i)) ∧
     (e.st = .s → diesOf e.shr ≠ [] → ∃ t, exec .ncwr s = .next t ∧
       snooping s t line .bE d (.ncwr m w a.gran a.flag (agentOf a.core a.ctx)) (diesOf e.shr) .snpinv) ∧
     (e.st = .em → ∃ t, exec .ncwr s = .next t ∧
       snooping s t line .bE d (.ncwr m w a.gran a.flag (agentOf a.core a.ctx)) [e.own.val] .snpinv) ∧
     -- a partial write to a poisoned granule of an ET = 1 page takes its other bytes as zero and counts for the context (02 R50)
     (Memory.wf s.mem.bytes = true → tableWf UnitMeta.reset s.mem.units = true → e.st = .i → a.gran = 2 → a.flag = true →
       m ≠ 0 → m ≠ BitVec.allOnes 128 → s.mem.poisoned 2 (128 * line) = true → ∃ t, exec .ncwr s = .next t ∧
       t.mem.poisoned 2 (128 * line) = false ∧ (t.ctxAt a.core a.ctx).subst = satAdd (s.ctxAt a.core a.ctx).subst 1 ∧
       ∀ i < 128, Memory.byte t.mem.bytes (128 * line + i) =
         if m.getLsbD i then BitVec.ofNat 8 (w.toNat / 2 ^ (8 * i)) else 0)) ∧
    (e.st ≠ .em → ∃ t, exec .migrd s = .next t ∧ (t.mem.entry line).st = e.st ∧ t.agenda = s.agenda ∧
      t.mem.bytes = s.mem.bytes) ∧
    (e.st = .em → ∃ t, exec .migrd s = .next t ∧ snooping s t line .bS 0 .migrd [e.own.val] .snpshr)

/-- 03 R64, R66, R68, R69: what a die does with a snoop, what its answer and its writebacks do at the home, and the completion. -/
def Obligations.SnoopsAndWritebacks : Prop :=
  ∀ (s : State),
    let a := s.arg
    let d := a.die.val
    let line := a.addr
    let e := s.mem.entry line
    let tells (t : State) (x : SnoopAns) : Prop :=
      (∃ b, t.agenda = s.agenda ++ [(.snoopAnswer, b)] ∧ b.die = a.die ∧ b.addr = line ∧ b.ans = x) ∧ t.mem.bytes = s.mem.bytes
    -- what comes back of a page with ET = 1 meets no poison there (02 R50)
    let clean : Prop := a.flag = false ∨ ∀ i < 128, s.mem.poisoned a.gran.toNat (line * 128 + i) = false
    let snooped (i : Instr) (keep : LineSt → Option LineSt) : Prop :=
      ((d, line) ∈ s.mem.wbPending → ∃ t, exec i s = .next t ∧ tells t .ackWb ∧ t.mem = s.mem) ∧
      ((d, line) ∉ s.mem.wbPending → s.mem.dieSt d line = none → ∃ t, exec i s = .next t ∧ tells t .ack ∧ t.mem = s.mem) ∧
      (∀ x, (d, line) ∉ s.mem.wbPending → s.mem.dieSt d line = some x → ∃ t, exec i s = .next t ∧
        tells t (if x = .m then .data (s.mem.lineData line) else .ackClean) ∧ t.mem.dieSt d line = keep x ∧
        (keep x = none → ∀ c, (dieOf c).val = d → ∀ l ∈ (t.coreAt c).l1, l.line ≠ line))
    snooped .snpinv (fun _ => none) ∧ snooped .backinv (fun _ => none) ∧ snooped .snpshr (fun _ => some .s) ∧
    snooped .snpcur some ∧
    (a.ans = .ackWb ∨ d ∉ e.waiting → exec .snoopAnswer s = .next s) ∧
    (homed line → Memory.wf s.mem.bytes = true → e.queue = [] → e.waiting = [d] → e.dirty = none → ∀ r,
      (∀ x, e.st = .bE → e.txn = some ⟨r, .rde⟩ → a.ans = .data x → clean → ∃ t, exec .snoopAnswer s = .next t ∧
        (t.mem.entry line).st = .em ∧ (t.mem.entry line).own = dieIx r ∧ answered s t line r true false ∧
        storedAt s.mem.bytes t.mem.bytes (line * 128) (bytesOf 128 x)) ∧
      (e.st = .bS → e.txn = some ⟨r, .rds⟩ → e.shr = 0 → a.ans = .ackClean ∨ a.ans = .ack → ∃ t, exec .snoopAnswer s = .next t ∧
        (t.mem.entry line).st = .s ∧ answered s t line r false false ∧ t.mem.bytes = s.mem.bytes ∧
        (t.mem.entry line).shr = (if a.ans = .ackClean then dieBit d else 0) ||| dieBit r)) ∧
    (let leaves (i : Instr) (x : LineSt) : Prop :=
       (d, line) ∉ s.mem.wbPending → s.mem.dieSt d line = some x → ∃ t b, exec i s = .next t ∧ t.mem.dieSt d line = none ∧
         (d, line) ∈ t.mem.wbPending ∧ t.mem.bytes = s.mem.bytes ∧ t.agenda = s.agenda ++ [(i, b)] ∧ b.die = a.die ∧ b.addr = line
     leaves .wbm .m ∧ leaves .eve .e) ∧
    ((d, line) ∈ s.mem.wbPending → quietLine s line → e.st = .em → e.own = a.die → d ∉ e.waiting → Memory.wf s.mem.bytes = true →
      (clean → ∃ t, exec .wbm s = .next t ∧ (t.mem.entry line).st = .i ∧ storedAt s.mem.bytes t.mem.bytes (line * 128)
        (bytesOf 128 (a.data.setWidth 1024)) ∧ t.agenda = s.agenda ++ [(.wback, ({ die := a.die, addr := line } : EvArgs))]) ∧
      (∃ t, exec .eve s = .next t ∧ (t.mem.entry line).st = .i ∧ t.mem.bytes = s.mem.bytes ∧
        t.agenda = s.agenda ++ [(.wback, ({ die := a.die, addr := line } : EvArgs))])) ∧
    (∃ t, exec .wback s = .next t ∧ (d, line) ∉ t.mem.wbPending ∧ t.mem.bytes = s.mem.bytes ∧
      ∀ x, x ≠ (d, line) → (x ∈ t.mem.wbPending ↔ x ∈ s.mem.wbPending)) ∧
    (a.flag2 = false → d ∈ e.holders → ∃ t, exec .dataToRequester s = .next t ∧
      t.mem.dieSt d line = some (if a.flag then .e else .s) ∧ t.mem.bytes = s.mem.bytes) ∧
    (a.flag2 = true → exec .dataToRequester s = .next s)

/-- 03 R71 to R75, 06 R143: registrations are recorded and answered or race; a race, and a stall beyond its bound, take the causes 19 and
20; a retried request is looked at again; a sweep leaves open slots only. R75 has a pass sweep one set per fabric cycle: the event with
`flag`, which sweeps what is left of a pass at once, is the model's choice (log entry 2). -/
def Obligations.RegistrationEvents : Prop :=
  ∀ (s : State),
    let a := s.arg
    let p := splitAgent a.id
    let tells (t : State) (write ok : Bool) : Prop := t.agenda = s.agenda ++
      [(.registrationAnswer, ({ id := a.id, addr := a.addr, flag := write, flag2 := ok, value := a.value } : EvArgs))]
    (homed a.addr → s.mem.lineBusy a.addr = false →
      (s.mem.regAnswer a.id a.addr false = .ok → ∃ t, exec .regr s = .next t ∧ tells t false true ∧
        t.mem.bytes = s.mem.bytes ∧ ∃ x ∈ (t.mem.entry a.addr).allReaders, x.agent = a.id ∧ t.mem.slotOpen x = true) ∧
      (s.mem.regAnswer a.id a.addr true = .ok → ∃ t x, exec .regw s = .next t ∧ tells t true true ∧
        t.mem.bytes = s.mem.bytes ∧ (t.mem.entry a.addr).writer = some x ∧ x.agent = a.id ∧ t.mem.slotOpen x = true) ∧
      (s.mem.regAnswer a.id a.addr false = .race → ∃ t, exec .regr s = .next t ∧ tells t false false ∧ t.mem = s.mem) ∧
      (s.mem.regAnswer a.id a.addr true = .race → ∃ t, exec .regw s = .next t ∧ tells t true false ∧ t.mem = s.mem)) ∧
    ((s.ctxAt p.1 p.2).phase ≠ .free →
      (a.flag2 = true → ∃ t, exec .registrationAnswer s = .next t ∧ (t.ctxAt p.1 p.2).filtered a.addr a.flag = true ∧
        t.mem = s.mem ∧ t.recs = s.recs ∧ p.1 ∈ t.busy) ∧
      (a.flag2 = false → exec .registrationAnswer s = .next (s.takeTrapAt p.1 p.2 19 a.value.toNat))) ∧
    (∃ t, exec .retry s = .next t ∧ t.mem = s.mem ∧ t.recs = s.recs ∧
      ∀ c, dieOf c = a.die → (s.coreAt c).running.isSome = true → c ∈ t.busy ∧
        ∀ x, (t.ctxAt c x).stall ≠ some .registration ∧ (t.ctxAt c x).s = (s.ctxAt c x).s ∧ (t.ctxAt c x).bix = (s.ctxAt c x).bix) ∧
    (let k := s.ctxAt a.core a.ctx
     (k.phase = .running → k.stall = some .capacity → k.icnt.toNat = a.num → ∃ t, exec .coreCapacityTimeout s = .next t ∧
       t = ((s.at_ a.core a.ctx).takeTrap 20 a.addr).at_ s.curCore s.curCtx) ∧
     (k.stall ≠ some .capacity → exec .coreCapacityTimeout s = .next s)) ∧
    (let k := a.stack.val
     let n := (s.mem.home k).sweep
     ∃ t, exec .directorySweep s = .next t ∧ t.mem.bytes = s.mem.bytes ∧ t.mem.epochs = s.mem.epochs ∧
       (∀ e ∈ (t.mem.home k).dir, a.flag = true ∨ dirSet e.line = n →
         (∀ x ∈ e.allReaders, s.mem.slotOpen x = true) ∧ ∀ x, e.writer = some x → s.mem.slotOpen x = true) ∧
       (a.flag = true ∨ 131072 ≤ n + 1 → (t.mem.home k).passEpochs = s.mem.epochs ∧ (t.mem.home k).sweep = 0) ∧
       (a.flag = false → n + 1 < 131072 → (t.mem.home k).sweep = n + 1))

/-- 03 R79 to R83: the end of a period, the start of a move and its switch or abandonment, and the end of a window; a copy phase that
meets a line under a transaction waits. Model choices (log entry 5): NOFRAME counts at the home that had no frame, and the switch comes
`copyTicks` after a copy, which R81 bounds by 1 ms. -/
def Obligations.MigrationEvents : Prop :=
  ∀ (s : State),
    let a := s.arg
    let k := a.stack.val
    let h := s.mem.home k
    let page (t : State) (x : Nat) : Option HotPage := (t.mem.home k).hot.find? fun q => q.page == x
    (h.en = false → ∃ t, exec .hotTablePeriodEnd s = .next t ∧ t.mem.bytes = s.mem.bytes ∧
      (∀ q ∈ (t.mem.home k).hot, ∀ w < 12, getIdx q.counts w 0 = 0) ∧
      t.timers = s.timers ++ [(s.now + 131072, .hotTablePeriodEnd, a)]) ∧
    (∀ q w, h.en = true → h.hot = [q] → q.winner h.thresh.toNat = some w → w ≠ k → s.movable q = true →
      (s.mem.takeFrame w q.big = none → ∃ t, exec .hotTablePeriodEnd s = .next t ∧ t.mem.bytes = s.mem.bytes ∧
        (t.mem.home w).noFrame = satAdd (s.mem.home w).noFrame 1) ∧
      (∀ i, s.mem.takeFrame w q.big = some i → ∃ t q', exec .hotTablePeriodEnd s = .next t ∧ page t q.page = some q' ∧
        q'.move = some (q.wver, w, bitsN (s.mem.ringEntry w i) 12 28 * 4096, i) ∧ q'.window.isSome = true ∧
        ∃ b, (s.now + (if s.mem.pageBusy k q then 2 else copyTicks), Instr.migrationSwitch, b) ∈ t.timers ∧ b.addr = q.page ∧
          b.stack = a.stack ∧ b.flag = s.mem.pageBusy k q)) ∧
    (∀ q v0 w frame i, page s a.addr = some q → q.move = some (v0, w, frame, i) → a.flag = true → s.mem.pageBusy k q = true →
      ∃ t b, exec .migrationSwitch s = .next t ∧ t.mem = s.mem ∧ t.timers = s.timers ++ [(s.now + 2, Instr.migrationSwitch, b)] ∧
        b.addr = q.page ∧ b.flag = true) ∧
    (∀ q v0 w frame i, a.flag = false → page s a.addr = some q → q.move = some (v0, w, frame, i) → w < 12 → w ≠ k →
      ((h.dir.any fun e => q.holds e.line && !e.st.stable) = true → ∃ t q', exec .migrationSwitch s = .next t ∧
        page t a.addr = some q' ∧ q'.blocked = true ∧ t.mem.bytes = s.mem.bytes) ∧
      ((h.dir.any fun e => q.holds e.line && !e.st.stable) = false →
        (∀ e ∈ h.dir, q.holds e.line = true → homeOf e.line = k → e.queue = []) →
        (q.wver ≠ v0 ∨ s.mem.pageOpen q = true → ∃ t q', exec .migrationSwitch s = .next t ∧ page t a.addr = some q' ∧
          q'.move = none ∧ q'.blocked = false ∧ q'.abandons = q.abandons + 1 ∧
          (t.mem.home k).abandon = satAdd h.abandon 1 ∧ t.mem.bytes = s.mem.bytes ∧
          (3 ≤ q.abandons + 1 → q'.settled = true)) ∧
        (q.wver = v0 → s.mem.pageOpen q = false → Memory.wf s.mem.bytes = true →
          q.entry + 8 ≤ s.mem.ringVa w i ∨ s.mem.ringVa w i + 8 ≤ q.entry →
          let old := entryAt s q.entry
          ∃ t, exec .migrationSwitch s = .next t ∧ (t.mem.home k).moves = satAdd h.moves 1 ∧
            entryAt t q.entry = (old - bitsN old 12 28 * 4096 + frame) % 2 ^ 64 ∧
            s.mem.ringVa w i = t.mem.ringVa w i ∧ t.mem.ringEntry w i = (q.page + 4 * b2n q.big + 2) % 2 ^ 64))) ∧
    (∀ q w, page s a.addr = some q → q.window = some w → w ≤ s.now → ∃ t q', exec .migrationWindowEnd s = .next t ∧
      page t a.addr = some q' ∧ q' = { q with window := none, moves := 0, abandons := 0, settled := false } ∧
      t.mem.bytes = s.mem.bytes)

/-! ## The host port, power states, queues and packets (04, 05) -/

namespace Sys2Proof.Claims

/-- A posted write of the host is performed: memory space is decoded and no earlier write stands before it. -/
def Taken (s : State) : Prop :=
  s.power.bringup = 7 ∧ s.power.fatal = false ∧ s.power.d3hot = false ∧ s.power.linkNoFlit = false ∧ s.portHeld = false

/-- Only the registers of one device context have changed. -/
def pageOnly (s t : State) (d : Nat) : Prop :=
  t.mem = s.mem ∧ t.cores = s.cores ∧ t.recs = s.recs ∧ t.teams = s.teams ∧ t.grids = s.grids ∧
  ∀ e < 256, e ≠ d → t.dctxOf e = s.dctxOf e

/-- The head packet of queue `q` of context `d`, as a poll reads it, and the state after the read (05 R107, R113). -/
def headIs (s u : State) (d q : Nat) (p : Block) : Prop :=
  let x := s.queueOf d q
  x.disabling = false ∧ x.rst = false ∧ x.st = .active ∧ x.en = true ∧ x.held = false ∧ (s.dctxOf d).stopped = false ∧
  ∃ got, (s.ncInvalidate x.die).vaRead x.die (s.fwWho d) x.head 64 = .ok (got, u) ∧ got.poison = false ∧ blockOf got.bytes = p

/-- That packet passes the checks of 05 R116 and the poll meets no fault. -/
def headGood (u : State) (d q : Nat) (p : Block) : Prop :=
  pkFault p (u.dctxOf d).logs = none ∧ u.pollFaults d q p true = false

/-- The queue has gone on by one packet (05 R113). -/
def goneOn (s t : State) (d q : Nat) : Prop := (t.queueOf d q).rdix = (s.queueOf d q).rdix + 1

end Sys2Proof.Claims

/-- 01 R27, 04 R85, R87, R88, R91, 05 R126 to R133, 09 R236, R237: writes of the host to windows, the notify page and registers, and
what comes of them; one that is not decoded is discarded. Choices of the model, which no rule of the spec states: that a translation in
use is looked at again 192 ticks later (log entry 7), that a notify write to the page of no device context is discarded (log entry 66), and
that the mailbox takes writes from bring-up step 3 on (log entry 80). -/
def Sys2Proof.Claims.HostPortEvents : Prop :=
  ∀ (s : State),
    let a := s.arg
    let v := a.value.toNat
    let d := a.dctx.val
    let x := s.dctxOf d
    let w := x.win a.win.val
    (s.decodes = false → exec .hostWindowWrite s = .next s ∧ exec .nwake s = .next s ∧
      (a.flag = false → exec .registerWrite s = .next s)) ∧
    (Taken s → s.ownsAperture d = true → a.bytes ≠ [] → a.addr % 64 + a.bytes.length ≤ 64 →
      a.addr + a.bytes.length ≤ 0x20000 → x.landing.length < 256 →
      (w.valid = true → ∃ t e, exec .hostWindowWrite s = .next t ∧ pageOnly s t d ∧ (t.dctxOf d).landing = x.landing ++ [e] ∧
        e.va = w.base.toNat * 4096 + a.addr / 64 * 64 ∧ e.at_ = s.now ∧ e.due = false ∧
        (∀ i < 64, e.mask.getLsbD i = decide (a.addr % 64 ≤ i ∧ i < a.addr % 64 + a.bytes.length)) ∧
        (∀ i < a.bytes.length, (bytesOf 64 e.data)[a.addr % 64 + i]? = a.bytes[i]?) ∧
        e.team = (if w.queueKind then none else some (w.grid.toNat, w.team.toNat)) ∧
        (s.now + landingTicks, Instr.landingTimeout, ({ dctx := a.dctx } : EvArgs)) ∈ t.timers) ∧
      (w.valid = false → ∃ t, exec .hostWindowWrite s = .next t ∧ pageOnly s t d ∧
        (t.dctxOf d).hwDrop = satAdd x.hwDrop 1 ∧ (t.dctxOf d).landing = x.landing)) ∧
    (s.power.d3hot = false → ∃ t, exec .landingTimeout s = .next t ∧ pageOnly s t d ∧
      (t.dctxOf d).landing = x.landing.map (fun e =>
        if e.due = false ∧ e.at_ + landingTicks ≤ s.now then { e with due := true } else e)) ∧
    (Taken s → ∀ e y, (s.contextsOf a.fn.val)[a.addr / 0x1000]? = some e → y = natOfBytes a.bytes →
      (a.bytes = [] ∨ 8 ≤ a.addr % 0x1000 → exec .nwake s = .next s) ∧
      (∀ g, a.addr % 0x1000 = 0 → a.bytes.length = 8 → y < 2 ^ 48 → s.gridOf (y / 2 ^ 40) = some g → g.killed = none → g.dctx = e →
        y / 2 ^ 8 % 2 ^ 32 < g.teams → ∃ t, exec .nwake s = .next t ∧ t.dctxs = s.dctxs ∧
        (Instr.waitSatisfied, ({} : EvArgs)) ∈ t.agenda ∧
        ∀ q ∈ s.recs, q.grid = y / 2 ^ 40 → q.team = y / 2 ^ 8 % 2 ^ 32 → ∀ k, q.onCtx = some k →
          (t.ctxAt (splitAgent k).1 (splitAgent k).2).evl =
            (s.ctxAt (splitAgent k).1 (splitAgent k).2).evl ||| BitVec.ofNat 16 (y % 2 ^ 8)) ∧
      (a.addr % 0x1000 < 8 → a.bytes ≠ [] →
        a.addr % 0x1000 ≠ 0 ∨ a.bytes.length ≠ 8 ∨ 2 ^ 48 ≤ y ∨ s.gridOf (y / 2 ^ 40) = none → ∃ t, exec .nwake s = .next t ∧
          pageOnly s t e ∧ (t.dctxOf e).notifyDrop = satAdd (s.dctxOf e).notifyDrop 1)) ∧
    (Taken s → (s.contextsOf a.fn.val)[a.addr / 0x1000]? = none → exec .nwake s = .next s) ∧
    (Taken s → a.flag = false → a.fn = 0 →
      (∀ e : Fin 4, a.addr = 0x100 + 8 * e.val → ∃ t, exec .registerWrite s = .next t ∧ workStands s t ∧
        (t.dieAt e).cap.toNat = max 200 (min 550 (v / 2 ^ 16 % 1024)) ∧ (t.dieAt e).limit = (s.dieAt e).limit) ∧
      (a.addr = 0x60 → ∃ t, exec .registerWrite s = .next t ∧ workStands s t ∧ t.regs.balEn = bitN v 8 ∧
        t.regs.balTh.toNat = v % 256) ∧
      (a.addr = 0x68 → v % 2 = 1 → s.regs.tlbiBusy = false → ∃ t, exec .registerWrite s = .next t ∧ workStands s t ∧
        t.regs.tlbiBusy = true ∧ t.agenda = s.agenda ++ [(.tlbiGo, ({} : EvArgs))]) ∧
      (a.addr = 0x70 → ∃ t, exec .registerWrite s = .next t ∧ workStands s t ∧ t.regs.swapth = min 65 (v % 128)) ∧
      (∀ e k, e < 256 → k < 16 → a.addr = 0x100000 + 0x1000 * e + 0x80 + 8 * k → ∃ t, exec .registerWrite s = .next t ∧ pageOnly s t e ∧
        (t.queueOf e k).qv.toNat = v / 2 ^ 8 % 16 ∧ (t.queueOf e k).rdix = (s.queueOf e k).rdix ∧
        ((s.queueOf e k).en = true → (t.queueOf e k).hwq = (s.queueOf e k).hwq ∧ (t.queueOf e k).logn = (s.queueOf e k).logn ∧
          (t.queueOf e k).en = decide (v % 2 = 1)) ∧
        (v % 2 = 0 → (t.queueOf e k).en = false) ∧
        (v % 2 = 1 → (s.queueOf e k).en = false → s.hwqTaken e k (v / 2 ^ 24 % 64) = false → (t.queueOf e k).en = true ∧
          (t.queueOf e k).hwq.toNat = v / 2 ^ 24 % 64 ∧ (t.queueOf e k).logn = max 6 (min 16 (v / 2 ^ 16 % 32))))) ∧
    (a.flag = true → 3 ≤ s.power.bringup → a.addr = 0x014 → ∃ t, exec .registerWrite s = .next t ∧ workStands s t ∧
      t.sec.mbArg.toNat = v % 2 ^ 32) ∧
    (∃ t, exec .tlbiGo s = .next t ∧ t.mem = s.mem ∧ t.recs = s.recs ∧ (∀ c, (t.coreAt c).ctxs = (s.coreAt c).ctxs) ∧
      (a.flag = false → ∀ c, (t.coreAt c).l1 = []) ∧
      (a.flag = false → (∀ c, (s.coreAt c).engine.queue = []) → t.regs.tlbiBusy = false) ∧
      (a.flag = true → (∀ c, (s.coreAt c).engine.stale = 0) → t.regs.tlbiBusy = false) ∧
      (∀ c, a.flag = false → (s.coreAt c).engine.queue ≠ [] → t.regs.tlbiBusy = s.regs.tlbiBusy ∧
        (s.now + 2, Instr.tlbiGo, ({ flag := true } : EvArgs)) ∈ t.timers)) ∧
    (a.flag = false → ∃ t, exec .atsInvalidation s = .next t ∧ workStands s t ∧
      (∀ g, g ∈ t.atsGrants ↔ (g ∈ s.atsGrants ∧ ¬ (g.1 = a.num ∧ g.2.1 = a.addr))) ∧
      (s.atsUsers a.num a.addr = [] → t.errs.sent = s.errs.sent ++ [.atsDone a.num a.addr]) ∧
      (s.atsUsers a.num a.addr ≠ [] → t.errs = s.errs ∧
        (s.now + 192, Instr.atsInvalidation, ({ num := a.num, addr := a.addr, flag := true } : EvArgs)) ∈ t.timers)) ∧
    (∃ t, exec .hostLinkTraining s = .next t ∧ workStands s t ∧ t.power.linkNoFlit = !a.flag)

/-- 00 R14, 01 R27, 04 R86, R91, R92, 05 R109, R127, R130, R132: what the host reads: nothing where memory space is not decoded and in
the window aperture, zero in the notify aperture, the fields of FERR and of a governor in their places, HWQ only in the privileged
view of a queue, and DCFG nowhere else. -/
def Sys2Proof.Claims.RegisterReads : Prop :=
  ∀ (s : State) (fn o : Nat),
    (s.decodes = false → s.readBar0 fn o = .unsupported ∧ s.readBar2 fn o = .unsupported) ∧
    (inWindows fn o = true → s.readBar0 fn o = .unsupported) ∧
    (s.decodes = true →
      s.readBar2 fn o = .data 0 ∧
      (∃ w, s.readBar0 0 0 = .data w ∧ w.getLsbD 63 = s.errs.ferr.v ∧ w.extractLsb' 61 2 = s.errs.ferr.cls ∧
        w.extractLsb' 56 5 = s.errs.ferr.src ∧ w.extractLsb' 54 2 = s.errs.ferr.die ∧ w.extractLsb' 51 3 = s.errs.ferr.step ∧
        w.extractLsb' 47 4 = s.errs.ferr.fn ∧ w.extractLsb' 37 10 = s.errs.ferr.agent ∧ w.extractLsb' 0 32 = s.errs.ferr.time) ∧
      (∀ e : Fin 4, ∃ w, s.readBar0 0 (0x100 + 8 * e.val) = .data w ∧ w.extractLsb' 16 10 = (s.dieAt e).cap ∧
        w.extractLsb' 7 9 = (s.dieAt e).limit ∧ w.getLsbD 2 = (s.dieAt e).hot) ∧
      (∀ d q, d < 256 → q < 16 → ((s.dctxOf d).queue q).logn ≤ 16 → ∃ w, s.readBar0 0 (0x100000 + 0x1000 * d + 0x80 + 8 * q) = .data w ∧
        w.extractLsb' 24 6 = ((s.dctxOf d).queue q).hwq ∧ w.extractLsb' 8 4 = ((s.dctxOf d).queue q).qv ∧
        w.getLsbD 0 = ((s.dctxOf d).queue q).en ∧ w.getLsbD 2 = false) ∧
      (∀ k d q, k < 256 → q < 16 → 0 < fn → (s.contextsOf fn)[k]? = some d → ((s.dctxOf d).queue q).logn ≤ 16 → ∃ w,
        s.readBar0 fn (0x1000 * k + 0x80 + 8 * q) = .data w ∧
        w.extractLsb' 24 6 = 0 ∧ w.extractLsb' 8 4 = ((s.dctxOf d).queue q).qv ∧ w.getLsbD 0 = ((s.dctxOf d).queue q).en) ∧
      (∀ k, k < 256 → 0 < fn → s.readBar0 fn (0x1000 * k + 0x380) = .data 0))

/-- 04 R88, R89: D3hot freezes the cores and keeps everything; D0 goes on; a function-level reset takes the queues, grids and jobs of
its function; that of the PF also returns the registers to their reset values, ends D3hot and keeps memory's bytes. That a reset queue
holds what `Queue.reset` holds, that jobs and plans are gone, and which registers the PF's reset takes are the model's reading of R89
(log entry 62). -/
def Obligations.PowerStatesAndFunctionResets : Prop :=
  ∀ (s : State),
    let z := State.reset
    (s.power.bringup = 7 → s.power.d3hot = false → s.arg.flag = false → ∃ t, exec .d3hotEntry s = .next t ∧
      workStands s t ∧ t.power.d3hot = true ∧ t.power.d3At = s.now ∧ t.decodes = false ∧ (∀ c, t.frozen c = true) ∧
      t.timers = s.timers ++ [(s.now + msTicks, .d3hotEntry, ({ flag := true } : EvArgs))]) ∧
    (s.power.d3hot = true → (∀ d < 256, (s.dctxOf d).landing = []) → (∀ p ∈ s.contexts, (s.ctxAt p.1 p.2).leaving = none) →
      ∃ t, exec .d0Return s = .next t ∧ t.power.d3hot = false ∧
      t.mem = s.mem ∧ t.cores = s.cores ∧ t.recs = s.recs ∧ t.teams = s.teams ∧ t.dctxs = s.dctxs ∧
      ∀ d ∈ [0, 1, 2, 3], ∀ c, (dieOf c).val = d → c ∈ t.busy) ∧
    (s.power.d3hot = false → exec .d0Return s = .next s) ∧
    (∃ t, exec .functionLevelResetVf s = .next t ∧
      (∀ d < 256, (s.dctxOf d).fn = BitVec.ofNat 4 s.arg.fn.val → (t.dctxOf d).landing = [] ∧
        (∀ i < 16, (t.dctxOf d).queue i = Queue.reset) ∧ (∀ g ∈ t.grids, g.2.dctx ≠ d) ∧ (∀ j ∈ t.jobs, j.dctx ≠ d) ∧
        ∀ p ∈ t.plans, p.dctx ≠ d) ∧
      (∀ d < 256, (s.dctxOf d).fn ≠ BitVec.ofNat 4 s.arg.fn.val → t.dctxOf d = s.dctxOf d) ∧ t.mem.bytes = s.mem.bytes) ∧
    (s.power.d3hot = false ∨ (∀ p ∈ s.contexts, (s.ctxAt p.1 p.2).leaving = none) →
      ∃ t, exec .functionLevelResetPf s = .next t ∧ t.power.d3hot = false ∧ t.dctxs = z.dctxs ∧ t.regs = z.regs ∧ t.save = z.save ∧ (∀ g ∈ t.grids, 256 ≤ g.2.dctx) ∧
      t.mem.bytes = s.mem.bytes ∧ t.fz.nid = 0x1FFFFF ∧ (∀ i < 16, getIdx t.fz.up i true = false) ∧ t.errs.ferr.v = false ∧
      t.sec.lock = s.sec.lock ∧ t.sec.log = s.sec.log ∧ ∀ e, (t.dieAt e).cap = 550 ∧ (t.dieAt e).limit = 384)

/-- 05 R106, R110, R117, R119, R125, 21 R428: queue registers, the minor frame, and the end of a grid: the kept completion writes come before
the head packet, and a killed grid too completes only when what its threads issued has run on to its end. That the executive goes on
after a fault of its own code is the model's choice (log entry 79). -/
def Obligations.QueuesFramesAndGridEnd : Prop :=
  ∀ (s : State),
    let a := s.arg
    let d := a.dctx.val
    let q := a.q.val
    let x := s.queueOf d q
    (x.en = false → s.hwqTaken d q x.hwq.toNat = false → ∃ t, exec .queueEnable s = .next t ∧ pageOnly s t d ∧
      (t.queueOf d q).en = true ∧ (t.queueOf d q).st = (if x.st = .idle then .active else x.st) ∧
      (t.queueOf d q).rdix = x.rdix ∧ (t.queueOf d q).base = x.base) ∧
    (x.en = false → s.hwqTaken d q x.hwq.toNat = true → exec .queueEnable s = .next s) ∧
    (∃ t, exec .queueDisable s = .next t ∧ pageOnly s t d ∧ (t.queueOf d q).en = false ∧
      (x.en = true → (t.queueOf d q).disabling = true ∧
        ((t.poll d q none).queueOf d q).st = .idle)) ∧
    (∃ t, exec .queueReset s = .next t ∧ pageOnly s t d ∧ (x.st = .idle → t.queueOf d q = x) ∧
      (x.st ≠ .idle → (t.queueOf d q).rst = true) ∧ (x.disabling = false → x.st ≠ .idle → x.kept = [] → x.en = false →
        ((t.poll d q none).queueOf d q).st = .active ∧ ((t.poll d q none).queueOf d q).fstat = 0) ∧
      (x.disabling = false → x.st = .aborted ∨ x.st = .stallFault →
        let y := s.modQueue d q fun x => { x with rst := false, st := .active, fstat := 0 }
        (x.kept = [] → t.poll d q none = y.poll d q none) ∧
        (∀ csig word rest, x.kept = (csig, word) :: rest →
          (∀ e, y.completionWrite x.die d csig word = .error e → ((t.poll d q none).queueOf d q).st = .stallFault ∧
            ((t.poll d q none).queueOf d q).kept = x.kept ∧ ((t.poll d q none).queueOf d q).rdix = x.rdix) ∧
          (∀ u, y.completionWrite x.die d csig word = .ok u → rest = [] →
            t.poll d q none = (u.modQueue d q fun x => { x with kept := [] }).poll d q none)))) ∧
    (s.firmwareUp = false ∨ ((∀ e < 256, (s.dctxOf e).landing = [] ∧ ∀ i < 16, ((s.dctxOf e).queue i).en = false ∧
        ((s.dctxOf e).queue i).disabling = false) ∧ s.sec.patch = none) → a.flag2 = false → ∃ t, exec .minorFrame s = .next t ∧
      t.frames = s.frames + 1 ∧ t.mem = s.mem ∧ t.dctxs = s.dctxs ∧ t.recs = s.recs ∧
      (a.flag = true → reported s t 2 11 0 a.die.val 0) ∧ (a.flag = false → t.errs = s.errs ∧ t.power = s.power) ∧
      ((s.timers.any fun m => m.2.1 == .minorFrame) = false →
        (s.now + (192 - s.now % 192), Instr.minorFrame, ({} : EvArgs)) ∈ t.timers)) ∧
    (s.firmwareUp = true → s.patchDue = true → a.flag = false → a.flag2 = false → ∃ t, exec .minorFrame s = .next t ∧
      t.mem = s.mem ∧ t.dctxs = s.dctxs ∧ t.agenda = (.patchApply, {}) :: (.minorFrame, { flag2 := true }) :: s.agenda) ∧
    (∀ g, s.gridOf a.grid.val = some g → g.plan = none →
      let mine : Prop := (∃ j ∈ s.jobs, j.state ≠ .ended ∧ j.grid = a.grid.val ∧ ∃ va, j.owner = .thread va) ∨ ∃ r ∈ s.recs, r.grid = a.grid.val
      ((g.killed.isSome = true ∧ ¬ mine) ∨ (g.killed = none ∧ g.haltedTeams = g.teams ∧ s.gridQuiet a.grid.val = true) → ∃ t,
        exec .gridComplete s = .next t ∧ t = s.gridDone a.grid.val g (g.killed.getD 0) ∧ t.gridOf a.grid.val = none ∧
        (∀ r ∈ t.recs, r.grid ≠ a.grid.val) ∧ (∀ m ∈ t.teams, m.grid ≠ a.grid.val)) ∧
      (g.killed.isSome = true → mine → exec .gridComplete s = .next s) ∧
      (g.killed = none → g.haltedTeams ≠ g.teams ∨ s.gridQuiet a.grid.val = false → exec .gridComplete s = .next s))

/-- 05 R113, R116 to R123, 06 R144, 07 R193: a good packet of each type at the head of an active queue: what it launches, writes or
decides; the queue goes on unless the packet waits. That a PLAN packet's plan has E = 1 is the model's choice, as the spec gives a packet no
RPLN, and so is that a SIGNAL packet without a target only completes (log entry 55). -/
def Obligations.PacketsRun : Prop :=
  ∀ (s u : State) (p : Block),
    let d := s.arg.dctx.val
    let q := s.arg.q.val
    headIs s u d q p → headGood u d q p →
    let csig := pkCsig p
    (pkType p = 1 → ∀ i g, u.claim d q p = .got i g → ∃ t, exec .kernel s = .next t ∧ t.gridOf i = some g ∧ goneOn u t d q ∧
      g.dctx = d ∧ g.q = q ∧ g.img = pkF p 8 8 ∧ g.args = pkF p 16 8 ∧ g.teams = pkF p 24 4 ∧ g.threads = pkF p 28 2 ∧
      g.spad = pkF p 30 1 ∧ g.csig = csig ∧ (t.queueOf d q).held = ((u.queueOf d q).held || pkB p) ∧
      (Instr.teamPlacement, ({ grid := ⟨i % 256, Nat.mod_lt _ (by decide)⟩, id := 0, flag := true } : EvArgs)) ∈ t.agenda ∧
      (u.now + g.qnt * 120000, Instr.quantumBoundary, ({ grid := ⟨i % 256, Nat.mod_lt _ (by decide)⟩ } : EvArgs)) ∈ t.timers) ∧
    (pkType p = 1 → u.claim d q p = .wait → exec .kernel s = .next u) ∧
    (pkType p = 6 → ∀ i g, u.claim d q p = .got i g → ∃ t, exec .plan s = .next t ∧ goneOn u t d q ∧
      ((∃ pl, t.plans = u.plans ++ [pl] ∧ pl.desc = pkF p 8 8 ∧ pl.bind = pkF p 16 8 ∧ pl.st = .planning ∧
          pl.grid = some i ∧ pl.pkt = some (q, csig) ∧ pl.e = 1 ∧ pl.dctx = d) ∨
        ((t.queueOf d q).fstat = 2 ∧ t.grids = u.grids ∧ t.plans = u.plans))) ∧
    (pkType p = 4 → u.jobsOfHall (12 * (u.queueOf d q).die) < 256 → ∃ t j, exec .copy s = .next t ∧ t.jobs = u.jobs ++ [j] ∧
      goneOn u t d q ∧ j.state = .entering ∧ j.dctx = d ∧ cardOp j.card = 1 ∧
      j.owner = .packet d q csig (pkSys p) (pkB p) (pkF p 8 8 + min (pkF p 24 8) (2 ^ 35))
        (pkF p 16 8 + min (pkF p 24 8) (2 ^ 35)) (pkF p 24 8 - min (pkF p 24 8) (2 ^ 35)) (pkF p 32 1) ∧
      (Instr.jobCardEntry, ({ id := j.id } : EvArgs)) ∈ t.agenda) ∧
    (pkType p = 5 → pkF p 8 4 ≠ noSignal →
      let va := u.sigVa d (pkF p 8 4)
      let die := (u.queueOf d q).die
      (∀ n w, pkF p 12 1 = 0 → u.vaWrite die (u.fwWho d) va (bytesOfNat 8 (pkF p 16 8)) = .ok (n, w) →
        exec .signal s = .next ((w.pollSignal d q csig 0).leaveHead d q)) ∧
      (∀ w, pkF p 12 1 = 1 → u.sigUpdate die (u.fwWho d) d (pkF p 8 4) (fun x => some (x + pkF p 16 8)) = .ok w →
        exec .signal s = .next ((w.pollSignal d q csig 0).leaveHead d q)) ∧
      (∀ w, pkF p 12 1 = 2 → u.sigUpdate die (u.fwWho d) d (pkF p 8 4) (fun x => if 0 ≤ x then some (x - 1) else none) = .ok w →
        exec .signal s = .next ((w.pollSignal d q csig 0).leaveHead d q))) ∧
    (pkType p = 5 → ∃ t, exec .signal s = .next t ∧ goneOn u t d q) ∧
    (pkType p = 5 → pkF p 8 4 = noSignal → exec .signal s = .next ((u.pollSignal d q csig 0).leaveHead d q)) ∧
    (∀ l w, pkType p = 2 ∨ pkType p = 3 → u.readDeps d q p = .ok (l, w) → (w.queueOf d q) = (u.queueOf d q) →
      let e : Instr := if pkType p = 2 then .barrierAnd else .barrierOr
      let met : Prop := (∀ x ∈ l, 0 ≤ x) ∧ ((∀ x ∈ l, x = 0) ∨ (pkType p = 3 ∧ ∃ x ∈ l, x = 0))
      (met → ∃ t, exec e s = .next t ∧ goneOn u t d q ∧ (t.queueOf d q).st = .active ∧
        t = (w.pollSignal d q csig 0).leaveHead d q) ∧
      ((∃ x ∈ l, x < 0) → ∃ t, exec e s = .next t ∧ goneOn u t d q ∧ (t.queueOf d q).st = .aborted ∧
        (t.queueOf d q).fstat = 1) ∧
      (¬ met → (∀ x ∈ l, 0 ≤ x) → exec e s = .next w))

/-! ## Fabric messages (04) -/

namespace Sys2Proof.Claims

/-- A message that the part accepts in its turn, with none held behind it (04 R94, R95). -/
def InTurn (s : State) (m : FinzonMsg) : Prop :=
  m.crcOk = true ∧ m.dst = s.fz.nid.toNat ∧ m.dst ≠ unassigned ∧ s.power.d3hot = false ∧ m.seq = tget s.fz.expectSeq m.src 0 ∧
  ∀ x ∈ s.fz.held, ¬ (x.src = m.src ∧ x.seq = (m.seq + 1) % 2 ^ 32)

/-- The state in which it is performed: its sender's next SEQ is expected. -/
def turned (s : State) (m : FinzonMsg) : State :=
  s.modFz fun f => { f with expectSeq := tset f.expectSeq m.src ((m.seq + 1) % 2 ^ 32) 0 }

/-- No line that the message touches is under a transaction. -/
def lineFree (s : State) (m : FinzonMsg) (n : Need) : Prop := segsBusy s (s.msgSegs m n) = false

/-- The same state but for the fabric port. -/
def fabricOnly (s t : State) : Prop := t = { s with fz := t.fz }

end Sys2Proof.Claims

/-- 04 R94 to R100, 06 R154: messages of other parts, in their turn, through an open window: put, flag post, get, atomic and collective;
each is acknowledged, and one that no window takes, or that may not, is refused with its status; in D3hot each is answered ASLEEP, and one
whose lines are under a transaction waits for them. How a remote flag post is encoded in OPND0 and OPND1, and that a collective needs W alone,
are the model's choices (log entry 18), and so are the route j = 0 of answers and the low half of OPND for an old value (log entry 76). -/
def Sys2Proof.Claims.FabricRequests : Prop :=
  ∀ (s : State) (w : RemoteWin),
    let m := finzonOf s.arg
    let u := turned s m
    let ack (v : State) (e : Instr) : Prop := exec e s = .next (v.answerMsg m none)
    let nak (k : Nat) (e : Instr) : Prop := exec e s = .next (u.answerMsg m (some k))
    (∀ v j, m.src ≠ unassigned → m.src ≠ v.fz.nid.toNat → v.fz.port m.src v.fz.nid.toNat 0 = some j →
      ∀ k, fabricOnly v (v.answerMsg m k) ∧ ∃ r, (v.answerMsg m k).fz.sent = v.fz.sent ++ [(j, r)] ∧
        r.typ = (if k.isSome then 7 else 6) ∧ r.stat = k.getD 0 ∧ r.dst = m.src ∧ r.src = v.fz.nid.toNat ∧ r.seq = m.seq) ∧
    (m.crcOk = true → m.dst = s.fz.nid.toNat → m.dst ≠ unassigned → m.seq = tget s.fz.expectSeq m.src 0 →
      (∀ x ∈ s.fz.held, ¬ (x.src = m.src ∧ x.seq = (m.seq + 1) % 2 ^ 32)) → s.power.d3hot = true → m.typ ≠ 3 → m.typ ≠ 5 →
      (lineFree s m needW → nak 4 .finzonPut) ∧ (lineFree s m needR → nak 4 .finzonGet) ∧ (lineFree s m needRW → nak 4 .finzonAtomic)) ∧
    (m.crcOk = true → m.dst = s.fz.nid.toNat → ¬ lineFree s m needW → ∃ t, exec .finzonPut s = .next t ∧ t.fz = s.fz ∧
      t.mem.bytes = s.mem.bytes ∧ (s.now + 2, msgEvent m, ({ msg := m } : EvArgs)) ∈ t.timers) ∧
    (InTurn s m → s.window m.win = none →
      nak 2 .finzonPut ∧ nak 2 .finzonGet ∧ nak 2 .finzonAtomic ∧ nak 2 .finzonCollective) ∧
    (InTurn s m → s.window m.win = some w →
      (lineFree s m needW → m.opnd1 < 2 ^ 32 → w.w = true → msgSpan m.va m.len = true → m.data.length = m.len →
        (∀ n v, u.vaWrite 0 (u.remoteWho w) m.va m.data = .ok (n, v) → ack v .finzonPut) ∧
        (∀ e, u.vaWrite 0 (u.remoteWho w) m.va m.data = .error e → nak 3 .finzonPut)) ∧
      (lineFree s m needW → m.opnd1 < 2 ^ 32 → w.w = false → nak 3 .finzonPut) ∧
      (∀ g x, lineFree s m needW → m.len = 0 → 2 ^ 32 ≤ m.opnd1 → w.grid = some g → s.gridOf g = some x →
        (x.killed = none → m.opnd0 < x.teams → ack (u.postFlag g m.opnd0 (m.opnd1 % 2 ^ 32)) .finzonPut) ∧
        (x.killed = none → x.teams ≤ m.opnd0 → nak 5 .finzonPut)) ∧
      (∀ got v q t, lineFree s m needR → w.r = true → msgSpan m.va m.len = true →
        u.vaRead 0 (u.remoteWho w) m.va m.len = .ok (got, v) → got.poison = false →
        v.sendKept 0 none { typ := 3, resp := true, dst := m.src, win := m.win, va := m.va, len := m.len, tag := m.tag,
                            data := got.bytes } = some (q, t) → ack t .finzonGet) ∧
      (lineFree s m needR → w.r = false → nak 3 .finzonGet) ∧
      (∀ got v, lineFree s m needR → w.r = true → msgSpan m.va m.len = true → u.vaRead 0 (u.remoteWho w) m.va m.len = .ok (got, v) →
        got.poison = true → exec .finzonGet s = .next (v.answerMsg m (some 3))) ∧
      (∀ p old v q t, lineFree s m needRW → w.a = true → m.len = 4 ∨ m.len = 8 → m.va % m.len = 0 → m.stat < 8 →
        translate u (u.remoteWho w) needRW m.va = .ok p →
        u.remoteAtomic p m.stat m.len (m.opnd0 % 2 ^ (8 * m.len)) (m.opnd1 % 2 ^ (8 * m.len)) = .ok (old, v) →
        v.sendKept 0 none { typ := 5, resp := true, dst := m.src, win := m.win, va := m.va, len := m.len, tag := m.tag,
                            opnd0 := old } = some (q, t) → ack t .finzonAtomic) ∧
      (∀ p v k, lineFree s m needRW → w.a = true → m.len = 4 ∨ m.len = 8 → m.va % m.len = 0 → m.stat < 8 →
        translate u (u.remoteWho w) needRW m.va = .ok p →
        u.remoteAtomic p m.stat m.len (m.opnd0 % 2 ^ (8 * m.len)) (m.opnd1 % 2 ^ (8 * m.len)) = .error (k, v) → k = 3 ∧
        exec .finzonAtomic s = .next (v.answerMsg m (some 3))) ∧
      (lineFree s m needRW → m.len = 4 ∨ m.len = 8 → m.va % m.len ≠ 0 → nak 3 .finzonAtomic) ∧
      (lineFree s m ⟨false, false, false⟩ → w.w = true → m.data.length = m.len →
        (∀ j ∈ s.jobs, collTakes j m = false) →
        ack (u.modFz fun f => { f with early := f.early ++ [m] }) .finzonCollective))

/-- 04 R95 to R97, R102, 06 R154: answers release what was kept and reach their job; a lost message is sent again, up to eight times;
transit messages are forwarded; reserved types are counted; ports change. That an ACK or NAK whose CRC fails is discarded is the model's choice
(log entry 18), and that a resend counts for the lost message alone, and the route j = 0 of a transit message (log entry 76). -/
def Sys2Proof.Claims.FabricAnswers : Prop :=
  ∀ (s : State),
    let a := s.arg
    let m := finzonOf a
    let mine (k : Kept) : Bool := k.msg.dst == m.src && k.msg.seq == m.seq
    (m.crcOk = true → m.dst = s.fz.nid.toNat → ∀ k, s.fz.kept.find? mine = some k →
      let gone := s.modFz fun f => { f with kept := f.kept.erase k }
      (k.job = none → exec .finzonAck s = .next gone ∧ (m.stat ≠ 1 → exec .finzonNak s = .next gone)) ∧
      (∀ id j, k.job = some id → s.jobs.filter (fun x => x.id == id) = [j] → j.state = .running → cardOp j.card < 8 →
        (∀ x ∈ j.awaiting, x = (m.src, m.seq)) → j.awaiting.length = 1 →
        ∃ t j', exec .finzonAck s = .next t ∧ t.fz.kept = s.fz.kept.erase k ∧ t.jobOf id = some j' ∧ j'.state = .finishing ∧
          j'.awaiting = [] ∧ j'.status = 0) ∧
      (∀ id j, k.job = some id → s.jobs.filter (fun x => x.id == id) = [j] → j.state = .running → m.stat ≠ 1 →
        ∃ t j', exec .finzonNak s = .next t ∧ t.fz.kept = s.fz.kept.erase k ∧ t.jobOf id = some j' ∧ j'.state = .finishing ∧
          j'.status = 8)) ∧
    (m.dst = s.fz.nid.toNat → m.crcOk = false → exec .finzonAck s = .next s ∧ exec .finzonNak s = .next s) ∧
    (∀ k p, s.fz.kept = [k] → k.msg.dst = a.num → k.msg.seq = a.id → k.resends < 8 → k.msg.dst ≠ unassigned →
      k.msg.dst ≠ s.fz.nid.toNat → s.fz.port k.msg.dst k.msg.src k.chunk = some p → a.id < 2 ^ 32 →
      ∃ t, exec .finzonResendTimeout s = .next t ∧ t.fz.kept = [{ k with resends := k.resends + 1 }] ∧
        t.fz.sent = s.fz.sent ++ [(p, k.msg)] ∧ reported s { t with fz := s.fz } 0 3 0 0 0 ∧
        t.timers = s.timers ++ [(s.now + 12000, .finzonResendTimeout, ({ num := a.num, id := a.id } : EvArgs))]) ∧
    (InTurn s m →
      let v := (turned s m).answerMsg m none
      (s.jobAwaiting m = none → exec .finzonGetData s = .next v ∧ exec .finzonAtomicResult s = .next v) ∧
      (∀ j va w n t, s.answerHeld m = none → v.jobAwaiting m = some j → cardOp j.card ≠ 9 → cardRegion j.card 0 = .remote va w n →
        v.give j 1 (m.va - va) m.data = .ok t → exec .finzonGetData s = .next (t.jobArrived j.id (m.src + 2 ^ 32, m.va))) ∧
      (∀ j t, s.answerHeld m = none → v.jobAwaiting m = some j → v.give j 1 0 (bytesOfNat 8 (BitVec.ofInt 64 (sextN (8 * m.len) m.opnd0)).toNat) = .ok t →
        exec .finzonAtomicResult s = .next (t.jobArrived j.id (m.src + 2 ^ 32, m.va)))) ∧
    (m.dst ≠ unassigned → (∀ p, s.fz.port m.dst m.src 0 = some p → ∃ t, exec .finzonTransit s = .next t ∧ fabricOnly s t ∧
        t.fz.sent = s.fz.sent ++ [(p, m)]) ∧
      (s.fz.port m.dst m.src 0 = none → exec .finzonTransit s = .next s.badMsg)) ∧
    (∃ t, exec .finzonReservedType s = .next t ∧ fabricOnly s t ∧ t.fz.badmsg = s.fz.badmsg + 1 ∧ t.fz.sent = s.fz.sent) ∧
    (∃ t, exec .finzonPortChange s = .next t ∧ fabricOnly s t ∧
      getIdx t.fz.up a.port.val false = (a.flag && s.fz.nid != 0x1FFFFF && !s.power.fatal) ∧
      ∀ i < 16, i ≠ a.port.val → getIdx t.fz.up i false = getIdx s.fz.up i false)

/-- 04 R94: a message read from its own flits is that message: no field of the header, no byte of its data and no bit of its CRC is
lost, for data carried inline and in data flits. -/
def Sys2Proof.Claims.FlitsCarryTheMessage : Prop :=
  ∀ m : FinzonMsg, m.typ < 2 ^ 8 → m.dst < 2 ^ 21 → m.src < 2 ^ 21 → m.seq < 2 ^ 32 → m.win < 2 ^ 16 → m.stat < 2 ^ 16 →
    m.va < 2 ^ 56 → m.len < 2 ^ 32 → m.tag < 2 ^ 32 → m.opnd0 < 2 ^ 128 → m.opnd1 < 2 ^ 128 → m.crcOk = true →
    m.data.length = (if m.typ = 1 ∨ m.typ = 3 ∨ m.typ = 8 then m.len else 0) →
    msgOfFlits (msgFlits m) = m ∧ (msgFlits m).length = 256 + (if m.data.length ≤ 128 then 0 else ceilDiv m.data.length 256 * 256) ∧
    finzonOf { bytes := msgFlits m } = m

/-! ## Jobs and engines (06, 17) -/

namespace Sys2Proof.Claims

/-- The engine of job `j` goes on: the part is in D0 (04 R88), its team is not being pre-empted (06 R164), no queued matrix command of
its thread stands before it (10 R245), no line it needs is under a transaction and no scratchpad it writes drains (03 R67, 09 R219),
and it needs no leave or has it (01 R30). -/
def EngineGoes (s : State) (j : Job) : Prop :=
  s.jobOf s.arg.id = some j ∧ j.state = .running ∧ s.power.d3hot = false ∧ (s.teamStops j = false ∨ j.awaiting ≠ []) ∧
  s.matBefore j = false ∧ (∀ i < 4, s.regBusy j i = false) ∧
  (j.grant.isSome = true ∨ s.burstClass j = none)

/-- Job `j` ends with a status: its completion follows. -/
def ended (t : State) (j : Job) (status : Nat) : Prop :=
  ∃ k, t.jobOf j.id = some k ∧ k.state = .finishing ∧ k.status = status ∧
    (Instr.jobComplete, ({ id := j.id } : EvArgs)) ∈ t.agenda

/-- Region `i` of a card lies in the scratchpad of the job's team, `n` bytes from offset `o`, none of them bad (09 R218). -/
def inPad (j : Job) (t : Team) (i o n : Nat) : Prop :=
  ∃ va, cardRegion j.card i = .flat va n ∧ inAperture va = true ∧ va % 2 ^ 48 = o ∧ spadGood t o n

/-- A region that one command of an engine covers. -/
def oneCommand (j : Job) (i n : Nat) : Prop := regCuts j.card i n = [(0, n)]

end Sys2Proof.Claims

/-- 06 R154 to R157, 03 R71, 17 R390: a card that passes its checks waits for an engine and its tag is delivered, one that does not
fails with its status; a ready job is issued, and a saved one once its hall has room for it; a job's end performs its completion action or
raises its status. -/
def Sys2Proof.Claims.JobLife : Prop :=
  ∀ (s : State) (j : Job),
    let id := s.arg.id
    (s.jobOf id = some j → j.state = .entering → s.cardHeld j = false →
      (s.entryFault j = none → ∃ t k, exec .jobCardEntry s = .next t ∧ t.jobOf id = some k ∧ k.state = .waiting ∧
        k.tag = j.tag ∧ t.mem = s.mem ∧ (Instr.jobDispatch, ({ hall := hallIx j.hall } : EvArgs)) ∈ t.agenda ∧
        ∀ x a c q, j.result = some (x, a) → s.issuerCtx j = some c →
          (s.ctxAt c.1 c.2).long.find? (fun l => l.id == x) = some q →
          (t.ctxAt c.1 c.2).long.find? (fun l => l.id == x) = some { q with data := some (BitVec.ofNat 2048 j.tag) } ∧
          (Instr.interlockArrival, ({ core := c.1, ctx := c.2, id := x } : EvArgs)) ∈ t.agenda) ∧
      (∀ status, s.entryFault j = some status → ∃ t, exec .jobCardEntry s = .next t ∧ ended t j status)) ∧
    (s.power.d3hot = false → s.arg.flag = false → (∀ k ∈ s.jobs, k.state ≠ .queued) → s.nextJob s.arg.hall.val = some j →
      s.jobs.filter (fun x => x.id == j.id) = [j] → ∃ t k, exec .jobDispatch s = .next t ∧ t.jobOf j.id = some k ∧
        k.state = .running ∧ (jobEvent j.card, ({ id := j.id } : EvArgs)) ∈ t.agenda ∧ t.mem = s.mem) ∧
    (s.power.d3hot = false → s.arg.flag = false → (∀ k ∈ s.jobs, k.state ≠ .queued) →
      (∀ k ∈ s.jobs, s.couldRun s.arg.hall.val k = false) → exec .jobDispatch s = .next s) ∧
    (s.power.d3hot = false → s.arg.flag = false → s.jobs.filter (fun x => x.id == j.id) = [j] → j.state = .queued →
      (∀ k ∈ s.jobs, k.state = .queued → k = j) → j.hall = s.arg.hall.val → s.jobHome j = true →
      ∃ t k, exec .jobDispatch s = .next t ∧ t.jobOf j.id = some k ∧
        (s.jobsOfHall j.hall < 256 → k.state = .waiting ∨ k.state = .running) ∧ (256 ≤ s.jobsOfHall j.hall → k.state = .queued)) ∧
    (s.jobOf id = some j → j.state = .running → ∃ t, exec .engineCapacityTimeout s = .next t ∧ ended t j 5) ∧
    (s.jobOf id = some j → j.state = .finishing →
      let d := cardDone j.card
      let c := doneCarg d
      let v := if 3 ≤ doneScope d ∨ cardOp j.card = 8 then s.ncFlush j.die else s
      let gone (u : State) : Prop := exec .jobComplete s = .next (u.retire j 0) ∧ ∀ k ∈ (u.retire j 0).jobs, k.id ≠ j.id
      (∀ va, j.owner = .thread va → j.status = 0 →
        (doneCa d = 0 → gone v) ∧
        (∀ g, doneCa d = 1 → s.gridOf j.grid = some g → c % 2 ^ 32 < g.teams → gone (v.postFlag j.grid (c % 2 ^ 32) (doneFlag d))) ∧
        (∀ q u, doneCa d = 2 → v.sendKept 0 (some j.id)
            (flagPost (c % 2 ^ 21) (bitsN c 21 12) (bitsN c 33 20) (doneFlag d) j.tag) = some (q, u) → ∃ t k,
          exec .jobComplete s = .next t ∧ t.jobOf j.id = some k ∧ k.state = .posting ∧ k.awaiting = [(c % 2 ^ 21, q)] ∧
          t.fz = u.fz) ∧
        (doneCa d = 3 → gone (v.barrierUpdate j.grid j.team (c % 256) (j.bytes % 2 ^ 56) 0)) ∧
        (∀ u, doneCa d = 4 → c % 2 ^ 32 < 2 ^ (v.dctxOf (v.jobWho j).dctx).logs →
          v.sigUpdate j.die (v.jobWho j) (v.jobWho j).dctx (c % 2 ^ 32) (fun x => if 0 ≤ x then some (x - 1) else none) = .ok u →
          gone u)) ∧
      (∀ va, j.owner = .thread va → j.status ≠ 0 → j.status ≠ 10 → s.issuerLive va j.grid = true →
        exec .jobComplete s = .next (((s.reportJob j j.status).retire j j.status).raiseRec va j.grid (32 + j.status) j.status)) ∧
      (∀ dx q csig sys b src dst hostf, j.owner = .packet dx q csig sys b src dst 0 hostf → j.status = 0 →
        exec .jobComplete s = .next ((s.retire j 0).packetDone dx q csig b 0 0)) ∧
      (∀ p, j.owner = .plan p → j.status = 0 → exec .jobComplete s = .next ((s.retire j 0).planJobEnd p 0)))

/-- 17 R392 to R394, R396: transfers of one command whose local regions lie in scratchpad: fill, copy, gather (a row that does not exist
reads zero and is counted), scatter (such a row writes nothing) and gallery load. -/
def Obligations.EngineTransfers : Prop :=
  ∀ (s : State) (j : Job) (t : Team),
    EngineGoes s j → s.teamOf j.grid j.team = some t →
    let x : Nat := cardOpx j.card
    let rowb : Nat := x % 2 ^ 18
    let ib : Nat := if bitN x 18 then 8 else 4
    let ends0 (i : Instr) (P : State → Team → Prop) : Prop := ∃ u t', exec i s = .next u ∧ ended u j 0 ∧ u.mem = s.mem ∧
      u.teamOf j.grid j.team = some t' ∧ t'.flags = t.flags ∧ P u t'
    let rows (k xo : Nat) : List Int := (List.range k).map fun i => sextN (8 * ib) (natOfBytes (spadBytes t (xo + ib * i) ib))
    let here (n : Nat) (r : Int) : Bool := decide (0 ≤ r) && decide ((r + 1) * (rowb : Int) ≤ n)
    (∀ o n, inPad j t 0 o n → n ≠ 0 → oneCommand j 0 n → ends0 .engineFill fun _ t' => t'.gal = t.gal ∧
      t'.spad = Memory.write t.spad o ((List.range n).map fun k => BitVec.ofNat 8 (x / 2 ^ (8 * (k % 4))))) ∧
    (∀ o p n, inPad j t 0 o n → inPad j t 1 p n → n ≠ 0 → x % 2 ^ 25 = 0 → oneCommand j 0 n →
      ends0 .engineCopy fun _ t' => t'.gal = t.gal ∧ t'.spad = Memory.write t.spad p (spadBytes t o n)) ∧
    (∀ to_ xo d n k, inPad j t 0 to_ n → inPad j t 1 xo (ib * k) → inPad j t 2 d (rowb * k) → rowb ≠ 0 → k ≠ 0 →
      oneCommand j 2 (rowb * k) → ends0 .engineGather fun u t' => t'.gal = t.gal ∧
        (∃ bs : List (List Byte), t'.spad = Memory.write t.spad d bs.flatten ∧ bs.length = k ∧ ∀ (i : Nat) (r : Int), (rows k xo)[i]? = some r →
          bs[i]? = some (if here n r then spadBytes t (to_ + r.toNat * rowb) rowb else List.replicate rowb 0)) ∧
        ∃ q, u.jobOf j.id = some q ∧ q.oor = j.oor + (rows k xo).countP (fun r => ¬ here n r)) ∧
    (∀ vo xo to_ n k, inPad j t 0 vo (rowb * k) → inPad j t 1 xo (ib * k) → inPad j t 2 to_ n → rowb ≠ 0 → k ≠ 0 →
      ends0 .engineScatter fun _ t' => t'.gal = t.gal ∧
        t'.spad = (rows k xo).zipIdx.foldl (fun m p =>
          if here n p.1 then Memory.write m (to_ + p.1.toNat * rowb) (Memory.read m (vo + p.2 * rowb) rowb)
          else m) t.spad) ∧
    (∀ o n va, inPad j t 0 o n → cardRegion j.card 0 = .flat va n → n ≠ 0 → oneCommand j 0 n →
      x % 2 ^ 23 + n ≤ gallerySize s j.grid → s.galleryRead j (x % 2 ^ 23) n = false →
      ends0 .engineGalleryLoad fun _ t' => t'.spad = t.spad ∧ t'.gal = Memory.write t.gal (x % 2 ^ 23) (spadBytes t o n) ∧
        (⟨va, x % 2 ^ 23, n⟩ : GalMap) ∈ t'.galMap)

/-- 12 R301 to R304, 17 R395, 08 R211: an expansion leaves the bank named and unsealed with its bundles, a seal writes REPORT and seals the bank
exactly when nothing failed; a rejection for a grid completes it SEAL_REJECT, and one for an overlay raises the job failure BAD_JOB against
the thread that asked for it. -/
def Obligations.EngineExpandAndSeal : Prop :=
  ∀ (s : State),
    (∀ j, EngineGoes s j →
      let who := s.jobWho j
      let c := jobCore j
      let b := jobBank j
      let table := s.jobImage j
      let seg := jobSeg j
      let bank := (s.coreAt c).banks.get b
      bank.loading = none →
      (∀ img e bs str, (s.image who table).1 = some img → seg < img.nseg → s.goodEntry who table seg img.nseg = some e →
        cardRegion j.card 0 = .flat e.sva e.slen → (s.imageRead who e.sva e.slen).1 = some bs → Stream.parse e bs = some str →
        ∃ t, exec .engineExpand s = .next t ∧ ended t j 0 ∧ t.mem.bytes = s.mem.bytes ∧
          (let k := (t.coreAt c).banks.get b
           k.loaded = true ∧ k.isSealed = false ∧ k.seg = seg ∧ k.table = table ∧ k.dctx = who.dctx ∧ k.nb = e.nb ∧
           k.nh = e.nh ∧ k.next = e.next) ∧
          (tableWf 0 (s.coreAt c).bundles = true → str.relocs = [] → ∀ i x, str.bundles[i]? = some x →
            tget (t.coreAt c).bundles (2048 * b.val + i) 0 = x)) ∧
      (bank.seg = seg → bank.table = table → bank.dctx = who.dctx → (∀ img, (s.image who table).1 = some img → seg < img.nseg) →
        bank.loaded = true →
        let f := bank.failure.orElse fun _ => (s.coreAt c).burin b (nbIn (s.farNbs who c b).1)
        ∃ t, exec .engineSeal s = .next t ∧ ended t j (if f = none then 0 else 3) ∧
          ((t.coreAt c).banks.get b).isSealed = f.isNone ∧ ((t.coreAt c).banks.get b).failure = f)) ∧
    (let c := s.arg.core
     let b := s.arg.bank
     let bank := (s.coreAt c).banks.get b
     let r := s.seal (s.whoOfGrid s.arg.grid.val) c b
     (∀ why, bank.loading = some why → s.arg.flag = false → bank.queue = [] →
       (r.1 = true → exec .sealComplete s = .next (r.2.bankReady c b) ∧
         (((r.2.bankReady c b).coreAt c).banks.get b).isSealed = true ∧
         (((r.2.bankReady c b).coreAt c).banks.get b).loading = none) ∧
       (∀ g, r.1 = false → why = .grid g → exec .sealComplete s = .next ((r.2.killGrid g 4).bankReady c b)) ∧
       (∀ g va, r.1 = false → why = .overlay g va → exec .sealComplete s = .next ((r.2.raiseRec va g 35 3).bankReady c b)) ∧
       (r.1 = false → why = .fetch → exec .sealComplete s = .next (r.2.bankReady c b))) ∧
     (bank.loading = none → bank.queue = [] → (∀ x, s.waitsBank c b x = false) → (∀ r ∈ s.recs, s.recWaitsBank c b r = false) →
       exec .sealComplete s = .next s))

/-- 17 R397, R398, R400, 04 R99 to R104: what a collective, a checkpoint, a restore and a remote atomic send and wait for, and how they
end. The checkpoint and the restore are of one chunk. The model's choices: the hash, the keys of a member's own descriptor and input, and where
a collective's message carries its rank and offset (log entry 18); the class that GRAN names and that a checkpoint counts the bytes of its
stream (log entry 36). -/
def Obligations.EngineFabricJobs : Prop :=
  ∀ (s : State) (j : Job), EngineGoes s j →
    let tracked := s.modFz fun z => { z with collectives := z.collectives ++ [⟨j.id, 0, [], 0, 0⟩] }
    let waits (i : Instr) (u : State) : Prop := exec i s = .next u
    (∀ va pa node win bs v u, cardRegion j.card 0 = .flat va 16 → cardRegion j.card 1 = .flat pa 8 →
      ∀ ra, cardRegion j.card 3 = .remote ra node win → s.take j 0 0 16 = .ok (bs, v) →
      let size := if bitN (cardOpx j.card) 3 then 8 else 4
      let m : FinzonMsg :=
        { typ := 4
          dst := node
          win := win
          va := ra
          len := size
          tag := j.tag
          stat := cardOpx j.card % 8
          opnd0 := fieldAt bs 0 8 % 2 ^ (8 * size)
          opnd1 := fieldAt bs 8 8 % 2 ^ (8 * size) }
      v.jobSend j.id 0 m (some ra) = .ok u →
      waits .engineRemoteAtomic u) ∧
    (∀ ra node win len va v u data bad gran, ckptRegs j.card = some (va, len, ra, node, win) → 0 < len → len ≤ 2 ^ 21 →
      tracked.ckptRead j va len = .ok (data, bad, gran, v) → (∀ x ∈ s.fz.collectives, x.job ≠ j.id) →
      let bs := chunkBytes va gran 0 data bad
      msgCuts ra bs.length = [(ra, 0, bs.length)] →
      v.jobSend j.id 0 { typ := 1, dst := node, win := win, va := ra, len := bs.length, tag := j.tag, data := bs } none = .ok u →
      ∃ t k, exec .engineCheckpoint s = .next t ∧ t.fz.sent = u.fz.sent ∧ t.fz.kept = u.fz.kept ∧ t.jobOf j.id = some k ∧
        k.state = .running ∧ k.bytes = j.bytes + bs.length ∧ t.mem.bytes = s.mem.bytes) ∧
    (∀ ra node win len va, ckptRegs j.card = some (va, len, ra, node, win) → j.awaiting = [] →
      (∀ u, 0 < len → (∀ x ∈ s.fz.collectives, x.job ≠ j.id) → ra % 65536 + 64 ≤ 65536 →
        tracked.jobSend j.id 0 { typ := 2, dst := node, win := win, va := ra, len := 64, tag := j.tag } (some ra) = .ok u →
        waits .engineRestore u) ∧
      (∀ x bs c u, s.collOf j.id = some x → x.streamBytes 64 = some (bs.take 64) →
        let l := chunkLens (bs.take 64)
        x.streamBytes (64 + l.1 + l.2) = some bs → Chunk.parse bs = some c → va ≤ c.va → c.va + l.1 ≤ va + len → 0 < l.1 →
        l.1 ≤ 2 ^ 21 → l.1 % 32 = 0 → fieldAt (bs.take 64) 0 8 = c.va → (∀ y ∈ c.bad, y = false) →
        s.give j 0 (c.va - va) c.data = .ok u → len ≤ j.bytes + c.data.length →
        ∃ t, exec .engineRestore s = .next t ∧ ended t j 0 ∧ t.mem = u.mem ∧ t.teams = u.teams)) ∧
    (∀ glen l out, s.regionLen j 0 = .ok glen → s.regionLen j 1 = .ok l → s.regionLen j 2 = .ok out →
      (∀ d x m u v, s.collOf j.id = none → s.take j 0 0 glen = .ok d → d.2.take j 1 0 l = .ok x → x.2.fz.early = [] →
        memberOf? j.card s.fz.nid.toNat l out d.1 x.1 = some m →
        (x.2.modFz fun z => { z with collectives := z.collectives ++
          [⟨j.id, m.hash, [(ownKey, d.1), (ownKey + 1, x.1)], 0, 0⟩] }).collSend j m = .ok u →
        u.collFinish j m = .await v → waits .engineCollective v) ∧
      (∀ x m ins bs u own0 own1, s.collOf j.id = some x →
        x.arrived.find? (fun p => p.1 == ownKey) = some (ownKey, own0) →
        x.arrived.find? (fun p => p.1 == ownKey + 1) = some (ownKey + 1, own1) →
        memberOf? j.card s.fz.nid.toNat l out own0 own1 = some m →
        collInputs (collOp j.card) m.nodes.length m.len m.me m.input x = some ins → j.awaiting = [] →
        collOutput j.card m.me ins = some bs → s.give j 2 0 bs = .ok u →
        ∃ t, exec .engineCollective s = .next t ∧ ended t j 0 ∧ t.mem = u.mem ∧ t.teams = u.teams ∧
          ∀ y ∈ t.fz.collectives, y.job ≠ j.id))

/-! ## Plans (07, 17) -/

/-- 17 R415 to R417, 07 R182, R183, R185, R188: pinning, starting a run, and the plan record and statistics entries that a thread
reads and writes through its team's scratchpad. The statistics entry lies in coherent memory without poison. -/
def Sys2Proof.Claims.PlanPinsRunsStatistics : Prop :=
  ∀ (s : State) (whole : Bool) (a b : Opnd) (node : BitVec 5) (p : Plan) (r : Rec) (tm : Team) (o : Nat),
    let x := (s.ctx.sGet a).toNat
    let y := (s.ctx.sGet b).toNat
    let six := statVa s.curWho.tsrt x
    let stores (i : Instr) (bs : List Byte) : Prop := ∃ u t', exec i s = .next u ∧ u.mem = s.mem ∧
      u.teamOf r.grid r.team = some t' ∧ t'.spad = Memory.write tm.spad o bs
    s.curRec = some r → s.teamOf r.grid r.team = some tm →
    (s.planAt s.curWho x = some p → x < 256 → (s.plans.filter fun q => q.id == p.id) = [p] →
      (∃ u q, exec (.yPin a whole node) s = .next u ∧ u.planOf p.id = some q ∧ q.pinned = (whole || p.pinned) ∧ q.st = p.st ∧
        ∀ n, n ∈ q.nodePins ↔ n ∈ p.nodePins ∨ (whole = false ∧ n = node.toNat ∧ n < p.nodes.length)) ∧
      (∃ u q, exec (.yUnpin a whole node) s = .next u ∧ u.planOf p.id = some q ∧ q.pinned = (!whole && p.pinned) ∧ q.st = p.st ∧
        ∀ n, n ∈ q.nodePins ↔ n ∈ p.nodePins ∧ ¬ (whole = false ∧ n = node.toNat ∧ n < p.nodes.length)) ∧
      (Clear (qrunCheck x) s → p.st = .ready ∨ p.st = .done → ∃ u q, exec (.yQrun a) s = .next u ∧ u.planOf p.id = some q ∧
        q.st = .running ∧ q.nextNode = 0 ∧ q.current = p.initial ∧ q.owner = some r.va ∧ q.runs = (p.runs + 1) % 2 ^ 32) ∧
      (Clear (qrunCheck x) s → p.st = .planning → ∃ u q, exec (.yQrun a) s = .next u ∧ u.planOf p.id = some q ∧
        q.st = .planning ∧ q.runPending = true) ∧
      (s.issued = false → p.st = .running → exec (.yQrun a) s = .next (s.takeTrap 23 x)) ∧
      (s.issued = false → p.st = .invalid → exec (.yQrun a) s = .next (s.takeTrap 22 x)) ∧
      (Clear (fun s => (handleCheck s x).both (s.accessCheck needW true false 8 y (p.record p.current).length)) s →
        s.route needW y (p.record p.current).length = .ok (.spad o) → stores (.yPlanrd a b) (p.record p.current))) ∧
    (∀ bs, Clear (fun s => (statCheck x s).both (s.accessCheck needW true false 8 y 32)) s → s.route needW y 32 = .ok (.spad o) →
      s.tableRead s.curWho.dctx six 32 = .ok bs → bs.length = 32 → stores (.yStatrd a b) bs) ∧
    (s.issued = false → 4096 ≤ x → (s.accessCheck needW true false 8 y 32 = .go → exec (.yStatrd a b) s = .next (s.takeTrap 16 x)) ∧
      (s.accessCheck needR false true 1 y 32 = .go → poisonCheck y 32 s = .go → exec (.yStatwr a b) s = .next (s.takeTrap 16 x))) ∧
    (s.route needR y 32 = .ok (.spad o) → spadGood tm o 32 →
      (∀ g old, Clear (fun s => (statwrCheck x y s).both (releaseCheck s)) s → quietRelease s true 3 → Memory.wf s.mem.bytes = true →
        translateRange s ⟨s.curWho.dctx, 0, false⟩ ⟨false, false, false⟩ six 32 = .ok [g] → g.off = 0 → g.len = 32 → g.place.c = true →
        (∀ k < 32, s.mem.poisoned g.place.gran (g.place.dpa + k) = false) → s.tableRead s.curWho.dctx six 32 = .ok old →
        ∃ u, exec (.yStatwr a b) s = .next u ∧ storedAt s.mem.bytes u.mem.bytes g.place.dpa
          (spadBytes tm o 24 ++ bytesOfNat 4 3 ++ bytesOfNat 4 (natOfBytes (old.drop 28) + 1))) ∧
      (Clear (fun s => (statwrCheck x y s).both (releaseCheck s)) s → ∃ u, exec (.yStatwrInv a b) s = .next u ∧ closed s u ∧
        (∀ q, s.ofTable s.curWho q = true → x ∈ q.sixes → (s.plans.filter fun z => z.id == q.id) = [q] →
          ∃ q', u.planOf q.id = some q' ∧
            (q.st = .planning ∨ q.st = .running → q'.st = q.st ∧ q'.invalidated = true) ∧
            (q.st = .ready → q'.st = .invalid ∧ q'.code = 3) ∧ (q.st = .done → q'.st = .invalid ∧ q'.code = 1)) ∧
        (∀ q ∈ s.plans, s.ofTable s.curWho q = false ∨ x ∉ q.sixes → (∀ z ∈ s.plans, z.id = q.id → z = q) →
          u.planOf q.id = some q)))

/-- 07 R181, R184, R189, R190, R192, 11 R279: what the drafting unit, a break, the end of a run, a plan's job and the end of a matrix
command leave behind. -/
def Obligations.PlanAndMatrixEvents : Prop :=
  (∀ (s : State) (id : Nat) (rest : List Nat) (p : Plan), (s.dieAt s.arg.die).drafting = id :: rest → s.planOf id = some p →
    p.pkt = none →
    ∃ t q, exec .planningEnd s = .next t ∧ (t.dieAt s.arg.die).drafting = rest ∧ t.planOf id = some q ∧ q.result = none ∧
      (p.invalidated = true → q.st = .invalid ∧ q.code = (if p.resume.isSome then 2 else 3)) ∧
      (p.invalidated = false → p.resume = none → p.runPending = false → q.st = .ready ∧ q.initial = p.initial) ∧
      (p.invalidated = false → p.resume = none → p.runPending = true → q.st = .running ∧ q.current = p.initial ∧ q.nextNode = 0) ∧
      (∀ n, p.invalidated = false → p.resume = some n → q.st = .running ∧ q.nextNode = n ∧ q.current = p.current) ∧
      (∀ core x long l, p.result = some (core, x, long) →
        (s.ctxAt (splitAgent (4 * core + x)).1 (splitAgent (4 * core + x)).2).long.find? (fun l => l.id == long) = some l →
        (t.ctxAt (splitAgent (4 * core + x)).1 (splitAgent (4 * core + x)).2).long.find? (fun l => l.id == long) =
          some { l with data := some (BitVec.ofNat 2048 (p.handle * 256)) })) ∧
  (∀ (s : State) (p : Plan), s.planOf s.arg.id = some p → p.st = .running → p.pkt = none →
    (p.nextNode ≠ 0 → s.arg.flag = false → s.power.d3hot = false →
      (p.invalidated = true → ∃ t q, exec .planBreak s = .next t ∧ t.planOf p.id = some q ∧ q.st = .invalid ∧ q.code = 2 ∧
        q.resume = some p.nextNode) ∧
      (p.invalidated = false → p.replanNext = false → p.e = 0 → ∀ d ∈ p.done, p.done.find? (fun d => d.1 == p.nextNode - 1) = some d →
        ∃ t q, exec .planBreak s = .next t ∧ t.planOf p.id = some q ∧ q.st = .running ∧ q.nextNode = p.nextNode ∧
          ∀ (i : Nat) (c : Choice), p.current[i]? = some c →
            q.current[i]? = some (if i = p.nextNode - 1 then { c with nobs := rowsOf d.2.dims } else c))) ∧
    (∃ t q, exec .planComplete s = .next t ∧ t.planOf p.id = some q ∧
      q.st = (if p.invalidated then .invalid else .done) ∧ q.code = (if p.invalidated then 1 else 0))) ∧
  (∀ (s : State) (j : Job) (id : Nat), s.jobOf s.arg.id = some j → j.owner = .plan id → j.state = .running →
    (s.planOf id = none → ∃ t, exec .plannedMatrixWork s = .next t ∧ ended t j 10) ∧
    (∀ p, s.planOf id = some p → s.power.d3hot = true → exec .plannedMatrixWork s = .next s) ∧
    (∀ p, s.planOf id = some p → s.power.d3hot = false → (s.teams.any fun t => t.grid == p.grid.getD 0 && t.core.isSome) = true →
      ((p.nodes[p.nextNode]?).any fun x => nOp x == 1) = false →
      (∀ n u, s.planNode p p.nextNode = .ok (n, u) → ∃ t, exec .plannedMatrixWork s = .next t ∧ ended t j 0 ∧ t.plans = u.plans ∧
        t.mem.bytes = u.mem.bytes) ∧
      (∀ x, s.planNode p p.nextNode = .error x → ∃ t, exec .plannedMatrixWork s = .next t ∧ ended t j (troubleStatus x)))) ∧
  (∀ (s : State) (q : MatCmd) (rest : List MatCmd) (ws : Bool) (d : Opnd) (id : Nat) (l : LongResult),
    let c := s.arg.core
    (s.coreAt c).engine.queue = q :: rest →
    (s.frozen c = true → exec .matrixCommandComplete s = .next s) ∧
    (∀ at_, s.frozen c = false → s.cmdHeld c q = some at_ → ∃ t, exec .matrixCommandComplete s = .next t ∧
      (t.coreAt c).engine = (s.coreAt c).engine ∧ t.mem.bytes = s.mem.bytes ∧
      (s.now + (at_ - s.now), Instr.matrixCommandComplete, s.arg) ∈ t.timers) ∧
    (s.frozen c = false → s.cmdHeld c q = none → (s.ctxAt c q.ctx).leaving = none → s.ctxKilled c q.ctx = false → q.grant = none → q.op = .mWait ws d →
    q.result = some id → (s.ctxAt c q.ctx).long.find? (fun l => l.id == id) = some l →
    ∃ t v, exec .matrixCommandComplete s = .next t ∧ (t.coreAt c).engine.queue = rest ∧ (t.ctxAt c q.ctx).mstat = 0 ∧
      t.mem = s.mem ∧ (t.coreAt c).tiles = (s.coreAt c).tiles ∧
      (t.ctxAt c q.ctx).long.find? (fun l => l.id == id) = some { l with data := some v } ∧
      (Instr.interlockArrival, ({ core := c, ctx := q.ctx, id := id } : EvArgs)) ∈ t.agenda))

/-! ## Scheduling (06) and issue (08) -/

/-- 06 R145, R146, R148 to R150, R159, R161: placing teams, choosing contexts and records, eviction, balancing and the quantum. -/
def Sys2Proof.Claims.SchedulingEvents : Prop :=
  ∀ (s : State),
    let c := s.arg.core
    let x := s.arg.ctx
    let grid := s.arg.grid.val
    (∀ g, s.arg.flag = true → s.gridOf grid = some g → g.killed = none → s.arg.id < g.teams →
      (s.coreFor g s.arg.id = none →
        exec .teamPlacement s = .next { s with fifo := s.fifo ++ [⟨grid, s.arg.id, g.teams - s.arg.id⟩] }) ∧
      (∀ k, s.coreFor g s.arg.id = some k → s.arg.id + 1 = g.teams → s.teamOf grid s.arg.id = none →
        ∃ t tm, exec .teamPlacement s = .next t ∧ t.fifo = s.fifo ∧ t.teamOf grid s.arg.id = some tm ∧ tm.core = some k.val ∧
          tm.stopping = false ∧ t.recs = s.recs ++ s.newRecords g grid s.arg.id k.val 0)) ∧
    ((s.coreAt c).running = none →
      (∀ k, s.nextCtx c = some k → ∃ t, exec .contextSwitch s = .next t ∧ (t.coreAt c).running = some k ∧
        t.ctxAt c k = { s.ctxAt c k with
          phase := .running
          issuedSince := 0
          stall := none } ∧ ∀ y, y ≠ k → t.ctxAt c y = s.ctxAt c y) ∧
      (s.nextCtx c = none → exec .contextSwitch s = .next s)) ∧
    (∀ r, (s.ctxAt c x).phase = .free → (if s.arg.flag then s.nextBound c else s.nextRec c) = some r → s.recTaken r = some r →
      (s.recs.filter fun q => q.va == r.va && q.grid == r.grid) = [r] →
      (r.saved = false → r.handler = none → ∃ t q, exec .contextTakeRecord s = .next t ∧ t.recOf r.va r.grid = some q ∧
        q.onCtx = some (agentOf c x) ∧ q.started = true ∧
        (let k := t.ctxAt c x
         k.phase = .ready ∧ k.sGet (.main 1) = BitVec.ofNat 64 r.arg ∧ k.sGet (.main 2) = BitVec.ofNat 64 r.team ∧
         k.sGet (.main 3) = BitVec.ofNat 64 r.thread ∧ k.sGet (.main 4) = 0 ∧ k.bix = r.bix ∧ k.seg = r.seg ∧
         k.hm = (r.thread == 8191))) ∧
      (∀ bs, r.saved = true → s.savedBlock (dieOf c).val r = .ok bs →
        (r.fsp = true → r.imgBlock = none → ∀ tm, s.teamOf r.grid r.team = some tm → spadGood tm r.frame 0x8000) → ∃ t q, exec .contextTakeRecord s = .next t ∧
        t.ctxAt c x = { Ctx.resume bs r s.now with readySince := s.now } ∧ t.mem = (s.rejoin (dieOf c).val).mem ∧ t.recOf r.va r.grid = some q ∧ q.onCtx = some (agentOf c x) ∧ q.saved = false)) ∧
    (s.victim c = none → exec .eviction s = .next s) ∧
    (∀ k r u, s.victim c = some k → s.canPark c k = true → s.recAt c k = some r → s.saveContext c k r.fsp r.frame (s.ctxAt c k).idleInfo = .ok u →
      ∃ t, exec .eviction s = .next t ∧ t.ctxAt c k = Ctx.reset ∧ t.mem.bytes = u.mem.bytes ∧
        (Instr.contextTakeRecord, ({ core := c, ctx := k, flag := true } : EvArgs)) ∈ t.agenda ∧
        ∀ q ∈ t.recs, q.onCtx ≠ some (agentOf c k)) ∧
    (s.regs.balEn = false → exec .balanceExchange s = .next (s.timer 8192 .balanceExchange { die := s.arg.die })) ∧
    (s.regs.balEn = true → ∃ t, exec .balanceExchange s = .next t ∧ t.recs.length = s.recs.length ∧ t.teams = s.teams ∧
      ((∀ h < 12, pushFrom (fun n => (s.hallQueue n).length) s.regs.balTh.toNat (12 * s.arg.die.val) h = none) → t.recs = s.recs)) ∧
    (∀ g, s.arg.flag = false → s.gridOf grid = some g → g.boundary ≤ s.now → s.fifo = [] → ∃ t g', exec .quantumBoundary s = .next t ∧
      t.gridOf grid = some g' ∧ g'.boundary = s.now + g.qnt * 120000 ∧ t.teams = s.teams ∧ t.cores = s.cores) ∧
    (∀ g tm, s.arg.flag = true → s.gridOf grid = some g → g.killed = none → s.teamOf grid s.arg.id = some tm → tm.stopping = true →
      tm.spadBad = [] → s.teamAgents grid s.arg.id = [] → s.teamQuiet grid s.arg.id = true → ∃ t tm', exec .quantumBoundary s = .next t ∧
        t.teamOf grid s.arg.id = some tm' ∧ tm'.core = none ∧ tm'.stopping = false ∧ t.fifo = s.fifo ++ [⟨grid, s.arg.id, 1⟩])

/-- 06 R159: a hall pushes to the neighbour of its ring whose queue is shorter by more than BALTH, to the shorter of two, and half
the difference but at most sixteen records. -/
def Sys2Proof.Claims.BalancePush : Prop :=
  ∀ (depth : Nat → Nat) (th base h : Nat), h < 12 →
    let lo := base + min ((h + 1) % 12) ((h + 11) % 12)
    let hi := base + max ((h + 1) % 12) ((h + 11) % 12)
    let me := depth (base + h)
    (depth lo + th < me → depth lo ≤ depth hi → pushFrom depth th base h = some (lo, min 16 ((me - depth lo) / 2))) ∧
    (depth hi + th < me → depth hi < depth lo → pushFrom depth th base h = some (hi, min 16 ((me - depth hi) / 2))) ∧
    (me ≤ depth lo + th → me ≤ depth hi + th → pushFrom depth th base h = none)

/-- 08 R214, 06 R142, 17 R404, R411: the ends of waits: a replay is over after 1,024 cycles; a wait whose condition holds completes
when its object changes, and a hall re-reads its signals, and goes on to do so while a thread waits for one: a thread whose signal has come
down to 0 goes on. -/
def Sys2Proof.Claims.WaitEvents : Prop :=
  ∀ (s : State) (r : Rec) (n : Nat),
    (s.recOf s.arg.id s.arg.num = some r → r.onCtx = some n →
      let c := (splitAgent n).1
      let x := (splitAgent n).2
      (∀ t, (s.ctxAt c x).replayAt = some t → s.now < t → exec .replayReady s = .next s) ∧
      (∀ t, (s.ctxAt c x).replayAt = some t → t ≤ s.now → (s.ctxAt c x).wait = none → ∃ u, exec .replayReady s = .next u ∧
        u.ctxAt c x = { s.ctxAt c x with
          phase := .ready
          replayAt := none
          readySince := s.now } ∧ u.mem = s.mem ∧ u.recs = (s.recSt c x .ready).recs)) ∧
    (s.arg.id ≠ 0 → (s.recs.filter fun q => q.va == s.arg.id && q.grid == s.arg.num) = [] →
      ∃ u, exec .waitSatisfied s = .next u ∧ u.cores = s.cores ∧ u.recs = s.recs) ∧
    (s.arg.id ≠ 0 → (s.recs.filter fun q => q.va == s.arg.id && q.grid == s.arg.num) = [r] → r.onCtx = some n →
      let c := (splitAgent n).1
      let x := (splitAgent n).2
      ∀ f k scope word stops tm, (s.ctxAt c x).wait = some ⟨.flag f k scope, .nowhere, false, word, stops⟩ → f < 32 →
        s.mem.epochBlocked (agentOf c x) = none →
        s.recAt c x = some r → s.teamOf r.grid r.team = some tm → (s.ctxAt c x).replayAt = none → (s.ctxAt c x).leaving = none →
        (s.ctxAt c x).async = [] → (s.ctxAt c x).phase = .waiting →
        ∃ u, exec .waitSatisfied s = .next u ∧
          (k ≤ (getIdx tm.flags f 0).toNat → (u.ctxAt c x).wait = none ∧ (u.ctxAt c x).phase = .ready) ∧
          ((getIdx tm.flags f 0).toNat < k → u.ctxAt c x = s.ctxAt c x)) ∧
    (∃ u, exec .signalWaitRepoll s = .next u ∧ u.mem.bytes = s.mem.bytes ∧ u.recs.length = s.recs.length ∧ u.teams = s.teams ∧
      ((∃ q ∈ u.recs, q.hall = s.arg.hall.val ∧ u.onSignal q = true) →
        ∃ e ∈ u.timers, e.2.1 = .signalWaitRepoll ∧ e.2.2.hall = s.arg.hall) ∧
      ((∀ q ∈ s.recs, q.hall = s.arg.hall.val → s.onSignal q = false) → u.cores = s.cores ∧ u.recs = s.recs ∧ u.timers = s.timers)) ∧
    ((s.recs.filter fun q => q.hall == s.arg.hall.val && s.onSignal q) = [r] → (s.recs.filter fun q => q.va == r.va && q.grid == r.grid) = [r] →
      (r.onCtx = none → (r.side.bind (·.replayAt)) = none → ∃ u q, exec .signalWaitRepoll s = .next u ∧ u.recOf r.va r.grid = some q ∧
        q.st = (if s.recHolds r then .ready else .waiting)) ∧
      (r.onCtx = some n →
        let c := (splitAgent n).1
        let x := (splitAgent n).2
        ∀ i scope dst ws word stops, (s.ctxAt c x).wait = some ⟨.signal i scope, dst, ws, word, stops⟩ →
          s.mem.epochBlocked (agentOf c x) = none → s.recAt c x = some r → (s.ctxAt c x).replayAt = none →
          (s.ctxAt c x).leaving = none → (s.ctxAt c x).async = [] → ∃ u, exec .signalWaitRepoll s = .next u ∧
          (let holds : Bool := s.condHolds (dieOf c).val r.grid r.team (s.ctxAt c x).evl (.signal i scope)
           (holds = true → (u.ctxAt c x).wait = none ∧ (u.ctxAt c x).phase = .ready) ∧
           (holds = false → u.ctxAt c x = s.ctxAt c x ∧ ∃ e ∈ u.timers, e.2.1 = .signalWaitRepoll ∧ e.2.2.hall = s.arg.hall))))

/-- 06 R165 to R169: a save stops its device context and ends with status 3, 4 or 5; a resume undoes the stop; a restore of a valid
area ends with status 3, and of a bad one with 6. -/
def Obligations.SaveRestoreResume : Prop :=
  ∀ (s : State),
    let d := s.save.dctx.toNat
    let adc := s.save.adc.toNat
    let busy := s.save.st = 1 ∨ s.save.st = 2
    (busy → s.arg.flag = false → exec .save s = .next s) ∧ (busy → exec .restore s = .next s ∧ exec .resume s = .next s) ∧
    (¬ busy → s.arg.flag = false → ∃ t, exec .save s = .next t ∧ t.save.st = 1 ∧ (t.dctxOf d).stopped = true ∧
      (∀ tm ∈ s.residentTeams d, ∀ q, t.teamOf tm.grid tm.num = some q → q.stopping = true) ∧
      (Instr.save, ({ flag := true } : EvArgs)) ∈ t.agenda) ∧
    (s.save.st = 1 → s.arg.flag = true → ((s.residentTeams d).all fun t => s.teamQuiet t.grid t.num) = true →
      let q := s.quiesce d
      let need := ceilDiv (q.areaOf d).total 65536
      let pages := translateRange { q with save := { q.save with need := BitVec.ofNat 24 need } } (q.fwWho adc) needW q.areaVa
        (q.save.areaLen.toNat * 65536)
      ∃ t, exec .save s = .next t ∧
        (∀ x, pages = .error x → t.save.st = 4 ∧ t.grids = q.grids ∧ t.teams = q.teams) ∧
        (∀ l, pages = .ok l → q.save.areaLen.toNat < need → t.save.st = 5 ∧ t.grids = q.grids ∧ t.teams = q.teams) ∧
        (∀ l, pages = .ok l → need ≤ q.save.areaLen.toNat → t.save.st = 3 ∧ (t.dctxOf d).saved = true ∧
          ∀ p ∈ t.grids, p.2.dctx = d → p.2.killed ≠ none)) ∧
    (¬ busy → (s.dctxOf d).stopped = false ∨ (s.dctxOf d).saved = true → exec .resume s = .next s) ∧
    (¬ busy → (s.dctxOf d).stopped = true → (s.dctxOf d).saved = false → ∃ t, exec .resume s = .next t ∧ (t.dctxOf d).stopped = false ∧ t.mem = s.mem ∧
      t.recs = s.recs ∧ ∀ tm ∈ s.residentTeams d, ∀ q, t.teamOf tm.grid tm.num = some q → q.stopping = false) ∧
    (¬ busy → (s.dctxOf d).valid = true → (∀ p ∈ s.grids, p.2.dctx ≠ d) →
      (s.fwGet adc s.areaVa 64 = none → ∃ t, exec .restore s = .next t ∧ t.save.st = 4 ∧ t.grids = s.grids) ∧
      (∀ hd, s.fwGet adc s.areaVa 64 = some hd →
        let good := fieldAt hd 0 4 = 0x48585341 ∧ fieldAt hd 4 4 = 1 ∧ fieldAt hd 9 1 = 4
        (¬ good → ∃ t, exec .restore s = .next t ∧ t.save.st = 6 ∧ t.grids = s.grids ∧ t.recs = s.recs) ∧
        (good → ∃ t, exec .restore s = .next t ∧ t.save.st = 3 ∧ (t.dctxOf d).stopped = false ∧
          (t.dctxOf d).saved = false)))

/-- 08 R194, R195, R197, R202 to R205, 12 R288, R305: a bundle whose interlocks and checks are clear issues: its enabled operations are
the ones its tags name for the leaf, pops are made, and issue goes on as the leaf or the loops say; what stands in the way keeps
the context as it is. An OB bundle queues its segment NEXT for the other bank, an HW bundle waits for the thread's earlier accesses and
applies the Landing first. The end of the cycle advances every result; an interlocked result is written when its data arrives. The model's
choices, which no rule of the spec states: what `State.flushes` adds to a bundle (log entry 83), and the order of `performKey` (log entries 28
and 38). -/
def Obligations.IssueEvents : Prop :=
  ∀ (s : State),
    let c := s.arg.core
    let x := s.arg.ctx
    ((s.coreAt c).running = none → exec .bundleIssue s = .next s) ∧
    (∀ k, (s.coreAt c).running = some k →
      let u := s.at_ c k
      let q := s.ctxAt c k
      q.halting = false → q.async = [] → q.deferred = none → q.wait = none → q.rereserve = none → q.reacquire = none → q.copyWait = none →
      s.bankNamed c k = true → ((s.coreAt c).banks.get q.bank).isSealed = true → q.bix < 4096 →
      (((s.coreAt c).banks.get q.bank).nb ≤ q.bix % 2048 → u.fetchLoads = false →
        ∃ (v : State) (i : Nat), exec .bundleIssue s = .next (v.takeTrap 1 i) ∧ v.cores = s.cores ∧ v.curCore = c ∧ v.curCtx = k) ∧
      (q.bix % 2048 < ((s.coreAt c).banks.get q.bank).nb →
        let b := tget (s.coreAt c).bundles q.bix 0
        let h := Header.of b
        let z := if h.hw then u.hostWindowPoint c else u
        let early : Bool := h.hw && (u.matPending || q.long.any fun r => r.load || r.slot == 5)
        ∀ all, bundleOps b = some all →
          (q.chain h = .empty → exec .bundleIssue s = .next (u.takeTrap 2 0)) ∧
          (q.chain h = .bubble → ∃ t, exec .bundleIssue s = .next t ∧
            t.ctxAt c k = { q.advance with stall := some .bubble } ∧ t.issued = s.issued) ∧
          (∀ leaf drop, q.chain h = .leaf leaf drop →
            let ops := (all.filter fun p => tagEnables p.1 leaf).map Prod.snd
            let v := { z with
              curBix := q.bix % 2048
              curLeaf := leaf
              curHeader := b.extractLsb' 448 64 }
            ((ops.any fun o => q.interlocked o.op) = true ∨ early = true → exec .bundleIssue s =
              .next (u.modCtx fun c => { c with stall := some .interlock })) ∧
            ((ops.any fun o => q.interlocked o.op) = false → early = false → overflowCheck v.ctx drop ops = .go →
              (∀ o ∈ ops, leaveInTurn ops o (issueCheck o.op { v with curWord := o.word }) = .go) →
              v.roomCheck (ops.flatMap fun o => v.reach o.op) = .go → v.flushCheck ops = .go → v.refetches ops = none →
              ∃ t, exec .bundleIssue s = .next t ∧ t.issued = true ∧ t.latched.Perm (ops ++ v.flushes ops) ∧
                t.latched.Pairwise (fun a b => performKey a ≤ performKey b) ∧ t.mem.bytes = z.mem.bytes ∧ t.recs = z.recs ∧
                (h.ob = false → t.mem = z.mem ∧ t.core.banks = z.core.banks) ∧
                (∀ g, h.ob = true → v.overlayFound = false → v.overlayHeld = false → z.gridOf v.curGrid = some g →
                  (((z.coreAt c).banks.get v.otherBank).loading = none →
                    ((t.coreAt c).banks.get v.otherBank).loading = some (.overlay v.curGrid ((v.curRec.map (·.va)).getD 0))) ∧
                  (((z.coreAt c).banks.get v.otherBank).loading ≠ none →
                    ((t.coreAt c).banks.get v.otherBank).queue = ((z.coreAt c).banks.get v.otherBank).queue ++
                      [(v.curGrid, v.curBank.next, .overlay v.curGrid ((v.curRec.map (·.va)).getD 0))])) ∧
                (let p := z.ctxAt c k
                 let w := t.ctxAt c k
                 w.cq = p.cq.drop drop ∧ w.s = p.s ∧ w.v = p.v ∧ w.k = p.k ∧ w.pipe = p.pipe ∧ w.replays = 0 ∧ w.copyWait = none ∧
                 (leaf ≠ 0 → w.bix = bixOf (bankOf p.bix) (h.target leaf (p.bix % 2048)).toNat ∧ w.loops = p.loops) ∧
                 (leaf = 0 → (ops.any fun o => steers o.op) = true → w.bix = p.bix ∧ w.loops = p.loops) ∧
                 (leaf = 0 → (ops.any fun o => steers o.op) = false →
                   w.bix = bixOf (bankOf p.bix) (loopEnd (p.bix % 2048) p.loops).1 ∧
                   w.loops = (loopEnd (p.bix % 2048) p.loops).2)))))) ∧
    (s.ctx.phase = .running → s.ctx.wait = none → s.ctx.issuedSince < 4096 → ∃ t, exec .resultWriteback s = .next t ∧
      t.ctx = s.ctx.advance ∧ t.issued = false ∧ t.latched = [] ∧ t.mem = s.mem ∧ t.recs = s.recs) ∧
    (∀ r, (s.ctxAt c x).long.find? (fun r => r.id == s.arg.id) = some r → (s.ctxAt c x).leaving = none →
      (r.data = none ∨ s.frozen c = true → exec .interlockArrival s = .next s) ∧
      (∀ d, s.frozen c = false → r.data = some d → r.poison = false → ∃ t, exec .interlockArrival s = .next t ∧ t.mem = s.mem ∧
        t.ctxAt c x = Ctx.writeResult { s.ctxAt c x with long := (s.ctxAt c x).long.filter fun q => q.id != s.arg.id }
          r.slot r.dest r.ws d (BitVec.allOnes 2048)))

/-- 08 R207: a context whose bank holds its segment, unsealed and with no load, expansion or seal of it under way, takes the issue trap
UNSEALED_FETCH, cause 1, at the bundle that it would have fetched: its BIX and everything else of it stands. -/
def Obligations.UnsealedFetch : Prop :=
  ∀ (s : State) (k : Fin 4),
    let c := s.arg.core
    let q := s.ctxAt c k
    let bank := (s.coreAt c).banks.get q.bank
    (s.coreAt c).running = some k → q.halting = false → q.async = [] → q.deferred = none → q.wait = none → q.rereserve = none →
    q.reacquire = none → q.copyWait = none → s.bankNamed c k = true → bank.isSealed = false → (s.at_ c k).fetchLoads = false →
    ∃ (v : State) (info : Nat), exec .bundleIssue s = .next (v.takeTrap 1 info) ∧ v.cores = s.cores ∧ v.recs = s.recs ∧
      v.mem = s.mem ∧ v.curCore = c ∧ v.curCtx = k

/-! ## Encoding, reset, the step and the invariant -/

/-- 12 R283, 00 R11: every word that the encoder builds for a well-formed operation decodes to it in its slot, with its path tag. -/
def Sys2Proof.Claims.DecodeAfterEncode : Prop :=
  ∀ (i : Instr) (n : Fin 8) (tag : BitVec 3), i.wf = true → i.slot = some n.val →
    decodeSlot n (encode tag i) = .ok (some i) ∧ (encode tag i).extractLsb' 53 3 = tag

/-- 12 R283: a word has one meaning: the encoder gives back every word that decodes to an operation. -/
def Sys2Proof.Claims.EncodeAfterDecode : Prop :=
  ∀ (n : Fin 8) (w : SlotWord) (i : Instr), decodeSlot n w = .ok (some i) →
    i.wf = true ∧ i.slot = some n.val ∧ encode (w.extractLsb' 53 3) i = w

namespace Sys2Proof.Claims

/-- Memory, and the host memory behind the link, stand in their canonical form: addresses rise and no byte listed is the one that
an unlisted address reads as. -/
def MemoryCanonical (s : State) : Prop := Memory.wf s.mem.bytes = true ∧ Memory.wf s.hostMem = true

end Sys2Proof.Claims

/-- What a step keeps, over every event and instruction: memory stays in its canonical form. -/
def Obligations.StepKeepsMemoryCanonical : Prop :=
  ∀ s t : State, MemoryCanonical s → step s = .next t → MemoryCanonical t

/-- Memory is canonical at reset, it reads as zero, and the registers whose reset value a rule states hold it: CAP and LIMIT (R27), NODE
(R96), LOGN (R109), BALEN and BALTH (R160), SWAPTH (R386), the split (R217), THRESH (R84) and RPLN (R184). Bring-up stands at its first
step and no thread is there (R22, R23). -/
def Obligations.ResetState : Prop :=
  let z := State.reset
  MemoryCanonical z ∧ (∀ a, Memory.byte z.mem.bytes a = 0) ∧
  (∀ d, (z.dieAt d).cap = 550 ∧ (z.dieAt d).limit = 384) ∧ z.fz.nid = 0x1FFFFF ∧
  (∀ (d : Nat) (q : Fin 16), ((z.dctxOf d).queues.get q).logn = 6) ∧ z.regs.balEn = true ∧ z.regs.balTh = 8 ∧ z.regs.swapth = 64 ∧
  (∀ c, (z.coreAt c).cacheUnits = 8 ∧ (z.coreAt c).running = none ∧ ∀ x, (z.ctxAt c x).rpln = 1 ∧ (z.ctxAt c x).phase = .free) ∧
  (∀ h, (z.mem.homes.get h).thresh = 0x400) ∧ z.power.bringup = 1 ∧ z.recs = [] ∧ z.grids = []

/-- An operation that carries an encoding is performed by `exec` on the state that the bundle before it left, with its own word at
hand, and after the last one the cycle ends; a step performs its event and then these, puts the records that were written into memory,
and an instruction placed where the step fetches is decoded from its bundle. That the records written in a step stand in memory at its end
is the model's choice (log entry 21). -/
def Obligations.StepRunsDecodedInstruction : Prop :=
  (∀ (s t : State), (exec s.nextEvent.1 { s.nextEvent.2.2 with arg := s.nextEvent.2.1 }) = .next t →
    step s = (match if t.issued then runLatched t.latched t else .next t with
      | .next u => .next u.recordsOut
      | o => o)) ∧
  (∀ s : State, s.touched = [] → s.recordsOut = s) ∧
  (∀ (s t : State) (l : Latched) (rest : List Latched), exec l.op { s with curWord := l.word } = .next t →
    runLatched (l :: rest) s = runLatched rest t) ∧
  (∀ s : State, runLatched [] s = exec .resultWriteback s) ∧
  (∀ (b : Block) (all : List (Nat × Latched)), bundleOps b = some all → ∀ p ∈ all, ∃ n : Fin 8,
    p.2.slot = n.val ∧ p.2.word = slotOf b n.val ∧ p.1 = ((slotOf b n.val).extractLsb' 53 3).toNat ∧
    decodeSlot n (slotOf b n.val) = .ok (some p.2.op)) ∧
  (∀ (b : Block) (all : List (Nat × Latched)) (n : Fin 8) (i : Instr), bundleOps b = some all →
    decodeSlot n (slotOf b n.val) = .ok (some i) → ∃ p ∈ all, p.2.op = i ∧ p.2.slot = n.val)

/-- Words that the manual writes out, bit for bit, decode to the instructions that it gives them to: 12 to 15, 17 to 22. -/
def Obligations.DecodeWords : Prop :=
  let gives (n : Fin 8) (w : SlotWord) (i : Instr) : Prop := decodeSlot n w = .ok (some i)
  gives 0 0x04001C00000000 (.sLi false (.main 7) 0) ∧ gives 0 0x08400007000063 (.sCmpLtImm (.main 7) 99) ∧
  gives 0 0x02201C07000001 (.sAddImm false (.main 7) (.main 7) 1) ∧ gives 0 0x0D400000000000 .sHalt ∧
  gives 0 0x0C800004000006 (.sLoopReg (.main 4) 6) ∧ gives 0 0x2C00000000000B (.sJmp 11) ∧
  gives 1 0x0C001804014002 (.vThrcnt .va false (.main 6) (.main 4) (.main 5) 0 2) ∧
  gives 2 0x0C402004014012 (.vGnorm .vb false (.main 8) (.main 4) (.main 5) 0 1) ∧
  gives 1 0x04002809000089 (.vCvt .va false (.main 10) (.main 9) 0 0 9 8) ∧
  gives 3 0x00C00014058003 (.mMma 0 false false 3 (.main 20) (.main 22)) ∧
  gives 3 0x01407421088407 (.mDrainRq false (.main 29) (.main 33) (.main 34) false false 7) ∧
  gives 4 0x0020100100C000 (.ldS false (.main 4) (.main 1) 3 false 0) ∧
  gives 4 0x00C01401010002 (.ldG false (.main 5) (.main 1) (.main 4) 2) ∧
  gives 5 0x00201C0100C000 (.stS (.main 7) (.main 1) 3 false 0 0) ∧
  gives 5 0x020028061BC009 (.amoAdd false (.main 10) (.main 6) true 3 3 (.main 9)) ∧
  gives 6 0x00206016000000 (.cpCopy false (.main 24) (.main 22)) ∧ gives 7 0x0040001B000001 (.yWait (.main 27) 0 1) ∧
  gives 7 0x01000005000003 (.ySig (.main 5) 3) ∧ gives 7 0x02001400000100 (.yQsubRe false (.main 5) 0) ∧
  gives 7 0x0300000D038001 (.yStatwrInv (.main 13) (.main 14))

/-- Over every event and instruction: `exec` answers a next state in every state, but for the events of the memory controllers at an
address in no stack, whose only stop is the fault of that address; it refuses nothing. -/
def Obligations.OnlyControllersStop : Prop :=
  ∀ (i : Instr) (s : State), (∀ r, exec i s ≠ .refused r) ∧
    (i ≠ .granuleRead → i ≠ .granuleWrite → i ≠ .granulePartialWrite → i ≠ .patrolScrub → ∃ t, exec i s = .next t) ∧
    (dpaExists s.arg.addr = true → ∃ t, exec i s = .next t) ∧
    (∀ f, exec i s = .fault f → f = .noSuchAddress s.arg.addr ∧ dpaExists s.arg.addr = false ∧
      (i = .granuleRead ∨ i = .granuleWrite ∨ i = .granulePartialWrite ∨ i = .patrolScrub))

/-! ## Statements of several clauses -/

/-- Scalar arithmetic, logic, shifts, minimum and maximum, select and constants: each clause is stated above. -/
def Obligations.ScalarOperations : Prop :=
  Sys2Proof.Claims.ScalarArithmetic ∧ Sys2Proof.Claims.ScalarLogicShiftsMinMax ∧ Sys2Proof.Claims.ScalarSelectConstants

/-- What s.setc stores and s.getc reads: each clause is stated above. -/
def Obligations.ControlRegisters : Prop :=
  Sys2Proof.Claims.ControlRegisterWrite ∧ Sys2Proof.Claims.ControlRegisterRead

/-- Vector logic, shifts and compares: each clause is stated above. -/
def Obligations.VectorBitsShiftsCompares : Prop :=
  Sys2Proof.Claims.VectorBitwise ∧ Sys2Proof.Claims.VectorShifts ∧ Sys2Proof.Claims.VectorCompares

/-- When a result lands, what reads zero, what a latch names: each clause is stated above. -/
def Obligations.ResultsAndOperands : Prop :=
  Sys2Proof.Claims.ResultTiming ∧ Sys2Proof.Claims.HardwiredRegisters ∧ Sys2Proof.Claims.LatchReads

/-- One test of a decision chain, and the pushes of the mask votes: each clause is stated above. -/
def Obligations.ConditionQueue : Prop :=
  Sys2Proof.Claims.DecisionChainTest ∧ Sys2Proof.Claims.MaskVotesPush

/-- Jumps, links and bank jumps: each clause is stated above. -/
def Obligations.JumpsAndLinks : Prop :=
  Sys2Proof.Claims.JumpAndLink ∧ Sys2Proof.Claims.JumpRegister ∧ Sys2Proof.Claims.BankJump

/-- Loops: opening, skipping, depth and the END rule: each clause is stated above. -/
def Obligations.Loops : Prop :=
  Sys2Proof.Claims.LoopOpens ∧ Sys2Proof.Claims.LoopEndRule

/-- Mark, software trap, yield and halt, and that every transfer completes: each clause is stated above. -/
def Obligations.MarkTrapYieldHalt : Prop :=
  Sys2Proof.Claims.MarkTrapYield ∧ Sys2Proof.Claims.HaltEndsThread ∧ Sys2Proof.Claims.TransfersComplete

/-- The default actions: replay and kill: each clause is stated above. -/
def Obligations.DefaultTrapActions : Prop :=
  Sys2Proof.Claims.DefaultReplay ∧ Sys2Proof.Claims.DefaultKill

/-- Park, the context block, and the return from a trap: each clause is stated above. -/
def Obligations.ParkReloadReturn : Prop :=
  Sys2Proof.Claims.ParkWritesFrame ∧ Sys2Proof.Claims.ContextBlockRoundTrip ∧ Sys2Proof.Claims.TrapReturn

/-- Loads: scratchpad at a fixed latency, memory as an interlocked result; hints change nothing: each clause is stated above. -/
def Obligations.LoadsAndHints : Prop :=
  Sys2Proof.Claims.LoadsFromScratchpad ∧ Sys2Proof.Claims.LoadsFromMemory ∧ Sys2Proof.Claims.GatherAndTensorLoads ∧ Sys2Proof.Claims.UnmappedLoad ∧ Sys2Proof.Claims.HintsChangeNoValue

/-- Stores write their bytes and no others: each clause is stated above. -/
def Obligations.Stores : Prop :=
  Sys2Proof.Claims.StoresWriteTheirBytes ∧ Sys2Proof.Claims.StoreFrames

/-- The matrix engine, acquire, release and its queue; jobs of the copy slot enter: each clause is stated above. -/
def Obligations.EngineQueue : Prop :=
  Sys2Proof.Claims.EngineAcquireRelease ∧ Sys2Proof.Claims.MatrixOperationsQueue ∧ Sys2Proof.Claims.CopySlotCompletes

/-- Issuing a job, its tag, its status, its cancellation and its end: each clause is stated above. Choices of the model that no rule states: log entry 53. -/
def Obligations.JobsFromIssueToEnd : Prop :=
  Sys2Proof.Claims.JobIssue ∧ Sys2Proof.Claims.JobStatusAndCancel ∧ Sys2Proof.Claims.JobLife

/-- Posts to flags, event latches and signal decrements: each clause is stated above. -/
def Obligations.PostsEventsSignals : Prop :=
  Sys2Proof.Claims.PostsAndEvents ∧ Sys2Proof.Claims.SignalDecrement

/-- Waits complete at once or pend, and end when their object changes: each clause is stated above. -/
def Obligations.WaitsPendOrComplete : Prop :=
  Sys2Proof.Claims.WaitsPendOrComplete ∧ Sys2Proof.Claims.WaitEvents

/-- Splitting the near store and swapping a buffer: each clause is stated above. -/
def Obligations.SplitAndSwap : Prop :=
  Sys2Proof.Claims.SplitDrains ∧ Sys2Proof.Claims.SwapCommitsOrRefuses

/-- Leave: reservations, requests, grants and aging: each clause is stated above. Choices of the model that no rule states: log entry 73. -/
def Obligations.LeaveReservationsAndGrants : Prop :=
  Sys2Proof.Claims.LeaveReservation ∧ Sys2Proof.Claims.LeaveEvents

/-- The plan instructions: each clause is stated above. Choices of the model that no rule states: log entry 41. -/
def Obligations.PlanInstructions : Prop :=
  Sys2Proof.Claims.PlanSlotOperations ∧ Sys2Proof.Claims.PlanPinsRunsStatistics

/-- Alarms, link failures and hot patches: each clause is stated above. -/
def Obligations.AlarmsLinksAndPatches : Prop :=
  Sys2Proof.Claims.AlarmsAndLinkEvents ∧ Sys2Proof.Claims.HotPatches

/-- The host port: writes and reads: each clause is stated above. Choices of the model that no rule states: log entries 7, 66 and 80. -/
def Obligations.HostPortEvents : Prop :=
  Sys2Proof.Claims.HostPortEvents ∧ Sys2Proof.Claims.RegisterReads

/-- Messages of the fabric: each clause is stated above. Choices of the model that no rule states: log entries 18 and 76. -/
def Obligations.FabricMessages : Prop :=
  Sys2Proof.Claims.FabricRequests ∧ Sys2Proof.Claims.FabricAnswers ∧ Sys2Proof.Claims.FlitsCarryTheMessage

/-- Placement, switches, eviction, balancing and the quantum: each clause is stated above. -/
def Obligations.SchedulingEvents : Prop :=
  Sys2Proof.Claims.SchedulingEvents ∧ Sys2Proof.Claims.BalancePush

/-- Decoding and encoding agree, in both directions: each clause is stated above. -/
def Obligations.EncodeDecodeAgree : Prop :=
  Sys2Proof.Claims.DecodeAfterEncode ∧ Sys2Proof.Claims.EncodeAfterDecode
end

