-- ==== Sys2Proof/Laws/Encoding.lean ====
section
/-! SUPPORT. The fields of a slot word that the encoder builds (12 R283). -/

namespace Sys2Proof.Laws

variable (tag : BitVec 3) (opc : BitVec 8) (ws : Bool) (d a b : BitVec 10) (c : BitVec 14) (imm : BitVec 34)

/-- Bits 55:53 of a packed slot are its path tag. -/
@[simp] theorem pack_tag : (pack tag opc ws d a b c).extractLsb' 53 3 = tag := by
  apply BitVec.eq_of_getLsbD_eq
  intro i hi
  have h : 53 + i - 14 - 10 - 10 - 10 - 1 - 8 = i := by omega
  simp only [pack, BitVec.getLsbD_extractLsb', BitVec.getLsbD_append]
  simp [hi, h, BitVec.getLsbD_eq_getElem, show ¬ (53 + i < 14) by omega, show ¬ (53 + i - 14 < 10) by omega,
    show ¬ (53 + i - 14 - 10 < 10) by omega, show ¬ (53 + i - 14 - 10 - 10 < 10) by omega,
    show ¬ (53 + i - 14 - 10 - 10 - 10 < 1) by omega, show ¬ (53 + i - 14 - 10 - 10 - 10 - 1 < 8) by omega]

/-- Bits 52:45 of a packed slot are its opcode. -/
@[simp] theorem pack_opc : (pack tag opc ws d a b c).extractLsb' 45 8 = opc := by
  apply BitVec.eq_of_getLsbD_eq
  intro i hi
  have h : 45 + i - 14 - 10 - 10 - 10 - 1 = i := by omega
  simp only [pack, BitVec.getLsbD_extractLsb', BitVec.getLsbD_append]
  simp [hi, h, BitVec.getLsbD_eq_getElem, show ¬ (45 + i < 14) by omega, show ¬ (45 + i - 14 < 10) by omega,
    show ¬ (45 + i - 14 - 10 < 10) by omega, show ¬ (45 + i - 14 - 10 - 10 < 10) by omega,
    show ¬ (45 + i - 14 - 10 - 10 - 10 < 1) by omega]

@[simp] theorem packI_tag : (packI tag opc ws d imm).extractLsb' 53 3 = tag := by
  apply BitVec.eq_of_getLsbD_eq
  intro i hi
  have h : 53 + i - 34 - 10 - 1 - 8 = i := by omega
  simp only [packI, BitVec.getLsbD_extractLsb', BitVec.getLsbD_append]
  simp [hi, h, BitVec.getLsbD_eq_getElem, show ¬ (53 + i < 34) by omega, show ¬ (53 + i - 34 < 10) by omega,
    show ¬ (53 + i - 34 - 10 < 1) by omega, show ¬ (53 + i - 34 - 10 - 1 < 8) by omega]

@[simp] theorem packI_opc : (packI tag opc ws d imm).extractLsb' 45 8 = opc := by
  apply BitVec.eq_of_getLsbD_eq
  intro i hi
  have h : 45 + i - 34 - 10 - 1 = i := by omega
  simp only [packI, BitVec.getLsbD_extractLsb', BitVec.getLsbD_append]
  simp [hi, h, BitVec.getLsbD_eq_getElem, show ¬ (45 + i < 34) by omega, show ¬ (45 + i - 34 < 10) by omega,
    show ¬ (45 + i - 34 - 10 < 1) by omega]

end Sys2Proof.Laws
end

