-- ==== Sys2Proof/Laws/State.lean ====
section
/-! SUPPORT. What each plain update of the state leaves alone and what it writes: one lemma for each field of each update. -/

namespace Sys2Proof.Laws

open Sys2Proof.Machine

set_option Elab.async false

section modCoreAt

variable (s : State) (c : Fin 192) (f : Core → Core)

@[simp] theorem modCoreAt_now : (s.modCoreAt c f).now = s.now := rfl
@[simp] theorem modCoreAt_power : (s.modCoreAt c f).power = s.power := rfl
@[simp] theorem modCoreAt_mem : (s.modCoreAt c f).mem = s.mem := rfl
@[simp] theorem modCoreAt_cores : (s.modCoreAt c f).cores = s.cores.set c.val (f (s.cores.get c)) c.isLt := rfl
@[simp] theorem modCoreAt_dies : (s.modCoreAt c f).dies = s.dies := rfl
@[simp] theorem modCoreAt_recs : (s.modCoreAt c f).recs = s.recs := rfl
@[simp] theorem modCoreAt_teams : (s.modCoreAt c f).teams = s.teams := rfl
@[simp] theorem modCoreAt_grids : (s.modCoreAt c f).grids = s.grids := rfl
@[simp] theorem modCoreAt_fifo : (s.modCoreAt c f).fifo = s.fifo := rfl
@[simp] theorem modCoreAt_jobs : (s.modCoreAt c f).jobs = s.jobs := rfl
@[simp] theorem modCoreAt_plans : (s.modCoreAt c f).plans = s.plans := rfl
@[simp] theorem modCoreAt_dctxs : (s.modCoreAt c f).dctxs = s.dctxs := rfl
@[simp] theorem modCoreAt_regs : (s.modCoreAt c f).regs = s.regs := rfl
@[simp] theorem modCoreAt_save : (s.modCoreAt c f).save = s.save := rfl
@[simp] theorem modCoreAt_sec : (s.modCoreAt c f).sec = s.sec := rfl
@[simp] theorem modCoreAt_errs : (s.modCoreAt c f).errs = s.errs := rfl
@[simp] theorem modCoreAt_fz : (s.modCoreAt c f).fz = s.fz := rfl
@[simp] theorem modCoreAt_hostMem : (s.modCoreAt c f).hostMem = s.hostMem := rfl
@[simp] theorem modCoreAt_atsGrants : (s.modCoreAt c f).atsGrants = s.atsGrants := rfl
@[simp] theorem modCoreAt_nextId : (s.modCoreAt c f).nextId = s.nextId := rfl
@[simp] theorem modCoreAt_frames : (s.modCoreAt c f).frames = s.frames := rfl
@[simp] theorem modCoreAt_agenda : (s.modCoreAt c f).agenda = s.agenda := rfl
@[simp] theorem modCoreAt_timers : (s.modCoreAt c f).timers = s.timers := rfl
@[simp] theorem modCoreAt_arg : (s.modCoreAt c f).arg = s.arg := rfl
@[simp] theorem modCoreAt_busy : (s.modCoreAt c f).busy = s.busy := rfl
@[simp] theorem modCoreAt_curCore : (s.modCoreAt c f).curCore = s.curCore := rfl
@[simp] theorem modCoreAt_curCtx : (s.modCoreAt c f).curCtx = s.curCtx := rfl
@[simp] theorem modCoreAt_curLeaf : (s.modCoreAt c f).curLeaf = s.curLeaf := rfl
@[simp] theorem modCoreAt_curBix : (s.modCoreAt c f).curBix = s.curBix := rfl
@[simp] theorem modCoreAt_curHeader : (s.modCoreAt c f).curHeader = s.curHeader := rfl
@[simp] theorem modCoreAt_curWord : (s.modCoreAt c f).curWord = s.curWord := rfl
@[simp] theorem modCoreAt_issued : (s.modCoreAt c f).issued = s.issued := rfl
@[simp] theorem modCoreAt_latched : (s.modCoreAt c f).latched = s.latched := rfl
@[simp] theorem modCoreAt_ctlOld : (s.modCoreAt c f).ctlOld = s.ctlOld := rfl
@[simp] theorem modCoreAt_touched : (s.modCoreAt c f).touched = s.touched := rfl
@[simp] theorem modCoreAt_freeCounter : (s.modCoreAt c f).freeCounter = s.freeCounter := rfl

end modCoreAt

section modCore

variable (s : State) (f : Core → Core)

@[simp] theorem modCore_now : (s.modCore f).now = s.now := rfl
@[simp] theorem modCore_power : (s.modCore f).power = s.power := rfl
@[simp] theorem modCore_mem : (s.modCore f).mem = s.mem := rfl
@[simp] theorem modCore_cores : (s.modCore f).cores = s.cores.set s.curCore.val (f (s.cores.get s.curCore)) s.curCore.isLt := rfl
@[simp] theorem modCore_dies : (s.modCore f).dies = s.dies := rfl
@[simp] theorem modCore_recs : (s.modCore f).recs = s.recs := rfl
@[simp] theorem modCore_teams : (s.modCore f).teams = s.teams := rfl
@[simp] theorem modCore_grids : (s.modCore f).grids = s.grids := rfl
@[simp] theorem modCore_fifo : (s.modCore f).fifo = s.fifo := rfl
@[simp] theorem modCore_jobs : (s.modCore f).jobs = s.jobs := rfl
@[simp] theorem modCore_plans : (s.modCore f).plans = s.plans := rfl
@[simp] theorem modCore_dctxs : (s.modCore f).dctxs = s.dctxs := rfl
@[simp] theorem modCore_regs : (s.modCore f).regs = s.regs := rfl
@[simp] theorem modCore_save : (s.modCore f).save = s.save := rfl
@[simp] theorem modCore_sec : (s.modCore f).sec = s.sec := rfl
@[simp] theorem modCore_errs : (s.modCore f).errs = s.errs := rfl
@[simp] theorem modCore_fz : (s.modCore f).fz = s.fz := rfl
@[simp] theorem modCore_hostMem : (s.modCore f).hostMem = s.hostMem := rfl
@[simp] theorem modCore_atsGrants : (s.modCore f).atsGrants = s.atsGrants := rfl
@[simp] theorem modCore_nextId : (s.modCore f).nextId = s.nextId := rfl
@[simp] theorem modCore_frames : (s.modCore f).frames = s.frames := rfl
@[simp] theorem modCore_agenda : (s.modCore f).agenda = s.agenda := rfl
@[simp] theorem modCore_timers : (s.modCore f).timers = s.timers := rfl
@[simp] theorem modCore_arg : (s.modCore f).arg = s.arg := rfl
@[simp] theorem modCore_busy : (s.modCore f).busy = s.busy := rfl
@[simp] theorem modCore_curCore : (s.modCore f).curCore = s.curCore := rfl
@[simp] theorem modCore_curCtx : (s.modCore f).curCtx = s.curCtx := rfl
@[simp] theorem modCore_curLeaf : (s.modCore f).curLeaf = s.curLeaf := rfl
@[simp] theorem modCore_curBix : (s.modCore f).curBix = s.curBix := rfl
@[simp] theorem modCore_curHeader : (s.modCore f).curHeader = s.curHeader := rfl
@[simp] theorem modCore_curWord : (s.modCore f).curWord = s.curWord := rfl
@[simp] theorem modCore_issued : (s.modCore f).issued = s.issued := rfl
@[simp] theorem modCore_latched : (s.modCore f).latched = s.latched := rfl
@[simp] theorem modCore_ctlOld : (s.modCore f).ctlOld = s.ctlOld := rfl
@[simp] theorem modCore_touched : (s.modCore f).touched = s.touched := rfl
@[simp] theorem modCore_freeCounter : (s.modCore f).freeCounter = s.freeCounter := rfl

end modCore

section modCtxAt

variable (s : State) (c : Fin 192) (x : Fin 4) (f : Ctx → Ctx)

@[simp] theorem modCtxAt_now : (s.modCtxAt c x f).now = s.now := rfl
@[simp] theorem modCtxAt_power : (s.modCtxAt c x f).power = s.power := rfl
@[simp] theorem modCtxAt_mem : (s.modCtxAt c x f).mem = s.mem := rfl
@[simp] theorem modCtxAt_cores : (s.modCtxAt c x f).cores = s.cores.set c.val ((s.cores.get c).modCtx x f) c.isLt := rfl
@[simp] theorem modCtxAt_dies : (s.modCtxAt c x f).dies = s.dies := rfl
@[simp] theorem modCtxAt_recs : (s.modCtxAt c x f).recs = s.recs := rfl
@[simp] theorem modCtxAt_teams : (s.modCtxAt c x f).teams = s.teams := rfl
@[simp] theorem modCtxAt_grids : (s.modCtxAt c x f).grids = s.grids := rfl
@[simp] theorem modCtxAt_fifo : (s.modCtxAt c x f).fifo = s.fifo := rfl
@[simp] theorem modCtxAt_jobs : (s.modCtxAt c x f).jobs = s.jobs := rfl
@[simp] theorem modCtxAt_plans : (s.modCtxAt c x f).plans = s.plans := rfl
@[simp] theorem modCtxAt_dctxs : (s.modCtxAt c x f).dctxs = s.dctxs := rfl
@[simp] theorem modCtxAt_regs : (s.modCtxAt c x f).regs = s.regs := rfl
@[simp] theorem modCtxAt_save : (s.modCtxAt c x f).save = s.save := rfl
@[simp] theorem modCtxAt_sec : (s.modCtxAt c x f).sec = s.sec := rfl
@[simp] theorem modCtxAt_errs : (s.modCtxAt c x f).errs = s.errs := rfl
@[simp] theorem modCtxAt_fz : (s.modCtxAt c x f).fz = s.fz := rfl
@[simp] theorem modCtxAt_hostMem : (s.modCtxAt c x f).hostMem = s.hostMem := rfl
@[simp] theorem modCtxAt_atsGrants : (s.modCtxAt c x f).atsGrants = s.atsGrants := rfl
@[simp] theorem modCtxAt_nextId : (s.modCtxAt c x f).nextId = s.nextId := rfl
@[simp] theorem modCtxAt_frames : (s.modCtxAt c x f).frames = s.frames := rfl
@[simp] theorem modCtxAt_agenda : (s.modCtxAt c x f).agenda = s.agenda := rfl
@[simp] theorem modCtxAt_timers : (s.modCtxAt c x f).timers = s.timers := rfl
@[simp] theorem modCtxAt_arg : (s.modCtxAt c x f).arg = s.arg := rfl
@[simp] theorem modCtxAt_busy : (s.modCtxAt c x f).busy = s.busy := rfl
@[simp] theorem modCtxAt_curCore : (s.modCtxAt c x f).curCore = s.curCore := rfl
@[simp] theorem modCtxAt_curCtx : (s.modCtxAt c x f).curCtx = s.curCtx := rfl
@[simp] theorem modCtxAt_curLeaf : (s.modCtxAt c x f).curLeaf = s.curLeaf := rfl
@[simp] theorem modCtxAt_curBix : (s.modCtxAt c x f).curBix = s.curBix := rfl
@[simp] theorem modCtxAt_curHeader : (s.modCtxAt c x f).curHeader = s.curHeader := rfl
@[simp] theorem modCtxAt_curWord : (s.modCtxAt c x f).curWord = s.curWord := rfl
@[simp] theorem modCtxAt_issued : (s.modCtxAt c x f).issued = s.issued := rfl
@[simp] theorem modCtxAt_latched : (s.modCtxAt c x f).latched = s.latched := rfl
@[simp] theorem modCtxAt_ctlOld : (s.modCtxAt c x f).ctlOld = s.ctlOld := rfl
@[simp] theorem modCtxAt_touched : (s.modCtxAt c x f).touched = s.touched := rfl
@[simp] theorem modCtxAt_freeCounter : (s.modCtxAt c x f).freeCounter = s.freeCounter := rfl

end modCtxAt

section modCtx

variable (s : State) (f : Ctx → Ctx)

@[simp] theorem modCtx_now : (s.modCtx f).now = s.now := rfl
@[simp] theorem modCtx_power : (s.modCtx f).power = s.power := rfl
@[simp] theorem modCtx_mem : (s.modCtx f).mem = s.mem := rfl
@[simp] theorem modCtx_cores : (s.modCtx f).cores = s.cores.set s.curCore.val ((s.cores.get s.curCore).modCtx s.curCtx f) s.curCore.isLt := rfl
@[simp] theorem modCtx_dies : (s.modCtx f).dies = s.dies := rfl
@[simp] theorem modCtx_recs : (s.modCtx f).recs = s.recs := rfl
@[simp] theorem modCtx_teams : (s.modCtx f).teams = s.teams := rfl
@[simp] theorem modCtx_grids : (s.modCtx f).grids = s.grids := rfl
@[simp] theorem modCtx_fifo : (s.modCtx f).fifo = s.fifo := rfl
@[simp] theorem modCtx_jobs : (s.modCtx f).jobs = s.jobs := rfl
@[simp] theorem modCtx_plans : (s.modCtx f).plans = s.plans := rfl
@[simp] theorem modCtx_dctxs : (s.modCtx f).dctxs = s.dctxs := rfl
@[simp] theorem modCtx_regs : (s.modCtx f).regs = s.regs := rfl
@[simp] theorem modCtx_save : (s.modCtx f).save = s.save := rfl
@[simp] theorem modCtx_sec : (s.modCtx f).sec = s.sec := rfl
@[simp] theorem modCtx_errs : (s.modCtx f).errs = s.errs := rfl
@[simp] theorem modCtx_fz : (s.modCtx f).fz = s.fz := rfl
@[simp] theorem modCtx_hostMem : (s.modCtx f).hostMem = s.hostMem := rfl
@[simp] theorem modCtx_atsGrants : (s.modCtx f).atsGrants = s.atsGrants := rfl
@[simp] theorem modCtx_nextId : (s.modCtx f).nextId = s.nextId := rfl
@[simp] theorem modCtx_frames : (s.modCtx f).frames = s.frames := rfl
@[simp] theorem modCtx_agenda : (s.modCtx f).agenda = s.agenda := rfl
@[simp] theorem modCtx_timers : (s.modCtx f).timers = s.timers := rfl
@[simp] theorem modCtx_arg : (s.modCtx f).arg = s.arg := rfl
@[simp] theorem modCtx_busy : (s.modCtx f).busy = s.busy := rfl
@[simp] theorem modCtx_curCore : (s.modCtx f).curCore = s.curCore := rfl
@[simp] theorem modCtx_curCtx : (s.modCtx f).curCtx = s.curCtx := rfl
@[simp] theorem modCtx_curLeaf : (s.modCtx f).curLeaf = s.curLeaf := rfl
@[simp] theorem modCtx_curBix : (s.modCtx f).curBix = s.curBix := rfl
@[simp] theorem modCtx_curHeader : (s.modCtx f).curHeader = s.curHeader := rfl
@[simp] theorem modCtx_curWord : (s.modCtx f).curWord = s.curWord := rfl
@[simp] theorem modCtx_issued : (s.modCtx f).issued = s.issued := rfl
@[simp] theorem modCtx_latched : (s.modCtx f).latched = s.latched := rfl
@[simp] theorem modCtx_ctlOld : (s.modCtx f).ctlOld = s.ctlOld := rfl
@[simp] theorem modCtx_touched : (s.modCtx f).touched = s.touched := rfl
@[simp] theorem modCtx_freeCounter : (s.modCtx f).freeCounter = s.freeCounter := rfl

end modCtx

section modRec

variable (s : State) (va g : Nat) (f : Rec → Rec)

@[simp] theorem modRec_now : (s.modRec va g f).now = s.now := rfl
@[simp] theorem modRec_power : (s.modRec va g f).power = s.power := rfl
@[simp] theorem modRec_mem : (s.modRec va g f).mem = s.mem := rfl
@[simp] theorem modRec_cores : (s.modRec va g f).cores = s.cores := rfl
@[simp] theorem modRec_dies : (s.modRec va g f).dies = s.dies := rfl
@[simp] theorem modRec_recs : (s.modRec va g f).recs = modFirst (fun r => r.va == va && r.grid == g) f s.recs := rfl
@[simp] theorem modRec_teams : (s.modRec va g f).teams = s.teams := rfl
@[simp] theorem modRec_grids : (s.modRec va g f).grids = s.grids := rfl
@[simp] theorem modRec_fifo : (s.modRec va g f).fifo = s.fifo := rfl
@[simp] theorem modRec_jobs : (s.modRec va g f).jobs = s.jobs := rfl
@[simp] theorem modRec_plans : (s.modRec va g f).plans = s.plans := rfl
@[simp] theorem modRec_dctxs : (s.modRec va g f).dctxs = s.dctxs := rfl
@[simp] theorem modRec_regs : (s.modRec va g f).regs = s.regs := rfl
@[simp] theorem modRec_save : (s.modRec va g f).save = s.save := rfl
@[simp] theorem modRec_sec : (s.modRec va g f).sec = s.sec := rfl
@[simp] theorem modRec_errs : (s.modRec va g f).errs = s.errs := rfl
@[simp] theorem modRec_fz : (s.modRec va g f).fz = s.fz := rfl
@[simp] theorem modRec_hostMem : (s.modRec va g f).hostMem = s.hostMem := rfl
@[simp] theorem modRec_atsGrants : (s.modRec va g f).atsGrants = s.atsGrants := rfl
@[simp] theorem modRec_nextId : (s.modRec va g f).nextId = s.nextId := rfl
@[simp] theorem modRec_frames : (s.modRec va g f).frames = s.frames := rfl
@[simp] theorem modRec_agenda : (s.modRec va g f).agenda = s.agenda := rfl
@[simp] theorem modRec_timers : (s.modRec va g f).timers = s.timers := rfl
@[simp] theorem modRec_arg : (s.modRec va g f).arg = s.arg := rfl
@[simp] theorem modRec_busy : (s.modRec va g f).busy = s.busy := rfl
@[simp] theorem modRec_curCore : (s.modRec va g f).curCore = s.curCore := rfl
@[simp] theorem modRec_curCtx : (s.modRec va g f).curCtx = s.curCtx := rfl
@[simp] theorem modRec_curLeaf : (s.modRec va g f).curLeaf = s.curLeaf := rfl
@[simp] theorem modRec_curBix : (s.modRec va g f).curBix = s.curBix := rfl
@[simp] theorem modRec_curHeader : (s.modRec va g f).curHeader = s.curHeader := rfl
@[simp] theorem modRec_curWord : (s.modRec va g f).curWord = s.curWord := rfl
@[simp] theorem modRec_issued : (s.modRec va g f).issued = s.issued := rfl
@[simp] theorem modRec_latched : (s.modRec va g f).latched = s.latched := rfl
@[simp] theorem modRec_ctlOld : (s.modRec va g f).ctlOld = s.ctlOld := rfl
@[simp] theorem modRec_touched : (s.modRec va g f).touched = (s.touch va g).touched := rfl
@[simp] theorem modRec_freeCounter : (s.modRec va g f).freeCounter = s.freeCounter := rfl

end modRec

section touch

variable (s : State) (va g : Nat)

@[simp] theorem touch_now : (s.touch va g).now = s.now := rfl
@[simp] theorem touch_power : (s.touch va g).power = s.power := rfl
@[simp] theorem touch_mem : (s.touch va g).mem = s.mem := rfl
@[simp] theorem touch_cores : (s.touch va g).cores = s.cores := rfl
@[simp] theorem touch_dies : (s.touch va g).dies = s.dies := rfl
@[simp] theorem touch_recs : (s.touch va g).recs = s.recs := rfl
@[simp] theorem touch_teams : (s.touch va g).teams = s.teams := rfl
@[simp] theorem touch_grids : (s.touch va g).grids = s.grids := rfl
@[simp] theorem touch_fifo : (s.touch va g).fifo = s.fifo := rfl
@[simp] theorem touch_jobs : (s.touch va g).jobs = s.jobs := rfl
@[simp] theorem touch_plans : (s.touch va g).plans = s.plans := rfl
@[simp] theorem touch_dctxs : (s.touch va g).dctxs = s.dctxs := rfl
@[simp] theorem touch_regs : (s.touch va g).regs = s.regs := rfl
@[simp] theorem touch_save : (s.touch va g).save = s.save := rfl
@[simp] theorem touch_sec : (s.touch va g).sec = s.sec := rfl
@[simp] theorem touch_errs : (s.touch va g).errs = s.errs := rfl
@[simp] theorem touch_fz : (s.touch va g).fz = s.fz := rfl
@[simp] theorem touch_hostMem : (s.touch va g).hostMem = s.hostMem := rfl
@[simp] theorem touch_atsGrants : (s.touch va g).atsGrants = s.atsGrants := rfl
@[simp] theorem touch_nextId : (s.touch va g).nextId = s.nextId := rfl
@[simp] theorem touch_frames : (s.touch va g).frames = s.frames := rfl
@[simp] theorem touch_agenda : (s.touch va g).agenda = s.agenda := rfl
@[simp] theorem touch_timers : (s.touch va g).timers = s.timers := rfl
@[simp] theorem touch_arg : (s.touch va g).arg = s.arg := rfl
@[simp] theorem touch_busy : (s.touch va g).busy = s.busy := rfl
@[simp] theorem touch_curCore : (s.touch va g).curCore = s.curCore := rfl
@[simp] theorem touch_curCtx : (s.touch va g).curCtx = s.curCtx := rfl
@[simp] theorem touch_curLeaf : (s.touch va g).curLeaf = s.curLeaf := rfl
@[simp] theorem touch_curBix : (s.touch va g).curBix = s.curBix := rfl
@[simp] theorem touch_curHeader : (s.touch va g).curHeader = s.curHeader := rfl
@[simp] theorem touch_curWord : (s.touch va g).curWord = s.curWord := rfl
@[simp] theorem touch_issued : (s.touch va g).issued = s.issued := rfl
@[simp] theorem touch_latched : (s.touch va g).latched = s.latched := rfl
@[simp] theorem touch_ctlOld : (s.touch va g).ctlOld = s.ctlOld := rfl
@[simp] theorem touch_touched : (s.touch va g).touched = if s.touched.head? = some (va, g) then s.touched else (va, g) :: s.touched := rfl
@[simp] theorem touch_freeCounter : (s.touch va g).freeCounter = s.freeCounter := rfl

end touch

section modTeam

variable (s : State) (g n : Nat) (f : Team → Team)

@[simp] theorem modTeam_now : (s.modTeam g n f).now = s.now := rfl
@[simp] theorem modTeam_power : (s.modTeam g n f).power = s.power := rfl
@[simp] theorem modTeam_mem : (s.modTeam g n f).mem = s.mem := rfl
@[simp] theorem modTeam_cores : (s.modTeam g n f).cores = s.cores := rfl
@[simp] theorem modTeam_dies : (s.modTeam g n f).dies = s.dies := rfl
@[simp] theorem modTeam_recs : (s.modTeam g n f).recs = s.recs := rfl
@[simp] theorem modTeam_teams : (s.modTeam g n f).teams = modFirst (fun t => t.grid == g && t.num == n) f s.teams := rfl
@[simp] theorem modTeam_grids : (s.modTeam g n f).grids = s.grids := rfl
@[simp] theorem modTeam_fifo : (s.modTeam g n f).fifo = s.fifo := rfl
@[simp] theorem modTeam_jobs : (s.modTeam g n f).jobs = s.jobs := rfl
@[simp] theorem modTeam_plans : (s.modTeam g n f).plans = s.plans := rfl
@[simp] theorem modTeam_dctxs : (s.modTeam g n f).dctxs = s.dctxs := rfl
@[simp] theorem modTeam_regs : (s.modTeam g n f).regs = s.regs := rfl
@[simp] theorem modTeam_save : (s.modTeam g n f).save = s.save := rfl
@[simp] theorem modTeam_sec : (s.modTeam g n f).sec = s.sec := rfl
@[simp] theorem modTeam_errs : (s.modTeam g n f).errs = s.errs := rfl
@[simp] theorem modTeam_fz : (s.modTeam g n f).fz = s.fz := rfl
@[simp] theorem modTeam_hostMem : (s.modTeam g n f).hostMem = s.hostMem := rfl
@[simp] theorem modTeam_atsGrants : (s.modTeam g n f).atsGrants = s.atsGrants := rfl
@[simp] theorem modTeam_nextId : (s.modTeam g n f).nextId = s.nextId := rfl
@[simp] theorem modTeam_frames : (s.modTeam g n f).frames = s.frames := rfl
@[simp] theorem modTeam_agenda : (s.modTeam g n f).agenda = s.agenda := rfl
@[simp] theorem modTeam_timers : (s.modTeam g n f).timers = s.timers := rfl
@[simp] theorem modTeam_arg : (s.modTeam g n f).arg = s.arg := rfl
@[simp] theorem modTeam_busy : (s.modTeam g n f).busy = s.busy := rfl
@[simp] theorem modTeam_curCore : (s.modTeam g n f).curCore = s.curCore := rfl
@[simp] theorem modTeam_curCtx : (s.modTeam g n f).curCtx = s.curCtx := rfl
@[simp] theorem modTeam_curLeaf : (s.modTeam g n f).curLeaf = s.curLeaf := rfl
@[simp] theorem modTeam_curBix : (s.modTeam g n f).curBix = s.curBix := rfl
@[simp] theorem modTeam_curHeader : (s.modTeam g n f).curHeader = s.curHeader := rfl
@[simp] theorem modTeam_curWord : (s.modTeam g n f).curWord = s.curWord := rfl
@[simp] theorem modTeam_issued : (s.modTeam g n f).issued = s.issued := rfl
@[simp] theorem modTeam_latched : (s.modTeam g n f).latched = s.latched := rfl
@[simp] theorem modTeam_ctlOld : (s.modTeam g n f).ctlOld = s.ctlOld := rfl
@[simp] theorem modTeam_touched : (s.modTeam g n f).touched = s.touched := rfl
@[simp] theorem modTeam_freeCounter : (s.modTeam g n f).freeCounter = s.freeCounter := rfl

end modTeam

section modGrid

variable (s : State) (g : Nat) (f : Grid → Grid)

@[simp] theorem modGrid_now : (s.modGrid g f).now = s.now := rfl
@[simp] theorem modGrid_power : (s.modGrid g f).power = s.power := rfl
@[simp] theorem modGrid_mem : (s.modGrid g f).mem = s.mem := rfl
@[simp] theorem modGrid_cores : (s.modGrid g f).cores = s.cores := rfl
@[simp] theorem modGrid_dies : (s.modGrid g f).dies = s.dies := rfl
@[simp] theorem modGrid_recs : (s.modGrid g f).recs = s.recs := rfl
@[simp] theorem modGrid_teams : (s.modGrid g f).teams = s.teams := rfl
@[simp] theorem modGrid_grids : (s.modGrid g f).grids = modFirst (fun p => p.1 == g) (fun p => (p.1, f p.2)) s.grids := rfl
@[simp] theorem modGrid_fifo : (s.modGrid g f).fifo = s.fifo := rfl
@[simp] theorem modGrid_jobs : (s.modGrid g f).jobs = s.jobs := rfl
@[simp] theorem modGrid_plans : (s.modGrid g f).plans = s.plans := rfl
@[simp] theorem modGrid_dctxs : (s.modGrid g f).dctxs = s.dctxs := rfl
@[simp] theorem modGrid_regs : (s.modGrid g f).regs = s.regs := rfl
@[simp] theorem modGrid_save : (s.modGrid g f).save = s.save := rfl
@[simp] theorem modGrid_sec : (s.modGrid g f).sec = s.sec := rfl
@[simp] theorem modGrid_errs : (s.modGrid g f).errs = s.errs := rfl
@[simp] theorem modGrid_fz : (s.modGrid g f).fz = s.fz := rfl
@[simp] theorem modGrid_hostMem : (s.modGrid g f).hostMem = s.hostMem := rfl
@[simp] theorem modGrid_atsGrants : (s.modGrid g f).atsGrants = s.atsGrants := rfl
@[simp] theorem modGrid_nextId : (s.modGrid g f).nextId = s.nextId := rfl
@[simp] theorem modGrid_frames : (s.modGrid g f).frames = s.frames := rfl
@[simp] theorem modGrid_agenda : (s.modGrid g f).agenda = s.agenda := rfl
@[simp] theorem modGrid_timers : (s.modGrid g f).timers = s.timers := rfl
@[simp] theorem modGrid_arg : (s.modGrid g f).arg = s.arg := rfl
@[simp] theorem modGrid_busy : (s.modGrid g f).busy = s.busy := rfl
@[simp] theorem modGrid_curCore : (s.modGrid g f).curCore = s.curCore := rfl
@[simp] theorem modGrid_curCtx : (s.modGrid g f).curCtx = s.curCtx := rfl
@[simp] theorem modGrid_curLeaf : (s.modGrid g f).curLeaf = s.curLeaf := rfl
@[simp] theorem modGrid_curBix : (s.modGrid g f).curBix = s.curBix := rfl
@[simp] theorem modGrid_curHeader : (s.modGrid g f).curHeader = s.curHeader := rfl
@[simp] theorem modGrid_curWord : (s.modGrid g f).curWord = s.curWord := rfl
@[simp] theorem modGrid_issued : (s.modGrid g f).issued = s.issued := rfl
@[simp] theorem modGrid_latched : (s.modGrid g f).latched = s.latched := rfl
@[simp] theorem modGrid_ctlOld : (s.modGrid g f).ctlOld = s.ctlOld := rfl
@[simp] theorem modGrid_touched : (s.modGrid g f).touched = s.touched := rfl
@[simp] theorem modGrid_freeCounter : (s.modGrid g f).freeCounter = s.freeCounter := rfl

end modGrid

section modJob

variable (s : State) (i : Nat) (f : Job → Job)

@[simp] theorem modJob_now : (s.modJob i f).now = s.now := rfl
@[simp] theorem modJob_power : (s.modJob i f).power = s.power := rfl
@[simp] theorem modJob_mem : (s.modJob i f).mem = s.mem := rfl
@[simp] theorem modJob_cores : (s.modJob i f).cores = s.cores := rfl
@[simp] theorem modJob_dies : (s.modJob i f).dies = s.dies := rfl
@[simp] theorem modJob_recs : (s.modJob i f).recs = s.recs := rfl
@[simp] theorem modJob_teams : (s.modJob i f).teams = s.teams := rfl
@[simp] theorem modJob_grids : (s.modJob i f).grids = s.grids := rfl
@[simp] theorem modJob_fifo : (s.modJob i f).fifo = s.fifo := rfl
@[simp] theorem modJob_jobs : (s.modJob i f).jobs = modFirst (fun j => j.id == i) f s.jobs := rfl
@[simp] theorem modJob_plans : (s.modJob i f).plans = s.plans := rfl
@[simp] theorem modJob_dctxs : (s.modJob i f).dctxs = s.dctxs := rfl
@[simp] theorem modJob_regs : (s.modJob i f).regs = s.regs := rfl
@[simp] theorem modJob_save : (s.modJob i f).save = s.save := rfl
@[simp] theorem modJob_sec : (s.modJob i f).sec = s.sec := rfl
@[simp] theorem modJob_errs : (s.modJob i f).errs = s.errs := rfl
@[simp] theorem modJob_fz : (s.modJob i f).fz = s.fz := rfl
@[simp] theorem modJob_hostMem : (s.modJob i f).hostMem = s.hostMem := rfl
@[simp] theorem modJob_atsGrants : (s.modJob i f).atsGrants = s.atsGrants := rfl
@[simp] theorem modJob_nextId : (s.modJob i f).nextId = s.nextId := rfl
@[simp] theorem modJob_frames : (s.modJob i f).frames = s.frames := rfl
@[simp] theorem modJob_agenda : (s.modJob i f).agenda = s.agenda := rfl
@[simp] theorem modJob_timers : (s.modJob i f).timers = s.timers := rfl
@[simp] theorem modJob_arg : (s.modJob i f).arg = s.arg := rfl
@[simp] theorem modJob_busy : (s.modJob i f).busy = s.busy := rfl
@[simp] theorem modJob_curCore : (s.modJob i f).curCore = s.curCore := rfl
@[simp] theorem modJob_curCtx : (s.modJob i f).curCtx = s.curCtx := rfl
@[simp] theorem modJob_curLeaf : (s.modJob i f).curLeaf = s.curLeaf := rfl
@[simp] theorem modJob_curBix : (s.modJob i f).curBix = s.curBix := rfl
@[simp] theorem modJob_curHeader : (s.modJob i f).curHeader = s.curHeader := rfl
@[simp] theorem modJob_curWord : (s.modJob i f).curWord = s.curWord := rfl
@[simp] theorem modJob_issued : (s.modJob i f).issued = s.issued := rfl
@[simp] theorem modJob_latched : (s.modJob i f).latched = s.latched := rfl
@[simp] theorem modJob_ctlOld : (s.modJob i f).ctlOld = s.ctlOld := rfl
@[simp] theorem modJob_touched : (s.modJob i f).touched = s.touched := rfl
@[simp] theorem modJob_freeCounter : (s.modJob i f).freeCounter = s.freeCounter := rfl

end modJob

section modPlan

variable (s : State) (i : Nat) (f : Plan → Plan)

@[simp] theorem modPlan_now : (s.modPlan i f).now = s.now := rfl
@[simp] theorem modPlan_power : (s.modPlan i f).power = s.power := rfl
@[simp] theorem modPlan_mem : (s.modPlan i f).mem = s.mem := rfl
@[simp] theorem modPlan_cores : (s.modPlan i f).cores = s.cores := rfl
@[simp] theorem modPlan_dies : (s.modPlan i f).dies = s.dies := rfl
@[simp] theorem modPlan_recs : (s.modPlan i f).recs = s.recs := rfl
@[simp] theorem modPlan_teams : (s.modPlan i f).teams = s.teams := rfl
@[simp] theorem modPlan_grids : (s.modPlan i f).grids = s.grids := rfl
@[simp] theorem modPlan_fifo : (s.modPlan i f).fifo = s.fifo := rfl
@[simp] theorem modPlan_jobs : (s.modPlan i f).jobs = s.jobs := rfl
@[simp] theorem modPlan_plans : (s.modPlan i f).plans = modFirst (fun p => p.id == i) f s.plans := rfl
@[simp] theorem modPlan_dctxs : (s.modPlan i f).dctxs = s.dctxs := rfl
@[simp] theorem modPlan_regs : (s.modPlan i f).regs = s.regs := rfl
@[simp] theorem modPlan_save : (s.modPlan i f).save = s.save := rfl
@[simp] theorem modPlan_sec : (s.modPlan i f).sec = s.sec := rfl
@[simp] theorem modPlan_errs : (s.modPlan i f).errs = s.errs := rfl
@[simp] theorem modPlan_fz : (s.modPlan i f).fz = s.fz := rfl
@[simp] theorem modPlan_hostMem : (s.modPlan i f).hostMem = s.hostMem := rfl
@[simp] theorem modPlan_atsGrants : (s.modPlan i f).atsGrants = s.atsGrants := rfl
@[simp] theorem modPlan_nextId : (s.modPlan i f).nextId = s.nextId := rfl
@[simp] theorem modPlan_frames : (s.modPlan i f).frames = s.frames := rfl
@[simp] theorem modPlan_agenda : (s.modPlan i f).agenda = s.agenda := rfl
@[simp] theorem modPlan_timers : (s.modPlan i f).timers = s.timers := rfl
@[simp] theorem modPlan_arg : (s.modPlan i f).arg = s.arg := rfl
@[simp] theorem modPlan_busy : (s.modPlan i f).busy = s.busy := rfl
@[simp] theorem modPlan_curCore : (s.modPlan i f).curCore = s.curCore := rfl
@[simp] theorem modPlan_curCtx : (s.modPlan i f).curCtx = s.curCtx := rfl
@[simp] theorem modPlan_curLeaf : (s.modPlan i f).curLeaf = s.curLeaf := rfl
@[simp] theorem modPlan_curBix : (s.modPlan i f).curBix = s.curBix := rfl
@[simp] theorem modPlan_curHeader : (s.modPlan i f).curHeader = s.curHeader := rfl
@[simp] theorem modPlan_curWord : (s.modPlan i f).curWord = s.curWord := rfl
@[simp] theorem modPlan_issued : (s.modPlan i f).issued = s.issued := rfl
@[simp] theorem modPlan_latched : (s.modPlan i f).latched = s.latched := rfl
@[simp] theorem modPlan_ctlOld : (s.modPlan i f).ctlOld = s.ctlOld := rfl
@[simp] theorem modPlan_touched : (s.modPlan i f).touched = s.touched := rfl
@[simp] theorem modPlan_freeCounter : (s.modPlan i f).freeCounter = s.freeCounter := rfl

end modPlan

section modDctx

variable (s : State) (d : Nat) (f : DCtx → DCtx)

@[simp] theorem modDctx_now : (s.modDctx d f).now = s.now := rfl
@[simp] theorem modDctx_power : (s.modDctx d f).power = s.power := rfl
@[simp] theorem modDctx_mem : (s.modDctx d f).mem = s.mem := rfl
@[simp] theorem modDctx_cores : (s.modDctx d f).cores = s.cores := rfl
@[simp] theorem modDctx_dies : (s.modDctx d f).dies = s.dies := rfl
@[simp] theorem modDctx_recs : (s.modDctx d f).recs = s.recs := rfl
@[simp] theorem modDctx_teams : (s.modDctx d f).teams = s.teams := rfl
@[simp] theorem modDctx_grids : (s.modDctx d f).grids = s.grids := rfl
@[simp] theorem modDctx_fifo : (s.modDctx d f).fifo = s.fifo := rfl
@[simp] theorem modDctx_jobs : (s.modDctx d f).jobs = s.jobs := rfl
@[simp] theorem modDctx_plans : (s.modDctx d f).plans = s.plans := rfl
@[simp] theorem modDctx_dctxs : (s.modDctx d f).dctxs = s.dctxs.set (d % 256) (f (s.dctxOf d)) (Nat.mod_lt _ (by decide)) := rfl
@[simp] theorem modDctx_regs : (s.modDctx d f).regs = s.regs := rfl
@[simp] theorem modDctx_save : (s.modDctx d f).save = s.save := rfl
@[simp] theorem modDctx_sec : (s.modDctx d f).sec = s.sec := rfl
@[simp] theorem modDctx_errs : (s.modDctx d f).errs = s.errs := rfl
@[simp] theorem modDctx_fz : (s.modDctx d f).fz = s.fz := rfl
@[simp] theorem modDctx_hostMem : (s.modDctx d f).hostMem = s.hostMem := rfl
@[simp] theorem modDctx_atsGrants : (s.modDctx d f).atsGrants = s.atsGrants := rfl
@[simp] theorem modDctx_nextId : (s.modDctx d f).nextId = s.nextId := rfl
@[simp] theorem modDctx_frames : (s.modDctx d f).frames = s.frames := rfl
@[simp] theorem modDctx_agenda : (s.modDctx d f).agenda = s.agenda := rfl
@[simp] theorem modDctx_timers : (s.modDctx d f).timers = s.timers := rfl
@[simp] theorem modDctx_arg : (s.modDctx d f).arg = s.arg := rfl
@[simp] theorem modDctx_busy : (s.modDctx d f).busy = s.busy := rfl
@[simp] theorem modDctx_curCore : (s.modDctx d f).curCore = s.curCore := rfl
@[simp] theorem modDctx_curCtx : (s.modDctx d f).curCtx = s.curCtx := rfl
@[simp] theorem modDctx_curLeaf : (s.modDctx d f).curLeaf = s.curLeaf := rfl
@[simp] theorem modDctx_curBix : (s.modDctx d f).curBix = s.curBix := rfl
@[simp] theorem modDctx_curHeader : (s.modDctx d f).curHeader = s.curHeader := rfl
@[simp] theorem modDctx_curWord : (s.modDctx d f).curWord = s.curWord := rfl
@[simp] theorem modDctx_issued : (s.modDctx d f).issued = s.issued := rfl
@[simp] theorem modDctx_latched : (s.modDctx d f).latched = s.latched := rfl
@[simp] theorem modDctx_ctlOld : (s.modDctx d f).ctlOld = s.ctlOld := rfl
@[simp] theorem modDctx_touched : (s.modDctx d f).touched = s.touched := rfl
@[simp] theorem modDctx_freeCounter : (s.modDctx d f).freeCounter = s.freeCounter := rfl

end modDctx

section modDie

variable (s : State) (d : Fin 4) (f : Die → Die)

@[simp] theorem modDie_now : (s.modDie d f).now = s.now := rfl
@[simp] theorem modDie_power : (s.modDie d f).power = s.power := rfl
@[simp] theorem modDie_mem : (s.modDie d f).mem = s.mem := rfl
@[simp] theorem modDie_cores : (s.modDie d f).cores = s.cores := rfl
@[simp] theorem modDie_dies : (s.modDie d f).dies = s.dies.set d.val (f (s.dies.get d)) d.isLt := rfl
@[simp] theorem modDie_recs : (s.modDie d f).recs = s.recs := rfl
@[simp] theorem modDie_teams : (s.modDie d f).teams = s.teams := rfl
@[simp] theorem modDie_grids : (s.modDie d f).grids = s.grids := rfl
@[simp] theorem modDie_fifo : (s.modDie d f).fifo = s.fifo := rfl
@[simp] theorem modDie_jobs : (s.modDie d f).jobs = s.jobs := rfl
@[simp] theorem modDie_plans : (s.modDie d f).plans = s.plans := rfl
@[simp] theorem modDie_dctxs : (s.modDie d f).dctxs = s.dctxs := rfl
@[simp] theorem modDie_regs : (s.modDie d f).regs = s.regs := rfl
@[simp] theorem modDie_save : (s.modDie d f).save = s.save := rfl
@[simp] theorem modDie_sec : (s.modDie d f).sec = s.sec := rfl
@[simp] theorem modDie_errs : (s.modDie d f).errs = s.errs := rfl
@[simp] theorem modDie_fz : (s.modDie d f).fz = s.fz := rfl
@[simp] theorem modDie_hostMem : (s.modDie d f).hostMem = s.hostMem := rfl
@[simp] theorem modDie_atsGrants : (s.modDie d f).atsGrants = s.atsGrants := rfl
@[simp] theorem modDie_nextId : (s.modDie d f).nextId = s.nextId := rfl
@[simp] theorem modDie_frames : (s.modDie d f).frames = s.frames := rfl
@[simp] theorem modDie_agenda : (s.modDie d f).agenda = s.agenda := rfl
@[simp] theorem modDie_timers : (s.modDie d f).timers = s.timers := rfl
@[simp] theorem modDie_arg : (s.modDie d f).arg = s.arg := rfl
@[simp] theorem modDie_busy : (s.modDie d f).busy = s.busy := rfl
@[simp] theorem modDie_curCore : (s.modDie d f).curCore = s.curCore := rfl
@[simp] theorem modDie_curCtx : (s.modDie d f).curCtx = s.curCtx := rfl
@[simp] theorem modDie_curLeaf : (s.modDie d f).curLeaf = s.curLeaf := rfl
@[simp] theorem modDie_curBix : (s.modDie d f).curBix = s.curBix := rfl
@[simp] theorem modDie_curHeader : (s.modDie d f).curHeader = s.curHeader := rfl
@[simp] theorem modDie_curWord : (s.modDie d f).curWord = s.curWord := rfl
@[simp] theorem modDie_issued : (s.modDie d f).issued = s.issued := rfl
@[simp] theorem modDie_latched : (s.modDie d f).latched = s.latched := rfl
@[simp] theorem modDie_ctlOld : (s.modDie d f).ctlOld = s.ctlOld := rfl
@[simp] theorem modDie_touched : (s.modDie d f).touched = s.touched := rfl
@[simp] theorem modDie_freeCounter : (s.modDie d f).freeCounter = s.freeCounter := rfl

end modDie

section modMem

variable (s : State) (f : MemSys → MemSys)

@[simp] theorem modMem_now : (s.modMem f).now = s.now := rfl
@[simp] theorem modMem_power : (s.modMem f).power = s.power := rfl
@[simp] theorem modMem_mem : (s.modMem f).mem = f s.mem := rfl
@[simp] theorem modMem_cores : (s.modMem f).cores = s.cores := rfl
@[simp] theorem modMem_dies : (s.modMem f).dies = s.dies := rfl
@[simp] theorem modMem_recs : (s.modMem f).recs = s.recs := rfl
@[simp] theorem modMem_teams : (s.modMem f).teams = s.teams := rfl
@[simp] theorem modMem_grids : (s.modMem f).grids = s.grids := rfl
@[simp] theorem modMem_fifo : (s.modMem f).fifo = s.fifo := rfl
@[simp] theorem modMem_jobs : (s.modMem f).jobs = s.jobs := rfl
@[simp] theorem modMem_plans : (s.modMem f).plans = s.plans := rfl
@[simp] theorem modMem_dctxs : (s.modMem f).dctxs = s.dctxs := rfl
@[simp] theorem modMem_regs : (s.modMem f).regs = s.regs := rfl
@[simp] theorem modMem_save : (s.modMem f).save = s.save := rfl
@[simp] theorem modMem_sec : (s.modMem f).sec = s.sec := rfl
@[simp] theorem modMem_errs : (s.modMem f).errs = s.errs := rfl
@[simp] theorem modMem_fz : (s.modMem f).fz = s.fz := rfl
@[simp] theorem modMem_hostMem : (s.modMem f).hostMem = s.hostMem := rfl
@[simp] theorem modMem_atsGrants : (s.modMem f).atsGrants = s.atsGrants := rfl
@[simp] theorem modMem_nextId : (s.modMem f).nextId = s.nextId := rfl
@[simp] theorem modMem_frames : (s.modMem f).frames = s.frames := rfl
@[simp] theorem modMem_agenda : (s.modMem f).agenda = s.agenda := rfl
@[simp] theorem modMem_timers : (s.modMem f).timers = s.timers := rfl
@[simp] theorem modMem_arg : (s.modMem f).arg = s.arg := rfl
@[simp] theorem modMem_busy : (s.modMem f).busy = s.busy := rfl
@[simp] theorem modMem_curCore : (s.modMem f).curCore = s.curCore := rfl
@[simp] theorem modMem_curCtx : (s.modMem f).curCtx = s.curCtx := rfl
@[simp] theorem modMem_curLeaf : (s.modMem f).curLeaf = s.curLeaf := rfl
@[simp] theorem modMem_curBix : (s.modMem f).curBix = s.curBix := rfl
@[simp] theorem modMem_curHeader : (s.modMem f).curHeader = s.curHeader := rfl
@[simp] theorem modMem_curWord : (s.modMem f).curWord = s.curWord := rfl
@[simp] theorem modMem_issued : (s.modMem f).issued = s.issued := rfl
@[simp] theorem modMem_latched : (s.modMem f).latched = s.latched := rfl
@[simp] theorem modMem_ctlOld : (s.modMem f).ctlOld = s.ctlOld := rfl
@[simp] theorem modMem_touched : (s.modMem f).touched = s.touched := rfl
@[simp] theorem modMem_freeCounter : (s.modMem f).freeCounter = s.freeCounter := rfl

end modMem

section modFz

variable (s : State) (f : Finzon → Finzon)

@[simp] theorem modFz_now : (s.modFz f).now = s.now := rfl
@[simp] theorem modFz_power : (s.modFz f).power = s.power := rfl
@[simp] theorem modFz_mem : (s.modFz f).mem = s.mem := rfl
@[simp] theorem modFz_cores : (s.modFz f).cores = s.cores := rfl
@[simp] theorem modFz_dies : (s.modFz f).dies = s.dies := rfl
@[simp] theorem modFz_recs : (s.modFz f).recs = s.recs := rfl
@[simp] theorem modFz_teams : (s.modFz f).teams = s.teams := rfl
@[simp] theorem modFz_grids : (s.modFz f).grids = s.grids := rfl
@[simp] theorem modFz_fifo : (s.modFz f).fifo = s.fifo := rfl
@[simp] theorem modFz_jobs : (s.modFz f).jobs = s.jobs := rfl
@[simp] theorem modFz_plans : (s.modFz f).plans = s.plans := rfl
@[simp] theorem modFz_dctxs : (s.modFz f).dctxs = s.dctxs := rfl
@[simp] theorem modFz_regs : (s.modFz f).regs = s.regs := rfl
@[simp] theorem modFz_save : (s.modFz f).save = s.save := rfl
@[simp] theorem modFz_sec : (s.modFz f).sec = s.sec := rfl
@[simp] theorem modFz_errs : (s.modFz f).errs = s.errs := rfl
@[simp] theorem modFz_fz : (s.modFz f).fz = f s.fz := rfl
@[simp] theorem modFz_hostMem : (s.modFz f).hostMem = s.hostMem := rfl
@[simp] theorem modFz_atsGrants : (s.modFz f).atsGrants = s.atsGrants := rfl
@[simp] theorem modFz_nextId : (s.modFz f).nextId = s.nextId := rfl
@[simp] theorem modFz_frames : (s.modFz f).frames = s.frames := rfl
@[simp] theorem modFz_agenda : (s.modFz f).agenda = s.agenda := rfl
@[simp] theorem modFz_timers : (s.modFz f).timers = s.timers := rfl
@[simp] theorem modFz_arg : (s.modFz f).arg = s.arg := rfl
@[simp] theorem modFz_busy : (s.modFz f).busy = s.busy := rfl
@[simp] theorem modFz_curCore : (s.modFz f).curCore = s.curCore := rfl
@[simp] theorem modFz_curCtx : (s.modFz f).curCtx = s.curCtx := rfl
@[simp] theorem modFz_curLeaf : (s.modFz f).curLeaf = s.curLeaf := rfl
@[simp] theorem modFz_curBix : (s.modFz f).curBix = s.curBix := rfl
@[simp] theorem modFz_curHeader : (s.modFz f).curHeader = s.curHeader := rfl
@[simp] theorem modFz_curWord : (s.modFz f).curWord = s.curWord := rfl
@[simp] theorem modFz_issued : (s.modFz f).issued = s.issued := rfl
@[simp] theorem modFz_latched : (s.modFz f).latched = s.latched := rfl
@[simp] theorem modFz_ctlOld : (s.modFz f).ctlOld = s.ctlOld := rfl
@[simp] theorem modFz_touched : (s.modFz f).touched = s.touched := rfl
@[simp] theorem modFz_freeCounter : (s.modFz f).freeCounter = s.freeCounter := rfl

end modFz

section modSec

variable (s : State) (f : Security → Security)

@[simp] theorem modSec_now : (s.modSec f).now = s.now := rfl
@[simp] theorem modSec_power : (s.modSec f).power = s.power := rfl
@[simp] theorem modSec_mem : (s.modSec f).mem = s.mem := rfl
@[simp] theorem modSec_cores : (s.modSec f).cores = s.cores := rfl
@[simp] theorem modSec_dies : (s.modSec f).dies = s.dies := rfl
@[simp] theorem modSec_recs : (s.modSec f).recs = s.recs := rfl
@[simp] theorem modSec_teams : (s.modSec f).teams = s.teams := rfl
@[simp] theorem modSec_grids : (s.modSec f).grids = s.grids := rfl
@[simp] theorem modSec_fifo : (s.modSec f).fifo = s.fifo := rfl
@[simp] theorem modSec_jobs : (s.modSec f).jobs = s.jobs := rfl
@[simp] theorem modSec_plans : (s.modSec f).plans = s.plans := rfl
@[simp] theorem modSec_dctxs : (s.modSec f).dctxs = s.dctxs := rfl
@[simp] theorem modSec_regs : (s.modSec f).regs = s.regs := rfl
@[simp] theorem modSec_save : (s.modSec f).save = s.save := rfl
@[simp] theorem modSec_sec : (s.modSec f).sec = f s.sec := rfl
@[simp] theorem modSec_errs : (s.modSec f).errs = s.errs := rfl
@[simp] theorem modSec_fz : (s.modSec f).fz = s.fz := rfl
@[simp] theorem modSec_hostMem : (s.modSec f).hostMem = s.hostMem := rfl
@[simp] theorem modSec_atsGrants : (s.modSec f).atsGrants = s.atsGrants := rfl
@[simp] theorem modSec_nextId : (s.modSec f).nextId = s.nextId := rfl
@[simp] theorem modSec_frames : (s.modSec f).frames = s.frames := rfl
@[simp] theorem modSec_agenda : (s.modSec f).agenda = s.agenda := rfl
@[simp] theorem modSec_timers : (s.modSec f).timers = s.timers := rfl
@[simp] theorem modSec_arg : (s.modSec f).arg = s.arg := rfl
@[simp] theorem modSec_busy : (s.modSec f).busy = s.busy := rfl
@[simp] theorem modSec_curCore : (s.modSec f).curCore = s.curCore := rfl
@[simp] theorem modSec_curCtx : (s.modSec f).curCtx = s.curCtx := rfl
@[simp] theorem modSec_curLeaf : (s.modSec f).curLeaf = s.curLeaf := rfl
@[simp] theorem modSec_curBix : (s.modSec f).curBix = s.curBix := rfl
@[simp] theorem modSec_curHeader : (s.modSec f).curHeader = s.curHeader := rfl
@[simp] theorem modSec_curWord : (s.modSec f).curWord = s.curWord := rfl
@[simp] theorem modSec_issued : (s.modSec f).issued = s.issued := rfl
@[simp] theorem modSec_latched : (s.modSec f).latched = s.latched := rfl
@[simp] theorem modSec_ctlOld : (s.modSec f).ctlOld = s.ctlOld := rfl
@[simp] theorem modSec_touched : (s.modSec f).touched = s.touched := rfl
@[simp] theorem modSec_freeCounter : (s.modSec f).freeCounter = s.freeCounter := rfl

end modSec

section atCtx

variable (s : State) (c : Fin 192) (x : Fin 4)

@[simp] theorem atCtx_now : (s.at_ c x).now = s.now := rfl
@[simp] theorem atCtx_power : (s.at_ c x).power = s.power := rfl
@[simp] theorem atCtx_mem : (s.at_ c x).mem = s.mem := rfl
@[simp] theorem atCtx_cores : (s.at_ c x).cores = s.cores := rfl
@[simp] theorem atCtx_dies : (s.at_ c x).dies = s.dies := rfl
@[simp] theorem atCtx_recs : (s.at_ c x).recs = s.recs := rfl
@[simp] theorem atCtx_teams : (s.at_ c x).teams = s.teams := rfl
@[simp] theorem atCtx_grids : (s.at_ c x).grids = s.grids := rfl
@[simp] theorem atCtx_fifo : (s.at_ c x).fifo = s.fifo := rfl
@[simp] theorem atCtx_jobs : (s.at_ c x).jobs = s.jobs := rfl
@[simp] theorem atCtx_plans : (s.at_ c x).plans = s.plans := rfl
@[simp] theorem atCtx_dctxs : (s.at_ c x).dctxs = s.dctxs := rfl
@[simp] theorem atCtx_regs : (s.at_ c x).regs = s.regs := rfl
@[simp] theorem atCtx_save : (s.at_ c x).save = s.save := rfl
@[simp] theorem atCtx_sec : (s.at_ c x).sec = s.sec := rfl
@[simp] theorem atCtx_errs : (s.at_ c x).errs = s.errs := rfl
@[simp] theorem atCtx_fz : (s.at_ c x).fz = s.fz := rfl
@[simp] theorem atCtx_hostMem : (s.at_ c x).hostMem = s.hostMem := rfl
@[simp] theorem atCtx_atsGrants : (s.at_ c x).atsGrants = s.atsGrants := rfl
@[simp] theorem atCtx_nextId : (s.at_ c x).nextId = s.nextId := rfl
@[simp] theorem atCtx_frames : (s.at_ c x).frames = s.frames := rfl
@[simp] theorem atCtx_agenda : (s.at_ c x).agenda = s.agenda := rfl
@[simp] theorem atCtx_timers : (s.at_ c x).timers = s.timers := rfl
@[simp] theorem atCtx_arg : (s.at_ c x).arg = s.arg := rfl
@[simp] theorem atCtx_busy : (s.at_ c x).busy = s.busy := rfl
@[simp] theorem atCtx_curCore : (s.at_ c x).curCore = c := rfl
@[simp] theorem atCtx_curCtx : (s.at_ c x).curCtx = x := rfl
@[simp] theorem atCtx_curLeaf : (s.at_ c x).curLeaf = s.curLeaf := rfl
@[simp] theorem atCtx_curBix : (s.at_ c x).curBix = s.curBix := rfl
@[simp] theorem atCtx_curHeader : (s.at_ c x).curHeader = s.curHeader := rfl
@[simp] theorem atCtx_curWord : (s.at_ c x).curWord = s.curWord := rfl
@[simp] theorem atCtx_issued : (s.at_ c x).issued = s.issued := rfl
@[simp] theorem atCtx_latched : (s.at_ c x).latched = s.latched := rfl
@[simp] theorem atCtx_ctlOld : (s.at_ c x).ctlOld = s.ctlOld := rfl
@[simp] theorem atCtx_touched : (s.at_ c x).touched = s.touched := rfl
@[simp] theorem atCtx_freeCounter : (s.at_ c x).freeCounter = s.freeCounter := rfl

end atCtx

section post

variable (s : State) (e : Instr) (a : EvArgs)

@[simp] theorem post_now : (s.post e a).now = s.now := rfl
@[simp] theorem post_power : (s.post e a).power = s.power := rfl
@[simp] theorem post_mem : (s.post e a).mem = s.mem := rfl
@[simp] theorem post_cores : (s.post e a).cores = s.cores := rfl
@[simp] theorem post_dies : (s.post e a).dies = s.dies := rfl
@[simp] theorem post_recs : (s.post e a).recs = s.recs := rfl
@[simp] theorem post_teams : (s.post e a).teams = s.teams := rfl
@[simp] theorem post_grids : (s.post e a).grids = s.grids := rfl
@[simp] theorem post_fifo : (s.post e a).fifo = s.fifo := rfl
@[simp] theorem post_jobs : (s.post e a).jobs = s.jobs := rfl
@[simp] theorem post_plans : (s.post e a).plans = s.plans := rfl
@[simp] theorem post_dctxs : (s.post e a).dctxs = s.dctxs := rfl
@[simp] theorem post_regs : (s.post e a).regs = s.regs := rfl
@[simp] theorem post_save : (s.post e a).save = s.save := rfl
@[simp] theorem post_sec : (s.post e a).sec = s.sec := rfl
@[simp] theorem post_errs : (s.post e a).errs = s.errs := rfl
@[simp] theorem post_fz : (s.post e a).fz = s.fz := rfl
@[simp] theorem post_hostMem : (s.post e a).hostMem = s.hostMem := rfl
@[simp] theorem post_atsGrants : (s.post e a).atsGrants = s.atsGrants := rfl
@[simp] theorem post_nextId : (s.post e a).nextId = s.nextId := rfl
@[simp] theorem post_frames : (s.post e a).frames = s.frames := rfl
@[simp] theorem post_agenda : (s.post e a).agenda = s.agenda ++ [(e, a)] := rfl
@[simp] theorem post_timers : (s.post e a).timers = s.timers := rfl
@[simp] theorem post_arg : (s.post e a).arg = s.arg := rfl
@[simp] theorem post_busy : (s.post e a).busy = s.busy := rfl
@[simp] theorem post_curCore : (s.post e a).curCore = s.curCore := rfl
@[simp] theorem post_curCtx : (s.post e a).curCtx = s.curCtx := rfl
@[simp] theorem post_curLeaf : (s.post e a).curLeaf = s.curLeaf := rfl
@[simp] theorem post_curBix : (s.post e a).curBix = s.curBix := rfl
@[simp] theorem post_curHeader : (s.post e a).curHeader = s.curHeader := rfl
@[simp] theorem post_curWord : (s.post e a).curWord = s.curWord := rfl
@[simp] theorem post_issued : (s.post e a).issued = s.issued := rfl
@[simp] theorem post_latched : (s.post e a).latched = s.latched := rfl
@[simp] theorem post_ctlOld : (s.post e a).ctlOld = s.ctlOld := rfl
@[simp] theorem post_touched : (s.post e a).touched = s.touched := rfl
@[simp] theorem post_freeCounter : (s.post e a).freeCounter = s.freeCounter := rfl

end post

section postFirst

variable (s : State) (e : Instr) (a : EvArgs)

@[simp] theorem postFirst_now : (s.postFirst e a).now = s.now := rfl
@[simp] theorem postFirst_power : (s.postFirst e a).power = s.power := rfl
@[simp] theorem postFirst_mem : (s.postFirst e a).mem = s.mem := rfl
@[simp] theorem postFirst_cores : (s.postFirst e a).cores = s.cores := rfl
@[simp] theorem postFirst_dies : (s.postFirst e a).dies = s.dies := rfl
@[simp] theorem postFirst_recs : (s.postFirst e a).recs = s.recs := rfl
@[simp] theorem postFirst_teams : (s.postFirst e a).teams = s.teams := rfl
@[simp] theorem postFirst_grids : (s.postFirst e a).grids = s.grids := rfl
@[simp] theorem postFirst_fifo : (s.postFirst e a).fifo = s.fifo := rfl
@[simp] theorem postFirst_jobs : (s.postFirst e a).jobs = s.jobs := rfl
@[simp] theorem postFirst_plans : (s.postFirst e a).plans = s.plans := rfl
@[simp] theorem postFirst_dctxs : (s.postFirst e a).dctxs = s.dctxs := rfl
@[simp] theorem postFirst_regs : (s.postFirst e a).regs = s.regs := rfl
@[simp] theorem postFirst_save : (s.postFirst e a).save = s.save := rfl
@[simp] theorem postFirst_sec : (s.postFirst e a).sec = s.sec := rfl
@[simp] theorem postFirst_errs : (s.postFirst e a).errs = s.errs := rfl
@[simp] theorem postFirst_fz : (s.postFirst e a).fz = s.fz := rfl
@[simp] theorem postFirst_hostMem : (s.postFirst e a).hostMem = s.hostMem := rfl
@[simp] theorem postFirst_atsGrants : (s.postFirst e a).atsGrants = s.atsGrants := rfl
@[simp] theorem postFirst_nextId : (s.postFirst e a).nextId = s.nextId := rfl
@[simp] theorem postFirst_frames : (s.postFirst e a).frames = s.frames := rfl
@[simp] theorem postFirst_agenda : (s.postFirst e a).agenda = (e, a) :: s.agenda := rfl
@[simp] theorem postFirst_timers : (s.postFirst e a).timers = s.timers := rfl
@[simp] theorem postFirst_arg : (s.postFirst e a).arg = s.arg := rfl
@[simp] theorem postFirst_busy : (s.postFirst e a).busy = s.busy := rfl
@[simp] theorem postFirst_curCore : (s.postFirst e a).curCore = s.curCore := rfl
@[simp] theorem postFirst_curCtx : (s.postFirst e a).curCtx = s.curCtx := rfl
@[simp] theorem postFirst_curLeaf : (s.postFirst e a).curLeaf = s.curLeaf := rfl
@[simp] theorem postFirst_curBix : (s.postFirst e a).curBix = s.curBix := rfl
@[simp] theorem postFirst_curHeader : (s.postFirst e a).curHeader = s.curHeader := rfl
@[simp] theorem postFirst_curWord : (s.postFirst e a).curWord = s.curWord := rfl
@[simp] theorem postFirst_issued : (s.postFirst e a).issued = s.issued := rfl
@[simp] theorem postFirst_latched : (s.postFirst e a).latched = s.latched := rfl
@[simp] theorem postFirst_ctlOld : (s.postFirst e a).ctlOld = s.ctlOld := rfl
@[simp] theorem postFirst_touched : (s.postFirst e a).touched = s.touched := rfl
@[simp] theorem postFirst_freeCounter : (s.postFirst e a).freeCounter = s.freeCounter := rfl

end postFirst

section timer

variable (s : State) (t : Nat) (e : Instr) (a : EvArgs)

@[simp] theorem timer_now : (s.timer t e a).now = s.now := rfl
@[simp] theorem timer_power : (s.timer t e a).power = s.power := rfl
@[simp] theorem timer_mem : (s.timer t e a).mem = s.mem := rfl
@[simp] theorem timer_cores : (s.timer t e a).cores = s.cores := rfl
@[simp] theorem timer_dies : (s.timer t e a).dies = s.dies := rfl
@[simp] theorem timer_recs : (s.timer t e a).recs = s.recs := rfl
@[simp] theorem timer_teams : (s.timer t e a).teams = s.teams := rfl
@[simp] theorem timer_grids : (s.timer t e a).grids = s.grids := rfl
@[simp] theorem timer_fifo : (s.timer t e a).fifo = s.fifo := rfl
@[simp] theorem timer_jobs : (s.timer t e a).jobs = s.jobs := rfl
@[simp] theorem timer_plans : (s.timer t e a).plans = s.plans := rfl
@[simp] theorem timer_dctxs : (s.timer t e a).dctxs = s.dctxs := rfl
@[simp] theorem timer_regs : (s.timer t e a).regs = s.regs := rfl
@[simp] theorem timer_save : (s.timer t e a).save = s.save := rfl
@[simp] theorem timer_sec : (s.timer t e a).sec = s.sec := rfl
@[simp] theorem timer_errs : (s.timer t e a).errs = s.errs := rfl
@[simp] theorem timer_fz : (s.timer t e a).fz = s.fz := rfl
@[simp] theorem timer_hostMem : (s.timer t e a).hostMem = s.hostMem := rfl
@[simp] theorem timer_atsGrants : (s.timer t e a).atsGrants = s.atsGrants := rfl
@[simp] theorem timer_nextId : (s.timer t e a).nextId = s.nextId := rfl
@[simp] theorem timer_frames : (s.timer t e a).frames = s.frames := rfl
@[simp] theorem timer_agenda : (s.timer t e a).agenda = s.agenda := rfl
@[simp] theorem timer_timers : (s.timer t e a).timers = s.timers ++ [(s.now + t, e, a)] := rfl
@[simp] theorem timer_arg : (s.timer t e a).arg = s.arg := rfl
@[simp] theorem timer_busy : (s.timer t e a).busy = s.busy := rfl
@[simp] theorem timer_curCore : (s.timer t e a).curCore = s.curCore := rfl
@[simp] theorem timer_curCtx : (s.timer t e a).curCtx = s.curCtx := rfl
@[simp] theorem timer_curLeaf : (s.timer t e a).curLeaf = s.curLeaf := rfl
@[simp] theorem timer_curBix : (s.timer t e a).curBix = s.curBix := rfl
@[simp] theorem timer_curHeader : (s.timer t e a).curHeader = s.curHeader := rfl
@[simp] theorem timer_curWord : (s.timer t e a).curWord = s.curWord := rfl
@[simp] theorem timer_issued : (s.timer t e a).issued = s.issued := rfl
@[simp] theorem timer_latched : (s.timer t e a).latched = s.latched := rfl
@[simp] theorem timer_ctlOld : (s.timer t e a).ctlOld = s.ctlOld := rfl
@[simp] theorem timer_touched : (s.timer t e a).touched = s.touched := rfl
@[simp] theorem timer_freeCounter : (s.timer t e a).freeCounter = s.freeCounter := rfl

end timer

section fresh

variable (s : State)

@[simp] theorem fresh_now : s.fresh.2.now = s.now := rfl
@[simp] theorem fresh_power : s.fresh.2.power = s.power := rfl
@[simp] theorem fresh_mem : s.fresh.2.mem = s.mem := rfl
@[simp] theorem fresh_cores : s.fresh.2.cores = s.cores := rfl
@[simp] theorem fresh_dies : s.fresh.2.dies = s.dies := rfl
@[simp] theorem fresh_recs : s.fresh.2.recs = s.recs := rfl
@[simp] theorem fresh_teams : s.fresh.2.teams = s.teams := rfl
@[simp] theorem fresh_grids : s.fresh.2.grids = s.grids := rfl
@[simp] theorem fresh_fifo : s.fresh.2.fifo = s.fifo := rfl
@[simp] theorem fresh_jobs : s.fresh.2.jobs = s.jobs := rfl
@[simp] theorem fresh_plans : s.fresh.2.plans = s.plans := rfl
@[simp] theorem fresh_dctxs : s.fresh.2.dctxs = s.dctxs := rfl
@[simp] theorem fresh_regs : s.fresh.2.regs = s.regs := rfl
@[simp] theorem fresh_save : s.fresh.2.save = s.save := rfl
@[simp] theorem fresh_sec : s.fresh.2.sec = s.sec := rfl
@[simp] theorem fresh_errs : s.fresh.2.errs = s.errs := rfl
@[simp] theorem fresh_fz : s.fresh.2.fz = s.fz := rfl
@[simp] theorem fresh_hostMem : s.fresh.2.hostMem = s.hostMem := rfl
@[simp] theorem fresh_atsGrants : s.fresh.2.atsGrants = s.atsGrants := rfl
@[simp] theorem fresh_nextId : s.fresh.2.nextId = s.nextId + 1 := rfl
@[simp] theorem fresh_frames : s.fresh.2.frames = s.frames := rfl
@[simp] theorem fresh_agenda : s.fresh.2.agenda = s.agenda := rfl
@[simp] theorem fresh_timers : s.fresh.2.timers = s.timers := rfl
@[simp] theorem fresh_arg : s.fresh.2.arg = s.arg := rfl
@[simp] theorem fresh_busy : s.fresh.2.busy = s.busy := rfl
@[simp] theorem fresh_curCore : s.fresh.2.curCore = s.curCore := rfl
@[simp] theorem fresh_curCtx : s.fresh.2.curCtx = s.curCtx := rfl
@[simp] theorem fresh_curLeaf : s.fresh.2.curLeaf = s.curLeaf := rfl
@[simp] theorem fresh_curBix : s.fresh.2.curBix = s.curBix := rfl
@[simp] theorem fresh_curHeader : s.fresh.2.curHeader = s.curHeader := rfl
@[simp] theorem fresh_curWord : s.fresh.2.curWord = s.curWord := rfl
@[simp] theorem fresh_issued : s.fresh.2.issued = s.issued := rfl
@[simp] theorem fresh_latched : s.fresh.2.latched = s.latched := rfl
@[simp] theorem fresh_ctlOld : s.fresh.2.ctlOld = s.ctlOld := rfl
@[simp] theorem fresh_touched : s.fresh.2.touched = s.touched := rfl
@[simp] theorem fresh_freeCounter : s.fresh.2.freeCounter = s.freeCounter := rfl

end fresh

section free

variable (s : State)

@[simp] theorem free_now : s.free.2.now = s.now := rfl
@[simp] theorem free_power : s.free.2.power = s.power := rfl
@[simp] theorem free_mem : s.free.2.mem = s.mem := rfl
@[simp] theorem free_cores : s.free.2.cores = s.cores := rfl
@[simp] theorem free_dies : s.free.2.dies = s.dies := rfl
@[simp] theorem free_recs : s.free.2.recs = s.recs := rfl
@[simp] theorem free_teams : s.free.2.teams = s.teams := rfl
@[simp] theorem free_grids : s.free.2.grids = s.grids := rfl
@[simp] theorem free_fifo : s.free.2.fifo = s.fifo := rfl
@[simp] theorem free_jobs : s.free.2.jobs = s.jobs := rfl
@[simp] theorem free_plans : s.free.2.plans = s.plans := rfl
@[simp] theorem free_dctxs : s.free.2.dctxs = s.dctxs := rfl
@[simp] theorem free_regs : s.free.2.regs = s.regs := rfl
@[simp] theorem free_save : s.free.2.save = s.save := rfl
@[simp] theorem free_sec : s.free.2.sec = s.sec := rfl
@[simp] theorem free_errs : s.free.2.errs = s.errs := rfl
@[simp] theorem free_fz : s.free.2.fz = s.fz := rfl
@[simp] theorem free_hostMem : s.free.2.hostMem = s.hostMem := rfl
@[simp] theorem free_atsGrants : s.free.2.atsGrants = s.atsGrants := rfl
@[simp] theorem free_nextId : s.free.2.nextId = s.nextId := rfl
@[simp] theorem free_frames : s.free.2.frames = s.frames := rfl
@[simp] theorem free_agenda : s.free.2.agenda = s.agenda := rfl
@[simp] theorem free_timers : s.free.2.timers = s.timers := rfl
@[simp] theorem free_arg : s.free.2.arg = s.arg := rfl
@[simp] theorem free_busy : s.free.2.busy = s.busy := rfl
@[simp] theorem free_curCore : s.free.2.curCore = s.curCore := rfl
@[simp] theorem free_curCtx : s.free.2.curCtx = s.curCtx := rfl
@[simp] theorem free_curLeaf : s.free.2.curLeaf = s.curLeaf := rfl
@[simp] theorem free_curBix : s.free.2.curBix = s.curBix := rfl
@[simp] theorem free_curHeader : s.free.2.curHeader = s.curHeader := rfl
@[simp] theorem free_curWord : s.free.2.curWord = s.curWord := rfl
@[simp] theorem free_issued : s.free.2.issued = s.issued := rfl
@[simp] theorem free_latched : s.free.2.latched = s.latched := rfl
@[simp] theorem free_ctlOld : s.free.2.ctlOld = s.ctlOld := rfl
@[simp] theorem free_touched : s.free.2.touched = s.touched := rfl
@[simp] theorem free_freeCounter : s.free.2.freeCounter = s.freeCounter + 1 := rfl

end free

section result

variable (c : Ctx) (slot lat : Nat) (d : Dest) (ws : Bool) (data mask : VReg) (g : Option Degen)

@[simp] theorem ctx_result_phase : (c.result slot lat d ws data mask g).phase = c.phase := rfl
@[simp] theorem ctx_result_recVa : (c.result slot lat d ws data mask g).recVa = c.recVa := rfl
@[simp] theorem ctx_result_s : (c.result slot lat d ws data mask g).s = c.s := rfl
@[simp] theorem ctx_result_v : (c.result slot lat d ws data mask g).v = c.v := rfl
@[simp] theorem ctx_result_k : (c.result slot lat d ws data mask g).k = c.k := rfl
@[simp] theorem ctx_result_os : (c.result slot lat d ws data mask g).os = c.os := rfl
@[simp] theorem ctx_result_ov : (c.result slot lat d ws data mask g).ov = c.ov := rfl
@[simp] theorem ctx_result_last : (c.result slot lat d ws data mask g).last = c.last := rfl
@[simp] theorem ctx_result_latches : (c.result slot lat d ws data mask g).latches = if d = .cq then c.latches else c.latches ++ [{ slot := slot, age := 0, lat := lat, data := data }] := rfl
@[simp] theorem ctx_result_cq : (c.result slot lat d ws data mask g).cq = c.cq := rfl
@[simp] theorem ctx_result_loops : (c.result slot lat d ws data mask g).loops = c.loops := rfl
@[simp] theorem ctx_result_pipe : (c.result slot lat d ws data mask g).pipe = c.pipe ++ [{ slot := slot, lat := lat, left := lat, dest := d, ws := ws, data := data, wmask := mask, degen := g }] := rfl
@[simp] theorem ctx_result_long : (c.result slot lat d ws data mask g).long = c.long := rfl
@[simp] theorem ctx_result_seg : (c.result slot lat d ws data mask g).seg = c.seg := rfl
@[simp] theorem ctx_result_bix : (c.result slot lat d ws data mask g).bix = c.bix := rfl
@[simp] theorem ctx_result_mark : (c.result slot lat d ws data mask g).mark = c.mark := rfl
@[simp] theorem ctx_result_cause : (c.result slot lat d ws data mask g).cause = c.cause := rfl
@[simp] theorem ctx_result_hm : (c.result slot lat d ws data mask g).hm = c.hm := rfl
@[simp] theorem ctx_result_rm : (c.result slot lat d ws data mask g).rm = c.rm := rfl
@[simp] theorem ctx_result_ftz : (c.result slot lat d ws data mask g).ftz = c.ftz := rfl
@[simp] theorem ctx_result_atb : (c.result slot lat d ws data mask g).atb = c.atb := rfl
@[simp] theorem ctx_result_rpln : (c.result slot lat d ws data mask g).rpln = c.rpln := rfl
@[simp] theorem ctx_result_leaveStall : (c.result slot lat d ws data mask g).leaveStall = c.leaveStall := rfl
@[simp] theorem ctx_result_subst : (c.result slot lat d ws data mask g).subst = c.subst := rfl
@[simp] theorem ctx_result_gateDegen : (c.result slot lat d ws data mask g).gateDegen = c.gateDegen := rfl
@[simp] theorem ctx_result_evl : (c.result slot lat d ws data mask g).evl = c.evl := rfl
@[simp] theorem ctx_result_hp : (c.result slot lat d ws data mask g).hp = c.hp := rfl
@[simp] theorem ctx_result_icnt : (c.result slot lat d ws data mask g).icnt = c.icnt := rfl
@[simp] theorem ctx_result_wait : (c.result slot lat d ws data mask g).wait = c.wait := rfl
@[simp] theorem ctx_result_deferred : (c.result slot lat d ws data mask g).deferred = c.deferred := rfl
@[simp] theorem ctx_result_deferredRest : (c.result slot lat d ws data mask g).deferredRest = c.deferredRest := rfl
@[simp] theorem ctx_result_async : (c.result slot lat d ws data mask g).async = c.async := rfl
@[simp] theorem ctx_result_replays : (c.result slot lat d ws data mask g).replays = c.replays := rfl
@[simp] theorem ctx_result_replayCause : (c.result slot lat d ws data mask g).replayCause = c.replayCause := rfl
@[simp] theorem ctx_result_replayBix : (c.result slot lat d ws data mask g).replayBix = c.replayBix := rfl
@[simp] theorem ctx_result_replayAt : (c.result slot lat d ws data mask g).replayAt = c.replayAt := rfl
@[simp] theorem ctx_result_stall : (c.result slot lat d ws data mask g).stall = c.stall := rfl
@[simp] theorem ctx_result_capCycles : (c.result slot lat d ws data mask g).capCycles = c.capCycles := rfl
@[simp] theorem ctx_result_filter : (c.result slot lat d ws data mask g).filter = c.filter := rfl
@[simp] theorem ctx_result_reserve : (c.result slot lat d ws data mask g).reserve = c.reserve := rfl
@[simp] theorem ctx_result_grant : (c.result slot lat d ws data mask g).grant = c.grant := rfl
@[simp] theorem ctx_result_issuedSince : (c.result slot lat d ws data mask g).issuedSince = c.issuedSince := rfl
@[simp] theorem ctx_result_readySince : (c.result slot lat d ws data mask g).readySince = c.readySince := rfl
@[simp] theorem ctx_result_waitSince : (c.result slot lat d ws data mask g).waitSince = c.waitSince := rfl
@[simp] theorem ctx_result_mstat : (c.result slot lat d ws data mask g).mstat = c.mstat := rfl
@[simp] theorem ctx_result_reacquire : (c.result slot lat d ws data mask g).reacquire = c.reacquire := rfl
@[simp] theorem ctx_result_rereserve : (c.result slot lat d ws data mask g).rereserve = c.rereserve := rfl
@[simp] theorem ctx_result_leaving : (c.result slot lat d ws data mask g).leaving = c.leaving := rfl
@[simp] theorem ctx_result_stopping : (c.result slot lat d ws data mask g).stopping = c.stopping := rfl
@[simp] theorem ctx_result_halting : (c.result slot lat d ws data mask g).halting = c.halting := rfl

end result

section setV

variable (c : Ctx) (n : Fin 64) (y : VReg)

@[simp] theorem ctx_setV_phase : (c.setV n y).phase = c.phase := rfl
@[simp] theorem ctx_setV_recVa : (c.setV n y).recVa = c.recVa := rfl
@[simp] theorem ctx_setV_s : (c.setV n y).s = c.s := rfl
@[simp] theorem ctx_setV_v : (c.setV n y).v = c.v.set n.val y n.isLt := rfl
@[simp] theorem ctx_setV_k : (c.setV n y).k = c.k := rfl
@[simp] theorem ctx_setV_os : (c.setV n y).os = c.os := rfl
@[simp] theorem ctx_setV_ov : (c.setV n y).ov = c.ov := rfl
@[simp] theorem ctx_setV_last : (c.setV n y).last = c.last := rfl
@[simp] theorem ctx_setV_latches : (c.setV n y).latches = c.latches := rfl
@[simp] theorem ctx_setV_cq : (c.setV n y).cq = c.cq := rfl
@[simp] theorem ctx_setV_loops : (c.setV n y).loops = c.loops := rfl
@[simp] theorem ctx_setV_pipe : (c.setV n y).pipe = c.pipe := rfl
@[simp] theorem ctx_setV_long : (c.setV n y).long = c.long := rfl
@[simp] theorem ctx_setV_seg : (c.setV n y).seg = c.seg := rfl
@[simp] theorem ctx_setV_bix : (c.setV n y).bix = c.bix := rfl
@[simp] theorem ctx_setV_mark : (c.setV n y).mark = c.mark := rfl
@[simp] theorem ctx_setV_cause : (c.setV n y).cause = c.cause := rfl
@[simp] theorem ctx_setV_hm : (c.setV n y).hm = c.hm := rfl
@[simp] theorem ctx_setV_rm : (c.setV n y).rm = c.rm := rfl
@[simp] theorem ctx_setV_ftz : (c.setV n y).ftz = c.ftz := rfl
@[simp] theorem ctx_setV_atb : (c.setV n y).atb = c.atb := rfl
@[simp] theorem ctx_setV_rpln : (c.setV n y).rpln = c.rpln := rfl
@[simp] theorem ctx_setV_leaveStall : (c.setV n y).leaveStall = c.leaveStall := rfl
@[simp] theorem ctx_setV_subst : (c.setV n y).subst = c.subst := rfl
@[simp] theorem ctx_setV_gateDegen : (c.setV n y).gateDegen = c.gateDegen := rfl
@[simp] theorem ctx_setV_evl : (c.setV n y).evl = c.evl := rfl
@[simp] theorem ctx_setV_hp : (c.setV n y).hp = c.hp := rfl
@[simp] theorem ctx_setV_icnt : (c.setV n y).icnt = c.icnt := rfl
@[simp] theorem ctx_setV_wait : (c.setV n y).wait = c.wait := rfl
@[simp] theorem ctx_setV_deferred : (c.setV n y).deferred = c.deferred := rfl
@[simp] theorem ctx_setV_deferredRest : (c.setV n y).deferredRest = c.deferredRest := rfl
@[simp] theorem ctx_setV_async : (c.setV n y).async = c.async := rfl
@[simp] theorem ctx_setV_replays : (c.setV n y).replays = c.replays := rfl
@[simp] theorem ctx_setV_replayCause : (c.setV n y).replayCause = c.replayCause := rfl
@[simp] theorem ctx_setV_replayBix : (c.setV n y).replayBix = c.replayBix := rfl
@[simp] theorem ctx_setV_replayAt : (c.setV n y).replayAt = c.replayAt := rfl
@[simp] theorem ctx_setV_stall : (c.setV n y).stall = c.stall := rfl
@[simp] theorem ctx_setV_capCycles : (c.setV n y).capCycles = c.capCycles := rfl
@[simp] theorem ctx_setV_filter : (c.setV n y).filter = c.filter := rfl
@[simp] theorem ctx_setV_reserve : (c.setV n y).reserve = c.reserve := rfl
@[simp] theorem ctx_setV_grant : (c.setV n y).grant = c.grant := rfl
@[simp] theorem ctx_setV_issuedSince : (c.setV n y).issuedSince = c.issuedSince := rfl
@[simp] theorem ctx_setV_readySince : (c.setV n y).readySince = c.readySince := rfl
@[simp] theorem ctx_setV_waitSince : (c.setV n y).waitSince = c.waitSince := rfl
@[simp] theorem ctx_setV_mstat : (c.setV n y).mstat = c.mstat := rfl
@[simp] theorem ctx_setV_reacquire : (c.setV n y).reacquire = c.reacquire := rfl
@[simp] theorem ctx_setV_rereserve : (c.setV n y).rereserve = c.rereserve := rfl
@[simp] theorem ctx_setV_leaving : (c.setV n y).leaving = c.leaving := rfl
@[simp] theorem ctx_setV_stopping : (c.setV n y).stopping = c.stopping := rfl
@[simp] theorem ctx_setV_halting : (c.setV n y).halting = c.halting := rfl

end setV

section coreModCtx

variable (k : Core) (x : Fin 4) (f : Ctx → Ctx)

@[simp] theorem core_modCtx_cacheUnits : (k.modCtx x f).cacheUnits = k.cacheUnits := rfl
@[simp] theorem core_modCtx_drain : (k.modCtx x f).drain = k.drain := rfl
@[simp] theorem core_modCtx_l1 : (k.modCtx x f).l1 = k.l1 := rfl
@[simp] theorem core_modCtx_bundles : (k.modCtx x f).bundles = k.bundles := rfl
@[simp] theorem core_modCtx_hatch : (k.modCtx x f).hatch = k.hatch := rfl
@[simp] theorem core_modCtx_banks : (k.modCtx x f).banks = k.banks := rfl
@[simp] theorem core_modCtx_engine : (k.modCtx x f).engine = k.engine := rfl
@[simp] theorem core_modCtx_tiles : (k.modCtx x f).tiles = k.tiles := rfl
@[simp] theorem core_modCtx_ctxs : (k.modCtx x f).ctxs = k.ctxs.set x.val (f (k.ctxs.get x)) x.isLt := rfl
@[simp] theorem core_modCtx_running : (k.modCtx x f).running = k.running := rfl
@[simp] theorem core_modCtx_stretched : (k.modCtx x f).stretched = k.stretched := rfl
@[simp] theorem core_modCtx_rr : (k.modCtx x f).rr = k.rr := rfl
@[simp] theorem core_modCtx_l1Soft : (k.modCtx x f).l1Soft = k.l1Soft := rfl

end coreModCtx

/-! ## Reading what was written -/

theorem vget_set_self {α : Type} {n : Nat} (v : Vector α n) (i : Nat) (y : α) (h : i < n) : (v.set i y h).get ⟨i, h⟩ = y :=
  Vector.getElem_set_self h

theorem vget_set_ne {α : Type} {n : Nat} (v : Vector α n) (i : Nat) (y : α) (h : i < n) (j : Fin n) (hj : i ≠ j.val) :
    (v.set i y h).get j = v.get j :=
  Vector.getElem_set_ne h j.isLt hj

variable (s : State) (c d : Fin 192) (x y : Fin 4) (f : Ctx → Ctx) (g : Core → Core)

@[simp] theorem coreAt_modCoreAt_self : (s.modCoreAt c g).coreAt c = g (s.coreAt c) := vget_set_self _ _ _ _

theorem coreAt_modCoreAt_ne (h : d ≠ c) : (s.modCoreAt c g).coreAt d = s.coreAt d :=
  vget_set_ne _ _ _ c.isLt _ fun e => h (Fin.ext e.symm)

@[simp] theorem core_ctx_modCtx_self (k : Core) : (k.modCtx x f).ctx x = f (k.ctx x) := vget_set_self _ _ _ _

theorem core_ctx_modCtx_ne (k : Core) (h : y ≠ x) : (k.modCtx x f).ctx y = k.ctx y :=
  vget_set_ne _ _ _ x.isLt _ fun e => h (Fin.ext e.symm)

@[simp] theorem ctxAt_modCtxAt_self : (s.modCtxAt c x f).ctxAt c x = f (s.ctxAt c x) := by
  simp [State.ctxAt, State.modCtxAt]

/-- An update of one context leaves every other context alone. -/
theorem ctxAt_modCtxAt_ne (h : d ≠ c ∨ y ≠ x) : (s.modCtxAt c x f).ctxAt d y = s.ctxAt d y := by
  by_cases hd : d = c
  · subst hd
    have hy : y ≠ x := h.resolve_left fun e => e rfl
    simp [State.ctxAt, State.modCtxAt, core_ctx_modCtx_ne x y f _ hy]
  · simp [State.ctxAt, State.modCtxAt, coreAt_modCoreAt_ne s c d _ hd]

@[simp] theorem ctx_modCtx : (s.modCtx f).ctx = f s.ctx := ctxAt_modCtxAt_self s s.curCore s.curCtx f

@[simp] theorem core_modCore : (s.modCore g).core = g s.core := coreAt_modCoreAt_self s s.curCore g

/-- The update of a device context is read back. -/
@[simp] theorem dctxOf_modDctx_self (n : Nat) (h : DCtx → DCtx) : (s.modDctx n h).dctxOf n = h (s.dctxOf n) :=
  vget_set_self _ _ _ _

@[simp] theorem dieAt_modDie_self (n : Fin 4) (h : Die → Die) : (s.modDie n h).dieAt n = h (s.dieAt n) :=
  vget_set_self _ _ _ _

end Sys2Proof.Laws
end

