-- ==== Sys2Proof/Laws/Memory.lean ====
section
/-! SUPPORT. Sparse tables and memories: reading after a write, the canonical form, and that every memory operation keeps it
(log entry 1). -/

namespace Sys2Proof.Laws

open Sys2Proof.Machine

set_option Elab.async false

section table

variable {α : Type} [DecidableEq α] {d : α}

/-- Every key of a table is above `k`. -/
def above (k : Nat) (t : Table α) : Bool := t.all fun p => decide (k < p.1)

omit [DecidableEq α] in
theorem tget_above {k j : Nat} {t : Table α} (h : above k t = true) (hj : j ≤ k) : tget t j d = d := by
  induction t with
  | nil => rfl
  | cons p r ih =>
    simp only [above, List.all_cons, Bool.and_eq_true, decide_eq_true_eq] at h
    have hne : p.1 ≠ j := by omega
    simp only [tget, hne, if_false]
    exact ih h.2

/-- A key that a write gives and its own value. -/
theorem tget_tset_self {t : Table α} (h : tableWf d t = true) (k : Nat) (v : α) : tget (tset t k v d) k d = v := by
  induction t with
  | nil =>
    by_cases hv : v = d <;> simp [tset, tget, hv]
  | cons p r ih =>
    simp only [tableWf, Bool.and_eq_true, decide_eq_true_eq] at h
    simp only [tset]
    split
    · rename_i hlt
      have hne : p.1 ≠ k := by omega
      have hr : tget r k d = d :=
        tget_above (k := p.1) (by simpa [above] using h.1.2) (by omega)
      split
      · rename_i hv; simp [tget, hne, hr, hv]
      · simp [tget]
    · split
      · rename_i hk
        have hr : tget r k d = d := tget_above (k := p.1) (by simpa [above] using h.1.2) (by omega)
        split
        · rename_i hv; rw [hr, hv]
        · simp [tget]
      · rename_i hk
        have hne : p.1 ≠ k := fun e => hk e.symm
        simp only [tget, hne, if_false]
        exact ih h.2

/-- A write leaves every other key alone. -/
theorem tget_tset_ne {t : Table α} (h : tableWf d t = true) {k j : Nat} (v : α) (hj : j ≠ k) :
    tget (tset t k v d) j d = tget t j d := by
  induction t with
  | nil =>
    by_cases hv : v = d <;> simp [tset, tget, hv, Ne.symm hj]
  | cons p r ih =>
    simp only [tableWf, Bool.and_eq_true, decide_eq_true_eq] at h
    simp only [tset]
    split
    · split
      · rfl
      · simp [tget, Ne.symm hj]
    · split
      · rename_i hk
        have hne : p.1 ≠ j := fun e => hj (by omega)
        split
        · simp [tget, hne]
        · simp [tget, hne, Ne.symm hj]
      · simp only [tget]
        split
        · rfl
        · exact ih h.2

theorem above_tset {t : Table α} {k j : Nat} (v : α) (h : above j t = true) (hk : j < k) : above j (tset t k v d) = true := by
  induction t with
  | nil => by_cases hv : v = d <;> simp [tset, above, hv, hk]
  | cons p r ih =>
    simp only [above, List.all_cons, Bool.and_eq_true, decide_eq_true_eq] at h
    have hr : above j r = true := by simpa [above] using h.2
    simp only [tset]
    split
    · split
      · simpa [above] using h
      · simp [above, hk]; simpa using h
    · split
      · split
        · exact hr
        · simp [above, hk]; simpa using h.2
      · have := ih hr
        simp only [above, List.all_cons, Bool.and_eq_true, decide_eq_true_eq] at this ⊢
        exact ⟨h.1, this⟩

/-- A write keeps the canonical form of a table. -/
theorem tset_wf {t : Table α} (h : tableWf d t = true) (k : Nat) (v : α) : tableWf d (tset t k v d) = true := by
  induction t with
  | nil => by_cases hv : v = d <;> simp [tset, tableWf, hv]
  | cons p r ih =>
    have h0 := h
    simp only [tableWf, Bool.and_eq_true, decide_eq_true_eq] at h
    have ha : above p.1 r = true := by simpa [above] using h.1.2
    simp only [tset]
    split
    · rename_i hlt
      split
      · exact h0
      · rename_i hv
        have hall : r.all (fun q => decide (k < q.1)) = true := by
          rw [List.all_eq_true] at *
          intro q hq
          have := h.1.2 q hq
          simp only [decide_eq_true_eq] at this ⊢
          omega
        simp only [tableWf, List.all_cons, Bool.and_eq_true, decide_eq_true_eq]
        exact ⟨⟨hv, hlt, hall⟩, h⟩
    · split
      · rename_i hk
        split
        · exact h.2
        · rename_i hv
          simp only [tableWf, Bool.and_eq_true, decide_eq_true_eq]
          exact ⟨⟨hv, by rw [hk]; exact h.1.2⟩, h.2⟩
      · rename_i hlt hk
        have := above_tset (d := d) v ha (k := k) (by omega)
        simp only [tableWf, Bool.and_eq_true, decide_eq_true_eq]
        exact ⟨⟨h.1.1, by simpa [above] using this⟩, ih h.2⟩

end table

/-! ## Memories -/

theorem memory_empty_wf : Memory.wf [] = true := rfl

theorem setByte_wf {m : Memory} (h : Memory.wf m = true) (a : Nat) (b : Byte) : Memory.wf (Memory.setByte m a b) = true :=
  tset_wf h a b

theorem byte_setByte_self {m : Memory} (h : Memory.wf m = true) (a : Nat) (b : Byte) :
    Memory.byte (Memory.setByte m a b) a = b := tget_tset_self h a b

theorem byte_setByte_ne {m : Memory} (h : Memory.wf m = true) {a j : Nat} (b : Byte) (hj : j ≠ a) :
    Memory.byte (Memory.setByte m a b) j = Memory.byte m j := tget_tset_ne h b hj

theorem write_wf (bs : List Byte) : ∀ {m : Memory} (_ : Memory.wf m = true) (a : Nat), Memory.wf (Memory.write m a bs) = true := by
  induction bs with
  | nil => intro m h a; exact h
  | cons b bs ih => intro m h a; exact ih (setByte_wf h a b) (a + 1)

theorem writeMasked_wf (bs : List Byte) :
    ∀ {m : Memory} (_ : Memory.wf m = true) (a mask : Nat), Memory.wf (Memory.writeMasked m a mask bs) = true := by
  induction bs with
  | nil => intro m h a mask; exact h
  | cons b bs ih =>
    intro m h a mask
    refine ih ?_ (a + 1) (mask / 2)
    split
    · exact setByte_wf h a b
    · exact h

/-- A write of bytes leaves every byte outside them alone. -/
theorem byte_write_outside (bs : List Byte) : ∀ {m : Memory} (_ : Memory.wf m = true) (a j : Nat) (_ : j < a ∨ a + bs.length ≤ j),
    Memory.byte (Memory.write m a bs) j = Memory.byte m j := by
  induction bs with
  | nil => intro m h a j hj; rfl
  | cons b bs ih =>
    intro m h a j hj
    have hj' : j < a ∨ a + bs.length + 1 ≤ j := by simpa [Nat.add_assoc, Nat.add_comm 1] using hj
    show Memory.byte (Memory.write (Memory.setByte m a b) (a + 1) bs) j = _
    rw [ih (setByte_wf h a b) (a + 1) j (by omega), byte_setByte_ne h b (by omega)]

/-- A write of bytes is read back. -/
theorem byte_write_inside (bs : List Byte) : ∀ {m : Memory} (_ : Memory.wf m = true) (a i : Nat) (hi : i < bs.length),
    Memory.byte (Memory.write m a bs) (a + i) = bs[i] := by
  induction bs with
  | nil => intro m h a i hi; exact absurd hi (by simp)
  | cons b bs ih =>
    intro m h a i hi
    show Memory.byte (Memory.write (Memory.setByte m a b) (a + 1) bs) (a + i) = _
    cases i with
    | zero =>
      rw [byte_write_outside bs (setByte_wf h a b) (a + 1) (a + 0) (by omega)]
      simpa using byte_setByte_self h a b
    | succ i =>
      have := ih (setByte_wf h a b) (a + 1) i (by simpa using hi)
      simpa [Nat.add_assoc, Nat.add_comm 1 i] using this

/-- A masked write leaves every byte outside its range alone. -/
theorem byte_writeMasked_outside (bs : List Byte) :
    ∀ {m : Memory} (_ : Memory.wf m = true) (a mask j : Nat) (_ : j < a ∨ a + bs.length ≤ j),
      Memory.byte (Memory.writeMasked m a mask bs) j = Memory.byte m j := by
  induction bs with
  | nil => intro m h a mask j hj; rfl
  | cons b bs ih =>
    intro m h a mask j hj
    have hj' : j < a ∨ a + bs.length + 1 ≤ j := by simpa [Nat.add_assoc, Nat.add_comm 1] using hj
    show Memory.byte (Memory.writeMasked (if bitN mask 0 then Memory.setByte m a b else m) (a + 1) (mask / 2) bs) j = _
    split
    · rw [ih (setByte_wf h a b) (a + 1) _ j (by omega), byte_setByte_ne h b (by omega)]
    · exact ih h (a + 1) _ j (by omega)

/-! ## The memory of the part -/

theorem reset_memory_wf : Memory.wf State.reset.mem.bytes = true := rfl

theorem setGran_bytes (m : MemSys) (g dpa : Nat) (p : Bool) : (m.setGran g dpa p).bytes = m.bytes := by
  unfold MemSys.setGran
  generalize granUnits g (granBase g dpa) = l
  induction l generalizing m with
  | nil => rfl
  | cons a l ih => exact (ih _).trans rfl

theorem modStack_bytes (m : MemSys) (dpa : Nat) (f : Stack → Stack) : (m.modStack dpa f).bytes = m.bytes := by
  unfold MemSys.modStack
  split <;> rfl

theorem granWrite_wf {m : MemSys} (h : Memory.wf m.bytes = true) (g dpa : Nat) (data : List Byte) (p : Bool) :
    Memory.wf (m.granWrite g dpa data p).bytes = true := write_wf data h _

end Sys2Proof.Laws
end

