-- ==== Sys2Proof/Laws/Ops.lean ====
section
/-! SUPPORT. What each shared operation can do, said once: guarding, verdicts, results on their way, write-back, replays, queued
events, and the shape of one step of the part. -/

namespace Sys2Proof.Laws

open Sys2Proof Sys2Proof.Machine

/-! ## Guarding (08 R211) -/

theorem guarded_issued {check : State → Check} {perform : State → State} {s : State} (h : s.issued = true) :
    guarded check perform s = .next (perform s) := by simp [guarded, h]

theorem guarded_go {check : State → Check} {perform : State → State} {s : State} (h : check s = .go) :
    guarded check perform s = .next (perform s) := by simp [guarded, h]

theorem guarded_trap {check : State → Check} {perform : State → State} {s : State} {cause info : Nat} (h : s.issued = false)
    (hc : check s = .trap cause info) : guarded check perform s = .next (s.takeTrap cause info) := by simp [guarded, h, hc]

theorem guarded_stall {check : State → Check} {perform : State → State} {s : State} {why : Stall} {info : Nat}
    (h : s.issued = false) (hc : check s = .stall why info) :
    guarded check perform s = .next (s.modCtx fun c => { c with stall := some why }) := by simp [guarded, h, hc]

/-- A guarded operation always answers a next state, one of three. -/
theorem guarded_cases (check : State → Check) (perform : State → State) (s : State) :
    ∃ t, guarded check perform s = .next t ∧
      (t = perform s ∨ (∃ cause info, check s = .trap cause info ∧ t = s.takeTrap cause info) ∨
        ∃ why info, check s = .stall why info ∧ t = s.modCtx fun c => { c with stall := some why }) := by
  unfold guarded
  split
  · exact ⟨_, rfl, .inl rfl⟩
  · split
    · exact ⟨_, rfl, .inl rfl⟩
    · next h => exact ⟨_, rfl, .inr (.inl ⟨_, _, h, rfl⟩)⟩
    · next h => exact ⟨_, rfl, .inr (.inr ⟨_, _, h, rfl⟩)⟩

/-! ## Verdicts (08 R211) -/

@[simp] theorem both_go_left (c : Check) : Check.both .go c = c := by cases c <;> rfl
@[simp] theorem both_go_right (c : Check) : Check.both c .go = c := by cases c <;> rfl

theorem both_eq_go {a b : Check} : a.both b = .go ↔ a = .go ∧ b = .go := by
  cases a <;> cases b <;> simp [Check.both]
  all_goals split <;> simp

theorem both_trap_stall (cause info info' : Nat) (why : Stall) :
    Check.both (.trap cause info) (.stall why info') = .trap cause info := rfl
theorem both_stall_trap (cause info info' : Nat) (why : Stall) :
    Check.both (.stall why info') (.trap cause info) = .trap cause info := rfl

/-- Of two causes the lower one, then the lower INFO. -/
theorem both_traps (a x b y : Nat) : Check.both (.trap a x) (.trap b y) = if b < a ∨ (b = a ∧ y < x) then .trap b y else .trap a x := rfl

theorem foldl_both_eq_go : ∀ (l : List Check) (a : Check), l.foldl Check.both a = .go ↔ a = .go ∧ ∀ c ∈ l, c = .go
  | [], a => by simp
  | c :: l, a => by simp [foldl_both_eq_go l, both_eq_go, and_assoc]

theorem all_eq_go {l : List Check} : Check.all l = .go ↔ ∀ c ∈ l, c = .go := by simp [Check.all, foldl_both_eq_go]

/-! ## Results on their way (08 R195, R200, R202) -/

/-- A scalar result touches its context alone, and there the results in flight and the latches alone. -/
theorem resultS_ctx (s : State) (slot lat : Nat) (d : Opnd) (ws : Bool) (x : Word) :
    (s.resultS slot lat d ws x).ctx = { s.ctx with
      pipe := s.ctx.pipe ++ [{ slot := slot, lat := lat, left := lat, dest := .s d, ws := ws, data := x.setWidth 2048,
                               wmask := BitVec.allOnes 2048, degen := none }]
      latches := s.ctx.latches ++ [{ slot := slot, age := 0, lat := lat, data := x.setWidth 2048 }] } := by
  simp [State.resultS, Ctx.result]

theorem resultS_frame (s : State) (slot lat : Nat) (d : Opnd) (ws : Bool) (x : Word) :
    let t := s.resultS slot lat d ws x
    t.mem = s.mem ∧ t.recs = s.recs ∧ t.teams = s.teams ∧ t.grids = s.grids ∧ t.jobs = s.jobs ∧ t.dctxs = s.dctxs ∧
      t.agenda = s.agenda ∧ t.timers = s.timers := ⟨rfl, rfl, rfl, rfl, rfl, rfl, rfl, rfl⟩

/-- A push is one more result in flight, and no latch. -/
theorem push_ctx (s : State) (slot lat : Nat) (b : Bool) :
    (s.push slot lat b).ctx = { s.ctx with
      pipe := s.ctx.pipe ++ [{ slot := slot, lat := lat, left := lat, dest := .cq, ws := false,
                               data := (BitVec.ofBool b).setWidth 2048, wmask := BitVec.allOnes 2048, degen := none }] } := by
  simp [State.push, Ctx.result]

/-! ## Write-back -/

/-- A push reaches the condition queue and nothing else. -/
theorem writeResult_cq (c : Ctx) (slot : Nat) (ws : Bool) (data mask : VReg) :
    c.writeResult slot .cq ws data mask = { c with cq := c.cq ++ [data.getLsbD 0] } := rfl

/-- With WS = 1 a result reaches its last-result entries alone. -/
theorem writeResult_ws (c : Ctx) (slot : Nat) (d : Opnd) (data mask : VReg) :
    c.writeResult slot (.s d) true data mask = c.pushLast slot data ∧ c.writeResult slot (.v d) true data mask = c.pushLast slot data ∧
      c.writeResult slot (.k d) true data mask = c.pushLast slot data := ⟨rfl, rfl, rfl⟩

/-- A write of `s0` or `k0` changes no main register (08 R199). -/
theorem setS_zero (c : Ctx) (x : Word) : c.setS 0 x = c := rfl
theorem setK_zero (c : Ctx) (x : Word) : c.setK 0 x = c := rfl

theorem setS_get {c : Ctx} {n : Fin 64} (x : Word) (h : n ≠ 0) : (c.setS n x).s.get n = x := by
  unfold Ctx.setS
  rw [if_neg h]
  exact vget_set_self _ _ _ _

theorem setS_get_ne {c : Ctx} {n m : Fin 64} (x : Word) (h : m ≠ n) : (c.setS n x).s.get m = c.s.get m := by
  unfold Ctx.setS
  split
  · rfl
  · exact vget_set_ne _ _ _ n.isLt _ fun e => h (Fin.ext e.symm)

/-! ## Records, events, timers -/

/-- A status written into a context's record changes no other field of the state, and of the records only ST and the time
from which it is ready. -/
theorem recSt_frame (s : State) (c : Fin 192) (x : Fin 4) (st : RecSt) :
    let t := s.recSt c x st
    t.cores = s.cores ∧ t.mem = s.mem ∧ t.teams = s.teams ∧ t.grids = s.grids ∧ t.jobs = s.jobs ∧ t.agenda = s.agenda ∧
      t.recs.length = s.recs.length ∧ ∀ r ∈ t.recs, ∃ q ∈ s.recs, r = q ∨ r = q.enter st s.now := by
  refine ⟨rfl, rfl, rfl, rfl, rfl, rfl, by simp [State.recSt, State.mapRecs], ?_⟩
  intro r hr
  simp only [State.recSt, State.mapRecs, List.mem_map] at hr
  obtain ⟨q, hq, rfl⟩ := hr
  refine ⟨q, hq, ?_⟩
  split
  · exact .inr rfl
  · exact .inl rfl

/-- While every die's lines fit its L2, nothing is evicted between two events. -/
theorem l2Trim_fits {s : State} (h : s.mem.dieLines.length + s.mem.nc.length ≤ l2Lines) : s.l2Trim = s := by simp [State.l2Trim, h]

/-- The oldest event on its way is the next one, unless it is a die's request, for which the home's arbiter decides. -/
theorem scheduled_agenda {s : State} {e : Instr} {a : EvArgs} {rest : List (Instr × EvArgs)} (h : s.agenda = (e, a) :: rest)
    (hd : dieMessage e = false) : s.scheduled = (e, a, { s with agenda := rest }) := by
  simp [State.scheduled, h, arbitrate, hd]

theorem nextEvent_agenda {s : State} {e : Instr} {a : EvArgs} {rest : List (Instr × EvArgs)} (h : s.agenda = (e, a) :: rest)
    (hd : dieMessage e = false) (hq : s.mem.waitingReq = none) (hl : s.mem.dieLines.length + s.mem.nc.length ≤ l2Lines) :
    s.nextEvent = (e, a, { s with agenda := rest }) := by
  simp [State.nextEvent, l2Trim_fits hl, scheduled_agenda h hd, hq]

/-! ## One step of the part -/

/-- A step is its event's meaning, then the operations of the bundle that the event issued, if any. -/
theorem step_eq (s : State) : step s =
    match exec s.nextEvent.1 { s.nextEvent.2.2 with arg := s.nextEvent.2.1 } with
    | .next t => finishStep t
    | o => o := rfl

/-- Whatever a step does, its event answers a next state or the step is that event's stop. -/
theorem step_cases {s t : State} (h : step s = .next t) :
    ∃ u, exec s.nextEvent.1 { s.nextEvent.2.2 with arg := s.nextEvent.2.1 } = .next u ∧ finishStep u = .next t := by
  rw [step_eq] at h
  split at h
  · next u hu => exact ⟨u, hu, h⟩
  · next o hn => exact absurd h (hn t)

/-- A step that writes no record leaves memory to its event. -/
theorem recordsOut_none {s : State} (h : s.touched = []) : s.recordsOut = s := by simp [State.recordsOut, h]

theorem finishStep_quiet {s : State} (h : s.issued = false) : finishStep s = .next s.recordsOut := by simp [finishStep, h]

/-- The operations of a bundle perform one after another. -/
theorem runLatched_cons {l : Latched} {rest : List Latched} {s t : State} (h : exec l.op { s with curWord := l.word } = .next t) :
    runLatched (l :: rest) s = runLatched rest t := by simp [runLatched, h]

/-- An invariant that every operation and the writing of records keep is kept by the rest of a step. -/
theorem finishStep_keeps {P : State → Prop} (hw : ∀ s w, P s → P { s with curWord := w }) (hr : ∀ s, P s → P s.recordsOut)
    (he : ∀ i s t, P s → exec i s = .next t → P t) : ∀ {s t : State}, P s → finishStep s = .next t → P t := by
  have run : ∀ (l : List Latched) (s t : State), P s → runLatched l s = .next t → P t := by
    intro l
    induction l with
    | nil => exact fun s t hp h => he .resultWriteback s t hp h
    | cons a l ih =>
      intro s t hp h
      simp only [runLatched] at h
      split at h
      · next u hu => exact ih u t (he _ _ _ (hw s a.word hp) hu) h
      · next o hn => exact absurd h (hn t)
  intro s t hp h
  unfold finishStep at h
  split at h
  · next u hu =>
    injection h with h
    subst h
    refine hr u ?_
    split at hu
    · exact run _ s u hp hu
    · exact (by injection hu with hu; exact hu ▸ hp)
  · next o hn => exact absurd h (hn t)

/-- An invariant that taking the next event and every operation keep is kept by every step. -/
theorem step_keeps {P : State → Prop} (hn : ∀ s, P s → P { s.nextEvent.2.2 with arg := s.nextEvent.2.1 })
    (hw : ∀ s w, P s → P { s with curWord := w }) (hr : ∀ s, P s → P s.recordsOut)
    (he : ∀ i s t, P s → exec i s = .next t → P t) {s t : State} (hp : P s)
    (h : step s = .next t) : P t := by
  obtain ⟨u, hu, hf⟩ := step_cases h
  exact finishStep_keeps hw hr he (he _ _ _ (hn s hp) hu) hf

end Sys2Proof.Laws
end

