-- ==== Sys2Proof/Laws/PerInstr.lean ====
section
/-! SUPPORT. Statements made of each instruction alone: family `Shape` says what its encoding carries (12 R282, R283). -/

namespace Sys2Proof.Laws

set_option Elab.async false

/-- An event of the part has no slot and no encoding. An operation has one of the eight slots, and whatever its operands its
encoding carries the path tag it is given in bits 55:53 and a nonzero opcode in bits 52:45, so that it is never a nop. -/
def Shape.Statement (i : Instr) : Prop :=
  match i.slot with
  | none => ∀ tag, encode tag i = 0
  | some n => n < 8 ∧ ∀ tag, (encode tag i).extractLsb' 53 3 = tag ∧ (encode tag i).extractLsb' 45 8 ≠ 0

theorem shape_pack {i : Instr} {n : Nat} {opc : BitVec 8} {ws : Bool} {d a b : BitVec 10} {c : BitVec 14} (hs : i.slot = some n)
    (hn : n < 8) (he : ∀ tag, encode tag i = pack tag opc ws d a b c) (ho : opc ≠ 0) : Shape.Statement i := by
  unfold Shape.Statement
  rw [hs]
  exact ⟨hn, fun tag => by rw [he]; exact ⟨pack_tag .., by rwa [pack_opc]⟩⟩

theorem shape_packI {i : Instr} {n : Nat} {opc : BitVec 8} {ws : Bool} {d : BitVec 10} {imm : BitVec 34} (hs : i.slot = some n)
    (hn : n < 8) (he : ∀ tag, encode tag i = packI tag opc ws d imm) (ho : opc ≠ 0) : Shape.Statement i := by
  unfold Shape.Statement
  rw [hs]
  exact ⟨hn, fun tag => by rw [he]; exact ⟨packI_tag .., by rwa [packI_opc]⟩⟩

theorem Shape.sAddReg (ws : Bool) (d a b : Opnd) : Shape.Statement (.sAddReg ws d a b) := shape_pack rfl (by decide) (fun _ => rfl) (by decide)

theorem Shape.sAddImm (ws : Bool) (d a : Opnd) (imm : BitVec 14) : Shape.Statement (.sAddImm ws d a imm) := shape_pack rfl (by decide) (fun _ => rfl) (by decide)

theorem Shape.sSub (ws : Bool) (d a b : Opnd) : Shape.Statement (.sSub ws d a b) := shape_pack rfl (by decide) (fun _ => rfl) (by decide)

theorem Shape.sMulReg (ws : Bool) (d a b : Opnd) : Shape.Statement (.sMulReg ws d a b) := shape_pack rfl (by decide) (fun _ => rfl) (by decide)

theorem Shape.sMulImm (ws : Bool) (d a : Opnd) (imm : BitVec 14) : Shape.Statement (.sMulImm ws d a imm) := shape_pack rfl (by decide) (fun _ => rfl) (by decide)

theorem Shape.sMulh (ws : Bool) (d a b : Opnd) : Shape.Statement (.sMulh ws d a b) := shape_pack rfl (by decide) (fun _ => rfl) (by decide)

theorem Shape.sDiv (ws : Bool) (d a b : Opnd) : Shape.Statement (.sDiv ws d a b) := shape_pack rfl (by decide) (fun _ => rfl) (by decide)

theorem Shape.sRem (ws : Bool) (d a b : Opnd) : Shape.Statement (.sRem ws d a b) := shape_pack rfl (by decide) (fun _ => rfl) (by decide)

theorem Shape.sAndReg (ws : Bool) (d a b : Opnd) : Shape.Statement (.sAndReg ws d a b) := shape_pack rfl (by decide) (fun _ => rfl) (by decide)

theorem Shape.sAndImm (ws : Bool) (d a : Opnd) (imm : BitVec 14) : Shape.Statement (.sAndImm ws d a imm) := shape_pack rfl (by decide) (fun _ => rfl) (by decide)

theorem Shape.sOrReg (ws : Bool) (d a b : Opnd) : Shape.Statement (.sOrReg ws d a b) := shape_pack rfl (by decide) (fun _ => rfl) (by decide)

theorem Shape.sOrImm (ws : Bool) (d a : Opnd) (imm : BitVec 14) : Shape.Statement (.sOrImm ws d a imm) := shape_pack rfl (by decide) (fun _ => rfl) (by decide)

theorem Shape.sXorReg (ws : Bool) (d a b : Opnd) : Shape.Statement (.sXorReg ws d a b) := shape_pack rfl (by decide) (fun _ => rfl) (by decide)

theorem Shape.sXorImm (ws : Bool) (d a : Opnd) (imm : BitVec 14) : Shape.Statement (.sXorImm ws d a imm) := shape_pack rfl (by decide) (fun _ => rfl) (by decide)

theorem Shape.sShlReg (ws : Bool) (d a b : Opnd) : Shape.Statement (.sShlReg ws d a b) := shape_pack rfl (by decide) (fun _ => rfl) (by decide)

theorem Shape.sShlImm (ws : Bool) (d a : Opnd) (n : BitVec 6) : Shape.Statement (.sShlImm ws d a n) := shape_pack rfl (by decide) (fun _ => rfl) (by decide)

theorem Shape.sShrReg (ws : Bool) (d a b : Opnd) : Shape.Statement (.sShrReg ws d a b) := shape_pack rfl (by decide) (fun _ => rfl) (by decide)

theorem Shape.sShrImm (ws : Bool) (d a : Opnd) (n : BitVec 6) : Shape.Statement (.sShrImm ws d a n) := shape_pack rfl (by decide) (fun _ => rfl) (by decide)

theorem Shape.sSarReg (ws : Bool) (d a b : Opnd) : Shape.Statement (.sSarReg ws d a b) := shape_pack rfl (by decide) (fun _ => rfl) (by decide)

theorem Shape.sSarImm (ws : Bool) (d a : Opnd) (n : BitVec 6) : Shape.Statement (.sSarImm ws d a n) := shape_pack rfl (by decide) (fun _ => rfl) (by decide)

theorem Shape.sMinReg (ws : Bool) (d a b : Opnd) : Shape.Statement (.sMinReg ws d a b) := shape_pack rfl (by decide) (fun _ => rfl) (by decide)

theorem Shape.sMinImm (ws : Bool) (d a : Opnd) (imm : BitVec 14) : Shape.Statement (.sMinImm ws d a imm) := shape_pack rfl (by decide) (fun _ => rfl) (by decide)

theorem Shape.sMaxReg (ws : Bool) (d a b : Opnd) : Shape.Statement (.sMaxReg ws d a b) := shape_pack rfl (by decide) (fun _ => rfl) (by decide)

theorem Shape.sMaxImm (ws : Bool) (d a : Opnd) (imm : BitVec 14) : Shape.Statement (.sMaxImm ws d a imm) := shape_pack rfl (by decide) (fun _ => rfl) (by decide)

theorem Shape.sSel (ws : Bool) (d a b c : Opnd) : Shape.Statement (.sSel ws d a b c) := shape_pack rfl (by decide) (fun _ => rfl) (by decide)

theorem Shape.sLi (ws : Bool) (d : Opnd) (imm : BitVec 34) : Shape.Statement (.sLi ws d imm) := shape_packI rfl (by decide) (fun _ => rfl) (by decide)

theorem Shape.sLih (ws : Bool) (d : Opnd) (imm : BitVec 30) : Shape.Statement (.sLih ws d imm) := shape_packI rfl (by decide) (fun _ => rfl) (by decide)

theorem Shape.sAddsc (ws : Bool) (d a b : Opnd) (sh : BitVec 3) : Shape.Statement (.sAddsc ws d a b sh) := shape_pack rfl (by decide) (fun _ => rfl) (by decide)

theorem Shape.sGetc (ws : Bool) (d : Opnd) (n : BitVec 4) : Shape.Statement (.sGetc ws d n) := shape_pack rfl (by decide) (fun _ => rfl) (by decide)

theorem Shape.sSetc (a : Opnd) (n : BitVec 4) : Shape.Statement (.sSetc a n) := shape_pack rfl (by decide) (fun _ => rfl) (by decide)

theorem Shape.sCmpEqReg (a b : Opnd) : Shape.Statement (.sCmpEqReg a b) := shape_pack rfl (by decide) (fun _ => rfl) (by decide)

theorem Shape.sCmpNeReg (a b : Opnd) : Shape.Statement (.sCmpNeReg a b) := shape_pack rfl (by decide) (fun _ => rfl) (by decide)

theorem Shape.sCmpLtReg (a b : Opnd) : Shape.Statement (.sCmpLtReg a b) := shape_pack rfl (by decide) (fun _ => rfl) (by decide)

theorem Shape.sCmpLeReg (a b : Opnd) : Shape.Statement (.sCmpLeReg a b) := shape_pack rfl (by decide) (fun _ => rfl) (by decide)

theorem Shape.sCmpGtReg (a b : Opnd) : Shape.Statement (.sCmpGtReg a b) := shape_pack rfl (by decide) (fun _ => rfl) (by decide)

theorem Shape.sCmpGeReg (a b : Opnd) : Shape.Statement (.sCmpGeReg a b) := shape_pack rfl (by decide) (fun _ => rfl) (by decide)

theorem Shape.sCmpLtuReg (a b : Opnd) : Shape.Statement (.sCmpLtuReg a b) := shape_pack rfl (by decide) (fun _ => rfl) (by decide)

theorem Shape.sCmpLeuReg (a b : Opnd) : Shape.Statement (.sCmpLeuReg a b) := shape_pack rfl (by decide) (fun _ => rfl) (by decide)

theorem Shape.sCmpGtuReg (a b : Opnd) : Shape.Statement (.sCmpGtuReg a b) := shape_pack rfl (by decide) (fun _ => rfl) (by decide)

theorem Shape.sCmpGeuReg (a b : Opnd) : Shape.Statement (.sCmpGeuReg a b) := shape_pack rfl (by decide) (fun _ => rfl) (by decide)

theorem Shape.sCmpEqImm (a : Opnd) (imm : BitVec 14) : Shape.Statement (.sCmpEqImm a imm) := shape_pack rfl (by decide) (fun _ => rfl) (by decide)

theorem Shape.sCmpNeImm (a : Opnd) (imm : BitVec 14) : Shape.Statement (.sCmpNeImm a imm) := shape_pack rfl (by decide) (fun _ => rfl) (by decide)

theorem Shape.sCmpLtImm (a : Opnd) (imm : BitVec 14) : Shape.Statement (.sCmpLtImm a imm) := shape_pack rfl (by decide) (fun _ => rfl) (by decide)

theorem Shape.sCmpLeImm (a : Opnd) (imm : BitVec 14) : Shape.Statement (.sCmpLeImm a imm) := shape_pack rfl (by decide) (fun _ => rfl) (by decide)

theorem Shape.sCmpGtImm (a : Opnd) (imm : BitVec 14) : Shape.Statement (.sCmpGtImm a imm) := shape_pack rfl (by decide) (fun _ => rfl) (by decide)

theorem Shape.sCmpGeImm (a : Opnd) (imm : BitVec 14) : Shape.Statement (.sCmpGeImm a imm) := shape_pack rfl (by decide) (fun _ => rfl) (by decide)

theorem Shape.sCmpLtuImm (a : Opnd) (imm : BitVec 14) : Shape.Statement (.sCmpLtuImm a imm) := shape_pack rfl (by decide) (fun _ => rfl) (by decide)

theorem Shape.sCmpLeuImm (a : Opnd) (imm : BitVec 14) : Shape.Statement (.sCmpLeuImm a imm) := shape_pack rfl (by decide) (fun _ => rfl) (by decide)

theorem Shape.sCmpGtuImm (a : Opnd) (imm : BitVec 14) : Shape.Statement (.sCmpGtuImm a imm) := shape_pack rfl (by decide) (fun _ => rfl) (by decide)

theorem Shape.sCmpGeuImm (a : Opnd) (imm : BitVec 14) : Shape.Statement (.sCmpGeuImm a imm) := shape_pack rfl (by decide) (fun _ => rfl) (by decide)

theorem Shape.sJmp (t : BitVec 11) : Shape.Statement (.sJmp t) := shape_pack rfl (by decide) (fun _ => rfl) (by decide)

theorem Shape.sJal (ws : Bool) (d : Opnd) (t : BitVec 11) : Shape.Statement (.sJal ws d t) := shape_pack rfl (by decide) (fun _ => rfl) (by decide)

theorem Shape.sJr (a : Opnd) : Shape.Statement (.sJr a) := shape_pack rfl (by decide) (fun _ => rfl) (by decide)

theorem Shape.sJbank (seg : BitVec 16) (x : BitVec 11) : Shape.Statement (.sJbank seg x) := shape_packI rfl (by decide) (fun _ => rfl) (by decide)

theorem Shape.sLoopReg (a : Opnd) (off : BitVec 11) : Shape.Statement (.sLoopReg a off) := shape_pack rfl (by decide) (fun _ => rfl) (by decide)

theorem Shape.sLoopImm (count : BitVec 20) (off : BitVec 11) : Shape.Statement (.sLoopImm count off) := shape_packI rfl (by decide) (fun _ => rfl) (by decide)

theorem Shape.sMark (n : BitVec 7) : Shape.Statement (.sMark n) := shape_pack rfl (by decide) (fun _ => rfl) (by decide)

theorem Shape.sTrap (n : BitVec 4) : Shape.Statement (.sTrap n) := shape_pack rfl (by decide) (fun _ => rfl) (by decide)

theorem Shape.sTret (a : Opnd) : Shape.Statement (.sTret a) := shape_pack rfl (by decide) (fun _ => rfl) (by decide)

theorem Shape.sYield : Shape.Statement .sYield := shape_pack rfl (by decide) (fun _ => rfl) (by decide)

theorem Shape.sHalt : Shape.Statement .sHalt := shape_pack rfl (by decide) (fun _ => rfl) (by decide)

theorem Shape.vAdd (sl : VSlot) (ws : Bool) (d a b : Opnd) (mk : BitVec 3) (ty : BitVec 4) : Shape.Statement (.vAdd sl ws d a b mk ty) := by cases sl <;> exact shape_pack rfl (by decide) (fun _ => rfl) (by decide)

theorem Shape.vSub (sl : VSlot) (ws : Bool) (d a b : Opnd) (mk : BitVec 3) (ty : BitVec 4) : Shape.Statement (.vSub sl ws d a b mk ty) := by cases sl <;> exact shape_pack rfl (by decide) (fun _ => rfl) (by decide)

theorem Shape.vMul (sl : VSlot) (ws : Bool) (d a b : Opnd) (mk : BitVec 3) (ty : BitVec 4) : Shape.Statement (.vMul sl ws d a b mk ty) := by cases sl <;> exact shape_pack rfl (by decide) (fun _ => rfl) (by decide)

theorem Shape.vFma (sl : VSlot) (ws : Bool) (d a b : Opnd) (mk : BitVec 3) (ty : BitVec 4) : Shape.Statement (.vFma sl ws d a b mk ty) := by cases sl <;> exact shape_pack rfl (by decide) (fun _ => rfl) (by decide)

theorem Shape.vMin (sl : VSlot) (ws : Bool) (d a b : Opnd) (mk : BitVec 3) (ty : BitVec 4) : Shape.Statement (.vMin sl ws d a b mk ty) := by cases sl <;> exact shape_pack rfl (by decide) (fun _ => rfl) (by decide)

theorem Shape.vMax (sl : VSlot) (ws : Bool) (d a b : Opnd) (mk : BitVec 3) (ty : BitVec 4) : Shape.Statement (.vMax sl ws d a b mk ty) := by cases sl <;> exact shape_pack rfl (by decide) (fun _ => rfl) (by decide)

theorem Shape.vAbs (sl : VSlot) (ws : Bool) (d a : Opnd) (mk : BitVec 3) (ty : BitVec 4) : Shape.Statement (.vAbs sl ws d a mk ty) := by cases sl <;> exact shape_pack rfl (by decide) (fun _ => rfl) (by decide)

theorem Shape.vAnd (sl : VSlot) (ws : Bool) (d a b : Opnd) (mk : BitVec 3) : Shape.Statement (.vAnd sl ws d a b mk) := by cases sl <;> exact shape_pack rfl (by decide) (fun _ => rfl) (by decide)

theorem Shape.vOr (sl : VSlot) (ws : Bool) (d a b : Opnd) (mk : BitVec 3) : Shape.Statement (.vOr sl ws d a b mk) := by cases sl <;> exact shape_pack rfl (by decide) (fun _ => rfl) (by decide)

theorem Shape.vXor (sl : VSlot) (ws : Bool) (d a b : Opnd) (mk : BitVec 3) : Shape.Statement (.vXor sl ws d a b mk) := by cases sl <;> exact shape_pack rfl (by decide) (fun _ => rfl) (by decide)

theorem Shape.vShlVec (sl : VSlot) (ws : Bool) (d a b : Opnd) (mk : BitVec 3) (ty : BitVec 4) : Shape.Statement (.vShlVec sl ws d a b mk ty) := by cases sl <;> exact shape_pack rfl (by decide) (fun _ => rfl) (by decide)

theorem Shape.vShrVec (sl : VSlot) (ws : Bool) (d a b : Opnd) (mk : BitVec 3) (ty : BitVec 4) : Shape.Statement (.vShrVec sl ws d a b mk ty) := by cases sl <;> exact shape_pack rfl (by decide) (fun _ => rfl) (by decide)

theorem Shape.vSarVec (sl : VSlot) (ws : Bool) (d a b : Opnd) (mk : BitVec 3) (ty : BitVec 4) : Shape.Statement (.vSarVec sl ws d a b mk ty) := by cases sl <;> exact shape_pack rfl (by decide) (fun _ => rfl) (by decide)

theorem Shape.vShlImm (sl : VSlot) (ws : Bool) (d a : Opnd) (mk : BitVec 3) (n : BitVec 6) (ty : BitVec 4) : Shape.Statement (.vShlImm sl ws d a mk n ty) := by cases sl <;> exact shape_pack rfl (by decide) (fun _ => rfl) (by decide)

theorem Shape.vShrImm (sl : VSlot) (ws : Bool) (d a : Opnd) (mk : BitVec 3) (n : BitVec 6) (ty : BitVec 4) : Shape.Statement (.vShrImm sl ws d a mk n ty) := by cases sl <;> exact shape_pack rfl (by decide) (fun _ => rfl) (by decide)

theorem Shape.vSarImm (sl : VSlot) (ws : Bool) (d a : Opnd) (mk : BitVec 3) (n : BitVec 6) (ty : BitVec 4) : Shape.Statement (.vSarImm sl ws d a mk n ty) := by cases sl <;> exact shape_pack rfl (by decide) (fun _ => rfl) (by decide)

theorem Shape.vCmpEq (sl : VSlot) (ws : Bool) (d a b : Opnd) (mk : BitVec 3) (ty : BitVec 4) : Shape.Statement (.vCmpEq sl ws d a b mk ty) := by cases sl <;> exact shape_pack rfl (by decide) (fun _ => rfl) (by decide)

theorem Shape.vCmpNe (sl : VSlot) (ws : Bool) (d a b : Opnd) (mk : BitVec 3) (ty : BitVec 4) : Shape.Statement (.vCmpNe sl ws d a b mk ty) := by cases sl <;> exact shape_pack rfl (by decide) (fun _ => rfl) (by decide)

theorem Shape.vCmpLt (sl : VSlot) (ws : Bool) (d a b : Opnd) (mk : BitVec 3) (ty : BitVec 4) : Shape.Statement (.vCmpLt sl ws d a b mk ty) := by cases sl <;> exact shape_pack rfl (by decide) (fun _ => rfl) (by decide)

theorem Shape.vCmpLe (sl : VSlot) (ws : Bool) (d a b : Opnd) (mk : BitVec 3) (ty : BitVec 4) : Shape.Statement (.vCmpLe sl ws d a b mk ty) := by cases sl <;> exact shape_pack rfl (by decide) (fun _ => rfl) (by decide)

theorem Shape.vCmpGt (sl : VSlot) (ws : Bool) (d a b : Opnd) (mk : BitVec 3) (ty : BitVec 4) : Shape.Statement (.vCmpGt sl ws d a b mk ty) := by cases sl <;> exact shape_pack rfl (by decide) (fun _ => rfl) (by decide)

theorem Shape.vCmpGe (sl : VSlot) (ws : Bool) (d a b : Opnd) (mk : BitVec 3) (ty : BitVec 4) : Shape.Statement (.vCmpGe sl ws d a b mk ty) := by cases sl <;> exact shape_pack rfl (by decide) (fun _ => rfl) (by decide)

theorem Shape.vAny (sl : VSlot) (a : Opnd) : Shape.Statement (.vAny sl a) := by cases sl <;> exact shape_pack rfl (by decide) (fun _ => rfl) (by decide)

theorem Shape.vAll (sl : VSlot) (a : Opnd) : Shape.Statement (.vAll sl a) := by cases sl <;> exact shape_pack rfl (by decide) (fun _ => rfl) (by decide)

theorem Shape.vCvt (sl : VSlot) (ws : Bool) (d a : Opnd) (mk : BitVec 3) (rmo : BitVec 3) (src dst : BitVec 4) : Shape.Statement (.vCvt sl ws d a mk rmo src dst) := by cases sl <;> exact shape_pack rfl (by decide) (fun _ => rfl) (by decide)

theorem Shape.vRq (sl : VSlot) (ws : Bool) (d a b : Opnd) (mk : BitVec 3) (dst : BitVec 4) : Shape.Statement (.vRq sl ws d a b mk dst) := by cases sl <;> exact shape_pack rfl (by decide) (fun _ => rfl) (by decide)

theorem Shape.vScacc (sl : VSlot) (ws : Bool) (d a b : Opnd) (mk : BitVec 3) (ty : BitVec 4) : Shape.Statement (.vScacc sl ws d a b mk ty) := by cases sl <;> exact shape_pack rfl (by decide) (fun _ => rfl) (by decide)

theorem Shape.vPerm (sl : VSlot) (ws : Bool) (d a b : Opnd) (mk : BitVec 3) : Shape.Statement (.vPerm sl ws d a b mk) := by cases sl <;> exact shape_pack rfl (by decide) (fun _ => rfl) (by decide)

theorem Shape.vRot (sl : VSlot) (ws : Bool) (d a : Opnd) (mk : BitVec 3) (n : BitVec 6) : Shape.Statement (.vRot sl ws d a mk n) := by cases sl <;> exact shape_pack rfl (by decide) (fun _ => rfl) (by decide)

theorem Shape.vBcast (sl : VSlot) (ws : Bool) (d a : Opnd) (mk : BitVec 3) : Shape.Statement (.vBcast sl ws d a mk) := by cases sl <;> exact shape_pack rfl (by decide) (fun _ => rfl) (by decide)

theorem Shape.vIota (sl : VSlot) (ws : Bool) (d : Opnd) (mk : BitVec 3) (ty : BitVec 4) : Shape.Statement (.vIota sl ws d mk ty) := by cases sl <;> exact shape_pack rfl (by decide) (fun _ => rfl) (by decide)

theorem Shape.vExt (sl : VSlot) (ws : Bool) (d a : Opnd) (n : BitVec 6) : Shape.Statement (.vExt sl ws d a n) := by cases sl <;> exact shape_pack rfl (by decide) (fun _ => rfl) (by decide)

theorem Shape.vRsum (sl : VSlot) (ws : Bool) (d a : Opnd) (mk : BitVec 3) (ty : BitVec 4) : Shape.Statement (.vRsum sl ws d a mk ty) := by cases sl <;> exact shape_pack rfl (by decide) (fun _ => rfl) (by decide)

theorem Shape.vRmin (sl : VSlot) (ws : Bool) (d a : Opnd) (mk : BitVec 3) (ty : BitVec 4) : Shape.Statement (.vRmin sl ws d a mk ty) := by cases sl <;> exact shape_pack rfl (by decide) (fun _ => rfl) (by decide)

theorem Shape.vRmax (sl : VSlot) (ws : Bool) (d a : Opnd) (mk : BitVec 3) (ty : BitVec 4) : Shape.Statement (.vRmax sl ws d a mk ty) := by cases sl <;> exact shape_pack rfl (by decide) (fun _ => rfl) (by decide)

theorem Shape.vScan (sl : VSlot) (ws : Bool) (d a : Opnd) (mk : BitVec 3) (ty : BitVec 4) : Shape.Statement (.vScan sl ws d a mk ty) := by cases sl <;> exact shape_pack rfl (by decide) (fun _ => rfl) (by decide)

theorem Shape.vRcp (sl : VSlot) (ws : Bool) (d a : Opnd) (mk : BitVec 3) : Shape.Statement (.vRcp sl ws d a mk) := by cases sl <;> exact shape_pack rfl (by decide) (fun _ => rfl) (by decide)

theorem Shape.vRsq (sl : VSlot) (ws : Bool) (d a : Opnd) (mk : BitVec 3) : Shape.Statement (.vRsq sl ws d a mk) := by cases sl <;> exact shape_pack rfl (by decide) (fun _ => rfl) (by decide)

theorem Shape.vExp2 (sl : VSlot) (ws : Bool) (d a : Opnd) (mk : BitVec 3) : Shape.Statement (.vExp2 sl ws d a mk) := by cases sl <;> exact shape_pack rfl (by decide) (fun _ => rfl) (by decide)

theorem Shape.vLog2 (sl : VSlot) (ws : Bool) (d a : Opnd) (mk : BitVec 3) : Shape.Statement (.vLog2 sl ws d a mk) := by cases sl <;> exact shape_pack rfl (by decide) (fun _ => rfl) (by decide)

theorem Shape.vThrcnt (sl : VSlot) (ws : Bool) (d a b : Opnd) (mk : BitVec 3) (ty : BitVec 4) : Shape.Statement (.vThrcnt sl ws d a b mk ty) := by cases sl <;> exact shape_pack rfl (by decide) (fun _ => rfl) (by decide)

theorem Shape.vThrsel (sl : VSlot) (ws : Bool) (d a b : Opnd) (mk : BitVec 3) (ty : BitVec 4) : Shape.Statement (.vThrsel sl ws d a b mk ty) := by cases sl <;> exact shape_pack rfl (by decide) (fun _ => rfl) (by decide)

theorem Shape.vGnorm (sl : VSlot) (ws : Bool) (d a b : Opnd) (mk : BitVec 3) (kx : BitVec 3) : Shape.Statement (.vGnorm sl ws d a b mk kx) := by cases sl <;> exact shape_pack rfl (by decide) (fun _ => rfl) (by decide)

theorem Shape.kAnd (sl : VSlot) (ws : Bool) (d a b : Opnd) : Shape.Statement (.kAnd sl ws d a b) := by cases sl <;> exact shape_pack rfl (by decide) (fun _ => rfl) (by decide)

theorem Shape.kOr (sl : VSlot) (ws : Bool) (d a b : Opnd) : Shape.Statement (.kOr sl ws d a b) := by cases sl <;> exact shape_pack rfl (by decide) (fun _ => rfl) (by decide)

theorem Shape.kNot (sl : VSlot) (ws : Bool) (d a : Opnd) : Shape.Statement (.kNot sl ws d a) := by cases sl <;> exact shape_pack rfl (by decide) (fun _ => rfl) (by decide)

theorem Shape.kPop (sl : VSlot) (ws : Bool) (d a : Opnd) : Shape.Statement (.kPop sl ws d a) := by cases sl <;> exact shape_pack rfl (by decide) (fun _ => rfl) (by decide)

theorem Shape.ldS (ws : Bool) (d a : Opnd) (sz : BitVec 2) (sx : Bool) (off : BitVec 14) : Shape.Statement (.ldS ws d a sz sx off) := shape_pack rfl (by decide) (fun _ => rfl) (by decide)

theorem Shape.ldSB (ws : Bool) (d a : Opnd) (sz : BitVec 2) (sx : Bool) (off : BitVec 14) : Shape.Statement (.ldSB ws d a sz sx off) := shape_pack rfl (by decide) (fun _ => rfl) (by decide)

theorem Shape.ldV (ws : Bool) (d a : Opnd) (off : BitVec 14) : Shape.Statement (.ldV ws d a off) := shape_pack rfl (by decide) (fun _ => rfl) (by decide)

theorem Shape.ldVB (ws : Bool) (d a : Opnd) (off : BitVec 14) : Shape.Statement (.ldVB ws d a off) := shape_pack rfl (by decide) (fun _ => rfl) (by decide)

theorem Shape.ldVt (ws : Bool) (d a : Opnd) (n : BitVec 4) : Shape.Statement (.ldVt ws d a n) := shape_pack rfl (by decide) (fun _ => rfl) (by decide)

theorem Shape.ldG (ws : Bool) (d a b : Opnd) (sz : BitVec 2) : Shape.Statement (.ldG ws d a b sz) := shape_pack rfl (by decide) (fun _ => rfl) (by decide)

theorem Shape.ldBc (ws : Bool) (d a : Opnd) (sz : BitVec 2) (sx : Bool) (off : BitVec 14) : Shape.Statement (.ldBc ws d a sz sx off) := shape_pack rfl (by decide) (fun _ => rfl) (by decide)

theorem Shape.ldK (ws : Bool) (d a : Opnd) (off : BitVec 14) : Shape.Statement (.ldK ws d a off) := shape_pack rfl (by decide) (fun _ => rfl) (by decide)

theorem Shape.pf (a : Opnd) (off : BitVec 14) : Shape.Statement (.pf a off) := shape_pack rfl (by decide) (fun _ => rfl) (by decide)

theorem Shape.res (a b : Opnd) : Shape.Statement (.res a b) := shape_pack rfl (by decide) (fun _ => rfl) (by decide)

theorem Shape.stS (d a : Opnd) (sz : BitVec 2) (rel : Bool) (scope : BitVec 3) (off : BitVec 14) : Shape.Statement (.stS d a sz rel scope off) := shape_pack rfl (by decide) (fun _ => rfl) (by decide)

theorem Shape.stV (d a : Opnd) (rel : Bool) (scope : BitVec 3) (off : BitVec 14) : Shape.Statement (.stV d a rel scope off) := shape_pack rfl (by decide) (fun _ => rfl) (by decide)

theorem Shape.stVt (d a : Opnd) (n : BitVec 4) : Shape.Statement (.stVt d a n) := shape_pack rfl (by decide) (fun _ => rfl) (by decide)

theorem Shape.stSc (d a b : Opnd) (sz : BitVec 2) : Shape.Statement (.stSc d a b sz) := shape_pack rfl (by decide) (fun _ => rfl) (by decide)

theorem Shape.amoAdd (ws : Bool) (d a : Opnd) (w8 : Bool) (ord : BitVec 2) (scope : BitVec 3) (c : Opnd) : Shape.Statement (.amoAdd ws d a w8 ord scope c) := shape_pack rfl (by decide) (fun _ => rfl) (by decide)

theorem Shape.amoMin (ws : Bool) (d a : Opnd) (w8 : Bool) (ord : BitVec 2) (scope : BitVec 3) (c : Opnd) : Shape.Statement (.amoMin ws d a w8 ord scope c) := shape_pack rfl (by decide) (fun _ => rfl) (by decide)

theorem Shape.amoMax (ws : Bool) (d a : Opnd) (w8 : Bool) (ord : BitVec 2) (scope : BitVec 3) (c : Opnd) : Shape.Statement (.amoMax ws d a w8 ord scope c) := shape_pack rfl (by decide) (fun _ => rfl) (by decide)

theorem Shape.amoAnd (ws : Bool) (d a : Opnd) (w8 : Bool) (ord : BitVec 2) (scope : BitVec 3) (c : Opnd) : Shape.Statement (.amoAnd ws d a w8 ord scope c) := shape_pack rfl (by decide) (fun _ => rfl) (by decide)

theorem Shape.amoOr (ws : Bool) (d a : Opnd) (w8 : Bool) (ord : BitVec 2) (scope : BitVec 3) (c : Opnd) : Shape.Statement (.amoOr ws d a w8 ord scope c) := shape_pack rfl (by decide) (fun _ => rfl) (by decide)

theorem Shape.amoXor (ws : Bool) (d a : Opnd) (w8 : Bool) (ord : BitVec 2) (scope : BitVec 3) (c : Opnd) : Shape.Statement (.amoXor ws d a w8 ord scope c) := shape_pack rfl (by decide) (fun _ => rfl) (by decide)

theorem Shape.amoSwap (ws : Bool) (d a : Opnd) (w8 : Bool) (ord : BitVec 2) (scope : BitVec 3) (c : Opnd) : Shape.Statement (.amoSwap ws d a w8 ord scope c) := shape_pack rfl (by decide) (fun _ => rfl) (by decide)

theorem Shape.amoCas (ws : Bool) (d a : Opnd) (w8 : Bool) (ord : BitVec 2) (scope : BitVec 3) (c : Opnd) : Shape.Statement (.amoCas ws d a w8 ord scope c) := shape_pack rfl (by decide) (fun _ => rfl) (by decide)

theorem Shape.mAcq : Shape.Statement .mAcq := shape_pack rfl (by decide) (fun _ => rfl) (by decide)

theorem Shape.mRel : Shape.Statement .mRel := shape_pack rfl (by decide) (fun _ => rfl) (by decide)

theorem Shape.mMode (t : Bool) (mode : BitVec 2) : Shape.Statement (.mMode t mode) := shape_pack rfl (by decide) (fun _ => rfl) (by decide)

theorem Shape.mLdb (a b : Opnd) : Shape.Statement (.mLdb a b) := shape_pack rfl (by decide) (fun _ => rfl) (by decide)

theorem Shape.mLdbEdge (a b : Opnd) : Shape.Statement (.mLdbEdge a b) := shape_pack rfl (by decide) (fun _ => rfl) (by decide)

theorem Shape.mLdbx (a b : Opnd) : Shape.Statement (.mLdbx a b) := shape_pack rfl (by decide) (fun _ => rfl) (by decide)

theorem Shape.mMma (pair : BitVec 4) (h t : Bool) (lbl : BitVec 8) (a b : Opnd) : Shape.Statement (.mMma pair h t lbl a b) := shape_pack rfl (by decide) (fun _ => rfl) (by decide)

theorem Shape.mZero (t : Bool) : Shape.Statement (.mZero t) := shape_pack rfl (by decide) (fun _ => rfl) (by decide)

theorem Shape.mZpc (t : Bool) (lbl : BitVec 8) (a b : Opnd) : Shape.Statement (.mZpc t lbl a b) := shape_pack rfl (by decide) (fun _ => rfl) (by decide)

theorem Shape.mBind (ws : Bool) (d a b : Opnd) (clr : Bool) (fmt : BitVec 2) (axis t : Bool) : Shape.Statement (.mBind ws d a b clr fmt axis t) := shape_pack rfl (by decide) (fun _ => rfl) (by decide)

theorem Shape.mDrainWrap (ws : Bool) (d a b : Opnd) (tr t : Bool) (lbl : BitVec 8) : Shape.Statement (.mDrainWrap ws d a b tr t lbl) := shape_pack rfl (by decide) (fun _ => rfl) (by decide)

theorem Shape.mDrainSat (ws : Bool) (d a b : Opnd) (tr t : Bool) (lbl : BitVec 8) : Shape.Statement (.mDrainSat ws d a b tr t lbl) := shape_pack rfl (by decide) (fun _ => rfl) (by decide)

theorem Shape.mDrainRq (ws : Bool) (d a b : Opnd) (tr t : Bool) (lbl : BitVec 8) : Shape.Statement (.mDrainRq ws d a b tr t lbl) := shape_pack rfl (by decide) (fun _ => rfl) (by decide)

theorem Shape.mDrainFlt (ws : Bool) (d a b : Opnd) (tr t : Bool) (lbl : BitVec 8) : Shape.Statement (.mDrainFlt ws d a b tr t lbl) := shape_pack rfl (by decide) (fun _ => rfl) (by decide)

theorem Shape.mSpill (t : Bool) (lbl : BitVec 8) : Shape.Statement (.mSpill t lbl) := shape_pack rfl (by decide) (fun _ => rfl) (by decide)

theorem Shape.mFill (t : Bool) (lbl : BitVec 8) : Shape.Statement (.mFill t lbl) := shape_pack rfl (by decide) (fun _ => rfl) (by decide)

theorem Shape.mTopo (h t : Bool) (a b : Opnd) : Shape.Statement (.mTopo h t a b) := shape_pack rfl (by decide) (fun _ => rfl) (by decide)

theorem Shape.mWait (ws : Bool) (d : Opnd) : Shape.Statement (.mWait ws d) := shape_pack rfl (by decide) (fun _ => rfl) (by decide)

theorem Shape.cpCopy (ws : Bool) (d a : Opnd) : Shape.Statement (.cpCopy ws d a) := shape_pack rfl (by decide) (fun _ => rfl) (by decide)

theorem Shape.cpGath (ws : Bool) (d a : Opnd) : Shape.Statement (.cpGath ws d a) := shape_pack rfl (by decide) (fun _ => rfl) (by decide)

theorem Shape.cpScat (ws : Bool) (d a : Opnd) : Shape.Statement (.cpScat ws d a) := shape_pack rfl (by decide) (fun _ => rfl) (by decide)

theorem Shape.cpFill (ws : Bool) (d a : Opnd) : Shape.Statement (.cpFill ws d a) := shape_pack rfl (by decide) (fun _ => rfl) (by decide)

theorem Shape.cpExpand (ws : Bool) (d a : Opnd) : Shape.Statement (.cpExpand ws d a) := shape_pack rfl (by decide) (fun _ => rfl) (by decide)

theorem Shape.cpSeal (ws : Bool) (d a : Opnd) : Shape.Statement (.cpSeal ws d a) := shape_pack rfl (by decide) (fun _ => rfl) (by decide)

theorem Shape.cpGal (ws : Bool) (d a : Opnd) : Shape.Statement (.cpGal ws d a) := shape_pack rfl (by decide) (fun _ => rfl) (by decide)

theorem Shape.cpColl (ws : Bool) (d a : Opnd) : Shape.Statement (.cpColl ws d a) := shape_pack rfl (by decide) (fun _ => rfl) (by decide)

theorem Shape.cpCkpt (ws : Bool) (d a : Opnd) : Shape.Statement (.cpCkpt ws d a) := shape_pack rfl (by decide) (fun _ => rfl) (by decide)

theorem Shape.cpJob (ws : Bool) (d a : Opnd) : Shape.Statement (.cpJob ws d a) := shape_pack rfl (by decide) (fun _ => rfl) (by decide)

theorem Shape.cpCancel (a : Opnd) : Shape.Statement (.cpCancel a) := shape_pack rfl (by decide) (fun _ => rfl) (by decide)

theorem Shape.cpStat (ws : Bool) (d a : Opnd) : Shape.Statement (.cpStat ws d a) := shape_pack rfl (by decide) (fun _ => rfl) (by decide)

theorem Shape.yPost (a : Opnd) (own : Bool) (scope : BitVec 3) (flag : BitVec 5) : Shape.Statement (.yPost a own scope flag) := shape_pack rfl (by decide) (fun _ => rfl) (by decide)

theorem Shape.yWait (a : Opnd) (scope : BitVec 3) (flag : BitVec 5) : Shape.Statement (.yWait a scope flag) := shape_pack rfl (by decide) (fun _ => rfl) (by decide)

theorem Shape.yWaitSig (a : Opnd) (scope : BitVec 3) : Shape.Statement (.yWaitSig a scope) := shape_pack rfl (by decide) (fun _ => rfl) (by decide)

theorem Shape.yFenceAcq (scope : BitVec 3) : Shape.Statement (.yFenceAcq scope) := shape_pack rfl (by decide) (fun _ => rfl) (by decide)

theorem Shape.yFenceRel (scope : BitVec 3) : Shape.Statement (.yFenceRel scope) := shape_pack rfl (by decide) (fun _ => rfl) (by decide)

theorem Shape.yFenceAr (scope : BitVec 3) : Shape.Statement (.yFenceAr scope) := shape_pack rfl (by decide) (fun _ => rfl) (by decide)

theorem Shape.yBar (a : Opnd) (scope : BitVec 3) (bar : BitVec 8) : Shape.Statement (.yBar a scope bar) := shape_pack rfl (by decide) (fun _ => rfl) (by decide)

theorem Shape.yBarw (a : Opnd) (scope : BitVec 3) (bar : BitVec 8) : Shape.Statement (.yBarw a scope bar) := shape_pack rfl (by decide) (fun _ => rfl) (by decide)

theorem Shape.yWfe (ws : Bool) (d a : Opnd) : Shape.Statement (.yWfe ws d a) := shape_pack rfl (by decide) (fun _ => rfl) (by decide)

theorem Shape.ySev (a : Opnd) (own : Bool) (ev : BitVec 8) : Shape.Statement (.ySev a own ev) := shape_pack rfl (by decide) (fun _ => rfl) (by decide)

theorem Shape.ySig (a : Opnd) (scope : BitVec 3) : Shape.Statement (.ySig a scope) := shape_pack rfl (by decide) (fun _ => rfl) (by decide)

theorem Shape.ySplit (ws : Bool) (d : Opnd) (n : BitVec 4) : Shape.Statement (.ySplit ws d n) := shape_pack rfl (by decide) (fun _ => rfl) (by decide)

theorem Shape.ySwap (ws : Bool) (d : Opnd) (e : BitVec 3) : Shape.Statement (.ySwap ws d e) := shape_pack rfl (by decide) (fun _ => rfl) (by decide)

theorem Shape.yIfence : Shape.Statement .yIfence := shape_pack rfl (by decide) (fun _ => rfl) (by decide)

theorem Shape.yTsrinv (a : Opnd) : Shape.Statement (.yTsrinv a) := shape_pack rfl (by decide) (fun _ => rfl) (by decide)

theorem Shape.yTsrinvAll : Shape.Statement .yTsrinvAll := shape_pack rfl (by decide) (fun _ => rfl) (by decide)

theorem Shape.yQsub (ws : Bool) (d a b : Opnd) : Shape.Statement (.yQsub ws d a b) := shape_pack rfl (by decide) (fun _ => rfl) (by decide)

theorem Shape.yQsubRe (ws : Bool) (d : Opnd) (h : BitVec 8) : Shape.Statement (.yQsubRe ws d h) := shape_pack rfl (by decide) (fun _ => rfl) (by decide)

theorem Shape.yQrun (a : Opnd) : Shape.Statement (.yQrun a) := shape_pack rfl (by decide) (fun _ => rfl) (by decide)

theorem Shape.yQwait (ws : Bool) (d a : Opnd) (rel : Bool) : Shape.Statement (.yQwait ws d a rel) := shape_pack rfl (by decide) (fun _ => rfl) (by decide)

theorem Shape.yHint (a b : Opnd) : Shape.Statement (.yHint a b) := shape_pack rfl (by decide) (fun _ => rfl) (by decide)

theorem Shape.yPin (a : Opnd) (whole : Bool) (node : BitVec 5) : Shape.Statement (.yPin a whole node) := shape_pack rfl (by decide) (fun _ => rfl) (by decide)

theorem Shape.yUnpin (a : Opnd) (whole : Bool) (node : BitVec 5) : Shape.Statement (.yUnpin a whole node) := shape_pack rfl (by decide) (fun _ => rfl) (by decide)

theorem Shape.yPlanrd (a b : Opnd) : Shape.Statement (.yPlanrd a b) := shape_pack rfl (by decide) (fun _ => rfl) (by decide)

theorem Shape.yStatrd (a b : Opnd) : Shape.Statement (.yStatrd a b) := shape_pack rfl (by decide) (fun _ => rfl) (by decide)

theorem Shape.yStatwr (a b : Opnd) : Shape.Statement (.yStatwr a b) := shape_pack rfl (by decide) (fun _ => rfl) (by decide)

theorem Shape.yStatwrInv (a b : Opnd) : Shape.Statement (.yStatwrInv a b) := shape_pack rfl (by decide) (fun _ => rfl) (by decide)

theorem Shape.yLeave (cls : BitVec 2) : Shape.Statement (.yLeave cls) := shape_pack rfl (by decide) (fun _ => rfl) (by decide)

theorem Shape.yLeaveRel (cls : BitVec 2) : Shape.Statement (.yLeaveRel cls) := shape_pack rfl (by decide) (fun _ => rfl) (by decide)

theorem Shape.coldReset : Shape.Statement .coldReset := fun _ => rfl

theorem Shape.warmReset : Shape.Statement .warmReset := fun _ => rfl

theorem Shape.bringupStepDone : Shape.Statement .bringupStepDone := fun _ => rfl

theorem Shape.functionLevelResetVf : Shape.Statement .functionLevelResetVf := fun _ => rfl

theorem Shape.functionLevelResetPf : Shape.Statement .functionLevelResetPf := fun _ => rfl

theorem Shape.d3hotEntry : Shape.Statement .d3hotEntry := fun _ => rfl

theorem Shape.d0Return : Shape.Statement .d0Return := fun _ => rfl

theorem Shape.droopDetect : Shape.Statement .droopDetect := fun _ => rfl

theorem Shape.thermalHot : Shape.Statement .thermalHot := fun _ => rfl

theorem Shape.criticalTrip : Shape.Statement .criticalTrip := fun _ => rfl

theorem Shape.tripRecovery : Shape.Statement .tripRecovery := fun _ => rfl

theorem Shape.governorTick : Shape.Statement .governorTick := fun _ => rfl

theorem Shape.limitHalveExcursion : Shape.Statement .limitHalveExcursion := fun _ => rfl

theorem Shape.leaveRequest : Shape.Statement .leaveRequest := fun _ => rfl

theorem Shape.leaveGrant : Shape.Statement .leaveGrant := fun _ => rfl

theorem Shape.leaveAging : Shape.Statement .leaveAging := fun _ => rfl

theorem Shape.supplyGlitch : Shape.Statement .supplyGlitch := fun _ => rfl

theorem Shape.tamperMeshBroken : Shape.Statement .tamperMeshBroken := fun _ => rfl

theorem Shape.dieLinkFailure : Shape.Statement .dieLinkFailure := fun _ => rfl

theorem Shape.granuleRead : Shape.Statement .granuleRead := fun _ => rfl

theorem Shape.granuleWrite : Shape.Statement .granuleWrite := fun _ => rfl

theorem Shape.granulePartialWrite : Shape.Statement .granulePartialWrite := fun _ => rfl

theorem Shape.requestReserving : Shape.Statement .requestReserving := fun _ => rfl

theorem Shape.patrolScrub : Shape.Statement .patrolScrub := fun _ => rfl

theorem Shape.rds : Shape.Statement .rds := fun _ => rfl

theorem Shape.rde : Shape.Statement .rde := fun _ => rfl

theorem Shape.upg : Shape.Statement .upg := fun _ => rfl

theorem Shape.ncrd : Shape.Statement .ncrd := fun _ => rfl

theorem Shape.ncwr : Shape.Statement .ncwr := fun _ => rfl

theorem Shape.migrd : Shape.Statement .migrd := fun _ => rfl

theorem Shape.wbm : Shape.Statement .wbm := fun _ => rfl

theorem Shape.eve : Shape.Statement .eve := fun _ => rfl

theorem Shape.snpinv : Shape.Statement .snpinv := fun _ => rfl

theorem Shape.snpshr : Shape.Statement .snpshr := fun _ => rfl

theorem Shape.snpcur : Shape.Statement .snpcur := fun _ => rfl

theorem Shape.backinv : Shape.Statement .backinv := fun _ => rfl

theorem Shape.snoopAnswer : Shape.Statement .snoopAnswer := fun _ => rfl

theorem Shape.wback : Shape.Statement .wback := fun _ => rfl

theorem Shape.retry : Shape.Statement .retry := fun _ => rfl

theorem Shape.coreCapacityTimeout : Shape.Statement .coreCapacityTimeout := fun _ => rfl

theorem Shape.engineCapacityTimeout : Shape.Statement .engineCapacityTimeout := fun _ => rfl

theorem Shape.regr : Shape.Statement .regr := fun _ => rfl

theorem Shape.regw : Shape.Statement .regw := fun _ => rfl

theorem Shape.directorySweep : Shape.Statement .directorySweep := fun _ => rfl

theorem Shape.hotTablePeriodEnd : Shape.Statement .hotTablePeriodEnd := fun _ => rfl

theorem Shape.migrationSwitch : Shape.Statement .migrationSwitch := fun _ => rfl

theorem Shape.migrationWindowEnd : Shape.Statement .migrationWindowEnd := fun _ => rfl

theorem Shape.atsInvalidation : Shape.Statement .atsInvalidation := fun _ => rfl

theorem Shape.finzonPortChange : Shape.Statement .finzonPortChange := fun _ => rfl

theorem Shape.finzonPut : Shape.Statement .finzonPut := fun _ => rfl

theorem Shape.finzonGet : Shape.Statement .finzonGet := fun _ => rfl

theorem Shape.finzonGetData : Shape.Statement .finzonGetData := fun _ => rfl

theorem Shape.finzonAtomic : Shape.Statement .finzonAtomic := fun _ => rfl

theorem Shape.finzonAtomicResult : Shape.Statement .finzonAtomicResult := fun _ => rfl

theorem Shape.finzonAck : Shape.Statement .finzonAck := fun _ => rfl

theorem Shape.finzonNak : Shape.Statement .finzonNak := fun _ => rfl

theorem Shape.finzonCollective : Shape.Statement .finzonCollective := fun _ => rfl

theorem Shape.finzonTransit : Shape.Statement .finzonTransit := fun _ => rfl

theorem Shape.finzonResendTimeout : Shape.Statement .finzonResendTimeout := fun _ => rfl

theorem Shape.minorFrame : Shape.Statement .minorFrame := fun _ => rfl

theorem Shape.kernel : Shape.Statement .kernel := fun _ => rfl

theorem Shape.barrierAnd : Shape.Statement .barrierAnd := fun _ => rfl

theorem Shape.barrierOr : Shape.Statement .barrierOr := fun _ => rfl

theorem Shape.copy : Shape.Statement .copy := fun _ => rfl

theorem Shape.signal : Shape.Statement .signal := fun _ => rfl

theorem Shape.plan : Shape.Statement .plan := fun _ => rfl

theorem Shape.gridComplete : Shape.Statement .gridComplete := fun _ => rfl

theorem Shape.queueEnable : Shape.Statement .queueEnable := fun _ => rfl

theorem Shape.queueDisable : Shape.Statement .queueDisable := fun _ => rfl

theorem Shape.queueReset : Shape.Statement .queueReset := fun _ => rfl

theorem Shape.hostWindowWrite : Shape.Statement .hostWindowWrite := fun _ => rfl

theorem Shape.landingTimeout : Shape.Statement .landingTimeout := fun _ => rfl

theorem Shape.nwake : Shape.Statement .nwake := fun _ => rfl

theorem Shape.fwpatchGo : Shape.Statement .fwpatchGo := fun _ => rfl

theorem Shape.fwpatchCancel : Shape.Statement .fwpatchCancel := fun _ => rfl

theorem Shape.patchApply : Shape.Statement .patchApply := fun _ => rfl

theorem Shape.attOpen : Shape.Statement .attOpen := fun _ => rfl

theorem Shape.attQuote : Shape.Statement .attQuote := fun _ => rfl

theorem Shape.attClose : Shape.Statement .attClose := fun _ => rfl

theorem Shape.recBegin : Shape.Statement .recBegin := fun _ => rfl

theorem Shape.recPiece : Shape.Statement .recPiece := fun _ => rfl

theorem Shape.recEnd : Shape.Statement .recEnd := fun _ => rfl

theorem Shape.mbcmdReserved : Shape.Statement .mbcmdReserved := fun _ => rfl

theorem Shape.tlbiGo : Shape.Statement .tlbiGo := fun _ => rfl

theorem Shape.save : Shape.Statement .save := fun _ => rfl

theorem Shape.restore : Shape.Statement .restore := fun _ => rfl

theorem Shape.resume : Shape.Statement .resume := fun _ => rfl

theorem Shape.registerWrite : Shape.Statement .registerWrite := fun _ => rfl

theorem Shape.teamPlacement : Shape.Statement .teamPlacement := fun _ => rfl

theorem Shape.contextSwitch : Shape.Statement .contextSwitch := fun _ => rfl

theorem Shape.contextTakeRecord : Shape.Statement .contextTakeRecord := fun _ => rfl

theorem Shape.eviction : Shape.Statement .eviction := fun _ => rfl

theorem Shape.waitSatisfied : Shape.Statement .waitSatisfied := fun _ => rfl

theorem Shape.signalWaitRepoll : Shape.Statement .signalWaitRepoll := fun _ => rfl

theorem Shape.balanceExchange : Shape.Statement .balanceExchange := fun _ => rfl

theorem Shape.quantumBoundary : Shape.Statement .quantumBoundary := fun _ => rfl

theorem Shape.replayReady : Shape.Statement .replayReady := fun _ => rfl

theorem Shape.bundleIssue : Shape.Statement .bundleIssue := fun _ => rfl

theorem Shape.resultWriteback : Shape.Statement .resultWriteback := fun _ => rfl

theorem Shape.interlockArrival : Shape.Statement .interlockArrival := fun _ => rfl

theorem Shape.splitDrainEnd : Shape.Statement .splitDrainEnd := fun _ => rfl

theorem Shape.jobCardEntry : Shape.Statement .jobCardEntry := fun _ => rfl

theorem Shape.jobDispatch : Shape.Statement .jobDispatch := fun _ => rfl

theorem Shape.engineCopy : Shape.Statement .engineCopy := fun _ => rfl

theorem Shape.engineGather : Shape.Statement .engineGather := fun _ => rfl

theorem Shape.engineScatter : Shape.Statement .engineScatter := fun _ => rfl

theorem Shape.engineFill : Shape.Statement .engineFill := fun _ => rfl

theorem Shape.engineExpand : Shape.Statement .engineExpand := fun _ => rfl

theorem Shape.engineSeal : Shape.Statement .engineSeal := fun _ => rfl

theorem Shape.engineGalleryLoad : Shape.Statement .engineGalleryLoad := fun _ => rfl

theorem Shape.engineCollective : Shape.Statement .engineCollective := fun _ => rfl

theorem Shape.engineCheckpoint : Shape.Statement .engineCheckpoint := fun _ => rfl

theorem Shape.engineRestore : Shape.Statement .engineRestore := fun _ => rfl

theorem Shape.engineRemoteAtomic : Shape.Statement .engineRemoteAtomic := fun _ => rfl

theorem Shape.plannedMatrixWork : Shape.Statement .plannedMatrixWork := fun _ => rfl

theorem Shape.jobComplete : Shape.Statement .jobComplete := fun _ => rfl

theorem Shape.sealComplete : Shape.Statement .sealComplete := fun _ => rfl

theorem Shape.matrixCommandComplete : Shape.Statement .matrixCommandComplete := fun _ => rfl

theorem Shape.planningEnd : Shape.Statement .planningEnd := fun _ => rfl

theorem Shape.planBreak : Shape.Statement .planBreak := fun _ => rfl

theorem Shape.planComplete : Shape.Statement .planComplete := fun _ => rfl

theorem Shape.dataToRequester : Shape.Statement .dataToRequester := fun _ => rfl

theorem Shape.registrationAnswer : Shape.Statement .registrationAnswer := fun _ => rfl

theorem Shape.dieLinkRetry : Shape.Statement .dieLinkRetry := fun _ => rfl

theorem Shape.finzonReservedType : Shape.Statement .finzonReservedType := fun _ => rfl

theorem Shape.hostLinkTraining : Shape.Statement .hostLinkTraining := fun _ => rfl

end Sys2Proof.Laws
end

