-- ==== Sys2Proof/Laws/Vector.lean ====
section
/-! SUPPORT. Packed strings of elements, and what the shared result operations of the slots send (08 R195, R201; 14 R331, R336). -/

namespace Sys2Proof.Laws

open Sys2Proof.Machine

set_option Elab.async false

theorem packList_lt (w : Nat) (l : List Nat) : packList w l < 2 ^ (w * l.length) := by
  induction l with
  | nil => simp [packList]
  | cons x xs ih =>
    simp only [packList, List.length_cons, Nat.mul_add, Nat.mul_one, Nat.pow_add]
    have h1 : x % 2 ^ w < 2 ^ w := Nat.mod_lt _ (by positivity)
    calc x % 2 ^ w + 2 ^ w * packList w xs < 2 ^ w + 2 ^ w * packList w xs := by omega
      _ = 2 ^ w * (packList w xs + 1) := by ring
      _ ≤ 2 ^ w * 2 ^ (w * xs.length) := Nat.mul_le_mul_left _ ih
      _ = 2 ^ (w * xs.length) * 2 ^ w := by ring

/-- Element `i` of a packed list. -/
theorem elemN_packList (w : Nat) (l : List Nat) (i : Nat) (hi : i < l.length) : elemN w (packList w l) i = l[i] % 2 ^ w := by
  induction l generalizing i with
  | nil => simp at hi
  | cons x xs ih =>
    cases i with
    | zero => simp [elemN, bitsN, packList]
    | succ i =>
      have h := ih i (by simpa using hi)
      simp only [elemN, bitsN, packList, List.getElem_cons_succ] at h ⊢
      rw [← h, Nat.mul_add, Nat.mul_one, Nat.add_comm (w * i) w, Nat.pow_add, ← Nat.div_div_eq_div_mul]
      congr 2
      rw [Nat.add_mul_div_left _ _ (by positivity), Nat.div_eq_of_lt (Nat.mod_lt _ (by positivity)), Nat.zero_add]

theorem testBit_packList (w : Nat) (l : List Nat) (b : Nat) (hb : b < w * l.length) :
    (packList w l).testBit b = (l.getD (b / w) 0).testBit (b % w) := by
  have hw : 0 < w := by
    rcases Nat.eq_zero_or_pos w with h | h
    · simp [h] at hb
    · exact h
  have hi : b / w < l.length := by
    rw [Nat.mul_comm] at hb
    exact (Nat.div_lt_iff_lt_mul hw).2 hb
  have h := elemN_packList w l (b / w) hi
  have h2 := congrArg (fun n => n.testBit (b % w)) h
  simp only [elemN, bitsN, Nat.testBit_mod_two_pow, Nat.mod_lt _ hw, decide_true, Bool.true_and, Nat.testBit_div_two_pow,
    Nat.mod_add_div] at h2
  rw [h2, List.getD_eq_getElem _ _ hi]

set_option exponentiation.threshold 4096 in
/-- A sum with no bit in common. -/
theorem testBit_add_high (x k : Nat) (hx : x < 2 ^ k) (hk : k ≤ 2048) (b : Nat) (hb : b < 2048) :
    (x + (2 ^ 2048 - 2 ^ k)).testBit b = if b < k then x.testBit b else true := by
  have e : (2 : Nat) ^ 2048 - 2 ^ k = 2 ^ k * (2 ^ (2048 - k) - 1) := by
    rw [Nat.mul_sub, ← Nat.pow_add, Nat.mul_one, Nat.add_sub_of_le hk]
  rw [e, Nat.add_comm, Nat.testBit_two_pow_mul_add _ hx]
  split
  · rfl
  · rw [Nat.testBit_two_pow_sub_one]
    exact decide_eq_true (by omega)

/-- What `State.vecElems` sends: its elements, the bits of the destination it writes, and zeros above them. -/
theorem vecElems_data (w n : Nat) (hn : w * n ≤ 2048) (on : Nat → Bool) (f : Nat → Nat) :
    let data : VReg := BitVec.ofNat 2048 (packList w ((List.range n).map fun i => if on i then f i else 0))
    (∀ i < n, elemN w data.toNat i = if on i then f i % 2 ^ w else 0) ∧ (∀ b, w * n ≤ b → data.getLsbD b = false) := by
  intro data
  have hl := packList_lt w ((List.range n).map fun i => if on i then f i else 0)
  simp only [List.length_map, List.length_range] at hl
  have ht : data.toNat = packList w ((List.range n).map fun i => if on i then f i else 0) := by
    simp only [data, BitVec.toNat_ofNat]
    exact Nat.mod_eq_of_lt (Nat.lt_of_lt_of_le hl (Nat.pow_le_pow_right (by decide) hn))
  constructor
  · intro i hi
    rw [ht, elemN_packList _ _ _ (by simpa using hi)]
    simp only [List.getElem_map, List.getElem_range]
    split <;> simp
  · intro b hb
    rw [← BitVec.testBit_toNat, ht]
    exact Nat.testBit_lt_two_pow (Nat.lt_of_lt_of_le hl (Nat.pow_le_pow_right (by decide) hb))

theorem vecElems_mask (w n : Nat) (hn : w * n ≤ 2048) (on : Nat → Bool) (b : Nat) (hb : b < 2048) :
    (BitVec.ofNat 2048 (maskList w n on + (2 ^ 2048 - 2 ^ (w * n)))).getLsbD b = if b < w * n then on (b / w) else true := by
  have hl := packList_lt w ((List.range n).map fun i => if on i then 2 ^ w - 1 else 0)
  simp only [List.length_map, List.length_range] at hl
  rw [BitVec.getLsbD_ofNat, decide_eq_true hb, Bool.true_and, maskList, testBit_add_high _ _ hl hn _ hb]
  split
  case isTrue h =>
    have hw : 0 < w := by
      rcases Nat.eq_zero_or_pos w with e | e
      · simp [e] at h
      · exact e
    rw [testBit_packList _ _ _ (by simpa using h)]
    have hi : b / w < n := by
      rw [Nat.mul_comm] at h
      exact (Nat.div_lt_iff_lt_mul hw).2 h
    rw [List.getD_eq_getElem _ _ (by simpa using hi)]
    simp only [List.getElem_map, List.getElem_range]
    cases on (b / w)
    · simp
    · simp [Nat.testBit_two_pow_sub_one, Nat.mod_lt _ hw]
  case isFalse => rfl

end Sys2Proof.Laws
end

