-- ==== Sys2Proof/Tests/Slice0.lean ====
section
/-! SUPPORT. Tests: words of the manual decode, ill-formed terms are refused, each instruction does what its rule says on a small
state, and the hypotheses of every statement are met by a state. -/

set_option Elab.async false
set_option maxRecDepth 100000

namespace Sys2Proof.Tests

open Sys2Proof Sys2Proof.Machine Sys2Proof.Claims

/-! ## Small states -/

/-- The answer of an outcome, when it is a next state that passes a test. -/
def nx (r : Host.Outcome State Fault Refusal) (p : State → Bool) : Bool :=
  match r with
  | .next t => p t
  | _ => false

/-- One thread on core 0, context 0, that fetches; and the same while its bundle issues. -/
def thread : State := State.reset.withFetchWord 512 0
def issuing : State := { thread with issued := true }

/-- Scalar registers of the thread. -/
def withS (l : List (Fin 64 × Nat)) (s : State) : State := s.modCtx fun c => l.foldl (fun c p => c.setS p.1 (BitVec.ofNat 64 p.2)) c

/-- A page table at 4096: VA 0 to 2^30 is a coherent page at DPA 2^30, the next 2^30 a C = 0 page at 2^31; G512, all permitted. -/
def leaf (c : Bool) (frame : Nat) : Nat := 0x1F + 0x80 + (if c then 0x100 else 0) + frame + 2 ^ 40
def tables : Memory :=
  Memory.write (Memory.write (Memory.write (Memory.write [] 0x1000 (bytesOfNat 8 0x2001)) 0x2000 (bytesOfNat 8 0x3001)) 0x3000
    (bytesOfNat 8 (leaf true (2 ^ 30)))) 0x3008 (bytesOfNat 8 (leaf false (2 ^ 31)))
def mapped (s : State) : State :=
  (s.modDctx 0 fun d => { d with valid := true, ptroot := 2 }).modMem fun m => { m with bytes := tables }

/-- Bytes of memory at a DPA. -/
def withBytes (dpa : Nat) (bs : List Byte) (s : State) : State :=
  s.modMem fun m => { m with bytes := Memory.write m.bytes dpa bs }

/-- A word of a slot decodes to an instruction, which encodes to the word again. -/
def gives (n : Fin 8) (w : Nat) (i : Instr) : Bool :=
  (match decodeSlot n (BitVec.ofNat 56 w) with
  | .ok (some x) => x == i
  | _ => false) && encode 0 i == BitVec.ofNat 56 w && i.wf && i.slot == some n.val
def all (l : List (Fin 8 × Nat × Instr)) : Bool := l.all fun p => gives p.1 p.2.1 p.2.2

/-- Words of 12 R290 to R295, written out from their tables: scalar. -/
theorem test_wordsScalar1 : all [
    (0, 0x00202421414000, .sAddReg false (.main 9) (.main 33) (.oper 5)),
    (0, 0x00402421414000, .sSub false (.main 9) (.main 33) (.oper 5)),
    (0, 0x00602421414000, .sMulReg false (.main 9) (.main 33) (.oper 5)),
    (0, 0x00802421414000, .sMulh false (.main 9) (.main 33) (.oper 5)),
    (0, 0x00A02421414000, .sDiv false (.main 9) (.main 33) (.oper 5)),
    (0, 0x00C02421414000, .sRem false (.main 9) (.main 33) (.oper 5)),
    (0, 0x00E02421414000, .sAndReg false (.main 9) (.main 33) (.oper 5)),
    (0, 0x01002421414000, .sOrReg false (.main 9) (.main 33) (.oper 5)),
    (0, 0x01202421414000, .sXorReg false (.main 9) (.main 33) (.oper 5)),
    (0, 0x01402421414000, .sShlReg false (.main 9) (.main 33) (.oper 5)),
    (0, 0x01602421414000, .sShrReg false (.main 9) (.main 33) (.oper 5)),
    (0, 0x01802421414000, .sSarReg false (.main 9) (.main 33) (.oper 5)),
    (0, 0x01A02421414000, .sMinReg false (.main 9) (.main 33) (.oper 5)),
    (0, 0x01C02421414000, .sMaxReg false (.main 9) (.main 33) (.oper 5)),
    (0, 0x01E02421414203, .sSel false (.main 9) (.main 33) (.oper 5) (.last 3)),
    (0, 0x02300322003FFE, .sAddImm true (.main 0) (.latch 1 2) 0x3FFE),
    (0, 0x02700322003FFE, .sMulImm true (.main 0) (.latch 1 2) 0x3FFE),
    (0, 0x02F00322003FFE, .sAndImm true (.main 0) (.latch 1 2) 0x3FFE),
    (0, 0x03100322003FFE, .sOrImm true (.main 0) (.latch 1 2) 0x3FFE),
    (0, 0x03300322003FFE, .sXorImm true (.main 0) (.latch 1 2) 0x3FFE)] = true := by decide

/-- Words of 12 R290 to R295, written out from their tables: scalar. -/
theorem test_wordsScalar2 : all [
    (0, 0x03B00322003FFE, .sMinImm true (.main 0) (.latch 1 2) 0x3FFE),
    (0, 0x03D00322003FFE, .sMaxImm true (.main 0) (.latch 1 2) 0x3FFE),
    (0, 0x0340242100003F, .sShlImm false (.main 9) (.main 33) 63),
    (0, 0x0360242100003F, .sShrImm false (.main 9) (.main 33) 63),
    (0, 0x0380242100003F, .sSarImm false (.main 9) (.main 33) 63),
    (0, 0x04002700000007, .sLi false (.main 9) 0x300000007),
    (0, 0x04202420000001, .sLih false (.main 9) 0x20000001),
    (0, 0x04402421414005, .sAddsc false (.main 9) (.main 33) (.oper 5) 5),
    (0, 0x04602400000008, .sGetc false (.main 9) 8),
    (0, 0x04800021000007, .sSetc (.main 33) 7),
    (0, 0x0600002180C000, .sCmpEqReg (.main 33) (.last 3)),
    (0, 0x08000105002001, .sCmpEqImm (.oper 5) 0x2001),
    (0, 0x0620002180C000, .sCmpNeReg (.main 33) (.last 3)),
    (0, 0x08200105002001, .sCmpNeImm (.oper 5) 0x2001),
    (0, 0x0640002180C000, .sCmpLtReg (.main 33) (.last 3)),
    (0, 0x08400105002001, .sCmpLtImm (.oper 5) 0x2001),
    (0, 0x0660002180C000, .sCmpLeReg (.main 33) (.last 3)),
    (0, 0x08600105002001, .sCmpLeImm (.oper 5) 0x2001),
    (0, 0x0680002180C000, .sCmpGtReg (.main 33) (.last 3)),
    (0, 0x08800105002001, .sCmpGtImm (.oper 5) 0x2001)] = true := by decide

/-- Words of 12 R290 to R295, written out from their tables: scalar. -/
theorem test_wordsScalar3 : all [
    (0, 0x06A0002180C000, .sCmpGeReg (.main 33) (.last 3)),
    (0, 0x08A00105002001, .sCmpGeImm (.oper 5) 0x2001),
    (0, 0x06C0002180C000, .sCmpLtuReg (.main 33) (.last 3)),
    (0, 0x08C00105002001, .sCmpLtuImm (.oper 5) 0x2001),
    (0, 0x06E0002180C000, .sCmpLeuReg (.main 33) (.last 3)),
    (0, 0x08E00105002001, .sCmpLeuImm (.oper 5) 0x2001),
    (0, 0x0700002180C000, .sCmpGtuReg (.main 33) (.last 3)),
    (0, 0x09000105002001, .sCmpGtuImm (.oper 5) 0x2001),
    (0, 0x0720002180C000, .sCmpGeuReg (.main 33) (.last 3)),
    (0, 0x09200105002001, .sCmpGeuImm (.oper 5) 0x2001)] = true := by decide

/-- Words of 12 R290 to R295, written out from their tables: control. -/
theorem test_wordsControl1 : all [
    (0, 0x0C0000000007FF, .sJmp 2047),
    (0, 0x0C300000000011, .sJal true (.main 0) 17),
    (0, 0x0C400021000000, .sJr (.main 33)),
    (0, 0x0C60000409BEEF, .sJbank 0xBEEF 1033),
    (0, 0x0C8000210007FF, .sLoopReg (.main 33) 2047),
    (0, 0x0CA002AF378003, .sLoopImm 0xABCDE 3),
    (0, 0x0CC00000000040, .sMark 64),
    (0, 0x0CE0000000000F, .sTrap 15),
    (0, 0x0D000021000000, .sTret (.main 33)),
    (0, 0x0D200000000000, .sYield),
    (0, 0x0D400000000000, .sHalt)] = true := by decide

/-- Words of 12 R290 to R295, written out from their tables: vector. -/
theorem test_wordsVector1 : all [
    (1, 0x00202421416802, .vAdd .va false (.main 9) (.main 33) (.oper 5) 5 2),
    (2, 0x00402421416802, .vSub .vb false (.main 9) (.main 33) (.oper 5) 5 2),
    (1, 0x00602421416802, .vMul .va false (.main 9) (.main 33) (.oper 5) 5 2),
    (2, 0x00802421416802, .vFma .vb false (.main 9) (.main 33) (.oper 5) 5 2),
    (1, 0x00A02421416802, .vMin .va false (.main 9) (.main 33) (.oper 5) 5 2),
    (2, 0x00C02421416802, .vMax .vb false (.main 9) (.main 33) (.oper 5) 5 2),
    (1, 0x00E02421000806, .vAbs .va false (.main 9) (.main 33) 1 6),
    (2, 0x01002421417800, .vAnd .vb false (.main 9) (.main 33) (.oper 5) 7),
    (2, 0x01202421417800, .vOr .vb false (.main 9) (.main 33) (.oper 5) 7),
    (2, 0x01402421417800, .vXor .vb false (.main 9) (.main 33) (.oper 5) 7),
    (1, 0x01602421415003, .vShlVec .va false (.main 9) (.main 33) (.oper 5) 2 3),
    (2, 0x036024210B5004, .vShlImm .vb false (.main 9) (.main 33) 2 45 4),
    (1, 0x01802421415003, .vShrVec .va false (.main 9) (.main 33) (.oper 5) 2 3),
    (2, 0x038024210B5004, .vShrImm .vb false (.main 9) (.main 33) 2 45 4),
    (1, 0x01A02421415003, .vSarVec .va false (.main 9) (.main 33) (.oper 5) 2 3),
    (2, 0x03A024210B5004, .vSarImm .vb false (.main 9) (.main 33) 2 45 4),
    (1, 0x02001421415801, .vCmpEq .va false (.main 5) (.main 33) (.oper 5) 3 1),
    (1, 0x02001421415811, .vCmpNe .va false (.main 5) (.main 33) (.oper 5) 3 1),
    (1, 0x02001421415821, .vCmpLt .va false (.main 5) (.main 33) (.oper 5) 3 1),
    (1, 0x02001421415831, .vCmpLe .va false (.main 5) (.main 33) (.oper 5) 3 1)] = true := by decide

/-- Words of 12 R290 to R295, written out from their tables: vector. -/
theorem test_wordsVector2 : all [
    (1, 0x02001421415841, .vCmpGt .va false (.main 5) (.main 33) (.oper 5) 3 1),
    (1, 0x02001421415851, .vCmpGe .va false (.main 5) (.main 33) (.oper 5) 3 1),
    (1, 0x02200005000000, .vAny .va (.main 5)),
    (2, 0x02400204000000, .vAll .vb (.last 4)),
    (1, 0x04002421002358, .vCvt .va false (.main 9) (.main 33) 4 3 8 5),
    (2, 0x04202421416030, .vRq .vb false (.main 9) (.main 33) (.oper 5) 4 3),
    (1, 0x04402421416002, .vScacc .va false (.main 9) (.main 33) (.oper 5) 4 2),
    (1, 0x06002421417000, .vPerm .va false (.main 9) (.main 33) (.oper 5) 6),
    (1, 0x062024210FF000, .vRot .va false (.main 9) (.main 33) 6 63),
    (1, 0x06402421003000, .vBcast .va false (.main 9) (.main 33) 6),
    (1, 0x06602400003002, .vIota .va false (.main 9) 6 2),
    (1, 0x068024210F8000, .vExt .va false (.main 9) (.main 33) 62),
    (2, 0x08002421000801, .vRsum .vb false (.main 9) (.main 33) 1 1),
    (2, 0x08202421000801, .vRmin .vb false (.main 9) (.main 33) 1 1),
    (2, 0x08402421000801, .vRmax .vb false (.main 9) (.main 33) 1 1),
    (2, 0x08602421000801, .vScan .vb false (.main 9) (.main 33) 1 1),
    (1, 0x0A002421000802, .vRcp .va false (.main 9) (.main 33) 1),
    (1, 0x0A202421000802, .vRsq .va false (.main 9) (.main 33) 1),
    (1, 0x0A402421000802, .vExp2 .va false (.main 9) (.main 33) 1),
    (1, 0x0A602421000802, .vLog2 .va false (.main 9) (.main 33) 1)] = true := by decide

/-- Words of 12 R290 to R295, written out from their tables: vector. -/
theorem test_wordsVector3 : all [
    (2, 0x0C002421414800, .vThrcnt .vb false (.main 9) (.main 33) (.oper 5) 1 0),
    (2, 0x0C202421414800, .vThrsel .vb false (.main 9) (.main 33) (.oper 5) 1 0),
    (1, 0x0C402421414862, .vGnorm .va false (.main 9) (.main 33) (.oper 5) 1 6),
    (1, 0x0E001406810000, .kAnd .va false (.main 5) (.main 6) (.last 4)),
    (2, 0x0E201406810000, .kOr .vb false (.main 5) (.main 6) (.last 4)),
    (1, 0x0E401406000000, .kNot .va false (.main 5) (.main 6)),
    (1, 0x0E602406000000, .kPop .va false (.main 9) (.main 6))] = true := by decide

/-- Words of 12 R290 to R295, written out from their tables: memory. -/
theorem test_wordsMemory1 : all [
    (4, 0x0020242101A008, .ldS false (.main 9) (.main 33) 2 true 0x2008),
    (4, 0x0040242101A008, .ldSB false (.main 9) (.main 33) 2 true 0x2008),
    (4, 0x00602421001FFC, .ldV false (.main 9) (.main 33) 0x1FFC),
    (4, 0x00802421001FFC, .ldVB false (.main 9) (.main 33) 0x1FFC),
    (4, 0x00A02437020000, .ldVt false (.main 9) (.main 55) 8),
    (4, 0x00C02421414001, .ldG false (.main 9) (.main 33) (.oper 5) 1),
    (4, 0x00E02421014006, .ldBc false (.main 9) (.main 33) 1 true 6),
    (4, 0x01001421000008, .ldK false (.main 5) (.main 33) 8),
    (4, 0x01200021000040, .pf (.main 33) 64),
    (4, 0x01400021414000, .res (.main 33) (.oper 5)),
    (5, 0x0020242113FFF8, .stS (.main 9) (.main 33) 3 true 3 0x3FF8),
    (5, 0x004C8821140004, .stV (.latch 1 2) (.main 33) true 4 4),
    (5, 0x0060243E004000, .stVt (.main 9) (.main 62) 1),
    (5, 0x00802421414002, .stSc (.main 9) (.main 33) (.oper 5) 2),
    (5, 0x02002421198105, .amoAdd false (.main 9) (.main 33) false 3 1 (.oper 5)),
    (5, 0x02202421198105, .amoMin false (.main 9) (.main 33) false 3 1 (.oper 5)),
    (5, 0x02402421198105, .amoMax false (.main 9) (.main 33) false 3 1 (.oper 5)),
    (5, 0x02602421198105, .amoAnd false (.main 9) (.main 33) false 3 1 (.oper 5)),
    (5, 0x02802421198105, .amoOr false (.main 9) (.main 33) false 3 1 (.oper 5)),
    (5, 0x02A02421198105, .amoXor false (.main 9) (.main 33) false 3 1 (.oper 5))] = true := by decide

/-- Words of 12 R290 to R295, written out from their tables: memory. -/
theorem test_wordsMemory2 : all [
    (5, 0x02C02421198105, .amoSwap false (.main 9) (.main 33) false 3 1 (.oper 5)),
    (5, 0x02E024210AC03E, .amoCas false (.main 9) (.main 33) true 1 2 (.main 62))] = true := by decide

/-- Words of 12 R290 to R295, written out from their tables: matrix. -/
theorem test_wordsMatrix1 : all [
    (3, 0x00200000000000, .mAcq),
    (3, 0x00400000000000, .mRel),
    (3, 0x00600000000102, .mMode true 2),
    (3, 0x00800021414000, .mLdb (.main 33) (.oper 5)),
    (3, 0x00800021414001, .mLdbEdge (.main 33) (.oper 5)),
    (3, 0x00A00021414000, .mLdbx (.main 33) (.oper 5)),
    (3, 0x00C000214166A5, .mMma 9 true false 0xA5 (.main 33) (.oper 5)),
    (3, 0x00E00000000100, .mZero true),
    (3, 0x010000214141FE, .mZpc true 0xFE (.main 33) (.oper 5)),
    (3, 0x01202421415900, .mBind false (.main 9) (.main 33) (.oper 5) true 2 false true),
    (3, 0x01402421415007, .mDrainWrap false (.main 9) (.main 33) (.oper 5) true false 7),
    (3, 0x01402421415207, .mDrainSat false (.main 9) (.main 33) (.oper 5) true false 7),
    (3, 0x01402421415407, .mDrainRq false (.main 9) (.main 33) (.oper 5) true false 7),
    (3, 0x01402421415607, .mDrainFlt false (.main 9) (.main 33) (.oper 5) true false 7),
    (3, 0x016000000001FF, .mSpill true 255),
    (3, 0x01800000000003, .mFill false 3),
    (3, 0x01A00021414200, .mTopo true false (.main 33) (.oper 5)),
    (3, 0x01D00000000000, .mWait true (.main 0))] = true := by decide

/-- Words of 12 R290 to R295, written out from their tables: copysync. -/
theorem test_wordsCopySync1 : all [
    (6, 0x00202421000000, .cpCopy false (.main 9) (.main 33)),
    (6, 0x00402421000000, .cpGath false (.main 9) (.main 33)),
    (6, 0x00602421000000, .cpScat false (.main 9) (.main 33)),
    (6, 0x00802421000000, .cpFill false (.main 9) (.main 33)),
    (6, 0x00A02421000000, .cpExpand false (.main 9) (.main 33)),
    (6, 0x00C02421000000, .cpSeal false (.main 9) (.main 33)),
    (6, 0x00E02421000000, .cpGal false (.main 9) (.main 33)),
    (6, 0x01002421000000, .cpColl false (.main 9) (.main 33)),
    (6, 0x01202421000000, .cpCkpt false (.main 9) (.main 33)),
    (6, 0x01E02421000000, .cpJob false (.main 9) (.main 33)),
    (6, 0x02000021000000, .cpCancel (.main 33)),
    (6, 0x02202421000000, .cpStat false (.main 9) (.main 33)),
    (7, 0x00200000000171, .yPost (.main 0) true 3 17),
    (7, 0x0040002100005F, .yWait (.main 33) 2 31),
    (7, 0x00400021000180, .yWaitSig (.main 33) 4),
    (7, 0x0060000000000C, .yFenceAcq 4),
    (7, 0x00600000000014, .yFenceRel 4),
    (7, 0x0060000000001C, .yFenceAr 4),
    (7, 0x008000210001C8, .yBar (.main 33) 1 200),
    (7, 0x00A000210002C7, .yBarw (.main 33) 2 199)] = true := by decide

/-- Words of 12 R290 to R295, written out from their tables: copysync. -/
theorem test_wordsCopySync2 : all [
    (7, 0x00C02421000000, .yWfe false (.main 9) (.main 33)),
    (7, 0x00E00021000081, .ySev (.main 33) false 0x81),
    (7, 0x01000021000003, .ySig (.main 33) 3),
    (7, 0x0120240000000D, .ySplit false (.main 9) 13),
    (7, 0x01402400000005, .ySwap false (.main 9) 5),
    (7, 0x01600000000000, .yIfence),
    (7, 0x01800021000000, .yTsrinv (.main 33)),
    (7, 0x01800000000001, .yTsrinvAll)] = true := by decide

/-- Words of 12 R290 to R295, written out from their tables: plan. -/
theorem test_wordsPlan1 : all [
    (7, 0x02002421414000, .yQsub false (.main 9) (.main 33) (.oper 5)),
    (7, 0x020024000001C3, .yQsubRe false (.main 9) 0xC3),
    (7, 0x02200021000000, .yQrun (.main 33)),
    (7, 0x02402421000001, .yQwait false (.main 9) (.main 33) true),
    (7, 0x02600021414000, .yHint (.main 33) (.oper 5)),
    (7, 0x02800021000020, .yPin (.main 33) true 0),
    (7, 0x02A0002100001F, .yUnpin (.main 33) false 31),
    (7, 0x02C00021414000, .yPlanrd (.main 33) (.oper 5)),
    (7, 0x02E00021414000, .yStatrd (.main 33) (.oper 5)),
    (7, 0x03000021414000, .yStatwr (.main 33) (.oper 5)),
    (7, 0x03000021414001, .yStatwrInv (.main 33) (.oper 5)),
    (7, 0x03200000000002, .yLeave 2),
    (7, 0x03200000000007, .yLeaveRel 3)] = true := by decide

/-- Ill-formed terms are refused, one for each check on operands: destinations, sources, latches, mask classes, pairs, runs
(12 R284, R285, R292). -/
theorem test_illFormedOperands : ([
    .sAddReg false (.last 0) (.main 0) (.main 0), .sAddReg false (.latch 0 1) (.main 0) (.main 0),
    .sAddReg false (.main 0) (.latch 3 1) (.main 0), .sAddReg false (.main 0) (.main 0) (.latch 0 0),
    .sSel false (.main 0) (.main 0) (.main 0) (.latch 4 6),
    .vCmpEq .va false (.oper 0) (.main 0) (.main 0) 0 0, .vCmpEq .va false (.main 8) (.main 0) (.main 0) 0 0,
    .kAnd .va false (.main 0) (.oper 1) (.main 0), .kAnd .va false (.main 0) (.main 1) (.main 8),
    .kPop .va false (.main 0) (.latch 7 1), .ldK false (.last 1) (.main 0) 0,
    .vRq .va false (.main 1) (.main 1) (.main 63) 0 0, .vRq .va false (.main 1) (.main 1) (.oper 15) 0 0,
    .amoCas false (.main 1) (.main 2) true 0 0 (.main 63), .amoCas false (.main 1) (.main 2) true 0 0 (.oper 1),
    .ldVt false (.main 1) (.main 2) 0, .ldVt false (.main 1) (.main 2) 9, .stVt (.main 1) (.main 60) 4,
    .ldVt false (.main 1) (.oper 2) 1, .yPost (.main 1) true 0 0] : List Instr).all (fun i => !i.wf) = true := by decide

/-- Ill-formed terms are refused, one for each check on modifiers (12 R296, 14 R330, 15 R349, 16 R366). -/
theorem test_illFormedModifiers : ([
    .vAdd .va false (.main 1) (.main 2) (.main 3) 0 7, .vFma .va false (.main 1) (.main 2) (.main 3) 0 0,
    .vAbs .va false (.main 1) (.main 2) 0 1, .vShlImm .va false (.main 1) (.main 2) 3 0 2,
    .vCmpLt .va false (.main 1) (.main 2) (.main 3) 0 3, .vIota .va false (.main 1) 0 1,
    .vCvt .va false (.main 1) (.main 2) 0 0 8 8, .vCvt .va false (.main 1) (.main 2) 0 6 8 6,
    .vCvt .va false (.main 1) (.main 2) 0 1 0 2, .vCvt .va false (.main 1) (.main 2) 0 0 10 2,
    .vRq .va false (.main 1) (.main 1) (.main 4) 0 4,
    .sGetc false (.main 1) 9, .sSetc (.main 1) 8, .sLoopImm 3 0, .sLoopReg (.main 1) 0, .sMark 0, .sMark 65,
    .ldS false (.main 1) (.main 2) 3 true 0, .ldBc false (.main 1) (.main 2) 2 true 0, .ldG false (.main 1) (.main 2) (.main 3) 3,
    .stSc (.main 1) (.main 2) (.main 3) 3, .stS (.main 1) (.main 2) 3 true 5 0, .stS (.main 1) (.main 2) 3 false 1 0,
    .amoAdd false (.main 1) (.main 2) true 0 1 (.main 3), .mMode false 3, .mMma 15 false false 0 (.main 1) (.main 2),
    .mBind false (.main 1) (.main 2) (.main 3) false 3 false false, .yWait (.main 1) 5 0, .yFenceAr 5,
    .yPin (.main 1) true 1, .yUnpin (.main 1) true 2] : List Instr).all (fun i => !i.wf) = true := by decide

/-- What a word of a slot is rejected with. -/
def rejects (n : Fin 8) (w : Nat) (c : SealCode) : Bool :=
  match decodeSlot n (BitVec.ofNat 56 w) with
  | .error f => f == c
  | .ok _ => false

/-- Burin's verdict on bundle 2 of a segment of five bundles, from its header and its scalar slot. -/
def fate (h w : Nat) : Option SealCode :=
  bundleFailure (BitVec.ofNat 512 (h * 2 ^ 448 + w * 2 ^ 392)) 2 5 0xFFFF fun _ => none

/-- The bundle of the worked kernel is accepted, and each single change meets the fate that chapter 12 lists (R284 to R290, R303). -/
theorem test_singleChanges :
    fate 0x200001FF00000000 0x02201C07000001 = none ∧
    fate 0xA00001FF00000000 0x02201C07000001 = some .badNt ∧
    fate 0x200001FD00000000 0x02201C07000001 = some .branchRange ∧
    fate 0x200001FF00000000 0x62201C07000001 = some .badTag ∧
    fate 0x200001FF02000000 0x02201C07000001 = some .reservedBit ∧
    fate 0x240001FF00000000 0x02201C07000001 = some .badSelector ∧
    fate 0x200001FF00000000 0x02401C07000001 = some .badOpcode ∧
    fate 0x200001FF00000000 0x02201CC7000001 = some .badOperand ∧
    fate 0x200001FF00000000 0x02201FE5000001 = some .badLatch ∧
    fate 0x200001FF00000001 0x02201C07000001 = some .reservedBit := by decide

/-- Reserved encodings: an OPC of 0 with another bit set, TY 7 of `v.add`, a write of control register 8, SCOPE 5 of `y.fence`, an
OPC that the matrix slot does not define (12 R283, R290, R296; 13 R315; 14 R330). -/
theorem test_reservedEncodings :
    rejects 0 1 .reservedBit ∧ rejects 1 0x00202421414007 .badOpcode ∧ rejects 0 0x04800021000008 .badOperand ∧
    rejects 7 0x00600000000005 .badOpcode ∧ rejects 3 0x1FE00000000000 .badOpcode := by decide

/-! ## The hypotheses of the statements are met: scalar, vector, results, control transfers, traps -/

/-- A thread whose condition queue holds sixteen entries. -/
def full : State := thread.modCtx fun c => { c with cq := List.replicate 16 true }
/-- Its bundle issues, and a control register was written in it. -/
def written : State := { issuing with ctlOld := [(6, 1), (0, 5)] }
/-- The word 1.0 in lanes 0 and 1 of v3. -/
def ones : State := issuing.modCtx fun c => { c with v := c.v.set 3 (BitVec.ofNat 2048 0x3F8000003F800000) }
/-- A context with one result on its last count but `n`, and one with a result that a latch names. -/
def flying (n : Nat) : Ctx := { thread.ctx with pipe := [⟨0, 3, n, .s (.main 9), false, 77, BitVec.allOnes 2048, none⟩] }
def latched : Ctx := { thread.ctx with latches := [⟨1, 2, 3, 77⟩] }
def pushing (n : Nat) (q : List Bool) : Ctx :=
  { thread.ctx with cq := q, pipe := List.replicate n ⟨0, 1, 1, .cq, false, 1, BitVec.allOnes 2048, none⟩ }
def looping (n : Nat) : State := thread.modCtx fun c => { c with loops := List.replicate n ⟨0, 9, 2⟩ }

theorem witness_ControlRegisterWrite : (5 : BitVec 4).toNat ≤ 7 := by decide
theorem witness_ControlRegisterRead : (∀ p ∈ written.ctlOld, p.1 ≠ (7 : BitVec 4).toNat) ∧
    written.ctlOld = [(6, 1)] ++ ((0 : BitVec 4).toNat, 5) :: [] ∧ (∀ p ∈ [((6 : Nat), (1 : Word))], p.1 ≠ (0 : BitVec 4).toNat) := by decide
theorem witness_ComparesPush : RoomToPush issuing ∧ RoomToPush thread ∧ ¬ RoomToPush full := by unfold RoomToPush; decide
theorem witness_MaskVotesPush : RoomToPush issuing ∧ ¬ RoomToPush full := by unfold RoomToPush; decide
theorem witness_VectorIntegerArithmetic : intTy 0 ∧ intTy 1 ∧ intTy 3 ∧ intTy 4 := by unfold intTy; decide
theorem witness_VectorFloatArithmetic : floatTy 2 f32 ∧ floatTy 5 f16 ∧ floatTy 6 bf16 := by unfold floatTy; decide
theorem witness_VectorShifts : intTy 0 ∧ intTy 4 := by unfold intTy; decide
theorem witness_VectorCompares : (2 : BitVec 4) = 0 ∨ (2 : BitVec 4) = 1 ∨ (2 : BitVec 4) = 2 := by decide
theorem witness_VectorConversions : (9 : BitVec 4).toNat ≤ 9 ∧ (0 : BitVec 4).toNat ≤ 9 ∧ (5 : BitVec 3).toNat ≤ 5 := by decide
theorem witness_GateStage : (Machine.Num.rel 4 (f32.val (lane ones (.main 3) 0)) (f32.val (lane ones (.main 4) 0))) = true ∧
    (Machine.Num.cmp (Machine.Num.sum 0 [f32.val (lane ones (.main 3) 0), f32.val (lane ones (.main 3) 1)])
      (.fin false 1 (-126) false)) = 1 := by decide
/-- Results that land in one cycle in every file, two of them in one register, with two pushes and a gate stage, and one in flight. -/
def landing : Ctx := { thread.ctx with pipe := [⟨1, 2, 2, .s (.main 9), false, 70, BitVec.allOnes 2048, none⟩,
  ⟨7, 3, 1, .s (.main 9), false, 77, BitVec.allOnes 2048, none⟩, ⟨0, 1, 1, .s (.main 9), false, 78, BitVec.allOnes 2048, none⟩,
  ⟨0, 1, 1, .s (.oper 3), true, 79, BitVec.allOnes 2048, none⟩, ⟨1, 2, 1, .v (.oper 2), false, 80, 0xFFFF, none⟩,
  ⟨2, 1, 1, .cq, false, 1, BitVec.allOnes 2048, none⟩, ⟨0, 1, 1, .cq, false, 0, BitVec.allOnes 2048, none⟩,
  ⟨1, 6, 1, .v (.main 8), false, 5, BitVec.allOnes 2048, some ⟨1, 3⟩⟩, ⟨2, 2, 1, .k (.main 1), false, 4, BitVec.allOnes 2048, none⟩] }
theorem witness_ResultTiming : (∀ r ∈ landing.pipe, r.slot < 8) ∧
    (landing.advance.sMain 9, landing.advance.cq, landing.advance.kMain 1, landing.advance.gateDegen) = (77, [false, true], 7, 2) := by
  decide +kernel
theorem witness_LatchReads : (∀ m ∈ latched.latches, m.slot = 1 → m.age = 2 → m = ⟨1, 2, 3, 77⟩) ∧
    (∀ l ∈ latched.latches, ¬ (l.slot = 0 ∧ l.age = 5)) := by decide
theorem witness_DecisionChainTest : (pushing 0 [true]).cq[0]? = some true ∧ (pushing 1 []).cq.length ≤ 0 ∧
    0 + 1 - (pushing 1 []).cq.length ≤ ((pushing 1 []).pipe.filter fun r => r.dest == .cq).length ∧
    ((pushing 0 []).pipe.filter fun r => r.dest == .cq).length < 0 + 1 - (pushing 0 []).cq.length := by decide
theorem witness_JumpRegister : (thread.ctx.sGet (.main 0)).toNat % 4096 < 2048 ∧ (thread.ctx.sGet (.main 0)).toNat % 4096 < thread.curBank.nb ∧
    ((thread.modCtx fun c => c.setS 5 4095).ctx.sGet (.main 5)).toNat % 4096 ≥ thread.curBank.nb ∧ thread.issued = false := by decide
theorem witness_BankJump : thread.curBank.isSealed ∧ thread.curBank.dctx = thread.curWho.dctx ∧
    thread.curBank.table = thread.curImg ∧ thread.curBank.seg = (0 : BitVec 16).toNat ∧ thread.curBank.seg ≠ (9 : BitVec 16).toNat := by decide
theorem witness_LoopOpens : thread.curBix + (3 : BitVec 11).toNat + 1 < 2048 ∧ (looping 3).ctx.loops.length < 4 ∧
    4 ≤ (looping 4).ctx.loops.length ∧ (looping 4).issued = false := by decide
theorem witness_LoopEndRule : (⟨1, 4, 2⟩ : Loop).stop = 4 ∧ 1 < (⟨1, 4, 2⟩ : Loop).count ∧ (⟨1, 4, 1⟩ : Loop).count ≤ 1 := by decide
/-- Context 2 is ready beside the one at issue. -/
def two : State := issuing.modCtxAt 0 2 fun c => { c with phase := .ready }
theorem witness_MarkTrapYield : issuing.ctx.phase = .running ∧ issuing.curBix + 1 < 2048 ∧
    (∀ x, x ≠ issuing.curCtx → (issuing.core.ctx x).phase ≠ .ready) ∧ (2 ≠ two.curCtx ∧ (two.core.ctx 2).phase = .ready) := by decide
theorem witness_HaltEndsThread : (∃ r, thread.recAt thread.curCore thread.curCtx = some r ∧ r.handler = none ∧
    (thread.recs.filter fun q => q.va == r.va && q.grid == r.grid) = [r]) ∧ thread.ctx.long = [] ∧
    thread.core.engine.holder ≠ .ctx thread.curCtx :=
  ⟨⟨_, rfl, by decide⟩, by decide⟩

/-- A state of registers, memory and one thread at issue: `s1` is a coherent address, `s2` one of a C = 0 page, `s3` one of the
scratchpad, `s4` holds 7 and `s5` 9. -/
def busy : State := issuing |> mapped |> withS [(1, 0x100), (2, 2 ^ 30 + 64), (3, 0xFF * 2 ^ 48 + 32), (4, 7), (5, 9)]
def still : State := { busy with issued := false }
def nxt (r : Host.Outcome State Fault Refusal) : State := match r with
  | .next t => t
  | _ => State.reset
def okAnd {α β : Type} (x : Except α β) (p : β → Bool) : Bool := match x with
  | .ok y => p y
  | .error _ => false
/-- The thread's record and its team. -/
def own (s : State) (p : Rec → Team → Bool) : Bool := match s.curRec with
  | some r => (match s.teamOf r.grid r.team with
    | some t => p r t
    | none => false)
  | none => false
def goodPad (t : Team) (o n : Nat) : Bool := (List.range n).all fun i => !t.spadBad.contains ((o + i) / 32) && !t.spadSoft.contains ((o + i) / 32)
def plainB (s : State) (l : List Seg) : Bool := l.all fun g => g.place.c && !g.place.rc && (List.range g.len).all fun i =>
  !s.mem.poisoned g.place.gran (g.place.dpa + i) && s.core.l1.all fun x => x.line != (g.place.dpa + i) / 128
def inPadB (s : State) (n : Need) (ea len : Nat) : Bool := okAnd (s.route n ea len) fun r => match r with
  | .spad o => own s fun _ t => goodPad t o len
  | _ => false
def inMemB (s : State) (n : Need) (ea len : Nat) : Bool := okAnd (s.route n ea len) fun r => match r with
  | .mem l => plainB s l && decide (l.length = 1)
  | _ => false
def isGo (c : Check) : Bool := match c with
  | .go => true
  | _ => false

/-! ## Traps -/

/-- Fifteen traps of cause 13 in a row at one bundle have replayed. -/
def replayed : State := busy.modCtxAt 0 0 fun c => { c with replays := 15, replayCause := 13, replayBix := c.seg * 4096 + c.bix }
theorem witness_DefaultReplay : ((busy.ctxAt 0 0).atb == 0 && decide ((busy.ctxAt 0 0).replays < 15) &&
    (let k := replayed.ctxAt 0 0
     k.atb == 0 && k.replayCause == 13 && k.replayBix == k.seg * 4096 + k.bix && k.replays == 15) &&
    (replayed.recAt 0 0).any fun r => (replayed.gridOf r.grid).any fun g => g.killed.isNone) = true := by decide
theorem witness_DefaultKill : ((busy.ctxAt 0 0).atb == 0 && match busy.recAt 0 0 with
  | some r => (match busy.gridOf r.grid with
    | some g => g.killed.isNone
    | none => false)
  | none => false) = true := by decide
/-- The thread has a frame at 0x10000, of memory or of its team's scratchpad. -/
def framed (fsp : Bool) : State := { busy with recs := busy.recs.map fun (r : Rec) => { r with frame := 0x10000, fsp := fsp } }
theorem witness_ParkWritesFrame : ([true, false].all fun fsp => match (framed fsp).recAt 0 0 with
  | some r => decide (2 % 4 = 2) && !(2 : Nat).testBit 7 && r.wk != 5 && r.fsp == fsp &&
      (framed fsp).recs.filter (fun q => q.va == r.va && q.grid == r.grid) == [r] &&
      okAnd ((framed fsp).saveContext 0 0 r.fsp r.frame 5) fun _ => true
  | none => false) = true := by decide +kernel
theorem witness_ContextBlockRoundTrip : busy.ctx.cq.length ≤ 16 ∧ (looping 4).ctx.loops.length ≤ 4 ∧
    ∀ l ∈ (looping 4).ctx.loops, l.start < 4096 ∧ l.stop < 4096 ∧ l.count < 2 ^ 32 := by decide

/-- A handler on context 1 whose `s1` names the scratchpad block, of zeros, of the thread that it returns to. -/
def handling : State :=
  let t := { still with
    curCtx := 1
    recs := still.recs.map (fun (r : Rec) => { r with st := .parked, trapped := true, onCtx := none, va := 0 }) ++
      [{ Rec.fresh 128 0 0 8191 0 with st := .running, onCtx := some 1, started := true }] }
  (t.modCtxAt 0 1 fun c => { c with phase := .running, hm := true, recVa := 128 }) |> withS [(1, 2 ^ 63 + 0x10000), (2, 0x10008)]
/-- The handler's record, its block and the record that it names are what the return wants, with the reserved bits clear or set. -/
def returns (s : State) (bad : Bool) : Bool := s.curRec.any fun me =>
  let x := (s.ctx.sGet (.main 1)).toNat
  s.ctx.hm && x % 64 == 0 && s.mem.epochBlocked s.curAgent == none &&
  okAnd (s.frameRead (dieOf s.curCore).val me.grid me.team (x.testBit 63) (x % 2 ^ 56) 0x8000) fun bs => blockBad bs == bad &&
    (s.recOf (fieldAt bs 8 8) me.grid).any fun q => q.st == .parked && q.trapped
/-- The same with the block's first word all ones. -/
def handlingBad : State := { handling with teams := handling.teams.map fun (t : Team) => { t with spad := Memory.write [] 0x10000 (List.replicate 8 255) } }
/-- The team's core drains for a split. -/
def handlingDrained : State := handling.modCore fun k => { k with drain := some (4, handling.now + 100) }
def drains (s : State) : Bool := s.curRec.any fun me => s.teamDrains me.grid me.team
theorem witness_TransfersComplete : (returns handling false && !drains handling) = true := by decide +kernel
theorem witness_TrapReturn : (returns handling false && returns handlingBad true && !handlingBad.issued && !drains handling &&
    returns handlingDrained false && drains handlingDrained && !handlingDrained.issued) = true := by decide +kernel
theorem witness_TrapReturnTraps : handling.issued = false ∧ busy.ctx.hm = false ∧ (handling.ctx.sGet (.main 2)).toNat % 2 ^ 56 % 64 ≠ 0 := by decide

/-! ## Effects of single instructions; expected values from the tables and examples of the manual -/

/-- The newest result in flight. -/
def newest (r : Host.Outcome State Fault Refusal) : Option Nat :=
  match r with
  | .next t => t.ctx.pipe.getLast?.map fun p => p.data.toNat % 2 ^ 64
  | _ => none
def args (a b : Nat) : State := withS [(1, a), (2, b)] issuing

/-- 13 R312: division by 0 gives all ones, −2^63 ÷ −1 gives −2^63, and quotients are truncated toward zero. -/
theorem test_sDiv : newest (exec (.sDiv false (.main 9) (.main 1) (.main 2)) (args 7 0)) = some (2 ^ 64 - 1) ∧
    newest (exec (.sDiv false (.main 9) (.main 1) (.main 2)) (args (2 ^ 63) (2 ^ 64 - 1))) = some (2 ^ 63) ∧
    newest (exec (.sDiv false (.main 9) (.main 1) (.main 2)) (args (2 ^ 64 - 7) 2)) = some (2 ^ 64 - 3) := by decide +kernel
/-- 13 R312: the remainder has the sign of the dividend; that of a division by 0 is the dividend. -/
theorem test_sRem : newest (exec (.sRem false (.main 9) (.main 1) (.main 2)) (args (2 ^ 64 - 7) 2)) = some (2 ^ 64 - 1) ∧
    newest (exec (.sRem false (.main 9) (.main 1) (.main 2)) (args 7 0)) = some 7 := by decide +kernel
/-- 13 R312: sums wrap. -/
theorem test_sAdd : newest (exec (.sAddReg false (.main 9) (.main 1) (.main 2)) (args (2 ^ 64 - 1) 2)) = some 1 := by decide +kernel
/-- 13: the constant 0x0123_4567_89AB_CDEF is loaded in two halves. -/
theorem test_sLi : newest (exec (.sLi false (.main 9) 0x389ABCDEF) issuing) = some 0xFFFFFFFF89ABCDEF ∧
    newest (exec (.sLih false (.main 9) 0x48D159) (withS [(9, 0xFFFFFFFF89ABCDEF)] issuing)) = some 0x0123456789ABCDEF := by
  decide +kernel
/-- 13 R321: a register count of 2^32 counts as 0: issue goes on behind END, and no loop is pushed. -/
theorem test_sLoopZero : nx (exec (.sLoopReg (.main 1) 5) (args (2 ^ 32) 0)) (fun t => t.ctx.loops.isEmpty &&
    t.ctx.bix == (issuing.curBix + 6)) = true := by decide +kernel
/-- 14 R335: a count of 32 or more: `v.sar` copies the sign, `v.shl` gives 0; of the count only bits 5:0 are read. -/
theorem test_vShifts :
    let s := issuing.modCtx fun c => { c with v := (c.v.set 3 0x7000000080000000).set 4 0x0000004000000028 }
    newest (exec (.vSarVec .va false (.main 9) (.main 3) (.main 4) 0 0) s) = some 0x70000000FFFFFFFF ∧
    newest (exec (.vShlVec .va false (.main 9) (.main 3) (.main 4) 0 0) s) = some 0x7000000000000000 := by decide +kernel

/-- 11 R257: the largest finite values, infinities and canonical NaNs round to themselves. -/
theorem test_formats : rne e4m3 (e4m3.val 0x7E) = 0x7E ∧ rne e5m2 (e5m2.val 0x7B) = 0x7B ∧ rne f16 (f16.val 0xFC00) = 0xFC00 ∧
    rne bf16 (bf16.val 0xFFFF) = 0x7FC0 ∧ rne f32 (f32.val 1) = 1 ∧ rne e4m3 (.inf true) = 0x7F ∧
    rne f32 (.fin false 1 (-149) false) = 1 ∧ rne f32 (.fin false 1 (-147) false) = 4 := by decide +kernel
/-- 11 R259: overflow by mode; e4m3 gives 448 under every mode. -/
theorem test_overflow : rnd f16 0 (.fin false 65520 0 false) = 0x7C00 ∧ rnd f16 2 (.fin false 65520 0 false) = 0x7BFF ∧
    rnd f16 3 (.fin true 65520 0 false) = 0xFBFF ∧ rnd f16 4 (.fin true 65520 0 false) = 0xFC00 ∧
    rnd e4m3 0 (.fin false 480 0 false) = 0x7E := by decide +kernel
/-- 11, the worked bind: 2 + 1.25 + 2^-7 + 2^-30 lies above the midpoint and rounds to 0x4051 in bf16. -/
theorem test_bindRounding : rne bf16 (Machine.Num.sum 0 [.fin false 2 0 false, .fin false 5 (-2) false, .fin false 1 (-7) false,
    .fin false 1 (-30) false]) = 0x4051 := by decide +kernel
/-- 11, the worked case: 0x3C × 0x40 adds 3 to an LX entry, 0x30 adds 0.25 where it meets 0x30, and 0xB8 takes 1 away. -/
theorem test_lxEntry : lxAdd 0 0 (Machine.Num.mul (e4m3.val 0x3C) (e4m3.val 0x40)) = (3 * 2 ^ 64, 0) ∧
    lxAdd (2 ^ 64) 0 (Machine.Num.mul (e4m3.val 0x30) (e4m3.val 0x30)) = (2 ^ 64 + 2 ^ 62, 0) ∧
    lxAdd (3 * 2 ^ 64) 0 (Machine.Num.mul (e4m3.val 0xB8) (e4m3.val 0x38)) = (2 * 2 ^ 64, 0) := by decide +kernel
/-- 14, the worked gate: 2^-144 and 2^-147 are exact subnormals, and 2^-150 is a tie that goes to 0. -/
theorem test_exp2 : rnd f32 0 (approx 2 (Machine.Num.ofInt (-144))) = 32 ∧ rnd f32 0 (approx 2 (Machine.Num.ofInt (-147))) = 4 ∧
    rnd f32 0 (approx 2 (Machine.Num.ofInt (-150))) = 0 := by decide +kernel
/-- 14 R343, the worked gate: a group whose winners sum to less than 2^-126 is degenerate, and its two winners share 1. -/
theorem test_gateDegenerate :
    let s := issuing.modCtx fun c => { c with v := (c.v.set 4 (BitVec.ofNat 2048 (32 + 4 * 2 ^ 32))).set 5 1 }
    newest (exec (.vGnorm .va false (.main 8) (.main 4) (.main 5) 0 1) s) = some (0x3F000000 + 0x3F000000 * 2 ^ 32) := by
  decide +kernel

/-- 15 R350: a byte load extends its sign. -/
theorem test_loadSigned : loadScalar 0 true 0x80 = BitVec.ofNat 2048 0xFFFFFFFFFFFFFF80 ∧ loadScalar 0 false 0x80 = 0x80 := by
  decide +kernel
/-- 15 R353, 00 R11: a store of 8 bytes puts the lowest byte at the lowest address. -/
theorem test_store : nx (exec (.stS (.main 4) (.main 1) 3 false 0 0) (withS [(4, 0x0102030405060708)] busy)) (fun t =>
    Memory.read t.mem.bytes (2 ^ 30 + 0x100) 8 == [8, 7, 6, 5, 4, 3, 2, 1]) = true := by decide +kernel
/-- 15 R359: `amo.add` adds in memory, here 7 to nothing. -/
theorem test_amoAdd : nx (exec (.amoAdd false (.main 9) (.main 1) true 0 0 (.main 4)) busy) (fun t =>
    Memory.read t.mem.bytes (2 ^ 30 + 0x100) 8 == [7, 0, 0, 0, 0, 0, 0, 0]) = true := by decide +kernel
/-- 08 R212, 13 R314: a compare on a full queue takes CQ_OVERFLOW, and nothing is pushed. -/
theorem test_cqOverflow : nx (exec (.sCmpEqImm (.main 1) 0) full) (fun t => t.recs.isEmpty && t.ctx.cq.isEmpty) = true := by decide +kernel

/-! ## Loads, stores, atomics -/

def pad3 : Nat := 0xFF * 2 ^ 48 + 32
theorem witness_LoadsFromScratchpad : (own still fun _ _ => inPadB still needR pad3 1 && inPadB still needR pad3 8 &&
    inPadB still needR pad3 256 && isGo (loadCheck false 8 8 pad3 still) && isGo (loadCheck false 4 256 pad3 still) &&
    isGo (loadCheck true 4 256 pad3 still) && (still.ctx.sGet (.main 3)).toNat == pad3) = true := by decide +kernel
theorem witness_LoadsFromMemory : (inMemB still needR 0x100 8 && inMemB still needR 0x100 256 && isGo (loadCheck false 8 8 0x100 still) &&
    isGo (loadCheck true 4 256 0x100 still) && (still.ctx.sGet (.main 1)).toNat == 0x100) = true := by decide +kernel
/-- `v6` holds the offsets 0, 4, …, 252, and `s6` the base of the scratchpad. -/
def lanes : State := (still.modCtx fun c => { c with v := c.v.set 6 (BitVec.ofNat 2048 (packList 32 ((List.range 64).map fun i => 4 * i))) })
  |> withS [(6, 0xFF * 2 ^ 48)]
/-- Tensor 16: one dimension of 100 elements of i4 in one tile of 4 KiB at 2^30 + 0x10000; `s10` names it and `s11` is a coordinate. -/
def tensored (x : Nat) : State := still
  |> withBytes (2 ^ 30 + still.curWho.tsrt + 1024) (bytesOfNat 64 (1 * 2 ^ 8 + 100 * 2 ^ 64 + 0x800 * 2 ^ 320))
  |> withBytes (2 ^ 30 + 0x800) (bytesOfNat 8 (leaf true (2 ^ 30 + 0x10000))) |> withS [(10, 16), (11, x)]
/-- The same lanes over coherent memory. -/
def memLanes : State := lanes |> withS [(6, 0x100)]
theorem witness_GatherAndTensorLoads : ((List.range 64).all (fun i => inPadB lanes needR (0xFF * 2 ^ 48 + 4 * i) 4) &&
    isGo (lanesCheck false (.main 6) (.main 6) 2 lanes) && isGo (lanesCheck true (.main 6) (.main 6) 2 lanes) &&
    (List.range 64).all (fun i => inMemB memLanes needR (0x100 + 4 * i) 4) && isGo (lanesCheck false (.main 6) (.main 6) 2 memLanes) &&
    okAnd ((tensored 2).runOf needR (.main 10) 1) (fun r => plainB (tensored 2) r.segs && decide (r.count = 98)) &&
    isGo (runCheck false (.main 10) 1 (tensored 2)) && isGo (runCheck true (.main 10) 1 (tensored 2))) = true := by
  decide +kernel
/-- The second GiB is coherent too, so that an access that crosses into it is of two runs. -/
def twoPages : State := still |> withBytes 0x3008 (bytesOfNat 8 (leaf true (2 ^ 31 + 2 ^ 30)))
/-- Segments that a store may write. -/
def storableB (s : State) (l : List Seg) : Bool := l.all fun g => g.place.c && !g.place.rc &&
  (List.range g.len).all (fun x => !s.mem.poisoned g.place.gran (g.place.dpa + x)) && l.all fun h => g.place.gran == h.place.gran
theorem witness_StoresWriteTheirBytes : (Memory.wf still.mem.bytes && inMemB still needW 0x100 8 && inMemB still needW 0x100 256 &&
    isGo ((storeCheck 8 8 0x100 still).both (relCheck true still)) && isGo ((storeCheck 4 256 0x100 still).both (relCheck true still)) &&
    still.mem.nc.isEmpty &&
    okAnd (twoPages.route needW (2 ^ 30 - 128) 256) (fun r => match r with
      | .mem l => storableB twoPages l && decide (l.length = 2)
      | _ => false) && isGo ((storeCheck 4 256 (2 ^ 30 - 128) twoPages).both (relCheck true twoPages)) &&
    Memory.wf twoPages.mem.bytes) = true := by decide +kernel
theorem witness_StoreFrames : (inPadB still needW pad3 8 && isGo ((storeCheck 8 8 pad3 still).both (relCheck false still)) &&
    isGo ((storeCheck 8 8 pad3 still).both (relCheck true still)) && inPadB still needW pad3 256 &&
    isGo ((storeCheck 4 256 pad3 still).both (relCheck true still)) && still.mem.nc.isEmpty &&
    okAnd ((tensored 2).runOf needW (.main 10) 1) (fun r => storableB (tensored 2) r.segs) && Memory.wf (tensored 2).mem.bytes &&
    isGo (runCheck true (.main 10) 1 (tensored 2)) &&
    okAnd (still.route needW (2 ^ 30 + 64) 8) (fun r => match r with
      | .mem [g] => !g.place.c
      | _ => false) && isGo ((storeCheck 8 8 (2 ^ 30 + 64) still).both (relCheck false still))) = true := by decide +kernel
theorem witness_AtomicsExchange : (Memory.wf still.mem.bytes && inMemB still needRW 0x100 8 &&
    okAnd (still.route needRW 0x100 8) (fun r => match r with
      | .mem l => l.all fun g => g.place.dpa % 8 == 0
      | _ => false) && still.mem.nc.isEmpty &&
    [0, 1, 2, 3].all (fun ord => isGo (amoCheck (.main 1) true ord still) && isGo (amoCheck (.main 1) false ord still))) = true := by
  decide +kernel
/-- No access of `len` bytes at `ea` traps before its alignment is looked at. -/
def aligns (s : State) (n : Need) (write near : Bool) (ea len : Nat) : Bool := okAnd (s.route n ea len) fun r =>
  match s.routeCheck write near ea len r with
  | .trap _ _ => false
  | _ => true
theorem witness_AccessAlignment : (aligns still needR false true 0x101 8 && aligns still needR false false 0x101 8 &&
    aligns still needR false true 0x102 256 && aligns still needR false false 0x102 256 && aligns still needW true false 0x101 8 &&
    aligns still needW true false 0x102 256 && aligns still needRW true false 0x102 4 &&
    (List.range 64).all (fun j => aligns lanes needR false true (0xFF * 2 ^ 48 + 1 + 4 * j) 4 &&
      aligns lanes needW true false (0xFF * 2 ^ 48 + 1 + 4 * j) 4) &&
    okAnd (readTsr (tensored 3) (tensored 3).curWho 16) (fun t => fmtBits t.fmt == 4 && t.rank == 1 && t.dims == [100]) &&
    ((tensored 3).ctx.sGet (.main 11)).toNat == 3) = true := by decide +kernel
/-- An access that no page maps, and lanes of which every one lies there; tensor 16 without its tile's page. -/
def unmapped {α : Type} (r : Except Trouble α) (va : Nat) : Bool := match r with
  | .error t => t == (⟨13, va⟩ : Trouble)
  | .ok _ => false
def farLanes : State := lanes |> withS [(6, 2 ^ 40)]
def tileless : State := still |> withBytes (2 ^ 30 + still.curWho.tsrt + 1024) (bytesOfNat 64 (1 * 2 ^ 8 + 100 * 2 ^ 64 + 0x800 * 2 ^ 320))
  |> withS [(10, 16), (11, 2)]
theorem witness_UnmappedLoad : ([needR, needW, needRW].all (fun n => [4, 8, 256].all fun len => unmapped (still.route n (2 ^ 40) len) (2 ^ 40)) &&
    !inAperture (2 ^ 40) && (List.range 64).all (fun j => unmapped (farLanes.route needR (2 ^ 40 + 4 * j) 4) (2 ^ 40 + 4 * j) &&
      unmapped (farLanes.route needW (2 ^ 40 + 4 * j) 4) (2 ^ 40 + 4 * j) &&
      ((farLanes.ctx.sGet (.main 6)) + BitVec.ofInt 64 (elS farLanes (.main 6) 32 j)).toNat == 2 ^ 40 + 4 * j) &&
    [needR, needW].all (fun n => match tileless.runOf n (.main 10) 1 with
      | .error t => t.cause == 13
      | .ok _ => false)) = true := by decide +kernel
/-- The core drains for a split. -/
def draining : State := still.modCore fun k => { k with drain := some (4, still.now + 100) }
theorem witness_HintsChangeNoValue : (unmapped (translate still still.curWho needR (2 ^ 40)) (2 ^ 40) && draining.core.drain.isSome &&
    (List.range 16).all (fun i => unmapped (translate still still.curWho needR (2 ^ 40 + i)) (2 ^ 40 + i) &&
      decide (leafSize still still.curWho (2 ^ 40 + i) = leafSize still still.curWho (2 ^ 40))) &&
    decide (leafSize still still.curWho (2 ^ 40) % 4096 = 0) &&
    decide (2 ^ 40 / leafSize still still.curWho (2 ^ 40) = (2 ^ 40 + 15) / leafSize still still.curWho (2 ^ 40))) = true := by decide +kernel

/-! ## Matrix, copy, sync and plan slots -/

/-- The grid's team owns the tiles of its core; and its thread holds the engine. -/
def tiled : State := still.modCore fun k => { k with tiles := k.tiles.map fun (t : Tile) => { t with owner := some (0, 0) } }
def held : State := tiled.modCore fun k => { k with engine := { k.engine with holder := .ctx 0 } }
def hallFree : State := { still with recs := still.recs.map fun (r : Rec) => { r with hallFree := true } }
theorem witness_EngineAcquireRelease : (isGo (acqCheck tiled) && tiled.core.engine.holder == .nobody && isGo (acqCheck held) &&
    held.core.engine.holder == .ctx held.curCtx && isGo (relMatCheck held) && isGo (relMatCheck tiled) &&
    hallFree.curRec.any fun r => r.hallFree) = true := by decide +kernel
/-- `m.spill` has the hypothesis of `m.fill`. -/
theorem witness_MatrixOperationsQueue : ([Instr.mMode false 1, .mZero true, .mLdb (.main 1) (.main 2), .mLdbEdge (.main 1) (.main 2),
    .mLdbx (.main 1) (.main 2), .mMma 0 false false 3 (.main 1) (.main 2), .mZpc false 3 (.main 1) (.main 2), .mFill false 3, .mTopo false false (.main 1) (.main 2), .mBind false (.main 9) (.main 1) (.main 1) false 0 false false,
    .mDrainWrap false (.main 9) (.main 1) (.main 2) false false 1, .mDrainSat false (.main 9) (.main 1) (.main 2) false false 1,
    .mDrainRq false (.main 9) (.main 1) (.main 2) false false 1, .mDrainFlt false (.main 9) (.main 1) (.main 2) false false 1,
    .mWait false (.main 9)].all (fun i => isGo (matCheck i held)) && still.core.engine.holder != .ctx still.curCtx && !still.issued &&
    still.curRec.any (fun r => !r.hallFree) && !hallFree.issued && hallFree.curRec.any fun r => r.hallFree) = true := by decide +kernel
theorem witness_IntegerProductAccumulates : Tile.reset.mode = 0 ∧ [[1, 2]].length + 62 ≤ 64 ∧ (∀ r ∈ [[1, 2]], r.length = 2) ∧
    tableWf Entry.zero Tile.reset.entries = true := by decide
/-- A job card of a copy at `s1`. -/
def carded : State := still |> withBytes (2 ^ 30 + 0x100) (bytesOfNat 64 1)
theorem witness_JobIssue : ([0, 1, 2, 3, 4, 5, 6, 7, 8, 9].all (fun op => isGo (cpCheck op (.main 1) carded)) &&
    own carded (fun _ _ => (carded.cardAt 0x100).isSome)) = true := by decide +kernel
theorem witness_CopySlotCompletes : (carded.curRec.isSome && (List.range 10).all fun op => isGo (cpCheck op (.main 1) carded)) = true := by
  decide +kernel
def jobbed : State := nxt (exec (.cpCopy false (.main 9) (.main 1)) carded) |> withS [(4, 1)]
theorem witness_JobStatusAndCancel : (own jobbed (fun r t => jobbed.jobs.any (fun j => j.grid == r.grid && j.team == r.team &&
    j.tag == 1 && j.state == .entering && jobbed.jobs.filter (fun k => k.id == j.id) == [j]) && t.recent.isEmpty) &&
    own still (fun _ t => still.jobs.isEmpty && t.recent.isEmpty)) = true := by decide +kernel
/-- A thread of the team off its context, whose block lies in the scratchpad. -/
def offCtx : State := { still with recs := still.recs ++ [{ Rec.fresh 128 0 0 8191 0 with st := .waiting, saved := true, fsp := true, frame := 0x10000 }] }
theorem witness_PostsAndEvents : (isGo (releaseCheck still) && still.mem.nc.isEmpty && still.namedTeam true (.main 0) == some (0, 0) &&
    own still (fun _ t => t.core.isSome) && still.namedTeam false (.main 4) == none && offCtx.namedTeam true (.main 0) == some (0, 0) &&
    (match offCtx.recs.filter fun r => r.grid == 0 && r.team == 0 && r.onCtx.isNone with
      | [q] => offCtx.recs.filter (fun r => r.va == q.va && r.grid == q.grid) == [q] && q.saved && q.imgBlock.isNone && q.fsp &&
        own offCtx fun _ t => Memory.wf t.spad && goodPad t (q.frame + 0x3E8) 2
      | _ => false)) = true := by decide +kernel
def sevened : State := still.modCtx fun c => { c with evl := 0x0F }
/-- The signal pool of device context 0 lies at 0x1000: signal 7 holds 2. -/
def signalled (x : Nat) : State := (still.modDctx 0 fun d => { d with sigBase := 1, logs := 4 }) |> withBytes (2 ^ 30 + 0x1038) (bytesOfNat 8 x)
/-- The same on a race-checked page. -/
def rcSignal : State := withBytes 0x3000 (bytesOfNat 8 (leaf true (2 ^ 30) + 2 ^ 10)) (signalled 2)
/-- A plan of handle 3 with one node, in a state. -/
def planOf (st : HState) : Plan :=
  { id := 70, tbase := still.curWho.tsrt, handle := 3, dctx := 0, grid := some 0, die := 0, desc := 0x200, bind := 0x280
    nodes := [0], binds := [], st := st, e := 1, pinned := false, nodePins := [], hints := [], invalidated := false, resume := none
    runPending := false, owner := none, runs := 0, repl := 0, goob := 0, initial := [], current := [], done := [], nextNode := 0
    code := 0, result := none, pkt := none, fwv := 0, pri := 0, types := [], sixes := [5, 3], shapes := [], head := 0, room := [], roomNow := []
    pt := 0, replanNext := false, job := none, hall := none }
def planned (st : HState) : State := { still with plans := [planOf st] } |> withS [(8, 3), (9, 0x100)]
theorem witness_WaitsPendOrComplete : (isGo (syncCheck still) && own still (fun _ t => decide ((t.flags.get 5).toNat < 7)) &&
    isGo ((sigCheck needR 7 (signalled 2)).both (syncCheck (signalled 2))) && own (signalled 2) (fun r _ =>
      (signalled 2).condHolds 0 r.grid r.team 0 (.signal 7 3) == false) &&
    (let s := signalled 0
     isGo ((sigCheck needR 7 s).both (syncCheck s)) && s.mem.epochBlocked s.curAgent == none &&
     okAnd (translateRange s s.curWho needR (s.sigVa s.curWho.dctx 7) 8) fun l =>
       own s fun r _ => (s.registerSegs l false).condHolds 0 r.grid r.team 0 (.signal 7 3)) &&
    ((sevened.ctlRead 6).setWidth 16 &&& BitVec.ofNat 16 7) != 0 && ((still.ctlRead 6).setWidth 16 &&& BitVec.ofNat 16 7) == 0 &&
    isGo ((handleCheck (planned .done) 3).both (syncCheck (planned .done))) &&
    ((planned .done).planAt (planned .done).curWho 3).any (fun p => p.st == .done) &&
    ((planned .running).planAt still.curWho 3).any (fun p => p.st == .running) &&
    (let s := rcSignal
     isGo ((sigCheck needR 7 s).both (syncCheck s)) && okAnd (translateRange s s.curWho needR (s.sigVa s.curWho.dctx 7) 8) fun l =>
       l.any (fun g => g.place.rc) && own s fun r _ => (s.registerSegs l false).condHolds 0 r.grid r.team 0 (.signal 7 3) == false)) = true := by decide +kernel
theorem witness_FencesOrderMemory : (isGo (acqFenceCheck still) && isGo (releaseCheck still) && isGo ((relFenceCheck still).both (syncCheck still)) &&
    isGo (ifenceCheck still) && decide ((still.ctx.sGet (.main 4)).toNat < 65536) && decide (65536 ≤ (still.ctx.sGet (.main 2)).toNat)) = true := by decide +kernel
theorem witness_BarrierArrivals : (isGo (barCheck still) && own still (fun _ t => t.core.isSome) &&
    (let w := 5 * 2 ^ 56 + 2 * 2 ^ 80
     bitsN w 61 3 == 0 && bitsN w 112 16 == 0 && bitsN w 80 16 != 0 && decide (w < 2 ^ 128) && decide (bitsN w 64 16 < 2 ^ 16 - 1) &&
      (barrierStep w 0 1).2 == none)) = true := by decide +kernel
theorem witness_SignalDecrement : ([2, 2 ^ 64 - 1].all (fun x => let s := signalled x
    Memory.wf s.mem.bytes && isGo ((sigCheck needRW 7 s).both (releaseCheck s)) && s.mem.nc.isEmpty &&
    [needR, needW, needRW].all (fun n => okAnd (translateRange s s.curWho n (s.sigVa s.curWho.dctx 7) 8) fun l => match l with
      | [g] => g.off == 0 && g.len == 8 && g.place.c && g.place.dpa % 8 == 0 && plainB s l
      | _ => false)) && decide (2 ^ ((signalled 2).dctxOf 0).logs ≤ 16)) = true := by decide +kernel
theorem witness_SplitDrains : isGo (splitCheck still) = true ∧ still.core.cacheUnits ≠ min (min 3 12) (16 - still.unitsHeld 0) := by
  decide +kernel
/-- Phase entry 3 with the two bytes that hold its bits and its count. -/
def phased (a b : Nat) : State :=
  { still with teams := still.teams.map fun (t : Team) => { t with spad := Memory.write [] (phaseOff 4 3 + 8) [BitVec.ofNat 8 a, BitVec.ofNat 8 b] } }
theorem witness_SwapCommitsOrRefuses : (own (phased 0 0) (fun _ t => Memory.wf t.spad && t.spadBad.isEmpty) &&
    isGo (swapCheck 3 (phased 0 0)) && !((phased 0 0).phase 0 0 3).res && !((phased 0 0).phase 0 0 3).pz &&
    [0, 1, 2, 4, 6].any (fun a => ((phased a 0).phase 0 0 3).res) &&
    [1, 2, 4, 6].any (fun a => let p := (phased a 2).phase 0 0 3; !p.res && p.pz && p.rf == 2)) = true := by decide +kernel
/-- Its bundle issues and leaves no room below the limit. -/
def unleft : State := busy.modDie 0 fun d => { d with limit := 0 }
theorem witness_LeaveReservation : (isGo (leaveReserveCheck 2 still) && unleft.issued && leaveReserveCheck 2 unleft != .go) = true := by
  decide +kernel
theorem witness_PlanSlotOperations : (isGo (queryCheck 0x200 0x280 still) && isGo (queryCheck 0x200 0x280 (planned .invalid)) &&
    ((planned .invalid).planAt still.curWho 3).any (fun p => p.st == .invalid && p.tbase == still.curWho.tsrt) &&
    ((planned .ready).plans.filter (fun q => q.id == 70)).length == 1 && tableWf 0 (planOf .ready).hints && hintOk 0x300 &&
    decide (0x300 % 32 < (planOf .ready).nodes.length) && (still.planAt still.curWho 3).isNone) = true := by decide +kernel
theorem witness_PlanPinsRunsStatistics : (let s := planned .ready
    let va := statVa s.curWho.tsrt 3
    s.plans.all (fun (p : Plan) => s.ofTable s.curWho p && p.sixes.contains 3) && isGo (qrunCheck 3 s) && isGo (qrunCheck 3 (planned .planning)) && own s (fun _ t => goodPad t 32 32) &&
    isGo ((handleCheck s 3).both (s.accessCheck needW true false 8 pad3 ((planOf .ready).record []).length)) &&
    inPadB s needW pad3 32 && inPadB s needR pad3 32 && isGo ((statCheck 3 s).both (s.accessCheck needW true false 8 pad3 32)) &&
    okAnd (s.tableRead s.curWho.dctx va 32) (fun bs => decide (bs.length = 32)) && s.mem.nc.isEmpty &&
    isGo ((statwrCheck 3 pad3 s).both (releaseCheck s)) && Memory.wf s.mem.bytes && s.accessCheck needR false true 1 pad3 32 == .go &&
    okAnd (translateRange s ⟨s.curWho.dctx, 0, false⟩ ⟨false, false, false⟩ va 32) (fun l => match l with
      | [g] => g.off == 0 && g.len == 32 && g.place.c && plainB s l
      | _ => false) && s.accessCheck needW true false 8 pad3 32 == .go && poisonCheck pad3 32 s == .go) = true := by decide +kernel

/-! ## Events of the package, the controllers and the coherence fabric -/

def bringing (n : Nat) (ok lock : Bool) : State :=
  { busy with power := { busy.power with bringup := n, failedStep := none }, sec := { busy.sec with lock := lock }, arg := { flag := ok } }
theorem witness_ResetAndBringup : ((bringing 6 true false).power.bringup, (bringing 6 true false).arg.flag, (bringing 2 false false).sec.lock,
    (bringing 5 false false).power.failedStep, (bringing 2 true true).sec.lock) = (6, true, false, none, true) := by decide
/-- An estimate on die 1: CAP 550, so 2,200 quarters. -/
def estimate (n : Nat) : State := { busy with arg := { die := 1, num := n } }
/-- The estimate has been above the cap for a millisecond; and the clock of a core stands that waits for data. -/
def longOver : State := { (estimate 632).modDie 1 fun d => { d with overSince := some 0 } with now := 1200000 }
def stopped : State := { (busy.modDie 0 fun d => { d with tripped := true }).modCtx fun c => { c with long := [⟨7, 4, .nowhere, false, some 0, false, true, 0, 0, []⟩] }
  with arg := { id := 7 } }
theorem witness_PowerMonitors : ((estimate 0).dieAt 1).hot = false ∧ 4 * ((estimate 0).dieAt 1).cap.toNat = 2200 ∧ 4 * (estimate 550).arg.num ≤ 2200 ∧
    2200 < 4 * (estimate 632).arg.num ∧ 400 * (estimate 632).arg.num ≤ 115 * 2200 ∧ 115 * 2200 < 400 * (estimate 633).arg.num ∧
    (longOver.dieAt longOver.arg.die).overSince = some 0 ∧ 0 + 1200000 ≤ longOver.now ∧ longOver.arg.num = 632 ∧
    (∀ p ∈ stopped.contexts, (stopped.ctxAt p.1 p.2).leaving = none) ∧ stopped.frozen stopped.arg.core = true ∧
    (∃ r ∈ (stopped.ctxAt stopped.arg.core stopped.arg.ctx).long, r.id = stopped.arg.id) := by decide +kernel
def alarmed (l : List Nat) : State := { busy with sec := { busy.sec with level2At := l, fwStat := 1, patch := some (7, [2], []) } }
theorem witness_AlarmsAndLinkEvents :
    (((alarmed [0]).sec.level2At ++ [busy.micros]).filter fun t => decide (busy.micros - t < 1000000)).length < 3 ∧
    3 ≤ (((alarmed [0, 0]).sec.level2At ++ [busy.micros]).filter fun t => decide (busy.micros - t < 1000000)).length := by decide
/-- A patch image at 0 that no rule of its form admits; whether one verifies is left open (log entry 4). -/
theorem witness_HotPatches : (match busy.patchCheck (busy.sec.fwAddr.toNat * 8) with
  | .error code => code == 5 && busy.sec.fwStat != 1
  | .ok _ => false) = true ∧ (alarmed []).sec.fwStat = 1 ∧ (alarmed []).sec.patch = some (7, [2], []) := by decide +kernel
def sessions (l : List (Fin 4 × Session)) (lock : Bool) : State :=
  { busy with sec := { busy.sec with lock := lock, sessions := l.foldl (fun v p => v.set p.1 (some p.2)) busy.sec.sessions } }
theorem witness_SecurityMailbox : (sessions [] true).sec.lock = true ∧ (sessions [(0, ⟨5, none, none, false⟩)] false).sec.lock = false ∧
    ((sessions [(0, ⟨5, none, none, false⟩)] false).sec.session 0).any (fun x => !x.aborted) = true ∧
    ((sessions [(0, ⟨5, none, none, false⟩)] false).sec.session 1).isNone = true ∧
    ((sessions [(0, ⟨5, some [], none, false⟩)] false).sec.session (bitsN busy.sec.mbCmd.toNat 8 2)).any (fun x => x.report == some []) = true ∧
    ((sessions [(0, ⟨5, none, none, true⟩)] false).sec.session (bitsN busy.sec.mbCmd.toNat 8 2)).any (fun x => x.aborted) = true ∧
    busy.sec.mbArg.toNat < 21 ∧ busy.sec.counter < signatures ∧ busy.sec.mbLen.toNat = 0 ∧ busy.sec.stagingLen ≤ 256 * busy.sec.mbArg.toNat ∧
    (∀ k < 4, ((sessions [(0, ⟨5, none, none, false⟩), (1, ⟨5, none, none, false⟩), (2, ⟨5, none, none, false⟩), (3, ⟨5, none, none, false⟩)] false).sec.session k).any
      (fun x => !x.aborted) = true) := by decide +kernel
def recovering : State := { busy with sec := { busy.sec with lock := true, stagingLen := 300, staging := List.replicate 300 0 } }
theorem witness_SecurityMailboxPiece : recovering.sec.lock = true ∧ 256 * recovering.sec.mbArg.toNat < recovering.sec.stagingLen ∧
    recovering.sec.staging.length = recovering.sec.stagingLen := by decide +kernel
theorem witness_SecurityMailboxRecovery : (Config.lmsVerify 1 [] = false ∨ Config.lmsVerify 1 [] = true) ∧ 1 ≤ 2 ^ 20 :=
  ⟨Bool.eq_false_or_eq_true _ |>.symm, by decide⟩
/-- A request for leave of class 3 by context 2 of core 5, its die having room or not. -/
def asking (limit : Nat) (aged : Bool) : State :=
  ({ busy with arg := { core := 5, ctx := 2, cls := 3 }, now := 200000 }).modDie 0 fun d => { d with
    limit := BitVec.ofNat 9 limit
    waiting := if aged then [⟨3, 1, 0, false, agentOf 5 2⟩] else [] }
theorem witness_LeaveEvents : ((asking 384 false).dieAt 0).waiting = [] ∧
    ((asking 384 false).dieAt 0).outstanding + leaveWeight 3 ≤ ((asking 384 false).dieAt 0).limit.toNat ∧
    ((asking 0 false).dieAt 0).limit.toNat < ((asking 0 false).dieAt 0).outstanding + leaveWeight 3 ∧
    (∃ r ∈ ((asking 0 true).dieAt (dieOf 5)).waiting, r.owner = agentOf 5 2 ∧ r.since + 131072 ≤ (asking 0 true).now) ∧
    (asking 0 true).arg.flag = false := by decide
/-- A controller's event at a granule of 32 bytes of a stack. -/
def granule (wait : Bool) : State := { busy with arg := { addr := 2 ^ 30 + 64, gran := 0, flag2 := wait, data := 5, mask := 3 } }
/-- A request waits at the stack of the address. -/
def waitingReq : State := { (granule false).modMem fun m => m.modStack (2 ^ 30) fun k =>
    { k with reqs := [⟨3, 2 ^ 30 + 64, 0, .read, false⟩] } with arg := { (granule false).arg with id := 3 } }
def lineOne : Nat := 2 ^ 30 / 128 + 2
/-- The granule was stored with a code of its own, with bit errors in it or as poison; the patrol looks at it. -/
def stored (poison : Bool) (errs : List (Nat × Byte)) : State :=
  { (granule false).modMem fun m => m.setUnit (2 ^ 30 + 64) ⟨0, poison, errs⟩ with arg := { (granule false).arg with flag2 := false, flag := true } }
theorem witness_ControllerEvents : (dpaExists (granule false).arg.addr && !dpaExists (2 ^ 40) && decide ((granule false).arg.gran.toNat < 5) &&
    !reqHeld ((granule false).mem.stackAt (stackOf (granule false).arg.addr)).reqs ⟨busy.nextId, granBase 0 (2 ^ 30 + 64), 0, .read, false⟩ &&
    Memory.wf busy.mem.bytes && tableWf UnitMeta.reset busy.mem.units && (granule false).mem.granState 4 (2 ^ 30 + 64) == .ok .clean && (granule false).mem.granState 1 (2 ^ 30 + 64) == .mismatch &&
    (granule true).arg.id == 0 && stackOf (2 ^ 30 + 64) == waitingReq.arg.stack.val &&
    (waitingReq.mem.stackAt waitingReq.arg.stack.val).reqs.any (fun q => q.id == 3) &&
    [(true, [], GranState.stored), (false, [], .ok .clean), (false, [(3, 1)], .ok .corrected), (false, [(3, 3)], .bad)].all (fun x =>
      let s := stored x.1 x.2.1
      s.mem.granState 0 (2 ^ 30 + 64) == x.2.2 && (s.mem.unit (2 ^ 30 + 64)).gc == 0 && tableWf UnitMeta.reset s.mem.units &&
      !s.power.d3hot && !s.mem.queued 0 (2 ^ 30 + 64) 1) && { stored true [] with power := { busy.power with d3hot := true } }.power.d3hot &&
    waitingReq.mem.queued 4 (2 ^ 30 + 64) 1 && !(granule false).mem.queued 4 (2 ^ 30 + 64) 1) = true := by
  decide +kernel
/-- A request of die 1 for a line that its home holds in a state. -/
def homeLine (st : DirSt) (shr : BitVec 4) (own : Fin 4) : State :=
  ({ busy with arg := { die := 1, addr := lineOne, data := 0xABCD, mask := 3 } }).modMem fun m =>
    if st == DirSt.i then m else m.putEntry { m.entry lineOne with st := st, shr := shr, own := own }
theorem witness_HomeAgentRequests : ([homeLine .i 0 0, homeLine .s 2 0, homeLine .s 0b1010 0, homeLine .em 0 3].all fun s =>
    decide (lineOne < 12 * 2 ^ 29) && (s.mem.entry lineOne).st.stable && (s.mem.entry lineOne).queue.isEmpty &&
    (s.mem.entry lineOne).txn.isNone && !s.mem.blocked lineOne && !s.mem.wbPending.contains (1, lineOne) &&
    s.mem.room lineOne (s.mem.needWays lineOne) == .have_ && s.mem.dieSt 1 lineOne == none && Memory.wf s.mem.bytes) = true := by
  decide +kernel
/-- A partial write of a class G128 granule of stored poison, of an ET = 1 page. -/
def homePoison : State :=
  let s := (homeLine .i 0 0).modMem fun m => m.setGran 2 (128 * lineOne) true
  { s with arg := { s.arg with gran := 2, flag := true } }
theorem witness_HomeAgentRequestsPoison : (let s := homePoison
    s.mem.poisoned 2 (128 * lineOne) && (s.mem.entry lineOne).st == .i && (s.mem.entry lineOne).queue.isEmpty && !s.mem.blocked lineOne &&
    s.mem.room lineOne (s.mem.needWays lineOne) == .have_ && tableWf UnitMeta.reset s.mem.units && Memory.wf s.mem.bytes &&
    s.arg.mask.setWidth 128 != 0 && s.arg.mask.setWidth 128 != BitVec.allOnes 128) = true := by decide +kernel
def waitingFor (st : DirSt) (k : DirReqKind) (a : SnoopAns) : State :=
  ({ busy with arg := { die := 1, addr := lineOne, ans := a } }).modMem fun m =>
    m.putEntry { m.entry lineOne with st := st, txn := some ⟨2, k⟩, waiting := [1] }
def leaving_ (st : LineSt) (pending : Bool) : State :=
  (homeLine .em 0 1).modMem fun m =>
    { m.setDie 1 lineOne (if pending then none else some st) with wbPending := if pending then [(1, lineOne)] else [] }
theorem witness_SnoopsAndWritebacks : ((waitingFor .bE .rde (.data 7)).mem.entry lineOne).waiting = [1] ∧
    ((waitingFor .bS .rds .ackClean).mem.entry lineOne).txn = some ⟨2, .rds⟩ ∧
    ((waitingFor .bS .rds .ackClean).mem.entry lineOne).shr = 0 ∧ ((waitingFor .bE .rde .ack).mem.entry lineOne).dirty = none ∧
    (leaving_ .m false).mem.dieSt 1 lineOne = some .m ∧ (leaving_ .e false).mem.dieSt 1 lineOne = some .e ∧
    (1, lineOne) ∈ (leaving_ .m true).mem.wbPending ∧ ((leaving_ .m true).mem.entry lineOne).own = 1 ∧
    (leaving_ .m true).arg.flag2 = false ∧ 1 ∉ ((leaving_ .m true).mem.entry lineOne).waiting ∧ 1 ∈ ((leaving_ .m true).mem.entry lineOne).holders := by decide +kernel
/-- A registration of agent 0 for the line, which agent 9 has open for writing or not. -/
def registers (race : Bool) : State :=
  ({ busy with arg := { id := 0, addr := lineOne, value := 0x33 } }).modMem fun m =>
    if race then m.putEntry { m.entry lineOne with writer := some ⟨9, getIdx m.epochs 9 0⟩ } else m
theorem witness_RegistrationEvents : ((registers false).mem.lineBusy lineOne = false ∧ (registers false).mem.regAnswer 0 lineOne false = .ok ∧
    (registers false).mem.regAnswer 0 lineOne true = .ok ∧ (registers true).mem.regAnswer 0 lineOne false = .race ∧
    (registers true).mem.regAnswer 0 lineOne true = .race ∧ ((registers true).ctxAt 0 0).phase ≠ .free ∧
    (let k := (busy.modCtx fun c => { c with stall := some .capacity }).ctxAt 0 0
     k.phase = .running ∧ k.stall = some .capacity ∧ k.icnt.toNat = busy.arg.num)) := by decide +kernel
/-- The home of stack 0 looks at a page with a winner in wing 3, whose frame ring is empty or holds a free frame. -/
def hotPage : HotPage :=
  { page := 2 ^ 20, big := false, entry := 0x5000, counts := (Vector.replicate 12 0).set 3 5000, wver := 4, window := none, moves := 0
    abandons := 0, settled := false, move := none, blocked := false }
def hotHome (ring : Bool) (p : HotPage) : State :=
  (({ busy with arg := { stack := 0, addr := 2 ^ 20 } }) |> withBytes 0x5000 (bytesOfNat 8 (leaf true (2 ^ 20) + 2 ^ 11)) |>
    withBytes 0x8000 (bytesOfNat 8 (if ring then 1 + 3 * 2 ^ 36 + 7 * 2 ^ 12 else 0))).modMem fun m =>
    (m.modHome 0 fun h => { h with en := true, hot := [p] }).modHome 3 fun h => { h with ring := 1 }
def moving (v : BitVec 32) : State := hotHome true { hotPage with move := some (v, 3, 3 * 2 ^ 36 + 7 * 2 ^ 12, 0), window := some 9 }
/-- A line of the page is under a transaction. -/
def busyMove : State := { (moving 4).modMem fun m => m.putEntry { m.entry (2 ^ 20 / 128) with st := .bS, txn := some ⟨2, .rds⟩ }
  with arg := { (moving 4).arg with flag := true } }
theorem witness_MigrationEvents : ((hotHome true hotPage).movable hotPage && hotPage.winner ((hotHome true hotPage).mem.home 0).thresh.toNat == some 3 &&
    (hotHome false hotPage).mem.takeFrame 3 false == none && (hotHome true hotPage).mem.takeFrame 3 false == some 0 &&
    !((moving 4).mem.home 0).dir.any (fun e => hotPage.holds e.line && !e.st.stable) && !(moving 4).mem.pageOpen hotPage &&
    busyMove.arg.flag && busyMove.mem.pageBusy 0 hotPage && (busyMove.mem.home 0).hot.any (fun q => q.page == 2 ^ 20 && q.move.isSome) &&
    hotPage.wver == 4 && Memory.wf (moving 4).mem.bytes && decide (hotPage.entry + 8 ≤ (moving 4).mem.ringVa 3 0) &&
    ((moving 4).mem.home 0).dir.isEmpty && decide (9 ≤ { moving 4 with now := 9 }.now)) = true := by decide +kernel

/-! ## The host port, queues and packets -/

def up : State := { still with power := { still.power with bringup := 7, fatal := false, d3hot := false, linkNoFlit := false } }
def taken (s : State) : Bool := s.power.bringup == 7 && !s.power.fatal && !s.power.d3hot && !s.power.linkNoFlit && !s.portHeld
def windowed (v : Bool) : State := ({ up with arg := { addr := 70, bytes := [1, 2] } }).modDctx 0 fun d =>
  { d with wins := d.wins.set 0 { d.win 0 with valid := v } }
/-- A queued `m.wait`; and a running copy from the host page 7. -/
def queuedMat : State := up.modCore fun k => { k with engine := { k.engine with queue := [⟨0, .mWait false (.main 9), 0, 0, [], [], 0, none, none, [], []⟩] } }
def hosting : State := { up with jobs := [
  { id := 40, owner := .thread 64, dctx := 0, grid := 0, team := 0, hall := 0, core := 0, tag := 1, cardVa := 0x100, wantOp := 1
    card := BitVec.ofNat 512 (1 + (2 + 64 * 16 + 0x7000 * 2 ^ 40) * 2 ^ 64), pri := 0, state := .running, status := 0, oor := 0, bytes := 0
    result := none, byOther := false, grant := none, awaiting := [] }] }
theorem witness_HostPortEvents : (!State.reset.decodes && [true, false].all (fun v => taken (windowed v) && (windowed v).ownsAperture 0 &&
    ((windowed v).dctxOf 0).landing.isEmpty && ((windowed v).dctxOf 0).valid && (((windowed v).dctxOf 0).win 0).valid == v) &&
    (let n : BitVec 64 := 5
     up.gridOf (n.toNat / 2 ^ 40) |>.any fun g => g.killed.isNone && g.dctx == 0 && decide (n.toNat / 2 ^ 8 % 2 ^ 32 < g.teams)) &&
    up.arg.fn == 0 && !up.arg.flag && [true, false].all (fun en => ((up.modQueue 0 0 fun x => { x with en := en }).queueOf 0 0).en == en &&
      !(up.modQueue 0 0 fun x => { x with en := en }).hwqTaken 0 0 5) &&
    !up.regs.tlbiBusy && decide (3 ≤ up.power.bringup) && (up.contextsOf 0)[0]? == some 0 && (up.contextsOf 0)[1]? == none &&
    (List.finRange 192).all (fun c => (up.coreAt c).engine.queue.isEmpty && (up.coreAt c).engine.stale == 0) &&
    !(queuedMat.coreAt 0).engine.queue.isEmpty && (up.atsUsers 0 7).isEmpty && !(hosting.atsUsers 0 7).isEmpty) = true := by decide +kernel
/-- Context 1 is one of function 3. -/
def twoFns : State := up.modDctx 1 fun x => { x with valid := true, fn := 3 }
theorem witness_RegisterReads : (!State.reset.decodes && up.decodes && inWindows 0 0x3E00040 &&
    (twoFns.contextsOf 3)[0]? == some 1 && decide (((twoFns.dctxOf 1).queue 0).logn ≤ 16)) = true := by decide +kernel
theorem witness_PowerStatesAndFunctionResets : (up.power.bringup, up.power.d3hot, ({ up with power := { up.power with d3hot := true } }).power.d3hot,
    (List.range 256).all (fun d => (up.dctxOf d).landing.isEmpty), (up.dctxOf 0).fn == BitVec.ofNat 4 up.arg.fn.val,
    up.contexts.all fun p => (up.ctxAt p.1 p.2).leaving.isNone) = (7, false, true, true, true, true) := by decide +kernel
/-- A grid of one team, halted or not; and a queue of context 0 with fields set. -/
def gridded (halted : Nat) : State := { still with grids := still.grids.map fun (p : Nat × Grid) => (p.1, { p.2 with haltedTeams := halted }) }
def queued (f : Queue → Queue) : State := still.modQueue 0 0 f
/-- A queue that stopped with completion writes kept; signals lie at VA 0x1000 or at an address that no page maps. -/
def keeping (st : QState) (l : List (Nat × Nat)) (page : Nat) : State :=
  ((queued fun x => { x with st := st, en := true, kept := l }).modQueue 0 0 fun x => { x with rst := true, st := .active, fstat := 0 }).modDctx 0
    fun x => { x with sigBase := BitVec.ofNat 44 page, logs := 4 }
/-- A grid is killed, and its thread is there or is gone. -/
def killed (there : Bool) : State := { still with
  grids := still.grids.map fun (p : Nat × Grid) => (p.1, { p.2 with killed := some 5 }), recs := if there then still.recs else [] }
theorem witness_QueuesFramesAndGridEndKept : ([QState.aborted, .stallFault].all (fun st => let x := (queued fun x => { x with st := st, en := true }).queueOf 0 0
      !x.disabling && x.st == st && x.kept.isEmpty) &&
    okAnd ((keeping .aborted [(2, 5)] 1).completionWrite 0 0 2 5) (fun _ => true) &&
    !okAnd ((keeping .aborted [(2, 5)] (2 ^ 28)).completionWrite 0 0 2 5) (fun _ => true) &&
    [true, false].all fun b => ((killed b).gridOf 0).any (fun g => g.plan.isNone && g.killed.isSome) && (killed b).jobs.isEmpty &&
      (killed b).recs.any (fun r => r.grid == 0) == b) = true := by decide +kernel
theorem witness_QueuesFramesAndGridEnd : ((queued id).queueOf 0 0).en = false ∧ (queued id).hwqTaken 0 0 ((queued id).queueOf 0 0).hwq.toNat = false ∧
    ((queued id).modQueue 0 1 fun x => { x with en := true }).hwqTaken 0 0 ((queued id).queueOf 0 0).hwq.toNat = true ∧
    ((queued fun x => { x with st := .aborted }).queueOf 0 0).st ≠ .idle ∧ ((queued id).queueOf 0 0).kept = [] ∧
    still.arg.flag2 = false ∧ State.reset.firmwareUp = false ∧ still.firmwareUp = true ∧ still.sec.patch = none ∧
    (∀ e < 256, (still.dctxOf e).landing = [] ∧ ∀ i < 16, ((still.dctxOf e).queue i).en = false ∧ ((still.dctxOf e).queue i).disabling = false) ∧ (still.timers.any fun (m : Nat × Instr × EvArgs) => m.2.1 == Instr.minorFrame) = false ∧
    ((gridded 1).gridOf 0).any (fun g => g.plan.isNone && g.killed.isNone && g.haltedTeams == g.teams) = true ∧ (gridded 1).gridQuiet 0 = true ∧
    (let s := { still with sec := { still.sec with fwStat := 1, patch := some (7, [], []) } }; s.firmwareUp = true ∧ s.patchDue = true) ∧
    ((gridded 0).gridOf 0).any (fun g => g.haltedTeams != g.teams) = true := by decide +kernel
/-- Queue 0 of context 0, at VA 0x10000, whose head packet has the fields listed as offset, length, value; signals at VA 0x1000. -/
def fields (l : List (Nat × Nat × Nat)) : List Byte := bytesOfNat 64 (l.foldl (fun a p => a + p.2.2 % 2 ^ (8 * p.2.1) * 2 ^ (8 * p.1)) 0)
def heading (l : List (Nat × Nat × Nat)) : State :=
  ((withBytes (2 ^ 30 + 0x10000) (fields l) up).modDctx 0 fun x => { x with sigBase := 1, logs := 4, swSize := 64 }).modQueue 0 0 fun x =>
    { x with base := 0x10, en := true, st := .active }
def headed (s : State) (p : State → Block → Bool) : Bool :=
  let x := s.queueOf 0 0
  !x.disabling && !x.rst && x.st == QState.active && x.en && !x.held && !(s.dctxOf 0).stopped &&
  okAnd ((s.ncInvalidate x.die).vaRead x.die (s.fwWho 0) x.head 64) fun r =>
    let b := blockOf r.1.bytes
    !r.1.poison && (pkFault b (r.2.dctxOf 0).logs).isNone && !r.2.pollFaults 0 0 b true && p r.2 b
def packet : Nat → List (Nat × Nat × Nat)
  | 1 => [(0, 1, 1), (1, 1, 1), (4, 4, 3), (8, 8, 0x2000), (16, 8, 0x3333), (24, 4, 2), (28, 2, 5), (30, 1, 4)]
  | 4 => [(0, 1, 4), (4, 4, 3), (8, 8, 0x8000), (16, 8, 0x9000), (24, 8, 2 ^ 36)]
  | 5 => [(0, 1, 5), (4, 4, 3), (8, 4, 2), (16, 8, 77)]
  | 6 => [(0, 1, 6), (4, 4, 3), (8, 8, 0x8000), (16, 8, 0x9000), (24, 4, 2)]
  | t => [(0, 1, t), (4, 4, 3), (8, 4, 0), (12, 4, 1)] ++ (List.range 6).map fun i => (16 + 4 * i, 4, 0xFFFFFFFF)
def got (u : State) (p : Block) : Bool := match u.claim 0 0 p with
  | .got _ _ => true
  | _ => false
/-- Kernels and plans are launched; a copy is entered; a signal is set; barriers whose signals hold 0 and 1, or −1. -/
theorem witness_PacketsRunLaunch : (headed (heading (packet 1)) (fun u b => got u b && pkType b == 1) && headed (heading (packet 6)) (fun u b => got u b && pkType b == 6)) = true := by decide +kernel
theorem witness_PacketsRunCopySignal : (headed (heading (packet 4)) (fun u b => pkType b == 4 && decide (u.jobsOfHall (12 * (u.queueOf 0 0).die) < 256)) &&
    headed (heading (packet 5)) (fun u b => pkType b == 5 && pkF b 8 4 != noSignal && pkF b 12 1 == 0 &&
      okAnd (u.vaWrite 0 (u.fwWho 0) (u.sigVa 0 2) (bytesOfNat 8 77)) fun _ => true) &&
    headed (heading [(0, 1, 5), (4, 4, 3), (8, 4, noSignal)]) (fun u b => pkType b == 5 && pkF b 8 4 == noSignal)) = true := by decide +kernel
theorem witness_PacketsRunBarriers : ([(2, 0, 0), (2, 0, 1), (3, 0, 1), (3, 2 ^ 64 - 1, 0)].all fun (c : Nat × Nat × Nat) =>
    headed (withBytes (2 ^ 30 + 0x1000) (bytesOfNat 8 c.2.1 ++ bytesOfNat 8 c.2.2) (heading (packet c.1))) fun u b => pkType b == c.1 &&
      okAnd (u.readDeps 0 0 b) fun r => r.2.queueOf 0 0 == u.queueOf 0 0 && r.1 == [BitVec.toInt (BitVec.ofNat 64 c.2.1), BitVec.toInt (BitVec.ofNat 64 c.2.2)]) = true := by
  decide +kernel

/-! ## Fabric messages, jobs and engines -/

/-- The part is node 5; node 9 of its group is reached by port 1; window 2 lets it into device context 0. -/
def wired (m : FinzonMsg) : State := { still with arg := { msg := m }, fz := { still.fz with
  nid := 5, mtab := [(9, (true, 2))], up := Vector.replicate 16 true, windows := [(2, ⟨0, true, true, true, some 0⟩), (3, ⟨0, false, false, false, none⟩)] } }
def mail (typ len : Nat) (data : List Byte) : FinzonMsg := { typ := typ, dst := 5, src := 9, win := 2, va := 0x100, len := len, data := data }
def inTurn (s : State) : Bool :=
  let m := s.arg.msg
  m.crcOk && m.dst == s.fz.nid.toNat && m.dst != unassigned && !s.power.d3hot && m.seq == tget s.fz.expectSeq m.src 0 && s.fz.held.isEmpty
def turnedB (s : State) : State := s.modFz fun f => { f with expectSeq := tset f.expectSeq s.arg.msg.src ((s.arg.msg.seq + 1) % 2 ^ 32) 0 }
def freeB (s : State) (n : Need) : Bool := !segsBusy s (s.msgSegs s.arg.msg n)
def free3 (s : State) : Bool := freeB s needW && freeB s needR && freeB s needRW
def put2 : State := wired (mail 1 2 [7, 8])
def atomic8 : State := wired { mail 4 8 [] with opnd0 := 3, stat := 0 }
def post5 : State := wired { mail 1 0 [] with opnd0 := 0, opnd1 := 2 ^ 32 + 5 }
/-- The part is in D3hot; the line is under a transaction; its granule is poison, read or meant for an atomic. -/
def asleep : State := { put2 with power := { put2.power with d3hot := true } }
def transient : State := put2.modMem fun m => m.putEntry { m.entry lineOne with st := .bS, txn := some ⟨2, .rds⟩ }
def poisoned2 (s : State) : State := s.modMem fun m => m.setGran 4 (2 ^ 30 + 0x100) true
theorem witness_FabricRequestsTurned : (asleep.power.d3hot && asleep.arg.msg.typ != 3 && asleep.arg.msg.typ != 5 && free3 asleep &&
    asleep.arg.msg.seq == tget asleep.fz.expectSeq asleep.arg.msg.src 0 && asleep.fz.held.isEmpty && !freeB transient needW &&
    (let s := poisoned2 put2
     inTurn s && free3 s && okAnd ((turnedB s).vaRead 0 ⟨0, ((turnedB s).dctxOf 0).dtsr.toNat * 4096, true⟩ 0x100 2) fun r => r.1.poison) &&
    (let s := poisoned2 atomic8
     inTurn s && free3 s && okAnd (translate (turnedB s) ⟨0, ((turnedB s).dctxOf 0).dtsr.toNat * 4096, true⟩ needRW 0x100) fun p =>
       match (turnedB s).remoteAtomic p 0 8 3 0 with
       | .error e => e.1 == 3
       | .ok _ => false)) = true := by decide +kernel
theorem witness_FabricRequests : (finzonOf put2.arg == put2.arg.msg && decide (put2.arg.msg.opnd1 < 2 ^ 32 ∧ put2.arg.msg.data.length = put2.arg.msg.len) && decide (2 ^ 32 ≤ post5.arg.msg.opnd1) &&
    inTurn put2 && free3 put2 && (put2.window 2).any (fun w => w.w && w.r && w.a) && (put2.window 4).isNone &&
    msgSpan 0x100 2 && okAnd ((turnedB put2).vaWrite 0 ⟨0, ((turnedB put2).dctxOf 0).dtsr.toNat * 4096, true⟩ 0x100 [7, 8]) (fun _ => true) &&
    (match (turnedB put2).vaWrite 0 ⟨0, 0, true⟩ (2 ^ 40) [7, 8] with
    | .error _ => true
    | .ok _ => false) &&
    inTurn post5 && free3 post5 && (post5.gridOf 0).any (fun g => g.killed.isNone && decide (0 < g.teams)) &&
    okAnd ((turnedB put2).vaRead 0 ⟨0, ((turnedB put2).dctxOf 0).dtsr.toNat * 4096, true⟩ 0x100 2) (fun r => !r.1.poison &&
      (r.2.sendKept 0 none { typ := 3, resp := true, dst := 9, win := 2, va := 0x100, len := 2, data := r.1.bytes }).isSome) &&
    inTurn atomic8 && free3 atomic8 && okAnd (translate (turnedB atomic8) ⟨0, ((turnedB atomic8).dctxOf 0).dtsr.toNat * 4096, true⟩ needRW 0x100) (fun p =>
      okAnd ((turnedB atomic8).remoteAtomic p 0 8 3 0) fun r =>
        (r.2.sendKept 0 none { typ := 5, resp := true, dst := 9, win := 2, va := 0x100, len := 8, opnd0 := r.1 }).isSome) &&
    freeB put2 ⟨false, false, false⟩ && put2.jobs.isEmpty && (put2.window 3).any (fun w => !w.w && !w.r) &&
    put2.fz.port 9 5 0 == some 1) = true := by decide +kernel

/-! A job card: operation, OPX, regions, DONE. -/
def flat (w : Bool) (va n : Nat) : Nat := 1 + (if w then 8 else 0) + n * 16 + va * 2 ^ 40
def far (w : Bool) (va node win : Nat) : Nat := 4 + (if w then 8 else 0) + win * 2 ^ 7 + node * 2 ^ 19 + va * 2 ^ 40
def card (op opx : Nat) (regs : List Nat) (done : Nat := 0) : Block :=
  BitVec.ofNat 512 (op + opx * 2 ^ 32 + (regs.zipIdx.map fun p => p.1 * 2 ^ (64 + 96 * p.2)).foldl (· + ·) 0 + done * 2 ^ 448)
def aJob (st : JobState) (c : Block) : Job :=
  { id := 40, owner := .thread 64, dctx := 0, grid := 0, team := 0, hall := 0, core := 0, tag := 1, card := c, wantOp := 0, cardVa := 0x100
    pri := 0, state := st, status := 0, oor := 0, bytes := 0, result := none, byOther := false, grant := none, awaiting := [] }
def working (j : Job) (s : State) : State := { s with jobs := [j], arg := { s.arg with id := 40 } }
/-- A message of the part to node 9 is kept for a job, or for none; its answer has come. -/
def answered (typ stat : Nat) (job : Option Nat) : State :=
  let s := working { aJob .running (card 1 0 [flat false 0x100 64, far true 0x200 9 2]) with awaiting := [(9, 0)] } (wired { mail typ 0 [] with resp := true, stat := stat })
  { s with arg := { s.arg with num := 9, id := 0 }, fz := { s.fz with kept := [⟨{ typ := 1, dst := 9, src := 5, seq := 0 }, 0, job, 0⟩] } }
/-- A job waits for data of VA 0x200 of node 9. -/
def fetched (op typ : Nat) : State :=
  let regs := if op = 1 then [far false 0x200 9 2, flat true 0x100 64] else [flat false 0x100 16, flat true 0x180 8, 0, far true 0x200 9 2]
  working { aJob .running (card op 8 regs) with awaiting := [(9 + 2 ^ 32, 0x200)] }
    (wired { mail typ 8 (bytesOfNat 8 77) with resp := true, va := 0x200, tag := 1, opnd0 := 77 })
def awaited (s : State) : Bool :=
  let v := (turnedB s).answerMsg s.arg.msg none
  inTurn s && (s.answerHeld s.arg.msg).isNone && (v.jobAwaiting s.arg.msg).any fun j => okAnd (v.give j 1 0 (bytesOfNat 8 77)) fun _ => true
theorem witness_FabricAnswers : (((answered 6 0 none).fz.kept.find? (fun (k : Kept) => k.msg.dst == 9 && k.msg.seq == 0)).isSome &&
    (answered 6 0 (some 40)).jobs.all (fun (j : Job) => j.state == .running && decide (cardOp j.card < 8) && j.awaiting == [(9, 0)]) &&
    ((answered 7 3 (some 40)).arg.msg.stat != 1) && (answered 6 0 none).fz.kept.all (fun (k : Kept) => decide (k.resends < 8) && k.msg.dst != unassigned &&
      k.msg.dst != (answered 6 0 none).fz.nid.toNat && ((answered 6 0 none).fz.port k.msg.dst k.msg.src k.chunk).isSome) &&
    awaited (fetched 1 3) && awaited (fetched 11 5) && (put2.jobAwaiting put2.arg.msg).isNone && put2.fz.port 5 9 0 == none) = true := by decide +kernel
/-- Job 40 enters, waits, runs or is finishing. -/
def entering (st : JobState) (c : Block) : State := (working (aJob st c) still).modDctx 0 fun x => { x with sigBase := 1, logs := 4 }
def goodCard (done : Nat) : Block := card 4 0xAB [flat true (0xFF * 2 ^ 48 + 32) 64] done
theorem witness_JobLife : (!(entering .entering (goodCard 0)).cardHeld (aJob .entering (goodCard 0)) && ((entering .entering (goodCard 0)).entryFault (aJob .entering (goodCard 0))).isNone &&
    ((entering .entering (card 12 0 [])).entryFault (aJob .entering (card 12 0 []))).isSome &&
    ((entering .waiting (goodCard 0)).nextJob 0 == some (aJob .waiting (goodCard 0))) && (still.nextJob 0).isNone && (entering .queued (goodCard 0)).jobHome (aJob .queued (goodCard 0)) && !still.power.d3hot && !still.arg.flag &&
    (List.range 5).all (fun ca => doneCa (cardDone (goodCard ca)) == ca && (still.gridOf 0).any fun g => decide (doneCarg ca % 2 ^ 32 < g.teams)) &&
    (still.issuerLive 64 0) && okAnd ((entering .finishing (goodCard 4)).sigUpdate 0 ((entering .finishing (goodCard 4)).jobWho (aJob .finishing (goodCard 4))) 0 0
      (fun x => if 0 ≤ x then some (x - 1) else none)) (fun _ => true) &&
    ((wired {}).sendKept 0 (some 40) (flagPost 9 0 0 0 1)).isSome) = true := by decide +kernel
/-- A put whose data is carried in its first flit, and one whose data takes a data flit. -/
def carried (n : Nat) : FinzonMsg := { mail 1 n (List.replicate n 7) with seq := 5, stat := 0 }
theorem witness_FlitsCarryTheMessage : ([0, 128, 129].all fun n => let m := carried n
    decide (m.typ < 2 ^ 8 ∧ m.dst < 2 ^ 21 ∧ m.src < 2 ^ 21 ∧ m.seq < 2 ^ 32 ∧ m.win < 2 ^ 16 ∧ m.stat < 2 ^ 16 ∧ m.va < 2 ^ 56 ∧ m.len < 2 ^ 32 ∧
      m.tag < 2 ^ 32 ∧ m.opnd0 < 2 ^ 128 ∧ m.opnd1 < 2 ^ 128 ∧ m.data.length = m.len) && m.crcOk) = true ∧
    msgOfFlits (msgFlits (carried 2)) = carried 2 := by decide +kernel

def pad (o : Nat) : Nat := 0xFF * 2 ^ 48 + o
def padBytes : Memory := Memory.write (Memory.write [] 0 ((List.range 128).map fun k => BitVec.ofNat 8 (k + 1))) 256
  (bytesOfNat 4 1 ++ bytesOfNat 4 (2 ^ 32 - 1) ++ bytesOfNat 4 3)
/-- An engine at work for a card, in a team whose scratchpad holds bytes at 256: the indices 1, −1 and 3. -/
def engaged (c : Block) : State := working (aJob .running c)
  { still with teams := still.teams.map fun (t : Team) => { t with spad := padBytes } }
def goesB (s : State) : Bool := (s.jobOf s.arg.id).any fun j => j.state == .running && !s.power.d3hot && (!s.teamStops j || !j.awaiting.isEmpty) && !s.matBefore j && (List.range 4).all (fun i => !s.regBusy j i) && (j.grant.isSome || (s.burstClass j).isNone)
def inPadRegion (c : Block) (i o n : Nat) : Bool := cardRegion c i == .flat (pad o) n && inAperture (pad o) && (pad o) % 2 ^ 48 == o
def fillCard : Block := card 4 0x04030201 [flat true (pad 32) 64]
def copyCard : Block := card 1 0 [flat false (pad 0) 64, flat true (pad 1024) 64]
def gatherCard : Block := card 2 32 [flat false (pad 0) 128, flat false (pad 256) 12, flat true (pad 512) 96]
def scatterCard : Block := card 3 32 [flat false (pad 0) 96, flat false (pad 256) 12, flat true (pad 1024) 128]
def galleryCard : Block := card 7 64 [flat false (pad 0) 64]
theorem witness_EngineTransfers : ([fillCard, copyCard, gatherCard, scatterCard, galleryCard].all (fun c => goesB (engaged c) &&
      ((engaged c).teamOf 0 0).any fun t => t.spadBad.isEmpty && t.spadSoft.isEmpty) &&
    inPadRegion fillCard 0 32 64 && regCuts fillCard 0 64 == [(0, 64)] && inPadRegion copyCard 0 0 64 && inPadRegion copyCard 1 1024 64 &&
    regCuts copyCard 0 64 == [(0, 64)] && inPadRegion gatherCard 0 0 128 && inPadRegion gatherCard 1 256 12 && inPadRegion gatherCard 2 512 96 &&
    regCuts gatherCard 2 96 == [(0, 96)] && inPadRegion scatterCard 0 0 96 && inPadRegion scatterCard 1 256 12 && inPadRegion scatterCard 2 1024 128 &&
    inPadRegion galleryCard 0 0 64 && decide (64 + 64 ≤ gallerySize still 0) && !(engaged galleryCard).galleryRead (aJob .running galleryCard) 64 64) = true := by
  decide +kernel

/-- An image at VA 0x300 of one segment of one bundle, an `s.halt` and nothing else, at 0x380. -/
def streamBytes : List Byte := let b := [1, 0] ++ bytesOfNat 7 0x0D400000000000; b ++ bytesOfNat 4 (crc32c b)
def imaged (op : Nat) : State :=
  let c := card op 0 [if op = 5 then flat false 0x380 13 else 0]
  let s := working { aJob .running c with grant := some 2 } still
  { s with grids := s.grids.map fun (p : Nat × Grid) => (p.1, { p.2 with img := 0x300 }) } |>
    withBytes (2 ^ 30 + 0x300) (padTo 64 (bytesOfNat 4 0x48585347 ++ bytesOfNat 2 1 ++ bytesOfNat 1 4) ++
      padTo 32 (bytesOfNat 8 0x380 ++ bytesOfNat 4 13 ++ bytesOfNat 2 1 ++ bytesOfNat 4 0 ++ bytesOfNat 2 0xFFFF)) |>
    withBytes (2 ^ 30 + 0x380) streamBytes
/-- Bank 0 of core 0 holds segment 0 of that image, of a given failure, loaded by a job or for something. -/
def banked (op : Nat) (f : Option (SealCode × Nat × Nat)) (why : Option LoadFor) : State :=
  (imaged op).modCoreAt 0 fun k => { k with banks := k.banks.set 0 { k.banks.get 0 with
    loaded := true, dctx := 0, table := 0x300, seg := 0, nb := 1, nh := 0, next := 0xFFFF, nseg := 1, isSealed := false, loading := why, failure := f }
                                            bundles := tset k.bundles 0 (BitVec.ofNat 512 (0x0D400000000000 * 2 ^ 392)) 0 }
theorem witness_EngineExpandAndSealExpand : (let s := imaged 5
    goesB s && (s.imageRead ⟨0, 0, true⟩ 0x380 13).1.any (fun bs => bs == streamBytes) && (s.image ⟨0, 0, true⟩ 0x300).1.any (fun i => i.nseg == 1) &&
      (s.jobWho (aJob .running (card 5 0 []))) == ⟨0, 0, true⟩ &&
      (s.goodEntry ⟨0, 0, true⟩ 0x300 0 1).any (fun e => cardRegion (card 5 0 [flat false 0x380 13]) 0 == .flat e.sva e.slen &&
        (Stream.parse e streamBytes).any fun x => x.relocs.isEmpty && x.bundles.length == 1) && tableWf 0 (s.coreAt 0).bundles &&
      ((s.coreAt 0).banks.get 0).loading.isNone) = true := by decide +kernel
theorem witness_EngineExpandAndSealSeal : (let s := banked 6 none none
    goesB s && ((s.coreAt 0).burin 0 (nbIn (s.farNbs ⟨0, 0, true⟩ 0 0).1)).isNone &&
    (let z := banked 6 none (some (.grid 0)); (z.seal ⟨0, 0, true⟩ 0 0).1 && z.arg.core == 0 && z.arg.bank == 0 && !z.arg.flag && ((z.coreAt 0).banks.get 0).queue.isEmpty) &&
    [.grid 0, .overlay 0 64, .fetch].all (fun w => let z := banked 6 (some (.badImage, 0, 0)) (some w); !(z.seal ⟨0, 0, true⟩ 0 0).1) &&
    (List.finRange 4).all (fun x => !s.waitsBank 0 0 x) && s.recs.all fun r => !s.recWaitsBank 0 0 r) = true := by decide +kernel

/-- Jobs that use the fabric: a descriptor of nodes 5 and 9 stands at 512 of the scratchpad. -/
def meshed (c : Block) (l : List Collective) : State :=
  let s := working (aJob .running c) (wired {})
  { s with
    teams := s.teams.map fun (t : Team) => { t with spad := Memory.write padBytes 512 (bytesOfNat 4 2 ++ bytesOfNat 4 5 ++ bytesOfNat 4 9) }
    fz := { s.fz with collectives := l } }
def atomicCard : Block := card 11 8 [flat false (pad 0) 16, flat true (pad 64) 8, 0, far true 0x200 9 2]
def ckptCard : Block := card 9 0 [flat false (pad 0) 64, 0, 0, far true 0x1000 9 2]
def restoreCard : Block := card 9 1 [flat true (pad 0) 64, 0, 0, far false 0x1000 9 2]
def collCard : Block := card 8 (2 + 2 * 2 ^ 7) [flat false (pad 512) 12, flat false (pad 0) 8, flat true (pad 1024) 8]
def chunk : List Byte := chunkBytes (pad 0) 0 0 (List.replicate 64 9) [false, false]
def restored : List Collective := [⟨40, 0, [(0, chunk)], 0, 0⟩]
def gathered : List Collective := [⟨40, 7, [(ownKey, bytesOfNat 4 2 ++ bytesOfNat 4 5 ++ bytesOfNat 4 9), (ownKey + 1, bytesOfNat 8 5), (1, bytesOfNat 8 6)], 0, 0⟩]
def sent (s : State) (m : FinzonMsg) : Bool := okAnd (s.jobSend 40 0 m none) fun _ => true
def blank : List Collective := [⟨40, 0, [], 0, 0⟩]
theorem witness_EngineFabricJobs : (goesB (meshed atomicCard []) && goesB (meshed ckptCard []) && goesB (meshed restoreCard []) && goesB (meshed collCard []) &&
    cardRegion atomicCard 0 == .flat (pad 0) 16 && cardRegion atomicCard 1 == .flat (pad 64) 8 && cardRegion atomicCard 3 == .remote 0x200 9 2 &&
    okAnd ((meshed atomicCard []).take (aJob .running atomicCard) 0 0 16) (fun r => sent r.2 { typ := 4, dst := 9, win := 2, va := 0x200, len := 8 }) &&
    ckptRegs ckptCard == some (pad 0, 64, 0x1000, 9, 2) && okAnd ((meshed ckptCard blank).ckptRead (aJob .running ckptCard) (pad 0) 64)
      (fun r => let bs := chunkBytes (pad 0) r.2.2.1 0 r.1 r.2.1
        msgCuts 0x1000 bs.length == [(0x1000, 0, bs.length)] && sent r.2.2.2 { typ := 1, dst := 9, win := 2, va := 0x1000, len := bs.length, data := bs }) &&
    ckptRegs restoreCard == some (pad 0, 64, 0x1000, 9, 2) && sent (meshed restoreCard blank) { typ := 2, dst := 9, win := 2, va := 0x1000, len := 64 }) = true := by
  decide +kernel
theorem witness_EngineFabricJobsRestore : (goesB (meshed restoreCard restored) && ((meshed restoreCard restored).collOf 40).any (fun x =>
      x.streamBytes 64 == some (chunk.take 64) && x.streamBytes (64 + 64) == some chunk) && chunkLens (chunk.take 64) == (64, 0) &&
    fieldAt (chunk.take 64) 0 8 == pad 0 && (Chunk.parse chunk).any (fun c => c.va == pad 0 && c.bad.all (!·) && c.data.length == 64 &&
      okAnd ((meshed restoreCard restored).give (aJob .running restoreCard) 0 0 c.data) fun _ => true)) = true := by decide +kernel
theorem witness_EngineFabricJobsCollective : (let s := meshed collCard []
    let z := meshed collCard gathered
    okAnd (s.take (aJob .running collCard) 0 0 12) (fun d => okAnd (d.2.take (aJob .running collCard) 1 0 8) fun x => x.2.fz.early.isEmpty &&
      (memberOf? collCard 5 8 8 d.1 x.1).any fun m => (match (x.2.modFz fun f => { f with collectives := blank }).collSend (aJob .running collCard) m with
        | .ok u => (match u.collFinish (aJob .running collCard) m with
          | .await _ => true
          | _ => false)
        | .error _ => false)) && (s.collOf 40).isNone &&
    (z.collOf 40).any (fun x => (memberOf? collCard 5 8 8 (bytesOfNat 4 2 ++ bytesOfNat 4 5 ++ bytesOfNat 4 9) (bytesOfNat 8 5)).any fun m =>
      (collInputs (collOp collCard) 2 m.len m.me m.input x).any fun ins => (collOutput collCard m.me ins).any fun bs =>
        okAnd (z.give (aJob .running collCard) 2 0 bs) fun _ => true)) = true := by decide +kernel

/-! ## Plans, scheduling, waits, saves, issue -/

/-- Plan 70 as the drafting unit of die 0 has it, or as it runs at node `n` after node 0 of two rows. -/
def drafted (inv : Bool) (resume : Option Nat) (run : Bool) : State :=
  { still.modDie 0 fun d => { d with drafting := [70] } with
    plans := [{ planOf .planning with invalidated := inv, resume := resume, runPending := run, result := some (0, 0, 9) }] } |>.modCtx fun c =>
      { c with long := [⟨9, 7, .s (.main 9), false, none, false, false, 0, 0, []⟩] }
/-- A MAP that copies node 0. -/
def mapNode : BitVec 256 := BitVec.ofNat 256 (3 + 9 * 2 ^ 8 + 0xFF * 2 ^ 24 + 0xFF * 2 ^ 40)
def running (n : Nat) (inv : Bool) : State :=
  { still with arg := { id := 70 }, plans := [{ planOf .running with nodes := [mapNode, mapNode], nextNode := n, e := 0, invalidated := inv, done := [(0, ⟨9, [2], [1, 2]⟩)]
                                                                     current := [⟨0, 0, 0, 0, 0, true, [], 5, 0xFFFFFFFF, 0, 0, false, false⟩] }] }
def planJob (s : State) : State := { s with arg := { id := 40 }, jobs := [{ aJob .running (card 10 0 []) with owner := .plan 70 }] }
/-- `m.wait` heads the queue of core 0's engine. -/
def queuedWait : State :=
  (held.modCore fun k => { k with engine := { k.engine with queue := [⟨0, .mWait false (.main 9), 0, 0, [], [], 0, some 9, none, [], []⟩] } }).modCtx fun c =>
    { c with long := [⟨9, 3, .s (.main 9), false, none, false, false, 0, 0, []⟩] }
/-- The command reads a scratchpad that drains for a split; or the clock of its core stands. -/
def heldWait : State := queuedWait.modCore fun k => { k with drain := some (4, still.now + 100), engine := { k.engine with
  queue := k.engine.queue.map fun (q : MatCmd) => { q with uses := [⟨false, .spad 0, pad 0, 32⟩] } } }
def tripped : State := queuedWait.modDie 0 fun d => { d with tripped := true }
theorem witness_PlanAndMatrixEvents : ([drafted true none false, drafted true (some 1) false, drafted false none false, drafted false none true, drafted false (some 1) false].all
      (fun s => (s.dieAt s.arg.die).drafting == [70] && (s.planOf 70).any (fun p => p.pkt.isNone && p.result == some (0, 0, 9)) &&
        (s.ctxAt (splitAgent 0).1 (splitAgent 0).2).long.any fun l => l.id == 9) &&
    [running 1 true, running 1 false].all (fun s => (s.planOf s.arg.id).any (fun p => p.st == .running && p.pkt.isNone && p.nextNode != 0 && !p.replanNext && p.e == 0 &&
      (p.done.find? fun (d : Nat × TVal) => d.1 == p.nextNode - 1).isSome) && !s.power.d3hot && !s.arg.flag) &&
    ((planJob still).planOf 70).isNone && (planJob (running 1 false)).jobs.all (fun (j : Job) => j.owner == .plan 70 && j.state == .running) &&
    ((planJob (running 1 false)).planOf 70).any (fun p => (still.teams.any fun (t : Team) => t.grid == p.grid.getD 0 && t.core.isSome) &&
      !((p.nodes[p.nextNode]?).any fun x => nOp x == 1) && okAnd ((planJob (running 1 false)).planNode p p.nextNode) fun _ => true) &&
    (let s := planJob { running 1 false with power := { still.power with d3hot := true } }; s.power.d3hot && (s.planOf 70).isSome) &&
    (match (queuedWait.coreAt 0).engine.queue with
      | [q] => (queuedWait.cmdHeld 0 q).isNone && !queuedWait.frozen 0 && !queuedWait.ctxKilled 0 q.ctx && ((heldWait.coreAt 0).engine.queue.any fun p => (heldWait.cmdHeld 0 p).isSome) && !heldWait.frozen 0 &&
          tripped.frozen 0 && tripped.arg.core == 0 && q.op == .mWait false (.main 9) && q.grant.isNone && q.result == some 9 && ((queuedWait.ctxAt 0 q.ctx).leaving).isNone &&
          (queuedWait.ctxAt 0 q.ctx).long.any fun l => l.id == 9
      | _ => false)) = true := by decide +kernel
/-- A grid of three teams, of which the last is to be placed. -/
def placing (spad : Nat) : State :=
  { still with grids := [(0, { Grid.placed with teams := 3, claim := 0, spad := spad, gal := 0, threads := 2 })], arg := { flag := true, id := 2 } }
def waitingCtx (p : CtxPhase) : State :=
  ((still.modCtxAt 0 2 fun c => { c with phase := p }).modCoreAt 0 fun k => { k with running := none }).modCtxAt 0 0 fun c => { c with phase := .waiting }
/-- Every record stands in memory. -/
def recorded (s : State) : State := s.recs.foldl (fun t (r : Rec) => withBytes (2 ^ 30 + r.va) r.bytes t) s
def takes : State := recorded { still with arg := { ctx := 1 }, recs := still.recs ++ [{ Rec.fresh 128 0 0 1 0 with st := .ready, arg := 55, bix := 9, seg := 0 }] }
def evicts : State := ({ still with recs := still.recs.map fun (r : Rec) => { r with frame := 0x10000, st := .waiting } }.modCtxAt 0 0 fun c =>
  { c with phase := .waiting }).modCoreAt 0 fun k => { k with running := none }
def evicted : State := recorded { still.modCtxAt 0 0 fun c => { c with phase := .free } with
  recs := still.recs.map fun (r : Rec) => { r with frame := 0x10000, st := .ready, saved := true, onCtx := none } }
def swapsOut : State := { still with arg := { flag := true, id := 0 }, teams := still.teams.map fun (t : Team) => { t with stopping := true }, recs := [] }
theorem witness_SchedulingEvents : (((placing 4).gridOf 0).any (fun g => g.killed.isNone && ((placing 4).coreFor g 2).isSome && ((placing 4).teamOf 0 2).isNone &&
      g.teams == 3) && ((placing 17).gridOf 0).any (fun g => ((placing 17).coreFor g 2).isNone) &&
    (waitingCtx .ready).nextCtx 0 == some 2 && (waitingCtx .free).nextCtx 0 == none && ((waitingCtx .ready).coreAt 0).running == none &&
    (takes.ctxAt 0 1).phase == .free && (takes.nextRec 0).any (fun r => !r.saved && r.handler.isNone && takes.recTaken r == some r) &&
    still.victim 0 == none && still.regs.balEn &&
    (still.gridOf 0).any (fun g => decide (g.boundary ≤ still.now)) && still.fifo.isEmpty &&
    (swapsOut.teamAgents 0 0).isEmpty && swapsOut.teamQuiet 0 0 && (swapsOut.teamOf 0 0).any fun t => t.stopping && t.spadBad.isEmpty) = true := by decide +kernel
theorem witness_SchedulingEventsEviction : ((evicts.victim 0).any (fun x => evicts.canPark 0 x && (evicts.recAt 0 x).any fun r =>
    okAnd (evicts.saveContext 0 x r.fsp r.frame (evicts.ctxAt 0 x).idleInfo) fun _ => true)) = true := by decide +kernel
theorem witness_SchedulingEventsResume : ((evicted.nextRec 0).any fun r => r.saved && evicted.recTaken r == some r && !r.fsp && (evicted.ctxAt 0 0).phase == .free &&
    okAnd (evicted.savedBlock 0 r) fun _ => true) = true := by decide +kernel
theorem witness_BalancePush : (0 < 12 ∧ (fun (n : Nat) => if n = 0 then 20 else n) 1 + 8 < 20) ∧ 1 + 8 ≥ 9 := by decide
def replays (t : Nat) : State := { still.modCtxAt 0 0 fun c => { c with replayAt := some t, phase := .waiting } with arg := { id := 64, num := 0 } }
def flagWait (k : Nat) : State :=
  { still.modCtxAt 0 0 fun c => { c with wait := some ⟨.flag 5 k 3, .nowhere, false, 0, true⟩, phase := .waiting } with arg := { id := 64, num := 0 } }
/-- The thread waits for signal 7, which holds 0 or 2: off its context, or on it. -/
def signalWait (on : Bool) (x : Nat) : State :=
  let s := signalled x
  if on then s.modCtxAt 0 0 fun c => { c with wait := some ⟨.signal 7 3, .nowhere, false, 0, true⟩, phase := .waiting }
  else { s with recs := s.recs.map fun (r : Rec) => { r with onCtx := none, st := .waiting, wk := 4, wsig := 7, side := none } }
theorem witness_WaitEventsSignal : ([0, 2].all fun x =>
    (let s := signalWait false x
     match s.recs.filter fun q => q.hall == s.arg.hall.val && s.onSignal q with
     | [r] => s.recs.filter (fun q => q.va == r.va && q.grid == r.grid) == [r] && r.onCtx == none && (r.side.bind (·.replayAt)).isNone && s.recHolds r == (x == 0)
     | _ => false) &&
    (let s := signalWait true x
     match s.recs.filter fun q => q.hall == s.arg.hall.val && s.onSignal q with
     | [r] => s.recs.filter (fun q => q.va == r.va && q.grid == r.grid) == [r] && r.onCtx == some 0 && s.recAt 0 0 == some r &&
       (s.ctxAt 0 0).replayAt.isNone && (s.ctxAt 0 0).leaving.isNone && (s.ctxAt 0 0).async.isEmpty && s.mem.epochBlocked (agentOf 0 0) == none &&
       s.condHolds 0 r.grid r.team 0 (.signal 7 3) == (x == 0)
     | _ => false)) = true := by decide +kernel
theorem witness_WaitEvents : ([replays 0, replays (2 ^ 60), flagWait 0, flagWait 1].all (fun s => (s.recOf 64 0).any (fun r => r.onCtx == some 0) &&
      (s.recs.filter fun (q : Rec) => q.va == s.arg.id && q.grid == s.arg.num).length == 1 && (s.recAt 0 0).isSome && (s.teamOf 0 0).isSome &&
      (s.ctxAt 0 0).leaving.isNone && (s.ctxAt 0 0).async.isEmpty && s.mem.epochBlocked (agentOf 0 0) == none && (s.ctxAt 0 0).phase == .waiting) && (replays 0).ctx.wait.isNone && decide (0 ≤ still.now ∧ still.now < 2 ^ 60) &&
    (still.recs.filter fun (q : Rec) => q.va == 65).isEmpty && still.recs.all fun r => !still.onSignal r) = true := by decide +kernel
def saving (st : Nat) (stopped : Bool) : State :=
  ({ still with save := { still.save with st := st, areaLen := 1, areaBase := 0x1000 }, arg := { flag := false } }).modDctx 0 fun x => { x with stopped := stopped }
def stopping : State := let t := nxt (exec .save (saving 0 false)); { t with arg := { flag := true } }
/-- An area with the header of a save. -/
def area : State := withBytes (2 ^ 30 + 2 ^ 28) (bytesOfNat 4 0x48585341 ++ bytesOfNat 4 1 ++ [0, 4]) (saving 0 true)
theorem witness_SaveRestoreResume : ((saving 1 false).save.st = 1 ∧ (saving 0 false).save.st = 0 ∧ ((saving 0 true).dctxOf 0).stopped = true ∧
    ((saving 0 true).dctxOf 0).valid = true ∧ { saving 0 true with grids := [] }.grids = [] ∧ stopping.save.st = 1 ∧ stopping.arg.flag = true ∧
    ((stopping.residentTeams 0).all fun t => stopping.teamQuiet t.grid t.num) = true ∧ ((saving 0 true).fwGet 0 (saving 0 true).areaVa 64).isSome = true ∧
    ((saving 0 true).dctxOf 0).saved = false ∧ ((area.fwGet 0 area.areaVa 64).any fun h => fieldAt h 0 4 == 0x48585341 && fieldAt h 4 4 == 1 && fieldAt h 9 1 == 4) = true) := by decide +kernel
/-- The context fetches a bundle of one `s.halt`, of the bank's segment, sealed or not. -/
def fetching (isSealed : Bool) (nb : Nat) : State := thread.modCoreAt 0 fun k => { k with
  banks := k.banks.set 0 { k.banks.get 0 with isSealed := isSealed, nb := nb }
  bundles := tset k.bundles 0 (BitVec.ofNat 512 (0x0D400000000000 * 2 ^ 392)) 0 }
def fetchReady (s : State) : Bool :=
  let q := s.ctxAt 0 0
  (s.coreAt 0).running == some 0 && !q.halting && q.async.isEmpty && q.deferred.isNone && q.wait.isNone && q.rereserve.isNone && q.reacquire.isNone && q.copyWait.isNone &&
    s.bankNamed 0 0 && decide (q.bix < 4096) && ((s.coreAt 0).banks.get q.bank).loading.isNone && !(s.at_ 0 0).fetchLoads
/-- The header of that bundle is `h`, its other bank loads a segment or not. -/
def headed_ (h : Nat) (why : Option LoadFor) : State := (fetching true 1).modCoreAt 0 fun k => { k with
  banks := k.banks.set 1 { k.banks.get 1 with loading := why }
  bundles := tset k.bundles 0 (BitVec.ofNat 512 (h * 2 ^ 448 + 0x0D400000000000 * 2 ^ 392)) 0 }
/-- Its operations meet nothing. -/
def issues (s : State) (early : Bool) : Bool :=
  let q := s.ctxAt 0 0
  let b := tget (s.coreAt 0).bundles 0 0
  let h := Header.of b
  let u := if h.hw then (s.at_ 0 0).hostWindowPoint 0 else s.at_ 0 0
  (bundleOps b).any fun all => match q.chain h with
    | .leaf leaf drop =>
      let ops := (all.filter fun p => tagEnables p.1 leaf).map Prod.snd
      let v := { u with curLeaf := leaf, curHeader := b.extractLsb' 448 64 }
      !(ops.any fun o => q.interlocked o.op) && ((h.hw && ((s.at_ 0 0).matPending || q.long.any fun r => r.load || r.slot == 5)) == early) &&
        isGo (overflowCheck v.ctx drop ops) && ops.all (fun o => isGo (leaveInTurn ops o (issueCheck o.op { v with curWord := o.word }))) &&
        isGo (v.roomCheck (ops.flatMap fun o => v.reach o.op)) && isGo (v.flushCheck ops) && (v.refetches ops).isNone && ops.length == 1 &&
        (!h.ob || (!v.overlayFound && !v.overlayHeld && (u.gridOf v.curGrid).isSome))
    | _ => false
theorem witness_IssueEvents : (fetchReady (fetching true 1) && (((fetching true 1).coreAt 0).banks.get 0).isSealed &&
    fetchReady ((fetching true 0).modCtx fun c => { c with icnt := 1 }) && issues (fetching true 1) false &&
    [none, some LoadFor.fetch].all (fun w => issues (headed_ 8 w) false && fetchReady (headed_ 8 w) && (((headed_ 8 w).coreAt 0).banks.get 1).loading == w) &&
    issues (headed_ 16 none) false && fetchReady (headed_ 16 none) &&
    (let s := (headed_ 16 none).modCtx fun c => { c with long := [⟨9, 4, .s (.main 9), false, none, false, true, 0, 0, []⟩] }
     issues s true && fetchReady s) &&
    thread.ctx.phase == .running && thread.ctx.wait.isNone && decide (thread.ctx.issuedSince < 4096) &&
    (queuedWait.ctxAt 0 0).leaving.isNone && !queuedWait.frozen 0 && (stopped.ctx.long.any fun r => r.data.isSome && !r.poison) && stopped.frozen 0 &&
    (queuedWait.ctxAt 0 0).long.any (fun (r : LongResult) => r.id == 9 && r.data.isNone)) = true := by decide +kernel
theorem witness_UnsealedFetch : (fetchReady (fetching false 1) && (((fetching false 1).coreAt 0).banks.get 0).failure.isNone && !(((fetching false 1).coreAt 0).banks.get 0).isSealed) = true := by
  decide +kernel
/-- An operation of every family meets the hypotheses of the encoding's two statements: `words` lists more. -/
theorem witness_DecodeAfterEncode : ([(0, Instr.sHalt), (1, .vThrcnt .va false (.main 6) (.main 4) (.main 5) 0 2), (3, .mWait false (.main 9)), (4, .ldS false (.main 4) (.main 1) 3 false 0),
    (6, .cpCopy false (.main 24) (.main 22)), (7, .ySig (.main 5) 3)].all fun (p : Nat × Instr) => p.2.wf && p.2.slot == some p.1) = true := by decide
theorem witness_EncodeAfterDecode : decodeSlot 0 0x0D400000000000 = .ok (some .sHalt) := by decide
theorem witness_StepKeepsMemoryCanonical : Memory.wf State.reset.mem.bytes = true ∧ Memory.wf State.reset.hostMem = true := by decide
theorem witness_StepRunsDecodedInstruction : State.reset.touched = [] ∧ (bundleOps (BitVec.ofNat 512 (0x0D400000000000 * 2 ^ 392))).any (fun all =>
    (all.map fun (p : Nat × Latched) => p.2.op) == [Instr.sHalt]) = true ∧ nx (step (State.reset.withFetchWord 512 (0x0D400000000000 * 2 ^ 392))) (fun _ => true) = true ∧
    nx (exec .sHalt issuing) (fun _ => true) = true := by decide +kernel
theorem witness_OnlyControllersStop : (dpaExists (2 ^ 40), match exec .granuleRead { State.reset with arg := { addr := 2 ^ 40 } } with
    | .fault f => f == .noSuchAddress (2 ^ 40)
    | _ => false) = (false, true) := by decide +kernel

end Sys2Proof.Tests
end

section
/-! SUPPORT. Updates of device contexts and queues, and the writes of an engine, which leave every thread's context and every device
context's registers alone. -/

namespace Sys2Proof.Proofs

open Sys2Proof Sys2Proof.Machine Sys2Proof.Claims Sys2Proof.Laws

/-! ## Device contexts and queues -/

theorem getIdx_setIdx_self {α : Type} {n i : Nat} (v : Vector α n) (x d : α) (h : i < n) : getIdx (setIdx v i x) i d = x := by
  simpa [getIdx, setIdx, h] using vget_set_self v i x h

theorem getIdx_setIdx_ne {α : Type} {n i j : Nat} (v : Vector α n) (x d : α) (h : i ≠ j) :
    getIdx (setIdx v i x) j d = getIdx v j d := by
  unfold getIdx setIdx
  split
  · split
    · exact vget_set_ne v i x _ ⟨j, _⟩ h
    · rfl
  · rfl

theorem dctxOf_modDctx_ne (s : State) {d e : Nat} (f : DCtx → DCtx) (h : e % 256 ≠ d % 256) :
    (s.modDctx d f).dctxOf e = s.dctxOf e :=
  vget_set_ne _ (d % 256) _ (Nat.mod_lt d (by decide)) ⟨e % 256, Nat.mod_lt e (by decide)⟩ (Ne.symm h)

theorem queueOf_modQueue_self (s : State) (d : Nat) {q : Nat} (f : Queue → Queue) (h : q < 16) :
    (s.modQueue d q f).queueOf d q = f (s.queueOf d q) := by
  simp [State.queueOf, State.modQueue, DCtx.queue, getIdx_setIdx_self, h]

theorem queueOf_modQueue_ne (s : State) {d q e k : Nat} (f : Queue → Queue) (hd : d < 256) (he : e < 256) (h : (e, k) ≠ (d, q)) :
    (s.modQueue d q f).queueOf e k = s.queueOf e k := by
  by_cases hed : e = d
  · subst hed
    have hk : q ≠ k := fun hk => h (by rw [hk])
    simp [State.queueOf, State.modQueue, DCtx.queue, getIdx_setIdx_ne _ _ _ hk]
  · have hmod : e % 256 ≠ d % 256 := by omega
    simp [State.queueOf, State.modQueue, dctxOf_modDctx_ne s _ hmod]

theorem pageOnly_refl (s : State) (d : Nat) : pageOnly s s d := ⟨rfl, rfl, rfl, rfl, rfl, fun _ _ _ => rfl⟩

theorem pageOnly_trans {s t u : State} {d : Nat} (h : pageOnly s t d) (h' : pageOnly t u d) : pageOnly s u d := by
  obtain ⟨hm, hc, hr, ht, hg, hd⟩ := h
  obtain ⟨hm', hc', hr', ht', hg', hd'⟩ := h'
  exact ⟨hm'.trans hm, hc'.trans hc, hr'.trans hr, ht'.trans ht, hg'.trans hg, fun e he hne => (hd' e he hne).trans (hd e he hne)⟩

theorem pageOnly_modDctx (s : State) {d : Nat} (f : DCtx → DCtx) (hd : d < 256) : pageOnly s (s.modDctx d f) d :=
  ⟨rfl, rfl, rfl, rfl, rfl, fun _ _ _ => dctxOf_modDctx_ne s f (by omega)⟩

theorem pageOnly_modQueue (s : State) {d : Nat} (q : Nat) (f : Queue → Queue) (hd : d < 256) : pageOnly s (s.modQueue d q f) d :=
  pageOnly_modDctx s _ hd

theorem lt_256_of_contextsOf {s : State} {fn i d : Nat} (h : (s.contextsOf fn)[i]? = some d) : d < 256 := by
  have hmem := List.mem_of_getElem? h
  simp only [State.contextsOf, List.mem_filter, List.mem_range] at hmem
  exact hmem.1

/-! ## The writes of an engine -/

/-- No register of a device context and no thread's context has moved. -/
def ContextsStand (s t : State) : Prop := t.dctxs = s.dctxs ∧ ∀ c, (t.coreAt c).ctxs = (s.coreAt c).ctxs

theorem ContextsStand.refl (s : State) : ContextsStand s s := ⟨rfl, fun _ => rfl⟩

theorem ContextsStand.trans {s t u : State} (h : ContextsStand s t) (h' : ContextsStand t u) : ContextsStand s u :=
  ⟨h'.1.trans h.1, fun c => (h'.2 c).trans (h.2 c)⟩

theorem ContextsStand.ctxAt {s t : State} (h : ContextsStand s t) (c : Fin 192) (x : Fin 4) : t.ctxAt c x = s.ctxAt c x :=
  congrArg (fun v : Vector Ctx 4 => v.get x) (h.2 c)

/-- An update outside the cores and the device contexts. -/
theorem contextsStand_of_eq {s t : State} (hd : t.dctxs = s.dctxs) (hc : t.cores = s.cores) : ContextsStand s t :=
  ⟨hd, fun c => by simp [State.coreAt, hc]⟩

theorem contextsStand_modMem (s : State) (f : MemSys → MemSys) : ContextsStand s (s.modMem f) := contextsStand_of_eq rfl rfl

theorem contextsStand_foldl {α : Type} {f : State → α → State} (h : ∀ s a, ContextsStand s (f s a)) (l : List α) (s : State) :
    ContextsStand s (l.foldl f s) :=
  List.foldlRecOn l f (ContextsStand.refl s) fun _ hb a _ => hb.trans (h _ a)

/-- The same where a count goes along with the state. -/
theorem contextsStand_foldl_snd {α β : Type} {f : β × State → α → β × State} (h : ∀ p a, ContextsStand p.2 (f p a).2)
    (l : List α) (p : β × State) : ContextsStand p.2 (l.foldl f p).2 :=
  List.foldlRecOn (motive := fun q => ContextsStand p.2 q.2) l f (ContextsStand.refl p.2) fun _ hb a _ => hb.trans (h _ a)

theorem contextsStand_modDieCores (s : State) (die : Nat) {f : Core → Core} (h : ∀ k, (f k).ctxs = k.ctxs) :
    ContextsStand s (s.modDieCores die f) := by
  refine ⟨rfl, fun c => ?_⟩
  have hget : (s.modDieCores die f).coreAt c = if c.val / 48 = die then f (s.coreAt c) else s.coreAt c :=
    Vector.getElem_mapIdx c.isLt
  rw [hget]
  split
  · exact h _
  · rfl

theorem contextsStand_report (s : State) (cls src fn die agent step : Nat) :
    ContextsStand s (s.report cls src fn die agent step) := by
  unfold State.report
  dsimp only
  split <;> exact contextsStand_of_eq rfl rfl

theorem contextsStand_countGran (s : State) (g dpa : Nat) : ContextsStand s (s.countGran g dpa) := by
  unfold State.countGran State.reportPf
  split
  · exact .refl s
  · exact .refl s
  · exact (contextsStand_modMem _ _).trans (contextsStand_report ..)
  · exact (contextsStand_modMem _ _).trans (contextsStand_report ..)
  · exact contextsStand_modMem _ _
  · exact contextsStand_modMem _ _

theorem contextsStand_granPartial (s : State) (g dpa : Nat) (et : Bool) (mask : Nat) (data : List Byte) :
    ContextsStand s (s.granPartial g dpa et mask data).2 := by
  unfold State.granPartial
  dsimp only
  split
  · split
    · exact (contextsStand_countGran s g dpa).trans (contextsStand_modMem _ _)
    · exact contextsStand_modMem _ _
  · exact (contextsStand_countGran s g dpa).trans (contextsStand_modMem _ _)

theorem contextsStand_granStore (s : State) (g dpa : Nat) (et : Bool) (data : List Byte) :
    ContextsStand s (s.granStore g dpa et data).2 := by
  unfold State.granStore
  split
  · exact contextsStand_modMem _ _
  · exact contextsStand_granPartial ..

theorem contextsStand_dpaWrite (s : State) (g dpa : Nat) (et : Bool) (data : List Byte) :
    ContextsStand s (s.dpaWrite g dpa et data).2 := by
  refine contextsStand_foldl_snd (fun p c => ?_) _ (0, s)
  exact contextsStand_granStore ..

theorem contextsStand_dropLine (s : State) (die line : Nat) : ContextsStand s (s.dropLine die line) :=
  (contextsStand_modMem _ _).trans (contextsStand_modDieCores _ _ fun _ => rfl)

theorem contextsStand_cohNcWrite (s : State) (line : Nat) : ContextsStand s (s.cohNcWrite line) :=
  ((contextsStand_foldl (fun _ _ => contextsStand_dropLine ..) _ s).trans (contextsStand_modMem _ _)).trans (contextsStand_modMem _ _)

theorem contextsStand_ncEngWrite (s : State) (die line off : Nat) (bs : List Byte) :
    ContextsStand s (s.ncEngWrite die line off bs) := by
  unfold State.ncEngWrite
  refine ContextsStand.trans ?_ (contextsStand_modDieCores _ _ fun _ => rfl)
  split
  · exact contextsStand_modMem _ _
  · exact .refl s

theorem contextsStand_engWrite (s : State) (die : Nat) (segs : List Seg) (bs : List Byte) :
    ContextsStand s (s.engWrite die segs bs).2 := by
  refine contextsStand_foldl_snd (fun p g => ?_) segs (0, s)
  refine ContextsStand.trans (contextsStand_foldl (fun t c => ?_) _ p.2) (contextsStand_dpaWrite ..)
  split
  · exact contextsStand_cohNcWrite ..
  · exact contextsStand_ncEngWrite ..

theorem contextsStand_vaWrite {s : State} {die : Nat} {who : Who} {va : Nat} {bs : List Byte} {r : Nat × State}
    (h : s.vaWrite die who va bs = .ok r) : ContextsStand s r.2 := by
  unfold State.vaWrite at h
  split at h
  · cases h
  · cases h
    exact contextsStand_engWrite ..

/-! ## Event bits for a team (17 R410) -/

theorem contextsStand_mirrorImage (s : State) (grid team off : Nat) (bs : List Byte) :
    ContextsStand s (s.mirrorImage grid team off bs) := by
  unfold State.mirrorImage
  split
  · split
    · exact .refl s
    · split
      · next h => exact contextsStand_vaWrite h
      · exact .refl s
  · exact .refl s

theorem contextsStand_blockWrite (s : State) (r : Rec) (off : Nat) (bs : List Byte) : ContextsStand s (s.blockWrite r off bs) := by
  unfold State.blockWrite
  split
  · exact contextsStand_mirrorImage ..
  · split
    · exact (contextsStand_of_eq rfl rfl : ContextsStand s (s.modTeam ..)).trans (contextsStand_mirrorImage ..)
    · split
      · next h => exact contextsStand_vaWrite h
      · exact .refl s

theorem contextsStand_orEvl (s : State) (r : Rec) (bits : Nat) : ContextsStand s (s.orEvl r bits) := by
  unfold State.orEvl
  split
  · exact .refl s
  · split
    · exact contextsStand_blockWrite ..
    · exact .refl s

/-- A team that waits gets its entry, and nothing else moves. -/
theorem holdFor_eq (s : State) (grid num : Nat) : ∃ ts, s.holdFor grid num = { s with teams := ts } := by
  unfold State.holdFor State.ensureTeam
  split
  · split
    · split
      · exact ⟨_, rfl⟩
      · exact ⟨_, rfl⟩
    · exact ⟨_, rfl⟩
  · exact ⟨_, rfl⟩

/-- What `State.sevTeam` does for one record of the team: the latch of its context, or the saved one. -/
def sevRec (bits : Nat) (s : State) (r : Rec) : State :=
  match r.onCtx with
  | some a => s.modCtxAt (splitAgent a).1 (splitAgent a).2 fun c => { c with evl := c.evl ||| BitVec.ofNat 16 bits }
  | none => (s.modRec r.va r.grid fun r => { r with evl := r.evl ||| bits }).orEvl r bits

/-- The record is on context `x` of core `c`. -/
def onContext (c : Fin 192) (x : Fin 4) (r : Rec) : Bool := r.onCtx.any fun k => splitAgent k == (c, x)

theorem sevRec_dctxs (bits : Nat) (s : State) (r : Rec) : (sevRec bits s r).dctxs = s.dctxs := by
  unfold sevRec
  split
  · rfl
  · exact (contextsStand_orEvl _ r bits).1

theorem sevRec_evl (bits : Nat) (s : State) (r : Rec) (c : Fin 192) (x : Fin 4) :
    ((sevRec bits s r).ctxAt c x).evl =
      if onContext c x r then (s.ctxAt c x).evl ||| BitVec.ofNat 16 bits else (s.ctxAt c x).evl := by
  unfold sevRec onContext
  split
  · next k hk =>
    by_cases hcx : splitAgent k = (c, x)
    · simp [hk, hcx]
    · have hne : c ≠ (splitAgent k).1 ∨ x ≠ (splitAgent k).2 := by
        rw [Prod.ext_iff, not_and_or] at hcx
        exact hcx.imp Ne.symm Ne.symm
      simp [hk, hcx, ctxAt_modCtxAt_ne s _ _ _ _ _ hne]
  · next hk =>
    rw [(contextsStand_orEvl _ r bits).ctxAt c x]
    simp [hk, State.ctxAt, State.coreAt]

theorem foldl_sevRec_dctxs (bits : Nat) (l : List Rec) (s : State) : (l.foldl (sevRec bits) s).dctxs = s.dctxs :=
  List.foldlRecOn (motive := fun t => t.dctxs = s.dctxs) l _ rfl fun t ht r _ => (sevRec_dctxs bits t r).trans ht

/-- Whatever the order of the records and however often one context occurs, its latch takes the bits once. -/
theorem foldl_sevRec_evl (bits : Nat) (l : List Rec) (s : State) (c : Fin 192) (x : Fin 4) :
    ((l.foldl (sevRec bits) s).ctxAt c x).evl =
      if l.any (onContext c x) then (s.ctxAt c x).evl ||| BitVec.ofNat 16 bits else (s.ctxAt c x).evl := by
  induction l generalizing s with
  | nil => rfl
  | cons r l ih =>
    rw [List.foldl_cons, ih, sevRec_evl, List.any_cons]
    cases onContext c x r
    · rfl
    · simp only [if_true, Bool.true_or, BitVec.or_assoc, BitVec.or_self, ite_self]

/-- The records of a team take the bits, in a state that differs from `s` in its teams alone. -/
theorem sevTeam_eq (s : State) (grid team bits : Nat) : ∃ ts, s.sevTeam grid team bits =
    ((s.recs.filter fun r => r.grid == grid && r.team == team).foldl (sevRec bits) { s with teams := ts }).post .waitSatisfied {} := by
  obtain ⟨ts, hts⟩ := holdFor_eq s grid team
  unfold State.sevTeam
  rw [hts]
  exact ⟨_, rfl⟩

theorem sevTeam_dctxs (s : State) (grid team bits : Nat) : (s.sevTeam grid team bits).dctxs = s.dctxs := by
  obtain ⟨ts, hts⟩ := sevTeam_eq s grid team bits
  rw [hts]
  exact foldl_sevRec_dctxs ..

theorem sevTeam_agenda (s : State) (grid team bits : Nat) :
    (Instr.waitSatisfied, ({} : EvArgs)) ∈ (s.sevTeam grid team bits).agenda := by
  obtain ⟨ts, hts⟩ := sevTeam_eq s grid team bits
  simp [hts, State.post]

theorem sevTeam_evl {s : State} {grid team : Nat} (bits : Nat) {r : Rec} {k : Nat} (hr : r ∈ s.recs) (hg : r.grid = grid)
    (ht : r.team = team) (hk : r.onCtx = some k) :
    ((s.sevTeam grid team bits).ctxAt (splitAgent k).1 (splitAgent k).2).evl =
      (s.ctxAt (splitAgent k).1 (splitAgent k).2).evl ||| BitVec.ofNat 16 bits := by
  obtain ⟨ts, hts⟩ := sevTeam_eq s grid team bits
  have hany : (s.recs.filter fun r => r.grid == grid && r.team == team).any
      (onContext (splitAgent k).1 (splitAgent k).2) = true :=
    List.any_eq_true.mpr ⟨r, by simp [hr, hg, ht], by simp [onContext, hk]⟩
  have hevl := foldl_sevRec_evl bits (s.recs.filter fun r => r.grid == grid && r.team == team) { s with teams := ts }
    (splitAgent k).1 (splitAgent k).2
  rw [if_pos hany] at hevl
  rw [hts]
  exact hevl

end Sys2Proof.Proofs
end

section
/-! SUPPORT. The posted writes of the host: windows, the Landing, the notify page (05 R126 to R131). -/

namespace Sys2Proof.Proofs

open Sys2Proof Sys2Proof.Machine Sys2Proof.Claims Sys2Proof.Laws

/-! ## Bytes of numbers -/

theorem bytesOfNat_getElem? {n i : Nat} (x : Nat) (h : i < n) : (bytesOfNat n x)[i]? = some (BitVec.ofNat 8 (x / 2 ^ (8 * i))) := by
  induction n generalizing x i with
  | zero => exact absurd h (Nat.not_lt_zero i)
  | succ n ih =>
    cases i with
    | zero => simp [bytesOfNat]
    | succ i =>
      have hpow : 2 ^ (8 * (i + 1)) = 256 * 2 ^ (8 * i) := by rw [Nat.mul_succ, Nat.pow_add, Nat.mul_comm]
      rw [bytesOfNat, List.getElem?_cons_succ, ih _ (Nat.lt_of_succ_lt_succ h), hpow, Nat.div_div_eq_div_mul]

theorem ofNat_natOfBytes {bs : List Byte} {i : Nat} (h : i < bs.length) :
    BitVec.ofNat 8 (natOfBytes bs / 2 ^ (8 * i)) = bs[i] := by
  induction bs generalizing i with
  | nil => exact absurd h (Nat.not_lt_zero i)
  | cons b bs ih =>
    cases i with
    | zero => exact BitVec.eq_of_toNat_eq (by simp [natOfBytes]; omega)
    | succ i =>
      have hpow : 2 ^ (8 * (i + 1)) = 256 * 2 ^ (8 * i) := by rw [Nat.mul_succ, Nat.pow_add, Nat.mul_comm]
      have hdiv : natOfBytes (b :: bs) / 256 = natOfBytes bs := by
        rw [natOfBytes]
        omega
      rw [hpow, ← Nat.div_div_eq_div_mul, hdiv, ih (Nat.lt_of_succ_lt_succ h), List.getElem_cons_succ]

theorem natOfBytes_lt (bs : List Byte) : natOfBytes bs < 2 ^ (8 * bs.length) := by
  induction bs with
  | nil => exact Nat.one_pos
  | cons b bs ih =>
    have hpow : 2 ^ (8 * (bs.length + 1)) = 256 * 2 ^ (8 * bs.length) := by rw [Nat.mul_succ, Nat.pow_add, Nat.mul_comm]
    rw [natOfBytes, List.length_cons, hpow]
    omega

theorem ofNat_shifted_byte (x : Nat) {o i w : Nat} (h : 8 * (o + i) + 8 ≤ w) :
    BitVec.ofNat 8 (x * 2 ^ (8 * o) % 2 ^ w / 2 ^ (8 * (o + i))) = BitVec.ofNat 8 (x / 2 ^ (8 * i)) := by
  refine BitVec.eq_of_getLsbD_eq fun j hj => ?_
  have hlow : 8 * (o + i) + j < w := by omega
  have hsub : 8 * (o + i) + j - 8 * o = 8 * i + j := by omega
  have hle : 8 * o ≤ 8 * (o + i) + j := by omega
  rw [BitVec.getLsbD_ofNat, BitVec.getLsbD_ofNat, Nat.testBit_div_two_pow, Nat.testBit_div_two_pow, Nat.add_comm j, Nat.add_comm j,
    Nat.testBit_mod_two_pow, Nat.testBit_mul_two_pow, hsub]
  simp only [hlow, hle, decide_true, Bool.true_and]

/-- Bytes put at offset `o` of a block of `n` bytes stand there. -/
theorem bytesOf_natOfBytes_shift {bs : List Byte} {n o i w : Nat} (h : i < bs.length) (ho : o + bs.length ≤ n) (hw : 8 * n ≤ w) :
    (bytesOf n (BitVec.ofNat w (natOfBytes bs * 2 ^ (8 * o))))[o + i]? = bs[i]? := by
  rw [bytesOf, BitVec.toNat_ofNat, bytesOfNat_getElem? _ (by omega), ofNat_shifted_byte _ (by omega), ofNat_natOfBytes h,
    List.getElem?_eq_getElem h]

theorem getLsbD_run {n o i : Nat} (h : i < 64) :
    (BitVec.ofNat 64 ((2 ^ n - 1) * 2 ^ o)).getLsbD i = decide (o ≤ i ∧ i < o + n) := by
  rw [BitVec.getLsbD_ofNat, Nat.testBit_mul_two_pow, Nat.testBit_two_pow_sub_one]
  by_cases ho : o ≤ i
  · have hn : i - o < n ↔ i < o + n := by omega
    simp [h, ho, hn]
  · simp [ho]

/-! ## Posted writes -/

theorem decodes_of_taken {s : State} (h : Taken s) : s.decodes = true := by
  obtain ⟨hb, hf, hd, hl, -⟩ := h
  simp [State.decodes, hb, hf, hd, hl]

theorem posted_undecoded {s : State} (h : s.decodes = false) (event : Instr) (perform : State → State) :
    s.posted event perform = .next s := by simp [State.posted, h]

theorem posted_taken {s : State} (h : Taken s) (event : Instr) (perform : State → State) :
    s.posted event perform = .next (perform s) := by
  obtain ⟨-, -, -, -, hp⟩ := id h
  simp [State.posted, decodes_of_taken h, hp]

theorem exec_hostWindowWrite (s : State) : exec .hostWindowWrite s = s.posted .hostWindowWrite fun s =>
    s.windowWrite .hostWindowWrite s.arg.dctx.val s.arg.win.val s.arg.addr s.arg.bytes := rfl

theorem exec_nwake (s : State) : exec .nwake s = s.posted .nwake fun s => s.writeBar2 s.arg.fn.val s.arg.addr s.arg.bytes := rfl

theorem exec_registerWrite {s : State} (h : s.arg.flag = false) : exec .registerWrite s =
    s.posted .registerWrite fun u => u.writeBar0 s.arg.fn.val s.arg.addr s.arg.value.toNat := by
  show execRegisterWrite s = _
  simp [execRegisterWrite, h]

/-! ## Host windows -/

theorem cutAt_of_fits {b a n : Nat} (hn : 0 < n) (h : a % b + n ≤ b) : cutAt b a n = [(a, 0, n)] := by
  have hmin : min n (b - a % b) = n := by omega
  have hn' : n ≠ 0 := by omega
  simp [cutAt, pieces, hmin, hn']

/-- The entry of a write that lies inside one block. -/
def landingEntry (w : HWin) (off : Nat) (bs : List Byte) (now seq : Nat) : Landing where
  va := w.base.toNat * 4096 + (off - off % 64)
  mask := BitVec.ofNat 64 ((2 ^ bs.length - 1) * 2 ^ (off % 64))
  data := BitVec.ofNat 512 (natOfBytes bs * 2 ^ (8 * (off % 64)))
  at_ := now
  seq := seq
  due := false
  team := if w.queueKind then none else some (w.grid.toNat, w.team.toNat)

/-- The entry joins the Landing. -/
def landed (e : Landing) (x : DCtx) : DCtx := { x with landing := x.landing ++ [e] }

theorem landingEntries_of_fits (w : HWin) {off : Nat} {bs : List Byte} (now seq : Nat) (hne : bs ≠ [])
    (h : off % 64 + bs.length ≤ 64) : landingEntries w off bs now seq = [landingEntry w off bs now seq] := by
  simp [landingEntries, landingEntry, cutAt_of_fits (List.length_pos_iff.mpr hne) h]

section window

variable {s : State} {event : Instr} {d i off : Nat} {bs : List Byte}

theorem windowWrite_invalid (hown : s.ownsAperture d = true) (hne : bs ≠ []) (hlen : bs.length ≤ 512)
    (hend : off + bs.length ≤ 0x20000) (hv : ((s.dctxOf d).win i).valid = false) :
    s.windowWrite event d i off bs = s.dropWrite d := by
  simp [State.windowWrite, hown, hne, hv, Nat.not_lt.mpr hlen, Nat.not_lt.mpr hend]

theorem windowWrite_lands (hown : s.ownsAperture d = true) (hne : bs ≠ []) (hfit : off % 64 + bs.length ≤ 64)
    (hend : off + bs.length ≤ 0x20000) (hroom : (s.dctxOf d).landing.length < 256) (hv : ((s.dctxOf d).win i).valid = true) :
    s.windowWrite event d i off bs =
      (s.fresh.2.modDctx d (landed (landingEntry ((s.dctxOf d).win i) off bs s.now s.nextId))).timer
        landingTicks .landingTimeout { dctx := ⟨d % 256, Nat.mod_lt _ (by decide)⟩ } := by
  have hlen : ¬ 512 < bs.length := by omega
  simp [State.windowWrite, hown, hne, hv, hlen, Nat.not_lt.mpr hend, landingEntries_of_fits _ _ _ hne hfit, Nat.not_le.mpr hroom]
  rfl

end window

/-! ## The Landing -/

/-- A look at the Landing: the entries that have waited 1 ms are due from then on, and are counted. -/
theorem exec_landingTimeout {s : State} (h : s.power.d3hot = false) : ∃ n, exec .landingTimeout s =
    .next (s.modDctx s.arg.dctx.val fun x => { x with
      landing := x.landing.map fun e => if e.due = false ∧ e.at_ + landingTicks ≤ s.now then { e with due := true } else e
      landingLate := satAdd x.landingLate n }) := by
  show ∃ n, execLandingTimeout s = _
  refine ⟨(s.dctxOf s.arg.dctx.val).landing.countP fun e => !e.due && decide (e.at_ + landingTicks ≤ s.now), ?_⟩
  simp only [execLandingTimeout, h, Bool.false_eq_true, if_false, Bool.and_eq_true, Bool.not_eq_true', decide_eq_true_eq]

/-! ## The notify page -/

section notify

variable {s : State} {fn o d : Nat} {bs : List Byte}

theorem writeBar2_noPage (h : (s.contextsOf fn)[o / 0x1000]? = none) : s.writeBar2 fn o bs = s := by
  simp [State.writeBar2, h]

theorem writeBar2_untouched (h : (s.contextsOf fn)[o / 0x1000]? = some d) (hb : bs = [] ∨ 8 ≤ o % 0x1000) :
    s.writeBar2 fn o bs = s := by
  simp [State.writeBar2, h, hb]

theorem writeBar2_touched (h : (s.contextsOf fn)[o / 0x1000]? = some d) (hne : bs ≠ []) (ho : o % 0x1000 < 8) :
    s.writeBar2 fn o bs = s.nwakeWrite d (o % 0x1000 == 0 && bs.length == 8) (natOfBytes bs) := by
  simp [State.writeBar2, h, hne, Nat.not_le.mpr ho]

end notify

theorem bitsN_of_lt {x lo n : Nat} (h : x < 2 ^ (lo + n)) : bitsN x lo n = x / 2 ^ lo := by
  refine Nat.mod_eq_of_lt (Nat.div_lt_of_lt_mul ?_)
  rwa [← Nat.pow_add]

theorem nwakeWrite_wakes {s : State} {v : Nat} {g : Grid} (hv : v < 2 ^ 48) (hg : s.gridOf (v / 2 ^ 40) = some g)
    (hk : g.killed = none) (ht : v / 2 ^ 8 % 2 ^ 32 < g.teams) :
    s.nwakeWrite g.dctx true v = s.sevTeam (v / 2 ^ 40) (v / 2 ^ 8 % 2 ^ 32) (v % 2 ^ 8) := by
  have hhigh : bitsN v 48 16 = 0 := by
    rw [bitsN, Nat.div_eq_of_lt hv, Nat.zero_mod]
  have hgrid : bitsN v 40 8 = v / 2 ^ 40 := bitsN_of_lt hv
  have hteam : bitsN v 8 32 = v / 2 ^ 8 % 2 ^ 32 := rfl
  have hbits : bitsN v 0 8 = v % 2 ^ 8 := by rw [bitsN, Nat.pow_zero, Nat.div_one]
  have hin : decide (g.teams ≤ v / 2 ^ 8 % 2 ^ 32) = false := decide_eq_false (Nat.not_le.mpr ht)
  simp only [State.nwakeWrite, hhigh, hgrid, hteam, hbits, hg, hk, hin]
  simp

theorem nwakeWrite_drops {s : State} {d v : Nat} {aligned : Bool} (hlt : v < 2 ^ 64 ∨ aligned = false)
    (h : aligned = false ∨ 2 ^ 48 ≤ v ∨ s.gridOf (v / 2 ^ 40) = none) : s.nwakeWrite d aligned v = s.nwakeDrop d := by
  unfold State.nwakeWrite
  by_cases hbad : aligned = false ∨ bitsN v 48 16 ≠ 0
  · rw [if_pos (by simpa using hbad)]
  · rw [not_or, Bool.not_eq_false, not_not] at hbad
    obtain ⟨hal, hhigh⟩ := hbad
    have hv64 : v < 2 ^ 64 := hlt.resolve_right (by simp [hal])
    have hv : v < 2 ^ 48 := by
      rw [bitsN_of_lt hv64] at hhigh
      exact (Nat.div_eq_zero_iff_lt (by decide)).mp hhigh
    have hnone : s.gridOf (bitsN v 40 8) = none := by
      rw [bitsN_of_lt hv]
      exact (h.resolve_left (by simp [hal])).resolve_left (Nat.not_le.mpr hv)
    simp [hal, hhigh, hnone]

end Sys2Proof.Proofs
end

section
/-! SUPPORT. Register writes, TLB and ATS invalidations, and the words that the host reads (01 R27; 04 R87, R92; 05 R109, R132, R133,
R138; 09 R237). -/

namespace Sys2Proof.Proofs

open Sys2Proof Sys2Proof.Machine Sys2Proof.Claims Sys2Proof.Laws

/-! ## Views -/

theorem writeBar0_global (s : State) {o : Nat} (v : Nat) (h : o < 0x100000) : s.writeBar0 0 o v = s.writeGlobal o v := by
  simp [State.writeBar0, h]

theorem writeBar0_page (s : State) {d o : Nat} (v : Nat) (hd : d < 256) (ho : o < 0x1000) :
    s.writeBar0 0 (0x100000 + 0x1000 * d + o) v = s.writePage d o v true := by
  have hin : ¬ 0x100000 + 0x1000 * d + o < 0x100000 := by omega
  have hend : 0x100000 + 0x1000 * d + o < 0x200000 := by omega
  have hpage : (0x100000 + 0x1000 * d + o - 0x100000) / 0x1000 = d := by omega
  have hoff : (0x100000 + 0x1000 * d + o) % 0x1000 = o := by omega
  simp only [State.writeBar0, if_true, if_neg hin, if_pos hend, hpage, hoff]

theorem writeGlobal_governor (s : State) (e : Fin 4) (v : Nat) : s.writeGlobal (0x100 + 8 * e.val) v = s.writeCap e v := by
  fin_cases e <;> rfl

theorem writeGlobal_balance (s : State) (v : Nat) : s.writeGlobal 0x60 v =
    { s with regs := { s.regs with balEn := bitN v 8, balTh := BitVec.ofNat 8 (bitsN v 0 8) } } := rfl

theorem writeGlobal_tlbi (s : State) (v : Nat) : s.writeGlobal 0x68 v = s.writeTlbi v := rfl

theorem writeGlobal_swapth (s : State) (v : Nat) : s.writeGlobal 0x70 v =
    { s with regs := { s.regs with swapth := min 65 (bitsN v 0 7) } } := rfl

theorem bitsN_zero (v n : Nat) : bitsN v 0 n = v % 2 ^ n := by rw [bitsN, Nat.pow_zero, Nat.div_one]

theorem bitN_zero (v : Nat) : bitN v 0 = decide (v % 2 = 1) := by
  rw [bitN, bitsN_zero, Nat.pow_one]
  rfl

/-- A write of GO while no invalidation is under way starts one. -/
theorem writeTlbi_go {s : State} {v : Nat} (hv : v % 2 = 1) (hb : s.regs.tlbiBusy = false) : s.writeTlbi v =
    ({ s with regs := { s.regs with
        tlbiVa := BitVec.ofNat 44 (bitsN v 12 44), tlbiDctx := BitVec.ofNat 8 (bitsN v 4 8), tlbiAll := bitN v 2
        tlbiBusy := true } } : State).post .tlbiGo {} := by
  simp [State.writeTlbi, bitN_zero, hv, hb]

theorem writeCap_cap (s : State) (e : Fin 4) (v : Nat) :
    ((s.writeCap e v).dieAt e).cap.toNat = max 200 (min 550 (v / 2 ^ 16 % 1024)) := by
  have hlt : max 200 (min 550 (bitsN v 16 10)) < 2 ^ 10 := by omega
  rw [State.writeCap, dieAt_modDie_self, BitVec.toNat_ofNat, Nat.mod_eq_of_lt hlt]
  rfl

theorem writeCap_limit (s : State) (e : Fin 4) (v : Nat) : ((s.writeCap e v).dieAt e).limit = (s.dieAt e).limit := by
  rw [State.writeCap, dieAt_modDie_self]

theorem exec_registerWrite_mailbox {s : State} (h : s.arg.flag = true) :
    exec .registerWrite s = .next (s.writeMailbox s.arg.addr s.arg.value.toNat) := by
  show execRegisterWrite s = _
  simp [execRegisterWrite, h]

theorem writeMailbox_arg {s : State} (h : 3 ≤ s.power.bringup) (v : Nat) :
    s.writeMailbox 0x014 v = s.modSec fun q => { q with mbArg := BitVec.ofNat 32 v } := by
  simp [State.writeMailbox, State.mailboxUp, h]

/-! ## QCTL (05 R109, R110) -/

/-- Another enabled queue names the hardware queue. -/
theorem hwqTaken_iff (s : State) (d q h : Nat) : s.hwqTaken d q h = true ↔
    ∃ e < 256, ∃ k < 16, (e, k) ≠ (d, q) ∧ (s.queueOf e k).en = true ∧ (s.queueOf e k).hwq.toNat = h := by
  simp only [State.hwqTaken, State.queuesOf, List.any_eq_true, List.mem_flatMap, List.mem_map, List.mem_filter, List.mem_range,
    Bool.and_eq_true, Bool.or_eq_true, bne_iff_ne, beq_iff_eq]
  constructor
  · rintro ⟨_, ⟨e, he, k, ⟨hk, -, hh⟩, rfl⟩, hne, hen⟩
    exact ⟨e, he, k, hk, hne, hen, hh⟩
  · rintro ⟨e, he, k, hk, hne, hen, hh⟩
    exact ⟨(e, k), ⟨e, he, k, ⟨hk, .inl hen, hh⟩, rfl⟩, hne, hen⟩

theorem hwqTaken_modQueue (s : State) {d : Nat} (q : Nat) (f : Queue → Queue) (h : Nat) (hd : d < 256) :
    (s.modQueue d q f).hwqTaken d q h = s.hwqTaken d q h := by
  rw [Bool.eq_iff_iff, hwqTaken_iff, hwqTaken_iff]
  refine exists_congr fun e => and_congr_right fun he => exists_congr fun k => and_congr_right fun _ => and_congr_right fun hne => ?_
  rw [queueOf_modQueue_ne s f hd he hne]

theorem enableQueue_refused {s : State} {d q : Nat}
    (h : (s.queueOf d q).en = true ∨ s.hwqTaken d q (s.queueOf d q).hwq.toNat = true) : s.enableQueue d q = s := by
  simp only [State.enableQueue, Bool.or_eq_true, if_pos h]

theorem enableQueue_enables {s : State} {d q : Nat} (hen : (s.queueOf d q).en = false)
    (ht : s.hwqTaken d q (s.queueOf d q).hwq.toNat = false) : s.enableQueue d q =
      s.modQueue d q fun x => { x with en := true, disabling := false, st := if x.st == .idle then .active else x.st } := by
  simp only [State.enableQueue, hen, ht, Bool.or_self, Bool.false_eq_true, if_false]

theorem pageOnly_enableQueue (s : State) {d : Nat} (q : Nat) (hd : d < 256) : pageOnly s (s.enableQueue d q) d := by
  unfold State.enableQueue
  dsimp only
  split
  · exact pageOnly_refl s d
  · exact pageOnly_modQueue s q _ hd

theorem enableQueue_queueOf (s : State) (d : Nat) {q : Nat} (hq : q < 16) : ∃ st dis, (s.enableQueue d q).queueOf d q =
    { s.queueOf d q with
      en := (s.queueOf d q).en || !s.hwqTaken d q (s.queueOf d q).hwq.toNat, st := st, disabling := dis } := by
  cases hen : (s.queueOf d q).en
  · cases ht : s.hwqTaken d q (s.queueOf d q).hwq.toNat
    · rw [enableQueue_enables hen ht, queueOf_modQueue_self s d _ hq]
      exact ⟨_, _, rfl⟩
    · rw [enableQueue_refused (.inr ht)]
      exact ⟨(s.queueOf d q).st, (s.queueOf d q).disabling, by rw [Bool.not_true, Bool.or_false, ← hen]⟩
  · rw [enableQueue_refused (.inl hen)]
    exact ⟨(s.queueOf d q).st, (s.queueOf d q).disabling, by rw [Bool.true_or, ← hen]⟩

theorem disableQueue_queueOf (s : State) (d : Nat) {q : Nat} (hq : q < 16) : (s.disableQueue d q).queueOf d q =
    { s.queueOf d q with en := false, disabling := (s.queueOf d q).disabling || (s.queueOf d q).en } :=
  queueOf_modQueue_self s d _ hq

theorem resetQueue_queueOf (s : State) (d : Nat) {q : Nat} (hq : q < 16) : (s.resetQueue d q).queueOf d q =
    { s.queueOf d q with rst := (s.queueOf d q).rst || (s.queueOf d q).st != .idle } :=
  queueOf_modQueue_self s d _ hq

/-- The fields that a write of `v` to QCTL gives a queue before EN and RST take effect. -/
def qctlFields (v : Nat) (priv : Bool) (x : Queue) : Queue := { x with
  qv := BitVec.ofNat 4 (bitsN v 8 4)
  logn := if x.en then x.logn else max 6 (min 16 (bitsN v 16 5))
  hwq := if x.en || !priv then x.hwq else BitVec.ofNat 6 (bitsN v 24 6) }

/-- EN of a write of `v` to QCTL takes effect. -/
def qctlEnable (s : State) (d q v : Nat) : State := if bitN v 0 then s.enableQueue d q else s.disableQueue d q

theorem writeQctl_eq (s : State) (d q v : Nat) (priv : Bool) : s.writeQctl d q v priv =
    (let u := qctlEnable (s.modQueue d q (qctlFields v priv)) d q v
     if bitN v 2 then u.resetQueue d q else u) := rfl

theorem pageOnly_writeQctl (s : State) {d : Nat} (q v : Nat) (priv : Bool) (hd : d < 256) : pageOnly s (s.writeQctl d q v priv) d := by
  have hen : pageOnly s (qctlEnable (s.modQueue d q (qctlFields v priv)) d q v) d := by
    refine pageOnly_trans (pageOnly_modQueue s q (qctlFields v priv) hd) ?_
    unfold qctlEnable
    split
    · exact pageOnly_enableQueue _ q hd
    · exact pageOnly_modQueue _ q _ hd
  rw [writeQctl_eq]
  dsimp only
  split
  · exact pageOnly_trans hen (pageOnly_modQueue _ q _ hd)
  · exact hen

theorem qctlEnable_queueOf (s : State) (d : Nat) {q : Nat} (v : Nat) (hq : q < 16) : ∃ st dis, (qctlEnable s d q v).queueOf d q =
    { s.queueOf d q with
      en := bitN v 0 && ((s.queueOf d q).en || !s.hwqTaken d q (s.queueOf d q).hwq.toNat), st := st, disabling := dis } := by
  unfold qctlEnable
  cases bitN v 0
  · rw [if_neg Bool.false_ne_true, disableQueue_queueOf s d hq]
    exact ⟨_, _, rfl⟩
  · rw [if_pos rfl]
    exact enableQueue_queueOf s d hq

/-- What a write to QCTL leaves of its queue, but for RST and the state of the queue. -/
theorem writeQctl_queueOf (s : State) {d q : Nat} (v : Nat) (priv : Bool) (hd : d < 256) (hq : q < 16) :
    let x := qctlFields v priv (s.queueOf d q)
    ∃ st dis rst, (s.writeQctl d q v priv).queueOf d q =
      { x with en := bitN v 0 && (x.en || !s.hwqTaken d q x.hwq.toNat), st := st, disabling := dis, rst := rst } := by
  obtain ⟨st, dis, hu⟩ := qctlEnable_queueOf (s.modQueue d q (qctlFields v priv)) d v hq
  rw [queueOf_modQueue_self s d _ hq, hwqTaken_modQueue s q _ _ hd] at hu
  rw [writeQctl_eq]
  dsimp only
  split
  · rw [resetQueue_queueOf _ d hq, hu]
    exact ⟨st, dis, _, rfl⟩
  · exact ⟨st, dis, (s.queueOf d q).rst, hu⟩

theorem writePage_qctl (s : State) (d : Nat) {k : Nat} (v : Nat) (priv : Bool) (hk : k < 16) :
    s.writePage d (0x80 + 8 * k) v priv = s.writeQctl d k v priv := by
  have halign : (0x80 + 8 * k) % 8 = 0 := by omega
  have hlow : ¬ 0x80 + 8 * k < 0x80 := by omega
  have hhigh : 0x80 + 8 * k < 0x100 := by omega
  have hidx : (0x80 + 8 * k - 0x80) / 8 = k := by omega
  simp only [State.writePage, halign, hlow, hhigh, hidx, ne_eq, not_true, if_true, if_false]

/-! ## TLB invalidation (09 R237) -/

/-- An invalidation starts: the L1 lines go, and what stands in the engines' queues was translated before it. -/
def tlbiStart (s : State) : State :=
  { s with cores := s.cores.map fun (c : Core) => { c with l1 := [], engine := { c.engine with stale := c.engine.queue.length } } }

/-- A command that was translated before the invalidation has not performed. -/
def tlbiStale (s : State) : Bool := s.cores.toList.any fun (c : Core) => decide (0 < c.engine.stale)

/-- The invalidation ends, or is looked at again. -/
def tlbiFinish (s : State) : State :=
  if tlbiStale s then s.timer 2 .tlbiGo { flag := true } else { s with regs := { s.regs with tlbiBusy := false } }

theorem exec_tlbiGo (s : State) : exec .tlbiGo s = .next (tlbiFinish (if s.arg.flag then s else tlbiStart s)) := rfl

theorem tlbiStart_coreAt (s : State) (c : Fin 192) : (tlbiStart s).coreAt c =
    { s.coreAt c with l1 := [], engine := { (s.coreAt c).engine with stale := (s.coreAt c).engine.queue.length } } :=
  Vector.getElem_map _ c.isLt

theorem tlbiStale_iff (s : State) : tlbiStale s = true ↔ ∃ c, 0 < (s.coreAt c).engine.stale := by
  simp only [tlbiStale, List.any_eq_true, Vector.mem_toList_iff, Vector.mem_iff_getElem, decide_eq_true_eq]
  constructor
  · rintro ⟨_, ⟨i, hi, rfl⟩, h⟩
    exact ⟨⟨i, hi⟩, h⟩
  · rintro ⟨c, h⟩
    exact ⟨s.coreAt c, ⟨c.val, c.isLt, rfl⟩, h⟩

theorem tlbiStale_start_iff (s : State) : tlbiStale (tlbiStart s) = true ↔ ∃ c, (s.coreAt c).engine.queue ≠ [] := by
  simp only [tlbiStale_iff, tlbiStart_coreAt, List.length_pos_iff]

theorem tlbiFinish_frame (s : State) : (tlbiFinish s).mem = s.mem ∧ (tlbiFinish s).recs = s.recs ∧ (tlbiFinish s).cores = s.cores := by
  unfold tlbiFinish
  split <;> exact ⟨rfl, rfl, rfl⟩

theorem tlbiFinish_idle {s : State} (h : tlbiStale s = false) : (tlbiFinish s).regs.tlbiBusy = false := by simp [tlbiFinish, h]

theorem tlbiFinish_waits {s : State} (h : tlbiStale s = true) : tlbiFinish s = s.timer 2 .tlbiGo { flag := true } := by
  simp [tlbiFinish, h]

/-! ## ATS invalidation (04 R87) -/

theorem atsKeep_eq (s : State) (pasid page : Nat) (users : List Nat) : ∃ ds, s.atsKeep pasid page users = { s with dies := ds } := by
  unfold State.atsKeep
  dsimp only
  split <;> exact ⟨_, rfl⟩

theorem exec_atsInvalidation_done {s : State} (h : s.arg.flag = false) (hu : s.atsUsers s.arg.num s.arg.addr = []) :
    ∃ ds, exec .atsInvalidation s = .next { s with
      dies := ds
      atsGrants := s.atsGrants.filter fun g => !(g.1 == s.arg.num && g.2.1 == s.arg.addr)
      errs := { s.errs with sent := s.errs.sent ++ [.atsDone s.arg.num s.arg.addr] } } := by
  obtain ⟨ds, hds⟩ := atsKeep_eq s s.arg.num s.arg.addr []
  show ∃ ds, execAtsInvalidation s = _
  simp only [execAtsInvalidation, h, hu, hds, Bool.false_eq_true, if_false, List.isEmpty_nil, if_true]
  exact ⟨_, rfl⟩

theorem exec_atsInvalidation_waits {s : State} (h : s.arg.flag = false) (hu : s.atsUsers s.arg.num s.arg.addr ≠ []) :
    ∃ ds, exec .atsInvalidation s = .next ({ s with
      dies := ds
      atsGrants := s.atsGrants.filter fun g => !(g.1 == s.arg.num && g.2.1 == s.arg.addr) }.timer 192 .atsInvalidation
        { num := s.arg.num, addr := s.arg.addr, flag := true }) := by
  obtain ⟨ds, hds⟩ := atsKeep_eq s s.arg.num s.arg.addr (s.atsUsers s.arg.num s.arg.addr)
  show ∃ ds, execAtsInvalidation s = _
  simp only [execAtsInvalidation, h, hds, Bool.false_eq_true, if_false, List.isEmpty_iff, hu]
  exact ⟨ds, rfl⟩

/-! ## The fields of a word -/

theorem ofNat_extractLsb' {n : Nat} (word lo : Nat) (x : BitVec n) (hlo : lo + n ≤ 64) (h : word / 2 ^ lo % 2 ^ n = x.toNat) :
    (BitVec.ofNat 64 word).extractLsb' lo n = x := by
  refine BitVec.eq_of_getLsbD_eq fun i hi => ?_
  have hin : lo + i < 64 := by omega
  rw [BitVec.getLsbD_extractLsb', BitVec.getLsbD_ofNat, BitVec.getLsbD, ← h, Nat.testBit_mod_two_pow,
    Nat.testBit_div_two_pow, Nat.add_comm i]
  simp only [hin, decide_true, Bool.true_and]

theorem ofNat_getLsbD_b2n (word i : Nat) (b : Bool) (hi : i < 64) (h : word / 2 ^ i % 2 = b2n b) :
    (BitVec.ofNat 64 word).getLsbD i = b := by
  rw [BitVec.getLsbD_ofNat, Nat.testBit_eq_decide_div_mod_eq, h]
  cases b <;> simp [hi, b2n]

theorem b2n_le_one (b : Bool) : b2n b ≤ 1 := by cases b <;> decide

end Sys2Proof.Proofs
end

section
/-! PROOFS. The host port (O42): the writes of the host and what comes of them, and what the host reads. -/

namespace Sys2Proof.Proofs

open Sys2Proof Sys2Proof.Machine Sys2Proof.Claims Sys2Proof.Laws

/-! ## Windows and the Landing (05 R126, R127) -/

section window

variable {s : State} (ht : Taken s) (hown : s.ownsAperture s.arg.dctx.val = true) (hne : s.arg.bytes ≠ [])
  (hfit : s.arg.addr % 64 + s.arg.bytes.length ≤ 64) (hend : s.arg.addr + s.arg.bytes.length ≤ 0x20000)

include ht hown hne hfit hend

theorem hostWindowWrite_lands (hroom : (s.dctxOf s.arg.dctx.val).landing.length < 256)
    (hv : ((s.dctxOf s.arg.dctx.val).win s.arg.win.val).valid = true) :
    let a := s.arg
    let d := a.dctx.val
    let w := (s.dctxOf d).win a.win.val
    ∃ t e, exec .hostWindowWrite s = .next t ∧ pageOnly s t d ∧ (t.dctxOf d).landing = (s.dctxOf d).landing ++ [e] ∧
      e.va = w.base.toNat * 4096 + a.addr / 64 * 64 ∧ e.at_ = s.now ∧ e.due = false ∧
      (∀ i < 64, e.mask.getLsbD i = decide (a.addr % 64 ≤ i ∧ i < a.addr % 64 + a.bytes.length)) ∧
      (∀ i < a.bytes.length, (bytesOf 64 e.data)[a.addr % 64 + i]? = a.bytes[i]?) ∧
      e.team = (if w.queueKind then none else some (w.grid.toNat, w.team.toNat)) ∧
      (s.now + landingTicks, Instr.landingTimeout, ({ dctx := a.dctx } : EvArgs)) ∈ t.timers := by
  intro a d w
  have hexec : exec .hostWindowWrite s = .next (s.windowWrite .hostWindowWrite d a.win.val a.addr a.bytes) := by
    rw [exec_hostWindowWrite, posted_taken ht]
  have hblock : a.addr - a.addr % 64 = a.addr / 64 * 64 := by omega
  have hdctx : (⟨d % 256, Nat.mod_lt d (by decide)⟩ : Fin 256) = a.dctx := Fin.ext (Nat.mod_eq_of_lt a.dctx.isLt)
  rw [windowWrite_lands hown hne hfit hend hroom hv, hdctx] at hexec
  let e := landingEntry w a.addr a.bytes s.now s.nextId
  refine ⟨_, e, hexec, pageOnly_modDctx s.fresh.2 (landed e) a.dctx.isLt, ?_, ?_, rfl, rfl,
    fun i hi => getLsbD_run hi, fun i hi => bytesOf_natOfBytes_shift hi hfit (by decide), rfl, by simp [State.fresh]⟩
  · exact congrArg DCtx.landing (dctxOf_modDctx_self s.fresh.2 d (landed e))
  · exact congrArg (w.base.toNat * 4096 + ·) hblock

theorem hostWindowWrite_drops (hv : ((s.dctxOf s.arg.dctx.val).win s.arg.win.val).valid = false) :
    let d := s.arg.dctx.val
    ∃ t, exec .hostWindowWrite s = .next t ∧ pageOnly s t d ∧ (t.dctxOf d).hwDrop = satAdd (s.dctxOf d).hwDrop 1 ∧
      (t.dctxOf d).landing = (s.dctxOf d).landing := by
  intro d
  have hexec : exec .hostWindowWrite s = .next (s.dropWrite d) := by
    rw [exec_hostWindowWrite, posted_taken ht, windowWrite_invalid hown hne (by omega) hend hv]
  exact ⟨_, hexec, pageOnly_modDctx s _ s.arg.dctx.isLt, by simp [State.dropWrite], by simp [State.dropWrite]⟩

end window

theorem landingTimeout_marksDue {s : State} (h : s.power.d3hot = false) : let d := s.arg.dctx.val
    ∃ t, exec .landingTimeout s = .next t ∧ pageOnly s t d ∧ (t.dctxOf d).landing = (s.dctxOf d).landing.map fun e =>
      if e.due = false ∧ e.at_ + landingTicks ≤ s.now then { e with due := true } else e := by
  obtain ⟨n, hexec⟩ := exec_landingTimeout h
  exact ⟨_, hexec, pageOnly_modDctx s _ s.arg.dctx.isLt, congrArg DCtx.landing (dctxOf_modDctx_self s _ _)⟩

/-! ## The notify page (05 R130, R131) -/

section notify

variable {s : State} {e : Nat} (ht : Taken s) (he : (s.contextsOf s.arg.fn.val)[s.arg.addr / 0x1000]? = some e)

include ht he

theorem nwake_ignored (h : s.arg.bytes = [] ∨ 8 ≤ s.arg.addr % 0x1000) : exec .nwake s = .next s := by
  rw [exec_nwake, posted_taken ht, writeBar2_untouched he h]

theorem nwake_wakes {g : Grid} (ha : s.arg.addr % 0x1000 = 0) (hlen : s.arg.bytes.length = 8) (hy : natOfBytes s.arg.bytes < 2 ^ 48)
    (hg : s.gridOf (natOfBytes s.arg.bytes / 2 ^ 40) = some g) (hk : g.killed = none) (hd : g.dctx = e)
    (hteam : natOfBytes s.arg.bytes / 2 ^ 8 % 2 ^ 32 < g.teams) :
    let y := natOfBytes s.arg.bytes
    ∃ t, exec .nwake s = .next t ∧ t.dctxs = s.dctxs ∧ (Instr.waitSatisfied, ({} : EvArgs)) ∈ t.agenda ∧
      ∀ q ∈ s.recs, q.grid = y / 2 ^ 40 → q.team = y / 2 ^ 8 % 2 ^ 32 → ∀ k, q.onCtx = some k →
        (t.ctxAt (splitAgent k).1 (splitAgent k).2).evl =
          (s.ctxAt (splitAgent k).1 (splitAgent k).2).evl ||| BitVec.ofNat 16 (y % 2 ^ 8) := by
  intro y
  subst hd
  have hne : s.arg.bytes ≠ [] := List.ne_nil_of_length_pos (by omega)
  have halign : (s.arg.addr % 0x1000 == 0 && s.arg.bytes.length == 8) = true := by simp [ha, hlen]
  have hexec : exec .nwake s = .next (s.sevTeam (y / 2 ^ 40) (y / 2 ^ 8 % 2 ^ 32) (y % 2 ^ 8)) := by
    rw [exec_nwake, posted_taken ht, writeBar2_touched he hne (by omega), halign, nwakeWrite_wakes hy hg hk hteam]
  exact ⟨_, hexec, sevTeam_dctxs .., sevTeam_agenda .., fun q hq hqg hqt k hqk => sevTeam_evl _ hq hqg hqt hqk⟩

theorem nwake_drops (ha : s.arg.addr % 0x1000 < 8) (hne : s.arg.bytes ≠ [])
    (h : s.arg.addr % 0x1000 ≠ 0 ∨ s.arg.bytes.length ≠ 8 ∨ 2 ^ 48 ≤ natOfBytes s.arg.bytes ∨
      s.gridOf (natOfBytes s.arg.bytes / 2 ^ 40) = none) :
    ∃ t, exec .nwake s = .next t ∧ pageOnly s t e ∧ (t.dctxOf e).notifyDrop = satAdd (s.dctxOf e).notifyDrop 1 := by
  have hlt : natOfBytes s.arg.bytes < 2 ^ 64 ∨ (s.arg.addr % 0x1000 == 0 && s.arg.bytes.length == 8) = false := by
    by_cases hlen : s.arg.bytes.length = 8
    · exact .inl (by simpa [hlen] using natOfBytes_lt s.arg.bytes)
    · exact .inr (by simp [hlen])
  have hbad : (s.arg.addr % 0x1000 == 0 && s.arg.bytes.length == 8) = false ∨ 2 ^ 48 ≤ natOfBytes s.arg.bytes ∨
      s.gridOf (natOfBytes s.arg.bytes / 2 ^ 40) = none := by
    rcases h with h | h | h
    · exact .inl (by simp [h])
    · exact .inl (by simp [h])
    · exact .inr h
  have hexec : exec .nwake s = .next (s.nwakeDrop e) := by
    rw [exec_nwake, posted_taken ht, writeBar2_touched he hne ha, nwakeWrite_drops hlt hbad]
  exact ⟨_, hexec, pageOnly_modDctx s _ (lt_256_of_contextsOf he), by simp [State.nwakeDrop]⟩

end notify

/-! ## Register writes (01 R27; 05 R109, R133; 09 R237) -/

section register

variable {s : State} (ht : Taken s) (hflag : s.arg.flag = false) (hfn : s.arg.fn = 0)

include ht hflag hfn

theorem registerWrite_taken : exec .registerWrite s = .next (s.writeBar0 0 s.arg.addr s.arg.value.toNat) := by
  rw [exec_registerWrite hflag, posted_taken ht, hfn]
  rfl

theorem registerWrite_governor {e : Fin 4} (ha : s.arg.addr = 0x100 + 8 * e.val) :
    ∃ t, exec .registerWrite s = .next t ∧ workStands s t ∧
      (t.dieAt e).cap.toNat = max 200 (min 550 (s.arg.value.toNat / 2 ^ 16 % 1024)) ∧ (t.dieAt e).limit = (s.dieAt e).limit := by
  have hexec := registerWrite_taken ht hflag hfn
  rw [ha, writeBar0_global s _ (by omega), writeGlobal_governor] at hexec
  exact ⟨_, hexec, ⟨rfl, rfl, rfl, rfl, rfl, rfl, rfl, rfl, rfl⟩, writeCap_cap s e _, writeCap_limit s e _⟩

theorem registerWrite_balance (ha : s.arg.addr = 0x60) : ∃ t, exec .registerWrite s = .next t ∧ workStands s t ∧
    t.regs.balEn = bitN s.arg.value.toNat 8 ∧ t.regs.balTh.toNat = s.arg.value.toNat % 256 := by
  have hexec := registerWrite_taken ht hflag hfn
  rw [ha, writeBar0_global s _ (by decide), writeGlobal_balance] at hexec
  exact ⟨_, hexec, ⟨rfl, rfl, rfl, rfl, rfl, rfl, rfl, rfl, rfl⟩, rfl, by simp [bitsN_zero]⟩

theorem registerWrite_tlbi (ha : s.arg.addr = 0x68) (hv : s.arg.value.toNat % 2 = 1) (hb : s.regs.tlbiBusy = false) :
    ∃ t, exec .registerWrite s = .next t ∧ workStands s t ∧ t.regs.tlbiBusy = true ∧
      t.agenda = s.agenda ++ [(.tlbiGo, ({} : EvArgs))] := by
  have hexec := registerWrite_taken ht hflag hfn
  rw [ha, writeBar0_global s _ (by decide), writeGlobal_tlbi, writeTlbi_go hv hb] at hexec
  exact ⟨_, hexec, ⟨rfl, rfl, rfl, rfl, rfl, rfl, rfl, rfl, rfl⟩, rfl, rfl⟩

theorem registerWrite_swapth (ha : s.arg.addr = 0x70) : ∃ t, exec .registerWrite s = .next t ∧ workStands s t ∧
    t.regs.swapth = min 65 (s.arg.value.toNat % 128) := by
  have hexec := registerWrite_taken ht hflag hfn
  rw [ha, writeBar0_global s _ (by decide), writeGlobal_swapth, bitsN_zero] at hexec
  exact ⟨_, hexec, ⟨rfl, rfl, rfl, rfl, rfl, rfl, rfl, rfl, rfl⟩, rfl⟩

theorem registerWrite_qctl {e k : Nat} (he : e < 256) (hk : k < 16) (ha : s.arg.addr = 0x100000 + 0x1000 * e + 0x80 + 8 * k) :
    let v := s.arg.value.toNat
    ∃ t, exec .registerWrite s = .next t ∧ pageOnly s t e ∧
      (t.queueOf e k).qv.toNat = v / 2 ^ 8 % 16 ∧ (t.queueOf e k).rdix = (s.queueOf e k).rdix ∧
      ((s.queueOf e k).en = true → (t.queueOf e k).hwq = (s.queueOf e k).hwq ∧ (t.queueOf e k).logn = (s.queueOf e k).logn ∧
        (t.queueOf e k).en = decide (v % 2 = 1)) ∧
      (v % 2 = 0 → (t.queueOf e k).en = false) ∧
      (v % 2 = 1 → (s.queueOf e k).en = false → s.hwqTaken e k (v / 2 ^ 24 % 64) = false → (t.queueOf e k).en = true ∧
        (t.queueOf e k).hwq.toNat = v / 2 ^ 24 % 64 ∧ (t.queueOf e k).logn = max 6 (min 16 (v / 2 ^ 16 % 32))) := by
  intro v
  have hexec := registerWrite_taken ht hflag hfn
  rw [ha, Nat.add_assoc, writeBar0_page s _ he (by omega), writePage_qctl s e _ true hk] at hexec
  obtain ⟨st, dis, rst, hq⟩ := writeQctl_queueOf s v true he hk
  refine ⟨_, hexec, pageOnly_writeQctl s k v true he, ?_⟩
  rw [hq]
  refine ⟨?_, rfl, fun hen => ?_, fun hv => ?_, fun hv hen htaken => ?_⟩
  · simp [qctlFields, bitsN]
  · simp [qctlFields, hen, bitN_zero]
  · simp [bitN_zero, hv]
  · have hhwq : (qctlFields v true (s.queueOf e k)).hwq.toNat = v / 2 ^ 24 % 64 := by simp [qctlFields, hen, bitsN]
    refine ⟨?_, hhwq, ?_⟩
    · simp only [hhwq, htaken, bitN_zero, hv, decide_true, Bool.not_false, Bool.or_true, Bool.and_self]
    · simp [qctlFields, hen, bitsN]

end register

theorem registerWrite_mailboxArg {s : State} (hflag : s.arg.flag = true) (hb : 3 ≤ s.power.bringup) (ha : s.arg.addr = 0x014) :
    ∃ t, exec .registerWrite s = .next t ∧ workStands s t ∧ t.sec.mbArg.toNat = s.arg.value.toNat % 2 ^ 32 := by
  have hexec := exec_registerWrite_mailbox hflag
  rw [ha, writeMailbox_arg hb] at hexec
  exact ⟨_, hexec, ⟨rfl, rfl, rfl, rfl, rfl, rfl, rfl, rfl, rfl⟩, by simp [State.modSec]⟩

/-! ## Invalidations and link training (04 R85, R87; 09 R237) -/

theorem tlbiGo_effect (s : State) : ∃ t, exec .tlbiGo s = .next t ∧ t.mem = s.mem ∧ t.recs = s.recs ∧
    (∀ c, (t.coreAt c).ctxs = (s.coreAt c).ctxs) ∧
    (s.arg.flag = false → ∀ c, (t.coreAt c).l1 = []) ∧
    (s.arg.flag = false → (∀ c, (s.coreAt c).engine.queue = []) → t.regs.tlbiBusy = false) ∧
    (s.arg.flag = true → (∀ c, (s.coreAt c).engine.stale = 0) → t.regs.tlbiBusy = false) ∧
    (∀ c, s.arg.flag = false → (s.coreAt c).engine.queue ≠ [] → t.regs.tlbiBusy = s.regs.tlbiBusy ∧
      (s.now + 2, Instr.tlbiGo, ({ flag := true } : EvArgs)) ∈ t.timers) := by
  have hexec := exec_tlbiGo s
  cases hflag : s.arg.flag with
  | true =>
    rw [hflag, if_pos rfl] at hexec
    obtain ⟨hm, hr, hc⟩ := tlbiFinish_frame s
    refine ⟨_, hexec, hm, hr, fun c => congrArg (fun v => (v.get c).ctxs) hc, by simp, by simp, fun _ hstale => tlbiFinish_idle ?_,
      by simp⟩
    rw [← Bool.not_eq_true, tlbiStale_iff]
    simp [hstale]
  | false =>
    rw [hflag, if_neg Bool.false_ne_true] at hexec
    obtain ⟨hm, hr, hc⟩ := tlbiFinish_frame (tlbiStart s)
    have hcore (c : Fin 192) : (tlbiFinish (tlbiStart s)).coreAt c = (tlbiStart s).coreAt c := congrArg (fun v => v.get c) hc
    refine ⟨_, hexec, hm, hr, fun c => ?_, fun _ c => ?_, fun _ hempty => tlbiFinish_idle ?_, by simp, fun c _ hqueue => ?_⟩
    · rw [hcore, tlbiStart_coreAt]
    · rw [hcore, tlbiStart_coreAt]
    · rw [← Bool.not_eq_true, tlbiStale_start_iff]
      simp [hempty]
    · rw [tlbiFinish_waits ((tlbiStale_start_iff s).mpr ⟨c, hqueue⟩)]
      exact ⟨rfl, by simp [tlbiStart]⟩

theorem atsInvalidation_effect {s : State} (h : s.arg.flag = false) : let a := s.arg
    ∃ t, exec .atsInvalidation s = .next t ∧ workStands s t ∧
      (∀ g, g ∈ t.atsGrants ↔ (g ∈ s.atsGrants ∧ ¬ (g.1 = a.num ∧ g.2.1 = a.addr))) ∧
      (s.atsUsers a.num a.addr = [] → t.errs.sent = s.errs.sent ++ [.atsDone a.num a.addr]) ∧
      (s.atsUsers a.num a.addr ≠ [] → t.errs = s.errs ∧
        (s.now + 192, Instr.atsInvalidation, ({ num := a.num, addr := a.addr, flag := true } : EvArgs)) ∈ t.timers) := by
  intro a
  have hgrants (g : Nat × Nat × Bool × Bool) : g ∈ s.atsGrants.filter (fun g => !(g.1 == a.num && g.2.1 == a.addr)) ↔
      (g ∈ s.atsGrants ∧ ¬ (g.1 = a.num ∧ g.2.1 = a.addr)) := by simp [imp_iff_not_or]
  by_cases hu : s.atsUsers a.num a.addr = []
  · obtain ⟨ds, hexec⟩ := exec_atsInvalidation_done h hu
    exact ⟨_, hexec, ⟨rfl, rfl, rfl, rfl, rfl, rfl, rfl, rfl, rfl⟩, hgrants, fun _ => rfl, fun hne => absurd hu hne⟩
  · obtain ⟨ds, hexec⟩ := exec_atsInvalidation_waits h hu
    exact ⟨_, hexec, ⟨rfl, rfl, rfl, rfl, rfl, rfl, rfl, rfl, rfl⟩, hgrants, fun he => absurd he hu,
      fun _ => ⟨rfl, by simp [a]⟩⟩

theorem hostPort_writes : Sys2Proof.Claims.HostPortEvents := by
  intro s a v d x w
  refine ⟨fun hdec => ⟨?_, ?_, fun hflag => ?_⟩, fun ht hown hne hfit hend hroom => ⟨fun hv => ?_, fun hv => ?_⟩,
    landingTimeout_marksDue, ?_, fun ht hnone => ?_, fun ht hflag hfn => ⟨?_, ?_, ?_, ?_, ?_⟩, registerWrite_mailboxArg,
    tlbiGo_effect s, atsInvalidation_effect, ?_⟩
  · rw [exec_hostWindowWrite, posted_undecoded hdec]
  · rw [exec_nwake, posted_undecoded hdec]
  · rw [exec_registerWrite hflag, posted_undecoded hdec]
  · exact hostWindowWrite_lands ht hown hne hfit hend hroom hv
  · exact hostWindowWrite_drops ht hown hne hfit hend hv
  · rintro ht e y he rfl
    exact ⟨nwake_ignored ht he, fun g => nwake_wakes ht he, nwake_drops ht he⟩
  · rw [exec_nwake, posted_taken ht, writeBar2_noPage hnone]
  · exact fun e => registerWrite_governor ht hflag hfn
  · exact registerWrite_balance ht hflag hfn
  · exact registerWrite_tlbi ht hflag hfn
  · exact registerWrite_swapth ht hflag hfn
  · exact fun e k => registerWrite_qctl ht hflag hfn
  · exact ⟨_, rfl, ⟨rfl, rfl, rfl, rfl, rfl, rfl, rfl, rfl, rfl⟩, rfl⟩

/-! ## What the host reads (00 R14; 04 R86, R91, R92; 05 R109, R127, R130, R132) -/

theorem ferr_word_fields (f : Ferr) : let w := BitVec.ofNat 64 f.word
    w.getLsbD 63 = f.v ∧ w.extractLsb' 61 2 = f.cls ∧ w.extractLsb' 56 5 = f.src ∧ w.extractLsb' 54 2 = f.die ∧
      w.extractLsb' 51 3 = f.step ∧ w.extractLsb' 47 4 = f.fn ∧ w.extractLsb' 37 10 = f.agent ∧ w.extractLsb' 0 32 = f.time := by
  have hv := b2n_le_one f.v
  have hcls := f.cls.isLt
  have hsrc := f.src.isLt
  have hdie := f.die.isLt
  have hstep := f.step.isLt
  have hfn := f.fn.isLt
  have hagent := f.agent.isLt
  have htime := f.time.isLt
  simp only [Ferr.word, fieldsWord, List.foldl_cons, List.foldl_nil]
  refine ⟨ofNat_getLsbD_b2n _ _ _ (by decide) ?_, ofNat_extractLsb' _ _ _ (by decide) ?_, ofNat_extractLsb' _ _ _ (by decide) ?_,
    ofNat_extractLsb' _ _ _ (by decide) ?_, ofNat_extractLsb' _ _ _ (by decide) ?_, ofNat_extractLsb' _ _ _ (by decide) ?_,
    ofNat_extractLsb' _ _ _ (by decide) ?_, ofNat_extractLsb' _ _ _ (by decide) ?_⟩ <;> omega

theorem die_word_fields (k : Die) (now : Nat) : let w := BitVec.ofNat 64 (k.word now)
    w.extractLsb' 16 10 = k.cap ∧ w.extractLsb' 7 9 = k.limit ∧ w.getLsbD 2 = k.hot := by
  have hcap := k.cap.isLt
  have hlimit := k.limit.isLt
  have hhot := b2n_le_one k.hot
  have hexc := b2n_le_one (k.exc && decide (now < k.excAt + 1200000))
  simp only [Die.word, fieldsWord, List.foldl_cons, List.foldl_nil]
  refine ⟨ofNat_extractLsb' _ _ _ (by decide) ?_, ofNat_extractLsb' _ _ _ (by decide) ?_, ofNat_getLsbD_b2n _ _ _ (by decide) ?_⟩ <;>
    omega

theorem ctlWord_fields (x : Queue) (priv : Bool) (hlogn : x.logn ≤ 16) : let w := BitVec.ofNat 64 (x.ctlWord priv)
    w.extractLsb' 24 6 = (if priv then x.hwq else 0) ∧ w.extractLsb' 8 4 = x.qv ∧ w.getLsbD 0 = x.en ∧ w.getLsbD 2 = false := by
  have hqv := x.qv.isLt
  have hen := b2n_le_one x.en
  have hhwq : (if priv then x.hwq.toNat else 0) = (if priv then x.hwq else 0).toNat := by cases priv <;> rfl
  have hlt := (if priv then x.hwq else 0).isLt
  simp only [Queue.ctlWord, fieldsWord, List.foldl_cons, List.foldl_nil, hhwq]
  refine ⟨ofNat_extractLsb' _ _ _ (by decide) ?_, ofNat_extractLsb' _ _ _ (by decide) ?_, ofNat_getLsbD_b2n _ _ _ (by decide) ?_,
    ofNat_getLsbD_b2n _ _ false (by decide) ?_⟩
  · omega
  · omega
  · omega
  · show _ = 0
    omega

theorem readPage_qctl (x : DCtx) {q : Nat} (priv : Bool) (hq : q < 16) : x.readPage (0x80 + 8 * q) priv = (x.queue q).ctlWord priv := by
  have halign : (0x80 + 8 * q) % 8 = 0 := by omega
  have hlow : ¬ 0x80 + 8 * q < 0x80 := by omega
  have hhigh : 0x80 + 8 * q < 0x100 := by omega
  have hidx : (0x80 + 8 * q - 0x80) / 8 = q := by omega
  simp only [DCtx.readPage, halign, hlow, hhigh, hidx, ne_eq, not_true, if_true, if_false]

theorem readBar0_of_decoded {s : State} {fn o : Nat} (h : s.decodes = true) (hw : inWindows fn o = false) :
    s.readBar0 fn o = .data (BitVec.ofNat 64 (s.viewWord fn o)) := by simp [State.readBar0, h, hw]

theorem inWindows_below {fn o : Nat} (h : o < 0x200000) : inWindows fn o = false := by
  have hpf : ¬ 0x3E00000 ≤ o := by omega
  have hvf : ¬ 0x200000 ≤ o := by omega
  simp [inWindows, hpf, hvf]

theorem viewWord_global (s : State) {o : Nat} (h : o < 0x100000) : s.viewWord 0 o = s.readGlobal o := by simp [State.viewWord, h]

theorem viewWord_page (s : State) {d o : Nat} (hd : d < 256) (ho : o < 0x1000) :
    s.viewWord 0 (0x100000 + 0x1000 * d + o) = (s.dctxOf d).readPage o true := by
  have hin : ¬ 0x100000 + 0x1000 * d + o < 0x100000 := by omega
  have hend : 0x100000 + 0x1000 * d + o < 0x200000 := by omega
  have hpage : (0x100000 + 0x1000 * d + o - 0x100000) / 0x1000 = d := by omega
  have hoff : (0x100000 + 0x1000 * d + o) % 0x1000 = o := by omega
  simp only [State.viewWord, if_true, if_neg hin, if_pos hend, hpage, hoff]

/-- A VF sees the unprivileged page of its `k`-th device context. -/
theorem viewWord_own (s : State) {fn k o : Nat} (hfn : 0 < fn) (hk : k < 256) (ho : o < 0x1000) :
    s.viewWord fn (0x1000 * k + o) = ((s.contextsOf fn)[k]?.elim 0 fun d => (s.dctxOf d).readPage o false) := by
  have hne : fn ≠ 0 := by omega
  have hend : 0x1000 * k + o < 0x100000 := by omega
  have hpage : (0x1000 * k + o) / 0x1000 = k := by omega
  have hoff : (0x1000 * k + o) % 0x1000 = o := by omega
  simp only [State.viewWord, if_neg hne, if_pos hend, Nat.sub_zero, hpage, hoff]
  cases (s.contextsOf fn)[k]? <;> rfl

theorem readGlobal_governor (s : State) (e : Fin 4) : s.readGlobal (0x100 + 8 * e.val) = (s.dieAt e).word s.now := by
  fin_cases e <;> rfl

section read

variable {s : State} (hdec : s.decodes = true)

include hdec

theorem readBar0_ferr : s.readBar0 0 0 = .data (BitVec.ofNat 64 s.errs.ferr.word) := by
  rw [readBar0_of_decoded hdec rfl, viewWord_global s (by decide)]
  rfl

theorem readBar0_governor (e : Fin 4) : s.readBar0 0 (0x100 + 8 * e.val) = .data (BitVec.ofNat 64 ((s.dieAt e).word s.now)) := by
  rw [readBar0_of_decoded hdec (inWindows_below (by omega)), viewWord_global s (by omega), readGlobal_governor]

theorem readBar0_qctl {d q : Nat} (hd : d < 256) (hq : q < 16) : s.readBar0 0 (0x100000 + 0x1000 * d + 0x80 + 8 * q) =
    .data (BitVec.ofNat 64 (((s.dctxOf d).queue q).ctlWord true)) := by
  rw [readBar0_of_decoded hdec (inWindows_below (by omega)), Nat.add_assoc, viewWord_page s hd (by omega), readPage_qctl _ true hq]

theorem readBar0_ownQctl {fn k d q : Nat} (hfn : 0 < fn) (hk : k < 256) (hq : q < 16) (hd : (s.contextsOf fn)[k]? = some d) :
    s.readBar0 fn (0x1000 * k + 0x80 + 8 * q) = .data (BitVec.ofNat 64 (((s.dctxOf d).queue q).ctlWord false)) := by
  rw [readBar0_of_decoded hdec (inWindows_below (by omega)), Nat.add_assoc, viewWord_own s hfn hk (by omega), hd, Option.elim_some,
    readPage_qctl _ false hq]

theorem readBar0_ownDcfg {fn k : Nat} (hfn : 0 < fn) (hk : k < 256) : s.readBar0 fn (0x1000 * k + 0x380) = .data 0 := by
  have hword : ((s.contextsOf fn)[k]?.elim 0 fun d => (s.dctxOf d).readPage 0x380 false) = 0 := by
    cases (s.contextsOf fn)[k]? <;> rfl
  rw [readBar0_of_decoded hdec (inWindows_below (by omega)), viewWord_own s hfn hk (by decide), hword]
  rfl

end read

theorem hostPort_reads : Sys2Proof.Claims.RegisterReads := by
  intro s fn o
  refine ⟨fun hdec => ⟨?_, ?_⟩, fun hw => ?_, fun hdec => ⟨?_, ?_, fun e => ?_, fun d q hd hq hlogn => ?_,
    fun k d q hk hq hfn hd hlogn => ?_, fun k hk hfn => readBar0_ownDcfg hdec hfn hk⟩⟩
  · simp [State.readBar0, hdec]
  · simp [State.readBar2, hdec]
  · simp [State.readBar0, hw]
  · simp [State.readBar2, hdec]
  · exact ⟨_, readBar0_ferr hdec, ferr_word_fields s.errs.ferr⟩
  · exact ⟨_, readBar0_governor hdec e, die_word_fields (s.dieAt e) s.now⟩
  · exact ⟨_, readBar0_qctl hdec hd hq, ctlWord_fields _ true hlogn⟩
  · obtain ⟨hhwq, hqv, hen, -⟩ := ctlWord_fields ((s.dctxOf d).queue q) false hlogn
    exact ⟨_, readBar0_ownQctl hdec hfn hk hq hd, hhwq, hqv, hen⟩

/-- Settles O42: each write of the host through the equation of the register, window or page that it reaches, and each read through
the fields of the word that it gives. -/
theorem hostPortEvents : Obligations.HostPortEvents := ⟨hostPort_writes, hostPort_reads⟩

end Sys2Proof.Proofs
end

section
/-! PROOFS. The state at reset (O58). -/

namespace Sys2Proof.Proofs

open Sys2Proof Sys2Proof.Machine Sys2Proof.Claims Sys2Proof.Laws

/-- Settles O58: every component of the reset state is a constant vector or an empty list, so each value is read off. -/
theorem resetState : Obligations.ResetState := by
  unfold Obligations.ResetState
  refine ⟨⟨reset_memory_wf, rfl⟩, fun a => rfl, fun d => ?_, rfl, fun d q => ?_, rfl, rfl, rfl, fun c => ?_, fun h => ?_, rfl, rfl, rfl⟩
  · simp [State.dieAt, State.reset, Die.reset]
  · simp [State.dctxOf, State.reset, DCtx.reset, Queue.reset]
  · simp [State.coreAt, State.ctxAt, State.reset, Core.reset, Core.ctx, Ctx.reset]
  · simp [State.reset, MemSys.reset, Home.reset]

end Sys2Proof.Proofs
end

section
/-! PROOFS. Reports, the security alarm, links and hot patches (O35). -/

namespace Sys2Proof.Proofs

open Sys2Proof Sys2Proof.Machine Sys2Proof.Claims Sys2Proof.Laws

/-! ### What a report, an alarm and a change of the security state leave alone -/

@[simp] theorem workStands_refl (s : State) : workStands s s := by simp [workStands]

theorem workStands_trans {s t u : State} (h : workStands s t) (h' : workStands t u) : workStands s u := by
  obtain ⟨a, b, c, d, e, f, g, i, j⟩ := h
  obtain ⟨a', b', c', d', e', f', g', i', j'⟩ := h'
  exact ⟨a'.trans a, b'.trans b, c'.trans c, d'.trans d, e'.trans e, f'.trans f, g'.trans g, i'.trans i, j'.trans j⟩

@[simp] theorem workStands_modSec (s : State) (f : Security → Security) : workStands s (s.modSec f) := by simp [workStands]
@[simp] theorem workStands_modDie (s : State) (d : Fin 4) (f : Die → Die) : workStands s (s.modDie d f) := by simp [workStands]

@[simp] theorem workStands_report (s : State) (cls src fn die agent step : Nat) :
    workStands s (s.report cls src fn die agent step) := by
  unfold State.report
  dsimp only
  split <;> simp [workStands]

@[simp] theorem report_sec (s : State) (cls src fn die agent step : Nat) : (s.report cls src fn die agent step).sec = s.sec := by
  unfold State.report
  dsimp only
  split <;> rfl

@[simp] theorem report_dies (s : State) (cls src fn die agent step : Nat) : (s.report cls src fn die agent step).dies = s.dies := by
  unfold State.report
  dsimp only
  split <;> rfl

@[simp] theorem report_dieAt (s : State) (cls src fn die agent step : Nat) (d : Fin 4) :
    (s.report cls src fn die agent step).dieAt d = s.dieAt d := congrArg (·.get d) (report_dies ..)

/-- What a report says of a state holds of every state with the same report side. -/
theorem reported_congr {s s' t t' : State} {cls src fn die step : Nat} (h : reported s t cls src fn die step)
    (hs : s'.errs = s.errs ∧ s'.power = s.power ∧ s'.fz = s.fz) (ht : t'.errs = t.errs ∧ t'.power = t.power ∧ t'.fz = t.fz) :
    reported s' t' cls src fn die step := by
  obtain ⟨he, hp, hf⟩ := hs
  obtain ⟨he', hp', hf'⟩ := ht
  unfold reported at h ⊢
  rwa [he, hp, hf, he', hp', hf']

theorem report_ferr (s : State) (cls src fn die agent step : Nat) :
    (s.report cls src fn die agent step).errs.ferr = if s.errs.ferr.v then s.errs.ferr else
      { v := true, cls := BitVec.ofNat 2 cls, src := BitVec.ofNat 5 src, die := BitVec.ofNat 2 die, step := BitVec.ofNat 3 step,
        fn := BitVec.ofNat 4 fn, agent := BitVec.ofNat 10 agent, time := BitVec.ofNat 32 (min s.micros (2 ^ 32 - 1)) } := by
  unfold State.report
  dsimp only
  split <;> rfl

theorem report_sent (s : State) (cls src fn die agent step : Nat) :
    (s.report cls src fn die agent step).errs.sent = s.errs.sent ++
      if (if cls = 0 then getIdx s.errs.corMask fn false else getIdx s.errs.uncMask fn false) then [] else [.aer cls src fn] := by
  have hm (m : Bool) (l : List HostMsg) (x : HostMsg) : (if m then l else l ++ [x]) = l ++ if m then [] else [x] := by
    cases m <;> simp
  rw [← hm]
  unfold State.report
  dsimp only
  split <;> rfl

theorem reported_report (s : State) {cls src fn die agent step : Nat} (hc : cls < 4) (hs : src < 32) (hf : fn < 16) (hd : die < 4)
    (ht : step < 8) : reported s (s.report cls src fn die agent step) cls src fn die step := by
  have hup : ∀ i < 16, getIdx (Vector.replicate 16 false) i true = false := fun i hi => by simp [getIdx, hi]
  refine ⟨fun hv => ?_, fun hv => ?_, report_sent .., fun h2 => ?_, fun h2 => ?_⟩
  · simp [report_ferr, hv]
  · simp [report_ferr, Nat.mod_eq_of_lt, *]
  · simpa [State.report, clsFatal, h2] using hup
  · simp [State.report, clsFatal, h2]

/-! ### The security alarm (05 R136, R137) -/

/-- The level 2 alarms of the last second, with one raised now. -/
def recentLevel2 (s : State) : List Nat := (s.sec.level2At ++ [s.micros]).filter fun t => decide (s.micros - t < 1000000)

/-- The actions of level 2 on an alarm of the supply: the log and the zeroisation. -/
def supplyAlarmed (s : State) : State :=
  ((s.alarmLog .supply 2).modSec fun q => { q with level2At := recentLevel2 s }).alarmZeroise

theorem alarm_thermal (s : State) : s.alarm .thermal = s.alarmLog .thermal 1 := rfl
theorem alarm_patchSig (s : State) : s.alarm .patchSig = s.alarmLog .patchSig 1 := rfl
theorem alarm_exhausted (s : State) : s.alarm .exhausted = s.alarmLog .exhausted 1 := rfl
theorem alarm_tamper (s : State) : s.alarm .tamper = (s.alarmLog .tamper 3).alarmZeroise.alarmLock := rfl
theorem alarm_firmwareSig (s : State) : s.alarm .firmwareSig = (s.alarmLog .firmwareSig 3).alarmZeroise.alarmLock := rfl
theorem alarm_threeLevel2 (s : State) : s.alarm .threeLevel2 = (s.alarmLog .threeLevel2 3).alarmZeroise.alarmLock := rfl
theorem alarm_supply (s : State) : s.alarm .supply =
    if 3 ≤ (recentLevel2 s).length then ((supplyAlarmed s).alarmLog .threeLevel2 3).alarmLock else supplyAlarmed s := rfl

theorem workStands_alarmLog (s : State) (src : AlarmSource) (level : Nat) : workStands s (s.alarmLog src level) :=
  workStands_modSec ..
theorem workStands_alarmZeroise (s : State) : workStands s s.alarmZeroise := workStands_modSec ..
theorem workStands_alarmLock (s : State) : workStands s s.alarmLock :=
  workStands_trans (workStands_modSec ..) (workStands_report ..)
theorem workStands_supplyAlarmed (s : State) : workStands s (supplyAlarmed s) :=
  workStands_trans (workStands_alarmLog ..) (workStands_trans (workStands_modSec ..) (workStands_alarmZeroise _))

theorem workStands_lockout (s : State) (src : AlarmSource) :
    workStands s (s.alarmLog src 3).alarmZeroise.alarmLock :=
  workStands_trans (workStands_alarmLog ..) (workStands_trans (workStands_alarmZeroise _) (workStands_alarmLock _))

@[simp] theorem workStands_alarm (s : State) (src : AlarmSource) : workStands s (s.alarm src) := by
  cases src
  case thermal | patchSig | exhausted => exact workStands_alarmLog ..
  case threeLevel2 | tamper | firmwareSig => exact workStands_lockout ..
  case supply =>
    rw [alarm_supply]
    split
    · exact workStands_trans (workStands_supplyAlarmed s) (workStands_trans (workStands_alarmLog ..) (workStands_alarmLock _))
    · exact workStands_supplyAlarmed s

/-- What the log says of a state holds of every state with the same log and time. -/
theorem logged_congr {s t t' : State} {level : Nat} (h : logged s t level) (hn : t'.sec.next = t.sec.next)
    (hm : t'.sec.maxLevel = t.sec.maxLevel) (hl : t'.sec.log = t.sec.log) : logged s t' level := by
  unfold logged at h ⊢
  rwa [hn, hm, hl]

/-- An entry of the log reads back as its time and its level. -/
theorem bitsN_logEntry (m : Nat) (x : BitVec 8) {level : Nat} (h : level < 2 ^ 8) :
    let e := (BitVec.ofNat 128 (m % 2 ^ 64 + x.toNat * 2 ^ 64 + level * 2 ^ 72)).toNat
    bitsN e 0 64 = m % 2 ^ 64 ∧ bitsN e 72 56 = level := by
  have := x.isLt
  simp only [bitsN, BitVec.toNat_ofNat]
  omega

theorem logged_alarmLog (s : State) (src : AlarmSource) {level : Nat} (h : level < 2 ^ 8) :
    logged s (s.alarmLog src level) level := by
  obtain ⟨htime, hlevel⟩ := bitsN_logEntry s.micros (Config.alarmSource src.row) h
  have hlt : s.sec.next.toNat % 64 < 64 := Nat.mod_lt _ (by decide)
  refine ⟨?_, rfl, fun i _ hi => getIdx_setIdx_ne _ _ _ hi.symm, ?_, ?_⟩
  · show (BitVec.ofNat 8 _).toNat = _
    rw [BitVec.toNat_ofNat]
    omega
  · rwa [show getIdx (s.alarmLog src level).sec.log _ 0 = _ from getIdx_setIdx_self _ _ _ hlt]
  · rwa [show getIdx (s.alarmLog src level).sec.log _ 0 = _ from getIdx_setIdx_self _ _ _ hlt]

theorem logged_supplyAlarmed (s : State) : logged s (supplyAlarmed s) 2 :=
  logged_congr (logged_alarmLog s .supply (by decide)) rfl rfl rfl

@[simp] theorem alarmLock_sec (s : State) : s.alarmLock.sec = { s.sec with keys := false, lock := true } := by
  simp [State.alarmLock, State.reportPf]

theorem logged_lockout (s : State) (src : AlarmSource) : logged s (s.alarmLog src 3).alarmZeroise.alarmLock 3 :=
  logged_congr (logged_alarmLog s src (by decide)) (by simp [State.alarmZeroise]) (by simp [State.alarmZeroise])
    (by simp [State.alarmZeroise])

/-- The zeroisation counts from every state with the same sessions and patch, and to every one. -/
theorem zeroised_of_alarmZeroise {s t u : State} (hs : t.sec.sessions = s.sec.sessions ∧ t.sec.patch = s.sec.patch)
    (hu : u.sec.sessions = t.alarmZeroise.sec.sessions ∧ u.sec.patch = t.alarmZeroise.sec.patch ∧
      u.sec.fwStat = t.alarmZeroise.sec.fwStat) : zeroised s u := by
  obtain ⟨hses, hpatch⟩ := hs
  obtain ⟨hses', hpatch', hstat⟩ := hu
  refine ⟨fun i => ?_, hpatch', fun h => ?_⟩
  · unfold Security.session
    rw [hses', ← hses]
    simp only [State.alarmZeroise, modSec_sec, getIdx]
    split <;> simp
  · rw [hstat]
    simp [State.alarmZeroise, hpatch, Option.isSome_iff_ne_none, h]

theorem zeroised_supplyAlarmed (s : State) : zeroised s (supplyAlarmed s) :=
  zeroised_of_alarmZeroise (t := (s.alarmLog .supply 2).modSec _) ⟨rfl, rfl⟩ ⟨rfl, rfl, rfl⟩

theorem zeroised_lockout (s : State) (src : AlarmSource) : zeroised s (s.alarmLog src 3).alarmZeroise.alarmLock :=
  zeroised_of_alarmZeroise (t := s.alarmLog src 3) ⟨rfl, rfl⟩ (by simp)

theorem reported_alarmLock {s t : State} (h : t.errs = s.errs ∧ t.power = s.power ∧ t.fz = s.fz) :
    reported s t.alarmLock 2 12 0 0 0 :=
  reported_congr (reported_report (t.modSec fun q => { q with keys := false, lock := true }) (agent := 0) (by decide) (by decide)
    (by decide) (by decide) (by decide)) (by simpa [eq_comm] using h) ⟨rfl, rfl, rfl⟩

/-! ### Alarms, link failures and hot patches: O35 -/

theorem alarmsAndLinkEvents : Sys2Proof.Claims.AlarmsAndLinkEvents := by
  intro s recent
  refine ⟨fun h => ⟨supplyAlarmed s, ?_, logged_supplyAlarmed s, zeroised_supplyAlarmed s, rfl, rfl, rfl, workStands_supplyAlarmed s⟩,
    fun h => ⟨((supplyAlarmed s).alarmLog .threeLevel2 3).alarmLock, ?_, by simp, by simp, reported_alarmLock ⟨rfl, rfl, rfl⟩,
      workStands_trans (workStands_supplyAlarmed s) (workStands_trans (workStands_alarmLog ..) (workStands_alarmLock _))⟩,
    ⟨_, rfl, logged_lockout s .tamper, zeroised_lockout s .tamper, alarmLock_sec _ ▸ rfl, alarmLock_sec _ ▸ rfl,
      reported_alarmLock ⟨rfl, rfl, rfl⟩, workStands_lockout s .tamper⟩,
    ⟨_, rfl, ?_, ?_, workStands_trans (workStands_modDie ..) (workStands_report ..), report_sec ..⟩,
    ⟨_, rfl, reported_report s (by decide) (by decide) (by decide) s.arg.die.isLt (by decide), workStands_report .., report_sec ..,
      report_dies ..⟩⟩
  · exact congrArg Host.Outcome.next ((alarm_supply s).trans (if_neg (Nat.not_le.mpr h)))
  · exact congrArg Host.Outcome.next ((alarm_supply s).trans (if_pos h))
  · simp [State.reportPf]
  · exact reported_congr (reported_report (s.modDie s.arg.die _) (by decide) (by decide) (by decide) s.arg.die.isLt (by decide))
      ⟨rfl, rfl, rfl⟩ ⟨rfl, rfl, rfl⟩

/-- A patch image that is turned away is malformed or unreadable (5), unsigned (3) or made for another base (4). -/
theorem patchCheck_error {s : State} {dpa code : Nat} (h : s.patchCheck dpa = .error code) : code = 3 ∨ code = 4 ∨ code = 5 := by
  unfold State.patchCheck at h
  dsimp only at h
  repeat' split at h
  all_goals simp_all

/-- A patch that was turned away: none waits and the status says why. -/
def patchRefused (s : State) (code : Nat) : State := s.modSec fun q => { q with patch := none, fwStat := code }

theorem execFwpatchGo_ok {s : State} {p : BitVec 32 × List Nat × List Byte} (hidle : s.sec.fwStat ≠ 1)
    (h : s.patchCheck (s.sec.fwAddr.toNat * 8) = .ok p) :
    execFwpatchGo s = .next (s.modSec fun q => { q with patch := some p, fwStat := 1 }) := by
  simp only [execFwpatchGo, if_neg hidle, h]

theorem execFwpatchGo_error {s : State} {code : Nat} (hidle : s.sec.fwStat ≠ 1)
    (h : s.patchCheck (s.sec.fwAddr.toNat * 8) = .error code) :
    execFwpatchGo s = .next (if code = 3 then (patchRefused s code).alarm .patchSig else patchRefused s code) := by
  simp only [execFwpatchGo, if_neg hidle, h, patchRefused]

theorem hotPatches : Sys2Proof.Claims.HotPatches := by
  intro s check
  refine ⟨fun hidle => ⟨fun p hp => ⟨_, execFwpatchGo_ok hidle hp, by simp⟩,
      fun code hcode => ⟨_, execFwpatchGo_error hidle hcode, ?_⟩⟩,
    fun hwait => ⟨if_pos hwait, ⟨_, congrArg Host.Outcome.next (if_pos hwait), by simp⟩⟩,
    fun hidle => ⟨congrArg Host.Outcome.next (if_neg hidle), ?_⟩, fun v l image hwait hp => ?_⟩
  · have hcodes := patchCheck_error hcode
    have hwork : workStands s (patchRefused s code) := workStands_modSec ..
    split
    case isTrue h3 =>
      refine ⟨rfl, rfl, hcodes, fun _ => ?_, workStands_trans hwork (workStands_alarm ..)⟩
      exact logged_alarmLog (patchRefused s code) .patchSig (by decide)
    case isFalse h3 => exact ⟨rfl, rfl, hcodes, fun h => absurd h h3, hwork⟩
  · simp only [exec, execPatchApply, if_neg hidle]
    split <;> rfl
  · refine ⟨_, by simp only [exec, execPatchApply, hp, if_pos hwait]; rfl, ?_⟩
    simp

/-- Settles O35: from the rules of reports and alarms above, and the results of the check of a patch. -/
theorem alarmsLinksAndPatches : Obligations.AlarmsLinksAndPatches := ⟨alarmsAndLinkEvents, hotPatches⟩

end Sys2Proof.Proofs
end

section
/-! PROOFS. Resets and the steps of bring-up (O33). -/

namespace Sys2Proof.Proofs

open Sys2Proof Sys2Proof.Machine Sys2Proof.Claims Sys2Proof.Laws

/-! ### Resets and the steps of bring-up: O33 -/

/-- What starting the periodic work leaves as it is: it sets timers and draws estimates. -/
def timersOnly (s t : State) : Prop := t.mem = s.mem ∧ t.cores = s.cores ∧ t.power = s.power

theorem timersOnly_refl (s : State) : timersOnly s s := ⟨rfl, rfl, rfl⟩

theorem timersOnly_trans {s t u : State} (h : timersOnly s t) (h' : timersOnly t u) : timersOnly s u := by
  obtain ⟨hm, hc, hp⟩ := h
  obtain ⟨hm', hc', hp'⟩ := h'
  exact ⟨hm'.trans hm, hc'.trans hc, hp'.trans hp⟩

theorem timersOnly_foldl {α : Type} {f : State → α → State} (hf : ∀ s a, timersOnly s (f s a)) (l : List α) (s : State) :
    timersOnly s (l.foldl f s) := by
  induction l generalizing s with
  | nil => exact timersOnly_refl s
  | cons a l ih => exact timersOnly_trans (hf s a) (ih _)

theorem timersOnly_armAll (s : State) : timersOnly s s.armAll := by
  refine timersOnly_trans ?_ (timersOnly_foldl (fun t k => by simp [timersOnly]) _ _)
  refine timersOnly_trans ?_ (timersOnly_foldl (fun t d => by simp [timersOnly, State.armGovernor, State.free]) _ _)
  unfold State.armFrame
  split <;> simp [timersOnly]

/-- A step of bring-up that fails for good: reported fatal with its number, and bring-up stops. -/
def stepFails (s : State) (n : Nat) : State := (s.report clsFatal 13 0 0 0 n).bringupFails n

theorem stepFails_spec (s : State) {n : Nat} (hn : n < 8) : (stepFails s n).power.failedStep = some n ∧
    (stepFails s n).power.fatal = true ∧ reported s (stepFails s n) 2 13 0 0 n := by
  obtain ⟨hheld, hnew, hsent, hfatal, -⟩ :=
    reported_report s (cls := clsFatal) (src := 13) (fn := 0) (die := 0) (agent := 0) (by decide) (by decide) (by decide) (by decide) hn
  exact ⟨rfl, rfl, hheld, hnew, hsent, hfatal, fun h => absurd rfl h⟩

/-- Step 6: the split is set and the periodic work starts. -/
def resetSplit (s : State) : State :=
  { s.bringupNext with cores := s.cores.map fun (c : Core) => { c with cacheUnits := 8, drain := none } }

/-- A step that ends well starts the next one; step 4 leaves memory zero and step 6 sets the split (01 R23). -/
theorem bringupStep_ok {s : State} (hgo : s.power.failedStep = none) (hlock : s.sec.lock = false) (hok : s.arg.flag = true)
    (h1 : 1 ≤ s.power.bringup) (h6 : s.power.bringup ≤ 6) : execBringupStepDone s = .next
      (if s.power.bringup = 4 then (s.modMem fun m => { m with bytes := [], units := [] }).bringupNext
       else if s.power.bringup = 6 then (resetSplit s).armAll else s.bringupNext) := by
  have hst : s.power.bringup = 1 ∨ s.power.bringup = 2 ∨ s.power.bringup = 3 ∨ s.power.bringup = 4 ∨ s.power.bringup = 5 ∨
      s.power.bringup = 6 := by omega
  rcases hst with h | h | h | h | h | h <;> simp [execBringupStepDone, hgo, hlock, hok, h, resetSplit]

/-- A failure of step 3, 4 or 5 is fatal (01 R24). -/
theorem bringupStep_fails {s : State} (hgo : s.power.failedStep = none) (hbad : s.arg.flag = false)
    (hst : s.power.bringup = 3 ∨ s.power.bringup = 4 ∨ s.power.bringup = 5) :
    execBringupStepDone s = .next (stepFails s s.power.bringup) := by
  rcases hst with h | h | h <;> simp [execBringupStepDone, hgo, hbad, h, stepFails]

/-- Settles O33: the reset states are read off, and each end of a step is one of the equations above. -/
theorem resetAndBringup : Obligations.ResetAndBringup := by
  intro s z st
  refine ⟨⟨_, rfl, rfl, rfl, rfl, rfl, rfl, rfl, rfl, rfl, rfl, rfl, rfl⟩,
    ⟨_, rfl, rfl, rfl, rfl, rfl, rfl, rfl, rfl, rfl, rfl, rfl, rfl, rfl, rfl, rfl, rfl, rfl⟩,
    fun hgo hlock => ⟨fun hok h1 h6 => ⟨_, bringupStep_ok hgo hlock hok h1 h6, ?_⟩, fun hbad h2 => ?_, fun hbad h345 => ?_⟩,
    fun hgo hlock h2 => ?_⟩
  · by_cases h4 : st = 4
    · rw [if_pos (show s.power.bringup = 4 from h4)]
      exact ⟨rfl, hgo, (if_pos h4).symm, (if_pos h4).symm, fun h => absurd (h4.symm.trans h) (by decide), fun _ => rfl⟩
    rw [if_neg (show ¬ s.power.bringup = 4 from h4), if_neg h4, if_neg h4]
    by_cases h6 : st = 6
    · obtain ⟨hm, hc, hp⟩ := timersOnly_armAll (resetSplit s)
      rw [if_pos (show s.power.bringup = 6 from h6), hm, hp]
      refine ⟨rfl, hgo, rfl, rfl, fun _ c => ?_, fun h => absurd h6 h⟩
      rw [State.coreAt, hc]
      simp [resetSplit]
    · rw [if_neg (show ¬ s.power.bringup = 6 from h6)]
      exact ⟨rfl, hgo, rfl, rfl, fun h => absurd h h6, fun _ => rfl⟩
  · refine ⟨(s.alarm .firmwareSig).bringupFails 2, ?_, rfl, alarmLock_sec _ ▸ rfl, alarmLock_sec _ ▸ rfl,
      logged_lockout s .firmwareSig, zeroised_lockout s .firmwareSig⟩
    simp [exec, execBringupStepDone, hgo, hlock, hbad, show s.power.bringup = 2 from h2]
  · obtain ⟨hstep, hfatal, hrep⟩ := stepFails_spec s (n := st) (by omega)
    exact ⟨_, bringupStep_fails hgo hbad h345, hstep, hfatal, hrep⟩
  · refine ⟨s.bringupFails 2, ?_, rfl, by simp [workStands, State.bringupFails], rfl⟩
    simp [exec, execBringupStepDone, hgo, show s.power.bringup = 2 from h2, hlock]

end Sys2Proof.Proofs
end

section
/-! SUPPORT. What keeps the list of busy cores and the clocks of the dies. -/

namespace Sys2Proof.Proofs

open Sys2Proof Sys2Proof.Machine Sys2Proof.Claims Sys2Proof.Laws

/-! ## The cores that have something to look at, and the clocks of the dies -/

/-- No core has left the list of those that have something to look at, and every die's clock runs or stands as before. -/
structure ClocksStand (s t : State) : Prop where
  busy : ∀ c ∈ s.busy, c ∈ t.busy
  tripped : ∀ d, (t.dieAt d).tripped = (s.dieAt d).tripped

theorem ClocksStand.refl (s : State) : ClocksStand s s := ⟨fun _ h => h, fun _ => rfl⟩

theorem ClocksStand.trans {s t u : State} (h : ClocksStand s t) (h' : ClocksStand t u) : ClocksStand s u :=
  ⟨fun c hc => h'.busy c (h.busy c hc), fun d => (h'.tripped d).trans (h.tripped d)⟩

theorem clocksStand_of_eq {s t : State} (hb : t.busy = s.busy) (hd : t.dies = s.dies) : ClocksStand s t :=
  ⟨fun _ hc => hb ▸ hc, fun d => by simp [State.dieAt, hd]⟩

theorem ClocksStand.of_eq {s t u : State} (h : ClocksStand t u) (hb : t.busy = s.busy) (hd : t.dies = s.dies) : ClocksStand s u :=
  (clocksStand_of_eq hb hd).trans h

theorem clocksStand_foldl {α : Type} {f : State → α → State} (h : ∀ s a, ClocksStand s (f s a)) (l : List α) (s : State) :
    ClocksStand s (l.foldl f s) :=
  List.foldlRecOn l f (ClocksStand.refl s) fun _ hb a _ => hb.trans (h _ a)

theorem clocksStand_foldl_snd {α β : Type} {f : β × State → α → β × State} (h : ∀ p a, ClocksStand p.2 (f p a).2) (l : List α)
    (p : β × State) : ClocksStand p.2 (l.foldl f p).2 :=
  List.foldlRecOn (motive := fun q => ClocksStand p.2 q.2) l f (ClocksStand.refl p.2) fun _ hb a _ => hb.trans (h _ a)

theorem dieAt_modDie_ne (s : State) (d e : Fin 4) (f : Die → Die) (h : e ≠ d) : (s.modDie d f).dieAt e = s.dieAt e :=
  vget_set_ne _ _ _ d.isLt _ fun hv => h (Fin.ext hv.symm)

theorem clocksStand_modDie (s : State) (d : Fin 4) {f : Die → Die} (h : ∀ x, (f x).tripped = x.tripped) :
    ClocksStand s (s.modDie d f) := by
  refine ⟨fun _ hc => hc, fun e => ?_⟩
  by_cases he : e = d
  · rw [he, dieAt_modDie_self]
    exact h _
  · rw [dieAt_modDie_ne _ _ _ _ he]

theorem clocksStand_post {s t : State} {e : Instr} {a : EvArgs} (h : ClocksStand s t) : ClocksStand s (t.post e a) :=
  h.trans (clocksStand_of_eq rfl rfl)

theorem clocksStand_modCtxAt {s t : State} {c : Fin 192} {x : Fin 4} {f : Ctx → Ctx} (h : ClocksStand s t) :
    ClocksStand s (t.modCtxAt c x f) := h.trans (clocksStand_of_eq rfl rfl)

theorem clocksStand_mapRecs {s : State} {p : Rec → Bool} {f : Rec → Rec} : ClocksStand s (s.mapRecs p f) :=
  clocksStand_of_eq rfl rfl

theorem addBusy_eq (s : State) (c : Fin 192) : ∃ b, s.addBusy c = { s with busy := b } := by
  unfold State.addBusy
  split
  · exact ⟨s.busy, rfl⟩
  · exact ⟨_, rfl⟩

theorem clocksStand_addBusy (s : State) (c : Fin 192) : ClocksStand s (s.addBusy c) := by
  unfold State.addBusy
  split
  · exact .refl s
  · exact ⟨fun d hd => List.mem_append_left _ hd, fun _ => rfl⟩

@[simp] theorem mem_addBusy (s : State) (c : Fin 192) : c ∈ (s.addBusy c).busy := by
  unfold State.addBusy
  split
  · next h => simpa using h
  · simp

/-- A core in the list that a fold adds is there at its end. -/
theorem mem_foldl_addBusy {c : Fin 192} {l : List (Fin 192)} (h : c ∈ l) (s : State) : c ∈ (l.foldl State.addBusy s).busy := by
  obtain ⟨l₁, l₂, rfl⟩ := List.append_of_mem h
  rw [List.foldl_append, List.foldl_cons]
  exact (clocksStand_foldl clocksStand_addBusy l₂ _).busy c (mem_addBusy ..)

theorem clocksStand_addBusyHall (s : State) (h : Nat) : ClocksStand s (s.addBusyHall h) := clocksStand_foldl clocksStand_addBusy ..

theorem clocksStand_addBusyNat (s : State) (c : Nat) : ClocksStand s (s.addBusyNat c) := by
  unfold State.addBusyNat
  split
  · exact clocksStand_addBusy ..
  · exact .refl s

/-! ### The writes of an engine -/

theorem clocksStand_report (s : State) (cls src fn die agent step : Nat) : ClocksStand s (s.report cls src fn die agent step) := by
  unfold State.report
  dsimp only
  split <;> exact clocksStand_of_eq rfl rfl

theorem clocksStand_modMem (s : State) (f : MemSys → MemSys) : ClocksStand s (s.modMem f) := clocksStand_of_eq rfl rfl

theorem clocksStand_countGran (s : State) (g dpa : Nat) : ClocksStand s (s.countGran g dpa) := by
  unfold State.countGran State.reportPf
  split
  · exact .refl s
  · exact .refl s
  · exact (clocksStand_modMem ..).trans (clocksStand_report ..)
  · exact (clocksStand_modMem ..).trans (clocksStand_report ..)
  · exact clocksStand_modMem ..
  · exact clocksStand_modMem ..

theorem clocksStand_granStore (s : State) (g dpa : Nat) (et : Bool) (data : List Byte) :
    ClocksStand s (s.granStore g dpa et data).2 := by
  have hcount := clocksStand_countGran s g dpa
  unfold State.granStore State.granPartial
  dsimp only
  split
  · exact clocksStand_of_eq rfl rfl
  · split
    · split
      · exact hcount.trans (clocksStand_of_eq rfl rfl)
      · exact clocksStand_of_eq rfl rfl
    · exact hcount.trans (clocksStand_of_eq rfl rfl)

theorem clocksStand_dpaWrite (s : State) (g dpa : Nat) (et : Bool) (data : List Byte) :
    ClocksStand s (s.dpaWrite g dpa et data).2 := by
  refine clocksStand_foldl_snd (fun p c => ?_) _ (0, s)
  exact clocksStand_granStore ..

theorem clocksStand_cohNcWrite (s : State) (line : Nat) : ClocksStand s (s.cohNcWrite line) := by
  unfold State.cohNcWrite
  extract_lets e t
  have ht : ClocksStand s t := clocksStand_foldl (fun t d => (clocksStand_of_eq rfl rfl : ClocksStand t (t.dropLine d line))) e.holders s
  exact ht.trans (clocksStand_of_eq rfl rfl)

theorem clocksStand_ncEngWrite (s : State) (die line off : Nat) (bs : List Byte) : ClocksStand s (s.ncEngWrite die line off bs) := by
  unfold State.ncEngWrite
  split <;> exact clocksStand_of_eq rfl rfl

theorem clocksStand_engWrite (s : State) (die : Nat) (segs : List Seg) (bs : List Byte) :
    ClocksStand s (s.engWrite die segs bs).2 := by
  refine clocksStand_foldl_snd (fun p g => ?_) segs (0, s)
  refine ClocksStand.trans (clocksStand_foldl (fun t c => ?_) _ p.2) (clocksStand_dpaWrite ..)
  split
  · exact clocksStand_cohNcWrite ..
  · exact clocksStand_ncEngWrite ..

theorem clocksStand_vaWrite {s : State} {die : Nat} {who : Who} {va : Nat} {bs : List Byte} {r : Nat × State}
    (h : s.vaWrite die who va bs = .ok r) : ClocksStand s r.2 := by
  unfold State.vaWrite at h
  split at h
  · cases h
  · cases h
    exact clocksStand_engWrite ..

/-! ### A thread that leaves its context -/

theorem clocksStand_leaveWithdraw (s : State) (c : Fin 192) (x : Fin 4) : ClocksStand s (s.leaveWithdraw c x) := by
  unfold State.leaveWithdraw
  split
  · exact clocksStand_post (clocksStand_modDie s _ fun _ => rfl)
  · exact .refl s

theorem clocksStand_leaveGiveBack (s : State) (c : Fin 192) (x : Fin 4) : ClocksStand s (s.leaveGiveBack c x) := by
  unfold State.leaveGiveBack
  split
  · exact .refl s
  · exact clocksStand_post (clocksStand_modCtxAt (clocksStand_modDie s _ fun _ => rfl))

theorem clocksStand_leaveDrop (s : State) (c : Fin 192) (x : Fin 4) : ClocksStand s (s.leaveDrop c x) := by
  unfold State.leaveDrop
  split
  · exact clocksStand_post (clocksStand_modDie s _ fun _ => rfl)
  · exact .refl s

theorem clocksStand_leaveForget (s : State) (die : Fin 4) (owner : Nat) : ClocksStand s (s.leaveForget die owner) := by
  unfold State.leaveForget
  split
  · exact clocksStand_post (clocksStand_modDie s _ fun _ => rfl)
  · exact .refl s

theorem clocksStand_leaveForgetJobs (s : State) (gone : List Job) : ClocksStand s (s.leaveForgetJobs gone) :=
  clocksStand_foldl (fun _ _ => clocksStand_foldl (fun _ _ => clocksStand_leaveForget ..) _ _) gone s

theorem clocksStand_engineFree (s : State) (c : Fin 192) : ClocksStand s (s.engineFree c) := by
  unfold State.engineFree
  extract_lets t u
  have ht : ClocksStand s t := clocksStand_of_eq rfl rfl
  have hu : ClocksStand t u := clocksStand_foldl (fun v _ => clocksStand_modCtxAt (.refl v)) _ t
  clear_value u
  exact ht.trans (hu.trans (clocksStand_mapRecs.trans (clocksStand_addBusy ..)))

theorem clocksStand_vacate (s : State) (c : Fin 192) (x : Fin 4) : ClocksStand s (s.vacate c x) := by
  unfold State.vacate
  extract_lets t u v w
  have hu : ClocksStand t u := (clocksStand_leaveWithdraw ..).trans (clocksStand_leaveDrop ..)
  have hv : ClocksStand u v := by
    unfold v
    split
    · exact clocksStand_engineFree ..
    · exact .refl u
  have ht : ClocksStand s t := clocksStand_of_eq rfl rfl
  have hw : ClocksStand v w := clocksStand_of_eq rfl rfl
  clear_value w v u t
  exact ht.trans (hu.trans (hv.trans (hw.trans ((clocksStand_addBusy ..).of_eq (modCoreAt_busy ..) (modCoreAt_dies ..)))))

theorem clocksStand_killCtx (s : State) (c : Fin 192) (x : Fin 4) : ClocksStand s (s.killCtx c x) := by
  unfold State.killCtx
  split
  · exact clocksStand_vacate ..
  · extract_lets t
    have ht : ClocksStand s t := (clocksStand_leaveWithdraw ..).trans (clocksStand_leaveGiveBack ..)
    clear_value t
    exact ht.trans (clocksStand_of_eq rfl rfl)

theorem clocksStand_killGrid (s : State) (g status : Nat) : ClocksStand s (s.killGrid g status) := by
  unfold State.killGrid
  split
  · exact .refl s
  · split
    · exact .refl s
    · extract_lets held t planned u recs lasts freed v
      have ht : ClocksStand s t := clocksStand_foldl (fun _ _ => clocksStand_killCtx ..) held s
      have hu : ClocksStand t u := clocksStand_leaveForgetJobs ..
      have hv : ClocksStand u v := clocksStand_of_eq rfl rfl
      clear_value v u t
      exact ht.trans (hu.trans (hv.trans (clocksStand_of_eq rfl rfl)))

theorem clocksStand_killThread (s : State) (c : Fin 192) (x : Fin 4) : ClocksStand s (s.killThread c x) := by
  unfold State.killThread
  split
  · exact clocksStand_vacate ..
  · exact (clocksStand_report ..).trans (clocksStand_killGrid ..)

theorem clocksStand_saveContext {s t : State} {c : Fin 192} {x : Fin 4} {fsp : Bool} {addr info : Nat}
    (h : s.saveContext c x fsp addr info = .ok t) : ClocksStand s t := by
  unfold State.saveContext at h
  split at h
  · cases h
    exact .refl s
  · split at h
    · cases h
    · next u hw =>
      cases h
      refine ClocksStand.trans (t := u) ?_ (clocksStand_of_eq rfl rfl)
      unfold State.frameWrite at hw
      repeat' split at hw
      all_goals cases hw
      · exact clocksStand_of_eq rfl rfl
      · next hv => exact clocksStand_vaWrite hv

theorem clocksStand_mirrorImage (s : State) (grid team off : Nat) (bs : List Byte) :
    ClocksStand s (s.mirrorImage grid team off bs) := by
  unfold State.mirrorImage
  split
  · split
    · exact .refl s
    · split
      · next hv => exact clocksStand_vaWrite hv
      · exact .refl s
  · exact .refl s

theorem clocksStand_postFlag (s : State) (grid team flag : Nat) : ClocksStand s (s.postFlag grid team flag) := by
  obtain ⟨ts, hts⟩ := holdFor_eq s grid team
  unfold State.postFlag
  rw [hts]
  extract_lets f t v
  have ht : ClocksStand s t := clocksStand_of_eq rfl rfl
  exact ht.trans (clocksStand_post (clocksStand_mirrorImage ..))

theorem clocksStand_handlerCreate {s t : State} {grid team core hall bix seg : Nat} {home : Bool} {pri arg : Nat}
    (h : s.handlerCreate grid team core hall bix seg home pri arg = some t) : ClocksStand s t := by
  unfold State.handlerCreate at h
  split at h
  · cases h
    split
    · exact (clocksStand_addBusyHall ..).of_eq rfl rfl
    · exact (clocksStand_addBusyNat ..).of_eq rfl rfl
  · cases h

theorem clocksStand_forward (s : State) (r : Rec) (entry : Nat) : ClocksStand s (s.forward r entry) := by
  unfold State.forward
  dsimp only
  split
  · next h => exact clocksStand_handlerCreate h
  · exact clocksStand_of_eq rfl rfl

theorem clocksStand_trapPark (s : State) (c : Fin 192) (x : Fin 4) (entry info : Nat) :
    ClocksStand s (s.trapPark c x entry info) := by
  unfold State.trapPark
  split
  · exact clocksStand_killThread ..
  · split
    · exact (clocksStand_killThread ..).of_eq rfl rfl
    · next r _ _ t ht =>
      extract_lets u v w
      have hv : ClocksStand t v := (clocksStand_vacate ..).of_eq rfl rfl
      have hw : ClocksStand v w := by
        unfold w
        split
        · exact clocksStand_postFlag ..
        · exact .refl v
      refine (clocksStand_saveContext ht).trans (hv.trans (hw.trans ?_))
      split
      · exact clocksStand_forward ..
      · exact .refl w

theorem clocksStand_settleLeaving (s : State) (c : Fin 192) (x : Fin 4) : ClocksStand s (s.settleLeaving c x) := by
  unfold State.settleLeaving
  split
  · split
    · exact clocksStand_trapPark ..
    · exact .refl s
  · exact .refl s

theorem clocksStand_settleAll (s : State) (l : List (Fin 192 × Fin 4)) : ClocksStand s (s.settleAll l) := by
  refine clocksStand_foldl (fun t p => ?_) l s
  exact clocksStand_settleLeaving ..

/-- No context of the list was about to leave: nothing goes on. -/
theorem settleAll_of_leaving_none {s : State} {l : List (Fin 192 × Fin 4)} (h : ∀ p ∈ l, (s.ctxAt p.1 p.2).leaving = none) :
    s.settleAll l = s := by
  induction l with
  | nil => rfl
  | cons p l ih =>
    obtain ⟨hp, hl⟩ := List.forall_mem_cons.mp h
    have hset : s.settleLeaving p.1 p.2 = s := by simp [State.settleLeaving, hp]
    exact (congrArg (List.foldl _ · l) hset).trans (ih hl)

end Sys2Proof.Proofs
end

section
/-! PROOFS. The monitors and the power governor (O34). -/

namespace Sys2Proof.Proofs

open Sys2Proof Sys2Proof.Machine Sys2Proof.Claims Sys2Proof.Laws

/-! ## The governor (01 R26, R31) -/

/-- What the granting of leave on a die keeps: memory, records, the events announced so far, and of every die all but its requests and
grants. -/
structure LeaveOnly (s t : State) : Prop where
  mem : t.mem = s.mem
  recs : t.recs = s.recs
  agenda : ∀ e ∈ s.agenda, e ∈ t.agenda
  die : ∀ d, (t.dieAt d).cap = (s.dieAt d).cap ∧ (t.dieAt d).hot = (s.dieAt d).hot ∧ (t.dieAt d).limit = (s.dieAt d).limit ∧
    (t.dieAt d).exc = (s.dieAt d).exc ∧ (t.dieAt d).overSince = (s.dieAt d).overSince

theorem LeaveOnly.refl (s : State) : LeaveOnly s s := ⟨rfl, rfl, fun _ h => h, fun _ => ⟨rfl, rfl, rfl, rfl, rfl⟩⟩

theorem LeaveOnly.trans {s t u : State} (h : LeaveOnly s t) (h' : LeaveOnly t u) : LeaveOnly s u where
  mem := h'.mem.trans h.mem
  recs := h'.recs.trans h.recs
  agenda := fun e he => h'.agenda e (h.agenda e he)
  die := fun d => by
    obtain ⟨h1, h2, h3, h4, h5⟩ := h.die d
    obtain ⟨h1', h2', h3', h4', h5'⟩ := h'.die d
    exact ⟨h1'.trans h1, h2'.trans h2, h3'.trans h3, h4'.trans h4, h5'.trans h5⟩

theorem leaveOnly_leaveTell (s : State) (owner : Nat) (cls : BitVec 2) : LeaveOnly s (s.leaveTell owner cls) := by
  unfold State.leaveTell
  split
  · obtain ⟨b, hb⟩ := addBusy_eq (s.modCtxAt (splitAgent owner).1 (splitAgent owner).2 fun c => { c with grant := some cls })
      (splitAgent owner).1
    exact hb ▸ ⟨rfl, rfl, fun _ h => h, fun _ => ⟨rfl, rfl, rfl, rfl, rfl⟩⟩
  · refine ⟨rfl, rfl, fun e he => ?_, fun d => ⟨rfl, rfl, rfl, rfl, rfl⟩⟩
    simp [he]

theorem leaveOnly_grant (s : State) (die : Fin 4) (w : Die → List LeaveReq) (g : Die → List Grant) :
    LeaveOnly s (s.modDie die fun d => { d with waiting := w d, grants := g d }) := by
  refine ⟨rfl, rfl, fun _ h => h, fun d => ?_⟩
  by_cases hd : d = die
  · subst hd
    simp
  · rw [dieAt_modDie_ne _ _ _ _ hd]
    exact ⟨rfl, rfl, rfl, rfl, rfl⟩

theorem leaveOnly_grantFrom (die : Fin 4) (n : Nat) (s : State) : LeaveOnly s (State.grantFrom die n s) := by
  induction n generalizing s with
  | zero => exact .refl s
  | succ n ih =>
    unfold State.grantFrom
    dsimp only
    split
    · exact .refl s
    · split
      · exact .refl s
      · exact (leaveOnly_grant s die _ _).trans ((leaveOnly_leaveTell ..).trans (ih _))

theorem leaveOnly_leaveGrantAll (s : State) (die : Fin 4) : LeaveOnly s (s.leaveGrantAll die) := leaveOnly_grantFrom ..

/-- LIMIT halves but not below 8; one that is below 8 stays. -/
theorem halve_limit (d : Die) (now : Nat) :
    (d.halve now).limit.toNat = if 8 ≤ d.limit.toNat / 2 then d.limit.toNat / 2 else min d.limit.toNat 8 := by
  have hlt := d.limit.isLt
  unfold Die.halve
  dsimp only
  split
  · rw [BitVec.toNat_ofNat]
    split <;> omega
  · split <;> omega

theorem halve_exc (d : Die) (now : Nat) (h : (d.halve now).limit.toNat < d.limit.toNat) : (d.halve now).exc = true := by
  unfold Die.halve at h ⊢
  dsimp only at h ⊢
  split
  · rfl
  · next hn => simp [hn] at h

theorem halve_keeps (d : Die) (now : Nat) : (d.halve now).cap = d.cap ∧ (d.halve now).hot = d.hot := by
  unfold Die.halve
  dsimp only
  split <;> exact ⟨rfl, rfl⟩

/-- A die whose estimate is above its cap: the time since is noted, and EXC ends with its millisecond. -/
def overCap (d : Die) (now : Nat) : Die :=
  { d with exc := d.exc && decide (now < d.excAt + msTicks), overSince := d.overSince.orElse fun _ => some now }

/-- The three bands of an estimate: under the cap LIMIT rises, a little above it stays, far above it halves (01 R26). -/
theorem estimate_bands (d : Die) (w now : Nat) :
    (d.estimate w now).cap = d.cap ∧ (d.estimate w now).hot = d.hot ∧
    (4 * w ≤ d.capQ → (d.estimate w now).limit.toNat = min 384 (d.limit.toNat + 16) ∧ (d.estimate w now).overSince = none) ∧
    (d.capQ < 4 * w → 400 * w ≤ 115 * d.capQ → (d.estimate w now).limit = d.limit ∧
      (d.estimate w now).overSince = d.overSince.orElse fun _ => some now) ∧
    (115 * d.capQ < 400 * w → ∃ e : Die, e.limit = d.limit ∧ d.estimate w now = e.halve now) := by
  by_cases hlow : 4 * w ≤ d.capQ
  · have heq : d.estimate w now = { d with
        exc := d.exc && decide (now < d.excAt + msTicks), limit := BitVec.ofNat 9 (min 384 (d.limit.toNat + 16)),
        overSince := none } := if_pos hlow
    rw [heq]
    refine ⟨rfl, rfl, fun _ => ⟨?_, rfl⟩, fun h => absurd hlow (Nat.not_le.mpr h), fun h => absurd h (by omega)⟩
    rw [BitVec.toNat_ofNat]
    omega
  · have heq : d.estimate w now = if 400 * w ≤ 115 * d.capQ then overCap d now else (overCap d now).halve now := if_neg hlow
    rw [heq]
    split
    · next hmid => exact ⟨rfl, rfl, fun h => absurd h hlow, fun _ _ => ⟨rfl, rfl⟩, fun h => absurd hmid (by omega)⟩
    · next hhigh =>
      exact ⟨(halve_keeps _ now).1, (halve_keeps _ now).2, fun h => absurd h hlow, fun _ h => absurd h hhigh,
        fun _ => ⟨overCap d now, rfl, rfl⟩⟩

/-! ## The wake of a die (01 R33) -/

/-- Events are announced and cores looked at; nothing else moves. -/
structure WakesOnly (s t : State) : Prop where
  work : workStands s t
  dies : t.dies = s.dies
  agenda : ∀ e ∈ s.agenda, e ∈ t.agenda

theorem WakesOnly.refl (s : State) : WakesOnly s s := ⟨workStands_refl s, rfl, fun _ h => h⟩

theorem WakesOnly.trans {s t u : State} (h : WakesOnly s t) (h' : WakesOnly t u) : WakesOnly s u :=
  ⟨workStands_trans h.work h'.work, h'.dies.trans h.dies, fun e he => h'.agenda e (h.agenda e he)⟩

theorem WakesOnly.coreAt {s t : State} (h : WakesOnly s t) (c : Fin 192) : t.coreAt c = s.coreAt c := by
  obtain ⟨-, hcores, -⟩ := h.work
  exact congrArg (·.get c) hcores

theorem wakesOnly_foldl {α : Type} {f : State → α → State} (h : ∀ s a, WakesOnly s (f s a)) (l : List α) (s : State) :
    WakesOnly s (l.foldl f s) :=
  List.foldlRecOn l f (WakesOnly.refl s) fun _ hb a _ => hb.trans (h _ a)

theorem wakesOnly_post (s : State) (e : Instr) (a : EvArgs) : WakesOnly s (s.post e a) :=
  ⟨by simp [workStands], rfl, fun _ h => by simp [h]⟩

theorem wakesOnly_addBusy (s : State) (c : Fin 192) : WakesOnly s (s.addBusy c) := by
  obtain ⟨b, hb⟩ := addBusy_eq s c
  exact hb ▸ ⟨by simp [workStands], rfl, fun _ h => h⟩

/-- Every queued command of core `c` is announced. -/
def callCommands (s : State) (c : Fin 192) : State :=
  (List.range (s.coreAt c).engine.queue.length).foldl (fun s _ => s.post .matrixCommandComplete { core := c }) s

theorem wakesOnly_callCommands (s : State) (c : Fin 192) : WakesOnly s (callCommands s c) :=
  wakesOnly_foldl (fun _ _ => wakesOnly_post ..) _ s

theorem mem_callCommands {s : State} {c : Fin 192} (h : (s.coreAt c).engine.queue ≠ []) :
    (Instr.matrixCommandComplete, ({ core := c } : EvArgs)) ∈ (callCommands s c).agenda := by
  obtain ⟨n, hn⟩ := Nat.exists_eq_succ_of_ne_zero (fun h0 => h (List.length_eq_zero_iff.mp h0))
  unfold callCommands
  rw [hn, List.range_succ, List.foldl_append]
  simp

theorem mem_foldl_callCommands {c : Fin 192} {l : List (Fin 192)} (hc : c ∈ l) {s : State}
    (h : (s.coreAt c).engine.queue ≠ []) :
    (Instr.matrixCommandComplete, ({ core := c } : EvArgs)) ∈ (l.foldl callCommands s).agenda := by
  obtain ⟨l₁, l₂, rfl⟩ := List.append_of_mem hc
  rw [List.foldl_append, List.foldl_cons]
  refine (wakesOnly_foldl wakesOnly_callCommands l₂ _).agenda _ (mem_callCommands ?_)
  rwa [(wakesOnly_foldl wakesOnly_callCommands l₁ s).coreAt c]

/-- The contexts of a die that run threads, and its cores. -/
def contextsOn (s : State) (d : Nat) : List (Fin 192 × Fin 4) := s.contexts.filter fun p => p.1.val / 48 == d
def coresOn (d : Nat) : List (Fin 192) := (List.finRange 192).filter fun c => c.val / 48 == d

/-- The die before the threads that were about to leave go on: arrivals and commands are announced, its cores looked at. -/
def dieCalled (s : State) (d : Nat) : State :=
  (coresOn d).foldl State.addBusy
    ((coresOn d).foldl callCommands { s with agenda := s.agenda ++ (contextsOn s d).flatMap s.arrivals })

theorem wakeDie_eq (s : State) (d : Nat) : s.wakeDie d = (dieCalled s d).settleAll (contextsOn s d) := rfl

theorem mem_coresOn {c : Fin 192} {d : Nat} (h : c.val / 48 = d) : c ∈ coresOn d := by simp [coresOn, h]

theorem wakesOnly_dieCalled (s : State) (d : Nat) : WakesOnly s (dieCalled s d) := by
  have hann : WakesOnly s { s with agenda := s.agenda ++ (contextsOn s d).flatMap s.arrivals } :=
    ⟨by simp [workStands], rfl, fun e he => by simp [he]⟩
  have hcalls := wakesOnly_foldl wakesOnly_callCommands (coresOn d) { s with agenda := s.agenda ++ (contextsOn s d).flatMap s.arrivals }
  exact hann.trans (hcalls.trans (wakesOnly_foldl wakesOnly_addBusy (coresOn d) _))

theorem busy_wakeDie {s : State} {d : Nat} {c : Fin 192} (h : c.val / 48 = d) : c ∈ (s.wakeDie d).busy :=
  wakeDie_eq s d ▸ (clocksStand_settleAll ..).busy c (mem_foldl_addBusy (mem_coresOn h) _)

theorem tripped_wakeDie (s : State) (d : Nat) (e : Fin 4) : ((s.wakeDie d).dieAt e).tripped = (s.dieAt e).tripped := by
  rw [wakeDie_eq, (clocksStand_settleAll ..).tripped, State.dieAt, (wakesOnly_dieCalled s d).dies]
  rfl

/-- With no thread about to leave, the die is called and nothing else moves. -/
theorem wakeDie_of_leaving_none {s : State} {d : Nat}
    (h : ∀ p ∈ s.contexts, p.1.val / 48 = d → (s.ctxAt p.1 p.2).leaving = none) : s.wakeDie d = dieCalled s d := by
  rw [wakeDie_eq]
  refine settleAll_of_leaving_none fun p hp => ?_
  obtain ⟨hmem, hd⟩ := List.mem_filter.mp hp
  rw [State.ctxAt, (wakesOnly_dieCalled s d).coreAt]
  exact h p hmem (by simpa using hd)

theorem arrival_mem_dieCalled {s : State} {d : Nat} {p : Fin 192 × Fin 4} (hp : p ∈ s.contexts) (hd : p.1.val / 48 = d)
    {r : LongResult} (hr : r ∈ (s.ctxAt p.1 p.2).long) (hdata : r.data.isSome = true) :
    (Instr.interlockArrival, ({ core := p.1, ctx := p.2, id := r.id } : EvArgs)) ∈ (dieCalled s d).agenda := by
  refine (wakesOnly_foldl wakesOnly_addBusy _ _).agenda _ ((wakesOnly_foldl wakesOnly_callCommands _ _).agenda _ ?_)
  refine List.mem_append_right _ (List.mem_flatMap.mpr ⟨p, List.mem_filter.mpr ⟨hp, by simpa using hd⟩, ?_⟩)
  exact List.mem_map.mpr ⟨r, List.mem_filter.mpr ⟨hr, hdata⟩, rfl⟩

theorem command_mem_dieCalled {s : State} {d : Nat} {c : Fin 192} (hd : c.val / 48 = d)
    (hq : (s.coreAt c).engine.queue ≠ []) :
    (Instr.matrixCommandComplete, ({ core := c } : EvArgs)) ∈ (dieCalled s d).agenda :=
  (wakesOnly_foldl wakesOnly_addBusy _ _).agenda _ (mem_foldl_callCommands (mem_coresOn hd) hq)

/-! ## The monitors: O34 -/

/-- The governor's tick up to its grants: the estimate, and the event of its own after 1 ms above the cap. -/
def governed (s : State) : State :=
  let a := s.arg
  let s := if a.flag then s.armGovernor a.die else s
  let s := s.modDie a.die fun d => d.estimate a.num s.now
  let d := s.dieAt a.die
  if 400 * a.num ≤ 115 * d.capQ && d.overSince.any (fun t => decide (t + msTicks ≤ s.now)) then
    s.post .limitHalveExcursion { die := a.die } else s

theorem execGovernorTick_eq (s : State) : execGovernorTick s = .next ((governed s).leaveGrantAll s.arg.die) := by
  unfold execGovernorTick governed
  rfl

theorem armGovernor_keeps (s : State) (d : Fin 4) : (s.armGovernor d).mem = s.mem ∧ (s.armGovernor d).recs = s.recs ∧
    (s.armGovernor d).dies = s.dies ∧ (s.armGovernor d).now = s.now := ⟨rfl, rfl, rfl, rfl⟩

theorem governed_spec (s : State) : (governed s).mem = s.mem ∧ (governed s).recs = s.recs ∧
    (governed s).dieAt s.arg.die = (s.dieAt s.arg.die).estimate s.arg.num s.now ∧
    (400 * s.arg.num ≤ 115 * ((s.dieAt s.arg.die).estimate s.arg.num s.now).capQ →
      (∃ t0, ((s.dieAt s.arg.die).estimate s.arg.num s.now).overSince = some t0 ∧ t0 + msTicks ≤ s.now) →
      (Instr.limitHalveExcursion, ({ die := s.arg.die } : EvArgs)) ∈ (governed s).agenda) := by
  unfold governed
  extract_lets a u t d
  have hu : u.mem = s.mem ∧ u.recs = s.recs ∧ u.dies = s.dies ∧ u.now = s.now := by
    unfold u
    split
    · exact armGovernor_keeps ..
    · exact ⟨rfl, rfl, rfl, rfl⟩
  clear_value u
  obtain ⟨hmem, hrecs, hdies, hnow⟩ := hu
  have htmem : t.mem = s.mem := hmem
  have htrecs : t.recs = s.recs := hrecs
  have htnow : t.now = s.now := hnow
  have htdie : t.dieAt a.die = (s.dieAt a.die).estimate a.num s.now := by
    unfold t
    rw [dieAt_modDie_self, hnow, State.dieAt, hdies]
    rfl
  have hd : d = (s.dieAt a.die).estimate a.num s.now := htdie
  clear_value d t
  subst hd
  split
  · exact ⟨htmem, htrecs, htdie, fun _ _ => by simp [a]⟩
  · next hno =>
    refine ⟨htmem, htrecs, htdie, fun hband hover => absurd ?_ hno⟩
    obtain ⟨t0, ht0, hlate⟩ := hover
    have hany : Option.any (fun t0 => decide (t0 + msTicks ≤ t.now)) ((s.dieAt a.die).estimate a.num s.now).overSince = true := by
      rw [ht0, htnow, Option.any_some, decide_eq_true hlate]
    rw [hany, decide_eq_true hband]
    rfl

/-- The die before its cores go on after a critical trip. -/
def cooled (s : State) (d : Fin 4) : State := s.modDie d fun x => { x with tripped := false, hot := false }

theorem execTripRecovery_eq (s : State) : execTripRecovery s = .next ((cooled s s.arg.die).wakeDie s.arg.die.val) := rfl

/-- With no thread of the die about to leave, the recovery moves nothing and announces what waited. -/
theorem recovery_of_leaving_none {s : State} {d : Fin 4}
    (h : ∀ p ∈ s.contexts, dieOf p.1 = d → (s.ctxAt p.1 p.2).leaving = none) :
    let t := (cooled s d).wakeDie d.val
    (∀ e, e ≠ d → t.dieAt e = s.dieAt e) ∧ workStands s t ∧
    (∀ p ∈ s.contexts, dieOf p.1 = d → ∀ r ∈ (s.ctxAt p.1 p.2).long, r.data.isSome = true →
      (Instr.interlockArrival, ({ core := p.1, ctx := p.2, id := r.id } : EvArgs)) ∈ t.agenda) ∧
    ∀ c, dieOf c = d → (s.coreAt c).engine.queue ≠ [] →
      (Instr.matrixCommandComplete, ({ core := c } : EvArgs)) ∈ t.agenda := by
  have heq : (cooled s d).wakeDie d.val = dieCalled (cooled s d) d.val :=
    wakeDie_of_leaving_none fun p hp hd => h p hp (Fin.ext hd)
  have hwake := wakesOnly_dieCalled (cooled s d) d.val
  dsimp only
  rw [heq]
  refine ⟨fun e he => ?_, workStands_trans (workStands_modDie ..) hwake.work,
    fun p hp hd r hr hdata => arrival_mem_dieCalled (s := cooled s d) hp (congrArg Fin.val hd) hr hdata,
    fun c hd hq => command_mem_dieCalled (s := cooled s d) (congrArg Fin.val hd) hq⟩
  rw [State.dieAt, hwake.dies]
  exact dieAt_modDie_ne _ _ _ _ he

/-- Settles O34: the monitors set their bits and report; the wake and the tick by the rules above. -/
theorem powerMonitors : Obligations.PowerMonitors := by
  intro s a d capQ halved
  have hcapQ : capQ = d.capQ := rfl
  have hhalved (now : Nat) (e : Die) (he : e.limit = d.limit) : halved (e.halve now) :=
    ⟨he ▸ halve_limit e now, fun h => halve_exc e now (he ▸ h)⟩
  refine ⟨⟨_, rfl, ?_, rfl, rfl, fun c => ?_⟩, ⟨_, rfl, ?_, fun e he => dieAt_modDie_ne _ _ _ _ he, workStands_modDie ..⟩,
    ⟨_, rfl, ?_, fun e he => ?_, ?_, ?_, ?_, fun c hc => ?_⟩, ⟨_, execTripRecovery_eq s, ?_, fun c hc => ?_, fun hnone => ?_⟩,
    fun hfrozen hr => ⟨?_, ?_⟩, ⟨_, execGovernorTick_eq s, ?_⟩,
    ⟨_, rfl, ?_, fun e he => dieAt_modDie_ne _ _ _ _ he, workStands_modDie ..⟩⟩
  · exact congrArg Core.stretched (coreAt_modCoreAt_self ..)
  · by_cases hc : c = a.core
    · subst hc
      rw [coreAt_modCoreAt_self]
      exact ⟨rfl, rfl⟩
    · rw [coreAt_modCoreAt_ne _ _ _ _ hc]
      exact ⟨rfl, rfl⟩
  · exact congrArg Die.hot (dieAt_modDie_self ..)
  · exact (congrArg Die.tripped (report_dieAt ..)).trans (congrArg Die.tripped (dieAt_modDie_self ..))
  · exact (report_dieAt ..).trans (dieAt_modDie_ne _ _ _ _ he)
  · exact logged_congr (logged_alarmLog _ .thermal (by decide)) rfl rfl rfl
  · exact reported_congr (reported_report (s.modDie s.arg.die _) (by decide) (by decide) (by decide) s.arg.die.isLt (by decide))
      ⟨rfl, rfl, rfl⟩ ⟨rfl, rfl, rfl⟩
  · exact workStands_trans (workStands_modDie ..) (workStands_trans (workStands_report ..) (workStands_alarm ..))
  · have htrip := (congrArg Die.tripped (report_dieAt (s.modDie s.arg.die fun x => { x with tripped := true, hot := true }) clsCorrectable
      6 0 s.arg.die.val 0 0 s.arg.die)).trans (congrArg Die.tripped (dieAt_modDie_self ..))
    rw [State.frozen, hc]
    exact (Bool.or_eq_true ..).mpr (.inr htrip)
  · rw [tripped_wakeDie]
    exact congrArg Die.tripped (dieAt_modDie_self ..)
  · exact busy_wakeDie (congrArg Fin.val hc)
  · exact recovery_of_leaving_none hnone
  · obtain ⟨r, hmem, hid⟩ := hr
    obtain ⟨q, hq⟩ : ∃ q, (s.ctxAt a.core a.ctx).long.find? (fun r => r.id == a.id) = some q :=
      Option.isSome_iff_exists.mp (List.find?_isSome.mpr ⟨r, hmem, by simpa using hid⟩)
    simp only [exec, execInterlockArrival, show s.arg = a from rfl, hq, hfrozen, if_true]
  · simp only [exec, execMatrixCommandComplete, show s.arg = a from rfl, hfrozen, if_true]
    split <;> rfl
  · obtain ⟨hgmem, hgrecs, hgdie, hevent⟩ := governed_spec s
    obtain ⟨hmem, hrecs, hagenda, hdie⟩ := leaveOnly_leaveGrantAll (governed s) s.arg.die
    obtain ⟨hcap, hhot, hlimit, hexc, hover⟩ := hdie s.arg.die
    obtain ⟨hecap, hehot, hlow, hmid, hhigh⟩ := estimate_bands d a.num s.now
    rw [hgdie] at hcap hhot hlimit hexc hover
    refine ⟨hcap.trans hecap, hhot.trans hehot, hmem.trans hgmem, hrecs.trans hgrecs, fun h => ?_, fun h h' => ?_, fun h => ?_⟩
    · rw [hlimit, hover]
      exact hlow h
    · obtain ⟨hl, ho⟩ := hmid h h'
      refine ⟨hlimit.trans hl, hover.trans ho, fun t0 ht0 hlate => hagenda _ (hevent ?_ ⟨t0, ?_, hlate⟩)⟩
      · rw [Die.capQ, hecap, hehot]
        exact h'
      · rw [ho, ht0]
        rfl
    · obtain ⟨e, he, heq⟩ := hhigh h
      rw [heq] at hlimit hexc
      obtain ⟨hhalf, hset⟩ := hhalved s.now e he
      refine ⟨hlimit ▸ hhalf, fun hlt => hexc.trans (hset ?_)⟩
      rwa [hlimit] at hlt
  · rw [dieAt_modDie_self]
    exact hhalved s.now d rfl

end Sys2Proof.Proofs
end

section
/-! PROOFS. Leave: reservations, requests, grants and aging (O31). -/

namespace Sys2Proof.Proofs

open Sys2Proof Sys2Proof.Machine Sys2Proof.Claims Sys2Proof.Laws

/-! ## Granting (01 R29) -/

@[simp] theorem splitAgent_agentOf (c : Fin 192) (x : Fin 4) : splitAgent (agentOf c x) = (c, x) := by
  have hc := c.isLt
  have hx := x.isLt
  refine Prod.ext (Fin.ext ?_) (Fin.ext ?_) <;> simp only [splitAgent, agentOf] <;> omega

theorem agentOf_lt (c : Fin 192) (x : Fin 4) : agentOf c x < 768 := by
  have hc := c.isLt
  have hx := x.isLt
  unfold agentOf
  omega

/-- What granting on a die does: it leaves teams and the contexts' reservations, and no grant that it adds is a reservation. -/
structure GrantsLeave (die : Fin 4) (s t : State) : Prop where
  only : LeaveOnly s t
  teams : t.teams = s.teams
  issue : t.curCore = s.curCore ∧ t.curCtx = s.curCtx
  reserve : ∀ c x, (t.ctxAt c x).reserve = (s.ctxAt c x).reserve ∧ (t.ctxAt c x).rereserve = (s.ctxAt c x).rereserve
  grants : ∀ g ∈ (t.dieAt die).grants, g ∈ (s.dieAt die).grants ∨ g.reservation = false

theorem GrantsLeave.refl (die : Fin 4) (s : State) : GrantsLeave die s s := ⟨.refl s, rfl, ⟨rfl, rfl⟩, fun _ _ => ⟨rfl, rfl⟩, fun _ => .inl⟩

theorem GrantsLeave.trans {die : Fin 4} {s t u : State} (h : GrantsLeave die s t) (h' : GrantsLeave die t u) : GrantsLeave die s u where
  only := h.only.trans h'.only
  teams := h'.teams.trans h.teams
  issue := ⟨h'.issue.1.trans h.issue.1, h'.issue.2.trans h.issue.2⟩
  reserve := fun c x => ⟨(h'.reserve c x).1.trans (h.reserve c x).1, (h'.reserve c x).2.trans (h.reserve c x).2⟩
  grants := fun g hg => (h'.grants g hg).elim (h.grants g) .inr

/-- Telling the owner of a grant leaves what the dies hold, teams and the context at issue. -/
theorem leaveTell_stands (s : State) (owner : Nat) (cls : BitVec 2) : (s.leaveTell owner cls).dies = s.dies ∧
    (s.leaveTell owner cls).teams = s.teams ∧ (s.leaveTell owner cls).curCore = s.curCore ∧
    (s.leaveTell owner cls).curCtx = s.curCtx := by
  unfold State.leaveTell
  split
  · obtain ⟨b, hb⟩ := addBusy_eq (s.modCtxAt (splitAgent owner).1 (splitAgent owner).2 fun c => { c with grant := some cls })
      (splitAgent owner).1
    exact hb ▸ ⟨rfl, rfl, rfl, rfl⟩
  · exact ⟨rfl, rfl, rfl, rfl⟩

@[simp] theorem dieAt_leaveTell (s : State) (owner : Nat) (cls : BitVec 2) (d : Fin 4) :
    (s.leaveTell owner cls).dieAt d = s.dieAt d := congrArg (·.get d) (leaveTell_stands s owner cls).1

theorem ctxAt_leaveTell (s : State) (c : Fin 192) (x : Fin 4) (cls : BitVec 2) :
    ((s.leaveTell (agentOf c x) cls).ctxAt c x).grant = some cls := by
  obtain ⟨b, hb⟩ := addBusy_eq (s.modCtxAt c x fun k => { k with grant := some cls }) c
  simp only [State.leaveTell, agentOf_lt, if_true, splitAgent_agentOf]
  rw [hb]
  exact congrArg (·.grant) (ctxAt_modCtxAt_self s c x _)

theorem reserve_modCtxAt (s : State) (c d : Fin 192) (x y : Fin 4) {f : Ctx → Ctx}
    (hf : ∀ k, (f k).reserve = k.reserve ∧ (f k).rereserve = k.rereserve) :
    ((s.modCtxAt c x f).ctxAt d y).reserve = (s.ctxAt d y).reserve ∧
      ((s.modCtxAt c x f).ctxAt d y).rereserve = (s.ctxAt d y).rereserve := by
  by_cases h : d = c ∧ y = x
  · obtain ⟨rfl, rfl⟩ := h
    rw [ctxAt_modCtxAt_self]
    exact hf _
  · rw [ctxAt_modCtxAt_ne (h := not_and_or.mp h)]
    exact ⟨rfl, rfl⟩

theorem grantsLeave_leaveTell (die : Fin 4) (s : State) (owner : Nat) (cls : BitVec 2) :
    GrantsLeave die s (s.leaveTell owner cls) where
  only := leaveOnly_leaveTell s owner cls
  teams := (leaveTell_stands s owner cls).2.1
  issue := (leaveTell_stands s owner cls).2.2
  reserve := fun c x => by
    unfold State.leaveTell
    split
    · obtain ⟨b, hb⟩ := addBusy_eq (s.modCtxAt (splitAgent owner).1 (splitAgent owner).2 fun c => { c with grant := some cls })
        (splitAgent owner).1
      rw [hb]
      exact reserve_modCtxAt s _ c _ x fun _ => ⟨rfl, rfl⟩
    · exact ⟨rfl, rfl⟩
  grants := fun g hg => .inl (by simpa using hg)

/-- The state in which a request has its grant and no longer waits. -/
def granted (s : State) (die : Fin 4) (r : LeaveReq) : State :=
  (s.modDie die fun d => { d with waiting := d.waiting.erase r, grants := d.grants ++ [⟨leaveWeight r.cls, r.owner, false⟩] }).leaveTell
    r.owner r.cls

theorem grantFrom_succ (die : Fin 4) (n : Nat) (s : State) :
    State.grantFrom die (n + 1) s = match (s.dieAt die).firstReq with
      | none => s
      | some r =>
        if (s.dieAt die).limit.toNat < (s.dieAt die).outstanding + leaveWeight r.cls then s
        else State.grantFrom die n (granted s die r) := rfl

@[simp] theorem dieAt_granted (s : State) (die : Fin 4) (r : LeaveReq) : (granted s die r).dieAt die =
    { s.dieAt die with
      waiting := (s.dieAt die).waiting.erase r
      grants := (s.dieAt die).grants ++ [⟨leaveWeight r.cls, r.owner, false⟩] } := by
  unfold granted
  rw [dieAt_leaveTell, dieAt_modDie_self]

theorem grantsLeave_granted (die : Fin 4) (s : State) (r : LeaveReq) : GrantsLeave die s (granted s die r) := by
  refine .trans ?_ (grantsLeave_leaveTell ..)
  refine ⟨leaveOnly_grant s die _ _, rfl, ⟨rfl, rfl⟩, fun _ _ => ⟨rfl, rfl⟩, fun g hg => ?_⟩
  rw [dieAt_modDie_self] at hg
  refine (List.mem_append.mp hg).imp_right fun h => ?_
  rw [List.mem_singleton.mp h]

theorem grantsLeave_grantFrom (die : Fin 4) (n : Nat) (s : State) : GrantsLeave die s (State.grantFrom die n s) := by
  induction n generalizing s with
  | zero => exact .refl die s
  | succ n ih =>
    rw [grantFrom_succ]
    split
    · exact .refl die s
    · split
      · exact .refl die s
      · exact (grantsLeave_granted ..).trans (ih _)

theorem grantsLeave_leaveGrantAll (s : State) (die : Fin 4) : GrantsLeave die s (s.leaveGrantAll die) := grantsLeave_grantFrom ..

/-! ## The first request -/

/-- The request that a list of waiting ones leaves first, one being first so far. -/
theorem foldl_first_mem {f : Option LeaveReq → LeaveReq → Option LeaveReq}
    (hf : ∀ acc r, f acc r = some r ∨ ∃ b, acc = some b ∧ f acc r = some b) (l : List LeaveReq) (acc : Option LeaveReq) {r : LeaveReq}
    (h : l.foldl f acc = some r) : r ∈ l ∨ acc = some r := by
  induction l generalizing acc with
  | nil => exact .inr h
  | cons a l ih =>
    rcases ih _ h with hl | ha
    · exact .inl (List.mem_cons_of_mem _ hl)
    · rcases hf acc a with he | ⟨b, hb, he⟩
      · exact .inl (by simp [Option.some.inj (ha.symm.trans he)])
      · exact .inr (hb.trans (he.symm.trans ha))

theorem firstReq_mem {d : Die} {r : LeaveReq} (h : d.firstReq = some r) : r ∈ d.waiting := by
  refine (foldl_first_mem (fun acc q => ?_) _ _ h).resolve_right (by simp)
  cases acc with
  | none => exact .inl rfl
  | some b =>
    dsimp only
    split
    · exact .inl rfl
    · exact .inr ⟨b, rfl, rfl⟩

theorem firstReq_nil {d : Die} (h : d.waiting = []) : d.firstReq = none := by
  unfold Die.firstReq
  rw [h]
  rfl

theorem firstReq_singleton {d : Die} {r : LeaveReq} (h : d.waiting = [r]) : d.firstReq = some r := by
  unfold Die.firstReq
  rw [h]
  rfl

/-- The first request of a die does not fit under its LIMIT, or none waits. -/
def Settled (s : State) (die : Fin 4) : Prop :=
  ∀ r, (s.dieAt die).firstReq = some r → (s.dieAt die).limit.toNat < (s.dieAt die).outstanding + leaveWeight r.cls

theorem settled_grantFrom (die : Fin 4) (n : Nat) (s : State) (h : (s.dieAt die).waiting.length ≤ n) :
    Settled (State.grantFrom die n s) die := by
  induction n generalizing s with
  | zero =>
    intro r hr
    rw [State.grantFrom, firstReq_nil (List.length_eq_zero_iff.mp (Nat.le_zero.mp h))] at hr
    cases hr
  | succ n ih =>
    rw [grantFrom_succ]
    split
    · next hn =>
      intro r hr
      rw [hn] at hr
      cases hr
    · next r hr =>
      split
      · next hl =>
        intro q hq
        rw [hr] at hq
        cases hq
        exact hl
      · refine ih _ ?_
        rw [dieAt_granted]
        have := List.length_erase_of_mem (firstReq_mem hr)
        dsimp only
        omega

theorem settled_leaveGrantAll (s : State) (die : Fin 4) : Settled (s.leaveGrantAll die) die := settled_grantFrom die _ s le_rfl

/-- With one request waiting the governor grants it, if it fits. -/
theorem leaveGrantAll_singleton {s : State} {die : Fin 4} {r : LeaveReq} (h : (s.dieAt die).waiting = [r]) :
    s.leaveGrantAll die =
      if (s.dieAt die).limit.toNat < (s.dieAt die).outstanding + leaveWeight r.cls then s else granted s die r := by
  unfold State.leaveGrantAll
  rw [h, List.length_singleton, grantFrom_succ, firstReq_singleton h]
  rfl

/-! ## Asking for leave -/

/-- What a request and its timer leave: all that granting leaves. -/
theorem grantsLeave_leaveAsk (s : State) (die : Fin 4) (cls : BitVec 2) (pri owner : Nat) :
    GrantsLeave die s (s.leaveAsk die cls pri owner) := by
  unfold State.leaveAsk
  dsimp only
  split
  · exact .refl die s
  · refine .trans ?_ (grantsLeave_leaveGrantAll ..)
    have h : GrantsLeave die s (s.modDie die fun d => { d with waiting := d.waiting ++ [⟨cls, pri, s.now, false, owner⟩] }) :=
      ⟨leaveOnly_grant s die _ _, rfl, ⟨rfl, rfl⟩, fun _ _ => ⟨rfl, rfl⟩, fun g hg => .inl (by rwa [dieAt_modDie_self] at hg)⟩
    exact ⟨⟨rfl, rfl, fun _ h => h, h.only.die⟩, rfl, ⟨rfl, rfl⟩, fun _ _ => ⟨rfl, rfl⟩, h.grants⟩

theorem leaveAsk_waiting {s : State} {die : Fin 4} {cls : BitVec 2} {pri owner : Nat}
    (h : ((s.dieAt die).waiting.any fun r => r.owner == owner) = true) : s.leaveAsk die cls pri owner = s := by
  unfold State.leaveAsk
  rw [if_pos h]

/-- The request of a context, filed at a governor where nothing waits, with its timer. -/
def asked (s : State) (die : Fin 4) (cls : BitVec 2) (pri : Nat) (c : Fin 192) (x : Fin 4) : State :=
  (s.modDie die fun d => { d with waiting := d.waiting ++ [⟨cls, pri, s.now, false, agentOf c x⟩] }).timer 131072 .leaveAging
    { core := c, ctx := x }

@[simp] theorem dieAt_asked (s : State) (die : Fin 4) (cls : BitVec 2) (pri : Nat) (c : Fin 192) (x : Fin 4) :
    (asked s die cls pri c x).dieAt die =
      { s.dieAt die with waiting := (s.dieAt die).waiting ++ [⟨cls, pri, s.now, false, agentOf c x⟩] } :=
  dieAt_modDie_self s die fun d => { d with waiting := d.waiting ++ [⟨cls, pri, s.now, false, agentOf c x⟩] }

theorem leaveAsk_nil {s : State} {die : Fin 4} {cls : BitVec 2} {pri : Nat} {c : Fin 192} {x : Fin 4} (h : (s.dieAt die).waiting = []) :
    s.leaveAsk die cls pri (agentOf c x) = (asked s die cls pri c x).leaveGrantAll die := by
  unfold State.leaveAsk
  rw [if_neg (by simp [h])]
  dsimp only
  rw [if_pos (agentOf_lt c x), splitAgent_agentOf]
  rfl

/-! ## Aging (01 R30) -/

/-- What the suspension of a die's reservations and the aging of a request leave. -/
structure SuspendsLeave (die : Fin 4) (s t : State) : Prop where
  only : LeaveOnly s t
  teams : t.teams = s.teams
  grants : ∀ g ∈ (t.dieAt die).grants, g.reservation = false

theorem suspend_fold (l : List Grant) (s : State) : ∃ cores, (l.foldl (fun s g =>
    let p := splitAgent g.owner
    s.modCtxAt p.1 p.2 fun c => { c with reserve := c.reserve.map fun r => (r.1, true) }) s) = { s with cores := cores } := by
  induction l generalizing s with
  | nil => exact ⟨s.cores, rfl⟩
  | cons g l ih =>
    obtain ⟨cores, h⟩ := ih (s.modCtxAt (splitAgent g.owner).1 (splitAgent g.owner).2 fun c =>
      { c with reserve := c.reserve.map fun r => (r.1, true) })
    exact ⟨cores, h⟩

theorem suspendsLeave (s : State) (die : Fin 4) : SuspendsLeave die s (s.suspendReservations die) := by
  unfold State.suspendReservations
  dsimp only
  obtain ⟨cores, h⟩ := suspend_fold ((s.dieAt die).grants.filter (·.reservation))
    (s.modDie die fun d => { d with grants := d.grants.filter fun g => !g.reservation })
  have hd := leaveOnly_grant s die (fun d => d.waiting) fun d => d.grants.filter fun g => !g.reservation
  have hg : ((s.modDie die fun d => { d with grants := d.grants.filter fun g => !g.reservation }).dieAt die).grants =
      (s.dieAt die).grants.filter fun g => !g.reservation := by rw [dieAt_modDie_self]
  rw [h]
  refine ⟨⟨rfl, rfl, fun _ h => h, hd.die⟩, rfl, fun g h => ?_⟩
  have h := hg ▸ h
  simpa using (List.mem_filter.mp h).2

/-- A request of the owner has waited 65,536 cycles, and counts as class 0 from now on. -/
def aged (s : State) (die : Fin 4) (owner : Nat) : State :=
  s.modDie die fun d => { d with waiting := modFirst (fun r => r.owner == owner) (fun r => { r with aged := true }) d.waiting }

/-- The die whose governor, and the owner whose request, the event of aging looks at. -/
def agingDie (a : EvArgs) : Fin 4 := if a.flag then a.die else dieOf a.core
def agingOwner (a : EvArgs) : Nat := if a.flag then engineOwner a.id else agentOf a.core a.ctx

theorem exec_leaveAging (s : State) : exec .leaveAging s =
    if ((s.dieAt (agingDie s.arg)).waiting.any fun r => r.owner == agingOwner s.arg && decide (r.since + 131072 ≤ s.now)) then
      .next (((aged s (agingDie s.arg) (agingOwner s.arg)).suspendReservations (agingDie s.arg)).leaveGrantAll (agingDie s.arg))
    else .next s := rfl

theorem suspendsLeave_aging (s : State) (die : Fin 4) (owner : Nat) :
    SuspendsLeave die s (((aged s die owner).suspendReservations die).leaveGrantAll die) := by
  have ha : LeaveOnly s (aged s die owner) := leaveOnly_grant s die _ fun d => d.grants
  have hs := suspendsLeave (aged s die owner) die
  have hg := grantsLeave_leaveGrantAll ((aged s die owner).suspendReservations die) die
  exact ⟨ha.trans (hs.only.trans hg.only), hg.teams.trans hs.teams, fun g h => (hg.grants g h).elim (hs.grants g) id⟩

/-! ## The events of the governor -/

/-- Memory, records, teams and the limits of every die stand. -/
def Idle (s t : State) : Prop := t.mem = s.mem ∧ t.recs = s.recs ∧ t.teams = s.teams ∧ ∀ d,
  (t.dieAt d).limit = (s.dieAt d).limit ∧ (t.dieAt d).cap = (s.dieAt d).cap

theorem LeaveOnly.idle {s t : State} (h : LeaveOnly s t) (ht : t.teams = s.teams) : Idle s t :=
  ⟨h.mem, h.recs, ht, fun d => ⟨(h.die d).2.2.1, (h.die d).1⟩⟩

/-- A request that nothing waits before and that fits is granted at once. -/
theorem leaveAsk_fits {s : State} {die : Fin 4} {cls : BitVec 2} (pri : Nat) {c : Fin 192} {x : Fin 4} (hn : (s.dieAt die).waiting = [])
    (hl : (s.dieAt die).outstanding + leaveWeight cls ≤ (s.dieAt die).limit.toNat) :
    s.leaveAsk die cls pri (agentOf c x) = granted (asked s die cls pri c x) die ⟨cls, pri, s.now, false, agentOf c x⟩ := by
  rw [leaveAsk_nil hn, leaveGrantAll_singleton (r := ⟨cls, pri, s.now, false, agentOf c x⟩) (by simp [hn]), dieAt_asked]
  exact if_neg (Nat.not_lt.mpr hl)

/-- One that does not fit waits. -/
theorem leaveAsk_waits {s : State} {die : Fin 4} {cls : BitVec 2} (pri : Nat) {c : Fin 192} {x : Fin 4} (hn : (s.dieAt die).waiting = [])
    (hl : (s.dieAt die).limit.toNat < (s.dieAt die).outstanding + leaveWeight cls) :
    s.leaveAsk die cls pri (agentOf c x) = asked s die cls pri c x := by
  rw [leaveAsk_nil hn, leaveGrantAll_singleton (r := ⟨cls, pri, s.now, false, agentOf c x⟩) (by simp [hn]), dieAt_asked]
  exact if_pos hl

theorem any_aged_iff {s : State} {die : Fin 4} {owner : Nat} :
    ((s.dieAt die).waiting.any fun r => r.owner == owner && decide (r.since + 131072 ≤ s.now)) = true ↔
      ∃ r ∈ (s.dieAt die).waiting, r.owner = owner ∧ r.since + 131072 ≤ s.now := by
  simp only [List.any_eq_true, Bool.and_eq_true, beq_iff_eq, decide_eq_true_eq]

theorem leaveEvents : Claims.LeaveEvents := by
  intro s a die me
  refine ⟨⟨_, rfl, ?_, fun h => leaveAsk_waiting h, fun hn hl => ?_, fun hn hl => ?_⟩, ⟨_, rfl, ?_, settled_leaveGrantAll s a.die⟩, ?_⟩
  · have h := grantsLeave_leaveAsk s die a.cls (((s.recAt a.core a.ctx).map (·.pri)).getD 0) me
    exact h.only.idle h.teams
  · rw [leaveAsk_fits _ hn hl, dieAt_granted, dieAt_asked]
    exact ⟨by simp [hn], rfl, ctxAt_leaveTell ..⟩
  · rw [leaveAsk_waits _ hn hl, dieAt_asked]
    exact ⟨⟨_, by rw [hn]; rfl, rfl, rfl, rfl⟩, rfl⟩
  · have h := grantsLeave_leaveGrantAll s a.die
    exact h.only.idle h.teams
  · have hdie (hf : a.flag = false) : agingDie s.arg = die := by simp [agingDie, a, die, hf]
    have hme (hf : a.flag = false) : agingOwner s.arg = me := by simp [agingOwner, a, me, hf]
    rw [exec_leaveAging]
    split
    · next h =>
      have hk := suspendsLeave_aging s (agingDie s.arg) (agingOwner s.arg)
      refine ⟨_, rfl, hk.only.idle hk.teams, fun hf hw => ?_, fun hf _ => ?_⟩
      · obtain ⟨r, hr, ho, hn⟩ := any_aged_iff.mp h
        rw [hdie hf] at hr
        exact absurd (hw r hr (ho.trans (hme hf))) (Nat.not_lt.mpr hn)
      · rw [← hdie hf]
        exact ⟨settled_leaveGrantAll _ _, hk.grants⟩
    · next h =>
      refine ⟨s, rfl, (LeaveOnly.refl s).idle rfl, fun _ _ => rfl, fun hf hw => absurd (any_aged_iff.mpr ?_) h⟩
      rw [hdie hf, hme hf]
      exact hw

/-! ## Reservations (17 R418) -/

theorem leaveUnreserve_ctx (s : State) : s.leaveUnreserve.ctx = { s.ctx with reserve := none } :=
  ctx_modCtx _ _

theorem yLeave_issues {s : State} {cls : BitVec 2} (h : leaveReserveCheck cls s = .go ∨ s.issued = true) :
    exec (.yLeave cls) s = .next (s.leaveReserve cls) := by
  have he : exec (.yLeave cls) s = guarded (leaveReserveCheck cls) (fun s => s.leaveReserve cls) s := rfl
  rw [he]
  unfold guarded
  rcases h with h | h <;> simp [h]

theorem leaveReserve_go {s : State} {cls : BitVec 2} (h : leaveReserveCheck cls s = .go) :
    (s.leaveReserve cls).ctx.reserve = some (cls, false) ∧ (s.leaveReserve cls).ctx.rereserve = none ∧
      (s.leaveReserve cls).mem = s.mem ∧ (s.leaveReserve cls).recs = s.recs := by
  have hc : ¬ (leaveCheck cls s.leaveUnreserve != .go) = true := by simpa [leaveReserveCheck] using h
  unfold State.leaveReserve
  dsimp only
  rw [if_neg hc]
  refine ⟨by rw [ctx_modCtx], by rw [ctx_modCtx], ?_, ?_⟩ <;>
  · unfold State.leaveTake
    split
    · rfl
    · split <;> rfl

theorem leaveReserve_stall {s : State} {cls : BitVec 2} (h : leaveReserveCheck cls s ≠ .go) :
    s.leaveReserve cls = s.leaveUnreserve.modCtx fun c => { c with rereserve := some cls } := by
  unfold State.leaveReserve
  dsimp only
  rw [if_pos (by simpa [leaveReserveCheck] using h)]

theorem leaveUnreserve_grants (s : State) :
    ∀ g ∈ (s.leaveUnreserve.dieAt (dieOf s.curCore)).grants, g.owner = s.curAgent → g.reservation = false := by
  intro g hg ho
  have hd : (s.leaveUnreserve.dieAt (dieOf s.curCore)).grants = (s.dieAt (dieOf s.curCore)).grants.filter fun g =>
      !(g.owner == s.curAgent && g.reservation == true) :=
    congrArg (·.grants) (dieAt_modDie_self s (dieOf s.curCore) fun d =>
      { d with grants := d.grants.filter fun g => !(g.owner == s.curAgent && g.reservation == true) })
  rw [hd] at hg
  simpa [ho] using (List.mem_filter.mp hg).2

theorem leaveReservation : Claims.LeaveReservation := by
  intro s cls any
  refine ⟨fun h => ⟨_, yLeave_issues (.inl h), leaveReserve_go h⟩, fun hi h => ⟨_, yLeave_issues (.inr hi), ?_⟩, _, rfl, ?_, ?_, ?_⟩
  · rw [leaveReserve_stall h, ctx_modCtx, leaveUnreserve_ctx]
    exact ⟨rfl, rfl, rfl, rfl⟩
  · have h := grantsLeave_leaveGrantAll s.leaveUnreserve (dieOf s.curCore)
    obtain ⟨hc, hx⟩ := h.issue
    have hr := (h.reserve s.curCore s.curCtx).1
    rw [State.ctx, hc, hx]
    exact hr.trans (congrArg (·.reserve) (leaveUnreserve_ctx s))
  · exact (grantsLeave_leaveGrantAll s.leaveUnreserve (dieOf s.curCore)).only.mem
  · intro g hg ho
    exact ((grantsLeave_leaveGrantAll ..).grants g hg).elim (fun h => leaveUnreserve_grants s g h ho) id

/-- Settles O31, by induction on the number of requests that the governor may still grant. -/
theorem leaveReservationsAndGrants : Obligations.LeaveReservationsAndGrants := ⟨leaveReservation, leaveEvents⟩

end Sys2Proof.Proofs
end

section
/-! SUPPORT. Memory in its canonical form: what an update of a state, a fold and an answer keep (log entry 1). -/

namespace Sys2Proof.Proofs

open Sys2Proof Sys2Proof.Machine Sys2Proof.Claims Sys2Proof.Laws

theorem canonical_of_eq {s t : State} (h : MemoryCanonical s) (hm : t.mem.bytes = s.mem.bytes) (hh : t.hostMem = s.hostMem) :
    MemoryCanonical t := by
  unfold MemoryCanonical
  rw [hm, hh]
  exact h

@[simp] theorem wf_bytes_of_canonical {s : State} (h : MemoryCanonical s) : Memory.wf s.mem.bytes = true := h.1

@[simp] theorem wf_hostMem_of_canonical {s : State} (h : MemoryCanonical s) : Memory.wf s.hostMem = true := h.2

@[simp] theorem canonical_mk_iff
    (now power mem cores dies recs teams grids fifo jobs plans dctxs regs save sec errs fz hostMem atsGrants nextId
   frames agenda timers arg busy curCore curCtx curLeaf curBix curHeader curWord issued latched ctlOld touched freeCounter) :
  MemoryCanonical ⟨now, power, mem, cores, dies, recs, teams, grids, fifo, jobs, plans, dctxs, regs, save, sec, errs, fz,
    hostMem, atsGrants, nextId,
   frames, agenda, timers, arg, busy, curCore, curCtx, curLeaf, curBix, curHeader, curWord, issued, latched, ctlOld, touched,
     freeCounter⟩ ↔ Memory.wf mem.bytes = true ∧ Memory.wf hostMem = true := Iff.rfl

@[simp] theorem canonical_modMem {s : State} {f : MemSys → MemSys} :
    MemoryCanonical (s.modMem f) ↔ Memory.wf (f s.mem).bytes = true ∧ Memory.wf s.hostMem = true := Iff.rfl

@[simp] theorem canonical_and_iff {s : State} : (Memory.wf s.mem.bytes = true ∧ Memory.wf s.hostMem = true) ↔ MemoryCanonical s :=
  Iff.rfl

@[simp] theorem canonical_ite {p : Prop} [Decidable p] {s t : State} :
    MemoryCanonical (if p then s else t) ↔ (p → MemoryCanonical s) ∧ (¬ p → MemoryCanonical t) := by split <;> simp [*]

@[simp] theorem canonical_foldl_iff {α : Type} {f : State → α → State} (hf : ∀ s a, MemoryCanonical
    (f s a) ↔ MemoryCanonical s) (l : List α)
    (s : State) : MemoryCanonical (l.foldl f s) ↔ MemoryCanonical s := by
  induction l generalizing s with
  | nil => rfl
  | cons a l ih => exact (ih _).trans (hf s a)

@[simp] theorem canonical_foldl_snd_iff {α β : Type} {f : β × State → α → β × State}
    (hf : ∀ p a, MemoryCanonical (f p a).2 ↔ MemoryCanonical p.2) (l : List α) (p : β × State) :
    MemoryCanonical (l.foldl f p).2 ↔ MemoryCanonical p.2 := by
  induction l generalizing p with
  | nil => rfl
  | cons a l ih => exact (ih _).trans (hf p a)

@[simp] theorem canonical_ite_snd {β : Type} {p : Prop} [Decidable p] {x y : β × State} :
    MemoryCanonical (if p then x else y).2 ↔ (p → MemoryCanonical x.2) ∧ (¬ p → MemoryCanonical y.2) := by split <;> simp [*]

@[simp] theorem canonical_ite_snd_snd {β γ : Type} {p : Prop} [Decidable p] {x y : β × γ × State} :
    MemoryCanonical (if p then x else y).2.2 ↔ (p → MemoryCanonical x.2.2) ∧ (¬ p → MemoryCanonical y.2.2) := by
  split <;> simp [*]

theorem canonical_foldl {α : Type} {f : State → α → State} (hf : ∀ s a, MemoryCanonical s → MemoryCanonical (f s a)) (l : List α)
    {s : State} (hs : MemoryCanonical s) : MemoryCanonical (l.foldl f s) :=
  List.foldlRecOn l f hs fun s hs a _ => hf s a hs

theorem canonical_foldl_snd {α β : Type} {f : β × State → α → β × State}
    (hf : ∀ p a, MemoryCanonical p.2 → MemoryCanonical (f p a).2) (l : List α) {p : β × State} (hp : MemoryCanonical p.2) :
    MemoryCanonical (l.foldl f p).2 :=
  List.foldlRecOn (motive := fun p => MemoryCanonical p.2) l f hp fun p hp a _ => hf p a hp

/-- An error answers what `E` says, a value what `P` says. -/
def Answers {ε α : Type} (r : Except ε α) (E : ε → Prop) (P : α → Prop) : Prop :=
  match r with
  | .error e => E e
  | .ok a => P a

@[simp] theorem answers_ok {ε α : Type} {E : ε → Prop} {P : α → Prop} {a : α} : Answers (.ok a) E P ↔ P a := Iff.rfl

@[simp] theorem answers_pure {ε α : Type} {E : ε → Prop} {P : α → Prop} {a : α} : Answers (pure a) E P ↔ P a := Iff.rfl

@[simp] theorem answers_error {ε α : Type} {E : ε → Prop} {P : α → Prop} {e : ε} : Answers (.error e) E P ↔ E e := Iff.rfl

theorem answers_bind {ε α β : Type} {E : ε → Prop} {P : α → Prop} {Q : β → Prop} {r : Except ε α} {f : α → Except ε β}
    (h : Answers r E P) (hf : ∀ a, P a → Answers (f a) E Q) : Answers (r >>= f) E Q := by
  cases r with
  | error e => exact h
  | ok a => exact hf a h

@[simp] theorem answers_ite {ε α : Type} {E : ε → Prop} {P : α → Prop} {p : Prop} [Decidable p] {r q : Except ε α}
    (hr : Answers r E P) (hq : Answers q E P) : Answers (if p then r else q) E P := by split <;> assumption

theorem answers_map {ε α β : Type} {E : ε → Prop} {P : α → Prop} {Q : β → Prop} {r : Except ε α} {f : α → β}
    (h : Answers r E P) (hf : ∀ a, P a → Q (f a)) : Answers (r.map f) E Q := by
  cases r with
  | error e => exact h
  | ok a => exact hf a h

theorem answers_foldlM {ε α β : Type} {E : ε → Prop} {P : β → Prop} {f : β → α → Except ε β}
    (hf : ∀ b a, P b → Answers (f b a) E P) (l : List α) {b : β} (hb : P b) : Answers (l.foldlM f b) E P := by
  induction l generalizing b with
  | nil => exact hb
  | cons a l ih => exact answers_bind (hf b a hb) fun c hc => ih hc

/-- Memory is canonical in the next state, where there is one. -/
def NextCanonical (o : Res) : Prop := ∀ t, o = .next t → MemoryCanonical t

@[simp] theorem nextCanonical_next {s : State} : NextCanonical (.next s) ↔ MemoryCanonical s := by simp [NextCanonical]

@[simp] theorem nextCanonical_fault (r : Fault) : NextCanonical (.fault r) := by simp [NextCanonical]

@[simp] theorem nextCanonical_refused (r : Refusal) : NextCanonical (.refused r) := by simp [NextCanonical]

@[simp] theorem nextCanonical_ite {p : Prop} [Decidable p] {s t : Res} (hs : NextCanonical s) (ht : NextCanonical t) :
    NextCanonical (if p then s else t) := by split <;> assumption

/-- Memory stays canonical in every state that an engine's work answers. -/
def WorkCanonical : Work → Prop
  | .again s => MemoryCanonical s
  | .await s => MemoryCanonical s
  | .done _ s => MemoryCanonical s

@[simp] theorem workCanonical_again {s : State} : WorkCanonical (.again s) ↔ MemoryCanonical s := Iff.rfl

@[simp] theorem workCanonical_await {s : State} : WorkCanonical (.await s) ↔ MemoryCanonical s := Iff.rfl

@[simp] theorem workCanonical_done {s : State} {n : Nat} : WorkCanonical (.done n s) ↔ MemoryCanonical s := Iff.rfl

end Sys2Proof.Proofs
end

section
/-! SUPPORT. Canonical memory: granules, coherence, the accesses and the shared operations. -/

namespace Sys2Proof.Proofs

open Sys2Proof Sys2Proof.Machine Sys2Proof.Claims Sys2Proof.Laws

section
variable {s : State} (hs : MemoryCanonical s)
include hs

/-! ### Sys2Proof/Machine/Base.lean -/

omit hs in
@[simp] theorem canonical_modCoreAt (c : Fin 192) (f : Core → Core) : MemoryCanonical (s.modCoreAt c f) ↔ MemoryCanonical s := by
  simp [State.modCoreAt]

omit hs in
@[simp] theorem canonical_modCore (f : Core → Core) : MemoryCanonical (s.modCore f) ↔ MemoryCanonical s := by simp [State.modCore]

omit hs in
@[simp] theorem canonical_modCtxAt (c : Fin 192) (x : Fin 4) (f : Ctx → Ctx) :
    MemoryCanonical (s.modCtxAt c x f) ↔ MemoryCanonical s := by
  simp [State.modCtxAt]

omit hs in
@[simp] theorem canonical_modCtx (f : Ctx → Ctx) : MemoryCanonical (s.modCtx f) ↔ MemoryCanonical s := by simp [State.modCtx]

omit hs in
@[simp] theorem canonical_at_ (c : Fin 192) (x : Fin 4) : MemoryCanonical (s.at_ c x) ↔ MemoryCanonical s := by simp [State.at_]

omit hs in
@[simp] theorem canonical_touch (va grid : Nat) : MemoryCanonical (s.touch va grid) ↔ MemoryCanonical s := by simp [State.touch]

omit hs in
@[simp] theorem canonical_mapRecs (p : Rec → Bool) (f : Rec → Rec) : MemoryCanonical (s.mapRecs p f) ↔ MemoryCanonical s := by
  simp [State.mapRecs]

omit hs in
@[simp] theorem canonical_addRecs (l : List Rec) : MemoryCanonical (s.addRecs l) ↔ MemoryCanonical s := by simp [State.addRecs]

omit hs in
@[simp] theorem canonical_recSt (c : Fin 192) (x : Fin 4) (st : RecSt) :
    MemoryCanonical (s.recSt c x st) ↔ MemoryCanonical s := by
  simp [State.recSt]

omit hs in
@[simp] theorem canonical_post (e : Instr) (a : EvArgs) : MemoryCanonical (s.post e a) ↔ MemoryCanonical s := by simp [State.post]

omit hs in
@[simp] theorem canonical_postFirst (e : Instr) (a : EvArgs) : MemoryCanonical (s.postFirst e a) ↔ MemoryCanonical s := by
  simp [State.postFirst]

omit hs in
@[simp] theorem canonical_timer (t : Nat) (e : Instr) (a : EvArgs) : MemoryCanonical (s.timer t e a) ↔ MemoryCanonical s := by
  simp [State.timer]

omit hs in
@[simp] theorem canonical_fresh : MemoryCanonical s.fresh.2 ↔ MemoryCanonical s := by simp [State.fresh]

omit hs in
@[simp] theorem canonical_free : MemoryCanonical s.free.2 ↔ MemoryCanonical s := by simp [State.free]

omit hs in
@[simp] theorem canonical_modRec (va grid : Nat) (f : Rec → Rec) : MemoryCanonical (s.modRec va grid f) ↔ MemoryCanonical s := by
  simp [State.modRec]

omit hs in
@[simp] theorem canonical_modTeam (grid num : Nat) (f : Team → Team) :
    MemoryCanonical (s.modTeam grid num f) ↔ MemoryCanonical s := by
  simp [State.modTeam]

omit hs in
@[simp] theorem canonical_modGrid (g : Nat) (f : Grid → Grid) : MemoryCanonical (s.modGrid g f) ↔ MemoryCanonical s := by
  simp [State.modGrid]

omit hs in
@[simp] theorem canonical_modJob (id : Nat) (f : Job → Job) : MemoryCanonical (s.modJob id f) ↔ MemoryCanonical s := by
  simp [State.modJob]

omit hs in
@[simp] theorem canonical_modPlan (id : Nat) (f : Plan → Plan) : MemoryCanonical (s.modPlan id f) ↔ MemoryCanonical s := by
  simp [State.modPlan]

omit hs in
@[simp] theorem canonical_modDctx (d : Nat) (f : DCtx → DCtx) : MemoryCanonical (s.modDctx d f) ↔ MemoryCanonical s := by
  simp [State.modDctx]

omit hs in
@[simp] theorem canonical_modDie (d : Fin 4) (f : Die → Die) : MemoryCanonical (s.modDie d f) ↔ MemoryCanonical s := by
  simp [State.modDie]

omit hs in
@[simp] theorem canonical_modFz (f : Finzon → Finzon) : MemoryCanonical (s.modFz f) ↔ MemoryCanonical s := by simp [State.modFz]

omit hs in
@[simp] theorem canonical_modSec (f : Security → Security) : MemoryCanonical (s.modSec f) ↔ MemoryCanonical s := by
  simp [State.modSec]

/-! ### Sys2Proof/Machine/Report.lean -/

omit hs in
@[simp] theorem canonical_report (cls src fn die agent step : Nat) :
    MemoryCanonical (s.report cls src fn die agent step) ↔ MemoryCanonical s := by
  simp [State.report]

omit hs in
@[simp] theorem canonical_reportPf (cls src die : Nat) : MemoryCanonical (s.reportPf cls src die) ↔ MemoryCanonical s := by
  simp [State.reportPf]

omit hs in
@[simp] theorem canonical_corrected (die n : Nat) : MemoryCanonical (s.corrected die n) ↔ MemoryCanonical s := by
  simp [State.corrected]

omit hs in
@[simp] theorem canonical_msix (fn vec : Nat) : MemoryCanonical (s.msix fn vec) ↔ MemoryCanonical s := by simp [State.msix]

omit hs in
@[simp] theorem canonical_alarmLog (src : AlarmSource) (level : Nat) :
    MemoryCanonical (s.alarmLog src level) ↔ MemoryCanonical s := by
  simp [State.alarmLog]

omit hs in
@[simp] theorem canonical_alarmZeroise : MemoryCanonical s.alarmZeroise ↔ MemoryCanonical s := by simp [State.alarmZeroise]

omit hs in
@[simp] theorem canonical_alarmLock : MemoryCanonical s.alarmLock ↔ MemoryCanonical s := by simp [State.alarmLock]

@[simp] theorem canonical_alarm (src : AlarmSource) : MemoryCanonical (s.alarm src) := by simp [State.alarm, hs]

/-! ### Sys2Proof/Machine/Granule.lean -/

omit hs in
@[simp] theorem canonical_countGran (g dpa : Nat) : MemoryCanonical (s.countGran g dpa) ↔ MemoryCanonical s := by
  unfold State.countGran
  split <;> simp [modStack_bytes]

omit hs in
@[simp] theorem rewriteUnits_bytes (m : MemSys) (l : List Nat) (poison : Bool) : (m.rewriteUnits l poison).bytes = m.bytes := by
  unfold MemSys.rewriteUnits
  induction l generalizing m with
  | nil => rfl
  | cons a l ih => exact (ih _).trans rfl

omit hs in
@[simp] theorem canonical_granRead (g dpa : Nat) : MemoryCanonical (s.granRead g dpa).2.2 ↔ MemoryCanonical s := by
  simp [State.granRead]

@[simp] theorem canonical_granPartial (g dpa : Nat) (et : Bool) (mask : Nat) (data : List Byte) :
    MemoryCanonical (s.granPartial g dpa et mask data).2 := by
  have hc : MemoryCanonical (s.countGran g dpa) := by simp [hs]
  obtain ⟨hb, hh⟩ := hs
  obtain ⟨hcb, hch⟩ := hc
  unfold State.granPartial
  split
  · split
    · exact ⟨writeMasked_wf _ (write_wf _ hcb _) _ _, hch⟩
    · refine ⟨?_, hh⟩
      simp only [State.modMem, modStack_bytes]
      exact writeMasked_wf _ hb _ _
  · exact ⟨writeMasked_wf _ hcb _ _, hch⟩

@[simp] theorem canonical_granStore (g dpa : Nat) (et : Bool) (data : List Byte) :
    MemoryCanonical (s.granStore g dpa et data).2 := by
  unfold State.granStore
  split <;> simp [hs, granWrite_wf]

@[simp] theorem canonical_dpaWrite (g dpa : Nat) (et : Bool) (data : List Byte) :
    MemoryCanonical (s.dpaWrite g dpa et data).2 := by
  simp +contextual [State.dpaWrite, hs, canonical_foldl_snd]

omit hs in
@[simp] theorem canonical_addSubst (agent n : Nat) : MemoryCanonical (s.addSubst agent n) ↔ MemoryCanonical s := by
  unfold State.addSubst
  split <;> simp

@[simp] theorem canonical_performReq (r : MemReq) : MemoryCanonical (s.performReq r) := by
  unfold State.performReq
  split <;> simp [hs, granWrite_wf]

omit hs in
@[simp] theorem canonical_granReads (g : Nat) (bases : List Nat) :
    MemoryCanonical (s.granReads g bases).2 ↔ MemoryCanonical s := by
  simp [State.granReads]

omit hs in
@[simp] theorem canonical_countPoison (g dpa : Nat) : MemoryCanonical (s.countPoison g dpa) ↔ MemoryCanonical s := by
  unfold State.countPoison
  split <;> simp [modStack_bytes]

/-! ### Sys2Proof/Machine/Coherence.lean -/

omit hs in
@[simp] theorem modHome_bytes (m : MemSys) (k : Nat) (f : Home → Home) : (m.modHome k f).bytes = m.bytes := by
  simp [MemSys.modHome]

omit hs in
@[simp] theorem putEntry_bytes (m : MemSys) (e : DirEntry) : (m.putEntry e).bytes = m.bytes := by simp [MemSys.putEntry]

omit hs in
@[simp] theorem ageSet_bytes (m : MemSys) (line old : Nat) : (m.ageSet line old).bytes = m.bytes := by simp [MemSys.ageSet]

omit hs in
@[simp] theorem modEntry_bytes (m : MemSys) (line : Nat) (f : DirEntry → DirEntry) : (m.modEntry line f).bytes = m.bytes := by
  simp [MemSys.modEntry]

omit hs in
@[simp] theorem touch_bytes (m : MemSys) (line : Nat) : (m.touch line).bytes = m.bytes := by
  unfold MemSys.touch
  split <;> simp

omit hs in
@[simp] theorem touchExt_bytes (m : MemSys) (line : Nat) (slot : RaceSlot) : (m.touchExt line slot).bytes = m.bytes := by
  unfold MemSys.touchExt
  split <;> simp

omit hs in
@[simp] theorem dropDie_bytes (m : MemSys) (die line : Nat) : (m.dropDie die line).bytes = m.bytes := by simp [MemSys.dropDie]

omit hs in
@[simp] theorem setDie_bytes (m : MemSys) (die line : Nat) (st : Option LineSt) : (m.setDie die line st).bytes = m.bytes := by
  unfold MemSys.setDie
  split <;> simp

omit hs in
@[simp] theorem modDieLine_bytes (m : MemSys) (die line : Nat) (f : DieLine → DieLine) :
    (m.modDieLine die line f).bytes = m.bytes := by
  simp [MemSys.modDieLine]

omit hs in
@[simp] theorem addSectors_bytes (m : MemSys) (die line : Nat) (hall : Fin 48) (v : BitVec 4) (gran : Nat) (et : Bool) :
    (m.addSectors die line hall v gran et).bytes = m.bytes := by
  simp [MemSys.addSectors]

omit hs in
@[simp] theorem canonical_modDieCores (die : Nat) (f : Core → Core) :
    MemoryCanonical (s.modDieCores die f) ↔ MemoryCanonical s := by
  simp [State.modDieCores]

omit hs in
@[simp] theorem canonical_dropLine (die line : Nat) : MemoryCanonical (s.dropLine die line) ↔ MemoryCanonical s := by
  simp [State.dropLine]

omit hs in
@[simp] theorem canonical_modHot (line : Nat) (f : HotPage → HotPage) :
    MemoryCanonical (s.modHot line f) ↔ MemoryCanonical s := by
  simp [State.modHot]

omit hs in
@[simp] theorem canonical_bumpVersion (line : Nat) : MemoryCanonical (s.bumpVersion line) ↔ MemoryCanonical s := by
  simp [State.bumpVersion]

omit hs in
@[simp] theorem canonical_hotAccess (wing line entry size : Nat) :
    MemoryCanonical (s.hotAccess wing line entry size) ↔ MemoryCanonical s := by
  unfold State.hotAccess
  split
  · rfl
  · dsimp only
    split <;> simp

omit hs in
@[simp] theorem canonical_hotCount (wing line : Nat) (p : Place) :
    MemoryCanonical (s.hotCount wing line p) ↔ MemoryCanonical s := by
  unfold State.hotCount
  split <;> simp

omit hs in
@[simp] theorem canonical_recall (line : Nat) : MemoryCanonical (s.recall line) ↔ MemoryCanonical s := by simp [State.recall]

omit hs in
@[simp] theorem canonical_makeRoomFrom (line extra n : Nat) :
    MemoryCanonical (s.makeRoomFrom line extra n) ↔ MemoryCanonical s := by
  induction n generalizing s with
  | zero => rfl
  | succ n ih =>
    unfold State.makeRoomFrom
    split <;> simp [ih]

omit hs in
@[simp] theorem canonical_makeRoom (line extra : Nat) : MemoryCanonical (s.makeRoom line extra) ↔ MemoryCanonical s := by
  simp [State.makeRoom]

omit hs in
@[simp] theorem putNc_bytes (m : MemSys) (x : NcLine) : (m.putNc x).bytes = m.bytes := by simp [MemSys.putNc]

@[simp] theorem canonical_lineWrite (g : Nat) (et : Bool) (agent line mask : Nat) (bytes : List Byte) :
    MemoryCanonical (s.lineWrite g et agent line mask bytes) := by
  refine canonical_foldl (fun s c hs => ?_) _ hs
  simp [hs, granWrite_wf]

@[simp] theorem canonical_ncWriteback (x : NcLine) : MemoryCanonical (s.ncWriteback x) := by simp [State.ncWriteback, hs]

@[simp] theorem canonical_ncFlush (die : Nat) : MemoryCanonical (s.ncFlush die) := by
  simp +contextual [State.ncFlush, hs, canonical_foldl]

omit hs in
@[simp] theorem canonical_ncInvalidate (die : Nat) : MemoryCanonical (s.ncInvalidate die) ↔ MemoryCanonical s := by
  simp [State.ncInvalidate]

@[simp] theorem canonical_l2Evict (die : Nat) (bit : BitVec 12) : MemoryCanonical (s.l2Evict die bit) := by
  unfold State.l2Evict
  repeat' split
  all_goals simp [*]

@[simp] theorem canonical_l2TrimSlice (die : Nat) (bit : BitVec 12) (n : Nat) : MemoryCanonical (s.l2TrimSlice die bit n) := by
  induction n generalizing s with
  | zero => exact hs
  | succ n ih =>
    unfold State.l2TrimSlice
    split
    · exact hs
    · exact ih (canonical_l2Evict hs die bit)

@[simp] theorem canonical_l2Trim : MemoryCanonical s.l2Trim := by simp +contextual [State.l2Trim, hs, canonical_foldl]

omit hs in
@[simp] theorem canonical_cohRead (die line : Nat) : MemoryCanonical (s.cohRead die line) ↔ MemoryCanonical s := by
  unfold State.cohRead
  dsimp only
  repeat' split
  all_goals simp

omit hs in
@[simp] theorem canonical_cohOwn (die line : Nat) : MemoryCanonical (s.cohOwn die line) ↔ MemoryCanonical s := by
  unfold State.cohOwn
  split <;> simp

@[simp] theorem canonical_ownerWrite (line : Nat) (o : OwnerData) : MemoryCanonical (s.ownerWrite line o) := by
  have h := canonical_foldl (f := fun s a => s.modMem fun m => m.setGran o.gran.toNat a true)
    (fun s a hs => by simp [hs, setGran_bytes]) (sectorGrans o.gran.toNat line o.bad)
    (canonical_lineWrite hs o.gran.toNat o.et o.writer line (sectorBytes (~~~(o.bad ||| o.unheld))) (bytesOf 128 o.data))
  unfold State.ownerWrite
  rw [canonical_modMem]
  refine ⟨?_, h.2⟩
  dsimp only
  rw [write_wf _ h.1]

omit hs in
@[simp] theorem canonical_cohNcWrite (line : Nat) : MemoryCanonical (s.cohNcWrite line) ↔ MemoryCanonical s := by
  simp [State.cohNcWrite]

omit hs in
@[simp] theorem canonical_regRecord (agent line : Nat) (write : Bool) :
    MemoryCanonical (s.regRecord agent line write) ↔ MemoryCanonical s := by
  simp [State.regRecord]

omit hs in
@[simp] theorem canonical_closeRegion (core : Fin 192) (x : Fin 4) :
    MemoryCanonical (s.closeRegion core x) ↔ MemoryCanonical s := by
  simp [State.closeRegion]

/-! ### Sys2Proof/Machine/Operands.lean -/

omit hs in
@[simp] theorem canonical_resultS (slot lat : Nat) (d : Opnd) (ws : Bool) (x : Word) :
    MemoryCanonical (s.resultS slot lat d ws x) ↔ MemoryCanonical s := by
  simp [State.resultS]

omit hs in
@[simp] theorem canonical_resultK (slot lat : Nat) (d : Opnd) (ws : Bool) (x : Word) :
    MemoryCanonical (s.resultK slot lat d ws x) ↔ MemoryCanonical s := by
  simp [State.resultK]

omit hs in
@[simp] theorem canonical_push (slot lat : Nat) (b : Bool) : MemoryCanonical (s.push slot lat b) ↔ MemoryCanonical s := by
  simp [State.push]

omit hs in
@[simp] theorem canonical_openAs (slot : Nat) (d : Dest) (ws : Bool) (f : LongResult → LongResult) :
    MemoryCanonical (s.openAs slot d ws f).2 ↔ MemoryCanonical s := by
  simp [State.openAs]

omit hs in
@[simp] theorem canonical_openLong (slot : Nat) (d : Dest) (ws : Bool) :
    MemoryCanonical (s.openLong slot d ws).2 ↔ MemoryCanonical s := by
  simp [State.openLong]

omit hs in
@[simp] theorem canonical_openArrived (slot : Nat) (d : Dest) (ws : Bool) (data : VReg) (f : LongResult → LongResult) :
    MemoryCanonical (s.openArrived slot d ws data f) ↔ MemoryCanonical s := by
  simp [State.openArrived]

omit hs in
@[simp] theorem canonical_deliver (core : Fin 192) (x : Fin 4) (id : Nat) (data : VReg) :
    MemoryCanonical (s.deliver core x id data) ↔ MemoryCanonical s := by
  simp [State.deliver]

omit hs in
@[simp] theorem canonical_answer (slot : Nat) (d : Dest) (ws : Bool) (x : Word) :
    MemoryCanonical (s.answer slot d ws x) ↔ MemoryCanonical s := by
  simp [State.answer]

/-! ### Sys2Proof/Machine/Access.lean -/

omit hs in
@[simp] theorem canonical_fetch (g line : Nat) (v : BitVec 4) : MemoryCanonical (s.fetch g line v).2 ↔ MemoryCanonical s := by
  simp [State.fetch]

omit hs in
@[simp] theorem canonical_ncRead (die : Nat) (p : Place) (dpa n : Nat) :
    MemoryCanonical (s.ncRead die p dpa n).2.2.2 ↔ MemoryCanonical s := by
  simp [State.ncRead]

omit hs in
@[simp] theorem canonical_l1Seen (core : Fin 192) (line : Nat) : MemoryCanonical (s.l1Seen core line) ↔ MemoryCanonical s := by
  simp [State.l1Seen]

omit hs in
@[simp] theorem canonical_l2Seen (die line : Nat) : MemoryCanonical (s.l2Seen die line) ↔ MemoryCanonical s := by
  unfold State.l2Seen
  repeat' split
  all_goals simp

omit hs in
@[simp] theorem canonical_coreRead (core : Fin 192) (bypass : Bool) (p : Place) (dpa n : Nat) :
    MemoryCanonical (s.coreRead core bypass p dpa n).2 ↔ MemoryCanonical s := by
  unfold State.coreRead
  dsimp only
  repeat' split
  all_goals simp

@[simp] theorem canonical_ownedWrite (die : Nat) (p : Place) (dpa : Nat) (bs : List Byte) :
    MemoryCanonical (s.ownedWrite die p dpa bs).2 := by
  refine canonical_foldl_snd (fun acc c hs => ?_) _ hs
  dsimp only
  split
  · exact ⟨write_wf _ hs.1 _, hs.2⟩
  · exact canonical_granStore hs _ _ _ _

omit hs in
@[simp] theorem wrote_bytes (m : MemSys) (die : Nat) (hall : Fin 48) (agent : Nat) (p : Place) (dpa n : Nat) :
    (m.wrote die hall agent p dpa n).bytes = m.bytes := by
  simp [MemSys.wrote]

omit hs in
@[simp] theorem canonical_coreTakes (core : Fin 192) (p : Place) (line : Nat) :
    MemoryCanonical (s.coreTakes core p line) ↔ MemoryCanonical s := by simp [State.coreTakes]

omit hs in
@[simp] theorem canonical_ncWrite (core : Fin 192) (agent : Nat) (p : Place) (dpa : Nat) (bs : List Byte) :
    MemoryCanonical (s.ncWrite core agent p dpa bs) ↔ MemoryCanonical s := by
  simp [State.ncWrite]

@[simp] theorem canonical_coreWrite (core : Fin 192) (agent : Nat) (p : Place) (dpa : Nat) (bs : List Byte) :
    MemoryCanonical (s.coreWrite core agent p dpa bs) := by
  unfold State.coreWrite
  dsimp only
  have h : MemoryCanonical ((cutAt 128 dpa bs.length).foldl (fun s c => s.coreTakes core p (c.1 / 128)) s) := by simp [hs]
  split
  · have h' : MemoryCanonical ((cutAt 128 dpa bs.length).foldl (fun s c => s.cohOwn (dieOf core).val (c.1 / 128))
      ((cutAt 128 dpa bs.length).foldl (fun s c => s.coreTakes core p (c.1 / 128)) s)) := by simp [hs]
    simp [h']
  · simp [h]

omit hs in
@[simp] theorem canonical_readSegs (core : Fin 192) (bypass : Bool) (segs : List Seg) :
    MemoryCanonical (s.readSegs core bypass segs).2 ↔ MemoryCanonical s :=
  canonical_foldl_snd_iff (fun _ _ => canonical_foldl_snd_iff (fun _ _ => by simp) _ _) _ _

@[simp] theorem canonical_writeSegs (core : Fin 192) (agent : Nat) (segs : List Seg) (bs : List Byte) :
    MemoryCanonical (s.writeSegs core agent segs bs) := by
  simp +contextual [State.writeSegs, hs, canonical_foldl]

omit hs in
@[simp] theorem canonical_engRead (die : Nat) (segs : List Seg) : MemoryCanonical (s.engRead die segs).2 ↔ MemoryCanonical s :=
  canonical_foldl_snd_iff (fun _ _ => canonical_foldl_snd_iff (fun _ _ => by dsimp only; split <;> simp) _ _) _ _

omit hs in
@[simp] theorem canonical_ncEngWrite (die line off : Nat) (bs : List Byte) :
    MemoryCanonical (s.ncEngWrite die line off bs) ↔ MemoryCanonical s := by
  unfold State.ncEngWrite
  split <;> simp

@[simp] theorem canonical_engWrite (die : Nat) (segs : List Seg) (bs : List Byte) :
    MemoryCanonical (s.engWrite die segs bs).2 := by
  refine canonical_foldl_snd (fun p g hp => ?_) _ hs
  have h := canonical_foldl (f := fun s c => if g.place.c then s.cohNcWrite (c.1 / 128)
    else s.ncEngWrite die (c.1 / 128) (c.1 % 128) ((bs.drop (g.off + c.2.1)).take c.2.2)) (fun s c hs => by simp [hs])
    (cutAt 128 g.place.dpa g.len) hp
  simp [h]

omit hs in
@[simp] theorem canonical_hotSegs (wing : Nat) (segs : List Seg) : MemoryCanonical (s.hotSegs wing segs) ↔ MemoryCanonical s :=
  canonical_foldl_iff (fun _ _ => canonical_foldl_iff (fun _ _ => by simp) _ _) _ _

omit hs in
@[simp] theorem canonical_askLine (kind : Instr) (die : Fin 4) (hall : Fin 48) (line : Nat) :
    MemoryCanonical (s.askLine kind die hall line) ↔ MemoryCanonical s := by
  simp only [State.askLine]
  split <;> simp

omit hs in
@[simp] theorem canonical_askSegs (write : Bool) (die : Fin 4) (hall : Fin 48) (segs : List Seg) :
    MemoryCanonical (s.askSegs write die hall segs) ↔ MemoryCanonical s := by
  refine canonical_foldl_iff (fun s g => ?_) _ _
  split
  · rfl
  · refine canonical_foldl_iff (fun s c => ?_) _ _
    split <;> simp

@[simp] theorem canonical_hotVa (wing : Nat) (who : Who) (n : Need) (va len : Nat) :
    MemoryCanonical (s.hotVa wing who n va len) := by
  unfold State.hotVa
  split <;> simp [hs]

@[simp] theorem answers_vaRead (die : Nat) (who : Who) (va n : Nat) :
    Answers (s.vaRead die who va n) (fun _ => True) fun r => MemoryCanonical r.2 := by
  unfold State.vaRead
  split <;> simp [hs]

@[simp] theorem answers_vaWrite (die : Nat) (who : Who) (va : Nat) (bs : List Byte) :
    Answers (s.vaWrite die who va bs) (fun _ => True) fun r => MemoryCanonical r.2 := by
  unfold State.vaWrite
  split <;> simp [hs]

@[simp] theorem canonical_raiseAt (core : Fin 192) (x : Fin 4) (cause info : Nat) :
    MemoryCanonical (s.raiseAt core x cause info) := by
  simp [State.raiseAt, hs]

@[simp] theorem canonical_raise (cause info : Nat) : MemoryCanonical (s.raise cause info) := by simp [State.raise, hs]

omit hs in
@[simp] theorem canonical_spadSeen (grid team off n : Nat) :
    MemoryCanonical (s.spadSeen grid team off n) ↔ MemoryCanonical s := by
  unfold State.spadSeen
  split <;> simp

@[simp] theorem canonical_spadUse (grid team off n : Nat) : MemoryCanonical (s.spadUse grid team off n) := by
  simp [State.spadUse, hs]

omit hs in
@[simp] theorem canonical_modCurTeam (f : Team → Team) : MemoryCanonical (s.modCurTeam f) ↔ MemoryCanonical s := by
  unfold State.modCurTeam
  split <;> simp

@[simp] theorem canonical_readRoute (bypass : Bool) (r : Route) (len : Nat) : MemoryCanonical (s.readRoute bypass r len).2 := by
  unfold State.readRoute
  repeat' split
  all_goals simp [*]

@[simp] theorem canonical_writeRoute (r : Route) (bs : List Byte) : MemoryCanonical (s.writeRoute r bs) := by
  unfold State.writeRoute
  split <;> simp [hs]

@[simp] theorem canonical_registerSegs (segs : List Seg) (write : Bool) : MemoryCanonical (s.registerSegs segs write) := by
  simp +contextual [State.registerSegs, hs, canonical_foldl]

@[simp] theorem canonical_registerAll (l : List (Bool × Seg)) : MemoryCanonical (s.registerAll l) := by
  simp +contextual [State.registerAll, hs, canonical_foldl]

@[simp] theorem canonical_registerRoute (r : Route) (write : Bool) : MemoryCanonical (s.registerRoute r write) := by
  unfold State.registerRoute
  split <;> simp [hs]

/-! ### Sys2Proof/Machine/Ops.lean -/

omit hs in
@[simp] theorem canonical_addBusy (c : Fin 192) : MemoryCanonical (s.addBusy c) ↔ MemoryCanonical s := by simp [State.addBusy]

omit hs in
@[simp] theorem canonical_addBusyHall (h : Nat) : MemoryCanonical (s.addBusyHall h) ↔ MemoryCanonical s := by
  simp [State.addBusyHall]

omit hs in
@[simp] theorem canonical_addBusyNat (c : Nat) : MemoryCanonical (s.addBusyNat c) ↔ MemoryCanonical s := by
  unfold State.addBusyNat
  split <;> simp

omit hs in
@[simp] theorem canonical_recReady (va grid : Nat) : MemoryCanonical (s.recReady va grid) ↔ MemoryCanonical s := by
  unfold State.recReady
  repeat' split
  all_goals simp

omit hs in
@[simp] theorem canonical_recWake (va grid : Nat) : MemoryCanonical (s.recWake va grid) ↔ MemoryCanonical s := by
  unfold State.recWake
  repeat' split
  all_goals simp

omit hs in
@[simp] theorem canonical_repollHall (hall : Fin 48) : MemoryCanonical (s.repollHall hall) ↔ MemoryCanonical s := by
  unfold State.repollHall
  split <;> simp

omit hs in
@[simp] theorem canonical_repollLater : MemoryCanonical s.repollLater ↔ MemoryCanonical s := by simp [State.repollLater]

omit hs in
@[simp] theorem canonical_repollRec (va grid : Nat) : MemoryCanonical (s.repollRec va grid) ↔ MemoryCanonical s := by
  unfold State.repollRec
  repeat' split
  all_goals simp

@[simp] theorem canonical_raiseRec (va grid cause info : Nat) : MemoryCanonical (s.raiseRec va grid cause info) := by
  unfold State.raiseRec
  repeat' split
  all_goals simp [*]

omit hs in
@[simp] theorem canonical_leaveWithdraw (c : Fin 192) (x : Fin 4) :
    MemoryCanonical (s.leaveWithdraw c x) ↔ MemoryCanonical s := by
  unfold State.leaveWithdraw
  split <;> simp

omit hs in
@[simp] theorem canonical_leaveForget (die : Fin 4) (owner : Nat) :
    MemoryCanonical (s.leaveForget die owner) ↔ MemoryCanonical s := by
  unfold State.leaveForget
  split <;> simp

omit hs in
@[simp] theorem canonical_leaveForgetJobs (gone : List Job) : MemoryCanonical (s.leaveForgetJobs gone) ↔ MemoryCanonical s := by
  simp [State.leaveForgetJobs]

omit hs in
@[simp] theorem canonical_leaveGiveBack (c : Fin 192) (x : Fin 4) :
    MemoryCanonical (s.leaveGiveBack c x) ↔ MemoryCanonical s := by
  unfold State.leaveGiveBack
  split <;> simp

omit hs in
@[simp] theorem canonical_leaveDrop (c : Fin 192) (x : Fin 4) : MemoryCanonical (s.leaveDrop c x) ↔ MemoryCanonical s := by
  unfold State.leaveDrop
  split <;> simp

omit hs in
@[simp] theorem canonical_leaveRelease (die : Fin 4) (owner : Nat) (reservation : Bool) :
    MemoryCanonical (s.leaveRelease die owner reservation) ↔ MemoryCanonical s := by
  simp [State.leaveRelease]

omit hs in
@[simp] theorem canonical_engineFree (c : Fin 192) : MemoryCanonical (s.engineFree c) ↔ MemoryCanonical s := by
  simp [State.engineFree]

omit hs in
@[simp] theorem canonical_vacate (c : Fin 192) (x : Fin 4) : MemoryCanonical (s.vacate c x) ↔ MemoryCanonical s := by
  simp [State.vacate]

omit hs in
@[simp] theorem canonical_killCtx (c : Fin 192) (x : Fin 4) : MemoryCanonical (s.killCtx c x) ↔ MemoryCanonical s := by
  unfold State.killCtx
  split <;> simp

omit hs in
@[simp] theorem canonical_killGrid (g status : Nat) : MemoryCanonical (s.killGrid g status) ↔ MemoryCanonical s := by
  unfold State.killGrid
  repeat' split
  all_goals simp

omit hs in
@[simp] theorem canonical_poisonReport (c : Fin 192) (x : Fin 4) : MemoryCanonical (s.poisonReport c x) ↔ MemoryCanonical s := by
  simp [State.poisonReport]

omit hs in
@[simp] theorem canonical_killThread (c : Fin 192) (x : Fin 4) : MemoryCanonical (s.killThread c x) ↔ MemoryCanonical s := by
  unfold State.killThread
  split <;> simp

@[simp] theorem answers_frameWrite (die grid team : Nat) (fsp : Bool) (addr : Nat) (bs : List Byte) :
    Answers (s.frameWrite die grid team fsp addr bs) (fun _ => True) fun r => MemoryCanonical r := by
  grind [Answers, State.frameWrite, canonical_modTeam, answers_vaWrite]

@[simp] theorem canonical_frameSeen (grid team : Nat) (fsp : Bool) (addr n : Nat) :
    MemoryCanonical (s.frameSeen grid team fsp addr n) := by
  simp [State.frameSeen, hs]

omit hs in
@[simp] theorem canonical_keepContext (c : Fin 192) (x : Fin 4) (r : Rec) (info : Nat) :
    MemoryCanonical (s.keepContext c x r info) ↔ MemoryCanonical s := by
  simp [State.keepContext]

@[simp] theorem answers_saveContext (c : Fin 192) (x : Fin 4) (fsp : Bool) (addr info : Nat) :
    Answers (s.saveContext c x fsp addr info) (fun _ => True) fun r => MemoryCanonical r := by
  grind [Answers, State.saveContext, answers_frameWrite, canonical_keepContext]

theorem canonical_handlerCreate (grid team core hall bix seg : Nat) (home : Bool) (pri arg : Nat) :
    ∀ r, (s.handlerCreate grid team core hall bix seg home pri arg) = some r → MemoryCanonical r := by
  unfold State.handlerCreate
  split <;> simp [hs]

@[simp] theorem canonical_forward (r : Rec) (entry : Nat) : MemoryCanonical (s.forward r entry) := by
  grind [State.forward, canonical_handlerCreate, canonical_modTeam]

omit hs in
@[simp] theorem canonical_ensureTeam (grid num : Nat) : MemoryCanonical (s.ensureTeam grid num) ↔ MemoryCanonical s := by
  unfold State.ensureTeam
  repeat' split
  all_goals simp

omit hs in
@[simp] theorem canonical_holdFor (grid num : Nat) : MemoryCanonical (s.holdFor grid num) ↔ MemoryCanonical s := by
  unfold State.holdFor
  split <;> simp

@[simp] theorem canonical_mirrorImage (grid team off : Nat) (bs : List Byte) :
    MemoryCanonical (s.mirrorImage grid team off bs) := by
  grind [Answers, State.mirrorImage, answers_vaWrite]

@[simp] theorem canonical_postFlag (grid team flag : Nat) : MemoryCanonical (s.postFlag grid team flag) := by
  simp [State.postFlag, hs]

omit hs in
@[simp] theorem canonical_trapReplay (c : Fin 192) (x : Fin 4) : MemoryCanonical (s.trapReplay c x) ↔ MemoryCanonical s := by
  unfold State.trapReplay
  split <;> simp

@[simp] theorem canonical_trapPark (c : Fin 192) (x : Fin 4) (entry info : Nat) :
    MemoryCanonical (s.trapPark c x entry info) := by
  grind [Answers, State.trapPark, answers_saveContext, canonical_postFlag,
    canonical_killThread, canonical_forward, canonical_modRec, canonical_vacate, canonical_modCtxAt]

omit hs in
@[simp] theorem canonical_freeInfo (cause : Nat) : MemoryCanonical (s.freeInfo cause).2 ↔ MemoryCanonical s := by
  unfold State.freeInfo
  split <;> simp

@[simp] theorem canonical_takeTrapAt (c : Fin 192) (x : Fin 4) (cause info : Nat) :
    MemoryCanonical (s.takeTrapAt c x cause info) := by
  grind [State.takeTrapAt, canonical_leaveGiveBack,
    canonical_trapReplay, canonical_freeInfo, canonical_killThread, canonical_modCoreAt, canonical_trapPark,
      canonical_leaveWithdraw, canonical_modCtxAt]

@[simp] theorem canonical_settleLeaving (c : Fin 192) (x : Fin 4) : MemoryCanonical (s.settleLeaving c x) := by
  unfold State.settleLeaving
  split <;> simp [hs]

@[simp] theorem canonical_settleAll (l : List (Fin 192 × Fin 4)) : MemoryCanonical (s.settleAll l) := by
  simp +contextual [State.settleAll, hs, canonical_foldl]

@[simp] theorem canonical_takeTrap (cause info : Nat) : MemoryCanonical (s.takeTrap cause info) := by simp [State.takeTrap, hs]

@[simp] theorem canonical_tretDo (a : Nat) : MemoryCanonical (s.tretDo a) := by
  unfold State.tretDo
  split <;> simp [hs]

@[simp] theorem nextCanonical_guarded {check : State → Check} {perform : State → State} (hp : MemoryCanonical (perform s)) :
    NextCanonical (guarded check perform s) := by
  obtain ⟨t, ht, rfl | ⟨cause, info, -, rfl⟩ | ⟨why, info, -, rfl⟩⟩ := guarded_cases check perform s <;> simp [ht, hs, hp]

/-! ### Sys2Proof/Machine/LoadStore.lean -/

@[simp] theorem canonical_releaseAt (scope : Nat) : MemoryCanonical (s.releaseAt scope) := by simp [State.releaseAt, hs]

omit hs in
@[simp] theorem canonical_acquireAt (scope : Nat) : MemoryCanonical (s.acquireAt scope) ↔ MemoryCanonical s := by
  unfold State.acquireAt
  split <;> simp

omit hs in
@[simp] theorem canonical_syncDone : MemoryCanonical s.syncDone ↔ MemoryCanonical s := by simp [State.syncDone]

omit hs in
@[simp] theorem canonical_longLoad (d : Dest) (ws : Bool) (ea : Nat) (got : Got) (data : VReg) (args : List Nat) :
    MemoryCanonical (s.longLoad d ws ea got data args) ↔ MemoryCanonical s := by
  simp [State.longLoad]

@[simp] theorem canonical_loadFlat (bypass : Bool) (size ea : Nat) (d : Dest) (ws : Bool) (f : Nat → VReg) :
    MemoryCanonical (s.loadFlat bypass size ea d ws f) := by
  unfold State.loadFlat
  repeat' split
  all_goals simp [*]

@[simp] theorem canonical_doLdS (bypass ws : Bool) (d : Opnd) (sz : BitVec 2) (sx : Bool) (ea : Nat) :
    MemoryCanonical (doLdS bypass ws d sz sx ea s) := by
  simp [doLdS, hs]

@[simp] theorem canonical_doLdV (bypass ws : Bool) (d : Opnd) (ea : Nat) : MemoryCanonical (doLdV bypass ws d ea s) := by
  simp [doLdV, hs]

@[simp] theorem canonical_doLdBc (ws : Bool) (d : Opnd) (sz : BitVec 2) (sx : Bool) (ea : Nat) :
    MemoryCanonical (doLdBc ws d sz sx ea s) := by
  simp [doLdBc, hs]

@[simp] theorem canonical_doLdK (ws : Bool) (d : Opnd) (ea : Nat) : MemoryCanonical (doLdK ws d ea s) := by simp [doLdK, hs]

@[simp] theorem canonical_doLdVt (ws : Bool) (d : Opnd) (args : List Nat) : MemoryCanonical (doLdVt ws d args s) := by
  unfold doLdVt
  split <;> simp [hs]

@[simp] theorem canonical_doStVt (d a : Opnd) (k : BitVec 4) : MemoryCanonical (doStVt d a k s) := by
  unfold doStVt
  split <;> simp [hs]

@[simp] theorem canonical_doLdG (ws : Bool) (d : Opnd) (eas : List Nat) (sz : BitVec 2) :
    MemoryCanonical (doLdG ws d eas sz s) := by
  unfold doLdG
  dsimp only
  rw [canonical_longLoad]
  refine List.foldlRecOn (motive := fun acc : List Nat × Got × Option Nat × State => MemoryCanonical acc.2.2.2) _ _ hs fun
    acc hacc ea _ => ?_
  split <;> simp [hacc]

@[simp] theorem canonical_doStSc (d a b : Opnd) (sz : BitVec 2) : MemoryCanonical (doStSc d a b sz s) := by
  refine canonical_foldl (fun s i hs => ?_) _ hs
  dsimp only
  split <;> simp [hs]

@[simp] theorem canonical_storeFlat (rel : Bool) (scope : BitVec 3) (ea : Nat) (bs : List Byte) :
    MemoryCanonical (s.storeFlat rel scope ea bs) := by
  grind [State.storeFlat, canonical_writeRoute,
    canonical_registerRoute, canonical_syncDone, canonical_releaseAt]

omit hs in
@[simp] theorem canonical_dropHint : MemoryCanonical s.dropHint ↔ MemoryCanonical s := by simp [State.dropHint]

@[simp] theorem canonical_prefetch (p : Place) (line : Nat) (l1 : Bool) : MemoryCanonical (s.prefetch p line l1) := by
  simp [State.prefetch, hs]

@[simp] theorem canonical_doPf (ea : Nat) : MemoryCanonical (doPf ea s) := by
  unfold doPf
  repeat' split
  all_goals simp [*]

@[simp] theorem canonical_doRes (a len : Nat) : MemoryCanonical (doRes a len s) := by
  refine canonical_foldl (fun s c hs => ?_) _ hs
  dsimp only
  split
  · simp [hs]
  split
  · exact hs
  split
  · simp [hs]
  · exact canonical_foldl (fun s l hs => by simp [hs]) _ hs

@[simp] theorem canonical_amoHome (p : Place) (dpa n : Nat) (f : Nat → Option Nat) :
    MemoryCanonical (s.amoHome p dpa n f).2.2 := by
  grind [State.amoHome, canonical_countPoison, canonical_granStore,
    canonical_countGran, canonical_cohNcWrite]

@[simp] theorem canonical_cleanGran (g dpa : Nat) : MemoryCanonical (s.cleanGran g dpa) := by
  simp [State.cleanGran, hs, granWrite_wf]

@[simp] theorem canonical_amoDie (core : Fin 192) (agent : Nat) (p : Place) (dpa n : Nat) (f : Nat → Option Nat) :
    MemoryCanonical (s.amoDie core agent p dpa n f).2.2 := by
  have hr : MemoryCanonical (s.coreRead core true p dpa n).2 := by simp [hs]
  have ht : ∀ l : List Nat,
    MemoryCanonical (l.foldl (fun s a => s.cleanGran p.gran a) (s.coreRead core true p dpa n).2) := fun l =>
    canonical_foldl (fun _ _ h => canonical_cleanGran h _ _) l hr
  unfold State.amoDie
  dsimp only
  split
  · simp [hr]
  · split
    · exact ht _
    · exact canonical_coreWrite (ht _) _ _ _ _ _

@[simp] theorem canonical_amoRoute (r : Route) (n : Nat) (f : Nat → Option Nat) : MemoryCanonical (s.amoRoute r n f).2 := by
  unfold State.amoRoute
  dsimp only
  repeat' split
  all_goals simp [*]

@[simp] theorem canonical_doAmo (fn : Nat) (ws : Bool) (d a : Opnd) (w8 : Bool) (ord : BitVec 2) (scope : BitVec 3) (c : Opnd) :
    MemoryCanonical (doAmo fn ws d a w8 ord scope c s) := by
  grind [doAmo, canonical_amoRoute, canonical_registerRoute,
    canonical_openArrived, canonical_syncDone, canonical_releaseAt, canonical_acquireAt]

@[simp] theorem nextCanonical_execLdS (ws : Bool) (d a : Opnd) (sz : BitVec 2) (sx : Bool) (off : BitVec 14) :
    NextCanonical (execLdS ws d a sz sx off s) := by
  simp [execLdS, hs]

@[simp] theorem nextCanonical_execLdSB (ws : Bool) (d a : Opnd) (sz : BitVec 2) (sx : Bool) (off : BitVec 14) :
    NextCanonical (execLdSB ws d a sz sx off s) := by
  simp [execLdSB, hs]

@[simp] theorem nextCanonical_execLdV (ws : Bool) (d a : Opnd) (off : BitVec 14) : NextCanonical (execLdV ws d a off s) := by
  simp [execLdV, hs]

@[simp] theorem nextCanonical_execLdVB (ws : Bool) (d a : Opnd) (off : BitVec 14) : NextCanonical (execLdVB ws d a off s) := by
  simp [execLdVB, hs]

@[simp] theorem nextCanonical_execLdVt (ws : Bool) (d a : Opnd) (n : BitVec 4) : NextCanonical (execLdVt ws d a n s) := by
  simp [execLdVt, hs]

@[simp] theorem nextCanonical_execLdG (ws : Bool) (d a b : Opnd) (sz : BitVec 2) : NextCanonical (execLdG ws d a b sz s) := by
  simp [execLdG, hs]

@[simp] theorem nextCanonical_execLdBc (ws : Bool) (d a : Opnd) (sz : BitVec 2) (sx : Bool) (off : BitVec 14) :
    NextCanonical (execLdBc ws d a sz sx off s) := by
  simp [execLdBc, hs]

@[simp] theorem nextCanonical_execLdK (ws : Bool) (d a : Opnd) (off : BitVec 14) : NextCanonical (execLdK ws d a off s) := by
  simp [execLdK, hs]

@[simp] theorem nextCanonical_execPf (a : Opnd) (off : BitVec 14) : NextCanonical (execPf a off s) := by simp [execPf, hs]

@[simp] theorem nextCanonical_execRes (a b : Opnd) : NextCanonical (execRes a b s) := by simp [execRes, hs]

@[simp] theorem nextCanonical_execStS (d a : Opnd) (sz : BitVec 2) (rel : Bool) (scope : BitVec 3) (off : BitVec 14) :
    NextCanonical (execStS d a sz rel scope off s) := by
  simp [execStS, hs]

@[simp] theorem nextCanonical_execStV (d a : Opnd) (rel : Bool) (scope : BitVec 3) (off : BitVec 14) :
    NextCanonical (execStV d a rel scope off s) := by
  simp [execStV, hs]

@[simp] theorem nextCanonical_execStVt (d a : Opnd) (n : BitVec 4) : NextCanonical (execStVt d a n s) := by simp [execStVt, hs]

@[simp] theorem nextCanonical_execStSc (d a b : Opnd) (sz : BitVec 2) : NextCanonical (execStSc d a b sz s) := by
  simp [execStSc, hs]

@[simp] theorem nextCanonical_execAmoAdd (ws : Bool) (d a : Opnd) (w8 : Bool) (ord : BitVec 2) (scope : BitVec 3) (c : Opnd) :
    NextCanonical (execAmoAdd ws d a w8 ord scope c s) := by
  simp [execAmoAdd, hs]

@[simp] theorem nextCanonical_execAmoMin (ws : Bool) (d a : Opnd) (w8 : Bool) (ord : BitVec 2) (scope : BitVec 3) (c : Opnd) :
    NextCanonical (execAmoMin ws d a w8 ord scope c s) := by
  simp [execAmoMin, hs]

@[simp] theorem nextCanonical_execAmoMax (ws : Bool) (d a : Opnd) (w8 : Bool) (ord : BitVec 2) (scope : BitVec 3) (c : Opnd) :
    NextCanonical (execAmoMax ws d a w8 ord scope c s) := by
  simp [execAmoMax, hs]

@[simp] theorem nextCanonical_execAmoAnd (ws : Bool) (d a : Opnd) (w8 : Bool) (ord : BitVec 2) (scope : BitVec 3) (c : Opnd) :
    NextCanonical (execAmoAnd ws d a w8 ord scope c s) := by
  simp [execAmoAnd, hs]

@[simp] theorem nextCanonical_execAmoOr (ws : Bool) (d a : Opnd) (w8 : Bool) (ord : BitVec 2) (scope : BitVec 3) (c : Opnd) :
    NextCanonical (execAmoOr ws d a w8 ord scope c s) := by
  simp [execAmoOr, hs]

@[simp] theorem nextCanonical_execAmoXor (ws : Bool) (d a : Opnd) (w8 : Bool) (ord : BitVec 2) (scope : BitVec 3) (c : Opnd) :
    NextCanonical (execAmoXor ws d a w8 ord scope c s) := by
  simp [execAmoXor, hs]

@[simp] theorem nextCanonical_execAmoSwap (ws : Bool) (d a : Opnd) (w8 : Bool) (ord : BitVec 2) (scope : BitVec 3) (c : Opnd) :
    NextCanonical (execAmoSwap ws d a w8 ord scope c s) := by
  simp [execAmoSwap, hs]

@[simp] theorem nextCanonical_execAmoCas (ws : Bool) (d a : Opnd) (w8 : Bool) (ord : BitVec 2) (scope : BitVec 3) (c : Opnd) :
    NextCanonical (execAmoCas ws d a w8 ord scope c s) := by
  simp [execAmoCas, hs]

@[simp] theorem canonical_reissue (q : LongResult) : MemoryCanonical (s.reissue q) := by
  unfold State.reissue
  repeat' split
  all_goals simp [*]

/-! ### Sys2Proof/Machine/Life.lean -/

@[simp] theorem answers_vaNum (die : Nat) (who : Who) (va n : Nat) :
    Answers (s.vaNum die who va n) (fun _ => True) fun r => MemoryCanonical r.2 := by
  grind [Answers, State.vaNum, answers_vaRead]

@[simp] theorem answers_sigRead (die : Nat) (who : Who) (dctx idx : Nat) :
    Answers (s.sigRead die who dctx idx) (fun _ => True) fun r => MemoryCanonical r.2 := by
  grind [Answers, State.sigRead, answers_vaNum]

@[simp] theorem answers_sigUpdate (die : Nat) (who : Who) (dctx idx : Nat) (f : Int → Option Int) :
    Answers (s.sigUpdate die who dctx idx f) (fun _ => True) fun r => MemoryCanonical r := by
  have hr := answers_sigRead hs die who dctx idx
  unfold State.sigUpdate
  split
  · simp
  split
  · simp
  case h_2 r h =>
    rw [h, answers_ok] at hr
    split
    · exact hr
    case h_2 x _ =>
      have hw := answers_vaWrite hr die who (s.sigVa dctx idx) (bytesOfNat 8 (wrapN 64 x))
      split
      · simp
      · rename_i w hw'
        rwa [hw'] at hw

@[simp] theorem canonical_barrierUpdate (grid team b pend arr : Nat) :
    MemoryCanonical (s.barrierUpdate grid team b pend arr) := by
  grind [State.barrierUpdate, canonical_modTeam, canonical_postFlag,
    canonical_mirrorImage, canonical_spadSeen]

omit hs in
@[simp] theorem canonical_offerRoom : MemoryCanonical s.offerRoom ↔ MemoryCanonical s := by
  unfold State.offerRoom
  split <;> simp

@[simp] theorem canonical_teamCheck (grid team : Nat) : MemoryCanonical (s.teamCheck grid team) := by
  grind [MemoryCanonical, State.teamCheck, canonical_post, canonical_modGrid,
    canonical_offerRoom, canonical_modCoreAt]

@[simp] theorem canonical_serveOwed (grid team : Nat) : MemoryCanonical (s.serveOwed grid team) := by
  grind [State.serveOwed, canonical_post, canonical_modTeam,
    canonical_forward]

@[simp] theorem canonical_settleKilled (c : Fin 192) (x : Fin 4) : MemoryCanonical (s.settleKilled c x) := by
  unfold State.settleKilled
  split <;> simp [hs]

@[simp] theorem canonical_orphanJobs (r : Rec) : MemoryCanonical (s.orphanJobs r) := by simp [State.orphanJobs, hs]

@[simp] theorem canonical_haltNow (c : Fin 192) (x : Fin 4) : MemoryCanonical (s.haltNow c x) := by
  grind [MemoryCanonical, State.haltNow, canonical_touch, canonical_orphanJobs,
    canonical_modTeam, canonical_serveOwed, canonical_teamCheck, canonical_modRec, canonical_vacate]

/-! ### Sys2Proof/Machine/Leave.lean -/

omit hs in
@[simp] theorem canonical_leaveTell (owner : Nat) (cls : BitVec 2) :
    MemoryCanonical (s.leaveTell owner cls) ↔ MemoryCanonical s := by
  unfold State.leaveTell
  split <;> simp

omit hs in
@[simp] theorem canonical_grantFrom (die : Fin 4) (n : Nat) : MemoryCanonical (State.grantFrom die n s) ↔ MemoryCanonical s := by
  induction n generalizing s with
  | zero => rfl
  | succ n ih =>
    unfold State.grantFrom
    dsimp only
    split
    · rfl
    · split <;> simp [ih]

@[simp] theorem canonical_leaveGrantAll (die : Fin 4) : MemoryCanonical (s.leaveGrantAll die) := by simp [State.leaveGrantAll, hs]

@[simp] theorem canonical_leaveAsk (die : Fin 4) (cls : BitVec 2) (pri owner : Nat) :
    MemoryCanonical (s.leaveAsk die cls pri owner) := by
  simp [State.leaveAsk, hs]

@[simp] theorem canonical_leaveDone (die : Fin 4) (owner : Nat) (cls : BitVec 2) :
    MemoryCanonical (s.leaveDone die owner cls) := by
  simp [State.leaveDone, hs]

omit hs in
@[simp] theorem canonical_leaveTake (cls : BitVec 2) : MemoryCanonical (s.leaveTake cls).2 ↔ MemoryCanonical s := by
  unfold State.leaveTake
  repeat' split
  all_goals simp

@[simp] theorem nextCanonical_execLeaveRequest : NextCanonical (execLeaveRequest s) := by simp [execLeaveRequest, hs]

@[simp] theorem nextCanonical_execLeaveGrant : NextCanonical (execLeaveGrant s) := by simp [execLeaveGrant, hs]

omit hs in
@[simp] theorem canonical_suspendReservations (die : Fin 4) :
    MemoryCanonical (s.suspendReservations die) ↔ MemoryCanonical s := by
  simp [State.suspendReservations]

@[simp] theorem nextCanonical_execLeaveAging : NextCanonical (execLeaveAging s) := by simp [execLeaveAging, hs]

omit hs in
@[simp] theorem canonical_leaveUnreserve : MemoryCanonical s.leaveUnreserve ↔ MemoryCanonical s := by simp [State.leaveUnreserve]

omit hs in
@[simp] theorem canonical_leaveReserve (cls : BitVec 2) : MemoryCanonical (s.leaveReserve cls) ↔ MemoryCanonical s := by
  simp [State.leaveReserve]

@[simp] theorem nextCanonical_execYLeave (cls : BitVec 2) : NextCanonical (execYLeave cls s) := by simp [execYLeave, hs]

@[simp] theorem nextCanonical_execYLeaveRel (_cls : BitVec 2) : NextCanonical (execYLeaveRel _cls s) := by
  simp [execYLeaveRel, hs]

/-! ### Sys2Proof/Machine/Waits.lean -/

@[simp] theorem canonical_tableWrite (dctx va : Nat) (bs : List Byte) : MemoryCanonical (s.tableWrite dctx va bs) := by
  unfold State.tableWrite
  split <;> simp [hs]

@[simp] theorem canonical_planFree (p : Plan) : MemoryCanonical (s.planFree p) := by simp [State.planFree, hs]

@[simp] theorem canonical_waitDone (w : PendingWait) : MemoryCanonical (s.waitDone w) := by
  grind [State.waitDone, canonical_planFree, canonical_syncDone,
    canonical_raise, canonical_modCtx, canonical_acquireAt]

@[simp] theorem canonical_endWait : MemoryCanonical s.endWait := by
  unfold State.endWait
  split <;> simp [hs]

@[simp] theorem canonical_tryWait : MemoryCanonical s.tryWait := by simp [State.tryWait, hs]

@[simp] theorem canonical_beginWait (cond : WaitCond) (d : Dest) (ws : Bool) : MemoryCanonical (s.beginWait cond d ws) := by
  simp [State.beginWait, hs]

@[simp] theorem canonical_lookCtx (a : Nat) : MemoryCanonical (s.lookCtx a) := by simp [State.lookCtx, hs]

@[simp] theorem canonical_lookRec (r : Rec) : MemoryCanonical (s.lookRec r) := by
  unfold State.lookRec
  split <;> simp [hs]

@[simp] theorem nextCanonical_execWaitSatisfied : NextCanonical (execWaitSatisfied s) := by
  simp +contextual [execWaitSatisfied, hs, canonical_foldl]

@[simp] theorem nextCanonical_execSignalWaitRepoll : NextCanonical (execSignalWaitRepoll s) := by
  have h := canonical_foldl (fun s r hs => canonical_lookRec hs r) (s.recs.filter fun
    r => r.hall == s.arg.hall.val && s.onSignal r) hs
  simp only [execSignalWaitRepoll, nextCanonical_next]
  split <;> simp [h]

/-! ### Sys2Proof/Machine/Sync.lean -/

omit hs in
@[simp] theorem canonical_newJob (r : Rec) (tag wantOp cardVa : Nat) (card : Block) (result : Option (Nat × Nat))
    (grant : optParam (Option (BitVec 2)) none) : MemoryCanonical (s.newJob r tag wantOp cardVa card result grant) ↔
      MemoryCanonical s := by
  simp [State.newJob]

@[simp] theorem nextCanonical_execYPost (a : Opnd) (own : Bool) (scope : BitVec 3) (flag : BitVec 5) :
    NextCanonical (execYPost a own scope flag s) := by
  refine nextCanonical_guarded hs ?_
  dsimp only
  split <;> simp [hs]

@[simp] theorem nextCanonical_execYWait (a : Opnd) (scope : BitVec 3) (flag : BitVec 5) :
    NextCanonical (execYWait a scope flag s) := by
  simp [execYWait, hs]

@[simp] theorem canonical_sigRegister (n : Need) (i : Nat) : MemoryCanonical (s.sigRegister n i) := by
  unfold State.sigRegister
  split <;> simp [hs]

@[simp] theorem nextCanonical_execYWaitSig (a : Opnd) (scope : BitVec 3) : NextCanonical (execYWaitSig a scope s) := by
  unfold execYWaitSig
  exact nextCanonical_guarded hs (by simp [hs])

@[simp] theorem nextCanonical_execYFenceAcq (scope : BitVec 3) : NextCanonical (execYFenceAcq scope s) := by
  simp [execYFenceAcq, hs]

@[simp] theorem nextCanonical_execYFenceRel (scope : BitVec 3) : NextCanonical (execYFenceRel scope s) := by
  simp [execYFenceRel, hs]

@[simp] theorem nextCanonical_execYFenceAr (scope : BitVec 3) : NextCanonical (execYFenceAr scope s) := by simp [execYFenceAr, hs]

@[simp] theorem canonical_arrive (a : Opnd) (scope : BitVec 3) (bar : BitVec 8) : MemoryCanonical (s.arrive a scope bar) := by
  grind [State.arrive, canonical_barrierUpdate, canonical_spadUse,
    canonical_syncDone, canonical_releaseAt]

@[simp] theorem nextCanonical_execYBar (a : Opnd) (scope : BitVec 3) (bar : BitVec 8) :
    NextCanonical (execYBar a scope bar s) := by
  simp [execYBar, hs]

@[simp] theorem nextCanonical_execYBarw (a : Opnd) (scope : BitVec 3) (bar : BitVec 8) :
    NextCanonical (execYBarw a scope bar s) := by
  refine nextCanonical_guarded hs ?_
  dsimp only
  split <;> simp [hs]

@[simp] theorem nextCanonical_execYWfe (ws : Bool) (d a : Opnd) : NextCanonical (execYWfe ws d a s) := by simp [execYWfe, hs]

@[simp] theorem canonical_blockWrite (r : Rec) (off : Nat) (bs : List Byte) : MemoryCanonical (s.blockWrite r off bs) := by
  grind [Answers, State.blockWrite, canonical_modTeam, canonical_mirrorImage,
    answers_vaWrite]

@[simp] theorem canonical_orEvl (r : Rec) (bits : Nat) : MemoryCanonical (s.orEvl r bits) := by
  unfold State.orEvl
  repeat' split
  all_goals simp [*]

@[simp] theorem canonical_sevTeam (grid team bits : Nat) : MemoryCanonical (s.sevTeam grid team bits) := by
  unfold State.sevTeam
  rw [canonical_post]
  refine canonical_foldl (fun s r hs => ?_) _ (by simp [hs])
  split <;> simp [hs]

@[simp] theorem nextCanonical_execYSev (a : Opnd) (own : Bool) (ev : BitVec 8) : NextCanonical (execYSev a own ev s) := by
  unfold execYSev
  split <;> simp [hs]

@[simp] theorem nextCanonical_execYSig (a : Opnd) (scope : BitVec 3) : NextCanonical (execYSig a scope s) := by
  unfold execYSig
  refine nextCanonical_guarded hs ?_
  dsimp only
  rw [canonical_syncDone]
  have hr : MemoryCanonical ((s.releaseAt scope.toNat).sigRegister needRW (s.ctx.sGet a).toNat) := by simp [hs]
  generalize (s.releaseAt scope.toNat).sigRegister needRW (s.ctx.sGet a).toNat = r at hr ⊢
  have h := answers_sigUpdate hr (dieOf r.curCore).val r.curWho r.curWho.dctx (s.ctx.sGet a).toNat sigDec
  split
  case h_1 t ht => rwa [ht, answers_ok] at h
  case h_2 => simp [hr]

@[simp] theorem nextCanonical_execYSplit (ws : Bool) (d : Opnd) (n : BitVec 4) : NextCanonical (execYSplit ws d n s) := by
  simp [execYSplit, hs]

@[simp] theorem nextCanonical_execSplitDrainEnd : NextCanonical (execSplitDrainEnd s) := by simp [execSplitDrainEnd, hs]

@[simp] theorem canonical_phaseUse (grid team e n : Nat) : MemoryCanonical (s.phaseUse grid team e n) := by
  simp [State.phaseUse, hs]

omit hs in
@[simp] theorem canonical_setPhase (grid team e : Nat) (p : Phase) :
    MemoryCanonical (s.setPhase grid team e p) ↔ MemoryCanonical s := by
  simp [State.setPhase]

@[simp] theorem canonical_refetch (e : BitVec 3) : MemoryCanonical (s.refetch e) := by
  unfold State.refetch
  split <;> simp [hs]

@[simp] theorem canonical_swap (ws : Bool) (d : Opnd) (e : BitVec 3) : MemoryCanonical (s.swap ws d e) := by
  unfold State.swap
  split <;> simp [hs]

@[simp] theorem nextCanonical_execYSwap (ws : Bool) (d : Opnd) (e : BitVec 3) : NextCanonical (execYSwap ws d e s) := by
  simp [execYSwap, hs]

@[simp] theorem nextCanonical_execYTsrinv (a : Opnd) : NextCanonical (execYTsrinv a s) := by simp [execYTsrinv, hs]

@[simp] theorem nextCanonical_execYTsrinvAll : NextCanonical (execYTsrinvAll s) := by simp [execYTsrinvAll, hs]

/-! ### Sys2Proof/Machine/Banks.lean -/

@[simp] theorem canonical_imageRead (who : Who) (va n : Nat) : MemoryCanonical (s.imageRead who va n).2 := by
  unfold State.imageRead
  split <;> simp [hs]

@[simp] theorem canonical_image (who : Who) (table : Nat) : MemoryCanonical (s.image who table).2 := by simp [State.image, hs]

@[simp] theorem canonical_segEntry (who : Who) (table nseg seg : Nat) : MemoryCanonical (s.segEntry who table nseg seg).2 := by
  unfold State.segEntry
  split <;> simp [hs]

@[simp] theorem canonical_relocValue (who : Who) (img : Image) (vix : Nat) : MemoryCanonical (s.relocValue who img vix).2 := by
  unfold State.relocValue
  split <;> simp [hs]

theorem canonical_relocAll (who : Who) (img : Image) (nb : Nat) (l : List Nat) (bundles : List Block) :
    MemoryCanonical (s.relocAll who img nb l bundles).s := by
  refine List.foldlRecOn (motive := fun acc : Relocated => MemoryCanonical acc.s) _ _ hs fun acc hacc p _ => ?_
  have h := canonical_relocValue hacc who img (bitsN p.1 24 16)
  dsimp only
  split
  · exact hacc
  · split <;> exact h

omit hs in
@[simp] theorem canonical_modBank (c : Fin 192) (b : Fin 2) (f : Bank → Bank) :
    MemoryCanonical (s.modBank c b f) ↔ MemoryCanonical s := by
  simp [State.modBank]

omit hs in
@[simp] theorem canonical_claimBank (c : Fin 192) (b : Fin 2) (dctx table seg : Nat) :
    MemoryCanonical (s.claimBank c b dctx table seg) ↔ MemoryCanonical s := by
  simp [State.claimBank]

omit hs in
@[simp] theorem canonical_bankFails (c : Fin 192) (b : Fin 2) (loaded : Bool) (x : SealCode × Nat × Nat) :
    MemoryCanonical (s.bankFails c b loaded x) ↔ MemoryCanonical s := by
  simp [State.bankFails]

@[simp] theorem canonical_expand (who : Who) (c : Fin 192) (b : Fin 2) (table seg : Nat) :
    MemoryCanonical (s.expand who c b table seg) := by
  unfold State.expand
  have h0 : MemoryCanonical (s.claimBank c b who.dctx table seg) := by simp [hs]
  have h1 := canonical_image h0 who table
  dsimp only
  split
  · rename_i x hx; rw [hx] at h1; simpa using h1
  case h_2 img s1 hx =>
    rw [hx] at h1
    have h2 := canonical_segEntry h1 who table img.nseg seg
    split
    · rename_i y hy; rw [hy] at h2; simpa using h2
    case h_2 e s2 hy =>
      rw [hy] at h2
      split
      · simpa using h2
      have hb : MemoryCanonical (s2.modBank c b fun k =>
          { k with loaded := true, nb := e.nb, nh := e.nh, next := e.next, nseg := img.nseg }) := by simpa using h2
      have h3 := canonical_imageRead hb who e.sva e.slen
      split
      · simpa using h3
      · rename_i y _
        have h4 := canonical_relocAll h3 who img e.nb y.relocs y.bundles
        split <;> simp [h4]

@[simp] theorem canonical_farNbs (who : Who) (c : Fin 192) (b : Fin 2) : MemoryCanonical (s.farNbs who c b).2 := by
  simp +contextual [State.farNbs, hs, canonical_foldl_snd]

@[simp] theorem canonical_seal (who : Who) (c : Fin 192) (b : Fin 2) : MemoryCanonical (s.seal who c b).2 := by
  grind [State.seal, canonical_engWrite, canonical_farNbs,
    canonical_modBank]

@[simp] theorem canonical_startLoad (c : Fin 192) (b : Fin 2) (g seg : Nat) (why : LoadFor) :
    MemoryCanonical (s.startLoad c b g seg why) := by
  unfold State.startLoad
  split <;> simp [hs]

@[simp] theorem canonical_queueLoad (c : Fin 192) (b : Fin 2) (g seg : Nat) (why : LoadFor) :
    MemoryCanonical (s.queueLoad c b g seg why) := by
  simp [State.queueLoad, hs]

theorem canonical_nextLoad (c : Fin 192) (b : Fin 2) (n : Nat) : MemoryCanonical (s.nextLoad c b n) := by
  induction n generalizing s with
  | zero => exact hs
  | succ n ih =>
    unfold State.nextLoad
    dsimp only
    split
    · exact hs
    split
    · exact hs
    split
    · exact ih (by simp [hs])
    split
    · exact ih (by simp [hs])
    · simp [hs]

omit hs in
@[simp] theorem canonical_bankTimer (c : Fin 192) (b : Fin 2) : MemoryCanonical (s.bankTimer c b) ↔ MemoryCanonical s := by
  unfold State.bankTimer
  split <;> simp

@[simp] theorem canonical_serveBank (c : Fin 192) (b : Fin 2) : MemoryCanonical (s.serveBank c b) := by
  grind [State.serveBank, canonical_startLoad]

@[simp] theorem canonical_bankReady (c : Fin 192) (b : Fin 2) : MemoryCanonical (s.bankReady c b) := by
  simp +contextual [State.bankReady, hs, canonical_foldl]

@[simp] theorem canonical_rejected (why : LoadFor) : MemoryCanonical (s.rejected why) := by
  unfold State.rejected
  split <;> simp [hs]

@[simp] theorem nextCanonical_execYIfence : NextCanonical (execYIfence s) := by simp [execYIfence, hs]

@[simp] theorem nextCanonical_execSealComplete : NextCanonical (execSealComplete s) := by
  grind [NextCanonical, execSealComplete, canonical_nextLoad, canonical_seal,
    canonical_rejected, canonical_bankReady, canonical_serveBank]

/-! ### Sys2Proof/Machine/Control.lean -/

@[simp] theorem nextCanonical_compare (cc : Nat) (a b : Word) : NextCanonical (s.compare cc a b) := by simp [State.compare, hs]

@[simp] theorem nextCanonical_vote (sl : VSlot) (b : Bool) : NextCanonical (s.vote sl b) := by simp [State.vote, hs]

@[simp] theorem nextCanonical_execSCmpEqReg (a b : Opnd) : NextCanonical (execSCmpEqReg a b s) := by simp [execSCmpEqReg, hs]

@[simp] theorem nextCanonical_execSCmpNeReg (a b : Opnd) : NextCanonical (execSCmpNeReg a b s) := by simp [execSCmpNeReg, hs]

@[simp] theorem nextCanonical_execSCmpLtReg (a b : Opnd) : NextCanonical (execSCmpLtReg a b s) := by simp [execSCmpLtReg, hs]

@[simp] theorem nextCanonical_execSCmpLeReg (a b : Opnd) : NextCanonical (execSCmpLeReg a b s) := by simp [execSCmpLeReg, hs]

@[simp] theorem nextCanonical_execSCmpGtReg (a b : Opnd) : NextCanonical (execSCmpGtReg a b s) := by simp [execSCmpGtReg, hs]

@[simp] theorem nextCanonical_execSCmpGeReg (a b : Opnd) : NextCanonical (execSCmpGeReg a b s) := by simp [execSCmpGeReg, hs]

@[simp] theorem nextCanonical_execSCmpLtuReg (a b : Opnd) : NextCanonical (execSCmpLtuReg a b s) := by simp [execSCmpLtuReg, hs]

@[simp] theorem nextCanonical_execSCmpLeuReg (a b : Opnd) : NextCanonical (execSCmpLeuReg a b s) := by simp [execSCmpLeuReg, hs]

@[simp] theorem nextCanonical_execSCmpGtuReg (a b : Opnd) : NextCanonical (execSCmpGtuReg a b s) := by simp [execSCmpGtuReg, hs]

@[simp] theorem nextCanonical_execSCmpGeuReg (a b : Opnd) : NextCanonical (execSCmpGeuReg a b s) := by simp [execSCmpGeuReg, hs]

@[simp] theorem nextCanonical_execSCmpEqImm (a : Opnd) (imm : BitVec 14) : NextCanonical (execSCmpEqImm a imm s) := by
  simp [execSCmpEqImm, hs]

@[simp] theorem nextCanonical_execSCmpNeImm (a : Opnd) (imm : BitVec 14) : NextCanonical (execSCmpNeImm a imm s) := by
  simp [execSCmpNeImm, hs]

@[simp] theorem nextCanonical_execSCmpLtImm (a : Opnd) (imm : BitVec 14) : NextCanonical (execSCmpLtImm a imm s) := by
  simp [execSCmpLtImm, hs]

@[simp] theorem nextCanonical_execSCmpLeImm (a : Opnd) (imm : BitVec 14) : NextCanonical (execSCmpLeImm a imm s) := by
  simp [execSCmpLeImm, hs]

@[simp] theorem nextCanonical_execSCmpGtImm (a : Opnd) (imm : BitVec 14) : NextCanonical (execSCmpGtImm a imm s) := by
  simp [execSCmpGtImm, hs]

@[simp] theorem nextCanonical_execSCmpGeImm (a : Opnd) (imm : BitVec 14) : NextCanonical (execSCmpGeImm a imm s) := by
  simp [execSCmpGeImm, hs]

@[simp] theorem nextCanonical_execSCmpLtuImm (a : Opnd) (imm : BitVec 14) : NextCanonical (execSCmpLtuImm a imm s) := by
  simp [execSCmpLtuImm, hs]

@[simp] theorem nextCanonical_execSCmpLeuImm (a : Opnd) (imm : BitVec 14) : NextCanonical (execSCmpLeuImm a imm s) := by
  simp [execSCmpLeuImm, hs]

@[simp] theorem nextCanonical_execSCmpGtuImm (a : Opnd) (imm : BitVec 14) : NextCanonical (execSCmpGtuImm a imm s) := by
  simp [execSCmpGtuImm, hs]

@[simp] theorem nextCanonical_execSCmpGeuImm (a : Opnd) (imm : BitVec 14) : NextCanonical (execSCmpGeuImm a imm s) := by
  simp [execSCmpGeuImm, hs]

@[simp] theorem nextCanonical_execVAny (sl : VSlot) (a : Opnd) : NextCanonical (execVAny sl a s) := by simp [execVAny, hs]

@[simp] theorem nextCanonical_execVAll (sl : VSlot) (a : Opnd) : NextCanonical (execVAll sl a s) := by simp [execVAll, hs]

omit hs in
@[simp] theorem canonical_goto (idx : Nat) : MemoryCanonical (s.goto idx) ↔ MemoryCanonical s := by simp [State.goto]

@[simp] theorem nextCanonical_execSJmp (t : BitVec 11) : NextCanonical (execSJmp t s) := by simp [execSJmp, hs]

@[simp] theorem nextCanonical_execSJal (ws : Bool) (d : Opnd) (t : BitVec 11) : NextCanonical (execSJal ws d t s) := by
  simp [execSJal, hs]

@[simp] theorem nextCanonical_execSJr (a : Opnd) : NextCanonical (execSJr a s) := by simp [execSJr, hs]

@[simp] theorem nextCanonical_execSJbank (seg : BitVec 16) (x : BitVec 11) : NextCanonical (execSJbank seg x s) := by
  simp [execSJbank, hs]

@[simp] theorem canonical_loop (count off : Nat) : MemoryCanonical (s.loop count off) := by simp [State.loop, hs]

@[simp] theorem nextCanonical_execSLoopReg (a : Opnd) (off : BitVec 11) : NextCanonical (execSLoopReg a off s) := by
  simp [execSLoopReg, hs]

@[simp] theorem nextCanonical_execSLoopImm (count : BitVec 20) (off : BitVec 11) : NextCanonical (execSLoopImm count off s) := by
  simp [execSLoopImm, hs]

@[simp] theorem nextCanonical_execSMark (n : BitVec 7) : NextCanonical (execSMark n s) := by simp [execSMark, hs]

@[simp] theorem nextCanonical_execSTrap (n : BitVec 4) : NextCanonical (execSTrap n s) := by simp [execSTrap, hs]

@[simp] theorem nextCanonical_execSTret (a : Opnd) : NextCanonical (execSTret a s) := by simp [execSTret, hs]

@[simp] theorem nextCanonical_execSYield : NextCanonical (execSYield s) := by simp [execSYield, hs]

@[simp] theorem nextCanonical_execSHalt : NextCanonical (execSHalt s) := by simp [execSHalt, hs]

/-! ### Sys2Proof/Machine/Controller.lean -/

@[simp] theorem nextCanonical_request (dpa : Nat) (gran : BitVec 3) (id : Nat) (waits : Bool) (op : MemOp) :
    NextCanonical (s.request dpa gran id waits op) := by
  unfold State.request
  dsimp only
  split
  · simp
  split
  · simp [hs]
  split
  · split <;> simp [hs, modStack_bytes]
  split
  · simp [hs]
  split
  · simp [hs]
  · simp [hs, modStack_bytes]

@[simp] theorem nextCanonical_execGranuleRead : NextCanonical (execGranuleRead s) := by simp [execGranuleRead, hs]

@[simp] theorem nextCanonical_execGranuleWrite : NextCanonical (execGranuleWrite s) := by simp [execGranuleWrite, hs]

@[simp] theorem nextCanonical_execGranulePartialWrite : NextCanonical (execGranulePartialWrite s) := by
  simp [execGranulePartialWrite, hs]

@[simp] theorem nextCanonical_execRequestReserving : NextCanonical (execRequestReserving s) := by
  unfold execRequestReserving
  dsimp only
  split <;> simp [hs, modStack_bytes]

omit hs in
@[simp] theorem canonical_scrub (dpa : Nat) : MemoryCanonical (s.scrub dpa) ↔ MemoryCanonical s := by
  unfold State.scrub
  dsimp only
  split
  · rfl
  split
  · simp [modStack_bytes]
  · split <;> simp

omit hs in
@[simp] theorem canonical_scrubNext (dpa : Nat) : MemoryCanonical (s.scrubNext dpa) ↔ MemoryCanonical s := by
  simp [State.scrubNext]

@[simp] theorem nextCanonical_execPatrolScrub : NextCanonical (execPatrolScrub s) := by
  grind [NextCanonical, execPatrolScrub, canonical_timer, canonical_scrub,
    canonical_scrubNext]

/-! ### Sys2Proof/Machine/Tiles.lean -/
end

end Sys2Proof.Proofs
end

section
/-! SUPPORT. Canonical memory: the matrix engine's computations. -/

namespace Sys2Proof.Proofs

open Sys2Proof Sys2Proof.Machine Sys2Proof.Claims Sys2Proof.Laws

/-- Memory is canonical in the run of every answer of a matrix computation. -/
def MatCanonical {α : Type} (run : α → MRun) (m : Mat α) : Prop := ∀ a, m = .ok a → MemoryCanonical (run a).s
section
variable {α β : Type} {run : α → MRun} {run' : β → MRun}

@[simp] theorem matCanonical_ok {a : α} : MatCanonical run (.ok a) ↔ MemoryCanonical (run a).s := by simp [MatCanonical]

@[simp] theorem matCanonical_pure {a : α} : MatCanonical run (pure a) ↔ MemoryCanonical (run a).s := matCanonical_ok

@[simp] theorem matCanonical_error {t : Trouble} : MatCanonical run (.error t) := by simp [MatCanonical]

theorem matCanonical_bind {m : Mat α} {f : α → Mat β} (hm : MatCanonical run m)
    (hf : ∀ a, MemoryCanonical (run a).s → MatCanonical run' (f a)) : MatCanonical run' (m >>= f) := by
  cases m with
  | error t => exact matCanonical_error
  | ok a => exact hf a (matCanonical_ok.mp hm)

theorem matCanonical_bind_any {m : Mat α} {f : α → Mat β} (hf : ∀ a, MatCanonical run' (f a)) : MatCanonical run' (m >>= f) := by
  cases m with
  | error t => exact matCanonical_error
  | ok a => exact hf a

theorem matCanonical_ite {p : Prop} [Decidable p] {m m' : Mat α} (h : p → MatCanonical run m) (h' : ¬ p → MatCanonical run m') :
    MatCanonical run (if p then m else m') := by
  split
  · exact h ‹_›
  · exact h' ‹_›

theorem matCanonical_foldlM {f : β → α → Mat β} (hf : ∀ b a, MemoryCanonical (run' b).s → MatCanonical run' (f b a))
    (l : List α) {b : β}
    (hb : MemoryCanonical (run' b).s) : MatCanonical run' (l.foldlM f b) := by
  induction l generalizing b with
  | nil => exact matCanonical_ok.mpr hb
  | cons a l ih => exact matCanonical_bind (hf b a hb) fun c hc => ih hc
end
/-! The runs of the matrix engine: what leaves the state of a run, and what writes memory through it. -/
section
variable {r : MRun}

@[simp] theorem of_s (s : State) : (MRun.of s).s = s := rfl

@[simp] theorem fault_s (t : Trouble) : (r.fault t).s = r.s := rfl

@[simp] theorem flag_s (b : Nat) : (r.flag b).s = r.s := rfl

@[simp] theorem drop_s (b : Nat) : (r.drop b).s = r.s := rfl

@[simp] theorem poisoned_s (va : Nat) : (r.poisoned va).s = r.s := rfl

@[simp] theorem fromEt0_s : r.fromEt0.s = r.s := rfl

@[simp] theorem note_s (write : Bool) (va len : Nat) (rt : Route) : (r.note write va len rt).s = r.s := by cases rt <;> rfl

@[simp] theorem aim_s (n : Need) (va len : Nat) : (r.aim n va len).s = r.s := by
  unfold MRun.aim
  split <;> rfl

theorem dirWord_def : MRun.dirWord = delta% MRun.dirWord := rfl

theorem matCanonical_settle (hr : MemoryCanonical r.s) : MatCanonical id r.settle := by
  unfold MRun.settle
  split <;> simp [hr]

@[simp] theorem canonical_setTile_s (t : Fin 2) (x : Tile) : MemoryCanonical (r.setTile t x).s ↔ MemoryCanonical r.s := by
  simp [MRun.setTile]

@[simp] theorem canonical_modTile_s (t : Fin 2) (f : Tile → Tile) : MemoryCanonical (r.modTile t f).s ↔ MemoryCanonical r.s := by
  simp [MRun.modTile]

@[simp] theorem canonical_tileSeen_s (t : Fin 2) (f : Nat → Bool) : MemoryCanonical (r.tileSeen t f).s ↔ MemoryCanonical r.s := by
  unfold MRun.tileSeen
  dsimp only
  split <;> simp

@[simp] theorem canonical_slotSeen_s (t : Fin 2) (i : Nat) (sums : Bool) :
    MemoryCanonical (r.slotSeen t i sums).s ↔ MemoryCanonical r.s := canonical_tileSeen_s t _

@[simp] theorem canonical_setB_s (cols : List (List Nat)) (es : Nat) (src : BSource) :
    MemoryCanonical (r.setB cols es src).s ↔ MemoryCanonical r.s := by simp [MRun.setB]
end
section
variable {s : State} (hs : MemoryCanonical s)
include hs

@[simp] theorem canonical_pzAll : MemoryCanonical s.pzAll := by
  unfold State.pzAll
  split
  · exact hs
  · exact canonical_foldl (fun s e hs => by simp [hs]) _ (by simp [hs])

@[simp] theorem canonical_resAll : MemoryCanonical s.resAll := by
  unfold State.resAll
  split
  · exact hs
  · exact canonical_foldl (fun s e hs => by simp [hs]) _ (by simp [hs])
end
section
variable {r : MRun} (hr : MemoryCanonical r.s)
include hr

theorem matCanonical_readSeen (n : Need) (va len : Nat) (seen : List Nat) : MatCanonical (·.2.2) (r.readSeen n va len seen) := by
  unfold MRun.readSeen
  split
  · exact matCanonical_ok.mpr hr
  split
  · simpa using hr
  dsimp only
  split
  · simp [hr]
  · rw [matCanonical_ok]
    dsimp only
    rw [canonical_addSubst]
    refine List.foldlRecOn (motive := fun acc : Marked × List Nat × State => MemoryCanonical acc.2.2) _ _ (by simp [hr])
      fun acc hacc g _ => ?_
    exact List.foldlRecOn (motive := fun acc : Marked × List Nat × State => MemoryCanonical acc.2.2) _ _ hacc
      fun acc hacc c _ => by simp [hacc]

theorem matCanonical_read (n : Need) (va len : Nat) : MatCanonical (·.2) (r.read n va len) :=
  matCanonical_bind (matCanonical_readSeen hr n va len []) fun _ hx => matCanonical_pure.mpr hx

theorem matCanonical_get (n : Need) (va len : Nat) : MatCanonical (·.2) (r.get n va len) := by
  have h := matCanonical_read hr n va len
  unfold MRun.get
  split
  · simp
  · rename_i x hx
    rw [hx, matCanonical_ok] at h
    rw [matCanonical_ok]
    dsimp only
    split <;> exact h

theorem matCanonical_put (n : Need) (va : Nat) (bs : List Byte) : MatCanonical id (r.put n va bs) := by
  unfold MRun.put
  split
  · simp [hr]
  split <;> simp [hr]

theorem matCanonical_putWhole (n : Need) (va : Nat) (bs : List Byte) : MatCanonical id (r.putWhole n va bs) := by
  unfold MRun.putWhole
  split <;> simp [hr]

theorem matCanonical_aperture (va len : Nat) : MatCanonical (·.2) (r.aperture va len) :=
  matCanonical_ite (fun _ => matCanonical_get hr _ _ _) fun _ => by simp [hr]

theorem matCanonical_gallery (off len : Nat) : MatCanonical (·.2) (r.gallery off len) := by
  unfold MRun.gallery
  split
  · simp [hr]
  split
  · simp [hr]
  · rw [matCanonical_ok]
    dsimp only
    split
    · exact canonical_pzAll (by simp [hr])
    · simp [hr]

theorem matCanonical_dirWord (n : Need) (t : Fin 2) (label : Nat) : MatCanonical (·.2) (r.dirWord n t label) := by
  rw [dirWord_def]
  beta_reduce
  have h := matCanonical_read hr n (spillDir (r.s.spillVa t) label) 4
  generalize r.read n (spillDir (r.s.spillVa t) label) 4 = m at h ⊢
  cases m with
  | error t => exact matCanonical_error
  | ok x => simpa using h

theorem matCanonical_unspill (t : Fin 2) (label : Nat) : MatCanonical id (r.unspill t label) := by
  unfold MRun.unspill
  exact matCanonical_bind_any fun _ => matCanonical_put hr _ _ _

theorem matCanonical_unspillAll (t : Fin 2) : MatCanonical id (r.unspillAll t) := by
  unfold MRun.unspillAll
  exact matCanonical_bind_any fun _ => matCanonical_putWhole hr _ _ _

theorem matCanonical_spilledRow (n : Need) (t : Fin 2) (label row uc : Nat) (lx : Bool) (seen : List Nat) :
    MatCanonical (·.2.2) (r.spilledRow n t label row uc lx seen) := by
  unfold MRun.spilledRow
  refine matCanonical_bind (matCanonical_read hr _ _ _) fun x hx => matCanonical_ite (fun _ => ?_) fun _ => ?_
  · exact matCanonical_bind (matCanonical_readSeen hx _ _ _ _) fun _ hy => matCanonical_pure.mpr hy
  · exact matCanonical_pure.mpr hx

theorem matCanonical_spilled (n : Need) (t : Fin 2) (label : Nat) (w : DirWord) : MatCanonical (·.2) (r.spilled n t label w) := by
  cases w with
  | notSpilled => exact matCanonical_ok.mpr hr
  | poisoned => exact matCanonical_ok.mpr hr
  | spilled ur uc =>
    unfold MRun.spilled
    refine matCanonical_bind (run := (·.2.2)) (matCanonical_foldlM (fun acc row hacc => ?_) _ hr) fun
      _ hz => matCanonical_ok.mpr hz
    exact matCanonical_bind (run := (·.2.2)) (matCanonical_spilledRow hacc _ _ _ _ _ _ _) fun _ hx => matCanonical_pure.mpr hx

theorem matCanonical_spillRows (t : Fin 2) (label ur uc : Nat) (f : Nat → Nat → Entry) :
    MatCanonical id (r.spillRows t label ur uc f) := by
  unfold MRun.spillRows
  refine matCanonical_foldlM (run' := id) (fun r row hr => ?_) _ hr
  refine matCanonical_bind (run := id) (matCanonical_put (by split <;> exact hr) _ _ _) fun r' hr' => ?_
  dsimp only
  refine matCanonical_ite (fun _ => matCanonical_ite (fun _ => ?_) fun _ => ?_) fun _ => matCanonical_pure.mpr hr'
  · exact matCanonical_bind_any fun old => matCanonical_put (r := { old.2 with s := r'.s }) hr' _ _ _
  · exact matCanonical_bind_any fun old => matCanonical_put (r := { old.2 with s := r'.s }) hr' _ _ _

theorem matCanonical_spillSlot (t : Fin 2) (i : Nat) : MatCanonical id (r.spillSlot t i) :=
  matCanonical_bind (matCanonical_spillRows (by simp [hr]) _ _ _ _ _) fun _ h =>
    matCanonical_bind (matCanonical_put h _ _ _) fun _ h => by simpa using h

theorem matCanonical_roomSlot (t : Fin 2) : MatCanonical (·.2) (r.roomSlot t) := by
  unfold MRun.roomSlot
  split
  · exact matCanonical_ok.mpr hr
  · exact matCanonical_bind (matCanonical_spillSlot hr _ _) fun _ h => matCanonical_pure.mpr h

theorem matCanonical_fillSlot (t : Fin 2) (i label : Nat) (w : DirWord) : MatCanonical id (r.fillSlot t i label w) :=
  matCanonical_bind (matCanonical_spilled hr _ _ _ _) fun _ hx =>
    matCanonical_bind (matCanonical_unspill hx _ _) fun _ h => by simpa using h

theorem matCanonical_slotFor (t : Fin 2) (label : Nat) : MatCanonical (·.2) (r.slotFor t label) := by
  unfold MRun.slotFor
  split
  · exact matCanonical_ok.mpr hr
  refine matCanonical_bind (matCanonical_dirWord hr _ _ _) fun d hd => matCanonical_bind (matCanonical_roomSlot hd _) fun
    x hx => ?_
  split
  · simpa using hx
  · exact matCanonical_bind (matCanonical_fillSlot hx _ _ _ _) fun _ h => matCanonical_pure.mpr h
/-! Loads of B and products. -/

theorem matCanonical_columns (n : Nat) {f : MRun → Nat → Mat (List Nat × MRun)}
    (hf : ∀ {r : MRun} (i : Nat), MemoryCanonical r.s → MatCanonical (·.2) (f r i)) : MatCanonical (·.2) (r.columns n f) := by
  unfold MRun.columns
  refine matCanonical_foldlM (run' := Prod.snd) (fun acc i hacc => ?_) _ hr
  exact matCanonical_bind (run := Prod.snd) (hf i hacc) fun _ hx => matCanonical_pure.mpr hx

theorem matCanonical_vertCol (a k s n : Nat) : MatCanonical (·.2) (MRun.vertCol a k s r n) := by
  refine matCanonical_foldlM (run' := Prod.snd) (fun acc c hacc => ?_) _ hr
  exact matCanonical_bind (run := Prod.snd) (matCanonical_gallery hacc _ _) fun _ hx => matCanonical_pure.mpr hx

theorem matCanonical_edgeRun (a stride k s n : Nat) : MatCanonical (·.2) (MRun.edgeRun a stride k s r n) :=
  matCanonical_bind (matCanonical_gallery hr _ _) fun _ hx => matCanonical_pure.mpr hx

theorem matCanonical_padRun (a stride k s n : Nat) : MatCanonical (·.2) (MRun.padRun a stride k s r n) :=
  matCanonical_bind (matCanonical_aperture hr _ _) fun _ hx => matCanonical_pure.mpr hx

theorem matCanonical_padRuns (a stride k s n : Nat) : MatCanonical (·.2) (r.padRuns a stride k s n) := by
  refine matCanonical_bind_any fun x => ?_
  have h := matCanonical_columns hr n fun i h => matCanonical_padRun h a stride k s i
  dsimp only
  generalize r.columns n _ = m at h ⊢
  cases m with
  | error t => exact matCanonical_error
  | ok y =>
    rw [matCanonical_ok] at h
    exact matCanonical_ok.mpr h

theorem matCanonical_loadB (kind a w : Nat) : MatCanonical id (r.loadB kind a w) := by
  unfold MRun.loadB
  refine matCanonical_ite (fun _ => by simp [hr]) fun _ => ?_
  dsimp only
  split
  · exact matCanonical_bind (matCanonical_columns hr _ fun _ h => matCanonical_vertCol h _ _ _ _) fun _ h => by simpa using h
  · exact matCanonical_bind (matCanonical_columns hr _ fun _ h => matCanonical_edgeRun h _ _ _ _ _) fun _ h => by simpa using h
  · exact matCanonical_bind (matCanonical_padRuns hr _ _ _ _ _) fun _ h => by simpa using h

theorem matCanonical_product (t : Fin 2) (label row0 pair : Nat) (a b : List (List Nat)) (kept : List Bool) :
    MatCanonical id (r.product t label row0 pair a b kept) :=
  matCanonical_bind (matCanonical_slotFor hr _ _) fun _ h => by simpa using h

theorem matCanonical_mma (pair : Nat) (h : Bool) (t : Fin 2) (label a w : Nat) (hatch : List (BitVec 128)) :
    MatCanonical id (r.mma pair h t label a w hatch) := by
  unfold MRun.mma
  refine matCanonical_ite (fun _ => by simp [hr]) fun _ => ?_
  refine matCanonical_ite (fun _ => ?_) fun _ => ?_
  · exact matCanonical_bind (matCanonical_columns hr _ fun _ h => matCanonical_edgeRun h _ _ _ _ _) fun _ hx =>
      matCanonical_product (by exact hx) _ _ _ _ _ _ _
  · exact matCanonical_bind (matCanonical_padRuns hr _ _ _ _ _) fun _ hx => matCanonical_product (by exact hx) _ _ _ _ _ _ _
/-! The other operations of the matrix slot. -/

theorem matCanonical_resetTile (t : Fin 2) (mode : Option (BitVec 2)) : MatCanonical id (r.resetTile t mode) :=
  matCanonical_bind (matCanonical_unspillAll hr _) fun _ h => by simpa using h

theorem matCanonical_zpc (t : Fin 2) (label a b : Nat) : MatCanonical id (r.zpc t label a b) := by
  unfold MRun.zpc
  refine matCanonical_bind_any fun _ => matCanonical_ite (fun _ => by simp [hr]) fun _ => ?_
  refine matCanonical_bind (matCanonical_get hr _ _ _) fun x hx => matCanonical_bind (matCanonical_get hx _ _ _) fun y hy => ?_
  dsimp only
  split
  · simpa using hy
  refine matCanonical_bind (matCanonical_dirWord (by simpa using hy) _ _ _) fun d hd => ?_
  split
  · simpa using hd
  · simpa using hd
  refine matCanonical_bind (matCanonical_spilled hd _ _ _ _) fun z hz => ?_
  refine matCanonical_bind (matCanonical_spillRows (by split <;> exact hz) _ _ _ _ _) fun _ h => ?_
  exact matCanonical_bind (matCanonical_put h _ _ _) fun _ h => by simpa using h

theorem matCanonical_spill (t : Fin 2) (label : Nat) : MatCanonical id (r.spill t label) := by
  unfold MRun.spill
  split
  · exact matCanonical_spillSlot hr _ _
  · refine matCanonical_bind (matCanonical_dirWord hr _ _ _) fun d hd => matCanonical_pure.mpr ?_
    split <;> exact hd

theorem matCanonical_fill (t : Fin 2) (label : Nat) : MatCanonical id (r.fill t label) := by
  unfold MRun.fill
  split
  · exact matCanonical_ok.mpr hr
  refine matCanonical_bind (matCanonical_dirWord hr _ _ _) fun d hd => ?_
  split
  · exact matCanonical_pure.mpr hd
  · exact matCanonical_bind (run := Prod.snd) (matCanonical_roomSlot hd _) fun _ hx => matCanonical_fillSlot hx _ _ _ _

theorem matCanonical_sources (t : Fin 2) : MatCanonical (·.2) (r.sources t) := by
  refine matCanonical_foldlM (run' := Prod.snd) (fun acc l hacc => ?_) _ hr
  dsimp only
  split
  · simpa using hacc
  refine matCanonical_bind (matCanonical_dirWord hacc _ _ _) fun d hd => ?_
  split
  · exact matCanonical_pure.mpr hd
  · exact matCanonical_bind (run := Prod.snd) (matCanonical_spilled hd _ _ _ _) fun _ hz => matCanonical_pure.mpr hz

theorem matCanonical_bindTile (clr : Bool) (fmt : Nat) (axis : Bool) (t : Fin 2) (a b : Nat) (params : List Byte) :
    MatCanonical id (r.bind clr fmt axis t a b params) := by
  unfold MRun.bind
  split
  · simp [hr]
  refine matCanonical_bind (matCanonical_sources hr _) fun src hsrc => ?_
  refine matCanonical_bind (matCanonical_foldlM (run' := Prod.snd) (fun acc x hacc => ?_) _ hsrc) fun co hco => ?_
  · exact matCanonical_bind (matCanonical_get hacc _ _ _) fun _ hy => matCanonical_pure.mpr hy
  refine matCanonical_bind (matCanonical_foldlM (run' := id) (fun r i h => matCanonical_put h _ _ _) _ ?_) fun _ h => ?_
  · dsimp only [id]
    split <;> exact hco
  refine matCanonical_ite (fun _ => ?_) fun _ => matCanonical_pure.mpr h
  exact matCanonical_bind (matCanonical_unspillAll h _) fun _ h => by simpa using h

theorem matCanonical_source (t : Fin 2) (label : Nat) : MatCanonical (·.2) (r.source t label) := by
  unfold MRun.source
  dsimp only
  split
  · simpa using hr
  refine matCanonical_bind (matCanonical_dirWord hr _ _ _) fun d hd => ?_
  split
  · exact matCanonical_pure.mpr hd
  · exact matCanonical_bind (run := Prod.snd) (matCanonical_spilled hd _ _ _ _) fun _ hz => matCanonical_pure.mpr hz

theorem canonical_aimAll (n : Need) (f g : Nat → Nat) (l : List Nat) :
    MemoryCanonical (l.foldl (fun (q : MRun) i => q.aim n (f i) (g i)) r).s :=
  List.foldlRecOn (motive := fun q : MRun => MemoryCanonical q.s) l _ hr fun q hq i _ => by simpa using hq

theorem matCanonical_drain (kind : Nat) (tr : Bool) (t : Fin 2) (label a : Nat) (params : List Byte) :
    MatCanonical id (r.drain kind tr t label a params) := by
  unfold MRun.drain
  refine matCanonical_ite (fun _ => by simp [hr]) fun _ => matCanonical_ite (fun _ => matCanonical_error) fun _ => ?_
  refine matCanonical_bind (matCanonical_source hr _ _) fun src hsrc => ?_
  dsimp only
  split
  · exact matCanonical_pure.mpr (canonical_aimAll hsrc _ _ _ _)
  refine matCanonical_bind (matCanonical_foldlM (run' := id) (fun r i h => matCanonical_put h _ _ _) _ ?_) fun
    _ h => by simpa using h
  rw [id]
  generalize List.any _ _ = p
  cases p <;> exact hsrc

theorem matCanonical_topoEntry (x : Shape) (pair : Nat) (edge : Bool) (t : Fin 2) (e : TopoEntry) (word : Option (BitVec 128)) :
    MatCanonical id (r.topoEntry x pair edge t e word) := by
  unfold MRun.topoEntry
  refine matCanonical_bind (matCanonical_padRuns hr _ _ _ _ _) fun a ha => ?_
  refine matCanonical_bind (matCanonical_columns ha _ fun i h => ?_) fun _ hb => matCanonical_product hb _ _ _ _ _ _ _
  exact matCanonical_ite (fun _ => matCanonical_edgeRun h _ _ _ _ _) fun _ => matCanonical_vertCol h _ _ _ _

theorem matCanonical_topoWalk (x : Shape) (pair : Nat) (edge h : Bool) (t : Fin 2) (a : Nat) (hatch : List (BitVec 128))
    (fuel i : Nat) :
    MatCanonical id (MRun.topoWalk x pair edge h t a hatch fuel i r) := by
  induction fuel generalizing i r with
  | zero => exact matCanonical_ok.mpr hr
  | succ fuel ih =>
    refine matCanonical_bind (matCanonical_get hr _ _ _) fun bs hbs => ?_
    split
    · simpa using hbs
    · exact matCanonical_bind (matCanonical_topoEntry hbs _ _ _ _ _ _) fun r hr => ih (by exact hr) _

theorem matCanonical_topo (h : Bool) (t : Fin 2) (a w : Nat) (params : List Byte) (hatch : List (BitVec 128)) :
    MatCanonical id (r.topo h t a w params hatch) := by
  unfold MRun.topo
  refine matCanonical_ite (fun _ => by simp [hr]) fun _ => ?_
  exact matCanonical_bind (matCanonical_topoWalk hr _ _ _ _ _ _ _ _ _) fun _ h => by simpa using h

theorem matCanonical_perform (q : MatCmd) : MatCanonical id (r.perform q) := by
  unfold MRun.perform
  have hf : MemoryCanonical (r.flag q.bits).s := hr
  dsimp only
  split
  iterate 3 exact matCanonical_loadB hf _ _ _
  · exact matCanonical_mma hf _ _ _ _ _ _ _
  iterate 2 exact matCanonical_resetTile hf _ _
  · exact matCanonical_zpc hf _ _ _ _
  · exact matCanonical_bindTile hf _ _ _ _ _ _ _
  iterate 4 exact matCanonical_drain hf _ _ _ _ _ _
  · exact matCanonical_spill hf _ _
  · exact matCanonical_fill hf _ _
  · exact matCanonical_topo hf _ _ _ _ _ _
  · exact matCanonical_ok.mpr hf

theorem matCanonical_paramsOf (op : Instr) (a b : Nat) : MatCanonical (·.2) (r.paramsOf op a b) := by
  have hd (kind : Nat) : MatCanonical (·.2) (do
      if b % 8 ≠ 0 then .error ⟨11, b⟩
      else
        let x ← r.get needR b 16
        if kind ≠ 2 then return x
        else
          let y ← x.2.get needR (b + 16) (8 * (bitsN (fieldAt x.1 0 8) 6 8 + 1))
          return (x.1 ++ y.1, y.2) : Mat (List Byte × MRun)) := by
    refine matCanonical_ite (fun _ => matCanonical_error) fun _ => matCanonical_bind (matCanonical_get hr _ _ _) fun x hx =>
      matCanonical_ite (fun _ => matCanonical_pure.mpr hx) fun _ => ?_
    exact matCanonical_bind (matCanonical_get hx _ _ _) fun _ hy => matCanonical_pure.mpr hy
  unfold MRun.paramsOf
  dsimp only
  split
  · exact matCanonical_bind_any fun _ => matCanonical_get hr _ _ _
  iterate 4 exact hd _
  · exact matCanonical_ite (fun _ => matCanonical_error) fun _ => matCanonical_get hr _ _ _
  · exact matCanonical_ok.mpr hr
end
section
variable {s : State} (hs : MemoryCanonical s)
include hs

@[simp] theorem canonical_runCmd (q : MatCmd) : MemoryCanonical (s.runCmd q).s := by
  have h : MatCanonical id (MRun.perform { MRun.of s with known := q.routes } q >>= MRun.settle) :=
    matCanonical_bind (matCanonical_perform (by exact hs) q) fun _ h => matCanonical_settle h
  unfold State.runCmd
  split
  · rename_i r hr
    rw [hr] at h
    simpa using h
  · exact hs

theorem matCanonical_command (op : Instr) (a b : Nat) : MatCanonical (·.2) (s.command op a b) :=
  matCanonical_bind (matCanonical_paramsOf (r := MRun.of s) hs op a b) fun _ hp => matCanonical_bind_any fun
    _ => matCanonical_pure.mpr hp

@[simp] theorem canonical_enqueue (op : Instr) (d : Option (Opnd × Bool)) : MemoryCanonical (s.enqueue op d) := by
  unfold State.enqueue
  split
  · exact hs
  rename_i r _
  have h := matCanonical_command hs op (s.matOperands op).1 (s.matOperands op).2
  dsimp only
  split
  · exact hs
  rename_i c p hp
  rw [hp, matCanonical_ok] at h
  rw [canonical_post, canonical_modCore]
  cases d with
  | none =>
    dsimp only
    cases matLeave op c.bval c.params <;> cases p.pz <;> simp [h]
  | some d =>
    dsimp only
    rw [canonical_openLong]
    cases matLeave op c.bval c.params <;> cases p.pz <;> simp [h]

@[simp] theorem canonical_residue (q q' : MatCmd) : MemoryCanonical ((s.runCmd q).residue q').s := by
  unfold MRun.residue
  split <;> simp [hs]

@[simp] theorem canonical_finishCmd (q : MatCmd) (mismatch : Bool) : MemoryCanonical (s.finishCmd q mismatch) := by
  unfold State.finishCmd
  have h : MemoryCanonical (if mismatch then (s.runCmd q).residue q else s.runCmd q).s := by
    split
    · exact canonical_residue hs q q
    · exact canonical_runCmd hs q
  generalize (if mismatch then (s.runCmd q).residue q else s.runCmd q) = r at h ⊢
  dsimp only
  cases q.result <;> cases q.grant <;> cases r.pz <;> simp [h]

@[simp] theorem nextCanonical_execMatrixCommandComplete : NextCanonical (execMatrixCommandComplete s) := by
  unfold execMatrixCommandComplete
  dsimp only
  split
  · simp [hs]
  split
  · simp [hs]
  split
  · simp [hs]
  · simp only [nextCanonical_next, canonical_at_, canonical_addBusy]
    exact canonical_settleKilled (canonical_settleLeaving (by simp [hs]) _ _) _ _
end

end Sys2Proof.Proofs
end

section
/-! SUPPORT. Canonical memory: the engines, from a job's entry to its end. -/

namespace Sys2Proof.Proofs

open Sys2Proof Sys2Proof.Machine Sys2Proof.Claims Sys2Proof.Laws

section
variable {s : State} (hs : MemoryCanonical s)
include hs

/-! ### Sys2Proof/Machine/Matrix.lean -/

omit hs in
@[simp] theorem canonical_acquireEngine : MemoryCanonical s.acquireEngine ↔ MemoryCanonical s := by
  unfold State.acquireEngine
  split <;> simp

@[simp] theorem nextCanonical_execMAcq : NextCanonical (execMAcq s) := by simp [execMAcq, hs]

@[simp] theorem nextCanonical_execMRel : NextCanonical (execMRel s) := by simp [execMRel, hs]

@[simp] theorem nextCanonical_execMMode (t : Bool) (mode : BitVec 2) : NextCanonical (execMMode t mode s) := by
  simp [execMMode, hs]

@[simp] theorem nextCanonical_execMLdb (a b : Opnd) : NextCanonical (execMLdb a b s) := by simp [execMLdb, hs]

@[simp] theorem nextCanonical_execMLdbEdge (a b : Opnd) : NextCanonical (execMLdbEdge a b s) := by simp [execMLdbEdge, hs]

@[simp] theorem nextCanonical_execMLdbx (a b : Opnd) : NextCanonical (execMLdbx a b s) := by simp [execMLdbx, hs]

@[simp] theorem nextCanonical_execMMma (pair : BitVec 4) (h t : Bool) (lbl : BitVec 8) (a b : Opnd) :
    NextCanonical (execMMma pair h t lbl a b s) := by
  simp [execMMma, hs]

@[simp] theorem nextCanonical_execMZero (t : Bool) : NextCanonical (execMZero t s) := by simp [execMZero, hs]

@[simp] theorem nextCanonical_execMZpc (t : Bool) (lbl : BitVec 8) (a b : Opnd) : NextCanonical (execMZpc t lbl a b s) := by
  simp [execMZpc, hs]

@[simp] theorem nextCanonical_execMBind (ws : Bool) (d a b : Opnd) (clr : Bool) (fmt : BitVec 2) (axis t : Bool) :
    NextCanonical (execMBind ws d a b clr fmt axis t s) := by
  simp [execMBind, hs]

@[simp] theorem nextCanonical_execMDrainWrap (ws : Bool) (d a b : Opnd) (tr t : Bool) (lbl : BitVec 8) :
    NextCanonical (execMDrainWrap ws d a b tr t lbl s) := by
  simp [execMDrainWrap, hs]

@[simp] theorem nextCanonical_execMDrainSat (ws : Bool) (d a b : Opnd) (tr t : Bool) (lbl : BitVec 8) :
    NextCanonical (execMDrainSat ws d a b tr t lbl s) := by
  simp [execMDrainSat, hs]

@[simp] theorem nextCanonical_execMDrainRq (ws : Bool) (d a b : Opnd) (tr t : Bool) (lbl : BitVec 8) :
    NextCanonical (execMDrainRq ws d a b tr t lbl s) := by
  simp [execMDrainRq, hs]

@[simp] theorem nextCanonical_execMDrainFlt (ws : Bool) (d a b : Opnd) (tr t : Bool) (lbl : BitVec 8) :
    NextCanonical (execMDrainFlt ws d a b tr t lbl s) := by
  simp [execMDrainFlt, hs]

@[simp] theorem nextCanonical_execMSpill (t : Bool) (lbl : BitVec 8) : NextCanonical (execMSpill t lbl s) := by
  simp [execMSpill, hs]

@[simp] theorem nextCanonical_execMFill (t : Bool) (lbl : BitVec 8) : NextCanonical (execMFill t lbl s) := by simp [execMFill, hs]

@[simp] theorem nextCanonical_execMTopo (h t : Bool) (a b : Opnd) : NextCanonical (execMTopo h t a b s) := by simp [execMTopo, hs]

@[simp] theorem nextCanonical_execMWait (ws : Bool) (d : Opnd) : NextCanonical (execMWait ws d s) := by simp [execMWait, hs]

/-! ### Sys2Proof/Machine/Finz.lean -/

omit hs in
@[simp] theorem canonical_badMsg : MemoryCanonical s.badMsg ↔ MemoryCanonical s := by simp [State.badMsg]

theorem canonical_launchMsg (j : Nat) (m : FinzonMsg) : ∀ r, (s.launchMsg j m) = some r → MemoryCanonical r := by
  unfold State.launchMsg
  dsimp only
  repeat' split
  all_goals simp [*]

theorem canonical_sendKept (j : Nat) (job : Option Nat) (m : FinzonMsg) :
    ∀ r, (s.sendKept j job m) = some r → MemoryCanonical r.2 := by
  grind [State.sendKept, canonical_launchMsg, canonical_timer,
    canonical_modFz]

@[simp] theorem canonical_answerMsg (m : FinzonMsg) (nak : Option Nat) : MemoryCanonical (s.answerMsg m nak) := by
  grind [State.answerMsg, canonical_launchMsg, canonical_badMsg]

/-! ### Sys2Proof/Machine/Jobs.lean -/

@[simp] theorem canonical_substJob (j : Job) (n : Nat) : MemoryCanonical (s.substJob j n) := by
  unfold State.substJob
  split
  · exact hs
  split
  · simp [hs]
  · split
    case h_2 => exact hs
    split
    · exact hs
    split
    · exact hs
    · dsimp only
      split
      case h_1 t ht =>
        have h := answers_frameWrite hs _ _ _ _ _ _ |> (ht ▸ ·)
        exact h
      case h_2 => exact hs
  · exact hs

theorem canonical_hostPage (j : Job) (pasid page : Nat) (write : Bool) :
    ∀ r, (s.hostPage j pasid page write) = some r → MemoryCanonical r := by
  unfold State.hostPage
  dsimp only
  repeat' split
  all_goals simp [*]

theorem canonical_hostPages (j : Job) (dctx va len : Nat) (write : Bool) :
    ∀ r, s.hostPages j dctx va len write = some r → MemoryCanonical r := by
  unfold State.hostPages
  dsimp only
  generalize cutAt 4096 va len = l
  generalize (s.dctxOf dctx).pasid.toNat = pasid
  induction l generalizing s with
  | nil => simp [hs]
  | cons c l ih =>
    intro r h
    rw [List.foldlM_cons] at h
    obtain ⟨t, ht, hr⟩ := Option.bind_eq_some_iff.mp h
    exact ih (canonical_hostPage hs _ _ _ _ t ht) r hr

omit hs in
@[simp] theorem canonical_freeBytes (n : Nat) : MemoryCanonical (State.freeBytes n s).2 ↔ MemoryCanonical s := by
  induction n generalizing s with
  | zero => rfl
  | succ n ih => simp [State.freeBytes, ih]

@[simp] theorem canonical_spadTake (j : Job) (t : Team) (va len : Nat) : MemoryCanonical (s.spadTake j t va len).2 := by
  unfold State.spadTake
  split <;> simp [hs]

@[simp] theorem answers_regRead (j : Job) (i off len : Nat) :
    Answers (s.regRead j i off len) (fun _ => True) fun r => MemoryCanonical r.2 := by
  grind [Answers, State.regRead, canonical_spadTake, canonical_hostPages,
    canonical_engRead, answers_vaRead, canonical_hotSegs, canonical_hotVa]

@[simp] theorem answers_regWrite (j : Job) (i off : Nat) (bs : List Byte) :
    Answers (s.regWrite j i off bs) (fun _ => True) fun r => MemoryCanonical r := by
  unfold State.regWrite
  dsimp only
  split
  · exact hs
  split
  · split
    · simp [hs]
    case isFalse va _ _ _ =>
      have h := answers_vaWrite hs j.die (s.jobWho j) (va + off) bs
      split
      · simp
      case h_2 r hr =>
        rw [hr, answers_ok] at h
        simp [h]
  · split
    case h_1 t ht =>
      have h := canonical_hostPages hs _ _ _ _ _ t ht
      simp [h, write_wf]
    · simp
  · split <;> simp [hs]
  · exact hs

omit hs in
@[simp] theorem canonical_regsAsk (j : Job) : MemoryCanonical (s.regsAsk j) ↔ MemoryCanonical s := by simp [State.regsAsk]

omit hs in
@[simp] theorem canonical_endJob (id status : Nat) : MemoryCanonical (s.endJob id status) ↔ MemoryCanonical s := by
  unfold State.endJob
  repeat' split
  all_goals simp

@[simp] theorem nextCanonical_execJobCardEntry : NextCanonical (execJobCardEntry s) := by
  unfold execJobCardEntry
  dsimp only
  repeat' split
  all_goals simp [*]

omit hs in
@[simp] theorem canonical_jobLeaveDone (j : Job) : MemoryCanonical (s.jobLeaveDone j) ↔ MemoryCanonical s := by
  simp [State.jobLeaveDone]

@[simp] theorem canonical_askForJobs (hall : Nat) : MemoryCanonical (s.askForJobs hall) := by
  refine canonical_foldl (fun s j hs => ?_) _ hs
  split <;> simp [hs]

@[simp] theorem canonical_admitJobs (hall : Nat) : MemoryCanonical (s.admitJobs hall) := by
  refine canonical_foldl (fun s a hs => ?_) _ hs
  simp [hs]

omit hs in
@[simp] theorem canonical_dispatchFrom (hall n : Nat) : MemoryCanonical (State.dispatchFrom hall n s) ↔ MemoryCanonical s := by
  induction n generalizing s with
  | zero => rfl
  | succ n ih =>
    unfold State.dispatchFrom
    split
    · rfl
    · simp [ih]

@[simp] theorem nextCanonical_execJobDispatch : NextCanonical (execJobDispatch s) := by
  grind [NextCanonical, execJobDispatch, canonical_post, canonical_admitJobs,
    canonical_askForJobs, canonical_dispatchFrom]

theorem canonical_cardAt (va : Nat) : ∀ r, (s.cardAt va) = some r → MemoryCanonical r.2 := by
  unfold State.cardAt
  split <;> simp [hs]

omit hs in
@[simp] theorem canonical_copyLeave (id : Nat) (card : Block) (wantOp : Nat) :
    MemoryCanonical (s.copyLeave id card wantOp).2 ↔ MemoryCanonical s := by
  unfold State.copyLeave
  dsimp only
  repeat' split
  all_goals simp

@[simp] theorem canonical_copyAwait (id : Nat) : MemoryCanonical (s.copyAwait id) := by
  unfold State.copyAwait
  repeat' split
  all_goals simp [*]

@[simp] theorem canonical_cpIssue (wantOp : Nat) (ws : Bool) (d a : Opnd) : MemoryCanonical (s.cpIssue wantOp ws d a) := by
  unfold State.cpIssue
  dsimp only
  split
  case h_1 x _ hx =>
    have h := canonical_cardAt hs _ x hx
    split <;> simp [h]
  case h_2 => exact hs

@[simp] theorem nextCanonical_execCpCopy (ws : Bool) (d a : Opnd) : NextCanonical (execCpCopy ws d a s) := by
  simp [execCpCopy, hs]

@[simp] theorem nextCanonical_execCpGath (ws : Bool) (d a : Opnd) : NextCanonical (execCpGath ws d a s) := by
  simp [execCpGath, hs]

@[simp] theorem nextCanonical_execCpScat (ws : Bool) (d a : Opnd) : NextCanonical (execCpScat ws d a s) := by
  simp [execCpScat, hs]

@[simp] theorem nextCanonical_execCpFill (ws : Bool) (d a : Opnd) : NextCanonical (execCpFill ws d a s) := by
  simp [execCpFill, hs]

@[simp] theorem nextCanonical_execCpExpand (ws : Bool) (d a : Opnd) : NextCanonical (execCpExpand ws d a s) := by
  simp [execCpExpand, hs]

@[simp] theorem nextCanonical_execCpSeal (ws : Bool) (d a : Opnd) : NextCanonical (execCpSeal ws d a s) := by
  simp [execCpSeal, hs]

@[simp] theorem nextCanonical_execCpGal (ws : Bool) (d a : Opnd) : NextCanonical (execCpGal ws d a s) := by simp [execCpGal, hs]

@[simp] theorem nextCanonical_execCpColl (ws : Bool) (d a : Opnd) : NextCanonical (execCpColl ws d a s) := by
  simp [execCpColl, hs]

@[simp] theorem nextCanonical_execCpCkpt (ws : Bool) (d a : Opnd) : NextCanonical (execCpCkpt ws d a s) := by
  simp [execCpCkpt, hs]

@[simp] theorem nextCanonical_execCpJob (ws : Bool) (d a : Opnd) : NextCanonical (execCpJob ws d a s) := by simp [execCpJob, hs]

@[simp] theorem nextCanonical_execCpCancel (a : Opnd) : NextCanonical (execCpCancel a s) := by
  unfold execCpCancel
  repeat' split
  all_goals simp [*]

@[simp] theorem nextCanonical_execCpStat (ws : Bool) (d a : Opnd) : NextCanonical (execCpStat ws d a s) := by
  unfold execCpStat
  split <;> simp [hs]

/-! ### Sys2Proof/Machine/Engines.lean -/

theorem answers_orStatus {α : Type} {P : α → Prop} {r : Except Nat α} (hr : Answers r (fun _ => True) P) :
    Answers (s.orStatus r) (fun e => MemoryCanonical e.2) P := by
  cases r with
  | error e => exact hs
  | ok a => exact hr

@[simp] theorem canonical_recordPoison (j : Job) : MemoryCanonical (s.recordPoison j) := by
  unfold State.recordPoison
  split <;> simp [hs]

theorem answers_takeFine (j : Job) (i off len : Nat) :
    Answers (s.takeFine j i off len) (fun e => MemoryCanonical e.2) fun r => MemoryCanonical r.2 := by
  refine answers_foldlM (P := fun r : List Byte × State => MemoryCanonical r.2) (fun acc c hacc => ?_) _ hs
  refine answers_bind (answers_orStatus hacc (answers_regRead hacc ..)) fun r _ => ?_
  split
  · simpa using hacc
  · exact hacc

theorem answers_take (j : Job) (i off len : Nat) :
    Answers (s.take j i off len) (fun e => MemoryCanonical e.2) fun r => MemoryCanonical r.2 := by
  have h := answers_regRead hs j i off len
  unfold State.take
  split
  · exact hs
  case h_2 g t hr =>
    rw [hr, answers_ok] at h
    split
    · simp [h]
    split
    · simp [h]
    · exact answers_map (answers_takeFine h ..) fun x hx => canonical_recordPoison (canonical_substJob hx ..) _

omit hs in
@[simp] theorem canonical_countBytes (id n : Nat) : MemoryCanonical (s.countBytes id n) ↔ MemoryCanonical s := by
  simp [State.countBytes]

omit hs in
@[simp] theorem canonical_countOor (id n : Nat) : MemoryCanonical (s.countOor id n) ↔ MemoryCanonical s := by
  simp [State.countOor]

theorem answers_give (j : Job) (i off : Nat) (bs : List Byte) :
    Answers (s.give j i off bs) (fun e => MemoryCanonical e.2) fun r => MemoryCanonical r :=
  answers_map (answers_orStatus hs (answers_regWrite hs ..)) fun _ hr => by simpa using hr

theorem answers_runCmds {α : Type} {f : α → State → Done State}
    (hf : ∀ a {s : State},
      MemoryCanonical s → Answers (f a s) (fun e => MemoryCanonical e.2) fun r => MemoryCanonical r) (l : List α) :
    Answers (runCmds l f s) (fun e => MemoryCanonical e.2) fun r => MemoryCanonical r :=
  answers_foldlM (fun _ a hs => hf a hs) l hs

omit hs in
theorem workCanonical_of {r : Done State} (hr : Answers r (fun e => MemoryCanonical e.2) fun r => MemoryCanonical r) :
    WorkCanonical (Work.of r) := by
  cases r with
  | error e => exact hr
  | ok s => exact hr

omit hs in
@[simp] theorem canonical_countUnassigned (nodes : List Nat) (status : Nat) :
    MemoryCanonical (s.countUnassigned nodes status) ↔ MemoryCanonical s := by
  unfold State.countUnassigned
  split <;> simp

omit hs in
@[simp] theorem canonical_stopJob (j : Job) : MemoryCanonical (s.stopJob j) ↔ MemoryCanonical s := by
  unfold State.stopJob
  split <;> simp

theorem nextCanonical_engineStep {work : Job → State → Work} (hw : ∀ j, WorkCanonical (work j s)) :
    NextCanonical (s.engineStep work) := by
  unfold State.engineStep
  split
  · simp [hs]
  case h_2 j _ =>
  split
  · simp [hs]
  split
  · simp [hs]
  split
  · simp [hs]
  split
  · simp [hs]
  have h := hw j
  split
  case h_1 t ht => rw [ht] at h; simpa using h
  case h_2 t ht => rw [ht] at h; simpa using h
  case h_3 n t ht => rw [ht] at h; simpa using h

omit hs in
@[simp] theorem canonical_awaitMsg (id dst seq : Nat) (data : Option Nat) :
    MemoryCanonical (s.awaitMsg id dst seq data) ↔ MemoryCanonical s := by
  simp [State.awaitMsg]

theorem answers_jobSend (id j : Nat) (m : FinzonMsg) (data : Option Nat) :
    Answers (s.jobSend id j m data) (fun e => MemoryCanonical e.2) fun r => MemoryCanonical r := by
  unfold State.jobSend
  split
  · exact hs
  case h_2 q t ht => simpa using canonical_sendKept hs j (some id) m _ ht

omit hs in
/-- The same for an engine that waits for the fabric once its commands are out. -/
theorem workCanonical_await_of {r : Done State} (hr : Answers r (fun e => MemoryCanonical e.2) fun r => MemoryCanonical r) :
    WorkCanonical (match (motive := Done State → Work) r with
      | .error e => .done e.1 e.2
      | .ok s => .await s) := by
  cases r with
  | error e => exact hr
  | ok s => exact hr

theorem workCanonical_putWork (i va node win len : Nat) (j : Job) : WorkCanonical (putWork i va node win len j s) := by
  refine workCanonical_await_of (answers_runCmds hs (fun c s hs => ?_) _)
  refine answers_bind (answers_take hs ..) fun x hx => answers_bind (answers_jobSend hx ..) fun r hr => ?_
  simpa using hr

theorem workCanonical_getWork (va node win len : Nat) (j : Job) : WorkCanonical (getWork va node win len j s) :=
  workCanonical_await_of (answers_runCmds hs (fun _ _ hs => answers_jobSend hs ..) _)

theorem workCanonical_copyWork (len : Nat) (j : Job) : WorkCanonical (copyWork len j s) := by
  unfold copyWork
  dsimp only
  split
  · split
    · exact workCanonical_of (answers_runCmds hs (fun _ _ hs => answers_bind (answers_take hs ..) fun
      _ hx => answers_give hx ..) _)
    · exact workCanonical_of (answers_runCmds hs (fun _ _ hs => answers_bind (answers_take hs ..) fun
      _ hx => answers_give hx ..) _)
  · exact hs

@[simp] theorem answers_takeTensor (j : Job) (i id : Nat) (t : Tsr) :
    Answers (s.takeTensor j i id t) (fun e => MemoryCanonical e.2) fun r => MemoryCanonical r.2 := by
  unfold State.takeTensor
  dsimp only
  split <;> simp [hs]

theorem workCanonical_permuteWork (j : Job) : WorkCanonical (permuteWork j s) := by
  unfold permuteWork
  split
  case h_1 a _ _ _ _ _ _ _ =>
    split
    case h_1 ta tb _ _ =>
      dsimp only
      split
      · exact hs
      have h := answers_takeTensor hs j 0 a ta
      split
      case h_1 e he => rwa [he] at h
      case h_2 src t ht =>
        rw [ht, answers_ok] at h
        refine workCanonical_of (answers_runCmds h (fun k s hs => ?_) _)
        refine answers_bind (P := fun _ => True) ?_ fun old _ => answers_foldlM (fun _ _ hs => answers_give hs ..) _ hs
        split
        · exact answers_foldlM (fun _ _ _ => answers_map (answers_orStatus hs (answers_regRead hs ..)) fun
          _ _ => trivial) _ trivial
        · trivial
    · exact hs
    · exact hs
  · exact hs

@[simp] theorem nextCanonical_execEngineCopy : NextCanonical (execEngineCopy s) := by
  refine nextCanonical_engineStep hs fun j => ?_
  split
  · exact workCanonical_permuteWork hs j
  split
  · split
    · exact hs
    split
    · exact workCanonical_getWork hs ..
    · exact workCanonical_putWork hs ..
    · exact workCanonical_copyWork hs ..
  · exact hs
  · exact hs

@[simp] theorem nextCanonical_execEngineGather : NextCanonical (execEngineGather s) := by
  refine nextCanonical_engineStep hs fun j => ?_
  dsimp only
  split
  case h_1 tlen xlen dlen _ _ _ =>
    split
    · exact hs
    have h := answers_take hs j 1 0 xlen
    split
    case h_1 e he => rwa [he] at h
    case h_2 bs t ht =>
      rw [ht, answers_ok] at h
      refine workCanonical_of (answers_runCmds (by simpa using h) (fun c s hs => ?_) _)
      refine answers_bind (P := fun x : List Byte × State => MemoryCanonical x.2) (answers_foldlM (fun acc p hacc => ?_) _ hs)
        fun x hx => answers_give hx ..
      split
      · exact answers_bind (answers_take hacc ..) fun y hy => hy
      · exact hacc
  all_goals exact hs

@[simp] theorem nextCanonical_execEngineScatter : NextCanonical (execEngineScatter s) := by
  refine nextCanonical_engineStep hs fun j => ?_
  dsimp only
  split
  case h_1 vlen xlen tlen _ _ _ =>
    split
    · exact hs
    have h := answers_take hs j 1 0 xlen
    split
    case h_1 e he => rwa [he] at h
    case h_2 bs t ht =>
      rw [ht, answers_ok] at h
      refine workCanonical_of (answers_runCmds h (fun p s hs => ?_) _)
      split
      · exact answers_bind (answers_take hs ..) fun y hy => answers_give hy ..
      · simpa using hs
  all_goals exact hs

@[simp] theorem nextCanonical_execEngineFill : NextCanonical (execEngineFill s) := by
  refine nextCanonical_engineStep hs fun j => ?_
  split
  · exact hs
  · exact workCanonical_of (answers_runCmds hs (fun _ _ hs => answers_give hs ..) _)

@[simp] theorem nextCanonical_execEngineExpand : NextCanonical (execEngineExpand s) := by
  refine nextCanonical_engineStep hs fun j => ?_
  have he := canonical_expand hs (s.jobWho j) (jobCore j) (jobBank j) (s.jobImage j) (jobSeg j)
  have hi := canonical_image hs (s.jobWho j) (s.jobImage j)
  dsimp only
  split
  · exact hs
  split
  · exact he
  case h_2 img u hu =>
    rw [hu] at hi
    split
    · exact hi
    split
    · exact he
    split
    · exact canonical_segEntry hi ..
    split
    · exact he
    · simpa using he

@[simp] theorem nextCanonical_execEngineSeal : NextCanonical (execEngineSeal s) := by
  refine nextCanonical_engineStep hs fun j => ?_
  dsimp only
  split
  · exact hs
  split
  · exact hs
  · simp [hs]

@[simp] theorem nextCanonical_execEngineGalleryLoad : NextCanonical (execEngineGalleryLoad s) := by
  refine nextCanonical_engineStep hs fun j => ?_
  dsimp only
  split
  · split
    · exact hs
    split
    · exact hs
    refine workCanonical_of (answers_runCmds (by simpa using hs) (fun c s hs => ?_) _)
    exact answers_bind (answers_take hs ..) fun x hx => by simpa using hx
  · exact hs

theorem answers_collSend (j : Job) (m : Member) :
    Answers (s.collSend j m) (fun e => MemoryCanonical e.2) fun r => MemoryCanonical r :=
  answers_runCmds hs (fun _ _ hs => answers_jobSend hs ..) _

omit hs in
@[simp] theorem canonical_modColl (id : Nat) (f : Collective → Collective) :
    MemoryCanonical (s.modColl id f) ↔ MemoryCanonical s := by
  simp [State.modColl]

omit hs in
@[simp] theorem canonical_dropColl (id : Nat) : MemoryCanonical (s.dropColl id) ↔ MemoryCanonical s := by simp [State.dropColl]

@[simp] theorem canonical_collEarly (j : Job) (hash : Nat) : MemoryCanonical (s.collEarly j hash).2 := by
  refine canonical_foldl_snd (fun p a hs => ?_) _ hs
  dsimp only
  split <;> simp [hs]

theorem workCanonical_collFinish (j : Job) (m : Member) : WorkCanonical (s.collFinish j m) := by
  unfold State.collFinish
  split
  · split
    · exact hs
    split
    · exact hs
    split
    · simpa using hs
    case h_2 bs _ =>
    have h := answers_give hs j 2 0 bs
    split
    case h_1 e he => rw [he] at h; simpa using h
    case h_2 t ht => rw [ht] at h; simpa using h
  · exact hs

theorem workCanonical_collStart (j : Job) (glen l out : Nat) : WorkCanonical (s.collStart j glen l out) := by
  unfold State.collStart
  have hd := answers_take hs j 0 0 glen
  split
  case h_1 e he => rwa [he] at hd
  case h_2 d hd' =>
  rw [hd', answers_ok] at hd
  have hx := answers_take hd j 1 0 l
  split
  case h_1 e he => rwa [he] at hx
  case h_2 x hx' =>
  rw [hx', answers_ok] at hx
  split
  · exact hx
  case h_2 m _ =>
  have hr := canonical_collEarly (s := x.2.modFz fun z =>
    { z with collectives := z.collectives ++ [⟨j.id, m.hash, [(ownKey, d.1), (ownKey + 1, x.1)], 0,
      0⟩] }) (by simpa using hx) j m.hash
  dsimp only
  split
  · simpa using hr
  have h := answers_collSend hr j m
  split
  case h_1 e he => rw [he] at h; simpa using h
  case h_2 t ht => rw [ht] at h; exact workCanonical_collFinish h j m

@[simp] theorem nextCanonical_execEngineCollective : NextCanonical (execEngineCollective s) := by
  refine nextCanonical_engineStep hs fun j => ?_
  split
  · split
    · exact workCanonical_collStart hs ..
    dsimp only
    split
    · exact hs
    · exact workCanonical_collFinish hs ..
  all_goals exact hs

theorem answers_ckptRead (j : Job) (va len : Nat) :
    Answers (s.ckptRead j va len) (fun e => MemoryCanonical e.2) fun r => MemoryCanonical r.2.2.2 := by
  unfold State.ckptRead
  dsimp only
  split
  · split <;> simp [hs]
  · split <;> simp [hs]

omit hs in
theorem workCanonical_dropColl_of {r : Done State} (hr : Answers r (fun e => MemoryCanonical e.2) fun r => MemoryCanonical r)
    (id : Nat) :
    WorkCanonical (match (motive := Done State → Work) r with
      | .error e => .done e.1 (e.2.dropColl id)
      | .ok s => .await (s.dropColl id)) := by
  cases r with
  | error e => simpa using hr
  | ok s => simpa using hr

@[simp] theorem nextCanonical_execEngineCheckpoint : NextCanonical (execEngineCheckpoint s) := by
  refine nextCanonical_engineStep hs fun j => ?_
  split
  · exact hs
  refine workCanonical_dropColl_of (answers_runCmds (by simpa using hs) (fun c s hs => ?_) _) _
  refine answers_bind (answers_ckptRead hs ..) fun x hx => ?_
  refine answers_bind (P := fun r => MemoryCanonical r) (answers_foldlM (fun _ _ hs => answers_jobSend hs ..) _ hx) fun r hr => ?_
  simpa using hr
end

end Sys2Proof.Proofs
end

section
/-! SUPPORT. Canonical memory: the messages of the fabric. -/

namespace Sys2Proof.Proofs

open Sys2Proof Sys2Proof.Machine Sys2Proof.Claims Sys2Proof.Laws

section
variable {s : State} (hs : MemoryCanonical s)
include hs

/-! ### Sys2Proof/Machine/Engines.lean -/

omit hs in
@[simp] theorem canonical_poisonVa (j : Job) (va : Nat) : MemoryCanonical (s.poisonVa j va) ↔ MemoryCanonical s := by
  unfold State.poisonVa
  split
  · rfl
  · simp [setGran_bytes]

theorem answers_restoreAsk (j : Job) (rva node win seq off n : Nat) :
    Answers (s.restoreAsk j rva node win seq off n) (fun e => MemoryCanonical e.2) fun r => MemoryCanonical r := by
  refine answers_foldlM (P := fun r => MemoryCanonical r) (fun s p hs => ?_) _ hs
  split
  · exact hs
  · exact answers_jobSend hs ..
/-- What the engine reads and sends is generalised,
  not split on: its lengths are written with numerals that the kernel would unfold. -/

@[simp] theorem nextCanonical_execEngineRestore : NextCanonical (execEngineRestore s) := by
  refine nextCanonical_engineStep hs fun j => ?_
  split
  · exact hs
  case h_2 va len rva node win _ =>
  have h0 : MemoryCanonical (if (s.collOf j.id).isSome then s
      else s.modFz fun z => { z with collectives := z.collectives ++ [⟨j.id, 0, [], 0, 0⟩] }) := by
    split <;> simp [hs]
  dsimp only
  generalize (if (s.collOf j.id).isSome then s
      else s.modFz fun z => { z with collectives := z.collectives ++ [⟨j.id, 0, [], 0, 0⟩] }) = t at h0 ⊢
  split
  · exact h0
  split
  · exact h0
  case h_2 x _ =>
  have hhead := answers_restoreAsk h0 j rva node win x.seq x.at_ 64
  generalize t.restoreAsk j rva node win x.seq x.at_ 64 = u at hhead ⊢
  generalize x.streamBytes 64 = o
  cases o with
  | none =>
    cases u with
    | error e => simpa using hhead
    | ok u => exact hhead
  | some head =>
  dsimp only
  generalize chunkLens head = l
  have hbody := answers_restoreAsk h0 j rva node win x.seq (x.at_ + 64) (l.1 + l.2)
  generalize t.restoreAsk j rva node win x.seq (x.at_ + 64) (l.1 + l.2) = v at hbody ⊢
  generalize x.streamBytes (64 + l.1 + l.2) = o
  split
  · simpa using h0
  cases o with
  | none =>
    cases v with
    | error e => simpa using hbody
    | ok v => exact hbody
  | some bs =>
  dsimp only
  generalize Chunk.parse bs = o
  cases o with
  | none => simpa using h0
  | some c =>
  have hgive := answers_give h0 j 0 (c.va - va) c.data
  dsimp only
  generalize t.give j 0 (c.va - va) c.data = r at hgive ⊢
  cases r with
  | error e => simpa using hgive
  | ok w =>
    rw [answers_ok] at hgive
    dsimp only
    split <;> simpa using hgive

@[simp] theorem nextCanonical_execEngineRemoteAtomic : NextCanonical (execEngineRemoteAtomic s) := by
  refine nextCanonical_engineStep hs fun j => ?_
  split
  · split
    · exact hs
    have h := answers_take hs j 0 0 16
    dsimp only
    split
    case h_1 e he => rwa [he] at h
    case h_2 bs t ht =>
      rw [ht, answers_ok] at h
      exact workCanonical_await_of (answers_jobSend h ..)
  · exact hs

@[simp] theorem nextCanonical_execEngineCapacityTimeout : NextCanonical (execEngineCapacityTimeout s) := by
  unfold execEngineCapacityTimeout
  split <;> simp [hs]

/-! ### Sys2Proof/Machine/Fabric.lean -/

omit hs in
@[simp] theorem canonical_jobProgress (id : Nat) : MemoryCanonical (s.jobProgress id) ↔ MemoryCanonical s := by
  unfold State.jobProgress
  repeat' split
  all_goals simp

omit hs in
@[simp] theorem canonical_jobArrived (id : Nat) (x : Nat × Nat) : MemoryCanonical (s.jobArrived id x) ↔ MemoryCanonical s := by
  simp [State.jobArrived]

omit hs in
@[simp] theorem canonical_jobFabricFails (id status : Nat) :
    MemoryCanonical (s.jobFabricFails id status) ↔ MemoryCanonical s := by
  unfold State.jobFabricFails
  split <;> simp

omit hs in
@[simp] theorem canonical_pairDown (dst status : Nat) : MemoryCanonical (s.pairDown dst status) ↔ MemoryCanonical s := by
  simp [State.pairDown]

@[simp] theorem canonical_resend (dst seq : Nat) : MemoryCanonical (s.resend dst seq) := by
  have hend (r : Bool × State) (hr : MemoryCanonical r.2) : MemoryCanonical (if r.1 then r.2 else r.2.pairDown dst jsNoRoute) := by
    split <;> simp [hr]
  unfold State.resend
  split
  · exact hs
  split
  · simp [hs]
  refine hend _ (canonical_foldl_snd (fun acc k hacc => ?_) _ (by simp [hs]))
  split
  case h_1 t ht => exact canonical_launchMsg hacc _ _ t ht
  case h_2 => exact hacc

@[simp] theorem nextCanonical_execFinzonResendTimeout : NextCanonical (execFinzonResendTimeout s) := by
  simp [execFinzonResendTimeout, hs]

@[simp] theorem nextCanonical_execFinzonAck : NextCanonical (execFinzonAck s) := by
  unfold execFinzonAck
  dsimp only
  repeat' split
  all_goals simp [*]

@[simp] theorem nextCanonical_execFinzonNak : NextCanonical (execFinzonNak s) := by
  unfold execFinzonNak
  dsimp only
  repeat' split
  all_goals simp [*]

omit hs in
/-- Memory stays canonical in the state that an acceptance of a message answers. -/
def AcceptCanonical : Accept → Prop
  | .take s => MemoryCanonical s
  | .done s => MemoryCanonical s

theorem acceptCanonical_accept (m : FinzonMsg) : AcceptCanonical (s.accept m) := by
  unfold State.accept
  dsimp only
  split
  · exact canonical_badMsg.mpr hs
  split
  · exact canonical_answerMsg hs ..
  split
  · split
    · split
      · exact canonical_answerMsg (by simpa using hs) ..
      · simpa [AcceptCanonical] using hs
    · split
      · exact canonical_answerMsg (by simpa using hs) ..
      · simpa [AcceptCanonical] using hs
  split
  · simpa [AcceptCanonical] using hs
  · exact canonical_answerMsg hs ..

theorem nextCanonical_served {m : FinzonMsg} {n : Need} {work : RemoteWin → State → Done State}
    (hw : ∀ w {s : State}, MemoryCanonical s → Answers (work w s) (fun e => MemoryCanonical e.2) fun r => MemoryCanonical r) :
    NextCanonical (s.served m n work) := by
  have ha := acceptCanonical_accept hs m
  unfold State.served
  split
  · simp [hs]
  split
  case h_1 t ht => rw [ht] at ha; simpa [AcceptCanonical] using ha
  case h_2 t ht =>
  rw [ht] at ha
  split
  · simpa using canonical_answerMsg ha m (some 2)
  case h_2 w _ =>
  have h := hw w ha
  split
  case h_1 e he => rw [he] at h; simpa using canonical_answerMsg h m (some e.1)
  case h_2 u hu => rw [hu] at h; simpa using canonical_answerMsg h m none

theorem answers_remotePost (w : RemoteWin) (team flag : Nat) :
    Answers (s.remotePost w team flag) (fun e => MemoryCanonical e.2) fun r => MemoryCanonical r := by
  unfold State.remotePost
  split
  · exact hs
  · split <;> simp [hs]

@[simp] theorem nextCanonical_execFinzonPut : NextCanonical (execFinzonPut s) := by
  refine nextCanonical_served hs fun w t ht => ?_
  split
  · exact answers_remotePost ht ..
  split
  · exact ht
  have h := answers_vaWrite ht 0 (t.remoteWho w) (finzonOf s.arg).va (finzonOf s.arg).data
  split
  · exact ht
  case h_2 r hr => rwa [hr] at h

@[simp] theorem nextCanonical_execFinzonGet : NextCanonical (execFinzonGet s) := by
  refine nextCanonical_served hs fun w t ht => ?_
  split
  · exact ht
  have h := answers_vaRead ht 0 (t.remoteWho w) (finzonOf s.arg).va (finzonOf s.arg).len
  split
  · exact ht
  case h_2 r hr =>
  rw [hr, answers_ok] at h
  split
  · exact h
  split
  case h_1 x hx => exact canonical_sendKept h _ _ _ x hx
  case h_2 => simpa using h

theorem answers_remoteAtomic (p : Place) (fn n x y : Nat) :
    Answers (s.remoteAtomic p fn n x y) (fun e => MemoryCanonical e.2) fun r => MemoryCanonical r.2 := by
  unfold State.remoteAtomic
  dsimp only
  split
  · split <;> simp [hs]
  split
  · split <;> simp [hs]
  · rw [answers_ok]
    have h := canonical_foldl (fun s a hs => canonical_cleanGran hs p.gran a) (s.engRead 0 [⟨0, p, 0, n⟩]).1.subst
      (s := (s.engRead 0 [⟨0, p, 0, n⟩]).2) (by simpa using hs)
    split
    · exact h
    · exact canonical_engWrite h ..

@[simp] theorem nextCanonical_execFinzonAtomic : NextCanonical (execFinzonAtomic s) := by
  refine nextCanonical_served hs fun w t ht => ?_
  split
  · exact ht
  split
  · exact ht
  case h_2 p _ =>
  have h := answers_remoteAtomic ht p (finzonOf s.arg).stat (finzonOf s.arg).len ((finzonOf s.arg).opnd0 % 2 ^ (8 * (finzonOf s.arg).len))
    ((finzonOf s.arg).opnd1 % 2 ^ (8 * (finzonOf s.arg).len))
  split
  case h_1 e he => rwa [he] at h
  case h_2 old u hu =>
  rw [hu, answers_ok] at h
  split
  case h_1 x hx => exact canonical_sendKept h _ _ _ x hx
  case h_2 => simpa using h

theorem nextCanonical_answered {event : Instr} {m : FinzonMsg} {work : Job → State → State}
    (hw : ∀ j {s : State}, MemoryCanonical s → MemoryCanonical (work j s)) : NextCanonical (s.answered event m work) := by
  have ha := acceptCanonical_accept hs m
  unfold State.answered
  split
  · simp [hs]
  split
  case h_1 t ht => rw [ht] at ha; simpa [AcceptCanonical] using ha
  case h_2 t ht =>
  rw [ht] at ha
  have h := canonical_answerMsg ha m none
  dsimp only
  split
  · simpa using hw _ h
  · simpa using h

@[simp] theorem nextCanonical_execFinzonGetData : NextCanonical (execFinzonGetData s) := by
  unfold execFinzonGetData
  refine nextCanonical_answered hs fun j t ht => ?_
  dsimp only
  split
  · split
    · simpa using ht
    · exact ht
  split
  case h_1 rva _ _ _ =>
    have h := answers_give ht j 1 ((finzonOf s.arg).va - rva) (finzonOf s.arg).data
    split
    case h_1 e he => rw [he] at h; simpa using h
    case h_2 u hu => rw [hu] at h; simpa using h
  · exact ht

@[simp] theorem nextCanonical_execFinzonAtomicResult : NextCanonical (execFinzonAtomicResult s) := by
  unfold execFinzonAtomicResult
  refine nextCanonical_answered hs fun j t ht => ?_
  have h := answers_give ht j 1 0 (bytesOfNat 8 (wrapN 64 (sextN (8 * (finzonOf s.arg).len) (finzonOf s.arg).opnd0)))
  split
  case h_1 e he => rw [he] at h; simpa using h
  case h_2 u hu => rw [hu] at h; simpa using h

@[simp] theorem nextCanonical_execFinzonCollective : NextCanonical (execFinzonCollective s) := by
  refine nextCanonical_served hs fun w t ht => ?_
  split
  · exact ht
  split
  · simpa using ht
  split
  · simpa using ht
  · simpa using ht

@[simp] theorem nextCanonical_execFinzonTransit : NextCanonical (execFinzonTransit s) := by
  unfold execFinzonTransit
  dsimp only
  repeat' split
  all_goals simp [*]

@[simp] theorem nextCanonical_execFinzonReservedType : NextCanonical (execFinzonReservedType s) := by
  simp [execFinzonReservedType, hs]

@[simp] theorem nextCanonical_execFinzonPortChange : NextCanonical (execFinzonPortChange s) := by simp [execFinzonPortChange, hs]

/-! ### Sys2Proof/Machine/Tensors.lean -/

@[simp] theorem answers_tensorRuns (die : Nat) (who : Who) (id : Nat) (t : Tsr) (runs : List (Nat × Nat)) :
    Answers (s.tensorRuns die who id t runs) (fun _ => True) fun r => MemoryCanonical r.2.2 := by
  unfold State.tensorRuns
  split
  · trivial
  · dsimp only
    split <;> simp [hs]

@[simp] theorem answers_tensorGet (die : Nat) (who : Who) (id : Nat) :
    Answers (s.tensorGet die who id) (fun _ => True) fun r => MemoryCanonical r.2.2 := by
  unfold State.tensorGet
  split <;> simp [hs]

@[simp] theorem answers_tensorPick (die : Nat) (who : Who) (id : Nat) (sel : List Nat → Bool) :
    Answers (s.tensorPick die who id sel) (fun _ => True) fun r => MemoryCanonical r.2.2 := by
  unfold State.tensorPick
  split <;> simp [hs]

theorem answers_tensorPut (die : Nat) (who : Who) (id : Nat) (v : TVal) (sel : List Nat → Bool) :
    Answers (s.tensorPut die who id v sel) (fun _ => True) fun r => MemoryCanonical r.2 := by
  unfold State.tensorPut
  split
  · trivial
  refine answers_foldlM (P := fun r : Nat × State => MemoryCanonical r.2) (fun acc k hacc => ?_) _ hs
  refine answers_bind (P := fun _ => True) ?_ fun segs _ => ?_
  · cases acc.2.runSegs who needW id _ _ <;> trivial
  · exact canonical_foldl_snd (fun acc g hacc => by simp [hacc]) _ hacc

/-! ### Sys2Proof/Machine/Packets.lean -/

omit hs in
@[simp] theorem canonical_modQueue (dctx q : Nat) (f : Queue → Queue) :
    MemoryCanonical (s.modQueue dctx q f) ↔ MemoryCanonical s := by
  simp [State.modQueue]

omit hs in
@[simp] theorem canonical_sendQv (dctx q : Nat) : MemoryCanonical (s.sendQv dctx q) ↔ MemoryCanonical s := by simp [State.sendQv]

omit hs in
@[simp] theorem canonical_stallQueue (dctx q : Nat) : MemoryCanonical (s.stallQueue dctx q) ↔ MemoryCanonical s := by
  simp [State.stallQueue]

@[simp] theorem answers_signalWrite (die dctx csig word : Nat) :
    Answers (s.signalWrite die dctx csig word) (fun _ => True) fun r => MemoryCanonical r := by
  unfold State.signalWrite
  dsimp only
  split
  · exact answers_sigUpdate hs ..
  · exact answers_map (answers_vaWrite hs ..) fun _ h => h

@[simp] theorem canonical_releaseAll : MemoryCanonical s.releaseAll := by
  refine canonical_foldl (fun s a hs => ?_) _ hs
  simp [hs]

@[simp] theorem answers_completionWrite (die dctx csig word : Nat) :
    Answers (s.completionWrite die dctx csig word) (fun _ => True) fun r => MemoryCanonical r := by
  simp [State.completionWrite, hs]

@[simp] theorem canonical_completion (dctx q csig word : Nat) : MemoryCanonical (s.completion dctx q csig word) := by
  grind [Answers, State.completion, canonical_stallQueue,
    answers_completionWrite, canonical_releaseAll, canonical_modQueue]

@[simp] theorem canonical_packetDone (dctx q csig : Nat) (b : Bool) (status jobStatus : Nat) :
    MemoryCanonical (s.packetDone dctx q csig b status jobStatus) := by
  simp [State.packetDone, hs]

omit hs in
@[simp] theorem canonical_dropGrid (g : Nat) : MemoryCanonical (s.dropGrid g) ↔ MemoryCanonical s := by simp [State.dropGrid]
end

end Sys2Proof.Proofs
end

section
/-! SUPPORT. Canonical memory: the tables and records of the drafting unit. -/

namespace Sys2Proof.Proofs

open Sys2Proof Sys2Proof.Machine Sys2Proof.Claims Sys2Proof.Laws

section
variable {s : State} (hs : MemoryCanonical s)
include hs

/-! ### Sys2Proof/Machine/Plan.lean -/

omit hs in
/-- The definition, unfolded as a whole: unfolding an application would compare two matches whose discriminant the
kernel evaluates. -/
theorem statWrite_def : State.statWrite = delta% State.statWrite := rfl

@[simp] theorem canonical_statWrite (dctx tbase six : Nat) (x : Stats) (sf : Nat) :
    MemoryCanonical (s.statWrite dctx tbase six x sf) := by
  rw [statWrite_def]
  beta_reduce
  generalize s.tableRead dctx (statVa tbase six) 32 = r
  cases r with
  | error t => exact hs
  | ok bs => exact canonical_tableWrite hs ..

@[simp] theorem canonical_showPlan (id : Nat) : MemoryCanonical (s.showPlan id) := by
  unfold State.showPlan
  split <;> simp [hs]

@[simp] theorem canonical_setPlan (id : Nat) (f : Plan → Plan) : MemoryCanonical (s.setPlan id f) := by simp [State.setPlan, hs]

omit hs in
@[simp] theorem canonical_draft (die : Nat) : MemoryCanonical (s.draft die) ↔ MemoryCanonical s := by
  unfold State.draft
  dsimp only
  repeat' split
  all_goals simp

omit hs in
@[simp] theorem canonical_enqueuePlan (die id : Nat) : MemoryCanonical (s.enqueuePlan die id) ↔ MemoryCanonical s := by
  simp [State.enqueuePlan]

@[simp] theorem answers_submit (x : Submission) : Answers (s.submit x) (fun _ => True) fun r => MemoryCanonical r := by
  unfold State.submit
  dsimp only
  split
  · trivial
  split
  · trivial
  refine answers_bind (P := fun _ => True) ?_ fun _ _ => answers_bind (P := fun _ => True) ?_ fun _ _ => ?_
  · generalize s.readQuery _ _ _ _ = r
    cases r <;> trivial
  · generalize s.choose _ _ _ _ _ _ = r
    cases r <;> trivial
  · rw [answers_pure, canonical_enqueuePlan]
    exact canonical_showPlan (by simpa using hs) _

@[simp] theorem answers_resubmit (p : Plan) (e die : Nat) (result : Option (Nat × Nat × Nat)) :
    Answers (s.resubmit p e die result) (fun _ => True) fun r => MemoryCanonical r := by
  unfold State.resubmit
  dsimp only
  refine answers_bind (P := fun _ => True) ?_ fun _ _ => answers_bind (P := fun _ => True) ?_ fun _ _ => ?_
  · generalize s.readQuery _ _ _ _ = r
    cases r <;> trivial
  · generalize s.choose _ _ _ _ _ _ = r
    cases r <;> trivial
  · rw [answers_pure, canonical_enqueuePlan]
    exact canonical_setPlan hs ..

omit hs in
@[simp] theorem canonical_planAdvance (id : Nat) : MemoryCanonical (s.planAdvance id) ↔ MemoryCanonical s := by
  unfold State.planAdvance
  dsimp only
  repeat' split
  all_goals simp

@[simp] theorem canonical_planStart (id : Nat) : MemoryCanonical (s.planStart id) := by simp [State.planStart, hs]

@[simp] theorem canonical_planRaise (p : Plan) (cause info : Nat) : MemoryCanonical (s.planRaise p cause info) := by
  unfold State.planRaise
  split <;> simp [hs]

@[simp] theorem canonical_planPacketEnd (p : Plan) (status jobStatus : Nat) :
    MemoryCanonical (s.planPacketEnd p status jobStatus) := by
  unfold State.planPacketEnd
  split <;> simp [hs]

omit hs in
@[simp] theorem canonical_planTell (p : Plan) : MemoryCanonical (s.planTell p) ↔ MemoryCanonical s := by
  unfold State.planTell
  split <;> simp

@[simp] theorem canonical_planStop (p : Plan) : MemoryCanonical (s.planStop p) := by simp [State.planStop, hs]

@[simp] theorem canonical_planFail (p : Plan) (status : Nat) : MemoryCanonical (s.planFail p status) := by
  simp [State.planFail, hs]

@[simp] theorem canonical_planJobEnd (id status : Nat) : MemoryCanonical (s.planJobEnd id status) := by
  unfold State.planJobEnd
  split <;> simp [hs]
end

end Sys2Proof.Proofs
end

section
/-! SUPPORT. Canonical memory: planning, runs and planned matrix work. -/

namespace Sys2Proof.Proofs

open Sys2Proof Sys2Proof.Machine Sys2Proof.Claims Sys2Proof.Laws

section
variable {s : State} (hs : MemoryCanonical s)
include hs

/-! ### Sys2Proof/Machine/Plan.lean -/

@[simp] theorem nextCanonical_execPlanningEnd : NextCanonical (execPlanningEnd s) := by
  unfold execPlanningEnd
  dsimp only
  split
  · simp [hs]
  split
  · simp [hs]
  rw [nextCanonical_next, canonical_draft]
  split
  · split
    · refine canonical_planPacketEnd (canonical_setPlan ?_ ..) ..
      split <;> simp [hs]
    · refine (canonical_planTell ..).mpr (canonical_setPlan ?_ ..)
      split <;> simp [hs]
  split
  · refine (canonical_planAdvance ..).mpr (canonical_setPlan ?_ ..)
    split <;> simp [hs]
  split
  · refine canonical_planStart ((canonical_modPlan ..).mpr ?_) ..
    split <;> simp [hs]
  · refine (canonical_planTell ..).mpr (canonical_setPlan ?_ ..)
    split <;> simp [hs]

omit hs in
@[simp] theorem canonical_replan (p : Plan) (j : Nat) : MemoryCanonical (s.replan p j) ↔ MemoryCanonical s := by
  unfold State.replan
  dsimp only
  split <;> simp

@[simp] theorem nextCanonical_execPlanBreak : NextCanonical (execPlanBreak s) := by
  unfold execPlanBreak
  dsimp only
  split
  · simp [hs]
  split
  · rw [nextCanonical_next]
    split <;> simp [hs]
  split
  · simp [hs]
  split
  · simp [hs]
  split
  · simp [hs]
  split
  · simp [hs]
  · rw [nextCanonical_next, canonical_planAdvance]
    refine canonical_showPlan ?_ _
    split <;> simp [hs]

@[simp] theorem canonical_planStats (p : Plan) : MemoryCanonical (s.planStats p) := by
  refine canonical_foldl (fun t b ht => ?_) _ hs
  have h := answers_tensorGet ht p.die p.who b.1
  split
  case h_1 r hr => rw [hr, answers_ok] at h; exact canonical_statWrite h ..
  case h_2 => exact ht

@[simp] theorem nextCanonical_execPlanComplete : NextCanonical (execPlanComplete s) := by
  unfold execPlanComplete
  dsimp only
  split
  · simp [hs]
  split
  · simp [hs]
  case h_2.isFalse p _ _ =>
    have h := canonical_setPlan (canonical_releaseAll (canonical_planStats hs p)) p.id fun q =>
      if q.invalidated then { q with st := .invalid, code := 1, invalidated := false, resume := none }
      else { q with st := .done, code := 0 }
    split
    · exact nextCanonical_next.mpr (canonical_planPacketEnd h ..)
    · exact nextCanonical_next.mpr ((canonical_planTell ..).mpr h)

@[simp] theorem answers_planValue (p : Plan) (v : Nat) :
    Answers (s.planValue p v) (fun _ => True) fun r => MemoryCanonical r.2.2 := by
  grind [Answers, State.planValue, answers_tensorGet, answers_vaRead]

@[simp] theorem answers_planKeep (p : Plan) (i : Nat) (v : TVal) (sel : List Nat → Bool) :
    Answers (s.planKeep p i v sel) (fun _ => True) fun r => MemoryCanonical r.2 := by
  grind [Answers, State.planKeep, answers_tensorPut, answers_vaWrite]

@[simp] theorem answers_planNode (p : Plan) (i : Nat) :
    Answers (s.planNode p i) (fun _ => True) fun r => MemoryCanonical r.2 := by
  unfold State.planNode
  refine answers_bind (answers_planValue hs ..) fun a ha => ?_
  dsimp only
  refine answers_bind (P := fun b : Option TVal × Nat × State => MemoryCanonical b.2.2) ?_ fun b hb => ?_
  · split
    · exact ha
    · exact answers_map (answers_planValue ha ..) fun _ h => h
  refine answers_bind (P := fun t : TVal × Nat × State => MemoryCanonical t.2.2) ?_ fun t ht => ?_
  · split
    · exact answers_tensorPick hb ..
    · exact hb
  refine answers_bind (answers_planKeep (by simpa using ht) ..) fun w hw => ?_
  simpa using hw

@[simp] theorem canonical_planAsk (j : Job) (p : Plan) (c : Fin 192) : MemoryCanonical (s.planAsk j p c) := by
  simp [State.planAsk, hs]

@[simp] theorem nextCanonical_execPlannedMatrixWork : NextCanonical (execPlannedMatrixWork s) := by
  unfold execPlannedMatrixWork
  split
  · simp [hs]
  case h_2 j _ =>
  split
  case h_2 => simp [hs]
  split
  · simp [hs]
  case h_2 p _ =>
  extract_lets wait grid contract run
  have hwait {t : State} (ht : MemoryCanonical t) : NextCanonical (wait t) := by simp [wait, ht]
  have hrun (on : Option (Fin 192 × Fin 2)) : NextCanonical (run s on) := by
    have h := answers_planNode hs p p.nextNode
    dsimp only [run]
    split
    · simp [hs]
    case h_2 n t ht =>
      rw [ht, answers_ok] at h
      rw [nextCanonical_next, canonical_endJob, canonical_jobLeaveDone]
      split <;> simp [h]
  clear_value wait run
  split
  · simp [hs]
  split
  · exact hwait hs
  split
  · exact hrun none
  split
  · split
    · exact hrun _
    · split <;> simp [hs]
  · refine hwait ?_
    split <;> simp [hs]

@[simp] theorem canonical_loadedLike (ea len : Nat) : MemoryCanonical (s.loadedLike ea len) := by
  unfold State.loadedLike
  split <;> simp [hs]

@[simp] theorem canonical_queryLoaded (qd bd : Nat) : MemoryCanonical (s.queryLoaded qd bd) := by
  unfold State.queryLoaded
  split
  · exact canonical_loadedLike (canonical_loadedLike hs ..) ..
  · exact hs

theorem canonical_threadSubmit (ws : Bool) (d : Opnd) {f : State → Option (Nat × Nat × Nat) → Except Nat State}
    (hf : ∀ {s : State} r, MemoryCanonical s → Answers (f s r) (fun _ => True) fun r => MemoryCanonical r) :
    MemoryCanonical (s.threadSubmit ws d f) := by
  unfold State.threadSubmit
  have h := hf (s := (s.openLong 7 (.s d) ws).2) (some (s.curCore.val, s.curCtx.val,
    (s.openLong 7 (.s d) ws).1)) (by simpa using hs)
  dsimp only
  split
  case h_1 t ht => rwa [ht] at h
  case h_2 => simp [hs]

@[simp] theorem nextCanonical_execYQsub (ws : Bool) (d a b : Opnd) : NextCanonical (execYQsub ws d a b s) := by
  unfold execYQsub
  exact nextCanonical_guarded hs (canonical_threadSubmit (canonical_queryLoaded hs ..) ws d fun r ht => answers_submit ht _)

@[simp] theorem nextCanonical_execYQsubRe (ws : Bool) (d : Opnd) (h : BitVec 8) : NextCanonical (execYQsubRe ws d h s) := by
  unfold execYQsubRe
  refine nextCanonical_guarded hs ?_
  dsimp only
  split
  · exact hs
  · exact canonical_threadSubmit (canonical_queryLoaded hs ..) ws d fun r ht => answers_resubmit ht ..

@[simp] theorem nextCanonical_execYQrun (a : Opnd) : NextCanonical (execYQrun a s) := by
  unfold execYQrun
  refine nextCanonical_guarded hs ?_
  dsimp only
  split
  · split
    · exact canonical_setPlan (by simp [hs]) ..
    · exact canonical_planStart (by simp [hs]) ..
  · simp [hs]

@[simp] theorem nextCanonical_execYQwait (ws : Bool) (d a : Opnd) (rel : Bool) : NextCanonical (execYQwait ws d a rel s) := by
  simp [execYQwait, hs]

@[simp] theorem nextCanonical_execYHint (a b : Opnd) : NextCanonical (execYHint a b s) := by
  unfold execYHint
  refine nextCanonical_guarded hs ?_
  split
  · exact hs
  · split <;> simp [hs]

@[simp] theorem canonical_pinning (h : Nat) (whole : Bool) (node : Nat) (on : Bool) :
    MemoryCanonical (s.pinning h whole node on) := by
  unfold State.pinning
  split
  · exact hs
  · exact canonical_setPlan hs ..

@[simp] theorem nextCanonical_execYPin (a : Opnd) (whole : Bool) (node : BitVec 5) : NextCanonical (execYPin a whole node s) := by
  simp [execYPin, hs]

@[simp] theorem nextCanonical_execYUnpin (a : Opnd) (whole : Bool) (node : BitVec 5) :
    NextCanonical (execYUnpin a whole node s) := by
  simp [execYUnpin, hs]

@[simp] theorem canonical_storeBytes (ea : Nat) (bs : List Byte) : MemoryCanonical (s.storeBytes ea bs) := by
  unfold State.storeBytes
  split <;> simp [hs]

@[simp] theorem nextCanonical_execYPlanrd (a b : Opnd) : NextCanonical (execYPlanrd a b s) := by simp [execYPlanrd, hs]

@[simp] theorem nextCanonical_execYStatrd (a b : Opnd) : NextCanonical (execYStatrd a b s) := by
  unfold execYStatrd
  refine nextCanonical_guarded hs ?_
  generalize s.tableRead s.curWho.dctx (statVa s.curWho.tsrt (s.ctx.sGet a).toNat) 32 = r
  cases r with
  | ok bs => exact canonical_storeBytes hs ..
  | error t => simp [hs]

@[simp] theorem canonical_markPlans (w : Who) (six : Nat) : MemoryCanonical (s.markPlans w six) := by
  unfold State.markPlans
  exact (canonical_post ..).mpr (canonical_foldl (fun s p hs => canonical_setPlan hs ..) _ hs)

@[simp] theorem canonical_statPut (i va : Nat) : MemoryCanonical (s.statPut i va) := by
  unfold State.statPut
  split
  · exact hs
  · exact canonical_statWrite (by simp [hs]) ..

@[simp] theorem nextCanonical_execYStatwr (a b : Opnd) : NextCanonical (execYStatwr a b s) := by
  unfold execYStatwr
  exact nextCanonical_guarded hs ((canonical_syncDone ..).mpr (canonical_releaseAt (canonical_statPut hs ..) _))

@[simp] theorem nextCanonical_execYStatwrInv (a b : Opnd) : NextCanonical (execYStatwrInv a b s) := by
  unfold execYStatwrInv
  exact nextCanonical_guarded hs ((canonical_syncDone ..).mpr (canonical_releaseAt (canonical_markPlans (canonical_statPut hs ..) ..) _))
end

end Sys2Proof.Proofs
end

section
/-! SUPPORT. Canonical memory: firmware, save, restore and the host port. -/

namespace Sys2Proof.Proofs

open Sys2Proof Sys2Proof.Machine Sys2Proof.Claims Sys2Proof.Laws

section
variable {s : State} (hs : MemoryCanonical s)
include hs

/-! ### Sys2Proof/Machine/Firmware.lean -/

omit hs in
@[simp] theorem canonical_dropWrite (d : Nat) : MemoryCanonical (s.dropWrite d) ↔ MemoryCanonical s := by simp [State.dropWrite]

@[simp] theorem canonical_applyLanding (d : Nat) (e : Landing) : MemoryCanonical (s.applyLanding d e) := by
  unfold State.applyLanding
  split
  · simp [hs]
  · refine canonical_foldl (fun t r ht => ?_) _ hs
    have h := answers_vaWrite ht 0 (t.fwWho d) (e.va + r.1) (((bytesOf 64 e.data).drop r.1).take r.2)
    split
    case h_1 x hx => rwa [hx, answers_ok] at h
    case h_2 => exact ht

@[simp] theorem canonical_applyDue (ds : List Nat) (due : Landing → Bool) : MemoryCanonical (s.applyDue ds due) := by
  unfold State.applyDue
  refine canonical_foldl (fun t x ht => canonical_applyLanding ht ..) _ ?_
  refine canonical_foldl (fun t d ht => ?_) _ hs
  split <;> simp [ht]

@[simp] theorem canonical_hostWindowPoint (c : Fin 192) : MemoryCanonical (s.hostWindowPoint c) := canonical_applyDue hs _ _

@[simp] theorem canonical_pollSignal (d q csig word : Nat) : MemoryCanonical (s.pollSignal d q csig word) := by
  unfold State.pollSignal
  have h := answers_signalWrite (canonical_releaseAll hs) (s.queueOf d q).die d csig word
  split
  · exact canonical_releaseAll hs
  split
  case h_1 t ht => rwa [ht, answers_ok] at h
  case h_2 => exact canonical_releaseAll hs

@[simp] theorem canonical_leaveHead (d q : Nat) : MemoryCanonical (s.leaveHead d q) := by
  unfold State.leaveHead
  have h := answers_vaWrite hs (s.queueOf d q).die (s.fwWho d) (s.queueOf d q).head [0]
  dsimp only
  rw [canonical_modQueue]
  split
  case h_1 r hr => rwa [hr, answers_ok] at h
  case h_2 => exact hs

@[simp] theorem canonical_rejectPacket (d q : Nat) (p : Block) (status : Nat) :
    MemoryCanonical (s.rejectPacket d q p status) := by
  unfold State.rejectPacket
  refine canonical_leaveHead ((canonical_modDctx ..).mpr ((canonical_modQueue ..).mpr ?_)) ..
  split <;> simp [hs]

@[simp] theorem answers_readDeps (d q : Nat) (p : Block) :
    Answers (s.readDeps d q p) (fun _ => True) fun r => MemoryCanonical r.2 := by
  refine answers_foldlM (P := fun r : List Int × State => MemoryCanonical r.2) (fun acc i hacc => ?_) _ hs
  exact answers_map (answers_sigRead (by simpa using hacc) ..) fun _ h => h

omit hs in
@[simp] theorem canonical_addGrid (i : Nat) (g : Grid) : MemoryCanonical (s.addGrid i g) ↔ MemoryCanonical s := by
  simp [State.addGrid]

omit hs in
@[simp] theorem canonical_startGrid (i : Nat) (g : Grid) : MemoryCanonical (s.startGrid i g) ↔ MemoryCanonical s := by
  simp [State.startGrid]

@[simp] theorem canonical_launched (d q : Nat) (p : Block) : MemoryCanonical (s.launched d q p) := by
  refine canonical_leaveHead ?_ ..
  split <;> simp [hs]

@[simp] theorem canonical_runKernel (d q : Nat) (p : Block) : MemoryCanonical (s.runKernel d q p) := by
  rw [show State.runKernel = delta% State.runKernel from rfl]
  beta_reduce
  generalize s.claim d q p = c
  cases c with
  | wait => exact hs
  | never => exact canonical_rejectPacket hs ..
  | got i g => exact (canonical_startGrid ..).mpr (canonical_launched hs ..)

@[simp] theorem canonical_runPlan (d q : Nat) (p : Block) : MemoryCanonical (s.runPlan d q p) := by
  rw [show State.runPlan = delta% State.runPlan from rfl]
  beta_reduce
  generalize s.claim d q p = c
  cases c with
  | wait => exact hs
  | never => exact canonical_rejectPacket hs ..
  | got i g =>
    have ht : MemoryCanonical ((s.launched d q p).startGrid i { g with plan := some 0 }) :=
      (canonical_startGrid ..).mpr (canonical_launched hs ..)
    dsimp only
    generalize (s.launched d q p).startGrid i { g with plan := some 0 } = t at ht ⊢
    have h := answers_submit ht
        { dctx := d, tbase := g.tsrt, grid := some i, die := (s.queueOf d q).die,
          qd := pkF p 8 8, bd := pkF p 16 8, e := 1,
          pinned := bitN (pkF p 28 1) 0, owner := none, result := none, pkt := some (q, pkCsig p), pri := bitsN (pkF p 28 1) 1 2 }
    generalize t.submit _ = r at h ⊢
    cases r with
    | error e => exact canonical_rejectPacket hs ..
    | ok u => exact h

omit hs in
@[simp] theorem canonical_copyJob (d q csig : Nat) (sys b : Bool) (src dst len hostf : Nat) :
    MemoryCanonical (s.copyJob d q csig sys b src dst len hostf) ↔ MemoryCanonical s := by
  unfold State.copyJob
  simp only [canonical_post]
  simp

@[simp] theorem canonical_runCopy (d q : Nat) (p : Block) : MemoryCanonical (s.runCopy d q p) := by
  unfold State.runCopy
  split
  · exact hs
  · exact (canonical_copyJob ..).mpr (canonical_launched hs ..)

@[simp] theorem canonical_runSignal (d q : Nat) (p : Block) : MemoryCanonical (s.runSignal d q p) := by
  unfold State.runSignal
  refine canonical_leaveHead (canonical_pollSignal ?_ ..) ..
  have hend {r : Except Trouble State} (hr : Answers r (fun _ => True) fun t => MemoryCanonical t) :
      MemoryCanonical (r.toOption.getD s) := by
    cases r with
    | error t => exact hs
    | ok t => exact hr
  refine hend ?_
  split
  · exact hs
  split
  · exact answers_map (answers_vaWrite hs ..) fun _ h => h
  · exact answers_sigUpdate hs ..
  · exact answers_sigUpdate hs ..

@[simp] theorem canonical_runBarrier (d q : Nat) (p : Block) : MemoryCanonical (s.runBarrier d q p) := by
  unfold State.runBarrier
  have h := answers_readDeps hs d q p
  split
  · simp [hs]
  case h_2 r hr =>
  rw [hr, answers_ok] at h
  split
  · exact h
  · simp [h]
  · refine canonical_leaveHead ?_ ..
    simp [h]

@[simp] theorem canonical_abandon (d q : Nat) (p : Block) : MemoryCanonical (s.abandon d q p) := by
  refine canonical_leaveHead ?_ ..
  split <;> simp [hs]

@[simp] theorem canonical_pollHead (d q : Nat) (only : Option Nat) : MemoryCanonical (s.pollHead d q only) := by
  unfold State.pollHead
  have h := answers_vaRead (s := s.ncInvalidate (s.queueOf d q).die) (by simpa using hs) (s.queueOf d q).die (s.fwWho d)
    (s.queueOf d q).head 64
  dsimp only
  split
  · simp [hs]
  case h_2 r hr =>
  rw [hr, answers_ok] at h
  split
  · simp [h]
  split
  · exact h
  split
  · simp [h]
  split
  · exact canonical_abandon h ..
  split
  · exact canonical_rejectPacket h ..
  split
  · exact canonical_runKernel h ..
  · exact canonical_runCopy h ..
  · exact canonical_runSignal h ..
  · exact canonical_runPlan h ..
  · exact canonical_runBarrier h ..

@[simp] theorem canonical_flushKept (d q : Nat) (l : List (Nat × Nat)) : MemoryCanonical (State.flushKept d q l s) := by
  induction l generalizing s with
  | nil => simp [State.flushKept, hs]
  | cons x l ih =>
    have h := answers_completionWrite hs (s.queueOf d q).die d x.1 x.2
    unfold State.flushKept
    split
    case h_1 t ht => rw [ht, answers_ok] at h; exact ih h
    case h_2 => simp [hs]

@[simp] theorem canonical_pollReset (d q : Nat) : MemoryCanonical (s.pollReset d q) := by
  unfold State.pollReset
  dsimp only
  split
  · exact hs
  split
  · simp [hs]
  · exact canonical_flushKept (by simp [hs]) ..

@[simp] theorem canonical_poll (d q : Nat) (only : Option Nat) : MemoryCanonical (s.poll d q only) := by
  unfold State.poll
  dsimp only
  split
  · simp [hs]
  split
  · exact canonical_pollReset hs ..
  · exact canonical_pollHead (canonical_pollReset hs ..) ..

omit hs in
@[simp] theorem canonical_armFrame : MemoryCanonical s.armFrame ↔ MemoryCanonical s := by
  unfold State.armFrame
  split <;> simp

@[simp] theorem canonical_frameWork : MemoryCanonical s.frameWork := by
  refine canonical_foldl (fun t slot ht => ?_) _ (canonical_applyDue hs ..)
  refine canonical_foldl (fun t die ht => ?_) _ ht
  exact canonical_foldl (fun t k ht => canonical_poll ht ..) _ ht

omit hs in
@[simp] theorem canonical_firmwareFault (die : Fin 4) : MemoryCanonical (s.firmwareFault die) ↔ MemoryCanonical s := by
  simp [State.firmwareFault]

@[simp] theorem nextCanonical_execMinorFrame : NextCanonical (execMinorFrame s) := by
  unfold execMinorFrame
  extract_lets a t u
  have h : MemoryCanonical t := by
    unfold t
    split <;> simp [hs]
  have hu : MemoryCanonical u := by simpa [u] using h
  clear_value u
  clear_value t
  split
  · rw [nextCanonical_next]
    split <;> simp [h]
  split
  · exact nextCanonical_next.mpr hu
  split
  · simp [hu]
  · exact nextCanonical_next.mpr (canonical_frameWork hu)

@[simp] theorem nextCanonical_execKernel : NextCanonical (execKernel s) := by simp [execKernel, hs]

@[simp] theorem nextCanonical_execBarrierAnd : NextCanonical (execBarrierAnd s) := by simp [execBarrierAnd, hs]

@[simp] theorem nextCanonical_execBarrierOr : NextCanonical (execBarrierOr s) := by simp [execBarrierOr, hs]

@[simp] theorem nextCanonical_execCopy : NextCanonical (execCopy s) := by simp [execCopy, hs]

@[simp] theorem nextCanonical_execSignal : NextCanonical (execSignal s) := by simp [execSignal, hs]

@[simp] theorem nextCanonical_execPlan : NextCanonical (execPlan s) := by simp [execPlan, hs]

omit hs in
@[simp] theorem canonical_enableQueue (d q : Nat) : MemoryCanonical (s.enableQueue d q) ↔ MemoryCanonical s := by
  unfold State.enableQueue
  dsimp only
  split <;> simp

omit hs in
@[simp] theorem canonical_disableQueue (d q : Nat) : MemoryCanonical (s.disableQueue d q) ↔ MemoryCanonical s := by
  simp [State.disableQueue]

omit hs in
@[simp] theorem canonical_resetQueue (d q : Nat) : MemoryCanonical (s.resetQueue d q) ↔ MemoryCanonical s := by
  simp [State.resetQueue]

@[simp] theorem nextCanonical_execQueueEnable : NextCanonical (execQueueEnable s) := by simp [execQueueEnable, hs]

@[simp] theorem nextCanonical_execQueueDisable : NextCanonical (execQueueDisable s) := by simp [execQueueDisable, hs]

@[simp] theorem nextCanonical_execQueueReset : NextCanonical (execQueueReset s) := by simp [execQueueReset, hs]

@[simp] theorem canonical_stopRuns (g : Nat) : MemoryCanonical (s.stopRuns g) := by
  refine canonical_foldl (fun t p ht => ?_) _ hs
  have h := canonical_setPlan ht p.id fun p =>
      { p with st := .invalid, code := 2, resume := some p.nextNode, invalidated := false, job := none }
  dsimp only
  split
  · exact (canonical_jobLeaveDone ..).mpr h
  · exact h

@[simp] theorem canonical_gridDone (g : Nat) (x : Grid) (status : Nat) : MemoryCanonical (s.gridDone g x status) := by
  simp [State.gridDone, hs]

@[simp] theorem nextCanonical_execGridComplete : NextCanonical (execGridComplete s) := by
  unfold execGridComplete
  dsimp only
  repeat' split
  all_goals simp [*]

/-! ### Sys2Proof/Machine/Home.lean -/

@[simp] theorem canonical_beginTxn (e : DirEntry) (st : DirSt) (r : DirReq) (dies : List Nat) :
    MemoryCanonical (s.beginTxn e st r dies) := by
  simp [State.beginTxn, hs]

omit hs in
@[simp] theorem canonical_reply (line d : Nat) (excl nc : Bool) :
    MemoryCanonical (s.reply line d excl nc) ↔ MemoryCanonical s := by
  simp [State.reply]

@[simp] theorem canonical_homeWrite (line : Nat) (mask : BitVec 128) (d : Line) (gran : BitVec 3) (et : Bool) (agent : Nat) :
    MemoryCanonical (s.homeWrite line mask d gran et agent) := by
  simp [State.homeWrite, hs]

@[simp] theorem canonical_lineStable (e : DirEntry) (st : DirSt) (shr : BitVec 4) : MemoryCanonical (s.lineStable e st shr) := by
  simp [State.lineStable, hs]

@[simp] theorem canonical_serveReq (e : DirEntry) (r : DirReq) : MemoryCanonical (s.serveReq e r) := by
  unfold State.serveReq
  repeat' split
  all_goals simp [*]

@[simp] theorem canonical_endTxn (e : DirEntry) (r : DirReq) : MemoryCanonical (s.endTxn e r) := by
  grind [State.endTxn, canonical_ownerWrite, canonical_reply,
    canonical_homeWrite, canonical_lineStable, canonical_bumpVersion]

@[simp] theorem canonical_serveQueue (line n : Nat) : MemoryCanonical (State.serveQueue line n s) := by
  induction n generalizing s with
  | zero => exact hs
  | succ n ih =>
    unfold State.serveQueue
    dsimp only
    split
    · split
      · split
        · exact ih (canonical_endTxn hs ..)
        · exact hs
      · exact hs
    · split
      · exact hs
      · exact ih (canonical_serveReq (by simp [hs]) ..)

@[simp] theorem canonical_settle (line : Nat) : MemoryCanonical (s.settle line) := by simp [State.settle, hs]

omit hs in
@[simp] theorem canonical_countRequest (line : Nat) : MemoryCanonical (s.countRequest line) ↔ MemoryCanonical s := by
  simp [State.countRequest]

@[simp] theorem canonical_homeRequest (event : Instr) (line : Nat) (r : DirReq) (installs : Bool) :
    MemoryCanonical (s.homeRequest event line r installs) := by
  unfold State.homeRequest
  dsimp only
  repeat' split
  all_goals simp [*]

@[simp] theorem nextCanonical_dieRequest (event : Instr) (kind : DirReqKind) (caching : Bool) :
    NextCanonical (s.dieRequest event kind caching) := by
  simp [State.dieRequest, hs]

@[simp] theorem nextCanonical_execRds : NextCanonical (execRds s) := by simp [execRds, hs]

@[simp] theorem nextCanonical_execRde : NextCanonical (execRde s) := by simp [execRde, hs]

@[simp] theorem nextCanonical_execUpg : NextCanonical (execUpg s) := by simp [execUpg, hs]

@[simp] theorem nextCanonical_execNcrd : NextCanonical (execNcrd s) := by simp [execNcrd, hs]

@[simp] theorem nextCanonical_execNcwr : NextCanonical (execNcwr s) := by simp [execNcwr, hs]

@[simp] theorem nextCanonical_execMigrd : NextCanonical (execMigrd s) := by simp [execMigrd, hs]

omit hs in
@[simp] theorem canonical_answerSnoop (a : SnoopAns) : MemoryCanonical (s.answerSnoop a) ↔ MemoryCanonical s := by
  simp [State.answerSnoop]

@[simp] theorem canonical_snoop (keep : LineSt → Option LineSt) : MemoryCanonical (s.snoop keep) := by
  unfold State.snoop
  dsimp only
  repeat' split
  all_goals simp [*]

@[simp] theorem nextCanonical_execSnpinv : NextCanonical (execSnpinv s) := by simp [execSnpinv, hs]

@[simp] theorem nextCanonical_execSnpshr : NextCanonical (execSnpshr s) := by simp [execSnpshr, hs]

@[simp] theorem nextCanonical_execSnpcur : NextCanonical (execSnpcur s) := by simp [execSnpcur, hs]

@[simp] theorem nextCanonical_execBackinv : NextCanonical (execBackinv s) := by simp [execBackinv, hs]

@[simp] theorem canonical_counted (e : DirEntry) (d : Nat) (copy : Bool) (dirty : Option OwnerData) :
    MemoryCanonical (s.counted e d copy dirty) := by
  unfold State.counted
  dsimp only
  split <;> simp [hs]

@[simp] theorem nextCanonical_execSnoopAnswer : NextCanonical (execSnoopAnswer s) := by
  unfold execSnoopAnswer
  split <;> simp [hs]

@[simp] theorem canonical_writeback (event : Instr) (from_ : LineSt) (data : Option OwnerData) :
    MemoryCanonical (s.writeback event from_ data) := by
  have h : MemoryCanonical (s.post .wback { die := s.arg.die, addr := s.arg.addr }) := by simp [hs]
  unfold State.writeback
  dsimp only
  split
  · split
    · exact canonical_counted h ..
    split
    · refine canonical_settle (canonical_lineStable ?_ ..) ..
      split
      · exact canonical_ownerWrite h ..
      · exact h
    · exact h
  split
  · simp [hs]
  · exact hs

@[simp] theorem nextCanonical_execWbm : NextCanonical (execWbm s) := by simp [execWbm, hs]

@[simp] theorem nextCanonical_execEve : NextCanonical (execEve s) := by simp [execEve, hs]

@[simp] theorem nextCanonical_execWback : NextCanonical (execWback s) := by simp [execWback, hs]

omit hs in
@[simp] theorem install_bytes (m : MemSys) (die line : Nat) (st : LineSt) (hall : Fin 48) :
    (m.install die line st hall).bytes = m.bytes := by
  simp [MemSys.install]

@[simp] theorem nextCanonical_execDataToRequester : NextCanonical (execDataToRequester s) := by simp [execDataToRequester, hs]

omit hs in
@[simp] theorem canonical_registration (event : Instr) (write : Bool) :
    MemoryCanonical (s.registration event write) ↔ MemoryCanonical s := by
  unfold State.registration
  dsimp only
  repeat' split
  all_goals simp

@[simp] theorem nextCanonical_execRegr : NextCanonical (execRegr s) := by simp [execRegr, hs]

@[simp] theorem nextCanonical_execRegw : NextCanonical (execRegw s) := by simp [execRegw, hs]

/-! ### Sys2Proof/Machine/Migrate.lean -/

omit hs in
@[simp] theorem sweepSets_bytes (m : MemSys) (k : Nat) (f : Nat → Bool) : (m.sweepSets k f).bytes = m.bytes := by
  simp [MemSys.sweepSets]

omit hs in
@[simp] theorem beginPass_bytes (m : MemSys) (k : Nat) : (m.beginPass k).bytes = m.bytes := by simp [MemSys.beginPass]

@[simp] theorem nextCanonical_execDirectorySweep : NextCanonical (execDirectorySweep s) := by simp [execDirectorySweep, hs]

@[simp] theorem canonical_hwWrite8 (dpa x : Nat) : MemoryCanonical (s.hwWrite8 dpa x) := by simp [State.hwWrite8, hs]

@[simp] theorem canonical_migRead (line : Nat) : MemoryCanonical (s.migRead line) := by
  unfold State.migRead
  dsimp only
  split <;> simp [hs]

@[simp] theorem canonical_copyPage (p : HotPage) (frame : Nat) : MemoryCanonical (s.copyPage p frame) := by
  refine canonical_foldl (fun t c ht => ?_) _ ((canonical_foldl_iff (fun t i => by simp) _ _).mpr ?_)
  · have h : MemoryCanonical (t.granRead (peGran (entryAt s p.entry)) c.1).2.2 := by simpa using ht
    simp [granWrite_wf, h]
  · exact canonical_foldl (fun t line ht => canonical_migRead ht ..) _ hs

@[simp] theorem canonical_modPage (k page : Nat) (f : HotPage → HotPage) : MemoryCanonical (s.modPage k page f) := by
  simp [State.modPage, hs]

@[simp] theorem canonical_settlePage (k page : Nat) : MemoryCanonical (s.settlePage k page) := by simp [State.settlePage, hs]

@[simp] theorem canonical_copyPhase (k : Nat) (p : HotPage) (frame : Nat) : MemoryCanonical (s.copyPhase k p frame) := by
  simp [State.copyPhase, hs]

@[simp] theorem canonical_startMove (k to_ : Nat) (p : HotPage) : MemoryCanonical (s.startMove k to_ p) := by
  unfold State.startMove
  split
  · simp [hs]
  · refine canonical_copyPhase (canonical_modPage ?_ ..) ..
    split <;> simp [hs]

@[simp] theorem nextCanonical_execHotTablePeriodEnd : NextCanonical (execHotTablePeriodEnd s) := by
  unfold execHotTablePeriodEnd
  extract_lets k h u c
  have hu : MemoryCanonical u := by
    unfold u
    split
    · exact hs
    · refine canonical_foldl (fun t p ht => ?_) _ hs
      split
      · split
        · exact canonical_startMove ht ..
        · exact ht
      · exact ht
  simp [hu]

omit hs in
@[simp] theorem canonical_retryHeld (k : Nat) (p : HotPage) : MemoryCanonical (s.retryHeld k p) ↔ MemoryCanonical s := by
  simp [State.retryHeld]

@[simp] theorem canonical_abandonMove (k : Nat) (p : HotPage) : MemoryCanonical (s.abandonMove k p) := by
  unfold State.abandonMove
  extract_lets t u
  have ht : MemoryCanonical t := by simp [t, hs]
  have hu : MemoryCanonical u := canonical_foldl (fun v e hv => canonical_settle hv ..) _ ht
  split
  · exact canonical_settlePage hu ..
  · exact hu

@[simp] theorem canonical_switchMove (k : Nat) (p : HotPage) (to_ frame slot : Nat) :
    MemoryCanonical (s.switchMove k p to_ frame slot) := by
  unfold State.switchMove
  extract_lets t gone u e v w moved x y
  have hu : MemoryCanonical u :=
    canonical_foldl (fun t l ht => (canonical_recall ..).mpr ht) _ ((canonical_retryHeld ..).mpr hs)
  have hw : MemoryCanonical w := canonical_hwWrite8 (canonical_hwWrite8 hu ..) ..
  have hy : MemoryCanonical y := by
    unfold y x
    split <;> simp [hw]
  split
  · exact canonical_settlePage hy ..
  · exact hy

@[simp] theorem nextCanonical_execMigrationSwitch : NextCanonical (execMigrationSwitch s) := by
  unfold execMigrationSwitch
  dsimp only
  repeat' split
  all_goals simp [*]

@[simp] theorem nextCanonical_execMigrationWindowEnd : NextCanonical (execMigrationWindowEnd s) := by
  simp [execMigrationWindowEnd, hs]

omit hs in
@[simp] theorem canonical_lookAgain (c : Fin 192) (x : Fin 4) : MemoryCanonical (s.lookAgain c x) ↔ MemoryCanonical s := by
  simp [State.lookAgain]

@[simp] theorem nextCanonical_execRetry : NextCanonical (execRetry s) := by simp +contextual [execRetry, hs, canonical_foldl]

@[simp] theorem nextCanonical_execRegistrationAnswer : NextCanonical (execRegistrationAnswer s) := by
  unfold execRegistrationAnswer
  dsimp only
  split <;> simp [hs]

/-! ### Sys2Proof/Machine/JobEnd.lean -/

@[simp] theorem canonical_retire (j : Job) (status : Nat) : MemoryCanonical (s.retire j status) := by
  unfold State.retire
  split <;> simp [hs]

omit hs in
@[simp] theorem canonical_reportJob (j : Job) (status : Nat) : MemoryCanonical (s.reportJob j status) ↔ MemoryCanonical s := by
  unfold State.reportJob
  repeat' split
  all_goals simp

@[simp] theorem canonical_jobFailed (j : Job) (va status : Nat) : MemoryCanonical (s.jobFailed j va status) := by
  simp [State.jobFailed, hs]

@[simp] theorem canonical_jobRelease (j : Job) : MemoryCanonical (s.jobRelease j) := by simp [State.jobRelease, hs]

omit hs in
/-- Memory stays canonical in the state that a completion action answers. -/
def ActionCanonical : Action → Prop
  | .done s => MemoryCanonical s
  | .stays s => MemoryCanonical s
  | .fails _ => True

theorem actionCanonical_signalAction (j : Job) (i : Nat) : ActionCanonical (s.signalAction j i) := by
  unfold State.signalAction
  dsimp only
  split
  · trivial
  · have h := answers_sigUpdate hs j.die (s.jobWho j) (s.jobWho j).dctx i sigDec
    split
    · trivial
    case h_2 t ht => rwa [ht, answers_ok] at h

theorem actionCanonical_jobAction (j : Job) : ActionCanonical (s.jobAction j) := by
  have h := canonical_jobRelease hs j
  unfold State.jobAction
  dsimp only
  split
  · show MemoryCanonical _
    split
    · exact canonical_postFlag h ..
    · exact h
  · split
    · trivial
    case h_2 ht => exact (canonical_modJob ..).mpr (canonical_sendKept h _ _ _ _ ht)
  · exact canonical_barrierUpdate h ..
  · exact actionCanonical_signalAction h ..
  · split
    · exact h
    · split
      case h_1 ht => exact canonical_handlerCreate h _ _ _ _ _ _ _ _ _ _ ht
      case h_2 => exact (canonical_modTeam ..).mpr h
  · exact h

@[simp] theorem canonical_threadJobEnd (j : Job) (va : Nat) : MemoryCanonical (s.threadJobEnd j va) := by
  have h := actionCanonical_jobAction hs j
  unfold State.threadJobEnd
  split
  · simp [hs]
  · split
    case h_1 t ht => rw [ht] at h; exact canonical_retire h ..
    case h_2 t ht => rw [ht] at h; exact h
    · simp [hs]

@[simp] theorem nextCanonical_execJobComplete : NextCanonical (execJobComplete s) := by
  unfold execJobComplete
  repeat' split
  all_goals simp [*]
end

end Sys2Proof.Proofs
end

section
/-! SUPPORT. Canonical memory: issue, the operations of a bundle, and the step. -/

namespace Sys2Proof.Proofs

open Sys2Proof Sys2Proof.Machine Sys2Proof.Claims Sys2Proof.Laws

section
variable {s : State} (hs : MemoryCanonical s)
include hs

/-! ### Sys2Proof/Machine/Issue.lean -/

omit hs in
@[simp] theorem canonical_hold (why : Stall) : MemoryCanonical (s.hold why) ↔ MemoryCanonical s := by simp [State.hold]

omit hs in
@[simp] theorem canonical_stopWaiting (why : Option Stall) (f : Rec → Rec) :
    MemoryCanonical (s.stopWaiting why f) ↔ MemoryCanonical s := by
  unfold State.stopWaiting
  dsimp only
  split <;> simp

omit hs in
@[simp] theorem canonical_stopReady : MemoryCanonical s.stopReady ↔ MemoryCanonical s := by simp [State.stopReady]

omit hs in
@[simp] theorem canonical_askLeave (cls : Nat) : MemoryCanonical (s.askLeave cls) ↔ MemoryCanonical s := by
  unfold State.askLeave
  dsimp only
  split <;> simp

omit hs in
@[simp] theorem canonical_leaveStalled : MemoryCanonical s.leaveStalled ↔ MemoryCanonical s := by simp [State.leaveStalled]

omit hs in
@[simp] theorem canonical_askHome (info : Nat) : MemoryCanonical (s.askHome info) ↔ MemoryCanonical s := by
  unfold State.askHome
  dsimp only
  repeat' split
  all_goals simp

omit hs in
@[simp] theorem canonical_stalled (ops : List Latched) (why : Stall) (info : Nat) :
    MemoryCanonical (s.stalled ops why info) ↔ MemoryCanonical s := by
  unfold State.stalled
  repeat' split
  all_goals simp

omit hs in
@[simp] theorem canonical_issueReserve (cls : BitVec 2) : MemoryCanonical (s.issueReserve cls) ↔ MemoryCanonical s := by
  unfold State.issueReserve
  split <;> simp

@[simp] theorem canonical_issueEngine (b : BSource) : MemoryCanonical (s.issueEngine b) := by
  have hrun : MemoryCanonical (MRun.of s.acquireEngine).s := canonical_acquireEngine.mpr hs
  unfold State.issueEngine
  split
  · exact (canonical_stalled ..).mpr hs
  · extract_lets -lift t
    have hm : MatCanonical id (if b.kind = 0 then .ok (MRun.of t) else (MRun.of t).loadB b.kind b.aval b.shape >>= MRun.settle) := by
      refine matCanonical_ite (fun _ => matCanonical_ok.mpr hrun) fun _ => ?_
      exact matCanonical_bind (matCanonical_loadB hrun _ _ _) fun r hr => matCanonical_settle hr
    split
    · exact canonical_takeTrap hs ..
    · next r h =>
      have hr : MemoryCanonical r.s := hm r h
      split
      · exact canonical_takeTrap hs ..
      · exact (canonical_stalled ..).mpr hs
      · extract_lets -lift u
        have hu : MemoryCanonical u := (canonical_modCtx ..).mpr (canonical_registerAll hr ..)
        clear_value u
        split
        · refine canonical_raise ?_ ..
          split
          · exact (canonical_poisonReport ..).mpr hu
          · exact hu
        · exact hu

@[simp] theorem canonical_unsealed : MemoryCanonical s.unsealed := by simp [State.unsealed, hs]

@[simp] theorem canonical_waitBank : MemoryCanonical s.waitBank := by simp [State.waitBank, hs]

@[simp] theorem canonical_overlay (ob : Bool) : MemoryCanonical (s.overlay ob) := by simp [State.overlay, hs]

@[simp] theorem canonical_commit (h : Header) (leaf drop : Nat) (ops : List Latched) :
    MemoryCanonical (s.commit h leaf drop ops) := by
  simp [State.commit, hs]

@[simp] theorem canonical_issueBundle (b : Block) : MemoryCanonical (s.issueBundle b) := by
  unfold State.issueBundle
  dsimp only
  repeat' split
  all_goals simp [*]

@[simp] theorem canonical_fetchIssue : MemoryCanonical s.fetchIssue := by simp [State.fetchIssue, hs]

@[simp] theorem canonical_issue : MemoryCanonical s.issue := by
  unfold State.issue
  dsimp only
  repeat' split
  all_goals simp [*]

@[simp] theorem nextCanonical_execBundleIssue : NextCanonical (execBundleIssue s) := by
  unfold execBundleIssue
  split <;> simp [hs]

omit hs in
@[simp] theorem canonical_endTurn : MemoryCanonical s.endTurn ↔ MemoryCanonical s := by
  unfold State.endTurn
  repeat' split
  all_goals simp

@[simp] theorem nextCanonical_execResultWriteback : NextCanonical (execResultWriteback s) := by simp [execResultWriteback, hs]

@[simp] theorem canonical_deferLoad (c : Fin 192) (x : Fin 4) (r : LongResult) : MemoryCanonical (s.deferLoad c x r) := by
  simp [State.deferLoad, hs]

@[simp] theorem nextCanonical_execInterlockArrival : NextCanonical (execInterlockArrival s) := by
  unfold execInterlockArrival
  dsimp only
  repeat' split
  all_goals simp [*]

@[simp] theorem canonical_replayOver (c : Fin 192) (x : Fin 4) : MemoryCanonical (s.replayOver c x) := by
  unfold State.replayOver
  dsimp only
  repeat' split
  all_goals simp [*]

@[simp] theorem nextCanonical_execReplayReady : NextCanonical (execReplayReady s) := by
  unfold execReplayReady
  dsimp only
  repeat' split
  all_goals simp [*]

@[simp] theorem nextCanonical_execCoreCapacityTimeout : NextCanonical (execCoreCapacityTimeout s) := by
  simp [execCoreCapacityTimeout, hs]

/-! ### Sys2Proof/Machine/Image.lean -/

@[simp] theorem canonical_fwPut (d va : Nat) (bs : List Byte) : MemoryCanonical (s.fwPut d va bs) := by
  grind [Answers, State.fwPut, answers_vaWrite]

@[simp] theorem canonical_fwPoison (d va n : Nat) : MemoryCanonical (s.fwPoison d va n) := by
  unfold State.fwPoison
  split
  · exact hs
  · refine canonical_foldl (fun t g ht => ?_) _ hs
    refine canonical_of_eq ht ?_ rfl
    exact List.foldlRecOn (motive := fun m : MemSys => m.bytes = t.mem.bytes) _ _ rfl fun m hm c _ =>
      (setGran_bytes m g.place.gran c.1 true).trans hm

@[simp] theorem canonical_fwMove (src va dst to_ n : Nat) : MemoryCanonical (s.fwMove src va dst to_ n) := by
  unfold State.fwMove
  split <;> simp +contextual [*, canonical_foldl]

@[simp] theorem canonical_arenaOut (g : Grid) (grid team : Nat) : MemoryCanonical (s.arenaOut g grid team) := by
  refine canonical_foldl (fun s a hs => ?_) _ hs
  simp [hs]

omit hs in
@[simp] theorem canonical_linkChain (grid team : Nat) : MemoryCanonical (s.linkChain grid team) ↔ MemoryCanonical s := by
  simp [State.linkChain]

@[simp] theorem canonical_chainOut (key : Nat × Nat) (l : List Rec) : MemoryCanonical (s.chainOut key l) := by
  simp [State.chainOut, hs]

@[simp] theorem canonical_relink (key : Nat × Nat) : MemoryCanonical (s.relink key) := by simp [State.relink, hs]

omit hs in
@[simp] theorem canonical_unlink : MemoryCanonical s.unlink ↔ MemoryCanonical s := by simp [State.unlink]

@[simp] theorem canonical_recordOut (x : Nat × Nat) : MemoryCanonical (s.recordOut x) := by
  unfold State.recordOut
  split <;> simp [hs]

@[simp] theorem canonical_recordsOut : MemoryCanonical s.recordsOut := by
  unfold State.recordsOut
  split
  · exact hs
  · extract_lets keys t
    have ht : MemoryCanonical t := canonical_foldl (fun u k hu => canonical_relink hu k) keys (canonical_unlink.mpr hs)
    exact canonical_foldl (fun u x hu => canonical_recordOut hu x) _ ht

@[simp] theorem canonical_settleTeam (grid team : Nat) : MemoryCanonical (s.settleTeam grid team) := by
  unfold State.settleTeam
  dsimp only
  repeat' split
  all_goals simp [*]

@[simp] theorem canonical_imageOut (grid team blocks : Nat) : MemoryCanonical (s.imageOut grid team blocks) := by
  unfold State.imageOut
  extract_lets -lift t
  have ht : MemoryCanonical t := canonical_settleTeam hs ..
  clear_value t
  split
  · refine canonical_arenaOut (canonical_foldl (fun z p hz => ?_) _ (canonical_foldl (fun z p hz => ?_) _ ?_)) ..
    · split
      · exact canonical_fwPoison hz ..
      · exact hz
    · exact canonical_fwPut hz ..
    · exact canonical_fwPut ((canonical_linkChain ..).mpr ht) ..
  · exact ht

@[simp] theorem canonical_stopCtx (a : Nat) : MemoryCanonical (s.stopCtx a) := by simp [State.stopCtx, hs]

@[simp] theorem canonical_stopTeam (grid team : Nat) : MemoryCanonical (s.stopTeam grid team) := by
  simp +contextual [State.stopTeam, hs, canonical_foldl]

@[simp] theorem canonical_stowCtx (k a : Nat) : MemoryCanonical (s.stowCtx k a) := by
  unfold State.stowCtx
  extract_lets -lift p
  split
  · exact hs
  · next r _ =>
    extract_lets -lift w
    have hw : Answers w (fun _ => True) MemoryCanonical := by
      unfold w
      split
      · generalize s.contextBlock p.1 p.2 r _ = bs
        split
        · next g _ _ =>
          generalize imageBlockVa g r.team k = va
          exact answers_map (answers_vaWrite hs 0 (s.fwWho g.dctx) va bs) fun _ h => h
        · exact answers_frameWrite hs ..
      · exact hs
    clear_value w
    split
    · exact (canonical_killThread ..).mpr ((canonical_modCtxAt ..).mpr hs)
    · exact (canonical_vacate ..).mpr ((canonical_modRec ..).mpr ((canonical_keepContext ..).mpr hw))

@[simp] theorem canonical_stowTeam (grid team : Nat) : MemoryCanonical (s.stowTeam grid team).2 := by
  refine canonical_foldl (fun s a hs => ?_) _ hs
  simp [hs]

omit hs in
@[simp] theorem canonical_stowTiles (grid team : Nat) : MemoryCanonical (s.stowTiles grid team) ↔ MemoryCanonical s := by
  unfold State.stowTiles
  repeat' split
  all_goals simp

@[simp] theorem canonical_swapOut (grid team : Nat) : MemoryCanonical (s.swapOut grid team) := by simp [State.swapOut, hs]

/-! ### Sys2Proof/Machine/Next.lean -/

omit hs in
@[simp] theorem canonical_dropTimer (t : Nat × Instr × EvArgs) : MemoryCanonical (s.dropTimer t) ↔ MemoryCanonical s := by
  simp [State.dropTimer]

omit hs in
@[simp] theorem canonical_scheduled : MemoryCanonical s.scheduled.2.2 ↔ MemoryCanonical s := by
  unfold State.scheduled
  repeat' split
  all_goals simp

@[simp] theorem canonical_nextEvent : MemoryCanonical s.nextEvent.2.2 := by
  unfold State.nextEvent
  dsimp only
  split <;> simp [hs]

/-! ### Sys2Proof/Machine/Sched.lean -/

@[simp] theorem canonical_reloadGallery (grid num : Nat) : MemoryCanonical (s.reloadGallery grid num) := by
  unfold State.reloadGallery
  split
  · exact hs
  · refine canonical_foldl (fun t m ht => ?_) _ hs
    have hr := answers_vaRead ht 0 (t.whoOfGrid grid) m.src m.len
    split
    · simp [ht]
    · split
      case h_1 r h => rw [h, answers_ok] at hr; exact (canonical_modTeam ..).mpr hr
      case h_2 => exact ht

@[simp] theorem canonical_loadBanks (grid num : Nat) (c : Fin 192) : MemoryCanonical (s.loadBanks grid num c) := by
  refine canonical_foldl (fun s a hs => ?_) _ hs
  dsimp only
  split <;> simp [hs]

omit hs in
@[simp] theorem canonical_rebase (grid num core : Nat) : MemoryCanonical (s.rebase grid num core) ↔ MemoryCanonical s := by
  simp [State.rebase]

@[simp] theorem canonical_placeTeam (grid num : Nat) (g : Grid) (c : Fin 192) : MemoryCanonical (s.placeTeam grid num g c) := by
  grind [State.placeTeam, canonical_post, canonical_modTeam,
    canonical_addRecs, canonical_ensureTeam, canonical_loadBanks, canonical_addBusyHall, canonical_rebase, canonical_fwPut,
      canonical_modCoreAt, canonical_repollHall, canonical_reloadGallery]

@[simp] theorem canonical_placeRun (grid : Nat) (g : Grid) (n first : Nat) :
    MemoryCanonical (State.placeRun grid g n first s).2 := by
  induction n generalizing s first with
  | zero => exact hs
  | succ n ih =>
    unfold State.placeRun
    split
    · exact hs
    · exact ih (canonical_placeTeam hs ..) _

@[simp] theorem canonical_placeFifo (n : Nat) : MemoryCanonical (State.placeFifo n s) := by
  induction n generalizing s with
  | zero => exact hs
  | succ n ih =>
    unfold State.placeFifo
    split
    · exact hs
    · split
      · exact ih (by simpa using hs)
      · split
        · exact hs
        · exact ih (canonical_placeTeam (by simpa using hs) ..)

@[simp] theorem nextCanonical_execTeamPlacement : NextCanonical (execTeamPlacement s) := by
  unfold execTeamPlacement
  dsimp only
  repeat' split
  all_goals simp [*]

@[simp] theorem nextCanonical_execContextSwitch : NextCanonical (execContextSwitch s) := by
  unfold execContextSwitch
  dsimp only
  repeat' split
  all_goals simp [*]

@[simp] theorem canonical_rejoin (die : Nat) : MemoryCanonical (s.rejoin die) := by
  simp +contextual [State.rejoin, hs, canonical_foldl]

@[simp] theorem canonical_occupy (c : Fin 192) (x : Fin 4) (r : Rec) (k : Ctx) : MemoryCanonical (s.occupy c x r k) := by
  simp [State.occupy, hs]

@[simp] theorem nextCanonical_execContextTakeRecord : NextCanonical (execContextTakeRecord s) := by
  unfold execContextTakeRecord
  dsimp only
  repeat' split
  all_goals simp [*]

@[simp] theorem nextCanonical_execEviction : NextCanonical (execEviction s) := by
  grind [NextCanonical, Answers, execEviction, answers_saveContext, canonical_postFirst,
    canonical_killThread, canonical_vacate, canonical_modCtxAt]

@[simp] theorem nextCanonical_execBalanceExchange : NextCanonical (execBalanceExchange s) := by
  unfold execBalanceExchange
  dsimp only
  split <;> simp [hs]

@[simp] theorem canonical_swapWhenQuiet (grid num : Nat) : MemoryCanonical (s.swapWhenQuiet grid num) := by
  simp +contextual [State.swapWhenQuiet, hs, canonical_foldl]

@[simp] theorem nextCanonical_execQuantumBoundary : NextCanonical (execQuantumBoundary s) := by
  unfold execQuantumBoundary
  extract_lets -lift grid
  split
  · simp [hs]
  · split
    · simp [hs]
    · split
      · simp [hs]
      · extract_lets victims t
        have ht : MemoryCanonical t := by simp [t, hs]
        refine nextCanonical_next.mpr (canonical_offerRoom.mpr ?_)
        exact canonical_foldl (fun u x hu => canonical_swapWhenQuiet (canonical_stopTeam hu ..) ..) _ ht

/-! ### Sys2Proof/Machine/Save.lean -/

omit hs in
@[simp] theorem canonical_setSaveSt (st : Nat) : MemoryCanonical (s.setSaveSt st) ↔ MemoryCanonical s := by
  unfold State.setSaveSt
  split <;> simp

@[simp] theorem canonical_copyImage (adc d : Nat) (g : Grid) (team off : Nat) :
    MemoryCanonical (s.copyImage adc d g team off) := by
  refine canonical_foldl (fun s a hs => ?_) _ hs
  simp [hs]

omit hs in
@[simp] theorem canonical_rekey (a b : Nat) : MemoryCanonical (s.rekey a b) ↔ MemoryCanonical s := by simp [State.rekey]

omit hs in
@[simp] theorem canonical_dropShadows (d : Nat) : MemoryCanonical (s.dropShadows d) ↔ MemoryCanonical s := by
  simp [State.dropShadows]

@[simp] theorem canonical_stopDctx (d : Nat) : MemoryCanonical (s.stopDctx d) := by
  unfold State.stopDctx
  extract_lets -lift t u
  have ht : MemoryCanonical t := by simp [t, hs]
  have hu : MemoryCanonical u := canonical_foldl (fun v x hv => canonical_stopTeam hv ..) _ ht
  exact canonical_applyDue hu ..

@[simp] theorem canonical_quiesce (d : Nat) : MemoryCanonical (s.quiesce d) := by
  simp +contextual [State.quiesce, hs, canonical_foldl]

@[simp] theorem canonical_savePhase2' (adc d : Nat) : MemoryCanonical (s.savePhase2 adc d) := by
  unfold State.savePhase2
  extract_lets -lift t u v a w x grids y gone z
  have ht : MemoryCanonical t := by
    refine canonical_foldl (fun b x hb => (canonical_modTeam ..).mpr ?_) _ hs
    exact canonical_imageOut ((canonical_stowTiles ..).mpr (canonical_stowTeam hb ..)) ..
  have hu : MemoryCanonical u := canonical_foldl (fun b x hb => canonical_imageOut hb ..) _ ht
  have hv : MemoryCanonical v := canonical_recordsOut hu
  have hw : MemoryCanonical w := canonical_foldl (fun b x hb => canonical_fwPut hb ..) _ hv
  have hx : MemoryCanonical x := by
    refine canonical_foldl (fun b x hb => ?_) _ hw
    split
    · exact canonical_copyImage hb ..
    · exact hb
  have hy : MemoryCanonical y := by
    refine canonical_foldl (fun b x hb => ?_) _ ((canonical_dropShadows ..).mpr hx)
    simp [hb]
  have hz : MemoryCanonical z := by simpa [z] using hy
  simp [hz]

@[simp] theorem canonical_savePhase1 (adc d : Nat) : MemoryCanonical (s.savePhase1 adc d) := by
  unfold State.savePhase1
  dsimp only
  split <;> simp [hs]

@[simp] theorem nextCanonical_execSave : NextCanonical (execSave s) := by
  unfold execSave
  extract_lets -lift d
  split
  · split
    · simp [hs]
    · split
      · simp [hs]
      · refine nextCanonical_next.mpr ((canonical_timer ..).mpr ?_)
        refine canonical_foldl (fun u x hu => canonical_foldl (fun v a hv => ?_) _ hu) _ hs
        dsimp only
        split
        · exact canonical_haltNow hv ..
        · exact hv
  · split <;> simp [hs]

@[simp] theorem nextCanonical_execResume : NextCanonical (execResume s) := by
  unfold execResume
  dsimp only
  split <;> simp [hs]

omit hs in
@[simp] theorem canonical_restorePosition (old : List Job) (j : Job) (bs : List Byte) :
    MemoryCanonical (s.restorePosition old j bs) ↔ MemoryCanonical s := by
  unfold State.restorePosition
  split
  · simp
  · split <;> simp

omit hs in
@[simp] theorem canonical_replayAgain (r : Rec) : MemoryCanonical (s.replayAgain r) ↔ MemoryCanonical s := by
  unfold State.replayAgain
  split <;> simp

@[simp] theorem canonical_restoreTeam (adc d grid num off old : Nat) :
    MemoryCanonical (s.restoreTeam adc d grid num off old) := by
  rw [show State.restoreTeam = delta% State.restoreTeam from rfl]
  beta_reduce
  generalize s.gridOf grid = o
  cases o with
  | none => exact hs
  | some g =>
    dsimp -zeta only
    extract_lets -lift area bytes s' img recs bad t t2 blocks jobs was t3 u v w
    have hs' : MemoryCanonical s' := canonical_foldl (fun x c hx => canonical_fwMove hx ..) _ hs
    clear_value s' t3 was jobs blocks bad recs
    have hu : MemoryCanonical u := (canonical_mk_iff ..).mpr hs'
    have hv : MemoryCanonical v := canonical_foldl (fun x p hx => (canonical_restorePosition ..).mpr hx) _ ((canonical_addRecs ..).mpr hu)
    have hw : MemoryCanonical w := canonical_foldl (fun x r hx => (canonical_replayAgain ..).mpr hx) _ hv
    clear_value w
    split
    · exact (canonical_killGrid ..).mpr ((canonical_report ..).mpr hw)
    · exact hw

omit hs in
/-- Memory is canonical in the state of an answer. -/
def SndCanonical {β : Type} (p : β × State) : Prop := MemoryCanonical p.2

omit hs in
/-- The turns that a recursion over a list has still to make keep memory canonical. -/
def TurnsCanonical {α β : Type} : (l : List α) → List.below (motive := fun _ => State → β × State) l → Prop
  | [], _ => True
  | _ :: _, b => ∀ s, MemoryCanonical s → SndCanonical (b.1 s)

omit hs in
/-- A recursion over a list whose every turn keeps memory canonical keeps it canonical. -/
theorem canonical_listRec {α β : Type} {F : (l : List α) → List.below (motive :=
  fun _ => State → β × State) l → State → β × State}
    (hF : ∀ l b, TurnsCanonical l b → ∀ s, MemoryCanonical s → SndCanonical (F l b s)) (l : List α) {s : State}
    (hs : MemoryCanonical s) : SndCanonical (List.brecOn (motive := fun _ => State → β × State) l F s) := by
  induction l generalizing s with
  | nil => exact hF [] _ trivial s hs
  | cons a l ih => exact hF (a :: l) _ (fun s hs => ih hs) s hs

omit hs in
/-- A match on the list, stated of any function that is one: the matcher of a definition has no name that lasts. -/
theorem canonical_listMatch {α β : Type}
    {M : (l : List α) → (s : State) → ((s : State) → List.below (motive := fun _ => State → β × State) ([] : List α) → β × State) →
      ((a : α) → (l : List α) → State → List.below (motive := fun _ => State → β × State) (a :: l) → β × State) →
      List.below (motive := fun _ => State → β × State) l → β × State}
    (hM : ∀ s h1 h2 b, M [] s h1 h2 b = h1 s b) (hM' : ∀ a l s h1 h2 b, M (a :: l) s h1 h2 b = h2 a l s b) {l : List α}
    {b : List.below (motive := fun _ => State → β × State) l} {s : State}
    {h1 : (s : State) → List.below (motive := fun _ => State → β × State) ([] : List α) → β × State}
    {h2 : (a : α) → (l : List α) → State → List.below (motive := fun _ => State → β × State) (a :: l) → β × State}
    (hb : TurnsCanonical l b) (hnil : ∀ b, SndCanonical (h1 s b))
    (hcons : ∀ a l b, (∀ s, MemoryCanonical s → SndCanonical (b.1 s)) → SndCanonical (h2 a l s b)) :
    SndCanonical (M l s h1 h2 b) := by
  cases l with
  | nil =>
    rw [hM]
    exact hnil b
  | cons a l =>
    rw [hM']
    exact hcons a l b hb

theorem sndCanonical_restoreGrids (adc d : Nat) (l : List Nat) : SndCanonical (State.restoreGrids adc d l s) := by
  delta State.restoreGrids State.restoreGrids._f
  refine canonical_listRec (fun l b hb s hs => ?_) l hs
  refine canonical_listMatch (fun _ _ _ _ => rfl) (fun _ _ _ _ _ _ => rfl) hb (fun _ => hs) fun k rest b hb => ?_
  generalize s.fwGet adc (s.areaVa + 0x10000 + 256 * k) 256 = o
  generalize s.freeGrid = p
  cases o <;> cases p
  · exact hb s hs
  · exact hb s hs
  · exact hb s hs
  · refine hb _ ?_
    simp [hs]

@[simp] theorem canonical_restoreGrids (adc d : Nat) (l : List Nat) : MemoryCanonical (State.restoreGrids adc d l s).2 :=
  sndCanonical_restoreGrids hs adc d l

@[simp] theorem canonical_restoreAll (adc d : Nat) (hd : List Byte) : MemoryCanonical (s.restoreAll adc d hd) := by
  rw [show State.restoreAll = delta% State.restoreAll from rfl]
  beta_reduce
  extract_lets -lift r was entry dir fifo t u v w
  have hr : MemoryCanonical r.2 := canonical_restoreGrids hs ..
  clear_value r fifo dir
  have ht : MemoryCanonical t := canonical_foldl (fun x e hx => canonical_restoreTeam hx ..) _ hr
  have hu : MemoryCanonical u := canonical_foldl (fun x e hx => (canonical_mk_iff ..).mpr hx) _ ht
  clear_value u
  have hv : MemoryCanonical v := (canonical_mk_iff ..).mpr hu
  clear_value v
  have hw : MemoryCanonical w := by
    refine canonical_foldl (fun x e hx => ?_) _ hv
    split
    · exact hx
    · split
      · exact canonical_placeTeam hx ..
      · exact (canonical_mk_iff ..).mpr hx
  exact canonical_offerRoom.mpr ((canonical_dropShadows ..).mpr hw)

@[simp] theorem nextCanonical_execRestore : NextCanonical (execRestore s) := by
  grind [NextCanonical, execRestore, canonical_setSaveSt, canonical_restoreAll,
    canonical_modDctx]

/-! ### Sys2Proof/Machine/HostPort.lean -/

omit hs in
@[simp] theorem canonical_holdWrite (event : Instr) : MemoryCanonical (s.holdWrite event) ↔ MemoryCanonical s := by
  simp [State.holdWrite]

theorem nextCanonical_posted {event : Instr} {perform : State → State} (h : MemoryCanonical (perform s)) :
    NextCanonical (s.posted event perform) := by
  unfold State.posted
  split
  · exact nextCanonical_next.mpr hs
  split
  · exact nextCanonical_next.mpr ((canonical_holdWrite ..).mpr hs)
  · exact nextCanonical_next.mpr h

omit hs in
@[simp] theorem canonical_windowWrite (event : Instr) (d i off : Nat) (bs : List Byte) :
    MemoryCanonical (s.windowWrite event d i off bs) ↔ MemoryCanonical s := by
  unfold State.windowWrite
  dsimp only
  repeat' split
  all_goals simp

@[simp] theorem nextCanonical_execHostWindowWrite : NextCanonical (execHostWindowWrite s) :=
  nextCanonical_posted hs ((canonical_windowWrite ..).mpr hs)

@[simp] theorem nextCanonical_execLandingTimeout : NextCanonical (execLandingTimeout s) := by simp [execLandingTimeout, hs]

omit hs in
@[simp] theorem canonical_nwakeDrop (d : Nat) : MemoryCanonical (s.nwakeDrop d) ↔ MemoryCanonical s := by simp [State.nwakeDrop]

@[simp] theorem canonical_nwakeWrite (d : Nat) (aligned : Bool) (v : Nat) : MemoryCanonical (s.nwakeWrite d aligned v) := by
  unfold State.nwakeWrite
  repeat' split
  all_goals simp [*]

@[simp] theorem canonical_writeBar2 (fn o : Nat) (bs : List Byte) : MemoryCanonical (s.writeBar2 fn o bs) := by
  unfold State.writeBar2
  split <;> simp [hs]

@[simp] theorem nextCanonical_execNwake : NextCanonical (execNwake s) := nextCanonical_posted hs (canonical_writeBar2 hs ..)

@[simp] theorem nextCanonical_execTlbiGo : NextCanonical (execTlbiGo s) := by simp [execTlbiGo, hs]

omit hs in
@[simp] theorem canonical_writeQctl (d q v : Nat) (priv : Bool) :
    MemoryCanonical (s.writeQctl d q v priv) ↔ MemoryCanonical s := by
  unfold State.writeQctl
  repeat' split
  all_goals simp

omit hs in
@[simp] theorem canonical_writePage (d o v : Nat) (priv : Bool) :
    MemoryCanonical (s.writePage d o v priv) ↔ MemoryCanonical s := by
  unfold State.writePage
  repeat' split
  all_goals simp

omit hs in
@[simp] theorem canonical_writeNode (v : Nat) : MemoryCanonical (s.writeNode v) ↔ MemoryCanonical s := by simp [State.writeNode]

omit hs in
@[simp] theorem canonical_writeFwpatch (v : Nat) : MemoryCanonical (s.writeFwpatch v) ↔ MemoryCanonical s := by
  unfold State.writeFwpatch
  dsimp only
  repeat' split
  all_goals simp

omit hs in
@[simp] theorem canonical_writeCap (d : Fin 4) (v : Nat) : MemoryCanonical (s.writeCap d v) ↔ MemoryCanonical s := by
  simp [State.writeCap]

@[simp] theorem canonical_writeStack (k v : Nat) : MemoryCanonical (s.writeStack k v) := by simp [State.writeStack, hs]

@[simp] theorem canonical_writeMctl (k v : Nat) : MemoryCanonical (s.writeMctl k v) := by simp [State.writeMctl, hs]

@[simp] theorem canonical_writeMcnt (k v : Nat) : MemoryCanonical (s.writeMcnt k v) := by simp [State.writeMcnt, hs]

omit hs in
@[simp] theorem canonical_writeSavectl (v : Nat) : MemoryCanonical (s.writeSavectl v) ↔ MemoryCanonical s := by
  unfold State.writeSavectl
  dsimp only
  repeat' split
  all_goals simp

omit hs in
@[simp] theorem canonical_writeSavearea (v : Nat) : MemoryCanonical (s.writeSavearea v) ↔ MemoryCanonical s := by
  simp [State.writeSavearea]

omit hs in
@[simp] theorem canonical_writeTlbi (v : Nat) : MemoryCanonical (s.writeTlbi v) ↔ MemoryCanonical s := by
  unfold State.writeTlbi
  dsimp only
  split <;> simp

@[simp] theorem canonical_writeGlobal (o v : Nat) : MemoryCanonical (s.writeGlobal o v) := by simp [State.writeGlobal, hs]

@[simp] theorem canonical_writeBar0 (fn o v : Nat) : MemoryCanonical (s.writeBar0 fn o v) := by
  unfold State.writeBar0
  dsimp only
  repeat' split
  all_goals simp [*]

omit hs in
@[simp] theorem canonical_writeMailbox (o v : Nat) : MemoryCanonical (s.writeMailbox o v) ↔ MemoryCanonical s := by
  unfold State.writeMailbox
  repeat' split
  all_goals simp

@[simp] theorem nextCanonical_execRegisterWrite : NextCanonical (execRegisterWrite s) := by
  unfold execRegisterWrite
  dsimp only
  split
  · simp [hs]
  · exact nextCanonical_posted hs (canonical_writeBar0 hs ..)

omit hs in
@[simp] theorem canonical_atsDrop (pasid page : Nat) : MemoryCanonical (s.atsDrop pasid page) ↔ MemoryCanonical s := by
  simp [State.atsDrop]

omit hs in
@[simp] theorem canonical_atsKeep (pasid page : Nat) (users : List Nat) :
    MemoryCanonical (s.atsKeep pasid page users) ↔ MemoryCanonical s := by
  unfold State.atsKeep
  dsimp only
  split <;> simp

@[simp] theorem nextCanonical_execAtsInvalidation : NextCanonical (execAtsInvalidation s) := by simp [execAtsInvalidation, hs]

@[simp] theorem nextCanonical_execHostLinkTraining : NextCanonical (execHostLinkTraining s) := by simp [execHostLinkTraining, hs]

/-! ### Sys2Proof/Machine/Security.lean -/

@[simp] theorem canonical_afterReset : MemoryCanonical s.afterReset := ⟨reset_memory_wf, hs.2⟩

@[simp] theorem nextCanonical_execColdReset : NextCanonical (execColdReset s) := by simp [execColdReset, hs]

@[simp] theorem canonical_warm : MemoryCanonical s.warm := by simp [State.warm, hs]

@[simp] theorem nextCanonical_execWarmReset : NextCanonical (execWarmReset s) := by simp [execWarmReset, hs]

omit hs in
@[simp] theorem canonical_armGovernor (d : Fin 4) : MemoryCanonical (s.armGovernor d) ↔ MemoryCanonical s := by
  simp [State.armGovernor]

omit hs in
@[simp] theorem canonical_armAll : MemoryCanonical s.armAll ↔ MemoryCanonical s := by simp [State.armAll]

omit hs in
@[simp] theorem canonical_bringupFails (step : Nat) : MemoryCanonical (s.bringupFails step) ↔ MemoryCanonical s := by
  simp [State.bringupFails]

omit hs in
@[simp] theorem canonical_bringupNext : MemoryCanonical s.bringupNext ↔ MemoryCanonical s := by simp [State.bringupNext]

@[simp] theorem nextCanonical_execBringupStepDone : NextCanonical (execBringupStepDone s) := by
  have h4 : MemoryCanonical (s.modMem fun m => { m with bytes := [], units := [] }) := ⟨reset_memory_wf, hs.2⟩
  unfold execBringupStepDone
  dsimp only
  split
  · simp [hs]
  split
  · simp [hs]
  · split <;> simp [hs, canonical_alarm]
  · simp [hs]
  · refine nextCanonical_next.mpr ?_
    split
    · exact canonical_bringupNext.mpr h4
    · simp [hs]
  · simp [hs]
  · split
    · exact nextCanonical_next.mpr (canonical_armAll.mpr ((canonical_mk_iff ..).mpr hs))
    · exact nextCanonical_next.mpr hs
  · exact nextCanonical_next.mpr hs

@[simp] theorem nextCanonical_execSupplyGlitch : NextCanonical (execSupplyGlitch s) := by simp [execSupplyGlitch, hs]

@[simp] theorem nextCanonical_execTamperMeshBroken : NextCanonical (execTamperMeshBroken s) := by simp [execTamperMeshBroken, hs]

@[simp] theorem nextCanonical_execFwpatchGo : NextCanonical (execFwpatchGo s) := by
  unfold execFwpatchGo
  repeat' split
  all_goals simp [*]

@[simp] theorem nextCanonical_execFwpatchCancel : NextCanonical (execFwpatchCancel s) := by simp [execFwpatchCancel, hs]

@[simp] theorem nextCanonical_execPatchApply : NextCanonical (execPatchApply s) := by
  unfold execPatchApply
  split <;> simp [hs]

omit hs in
@[simp] theorem canonical_mailDone (rc : Nat) : MemoryCanonical (s.mailDone rc) ↔ MemoryCanonical s := by simp [State.mailDone]

omit hs in
@[simp] theorem canonical_setSession (i : Nat) (x : Option Session) : MemoryCanonical (s.setSession i x) ↔ MemoryCanonical s := by
  simp [State.setSession]

theorem nextCanonical_attest {work : State → State} (h : MemoryCanonical (work s)) : NextCanonical (s.attest work) := by
  unfold State.attest
  split
  · exact nextCanonical_next.mpr ((canonical_mailDone ..).mpr hs)
  · exact nextCanonical_next.mpr h

theorem nextCanonical_recover {work : State → State} (h : MemoryCanonical (work s)) : NextCanonical (s.recover work) := by
  unfold State.recover
  split
  · exact nextCanonical_next.mpr h
  · exact nextCanonical_next.mpr ((canonical_mailDone ..).mpr hs)

@[simp] theorem nextCanonical_execAttOpen : NextCanonical (execAttOpen s) := by
  refine nextCanonical_attest hs ?_
  split <;> simp [hs]

omit hs in
@[simp] theorem canonical_quotePiece (signed : List Byte) : MemoryCanonical (s.quotePiece signed) ↔ MemoryCanonical s := by
  simp [State.quotePiece]

@[simp] theorem nextCanonical_execAttQuote : NextCanonical (execAttQuote s) := by
  refine nextCanonical_attest hs ?_
  dsimp only
  split
  · simp [hs]
  split
  · simp [hs]
  split
  · simp [hs]
  split
  · simp [hs]
  split
  · simp [hs]
  split
  · exact canonical_alarm (by simp [hs]) ..
  · simp [hs]

@[simp] theorem nextCanonical_execAttClose : NextCanonical (execAttClose s) := by
  refine nextCanonical_attest hs ?_
  split <;> simp [hs]

@[simp] theorem nextCanonical_execRecBegin : NextCanonical (execRecBegin s) := by
  refine nextCanonical_recover hs ?_
  dsimp only
  split <;> simp [hs]

@[simp] theorem nextCanonical_execRecPiece : NextCanonical (execRecPiece s) := by
  refine nextCanonical_recover hs ?_
  dsimp only
  split <;> simp [hs]

@[simp] theorem nextCanonical_execRecEnd : NextCanonical (execRecEnd s) := by
  refine nextCanonical_recover hs ?_
  dsimp only
  split
  · exact canonical_warm ((canonical_modSec ..).mpr hs)
  · simp [hs]

@[simp] theorem nextCanonical_execMbcmdReserved : NextCanonical (execMbcmdReserved s) := by simp [execMbcmdReserved, hs]

/-! ### Sys2Proof/Machine/Power.lean -/

@[simp] theorem nextCanonical_execGovernorTick : NextCanonical (execGovernorTick s) := by simp [execGovernorTick, hs]

@[simp] theorem nextCanonical_execLimitHalveExcursion : NextCanonical (execLimitHalveExcursion s) := by
  simp [execLimitHalveExcursion, hs]

@[simp] theorem nextCanonical_execDroopDetect : NextCanonical (execDroopDetect s) := by simp [execDroopDetect, hs]

@[simp] theorem nextCanonical_execThermalHot : NextCanonical (execThermalHot s) := by simp [execThermalHot, hs]

@[simp] theorem nextCanonical_execCriticalTrip : NextCanonical (execCriticalTrip s) := by simp [execCriticalTrip, hs]

@[simp] theorem canonical_wakeDie (d : Nat) : MemoryCanonical (s.wakeDie d) := by
  unfold State.wakeDie
  extract_lets cores here t u
  have ht : MemoryCanonical t := (canonical_mk_iff ..).mpr hs
  have hu : MemoryCanonical u :=
    canonical_foldl (fun x c hx => canonical_foldl (fun y _ hy => (canonical_post ..).mpr hy) _ hx) _ ht
  exact canonical_settleAll (canonical_foldl (fun x c hx => (canonical_addBusy ..).mpr hx) _ hu) ..

@[simp] theorem nextCanonical_execTripRecovery : NextCanonical (execTripRecovery s) := by simp [execTripRecovery, hs]

@[simp] theorem nextCanonical_execDieLinkFailure : NextCanonical (execDieLinkFailure s) := by simp [execDieLinkFailure, hs]

@[simp] theorem nextCanonical_execDieLinkRetry : NextCanonical (execDieLinkRetry s) := by simp [execDieLinkRetry, hs]

omit hs in
@[simp] theorem canonical_unansweredFail : MemoryCanonical s.unansweredFail ↔ MemoryCanonical s := by simp [State.unansweredFail]

@[simp] theorem nextCanonical_execD3hotEntry : NextCanonical (execD3hotEntry s) := by simp [execD3hotEntry, hs]

omit hs in
@[simp] theorem canonical_landingWakes (slept : Nat) : MemoryCanonical (s.landingWakes slept) ↔ MemoryCanonical s := by
  simp [State.landingWakes]

@[simp] theorem canonical_wakeUp : MemoryCanonical s.wakeUp := by simp +contextual [State.wakeUp, hs, canonical_foldl]

@[simp] theorem nextCanonical_execD0Return : NextCanonical (execD0Return s) := by simp [execD0Return, hs]

omit hs in
@[simp] theorem canonical_dropWork (d : Nat) : MemoryCanonical (s.dropWork d) ↔ MemoryCanonical s := by simp [State.dropWork]

omit hs in
@[simp] theorem canonical_resetContext (d : Nat) : MemoryCanonical (s.resetContext d) ↔ MemoryCanonical s := by
  unfold State.resetContext
  dsimp only
  split <;> simp

omit hs in
@[simp] theorem canonical_resetFunction (fn : Nat) : MemoryCanonical (s.resetFunction fn) ↔ MemoryCanonical s := by
  simp [State.resetFunction]

@[simp] theorem nextCanonical_execFunctionLevelResetVf : NextCanonical (execFunctionLevelResetVf s) := by
  simp [execFunctionLevelResetVf, hs]

omit hs in
@[simp] theorem canonical_resetRegisters : MemoryCanonical s.resetRegisters ↔ MemoryCanonical s := by simp [State.resetRegisters]

@[simp] theorem nextCanonical_execFunctionLevelResetPf : NextCanonical (execFunctionLevelResetPf s) := by
  simp [execFunctionLevelResetPf, hs]

/-! ### Sys2Proof/Machine/Scalar.lean -/

@[simp] theorem nextCanonical_scalar2 (lat : Nat) (f : Word → Word → Word) (ws : Bool) (d : Opnd) (a b : Word) :
    NextCanonical (s.scalar2 lat f ws d a b) := by
  simp [State.scalar2, hs]

@[simp] theorem nextCanonical_execSAddReg (ws : Bool) (d a b : Opnd) : NextCanonical (execSAddReg ws d a b s) := by
  simp [execSAddReg, hs]

@[simp] theorem nextCanonical_execSSub (ws : Bool) (d a b : Opnd) : NextCanonical (execSSub ws d a b s) := by simp [execSSub, hs]

@[simp] theorem nextCanonical_execSMulReg (ws : Bool) (d a b : Opnd) : NextCanonical (execSMulReg ws d a b s) := by
  simp [execSMulReg, hs]

@[simp] theorem nextCanonical_execSMulh (ws : Bool) (d a b : Opnd) : NextCanonical (execSMulh ws d a b s) := by
  simp [execSMulh, hs]

@[simp] theorem nextCanonical_execSDiv (ws : Bool) (d a b : Opnd) : NextCanonical (execSDiv ws d a b s) := by simp [execSDiv, hs]

@[simp] theorem nextCanonical_execSRem (ws : Bool) (d a b : Opnd) : NextCanonical (execSRem ws d a b s) := by simp [execSRem, hs]

@[simp] theorem nextCanonical_execSAndReg (ws : Bool) (d a b : Opnd) : NextCanonical (execSAndReg ws d a b s) := by
  simp [execSAndReg, hs]

@[simp] theorem nextCanonical_execSOrReg (ws : Bool) (d a b : Opnd) : NextCanonical (execSOrReg ws d a b s) := by
  simp [execSOrReg, hs]

@[simp] theorem nextCanonical_execSXorReg (ws : Bool) (d a b : Opnd) : NextCanonical (execSXorReg ws d a b s) := by
  simp [execSXorReg, hs]

@[simp] theorem nextCanonical_execSShlReg (ws : Bool) (d a b : Opnd) : NextCanonical (execSShlReg ws d a b s) := by
  simp [execSShlReg, hs]

@[simp] theorem nextCanonical_execSShrReg (ws : Bool) (d a b : Opnd) : NextCanonical (execSShrReg ws d a b s) := by
  simp [execSShrReg, hs]

@[simp] theorem nextCanonical_execSSarReg (ws : Bool) (d a b : Opnd) : NextCanonical (execSSarReg ws d a b s) := by
  simp [execSSarReg, hs]

@[simp] theorem nextCanonical_execSMinReg (ws : Bool) (d a b : Opnd) : NextCanonical (execSMinReg ws d a b s) := by
  simp [execSMinReg, hs]

@[simp] theorem nextCanonical_execSMaxReg (ws : Bool) (d a b : Opnd) : NextCanonical (execSMaxReg ws d a b s) := by
  simp [execSMaxReg, hs]

@[simp] theorem nextCanonical_execSAddImm (ws : Bool) (d a : Opnd) (imm : BitVec 14) :
    NextCanonical (execSAddImm ws d a imm s) := by
  simp [execSAddImm, hs]

@[simp] theorem nextCanonical_execSMulImm (ws : Bool) (d a : Opnd) (imm : BitVec 14) :
    NextCanonical (execSMulImm ws d a imm s) := by
  simp [execSMulImm, hs]

@[simp] theorem nextCanonical_execSAndImm (ws : Bool) (d a : Opnd) (imm : BitVec 14) :
    NextCanonical (execSAndImm ws d a imm s) := by
  simp [execSAndImm, hs]

@[simp] theorem nextCanonical_execSOrImm (ws : Bool) (d a : Opnd) (imm : BitVec 14) :
    NextCanonical (execSOrImm ws d a imm s) := by
  simp [execSOrImm, hs]

@[simp] theorem nextCanonical_execSXorImm (ws : Bool) (d a : Opnd) (imm : BitVec 14) :
    NextCanonical (execSXorImm ws d a imm s) := by
  simp [execSXorImm, hs]

@[simp] theorem nextCanonical_execSShlImm (ws : Bool) (d a : Opnd) (n : BitVec 6) : NextCanonical (execSShlImm ws d a n s) := by
  simp [execSShlImm, hs]

@[simp] theorem nextCanonical_execSShrImm (ws : Bool) (d a : Opnd) (n : BitVec 6) : NextCanonical (execSShrImm ws d a n s) := by
  simp [execSShrImm, hs]

@[simp] theorem nextCanonical_execSSarImm (ws : Bool) (d a : Opnd) (n : BitVec 6) : NextCanonical (execSSarImm ws d a n s) := by
  simp [execSSarImm, hs]

@[simp] theorem nextCanonical_execSMinImm (ws : Bool) (d a : Opnd) (imm : BitVec 14) :
    NextCanonical (execSMinImm ws d a imm s) := by
  simp [execSMinImm, hs]

@[simp] theorem nextCanonical_execSMaxImm (ws : Bool) (d a : Opnd) (imm : BitVec 14) :
    NextCanonical (execSMaxImm ws d a imm s) := by
  simp [execSMaxImm, hs]

@[simp] theorem nextCanonical_execSSel (ws : Bool) (d a b c : Opnd) : NextCanonical (execSSel ws d a b c s) := by
  simp [execSSel, hs]

@[simp] theorem nextCanonical_execSLi (ws : Bool) (d : Opnd) (imm : BitVec 34) : NextCanonical (execSLi ws d imm s) := by
  simp [execSLi, hs]

@[simp] theorem nextCanonical_execSLih (ws : Bool) (d : Opnd) (imm : BitVec 30) : NextCanonical (execSLih ws d imm s) := by
  simp [execSLih, hs]

@[simp] theorem nextCanonical_execSAddsc (ws : Bool) (d a b : Opnd) (sh : BitVec 3) :
    NextCanonical (execSAddsc ws d a b sh s) := by
  simp [execSAddsc, hs]

@[simp] theorem nextCanonical_execSGetc (ws : Bool) (d : Opnd) (n : BitVec 4) : NextCanonical (execSGetc ws d n s) := by
  simp [execSGetc, hs]

omit hs in
@[simp] theorem canonical_frameFollows (atb : Word) : MemoryCanonical (s.frameFollows atb) ↔ MemoryCanonical s := by
  unfold State.frameFollows
  split <;> simp

@[simp] theorem nextCanonical_execSSetc (a : Opnd) (n : BitVec 4) : NextCanonical (execSSetc a n s) := by simp [execSSetc, hs]

/-! ### Sys2Proof/Machine/Vector.lean -/

omit hs in
@[simp] theorem canonical_vecElems (sl : VSlot) (lat : Nat) (ws : Bool) (d : Opnd) (w n : Nat) (on : Nat → Bool)
    (f : Nat → Nat) : MemoryCanonical (s.vecElems sl lat ws d w n on f) ↔ MemoryCanonical s := by
  simp [State.vecElems]

omit hs in
@[simp] theorem canonical_vecLanes (sl : VSlot) (lat : Nat) (ws : Bool) (d : Opnd) (mk : BitVec 3) (f : Nat → Nat) :
    MemoryCanonical (s.vecLanes sl lat ws d mk f) ↔ MemoryCanonical s := by
  simp [State.vecLanes]

omit hs in
@[simp] theorem canonical_vecTy (sl : VSlot) (lat : Nat) (ws : Bool) (d : Opnd) (mk : BitVec 3) (ty : BitVec 4)
    (f : Nat → Nat) : MemoryCanonical (s.vecTy sl lat ws d mk ty f) ↔ MemoryCanonical s := by
  simp [State.vecTy]

omit hs in
@[simp] theorem canonical_vecArith (sl : VSlot) (fl : Nat) (ws : Bool) (d a b : Opnd) (mk : BitVec 3) (ty : BitVec 4)
    (fi : Int → Int → Int) (ff : Machine.Num → Machine.Num →
      Machine.Num) : MemoryCanonical (s.vecArith sl fl ws d a b mk ty fi ff) ↔ MemoryCanonical s := by
  simp [State.vecArith]

omit hs in
@[simp] theorem canonical_vecMinMax (isMax : Bool) (sl : VSlot) (ws : Bool) (d a b : Opnd) (mk : BitVec 3) (ty : BitVec 4) :
    MemoryCanonical (s.vecMinMax isMax sl ws d a b mk ty) ↔ MemoryCanonical s := by
  simp [State.vecMinMax]

omit hs in
@[simp] theorem canonical_vecBits (f : Nat → Nat → Nat) (sl : VSlot) (ws : Bool) (d a b : Opnd) (mk : BitVec 3) :
    MemoryCanonical (s.vecBits f sl ws d a b mk) ↔ MemoryCanonical s := by
  simp [State.vecBits]

omit hs in
@[simp] theorem canonical_vecShift (kind : Nat) (sl : VSlot) (ws : Bool) (d a : Opnd) (count : Nat → Nat) (mk : BitVec 3)
    (ty : BitVec 4) : MemoryCanonical (s.vecShift kind sl ws d a count mk ty) ↔ MemoryCanonical s := by
  simp [State.vecShift]

omit hs in
@[simp] theorem canonical_vecCmp (cc : Nat) (sl : VSlot) (ws : Bool) (d a b : Opnd) (mk : BitVec 3) (ty : BitVec 4) :
    MemoryCanonical (s.vecCmp cc sl ws d a b mk ty) ↔ MemoryCanonical s := by
  simp [State.vecCmp]

@[simp] theorem nextCanonical_execVAdd (sl : VSlot) (ws : Bool) (d a b : Opnd) (mk : BitVec 3) (ty : BitVec 4) :
    NextCanonical (execVAdd sl ws d a b mk ty s) := by
  simp [execVAdd, hs]

@[simp] theorem nextCanonical_execVSub (sl : VSlot) (ws : Bool) (d a b : Opnd) (mk : BitVec 3) (ty : BitVec 4) :
    NextCanonical (execVSub sl ws d a b mk ty s) := by
  simp [execVSub, hs]

@[simp] theorem nextCanonical_execVMul (sl : VSlot) (ws : Bool) (d a b : Opnd) (mk : BitVec 3) (ty : BitVec 4) :
    NextCanonical (execVMul sl ws d a b mk ty s) := by
  simp [execVMul, hs]

@[simp] theorem nextCanonical_execVFma (sl : VSlot) (ws : Bool) (d a b : Opnd) (mk : BitVec 3) (ty : BitVec 4) :
    NextCanonical (execVFma sl ws d a b mk ty s) := by
  simp [execVFma, hs]

@[simp] theorem nextCanonical_execVMin (sl : VSlot) (ws : Bool) (d a b : Opnd) (mk : BitVec 3) (ty : BitVec 4) :
    NextCanonical (execVMin sl ws d a b mk ty s) := by
  simp [execVMin, hs]

@[simp] theorem nextCanonical_execVMax (sl : VSlot) (ws : Bool) (d a b : Opnd) (mk : BitVec 3) (ty : BitVec 4) :
    NextCanonical (execVMax sl ws d a b mk ty s) := by
  simp [execVMax, hs]

@[simp] theorem nextCanonical_execVAbs (sl : VSlot) (ws : Bool) (d a : Opnd) (mk : BitVec 3) (ty : BitVec 4) :
    NextCanonical (execVAbs sl ws d a mk ty s) := by
  simp [execVAbs, hs]

@[simp] theorem nextCanonical_execVAnd (sl : VSlot) (ws : Bool) (d a b : Opnd) (mk : BitVec 3) :
    NextCanonical (execVAnd sl ws d a b mk s) := by
  simp [execVAnd, hs]

@[simp] theorem nextCanonical_execVOr (sl : VSlot) (ws : Bool) (d a b : Opnd) (mk : BitVec 3) :
    NextCanonical (execVOr sl ws d a b mk s) := by
  simp [execVOr, hs]

@[simp] theorem nextCanonical_execVXor (sl : VSlot) (ws : Bool) (d a b : Opnd) (mk : BitVec 3) :
    NextCanonical (execVXor sl ws d a b mk s) := by
  simp [execVXor, hs]

@[simp] theorem nextCanonical_execVShlVec (sl : VSlot) (ws : Bool) (d a b : Opnd) (mk : BitVec 3) (ty : BitVec 4) :
    NextCanonical (execVShlVec sl ws d a b mk ty s) := by
  simp [execVShlVec, hs]

@[simp] theorem nextCanonical_execVShlImm (sl : VSlot) (ws : Bool) (d a : Opnd) (mk : BitVec 3) (n : BitVec 6) (ty : BitVec 4) :
    NextCanonical (execVShlImm sl ws d a mk n ty s) := by
  simp [execVShlImm, hs]

@[simp] theorem nextCanonical_execVShrVec (sl : VSlot) (ws : Bool) (d a b : Opnd) (mk : BitVec 3) (ty : BitVec 4) :
    NextCanonical (execVShrVec sl ws d a b mk ty s) := by
  simp [execVShrVec, hs]

@[simp] theorem nextCanonical_execVShrImm (sl : VSlot) (ws : Bool) (d a : Opnd) (mk : BitVec 3) (n : BitVec 6) (ty : BitVec 4) :
    NextCanonical (execVShrImm sl ws d a mk n ty s) := by
  simp [execVShrImm, hs]

@[simp] theorem nextCanonical_execVSarVec (sl : VSlot) (ws : Bool) (d a b : Opnd) (mk : BitVec 3) (ty : BitVec 4) :
    NextCanonical (execVSarVec sl ws d a b mk ty s) := by
  simp [execVSarVec, hs]

@[simp] theorem nextCanonical_execVSarImm (sl : VSlot) (ws : Bool) (d a : Opnd) (mk : BitVec 3) (n : BitVec 6) (ty : BitVec 4) :
    NextCanonical (execVSarImm sl ws d a mk n ty s) := by
  simp [execVSarImm, hs]

@[simp] theorem nextCanonical_execVCmpEq (sl : VSlot) (ws : Bool) (d a b : Opnd) (mk : BitVec 3) (ty : BitVec 4) :
    NextCanonical (execVCmpEq sl ws d a b mk ty s) := by
  simp [execVCmpEq, hs]

@[simp] theorem nextCanonical_execVCmpNe (sl : VSlot) (ws : Bool) (d a b : Opnd) (mk : BitVec 3) (ty : BitVec 4) :
    NextCanonical (execVCmpNe sl ws d a b mk ty s) := by
  simp [execVCmpNe, hs]

@[simp] theorem nextCanonical_execVCmpLt (sl : VSlot) (ws : Bool) (d a b : Opnd) (mk : BitVec 3) (ty : BitVec 4) :
    NextCanonical (execVCmpLt sl ws d a b mk ty s) := by
  simp [execVCmpLt, hs]

@[simp] theorem nextCanonical_execVCmpLe (sl : VSlot) (ws : Bool) (d a b : Opnd) (mk : BitVec 3) (ty : BitVec 4) :
    NextCanonical (execVCmpLe sl ws d a b mk ty s) := by
  simp [execVCmpLe, hs]

@[simp] theorem nextCanonical_execVCmpGt (sl : VSlot) (ws : Bool) (d a b : Opnd) (mk : BitVec 3) (ty : BitVec 4) :
    NextCanonical (execVCmpGt sl ws d a b mk ty s) := by
  simp [execVCmpGt, hs]

@[simp] theorem nextCanonical_execVCmpGe (sl : VSlot) (ws : Bool) (d a b : Opnd) (mk : BitVec 3) (ty : BitVec 4) :
    NextCanonical (execVCmpGe sl ws d a b mk ty s) := by
  simp [execVCmpGe, hs]

@[simp] theorem nextCanonical_execVCvt (sl : VSlot) (ws : Bool) (d a : Opnd) (mk rmo : BitVec 3) (src dst : BitVec 4) :
    NextCanonical (execVCvt sl ws d a mk rmo src dst s) := by
  simp [execVCvt, hs]

@[simp] theorem nextCanonical_execVRq (sl : VSlot) (ws : Bool) (d a b : Opnd) (mk : BitVec 3) (dst : BitVec 4) :
    NextCanonical (execVRq sl ws d a b mk dst s) := by
  simp [execVRq, hs]

@[simp] theorem nextCanonical_execVScacc (sl : VSlot) (ws : Bool) (d a b : Opnd) (mk : BitVec 3) (ty : BitVec 4) :
    NextCanonical (execVScacc sl ws d a b mk ty s) := by
  simp [execVScacc, hs]

@[simp] theorem nextCanonical_execVPerm (sl : VSlot) (ws : Bool) (d a b : Opnd) (mk : BitVec 3) :
    NextCanonical (execVPerm sl ws d a b mk s) := by
  simp [execVPerm, hs]

@[simp] theorem nextCanonical_execVRot (sl : VSlot) (ws : Bool) (d a : Opnd) (mk : BitVec 3) (n : BitVec 6) :
    NextCanonical (execVRot sl ws d a mk n s) := by
  simp [execVRot, hs]

@[simp] theorem nextCanonical_execVBcast (sl : VSlot) (ws : Bool) (d a : Opnd) (mk : BitVec 3) :
    NextCanonical (execVBcast sl ws d a mk s) := by
  simp [execVBcast, hs]

@[simp] theorem nextCanonical_execVIota (sl : VSlot) (ws : Bool) (d : Opnd) (mk : BitVec 3) (ty : BitVec 4) :
    NextCanonical (execVIota sl ws d mk ty s) := by
  simp [execVIota, hs]

@[simp] theorem nextCanonical_execVExt (sl : VSlot) (ws : Bool) (d a : Opnd) (n : BitVec 6) :
    NextCanonical (execVExt sl ws d a n s) := by
  simp [execVExt, hs]

@[simp] theorem nextCanonical_execVRsum (sl : VSlot) (ws : Bool) (d a : Opnd) (mk : BitVec 3) (ty : BitVec 4) :
    NextCanonical (execVRsum sl ws d a mk ty s) := by
  simp [execVRsum, hs]

@[simp] theorem nextCanonical_execVRmin (sl : VSlot) (ws : Bool) (d a : Opnd) (mk : BitVec 3) (ty : BitVec 4) :
    NextCanonical (execVRmin sl ws d a mk ty s) := by
  simp [execVRmin, hs]

@[simp] theorem nextCanonical_execVRmax (sl : VSlot) (ws : Bool) (d a : Opnd) (mk : BitVec 3) (ty : BitVec 4) :
    NextCanonical (execVRmax sl ws d a mk ty s) := by
  simp [execVRmax, hs]

@[simp] theorem nextCanonical_execVScan (sl : VSlot) (ws : Bool) (d a : Opnd) (mk : BitVec 3) (ty : BitVec 4) :
    NextCanonical (execVScan sl ws d a mk ty s) := by
  simp [execVScan, hs]

@[simp] theorem nextCanonical_execVRcp (sl : VSlot) (ws : Bool) (d a : Opnd) (mk : BitVec 3) :
    NextCanonical (execVRcp sl ws d a mk s) := by
  simp [execVRcp, hs]

@[simp] theorem nextCanonical_execVRsq (sl : VSlot) (ws : Bool) (d a : Opnd) (mk : BitVec 3) :
    NextCanonical (execVRsq sl ws d a mk s) := by
  simp [execVRsq, hs]

@[simp] theorem nextCanonical_execVExp2 (sl : VSlot) (ws : Bool) (d a : Opnd) (mk : BitVec 3) :
    NextCanonical (execVExp2 sl ws d a mk s) := by
  simp [execVExp2, hs]

@[simp] theorem nextCanonical_execVLog2 (sl : VSlot) (ws : Bool) (d a : Opnd) (mk : BitVec 3) :
    NextCanonical (execVLog2 sl ws d a mk s) := by
  simp [execVLog2, hs]

@[simp] theorem nextCanonical_execVThrcnt (sl : VSlot) (ws : Bool) (d a b : Opnd) (mk : BitVec 3) (ty : BitVec 4) :
    NextCanonical (execVThrcnt sl ws d a b mk ty s) := by
  simp [execVThrcnt, hs]

@[simp] theorem nextCanonical_execVThrsel (sl : VSlot) (ws : Bool) (d a b : Opnd) (mk : BitVec 3) (ty : BitVec 4) :
    NextCanonical (execVThrsel sl ws d a b mk ty s) := by
  simp [execVThrsel, hs]

@[simp] theorem nextCanonical_execVGnorm (sl : VSlot) (ws : Bool) (d a b : Opnd) (mk kx : BitVec 3) :
    NextCanonical (execVGnorm sl ws d a b mk kx s) := by
  simp [execVGnorm, hs]

@[simp] theorem nextCanonical_execKAnd (sl : VSlot) (ws : Bool) (d a b : Opnd) : NextCanonical (execKAnd sl ws d a b s) := by
  simp [execKAnd, hs]

@[simp] theorem nextCanonical_execKOr (sl : VSlot) (ws : Bool) (d a b : Opnd) : NextCanonical (execKOr sl ws d a b s) := by
  simp [execKOr, hs]

@[simp] theorem nextCanonical_execKNot (sl : VSlot) (ws : Bool) (d a : Opnd) : NextCanonical (execKNot sl ws d a s) := by
  simp [execKNot, hs]

@[simp] theorem nextCanonical_execKPop (sl : VSlot) (ws : Bool) (d a : Opnd) : NextCanonical (execKPop sl ws d a s) := by
  simp [execKPop, hs]

/-! ### Sys2Proof/Machine/Dispatch.lean -/

@[simp] theorem nextCanonical_exec (i : Instr) : NextCanonical (exec i s) := by
  unfold exec
  split <;> simp [hs]

/-! ### Sys2Proof/Machine/Step.lean -/

@[simp] theorem nextCanonical_runLatched (l : List Latched) : NextCanonical (runLatched l s) := by
  induction l generalizing s with
  | nil => exact nextCanonical_exec hs .resultWriteback
  | cons o l ih =>
    have h := nextCanonical_exec (s := { s with curWord := o.word }) ((canonical_mk_iff ..).mpr hs) o.op
    unfold runLatched
    split
    · next t ht => exact ih (h t ht)
    · exact h

@[simp] theorem nextCanonical_finishStep : NextCanonical (finishStep s) := by
  grind [NextCanonical, finishStep, nextCanonical_runLatched, canonical_recordsOut]

@[simp] theorem nextCanonical_step : NextCanonical (step s) := by
  grind [MemoryCanonical, NextCanonical, step, canonical_nextEvent, nextCanonical_finishStep,
    nextCanonical_exec]
end

end Sys2Proof.Proofs
end

section
/-! PROOFS. Every step keeps memory canonical (O56). -/

namespace Sys2Proof.Proofs

open Sys2Proof Sys2Proof.Machine Sys2Proof.Claims Sys2Proof.Laws

/-- Settles O56: a step is an event's execution or the end of one, and every state that either answers is canonical. -/
theorem stepKeepsMemoryCanonical : Obligations.StepKeepsMemoryCanonical := fun _ _ hs h => nextCanonical_step hs _ h

end Sys2Proof.Proofs
end

section
/-! SUPPORT. The accesses of the drafting unit and of a node's computation leave plans, jobs and dies alone. -/

namespace Sys2Proof.Proofs

open Sys2Proof Sys2Proof.Machine Sys2Proof.Claims Sys2Proof.Laws

/-- The plans, jobs, records, what the dies hold and the context at issue stand, as they do over every access to memory. -/
structure PlansStand (s t : State) : Prop where
  plans : t.plans = s.plans
  jobs : t.jobs = s.jobs
  dies : t.dies = s.dies
  recs : t.recs = s.recs
  issue : t.curCore = s.curCore ∧ t.curCtx = s.curCtx

theorem PlansStand.refl (s : State) : PlansStand s s := ⟨rfl, rfl, rfl, rfl, ⟨rfl, rfl⟩⟩

theorem PlansStand.trans {s t u : State} (h : PlansStand s t) (h' : PlansStand t u) : PlansStand s u :=
  ⟨h'.plans.trans h.plans, h'.jobs.trans h.jobs, h'.dies.trans h.dies, h'.recs.trans h.recs,
    ⟨h'.issue.1.trans h.issue.1, h'.issue.2.trans h.issue.2⟩⟩

theorem plansStand_foldl {α : Type} {f : State → α → State} (h : ∀ s a, PlansStand s (f s a)) (l : List α) (s : State) :
    PlansStand s (l.foldl f s) :=
  List.foldlRecOn l f (PlansStand.refl s) fun _ hb a _ => hb.trans (h _ a)

theorem plansStand_foldl_snd {α β : Type} {f : β × State → α → β × State} (h : ∀ p a, PlansStand p.2 (f p a).2) (l : List α)
    (p : β × State) : PlansStand p.2 (l.foldl f p).2 :=
  List.foldlRecOn (motive := fun q => PlansStand p.2 q.2) l f (PlansStand.refl p.2) fun _ hb a _ => hb.trans (h _ a)

theorem plansStand_modMem (s : State) (f : MemSys → MemSys) : PlansStand s (s.modMem f) := ⟨rfl, rfl, rfl, rfl, ⟨rfl, rfl⟩⟩

theorem plansStand_modDieCores (s : State) (die : Nat) (f : Core → Core) : PlansStand s (s.modDieCores die f) :=
  ⟨rfl, rfl, rfl, rfl, ⟨rfl, rfl⟩⟩

theorem plansStand_report (s : State) (cls src fn die agent step : Nat) : PlansStand s (s.report cls src fn die agent step) := by
  unfold State.report
  dsimp only
  split <;> exact ⟨rfl, rfl, rfl, rfl, ⟨rfl, rfl⟩⟩

/-! ## Granules (02) -/

theorem plansStand_countGran (s : State) (g dpa : Nat) : PlansStand s (s.countGran g dpa) := by
  unfold State.countGran State.reportPf
  split
  · exact .refl s
  · exact .refl s
  · exact (plansStand_modMem _ _).trans (plansStand_report ..)
  · exact (plansStand_modMem _ _).trans (plansStand_report ..)
  · exact plansStand_modMem _ _
  · exact plansStand_modMem _ _

theorem plansStand_granPartial (s : State) (g dpa : Nat) (et : Bool) (mask : Nat) (data : List Byte) :
    PlansStand s (s.granPartial g dpa et mask data).2 := by
  unfold State.granPartial
  dsimp only
  split
  · split
    · exact (plansStand_countGran s g dpa).trans ⟨rfl, rfl, rfl, rfl, ⟨rfl, rfl⟩⟩
    · exact ⟨rfl, rfl, rfl, rfl, ⟨rfl, rfl⟩⟩
  · exact (plansStand_countGran s g dpa).trans ⟨rfl, rfl, rfl, rfl, ⟨rfl, rfl⟩⟩

theorem plansStand_granStore (s : State) (g dpa : Nat) (et : Bool) (data : List Byte) : PlansStand s (s.granStore g dpa et data).2 := by
  unfold State.granStore
  split
  · exact ⟨rfl, rfl, rfl, rfl, ⟨rfl, rfl⟩⟩
  · exact plansStand_granPartial ..

theorem plansStand_dpaWrite (s : State) (g dpa : Nat) (et : Bool) (data : List Byte) : PlansStand s (s.dpaWrite g dpa et data).2 := by
  refine plansStand_foldl_snd (fun p c => ?_) _ (0, s)
  exact plansStand_granStore ..

theorem plansStand_fetch (s : State) (g line : Nat) (v : BitVec 4) : PlansStand s (s.fetch g line v).2 :=
  plansStand_foldl (fun _ _ => plansStand_countGran ..) _ s

/-! ## The accesses of an engine (03 R65, R66) -/

theorem plansStand_cohNcWrite (s : State) (line : Nat) : PlansStand s (s.cohNcWrite line) :=
  (plansStand_foldl (f := fun s d => s.dropLine d line) (fun _ _ => ⟨rfl, rfl, rfl, rfl, ⟨rfl, rfl⟩⟩) _ s).trans
    ⟨rfl, rfl, rfl, rfl, ⟨rfl, rfl⟩⟩

theorem plansStand_ncEngWrite (s : State) (die line off : Nat) (bs : List Byte) : PlansStand s (s.ncEngWrite die line off bs) := by
  unfold State.ncEngWrite
  refine PlansStand.trans ?_ (plansStand_modDieCores _ _ _)
  split
  · exact plansStand_modMem _ _
  · exact .refl s

theorem plansStand_engWrite (s : State) (die : Nat) (segs : List Seg) (bs : List Byte) : PlansStand s (s.engWrite die segs bs).2 := by
  refine plansStand_foldl_snd (fun p g => ?_) segs (0, s)
  refine PlansStand.trans (plansStand_foldl (fun t c => ?_) _ p.2) (plansStand_dpaWrite ..)
  split
  · exact plansStand_cohNcWrite ..
  · exact plansStand_ncEngWrite ..

theorem plansStand_engRead (s : State) (die : Nat) (segs : List Seg) : PlansStand s (s.engRead die segs).2 := by
  refine plansStand_foldl_snd (fun p g => ?_) segs (Got.empty, s)
  refine plansStand_foldl_snd (fun q c => ?_) _ p
  dsimp only
  split <;> exact plansStand_fetch ..

theorem plansStand_vaWrite {s : State} {die : Nat} {who : Who} {va : Nat} {bs : List Byte} {r : Nat × State}
    (h : s.vaWrite die who va bs = .ok r) : PlansStand s r.2 := by
  unfold State.vaWrite at h
  split at h
  · cases h
  · cases h
    exact plansStand_engWrite ..

theorem plansStand_vaRead {s : State} {die : Nat} {who : Who} {va n : Nat} {r : Got × State}
    (h : s.vaRead die who va n = .ok r) : PlansStand s r.2 := by
  unfold State.vaRead at h
  split at h
  · cases h
  · cases h
    exact plansStand_engRead ..

/-! ## Releases (03 R77) -/

theorem plansStand_addSubst (s : State) (agent n : Nat) : PlansStand s (s.addSubst agent n) := by
  unfold State.addSubst
  split <;> exact ⟨rfl, rfl, rfl, rfl, ⟨rfl, rfl⟩⟩

theorem plansStand_lineWrite (s : State) (g : Nat) (et : Bool) (agent line mask : Nat) (bytes : List Byte) :
    PlansStand s (s.lineWrite g et agent line mask bytes) := by
  refine plansStand_foldl (fun t c => ?_) _ s
  dsimp only
  split
  · exact .refl t
  · split
    · exact plansStand_modMem _ _
    · split
      · exact (plansStand_granPartial ..).trans (plansStand_addSubst ..)
      · exact plansStand_granPartial ..

theorem plansStand_ncFlush (s : State) (die : Nat) : PlansStand s (s.ncFlush die) :=
  plansStand_foldl (fun _ _ => (plansStand_lineWrite ..).trans (plansStand_modMem _ _)) _ s

theorem plansStand_releaseAll (s : State) : PlansStand s s.releaseAll := plansStand_foldl plansStand_ncFlush _ s

/-! ## Tables and tensors (07 R170, 22 R431) -/

theorem plansStand_tableWrite (s : State) (dctx va : Nat) (bs : List Byte) : PlansStand s (s.tableWrite dctx va bs) := by
  unfold State.tableWrite
  split
  · exact .refl s
  · exact plansStand_engWrite ..

theorem contextsStand_tableWrite (s : State) (dctx va : Nat) (bs : List Byte) : ContextsStand s (s.tableWrite dctx va bs) := by
  unfold State.tableWrite
  split
  · exact .refl s
  · exact contextsStand_engWrite ..

theorem plansStand_showPlan (s : State) (id : Nat) : PlansStand s (s.showPlan id) := by
  unfold State.showPlan
  split
  · exact .refl s
  · exact (plansStand_tableWrite ..).trans (plansStand_tableWrite ..)

theorem contextsStand_showPlan (s : State) (id : Nat) : ContextsStand s (s.showPlan id) := by
  unfold State.showPlan
  split
  · exact .refl s
  · exact (contextsStand_tableWrite ..).trans (contextsStand_tableWrite ..)

theorem plansStand_statWrite (s : State) (dctx tbase six : Nat) (x : Stats) (sf : Nat) :
    PlansStand s (s.statWrite dctx tbase six x sf) := by
  rw [statWrite_def]
  beta_reduce
  generalize s.tableRead dctx (statVa tbase six) 32 = r
  cases r with
  | error t => exact .refl s
  | ok bs => exact plansStand_tableWrite ..

theorem plansStand_tensorRuns {s : State} {die : Nat} {who : Who} {id : Nat} {t : Tsr} {runs : List (Nat × Nat)} {r : TVal × Nat × State}
    (h : s.tensorRuns die who id t runs = .ok r) : PlansStand s r.2.2 := by
  unfold State.tensorRuns at h
  split at h
  · cases h
  · dsimp only at h
    split at h
    · cases h
    · cases h
      exact plansStand_engRead ..

theorem plansStand_tensorGet {s : State} {die : Nat} {who : Who} {id : Nat} {r : TVal × Nat × State}
    (h : s.tensorGet die who id = .ok r) : PlansStand s r.2.2 := by
  unfold State.tensorGet at h
  split at h
  · cases h
  · exact plansStand_tensorRuns h

theorem plansStand_tensorPick {s : State} {die : Nat} {who : Who} {id : Nat} {sel : List Nat → Bool} {r : TVal × Nat × State}
    (h : s.tensorPick die who id sel = .ok r) : PlansStand s r.2.2 := by
  unfold State.tensorPick at h
  split at h
  · cases h
  · exact plansStand_tensorRuns h

/-- A recursion over a list that may end in trouble, each of whose turns leaves the plans. -/
theorem plansStand_foldlM {α β ε : Type} {f : β × State → α → Except ε (β × State)}
    (hf : ∀ p a q, f p a = .ok q → PlansStand p.2 q.2) (l : List α) {p q : β × State} (h : l.foldlM f p = .ok q) :
    PlansStand p.2 q.2 := by
  induction l generalizing p with
  | nil =>
    cases h
    exact .refl _
  | cons a l ih =>
    rw [List.foldlM_cons] at h
    cases ha : f p a with
    | error e =>
      rw [ha] at h
      cases h
    | ok r =>
      rw [ha] at h
      exact (hf p a r ha).trans (ih h)

theorem plansStand_tensorPut {s : State} {die : Nat} {who : Who} {id : Nat} {v : TVal} {sel : List Nat → Bool} {r : Nat × State}
    (h : s.tensorPut die who id v sel = .ok r) : PlansStand s r.2 := by
  unfold State.tensorPut at h
  split at h
  · cases h
  · refine plansStand_foldlM (p := (0, s)) (fun p k q hq => ?_) _ h
    dsimp only at hq
    generalize p.2.runSegs _ _ _ _ _ = o at hq
    cases o with
    | error e => cases hq
    | ok segs =>
      cases hq
      refine plansStand_foldl_snd (fun q g => ?_) segs p
      exact plansStand_engWrite ..

theorem plansStand_planStats (s : State) (p : Plan) : PlansStand s (s.planStats p) := by
  refine plansStand_foldl (fun t b => ?_) _ s
  split
  · next h => exact (plansStand_tensorGet h).trans (plansStand_statWrite ..)
  · exact .refl t

/-! ## A node's values (07 R191, R192) -/

theorem plansStand_planValue {s : State} {p : Plan} {v : Nat} {r : TVal × Nat × State} (h : s.planValue p v = .ok r) :
    PlansStand s r.2.2 := by
  unfold State.planValue at h
  split at h
  · dsimp only at h
    split at h
    · split at h
      · exact plansStand_tensorGet h
      · cases h
        exact .refl s
    · split at h
      · cases h
      · next hr =>
        split at h
        · cases h
        · cases h
          exact plansStand_vaRead hr
  · exact plansStand_tensorGet h

theorem plansStand_planKeep {s : State} {p : Plan} {i : Nat} {v : TVal} {sel : List Nat → Bool} {r : Nat × State}
    (h : s.planKeep p i v sel = .ok r) : PlansStand s r.2 := by
  unfold State.planKeep at h
  split at h
  · exact plansStand_vaWrite h
  · split at h
    · cases h
      exact .refl s
    · exact plansStand_tensorPut h

theorem except_bind_ok {ε α β : Type} {x : Except ε α} {f : α → Except ε β} {b : β} (h : x >>= f = .ok b) :
    ∃ a, x = .ok a ∧ f a = .ok b := by
  cases x with
  | error e => cases h
  | ok a => exact ⟨a, rfl, h⟩

/-- The computation of a node leaves the jobs. -/
theorem jobs_planNode {s : State} {p : Plan} {i n : Nat} {u : State} (h : s.planNode p i = .ok (n, u)) : u.jobs = s.jobs := by
  unfold State.planNode at h
  obtain ⟨a, ha, h⟩ := except_bind_ok h
  obtain ⟨b, hb, h⟩ := except_bind_ok h
  obtain ⟨t, ht, h⟩ := except_bind_ok h
  obtain ⟨w, hw, h⟩ := except_bind_ok h
  have hb' : b.2.2.jobs = a.2.2.jobs := by
    split at hb
    · cases hb
      rfl
    · cases hv : a.2.2.planValue p (nIn (p.nodes.getD i 0) 1) with
      | error e =>
        rw [hv] at hb
        cases hb
      | ok r =>
        rw [hv] at hb
        cases hb
        exact (plansStand_planValue hv).jobs
  have ht' : t.2.2.jobs = b.2.2.jobs := by
    split at ht
    · exact (plansStand_tensorPick ht).jobs
    · cases ht
      rfl
  cases h
  exact (plansStand_planKeep hw).jobs.trans (ht'.trans (hb'.trans (plansStand_planValue ha).jobs))

end Sys2Proof.Proofs
end

section
/-! PROOFS. The drafting unit: changes of a plan, and the end of a planning (O50). -/

namespace Sys2Proof.Proofs

open Sys2Proof Sys2Proof.Machine Sys2Proof.Claims Sys2Proof.Laws

/-! ## Finding what was changed -/

theorem find?_modFirst {α : Type} {p : α → Bool} {f : α → α} (h : ∀ x, p (f x) = p x) (l : List α) :
    (modFirst p f l).find? p = (l.find? p).map f := by
  induction l with
  | nil => rfl
  | cons a l ih =>
    unfold modFirst
    split
    · next ha => simp [h, ha]
    · next ha => simp [ha, ih]

theorem planOf_id {s : State} {id : Nat} {p : Plan} (h : s.planOf id = some p) : p.id = id := by
  simpa using List.find?_some h

theorem jobOf_id {s : State} {id : Nat} {j : Job} (h : s.jobOf id = some j) : j.id = id := by
  simpa using List.find?_some h

theorem planOf_congr {s t : State} (h : t.plans = s.plans) (id : Nat) : t.planOf id = s.planOf id := by
  unfold State.planOf
  rw [h]

theorem jobOf_congr {s t : State} (h : t.jobs = s.jobs) (id : Nat) : t.jobOf id = s.jobOf id := by
  unfold State.jobOf
  rw [h]

theorem planOf_modPlan {s : State} {id : Nat} {p : Plan} (hp : s.planOf id = some p) {f : Plan → Plan} (hf : ∀ q, (f q).id = q.id) :
    (s.modPlan id f).planOf id = some (f p) := by
  have h := find?_modFirst (p := fun q => q.id == id) (f := f) (fun q => by rw [hf]) s.plans
  exact h.trans (congrArg (Option.map f) hp)

theorem planOf_setPlan {s : State} {id : Nat} {p : Plan} (hp : s.planOf id = some p) {f : Plan → Plan} (hf : ∀ q, (f q).id = q.id) :
    (s.setPlan id f).planOf id = some (f p) :=
  (planOf_congr (plansStand_showPlan ..).plans id).trans (planOf_modPlan hp hf)

theorem jobOf_modJob {s : State} {id : Nat} {j : Job} (hj : s.jobOf id = some j) {f : Job → Job} (hf : ∀ k, (f k).id = k.id) :
    (s.modJob id f).jobOf id = some (f j) := by
  have h := find?_modFirst (p := fun k => k.id == id) (f := f) (fun k => by rw [hf]) s.jobs
  exact h.trans (congrArg (Option.map f) hj)

/-! ## What a change of a plan leaves -/

/-- What the dies hold, the device contexts and the threads' contexts stand. -/
structure DraftStands (s t : State) : Prop where
  dies : t.dies = s.dies
  contexts : ContextsStand s t

theorem DraftStands.trans {s t u : State} (h : DraftStands s t) (h' : DraftStands t u) : DraftStands s u :=
  ⟨h'.dies.trans h.dies, h.contexts.trans h'.contexts⟩

theorem draftStands_setPlan (s : State) (id : Nat) (f : Plan → Plan) : DraftStands s (s.setPlan id f) :=
  ⟨(plansStand_showPlan ..).dies, (contextsStand_of_eq rfl rfl : ContextsStand s (s.modPlan id f)).trans (contextsStand_showPlan ..)⟩

theorem draftStands_planTell (s : State) (p : Plan) : DraftStands s (s.planTell p) := by
  unfold State.planTell
  dsimp only
  split <;> exact ⟨rfl, contextsStand_of_eq rfl rfl⟩

theorem planTell_plans (s : State) (p : Plan) : (s.planTell p).plans = s.plans := by
  unfold State.planTell
  dsimp only
  split <;> rfl

/-- A plan goes on: only its job changes. -/
theorem planAdvance_stands (s : State) (id : Nat) : DraftStands s (s.planAdvance id) ∧
    ∀ p, s.planOf id = some p → ∃ job, (s.planAdvance id).planOf id = some { p with job := job } := by
  have hrefl : DraftStands s s := ⟨rfl, .refl s⟩
  have hsame {t : State} (ht : t.plans = s.plans) (p : Plan) (hp : s.planOf id = some p) :
      ∃ job, t.planOf id = some { p with job := job } := ⟨p.job, (planOf_congr ht id).trans hp⟩
  unfold State.planAdvance
  split
  · exact ⟨hrefl, hsame rfl⟩
  · split
    · exact ⟨hrefl, hsame rfl⟩
    · split
      · exact ⟨⟨rfl, contextsStand_of_eq rfl rfl⟩, hsame rfl⟩
      · dsimp only
        split
        · exact ⟨⟨rfl, contextsStand_of_eq rfl rfl⟩, hsame rfl⟩
        · refine ⟨⟨rfl, contextsStand_of_eq rfl rfl⟩, fun q hq => ⟨some s.nextId, ?_⟩⟩
          exact planOf_modPlan (f := fun p => { p with job := some s.nextId })
            (s := { s.fresh.2 with jobs := _ }) hq fun _ => rfl

theorem draftStands_draft (s : State) (die : Nat) : DraftStands s (s.draft die) ∧ (s.draft die).plans = s.plans := by
  unfold State.draft
  dsimp only
  split
  · exact ⟨⟨rfl, .refl s⟩, rfl⟩
  · split
    · exact ⟨⟨rfl, .refl s⟩, rfl⟩
    · exact ⟨⟨rfl, contextsStand_of_eq rfl rfl⟩, rfl⟩

/-! ## The end of a planning (07 R181) -/

/-- The query has left the drafting unit, and its result is delivered. -/
def planDelivered (s : State) (id : Nat) (p : Plan) : State :=
  State.modPlan (match p.result with
    | some (core, x, long) => (s.modDie s.arg.die fun d => { d with drafting := d.drafting.drop 1 }).deliver (splitAgent (4 * core + x)).1
        (splitAgent (4 * core + x)).2 long (BitVec.ofNat 2048 (p.handle * 256))
    | none => s.modDie s.arg.die fun d => { d with drafting := d.drafting.drop 1 }) id fun p => { p with result := none }

/-- A plan of a packet has one run. -/
def runCounted (s : State) (id : Nat) : State := s.modPlan id fun p => { p with runs := if p.pkt.isSome then 1 else p.runs }

theorem exec_planningEnd {s : State} {id : Nat} {rest : List Nat} {p : Plan} (hd : (s.dieAt s.arg.die).drafting = id :: rest)
    (hp : s.planOf id = some p) (hk : p.pkt = none) : exec .planningEnd s = .next (State.draft
      (if p.invalidated then ((planDelivered s id p).setPlan id fun p =>
          { p with st := .invalid, code := if p.resume.isSome then 2 else 3, invalidated := false, runPending := false }).planTell p
        else if p.resume.isSome then ((planDelivered s id p).setPlan id fun p =>
          { p with st := .running, runPending := false, nextNode := p.resume.getD 0, resume := none }).planAdvance id
        else if p.runPending then (runCounted (planDelivered s id p) id).planStart id
        else ((planDelivered s id p).setPlan id fun p => { p with st := .ready }).planTell p) s.arg.die.val) := by
  have hp' : (s.modDie s.arg.die fun d => { d with drafting := d.drafting.drop 1 }).planOf id = some p := hp
  show execPlanningEnd s = _
  unfold execPlanningEnd
  simp only [hd, hp', hk, Option.isSome_none, Bool.false_eq_true, if_false]
  rfl

theorem planOf_planDelivered {s : State} {id : Nat} {p : Plan} (hp : s.planOf id = some p) :
    (planDelivered s id p).planOf id = some { p with result := none } := by
  have hs (o : Option (Nat × Nat × Nat)) : State.planOf (match o with
      | some (core, x, long) => (s.modDie s.arg.die fun d => { d with drafting := d.drafting.drop 1 }).deliver (splitAgent (4 * core + x)).1
          (splitAgent (4 * core + x)).2 long (BitVec.ofNat 2048 (p.handle * 256))
      | none => s.modDie s.arg.die fun d => { d with drafting := d.drafting.drop 1 }) id = some p := by
    cases o <;> exact hp
  exact planOf_modPlan (hs p.result) fun _ => rfl

theorem planDelivered_drafting (s : State) (id : Nat) (p : Plan) :
    ((planDelivered s id p).dieAt s.arg.die).drafting = (s.dieAt s.arg.die).drafting.drop 1 := by
  have h : (planDelivered s id p).dies = (s.modDie s.arg.die fun d => { d with drafting := d.drafting.drop 1 }).dies := by
    unfold planDelivered
    split <;> rfl
  have hd := dieAt_modDie_self s s.arg.die fun d => { d with drafting := d.drafting.drop 1 }
  exact (congrArg (fun v : Vector Die 4 => (v.get s.arg.die).drafting) h).trans (congrArg (·.drafting) hd)

/-- A delivered result has its data. -/
theorem deliver_long {s : State} {c : Fin 192} {x : Fin 4} {id : Nat} {l : LongResult} (data : VReg)
    (h : (s.ctxAt c x).long.find? (fun l => l.id == id) = some l) :
    ((s.deliver c x id data).ctxAt c x).long.find? (fun l => l.id == id) = some { l with data := some data } := by
  have hc : (s.deliver c x id data).ctxAt c x = _ := ctxAt_modCtxAt_self s c x fun c =>
    { c with long := modFirst (fun r => r.id == id) (fun r => { r with data := some data }) c.long }
  rw [hc]
  exact (find?_modFirst (f := fun r : LongResult => { r with data := some data }) (fun _ => rfl) _).trans (congrArg (Option.map _) h)

theorem planDelivered_long {s : State} {p : Plan} (id : Nat) {core x long : Nat} {l : LongResult} (hr : p.result = some (core, x, long))
    (h : (s.ctxAt (splitAgent (4 * core + x)).1 (splitAgent (4 * core + x)).2).long.find? (fun l => l.id == long) = some l) :
    ((planDelivered s id p).ctxAt (splitAgent (4 * core + x)).1 (splitAgent (4 * core + x)).2).long.find? (fun l => l.id == long) =
      some { l with data := some (BitVec.ofNat 2048 (p.handle * 256)) } := by
  unfold planDelivered
  rw [hr]
  exact deliver_long (s := s.modDie s.arg.die fun d => { d with drafting := d.drafting.drop 1 }) _ h

/-- A run that starts: only its job differs from the initial plan's first node. -/
theorem planStart_stands (s : State) (id : Nat) : DraftStands s (s.planStart id) ∧ ∀ p, s.planOf id = some p →
    ∃ job, (s.planStart id).planOf id = some { p with
      st := .running, runPending := false, resume := none, current := p.initial, roomNow := p.room, done := [],
      nextNode := 0, repl := 0, goob := 0, job := job } := by
  obtain ⟨hs, hp⟩ := planAdvance_stands (s.setPlan id fun p =>
    { p with
      st := .running, runPending := false, resume := none, current := p.initial, roomNow := p.room, done := [],
      nextNode := 0, repl := 0, goob := 0 }) id
  exact ⟨(draftStands_setPlan ..).trans hs, fun p h => hp _ (planOf_setPlan h fun _ => rfl)⟩

/-- What every end of a planning leaves: the die's list has moved on, and the result is delivered. -/
theorem planningEnd_delivers {s t : State} {id : Nat} {rest : List Nat} {p : Plan} (hd : (s.dieAt s.arg.die).drafting = id :: rest)
    (h : DraftStands (planDelivered s id p) t) : (t.dieAt s.arg.die).drafting = rest ∧
    ∀ core x long l, p.result = some (core, x, long) →
      (s.ctxAt (splitAgent (4 * core + x)).1 (splitAgent (4 * core + x)).2).long.find? (fun l => l.id == long) = some l →
      (t.ctxAt (splitAgent (4 * core + x)).1 (splitAgent (4 * core + x)).2).long.find? (fun l => l.id == long) =
        some { l with data := some (BitVec.ofNat 2048 (p.handle * 256)) } := by
  refine ⟨?_, fun core x long l hr hl => ?_⟩
  · have hdie := planDelivered_drafting s id p
    rw [hd] at hdie
    exact (congrArg (fun v : Vector Die 4 => (v.get s.arg.die).drafting) h.dies).trans hdie
  · rw [h.contexts.ctxAt]
    exact planDelivered_long id hr hl

theorem planningEnd_effect {s : State} {id : Nat} {rest : List Nat} {p : Plan} (hd : (s.dieAt s.arg.die).drafting = id :: rest)
    (hp : s.planOf id = some p) (hk : p.pkt = none) :
    ∃ t q, exec .planningEnd s = .next t ∧ DraftStands (planDelivered s id p) t ∧ t.planOf id = some q ∧ q.result = none ∧
      (p.invalidated = true → q.st = .invalid ∧ q.code = (if p.resume.isSome then 2 else 3)) ∧
      (p.invalidated = false → p.resume = none → p.runPending = false → q.st = .ready ∧ q.initial = p.initial) ∧
      (p.invalidated = false → p.resume = none → p.runPending = true → q.st = .running ∧ q.current = p.initial ∧ q.nextNode = 0) ∧
      (∀ n, p.invalidated = false → p.resume = some n → q.st = .running ∧ q.nextNode = n ∧ q.current = p.current) := by
  have hu := planOf_planDelivered hp
  have hdraft (t : State) := draftStands_draft t s.arg.die.val
  rw [exec_planningEnd hd hp hk]
  split
  · next hi =>
    refine ⟨_, _, rfl, (draftStands_setPlan ..).trans ((draftStands_planTell ..).trans (hdraft _).1),
      (planOf_congr ((hdraft _).2.trans (planTell_plans ..)) id).trans (planOf_setPlan hu fun _ => rfl), rfl,
      fun _ => ⟨rfl, rfl⟩, ?_, ?_, ?_⟩ <;>
    simp [hi]
  · next hi =>
    split
    · next hr =>
      obtain ⟨hs, hq⟩ := planAdvance_stands ((planDelivered s id p).setPlan id fun p =>
        { p with st := .running, runPending := false, nextNode := p.resume.getD 0, resume := none }) id
      obtain ⟨job, hq⟩ := hq _ (planOf_setPlan hu fun _ => rfl)
      refine ⟨_, _, rfl, (draftStands_setPlan ..).trans (hs.trans (hdraft _).1), (planOf_congr (hdraft _).2 id).trans hq,
        rfl, ?_, ?_, ?_, ?_⟩
      · exact fun h => absurd h hi
      · exact fun _ h => by simp [h] at hr
      · exact fun _ h => by simp [h] at hr
      · exact fun n _ h => ⟨rfl, by simp [h], rfl⟩
    · next hr =>
      split
      · next hw =>
        obtain ⟨hs, hq⟩ := planStart_stands (runCounted (planDelivered s id p) id) id
        obtain ⟨job, hq⟩ := hq _ (planOf_modPlan hu fun _ => rfl)
        have hm : DraftStands (planDelivered s id p) (runCounted (planDelivered s id p) id) :=
          ⟨rfl, contextsStand_of_eq rfl rfl⟩
        refine ⟨_, _, rfl, hm.trans (hs.trans (hdraft _).1), (planOf_congr (hdraft _).2 id).trans hq, rfl, ?_, ?_, ?_, ?_⟩
        · exact fun h => absurd h hi
        · exact fun _ _ h => by simp [h] at hw
        · exact fun _ _ _ => ⟨rfl, rfl, rfl⟩
        · exact fun n _ h => by simp [h] at hr
      · next hw =>
        refine ⟨_, _, rfl, (draftStands_setPlan ..).trans ((draftStands_planTell ..).trans (hdraft _).1),
          (planOf_congr ((hdraft _).2.trans (planTell_plans ..)) id).trans (planOf_setPlan hu fun _ => rfl), rfl, ?_, ?_, ?_, ?_⟩
        · exact fun h => absurd h hi
        · exact fun _ _ _ => ⟨rfl, rfl⟩
        · exact fun _ _ h => absurd h hw
        · exact fun n _ h => by simp [h] at hr

end Sys2Proof.Proofs
end

section
/-! PROOFS. Breaks and the end of a run (O50). -/

namespace Sys2Proof.Proofs

open Sys2Proof Sys2Proof.Machine Sys2Proof.Claims Sys2Proof.Laws

/-! ## Raising a cause leaves the plans (06 R154) -/

theorem addBusy_plans (s : State) (c : Fin 192) : (s.addBusy c).plans = s.plans := by
  unfold State.addBusy
  split <;> rfl

theorem addBusyHall_plans (s : State) (h : Nat) : (s.addBusyHall h).plans = s.plans :=
  List.foldlRecOn (motive := fun t : State => t.plans = s.plans) _ _ rfl fun _ hb a _ => (addBusy_plans _ a).trans hb

theorem recWake_plans (s : State) (va grid : Nat) : (s.recWake va grid).plans = s.plans := by
  unfold State.recWake
  split
  · rfl
  · dsimp only
    split
    · exact addBusyHall_plans ..
    · unfold State.addBusyNat
      split
      · exact addBusy_plans ..
      · rfl

theorem raiseRec_plans (s : State) (va grid cause info : Nat) : (s.raiseRec va grid cause info).plans = s.plans := by
  unfold State.raiseRec
  split
  · rfl
  · split
    · refine (addBusy_plans ..).trans ?_
      unfold State.raiseAt
      dsimp only
      split <;> rfl
    · dsimp only
      split
      · exact recWake_plans ..
      · rfl

theorem planRaise_plans (s : State) (p : Plan) (cause info : Nat) : (s.planRaise p cause info).plans = s.plans := by
  unfold State.planRaise
  split
  · exact raiseRec_plans ..
  · rfl

/-! ## A break (07 R184, R189) -/

/-- The rows that a break saw of the node before it. -/
def rowsSeen (p : Plan) : Nat := ((p.done.find? fun d => d.1 == p.nextNode - 1).map fun d => rowsOf d.2.dims).getD 0

/-- The plan with those rows recorded. -/
def planNoted (p : Plan) : Plan :=
  { p with current := p.current.zipIdx.map fun c => if c.2 = p.nextNode - 1 then { c.1 with nobs := rowsSeen p } else c.1 }

theorem noted_current {p : Plan} {i : Nat} {c : Choice} (h : p.current[i]? = some c) :
    (planNoted p).current[i]? = some (if i = p.nextNode - 1 then { c with nobs := rowsSeen p } else c) := by
  simp [planNoted, List.getElem?_zipIdx, h]

section
variable {s : State} {p : Plan} (hp : s.planOf s.arg.id = some p) (hst : p.st = .running) (hk : p.pkt = none)
include hp

/-- The state in which they are recorded. -/
def breakNoted (s : State) (p : Plan) : State := s.modPlan p.id fun q =>
  { q with current := q.current.zipIdx.map fun c => if c.2 = p.nextNode - 1 then { c.1 with nobs := rowsSeen p } else c.1 }

theorem planOf_breakNoted : (breakNoted s p).planOf p.id = some (planNoted p) := by
  rw [← planOf_id hp] at hp
  exact planOf_modPlan hp fun _ => rfl

include hst

theorem exec_planBreak (hn : p.nextNode ≠ 0) (hf : s.arg.flag = false) (hd : s.power.d3hot = false) : exec .planBreak s =
    if p.invalidated then .next ((breakNoted s p).planStop (planNoted p))
    else .next (State.planAdvance (State.showPlan
      (if p.replanNext || (!p.pinned && replanRule p.e ((((planNoted p).current[p.nextNode - 1]?).map (·.nest)).getD 0) (rowsSeen p)) then
        (breakNoted s p).replan (planNoted p) (p.nextNode - 1) else breakNoted s p) p.id) p.id) := by
  have hq := planOf_breakNoted hp
  unfold breakNoted rowsSeen at hq ⊢
  show execPlanBreak s = _
  unfold execPlanBreak
  simp only [hp, hf, hst, hd, hn, hq, bne_self_eq_false, beq_iff_eq, Bool.false_or, Bool.false_eq_true, if_false]
  rfl

include hk

theorem planBreak_stops (hn : p.nextNode ≠ 0) (hf : s.arg.flag = false) (hd : s.power.d3hot = false) (hi : p.invalidated = true) :
    ∃ t q, exec .planBreak s = .next t ∧ t.planOf p.id = some q ∧ q.st = .invalid ∧ q.code = 2 ∧ q.resume = some p.nextNode := by
  refine ⟨(breakNoted s p).planStop (planNoted p),
    { planNoted p with st := .invalid, code := 2, resume := some p.nextNode, invalidated := false },
    by rw [exec_planBreak hp hst hn hf hd, if_pos hi], ?_, rfl, rfl, rfl⟩
  have hk' : (planNoted p).pkt.isSome = false := by simp [planNoted, hk]
  unfold State.planStop
  dsimp only
  rw [hk']
  exact (planOf_congr ((planTell_plans ..).trans (planRaise_plans ..)) p.id).trans (planOf_setPlan (planOf_breakNoted hp) fun _ => rfl)

omit hk in
theorem planBreak_goesOn (hn : p.nextNode ≠ 0) (hf : s.arg.flag = false) (hd : s.power.d3hot = false) (hi : p.invalidated = false)
    (hr : p.replanNext = false) (he : p.e = 0) :
    ∃ t job, exec .planBreak s = .next t ∧ t.planOf p.id = some { planNoted p with job := job } := by
  obtain ⟨-, hq⟩ := planAdvance_stands ((breakNoted s p).showPlan p.id) p.id
  obtain ⟨job, hq⟩ := hq (planNoted p) ((planOf_congr (plansStand_showPlan ..).plans p.id).trans (planOf_breakNoted hp))
  refine ⟨_, job, ?_, hq⟩
  rw [exec_planBreak hp hst hn hf hd]
  simp [hi, hr, he, replanRule]

/-- A run that is complete leaves its handle DONE, or INVALID where an invalidation is pending. -/
theorem planComplete_effect : ∃ t q, exec .planComplete s = .next t ∧ t.planOf p.id = some q ∧
    q.st = (if p.invalidated then .invalid else .done) ∧ q.code = (if p.invalidated then 1 else 0) := by
  have hid := planOf_id hp
  have hu : (s.planStats p).releaseAll.planOf p.id = some p :=
    (planOf_congr ((plansStand_planStats s p).trans (plansStand_releaseAll _)).plans p.id).trans (hid ▸ hp)
  refine ⟨_, _, ?_, (planOf_congr (planTell_plans _ p) p.id).trans (planOf_setPlan hu (f := fun q =>
    if q.invalidated then { q with st := .invalid, code := 1, invalidated := false, resume := none } else { q with st := .done, code := 0 })
    fun q => by split <;> rfl), ?_, ?_⟩
  · show execPlanComplete s = _
    unfold execPlanComplete
    simp only [hp, hst, hk, bne_self_eq_false, Bool.false_eq_true, if_false, Option.isSome_none]
  · split <;> rfl
  · split <;> rfl
end

end Sys2Proof.Proofs
end

section
/-! PROOFS. A planned job, the end of a matrix command, and O50 from its parts. -/

namespace Sys2Proof.Proofs

open Sys2Proof Sys2Proof.Machine Sys2Proof.Claims Sys2Proof.Laws

/-! ## The job of a plan's node (07 R192) -/

/-- A job that runs ends with the status. -/
theorem endJob_ended {s : State} {j : Job} (h : s.jobOf j.id = some j) (hr : j.state = .running) (status : Nat) :
    ended (s.endJob j.id status) j status := by
  unfold State.endJob
  rw [h]
  dsimp only
  rw [hr]
  refine ⟨_, jobOf_modJob h fun _ => rfl, rfl, rfl, ?_⟩
  simp

/-- The end of a job leaves plans and memory. -/
theorem endJob_stands (s : State) (id status : Nat) : (s.endJob id status).plans = s.plans ∧ (s.endJob id status).mem = s.mem := by
  unfold State.endJob
  split
  · exact ⟨rfl, rfl⟩
  · split <;> exact ⟨rfl, rfl⟩

/-- To give back a job's leave touches that job's grant and its die alone. -/
theorem jobLeaveDone_eq (s : State) (j : Job) : ∃ ds ag, s.jobLeaveDone j =
    { s.modJob j.id fun k => { k with grant := none } with dies := ds, agenda := ag } := by
  unfold State.jobLeaveDone State.leaveForget
  split
  · exact ⟨_, _, rfl⟩
  · exact ⟨s.dies, s.agenda, rfl⟩

theorem jobLeaveDone_ended {s : State} {j : Job} (h : s.jobOf j.id = some j) (hr : j.state = .running) (status : Nat) :
    ended ((s.jobLeaveDone j).endJob j.id status) j status := by
  obtain ⟨ds, ag, he⟩ := jobLeaveDone_eq s j
  have hk : (s.jobLeaveDone j).jobOf j.id = some { j with grant := none } := by
    rw [he]
    exact jobOf_modJob h fun _ => rfl
  exact endJob_ended (j := { j with grant := none }) hk hr status

theorem jobLeaveDone_stands (s : State) (j : Job) : (s.jobLeaveDone j).plans = s.plans ∧ (s.jobLeaveDone j).mem = s.mem := by
  obtain ⟨ds, ag, he⟩ := jobLeaveDone_eq s j
  rw [he]
  exact ⟨rfl, rfl⟩

/-- The substitutions of a plan's job count for a context, if for anything. -/
theorem substJob_stands {s : State} {j : Job} {id : Nat} (hj : j.owner = .plan id) (n : Nat) :
    (s.substJob j n).jobs = s.jobs ∧ (s.substJob j n).plans = s.plans ∧ (s.substJob j n).mem = s.mem := by
  unfold State.substJob
  split
  · exact ⟨rfl, rfl, rfl⟩
  · rw [hj]
    split
    · unfold State.addSubst
      split <;> exact ⟨rfl, rfl, rfl⟩
    · next h => cases h
    · exact ⟨rfl, rfl, rfl⟩

section
variable {s : State} {j : Job} {id : Nat} (hj : s.jobOf s.arg.id = some j) (ho : j.owner = .plan id) (hr : j.state = .running)
include hj ho

theorem plannedMatrixWork_noPlan (hr : j.state = .running) (hp : s.planOf id = none) :
    exec .plannedMatrixWork s = .next (s.endJob j.id 10) ∧ ended (s.endJob j.id 10) j 10 := by
  refine ⟨?_, endJob_ended (jobOf_id hj ▸ hj) hr 10⟩
  show execPlannedMatrixWork s = _
  unfold execPlannedMatrixWork
  simp only [hj, ho, hp]
  rfl

theorem plannedMatrixWork_stopped {p : Plan} (hp : s.planOf id = some p) (hd : s.power.d3hot = true) :
    exec .plannedMatrixWork s = .next s := by
  show execPlannedMatrixWork s = _
  unfold execPlannedMatrixWork
  simp only [hj, ho, hp, hd, Bool.or_true, if_true]

include hr

/-- What the job of a node that is no CONTRACT does once its grid has a resident team. -/
theorem exec_plannedMatrixWork {p : Plan} (hp : s.planOf id = some p) (hd : s.power.d3hot = false)
    (ht : (s.teams.any fun t => t.grid == p.grid.getD 0 && t.core.isSome) = true)
    (hc : ((p.nodes[p.nextNode]?).any fun x => nOp x == 1) = false) : exec .plannedMatrixWork s = match s.planNode p p.nextNode with
      | .error x => .next ((s.jobLeaveDone j).endJob j.id (troubleStatus x))
      | .ok (n, u) => .next (((u.substJob j n).jobLeaveDone j).endJob j.id 0) := by
  show execPlannedMatrixWork s = _
  unfold execPlannedMatrixWork
  simp only [hj, ho, hp, hd, hr, ht, hc, bne_self_eq_false, Bool.or_false, Bool.false_eq_true, Bool.not_true, Bool.not_false,
    if_false, if_true] <;> rfl

theorem plannedMatrixWork_ends {p : Plan} (hp : s.planOf id = some p) (hd : s.power.d3hot = false)
    (ht : (s.teams.any fun t => t.grid == p.grid.getD 0 && t.core.isSome) = true)
    (hc : ((p.nodes[p.nextNode]?).any fun x => nOp x == 1) = false) :
    (∀ n u, s.planNode p p.nextNode = .ok (n, u) → ∃ t, exec .plannedMatrixWork s = .next t ∧ ended t j 0 ∧ t.plans = u.plans ∧
      t.mem.bytes = u.mem.bytes) ∧
    ∀ x, s.planNode p p.nextNode = .error x → ∃ t, exec .plannedMatrixWork s = .next t ∧ ended t j (troubleStatus x) := by
  have he := exec_plannedMatrixWork hj ho hr hp hd ht hc
  have hjid : s.jobOf j.id = some j := jobOf_id hj ▸ hj
  refine ⟨fun n u hn => ?_, fun x hx => ?_⟩
  · rw [hn] at he
    obtain ⟨hsj, hsp, hsm⟩ := substJob_stands (s := u) ho n
    obtain ⟨hlp, hlm⟩ := jobLeaveDone_stands (u.substJob j n) j
    obtain ⟨hep, hem⟩ := endJob_stands ((u.substJob j n).jobLeaveDone j) j.id 0
    have hu : (u.substJob j n).jobOf j.id = some j := (jobOf_congr (hsj.trans (jobs_planNode hn)) j.id).trans hjid
    exact ⟨_, he, jobLeaveDone_ended hu hr 0, hep.trans (hlp.trans hsp), congrArg MemSys.bytes (hem.trans (hlm.trans hsm))⟩
  · rw [hx] at he
    exact ⟨_, he, jobLeaveDone_ended hjid hr _⟩
end

/-! ## The end of a matrix command (16 R369, R370) -/

/-- A wait performs nothing. -/
theorem runCmd_mWait {q : MatCmd} {ws : Bool} {d : Opnd} (h : q.op = .mWait ws d) (s : State) :
    s.runCmd q = { MRun.of s with bits := 0 ||| q.bits, known := q.routes } := by
  unfold State.runCmd MRun.perform
  rw [h]
  rfl

/-- The end of `m.wait`: the status bits start anew, and the result has its word. -/
theorem finishCmd_mWait {q : MatCmd} {ws : Bool} {d : Opnd} {id : Nat} (h : q.op = .mWait ws d) (hg : q.grant = none)
    (hr : q.result = some id) (s : State) (mismatch : Bool) : ∃ v, s.finishCmd q mismatch =
      (s.modCtx fun c => { c with mstat := 0 }).deliver s.curCore s.curCtx id v := by
  have hp : q.isProduct = false := by simp [MatCmd.isProduct, h]
  have hrun : (if mismatch then (s.runCmd q).residue q else s.runCmd q) = s.runCmd q := by
    split
    · simp [MRun.residue, hp]
    · rfl
  unfold State.finishCmd
  rw [hrun, runCmd_mWait h, hg, hr, h]
  exact ⟨_, rfl⟩

/-- Asking for busy lines announces requests and nothing else. -/
theorem askSegs_eq (s : State) (write : Bool) (die : Fin 4) (hall : Fin 48) (segs : List Seg) :
    ∃ ag, s.askSegs write die hall segs = { s with agenda := ag } := by
  have hline (t : State) (kind : Instr) (line : Nat) : ∃ ag, t.askLine kind die hall line = { t with agenda := ag } := by
    unfold State.askLine
    dsimp only
    split <;> exact ⟨_, rfl⟩
  have hfold {α : Type} {f : State → α → State} (hf : ∀ t a, ∃ ag, f t a = { t with agenda := ag }) (l : List α) (t : State) :
      ∃ ag, l.foldl f t = { t with agenda := ag } := by
    induction l generalizing t with
    | nil => exact ⟨t.agenda, rfl⟩
    | cons a l ih =>
      obtain ⟨ag, ha⟩ := hf t a
      rw [List.foldl_cons, ha]
      exact ih _
  refine hfold (fun t g => ?_) segs s
  split
  · exact ⟨t.agenda, rfl⟩
  · refine hfold (fun u c => ?_) _ t
    split
    · exact hline ..
    · exact ⟨u.agenda, rfl⟩

theorem coreAt_modCtxAt_self (s : State) (c : Fin 192) (x : Fin 4) (f : Ctx → Ctx) :
    (s.modCtxAt c x f).coreAt c = (s.coreAt c).modCtx x f := coreAt_modCoreAt_self ..

section
variable {s : State} {q : MatCmd} {rest : List MatCmd} (hq : (s.coreAt s.arg.core).engine.queue = q :: rest)
include hq

theorem matrixCommandComplete_frozen (hf : s.frozen s.arg.core = true) : exec .matrixCommandComplete s = .next s := by
  show execMatrixCommandComplete s = _
  unfold execMatrixCommandComplete
  simp only [hq, hf, if_true]

/-- A command that what it needs keeps waiting looks again later. -/
theorem matrixCommandComplete_held {at_ : Nat} (hf : s.frozen s.arg.core = false) (hh : s.cmdHeld s.arg.core q = some at_) :
    ∃ t, exec .matrixCommandComplete s = .next t ∧ (t.coreAt s.arg.core).engine = (s.coreAt s.arg.core).engine ∧
      t.mem.bytes = s.mem.bytes ∧ (s.now + (at_ - s.now), Instr.matrixCommandComplete, s.arg) ∈ t.timers := by
  obtain ⟨ag, ha⟩ := askSegs_eq s (q.uses.any (·.write)) (dieOf s.arg.core) (hallOf s.arg.core) q.segs
  refine ⟨State.timer { s with agenda := ag } (at_ - s.now) .matrixCommandComplete s.arg, ?_, rfl, rfl, by simp⟩
  show execMatrixCommandComplete s = _
  unfold execMatrixCommandComplete
  simp only [hq, hf, hh, ha, Bool.false_eq_true, if_false]

/-- What `m.wait` leaves behind: the queue without it, and its result delivered. -/
def waitDone (s : State) (q : MatCmd) (rest : List MatCmd) (id : Nat) (v : VReg) : State :=
  (((s.at_ s.arg.core q.ctx).modCtx fun c => { c with mstat := 0 }).deliver s.arg.core q.ctx id v).modCore fun k =>
    { k with engine := { k.engine with queue := rest, stale := k.engine.stale - 1 } }

omit hq in
/-- The core: the context's bits and result, and the queue. -/
theorem waitDone_coreAt (id : Nat) (v : VReg) : (waitDone s q rest id v).coreAt s.arg.core =
    { ((s.coreAt s.arg.core).modCtx q.ctx fun c => { c with mstat := 0 }).modCtx q.ctx fun c =>
        { c with long := modFirst (fun r => r.id == id) (fun r => { r with data := some v }) c.long } with
      engine := { (s.coreAt s.arg.core).engine with queue := rest, stale := (s.coreAt s.arg.core).engine.stale - 1 } } := by
  have h1 : ((s.at_ s.arg.core q.ctx).modCtx fun c => { c with mstat := 0 }).coreAt s.arg.core =
      (s.coreAt s.arg.core).modCtx q.ctx fun c => { c with mstat := 0 } :=
    coreAt_modCtxAt_self (s.at_ s.arg.core q.ctx) s.arg.core q.ctx _
  have h2 : (((s.at_ s.arg.core q.ctx).modCtx fun c => { c with mstat := 0 }).deliver s.arg.core q.ctx id v).coreAt s.arg.core =
      (((s.at_ s.arg.core q.ctx).modCtx fun c => { c with mstat := 0 }).coreAt s.arg.core).modCtx q.ctx fun c =>
        { c with long := modFirst (fun r => r.id == id) (fun r => { r with data := some v }) c.long } :=
    coreAt_modCtxAt_self ((s.at_ s.arg.core q.ctx).modCtx fun c => { c with mstat := 0 }) s.arg.core q.ctx _
  rw [h1] at h2
  have h3 := coreAt_modCoreAt_self (((s.at_ s.arg.core q.ctx).modCtx fun c => { c with mstat := 0 }).deliver s.arg.core q.ctx id v)
    s.arg.core fun k => { k with engine := { k.engine with queue := rest, stale := k.engine.stale - 1 } }
  rw [h2] at h3
  exact h3

omit hq in
theorem waitDone_ctxAt (id : Nat) (v : VReg) : (waitDone s q rest id v).ctxAt s.arg.core q.ctx =
    { s.ctxAt s.arg.core q.ctx with
      mstat := 0
      long := modFirst (fun r => r.id == id) (fun r => { r with data := some v }) (s.ctxAt s.arg.core q.ctx).long } := by
  have h : ((waitDone s q rest id v).coreAt s.arg.core).ctx q.ctx =
      (((s.coreAt s.arg.core).modCtx q.ctx fun c => { c with mstat := 0 }).modCtx q.ctx fun c =>
        { c with long := modFirst (fun r => r.id == id) (fun r => { r with data := some v }) c.long }).ctx q.ctx := by
    rw [waitDone_coreAt]
    rfl
  rw [core_ctx_modCtx_self, core_ctx_modCtx_self] at h
  exact h

theorem exec_matrixCommandComplete_mWait {ws : Bool} {d : Opnd} {id : Nat} (hf : s.frozen s.arg.core = false)
    (hh : s.cmdHeld s.arg.core q = none) (hl : (s.ctxAt s.arg.core q.ctx).leaving = none) (hk : s.ctxKilled s.arg.core q.ctx = false)
    (hg : q.grant = none) (ho : q.op = .mWait ws d) (hr : q.result = some id) :
    ∃ v, exec .matrixCommandComplete s =
      .next (((waitDone s q rest id v).addBusy s.arg.core).at_ s.curCore s.curCtx) := by
  obtain ⟨v, hv⟩ := finishCmd_mWait ho hg hr (s.at_ s.arg.core q.ctx) s.arg.flag
  have hlv : (waitDone s q rest id v).settleLeaving s.arg.core q.ctx = waitDone s q rest id v := by
    unfold State.settleLeaving
    rw [waitDone_ctxAt]
    dsimp only
    rw [hl]
  have hkv : (waitDone s q rest id v).settleKilled s.arg.core q.ctx = waitDone s q rest id v := by
    have : (waitDone s q rest id v).ctxKilled s.arg.core q.ctx = false := hk
    unfold State.settleKilled
    rw [this]
    split <;> rfl
  refine ⟨v, ?_⟩
  show execMatrixCommandComplete s = _
  unfold execMatrixCommandComplete
  simp only [hq, hf, hh, Bool.false_eq_true, if_false]
  rw [hv]
  show Host.Outcome.next ((State.addBusy (((waitDone s q rest id v).settleLeaving _ _).settleKilled _ _) _).at_ _ _) = _
  rw [hlv, hkv]

theorem matrixCommandComplete_mWait {ws : Bool} {d : Opnd} {id : Nat} {l : LongResult} (hf : s.frozen s.arg.core = false)
    (hh : s.cmdHeld s.arg.core q = none) (hl : (s.ctxAt s.arg.core q.ctx).leaving = none) (hk : s.ctxKilled s.arg.core q.ctx = false)
    (hg : q.grant = none) (ho : q.op = .mWait ws d) (hr : q.result = some id)
    (hlong : (s.ctxAt s.arg.core q.ctx).long.find? (fun l => l.id == id) = some l) :
    ∃ t v, exec .matrixCommandComplete s = .next t ∧ (t.coreAt s.arg.core).engine.queue = rest ∧ (t.ctxAt s.arg.core q.ctx).mstat = 0 ∧
      t.mem = s.mem ∧ (t.coreAt s.arg.core).tiles = (s.coreAt s.arg.core).tiles ∧
      (t.ctxAt s.arg.core q.ctx).long.find? (fun l => l.id == id) = some { l with data := some v } ∧
      (Instr.interlockArrival, ({ core := s.arg.core, ctx := q.ctx, id := id } : EvArgs)) ∈ t.agenda := by
  obtain ⟨v, hv⟩ := exec_matrixCommandComplete_mWait hq hf hh hl hk hg ho hr
  obtain ⟨b, hb⟩ := addBusy_eq (waitDone s q rest id v) s.arg.core
  rw [hb] at hv
  have hcore := waitDone_coreAt (s := s) (q := q) (rest := rest) id v
  have hctx := waitDone_ctxAt (s := s) (q := q) (rest := rest) id v
  refine ⟨_, v, hv, congrArg (·.engine.queue) hcore, congrArg (·.mstat) hctx, rfl, congrArg (·.tiles) hcore, ?_, ?_⟩
  · have hfind := find?_modFirst (p := fun r : LongResult => r.id == id) (f := fun r : LongResult => { r with data := some v })
      (fun _ => rfl) (s.ctxAt s.arg.core q.ctx).long
    rw [hlong] at hfind
    exact (congrArg (fun c : Ctx => c.long.find? fun l => l.id == id) hctx).trans hfind
  · exact List.mem_append_right _ (List.mem_singleton.mpr rfl)
end

/-- Settles O50: the ends of a planning by what the plan waits for, the break and the end of a run by the pending invalidation, the plan's
job by what its node's computation answers, and the command by what holds it. -/
theorem planAndMatrixEvents : Obligations.PlanAndMatrixEvents := by
  refine ⟨fun s id rest p hd hp hk => ?_, fun s p hp hst hk => ⟨fun hn hf hd => ⟨fun hi => ?_, fun hi hr he d _ hfind => ?_⟩, ?_⟩,
    fun s j id hj ho hr => ⟨fun hp => ?_, fun p hp hd => ?_, fun p hp hd ht hc => ?_⟩,
    fun s q rest ws d id l => ?_⟩
  · obtain ⟨t, q, he, hs, hq, hres, hinv, hready, hrun, hresume⟩ := planningEnd_effect hd hp hk
    obtain ⟨hrest, hlong⟩ := planningEnd_delivers hd hs
    exact ⟨t, q, he, hrest, hq, hres, hinv, hready, hrun, hresume, hlong⟩
  · exact planBreak_stops hp hst hk hn hf hd hi
  · obtain ⟨t, job, he, hq⟩ := planBreak_goesOn hp hst hn hf hd hi hr he
    refine ⟨t, _, he, hq, hst, rfl, fun i c hc => ?_⟩
    have hrows : rowsSeen p = rowsOf d.2.dims := by simp [rowsSeen, hfind]
    exact hrows ▸ noted_current hc
  · exact planComplete_effect hp hst hk
  · exact ⟨_, plannedMatrixWork_noPlan hj ho hr hp⟩
  · exact plannedMatrixWork_stopped hj ho hp hd
  · exact plannedMatrixWork_ends hj ho hr hp hd ht hc
  · intro c hq
    exact ⟨matrixCommandComplete_frozen hq, fun _ => matrixCommandComplete_held hq, fun hf hh hl hk hg ho hr hlong =>
      matrixCommandComplete_mWait hq hf hh hl hk hg ho hr hlong⟩

end Sys2Proof.Proofs
end

section
/-! SUPPORT. Reads that are no thread's, and the load of a segment into a bank (12 R301, R306). -/

namespace Sys2Proof.Proofs

open Sys2Proof Sys2Proof.Machine Sys2Proof.Claims Sys2Proof.Laws

/-! ## Reads of memory that are no thread's -/

/-- A read: the bytes of memory, the threads' contexts and the banks' tables of them stand. -/
structure ReadsOnly (s t : State) : Prop where
  bytes : t.mem.bytes = s.mem.bytes
  plans : PlansStand s t
  contexts : ContextsStand s t

theorem ReadsOnly.refl (s : State) : ReadsOnly s s := ⟨rfl, .refl s, .refl s⟩

theorem ReadsOnly.trans {s t u : State} (h : ReadsOnly s t) (h' : ReadsOnly t u) : ReadsOnly s u :=
  ⟨h'.bytes.trans h.bytes, h.plans.trans h'.plans, h.contexts.trans h'.contexts⟩

theorem readsOnly_foldl {α : Type} {f : State → α → State} (h : ∀ s a, ReadsOnly s (f s a)) (l : List α) (s : State) :
    ReadsOnly s (l.foldl f s) :=
  List.foldlRecOn l f (ReadsOnly.refl s) fun _ hb a _ => hb.trans (h _ a)

theorem readsOnly_foldl_snd {α β : Type} {f : β × State → α → β × State} (h : ∀ p a, ReadsOnly p.2 (f p a).2) (l : List α)
    (p : β × State) : ReadsOnly p.2 (l.foldl f p).2 :=
  List.foldlRecOn (motive := fun q => ReadsOnly p.2 q.2) l f (ReadsOnly.refl p.2) fun _ hb a _ => hb.trans (h _ a)

theorem report_mem (s : State) (cls src fn die agent step : Nat) : (s.report cls src fn die agent step).mem = s.mem := by
  unfold State.report
  dsimp only
  split <;> rfl

theorem countGran_bytes (s : State) (g dpa : Nat) : (s.countGran g dpa).mem.bytes = s.mem.bytes := by
  unfold State.countGran State.reportPf
  split
  · rfl
  · rfl
  · exact (congrArg MemSys.bytes (report_mem ..)).trans (modStack_bytes ..)
  · exact (congrArg MemSys.bytes (report_mem ..)).trans (modStack_bytes ..)
  · exact modStack_bytes ..
  · exact modStack_bytes ..

theorem readsOnly_fetch (s : State) (g line : Nat) (v : BitVec 4) : ReadsOnly s (s.fetch g line v).2 :=
  readsOnly_foldl (fun t a => ⟨countGran_bytes t g a, plansStand_countGran t g a, contextsStand_countGran t g a⟩) _ s

theorem readsOnly_engRead (s : State) (die : Nat) (segs : List Seg) : ReadsOnly s (s.engRead die segs).2 := by
  refine readsOnly_foldl_snd (fun p g => ?_) segs (Got.empty, s)
  refine readsOnly_foldl_snd (fun q c => ?_) _ p
  dsimp only
  split <;> exact readsOnly_fetch ..

/-! ## The expansion of a segment (12 R301) -/

theorem readsOnly_imageRead (s : State) (who : Who) (va n : Nat) : ReadsOnly s (s.imageRead who va n).2 := by
  unfold State.imageRead
  split
  · exact .refl s
  · exact readsOnly_engRead ..

theorem readsOnly_image (s : State) (who : Who) (table : Nat) : ReadsOnly s (s.image who table).2 := readsOnly_imageRead ..

theorem readsOnly_segEntry (s : State) (who : Who) (table nseg seg : Nat) : ReadsOnly s (s.segEntry who table nseg seg).2 := by
  unfold State.segEntry
  split
  · exact .refl s
  · exact readsOnly_imageRead ..

theorem readsOnly_relocValue (s : State) (who : Who) (img : Image) (vix : Nat) : ReadsOnly s (s.relocValue who img vix).2 := by
  unfold State.relocValue
  split
  · exact .refl s
  · exact readsOnly_imageRead ..

theorem readsOnly_relocAll (s : State) (who : Who) (img : Image) (nb : Nat) (l : List Nat) (bundles : List Block) :
    ReadsOnly s (s.relocAll who img nb l bundles).s := by
  refine List.foldlRecOn (motive := fun acc : Relocated => ReadsOnly s acc.s) _ _ (.refl s) fun acc hacc p _ => ?_
  split
  · exact hacc
  · have hv := hacc.trans (readsOnly_relocValue acc.s who img (bitsN p.1 24 16))
    dsimp only
    split <;> exact hv

/-- What the load of a segment into a bank leaves: the bytes of memory, the records, the context at issue, and of every context all but its
mark. -/
structure LoadsBank (s t : State) : Prop where
  bytes : t.mem.bytes = s.mem.bytes
  recs : t.recs = s.recs
  issue : t.curCore = s.curCore ∧ t.curCtx = s.curCtx
  contexts : ∀ c x, ∃ m, t.ctxAt c x = { s.ctxAt c x with mark := m }

theorem LoadsBank.refl (s : State) : LoadsBank s s := ⟨rfl, rfl, ⟨rfl, rfl⟩, fun c x => ⟨(s.ctxAt c x).mark, rfl⟩⟩

theorem LoadsBank.trans {s t u : State} (h : LoadsBank s t) (h' : LoadsBank t u) : LoadsBank s u where
  bytes := h'.bytes.trans h.bytes
  recs := h'.recs.trans h.recs
  issue := ⟨h'.issue.1.trans h.issue.1, h'.issue.2.trans h.issue.2⟩
  contexts := fun c x => by
    obtain ⟨m, hm⟩ := h.contexts c x
    obtain ⟨n, hn⟩ := h'.contexts c x
    exact ⟨n, by rw [hn, hm]⟩

theorem ReadsOnly.loadsBank {s t : State} (h : ReadsOnly s t) : LoadsBank s t :=
  ⟨h.bytes, h.plans.recs, h.plans.issue, fun c x => ⟨(s.ctxAt c x).mark, h.contexts.ctxAt c x⟩⟩

/-- An update of a core that leaves its contexts. -/
theorem loadsBank_modCoreAt (s : State) (c : Fin 192) {f : Core → Core} (hf : ∀ k, (f k).ctxs = k.ctxs) :
    LoadsBank s (s.modCoreAt c f) := by
  refine ⟨rfl, rfl, ⟨rfl, rfl⟩, fun d y => ⟨(s.ctxAt d y).mark, ?_⟩⟩
  have hd : ((s.modCoreAt c f).coreAt d).ctxs = (s.coreAt d).ctxs := by
    by_cases h : d = c
    · subst h
      rw [coreAt_modCoreAt_self, hf]
    · rw [coreAt_modCoreAt_ne s c d f h]
  exact congrArg (fun v : Vector Ctx 4 => v.get y) hd

theorem loadsBank_modBank (s : State) (c : Fin 192) (b : Fin 2) (f : Bank → Bank) : LoadsBank s (s.modBank c b f) :=
  loadsBank_modCoreAt s c fun _ => rfl

theorem loadsBank_unmark (s : State) (c : Fin 192) (x : Fin 4) (p : Ctx → Bool) :
    LoadsBank s (s.modCtxAt c x fun k => if p k then { k with mark := none } else k) := by
  refine ⟨rfl, rfl, ⟨rfl, rfl⟩, fun d y => ?_⟩
  by_cases h : d = c ∧ y = x
  · obtain ⟨rfl, rfl⟩ := h
    rw [ctxAt_modCtxAt_self]
    split
    · exact ⟨none, rfl⟩
    · exact ⟨_, rfl⟩
  · rw [ctxAt_modCtxAt_ne (h := not_and_or.mp h)]
    exact ⟨_, rfl⟩

theorem loadsBank_claimBank (s : State) (c : Fin 192) (b : Fin 2) (dctx table seg : Nat) :
    LoadsBank s (s.claimBank c b dctx table seg) := by
  unfold State.claimBank
  refine LoadsBank.trans ?_ (loadsBank_modBank ..)
  exact List.foldlRecOn _ _ (LoadsBank.refl s) fun _ hb x _ => hb.trans (loadsBank_unmark ..)

theorem loadsBank_bankFails {s t : State} (h : LoadsBank s t) (c : Fin 192) (b : Fin 2) (loaded : Bool) (x : SealCode × Nat × Nat) :
    LoadsBank s (t.bankFails c b loaded x) := h.trans (loadsBank_modBank ..)

/-- The expansion reads the table, the entry and the stream one after the other, and writes its findings to the bank. -/
theorem loadsBank_expand (s : State) (who : Who) (c : Fin 192) (b : Fin 2) (table seg : Nat) :
    LoadsBank s (s.expand who c b table seg) := by
  unfold State.expand
  have h1 := (loadsBank_claimBank s c b who.dctx table seg).trans (readsOnly_image (s.claimBank c b who.dctx table seg) who table).loadsBank
  dsimp only
  split
  case h_1 s1 hx =>
    rw [hx] at h1
    exact loadsBank_bankFails h1 ..
  case h_2 img s1 hx =>
    rw [hx] at h1
    have h2 := h1.trans (readsOnly_segEntry s1 who table img.nseg seg).loadsBank
    split
    case h_1 s2 hy =>
      rw [hy] at h2
      exact loadsBank_bankFails h2 ..
    case h_2 e s2 hy =>
      rw [hy] at h2
      split
      · exact loadsBank_bankFails h2 ..
      · have h3 := (h2.trans (loadsBank_modBank s2 c b fun k =>
          { k with loaded := true, nb := e.nb, nh := e.nh, next := e.next, nseg := img.nseg })).trans
            (readsOnly_imageRead _ who e.sva e.slen).loadsBank
        split
        · exact loadsBank_bankFails h3 ..
        · next y _ =>
          have h4 := h3.trans (readsOnly_relocAll _ who img e.nb y.relocs y.bundles).loadsBank
          split
          · refine loadsBank_bankFails (h4.trans ?_) ..
            exact loadsBank_modCoreAt _ _ fun _ => rfl
          · exact h4.trans (loadsBank_modCoreAt _ _ fun _ => rfl)

theorem loadsBank_post {s t : State} (h : LoadsBank s t) (e : Instr) (a : EvArgs) : LoadsBank s (t.post e a) :=
  ⟨h.bytes, h.recs, h.issue, h.contexts⟩

theorem loadsBank_startLoad (s : State) (c : Fin 192) (b : Fin 2) (g seg : Nat) (why : LoadFor) :
    LoadsBank s (s.startLoad c b g seg why) := by
  unfold State.startLoad
  split
  · exact .refl s
  · exact loadsBank_post ((loadsBank_expand ..).trans (loadsBank_modBank ..)) ..

theorem loadsBank_queueLoad (s : State) (c : Fin 192) (b : Fin 2) (g seg : Nat) (why : LoadFor) :
    LoadsBank s (s.queueLoad c b g seg why) := by
  unfold State.queueLoad
  split
  · exact loadsBank_modBank ..
  · exact loadsBank_startLoad ..

theorem bank_modBank_self (s : State) (c : Fin 192) (b : Fin 2) (f : Bank → Bank) :
    ((s.modBank c b f).coreAt c).banks.get b = f (((s.coreAt c).banks).get b) := by
  unfold State.modBank
  rw [coreAt_modCoreAt_self]
  exact vget_set_self _ _ _ b.isLt

/-- An idle bank takes the load at once, a busy one behind those that wait. -/
theorem queueLoad_bank {s : State} {g : Grid} {grid : Nat} (hg : s.gridOf grid = some g) (c : Fin 192) (b : Fin 2)
    (seg : Nat) (why : LoadFor) :
    (((s.coreAt c).banks.get b).loading = none → (((s.queueLoad c b grid seg why).coreAt c).banks.get b).loading = some why) ∧
    (((s.coreAt c).banks.get b).loading ≠ none →
      (((s.queueLoad c b grid seg why).coreAt c).banks.get b).queue = ((s.coreAt c).banks.get b).queue ++ [(grid, seg, why)]) := by
  unfold State.queueLoad
  refine ⟨fun h => ?_, fun h => ?_⟩
  · rw [h, if_neg (by simp)]
    unfold State.startLoad
    rw [hg]
    exact congrArg (·.loading) (bank_modBank_self (s.expand (s.whoOfGrid grid) c b g.img seg) c b fun k => { k with loading := some why })
  · rw [if_pos (Option.isSome_iff_ne_none.mpr h)]
    exact congrArg (·.queue) (bank_modBank_self s c b fun k => { k with queue := k.queue ++ [(grid, seg, why)] })

/-! ## An OB bundle (12 R306) -/

theorem overlay_false (s : State) : s.overlay false = s := rfl

/-- The bank's list of the threads that wait for its load, with the thread at issue. -/
def overlayNoted (s t : State) : State :=
  t.modBank t.curCore t.otherBank fun k => { k with
    watch := if k.watch.contains ((s.curRec.map (·.va)).getD 0, t.curGrid, s.curBank.next) then k.watch
      else k.watch ++ [((s.curRec.map (·.va)).getD 0, t.curGrid, s.curBank.next)] }

theorem overlay_true (s : State) : s.overlay true =
    if s.overlayFound then overlayNoted s s
    else if s.overlayHeld then s
    else overlayNoted s (s.queueLoad s.curCore s.otherBank s.curGrid s.curBank.next
      (.overlay s.curGrid ((s.curRec.map (·.va)).getD 0))) := rfl

theorem loadsBank_overlay (s : State) (ob : Bool) : LoadsBank s (s.overlay ob) := by
  cases ob with
  | false => exact .refl s
  | true =>
    rw [overlay_true]
    split
    · exact loadsBank_modBank ..
    · split
      · exact .refl s
      · exact (loadsBank_queueLoad ..).trans (loadsBank_modBank ..)

end Sys2Proof.Proofs
end

section
/-! PROOFS. Sorting, fetch, and what a bundle that issues changes (O53). -/

namespace Sys2Proof.Proofs

open Sys2Proof Sys2Proof.Machine Sys2Proof.Claims Sys2Proof.Laws

/-! ## Sorting by a key -/

theorem insertBy_perm {α : Type} (key : α → Nat) (x : α) (l : List α) : (insertBy key x l).Perm (x :: l) := by
  induction l with
  | nil => exact .refl _
  | cons y ys ih =>
    unfold insertBy
    split
    · exact .refl _
    · exact (ih.cons y).trans (.swap x y ys)

theorem insertBy_pairwise {α : Type} {key : α → Nat} (x : α) {l : List α} (h : l.Pairwise fun a b => key a ≤ key b) :
    (insertBy key x l).Pairwise fun a b => key a ≤ key b := by
  induction l with
  | nil => exact List.pairwise_singleton ..
  | cons y ys ih =>
    obtain ⟨hy, hys⟩ := List.pairwise_cons.mp h
    unfold insertBy
    split
    · next hlt =>
      refine List.pairwise_cons.mpr ⟨fun b hb => ?_, h⟩
      rcases List.mem_cons.mp hb with rfl | hb
      · exact hlt.le
      · exact hlt.le.trans (hy b hb)
    · next hge =>
      refine List.pairwise_cons.mpr ⟨fun b hb => ?_, ih hys⟩
      rcases List.mem_cons.mp ((insertBy_perm key x ys).mem_iff.mp hb) with rfl | hb
      · exact Nat.not_lt.mp hge
      · exact hy b hb

theorem sortBy_perm {α : Type} (key : α → Nat) (l : List α) : (sortBy key l).Perm l := by
  have h (acc : List α) : (l.foldl (fun acc x => insertBy key x acc) acc).Perm (l ++ acc) := by
    induction l generalizing acc with
    | nil => exact .refl _
    | cons x xs ih => exact (ih _).trans (((insertBy_perm key x acc).append_left xs).trans List.perm_middle)
  exact (h []).trans (by rw [List.append_nil])

theorem sortBy_pairwise {α : Type} (key : α → Nat) (l : List α) : (sortBy key l).Pairwise fun a b => key a ≤ key b :=
  List.foldlRecOn (motive := fun acc : List α => acc.Pairwise fun a b => key a ≤ key b) l _ List.Pairwise.nil
    fun _ hacc x _ => insertBy_pairwise x hacc

/-! ## The checks of a bundle -/

theorem Check.all_go {l : List Check} (h : ∀ k ∈ l, k = .go) : Check.all l = .go :=
  List.foldlRecOn (motive := fun k : Check => k = .go) l _ rfl fun _ hacc k hk => by
    rw [hacc, h k hk]
    rfl

/-! ## The Landing at a bundle with HW set (05 R127, R128) -/

theorem applyLanding_issue (s : State) (d : Nat) (e : Landing) :
    (s.applyLanding d e).curCore = s.curCore ∧ (s.applyLanding d e).curCtx = s.curCtx := by
  unfold State.applyLanding
  split
  · exact ⟨rfl, rfl⟩
  · refine List.foldlRecOn (motive := fun t : State => t.curCore = s.curCore ∧ t.curCtx = s.curCtx) _ _ ⟨rfl, rfl⟩ fun t ht r _ => ?_
    split
    · next h =>
      obtain ⟨hc, hx⟩ := (plansStand_vaWrite h).issue
      exact ⟨hc.trans ht.1, hx.trans ht.2⟩
    · exact ht

/-- The host window point does not change which context is at issue. -/
theorem hostWindowPoint_issue (s : State) (c : Fin 192) :
    (s.hostWindowPoint c).curCore = s.curCore ∧ (s.hostWindowPoint c).curCtx = s.curCtx := by
  unfold State.hostWindowPoint State.applyDue
  have hkeep (p : Landing → Bool) (ds : List Nat) : let t := ds.foldl (fun (s : State) d => if (s.dctxOf d).landing.any p then
      s.modDctx d fun x => { x with landing := x.landing.filter fun e => !p e } else s) s
      t.curCore = s.curCore ∧ t.curCtx = s.curCtx := by
    refine List.foldlRecOn (motive := fun t : State => t.curCore = s.curCore ∧ t.curCtx = s.curCtx) _ _ ⟨rfl, rfl⟩ fun t ht d _ => ?_
    split <;> exact ht
  refine List.foldlRecOn (motive := fun t : State => t.curCore = s.curCore ∧ t.curCtx = s.curCtx) _ _ (hkeep ..) fun t ht x _ => ?_
  obtain ⟨hc, hx⟩ := applyLanding_issue t x.1 x.2
  exact ⟨hc.trans ht.1, hx.trans ht.2⟩

/-! ## Fetch (12 R305) -/

/-- The running context of the core fetches a bundle: nothing comes before it. -/
structure Fetches (s : State) (k : Fin 4) : Prop where
  running : (s.coreAt s.arg.core).running = some k
  halting : (s.ctxAt s.arg.core k).halting = false
  async : (s.ctxAt s.arg.core k).async = []
  deferred : (s.ctxAt s.arg.core k).deferred = none
  wait : (s.ctxAt s.arg.core k).wait = none
  rereserve : (s.ctxAt s.arg.core k).rereserve = none
  reacquire : (s.ctxAt s.arg.core k).reacquire = none
  copyWait : (s.ctxAt s.arg.core k).copyWait = none
  bankNamed : s.bankNamed s.arg.core k = true

theorem Fetches.exec {s : State} {k : Fin 4} (h : Fetches s k) : exec .bundleIssue s = .next (s.at_ s.arg.core k).fetchIssue := by
  obtain ⟨hr, hh, ha, hd, hw, hrr, hra, hc, -⟩ := h
  have hctx : (s.at_ s.arg.core k).ctx = s.ctxAt s.arg.core k := rfl
  show execBundleIssue s = _
  unfold execBundleIssue
  rw [hr]
  dsimp only
  unfold State.issue Ctx.firstCause
  simp only [hctx, hh, ha, hd, hw, hrr, hra, hc, List.foldl_nil, Option.isSome_none, Option.any_none, Bool.false_eq_true, if_false]

/-- The bank that the context executes from. -/
def fetchBank (s : State) (k : Fin 4) : Bank := (s.coreAt s.arg.core).banks.get (s.ctxAt s.arg.core k).bank

section
variable {s : State} {k : Fin 4} (h : Fetches s k)
include h

theorem fetchIssue_eq : (s.at_ s.arg.core k).fetchIssue =
    if (fetchBank s k).isSealed && decide ((s.ctxAt s.arg.core k).bix < 4096) &&
        decide ((s.ctxAt s.arg.core k).bix % 2048 < (fetchBank s k).nb)
    then (s.at_ s.arg.core k).issueBundle (tget (s.coreAt s.arg.core).bundles (s.ctxAt s.arg.core k).bix 0)
    else if (s.at_ s.arg.core k).fetchLoads then (s.at_ s.arg.core k).hold .bank
    else (s.at_ s.arg.core k).unsealed := by
  have hn : (s.at_ s.arg.core k).bankNamed (s.at_ s.arg.core k).curCore (s.at_ s.arg.core k).curCtx = true := h.bankNamed
  unfold State.fetchIssue
  rw [hn]
  rfl

/-- A bundle that the segment does not hold, and no load of it under way. -/
theorem bundleIssue_unsealed (hn : (fetchBank s k).nb ≤ (s.ctxAt s.arg.core k).bix % 2048) (hl : (s.at_ s.arg.core k).fetchLoads = false) :
    ∃ (v : State) (i : Nat), Machine.exec .bundleIssue s = .next (v.takeTrap 1 i) ∧ v.cores = s.cores ∧ v.curCore = s.arg.core ∧
      v.curCtx = k := by
  refine ⟨(s.at_ s.arg.core k).free.2, (s.at_ s.arg.core k).free.1.toNat, ?_, rfl, rfl, rfl⟩
  rw [h.exec, fetchIssue_eq h, hl, decide_eq_false (Nat.not_lt.mpr hn), Bool.and_false, if_neg Bool.false_ne_true,
    if_neg Bool.false_ne_true]
  rfl

theorem bundleIssue_fetched (hs : (fetchBank s k).isSealed = true) (hb : (s.ctxAt s.arg.core k).bix < 4096)
    (hn : (s.ctxAt s.arg.core k).bix % 2048 < (fetchBank s k).nb) : Machine.exec .bundleIssue s =
      .next ((s.at_ s.arg.core k).issueBundle (tget (s.coreAt s.arg.core).bundles (s.ctxAt s.arg.core k).bix 0)) := by
  rw [h.exec, fetchIssue_eq h, hs, decide_eq_true hb, decide_eq_true hn, Bool.and_true, Bool.and_true, if_pos rfl]
end

/-! ## A bundle that issues (08 R194, R204, R205) -/

/-- The context of a bundle that issues: its pops are made. -/
def popped (drop : Nat) (q : Ctx) : Ctx :=
  { q with cq := q.cq.drop drop, stall := none, copyWait := none, replays := 0, issuedSince := q.issuedSince + 1 }

/-- Issue goes on as the leaf, an operation or the loops say. -/
def goesOn (h : Header) (leaf : Nat) (steered : Bool) (i : Nat) (q : Ctx) : Ctx :=
  if leaf ≠ 0 then { q with bix := bixOf (bankOf q.bix) (h.target leaf i).toNat }
  else if steered then q
  else { q with bix := bixOf (bankOf q.bix) (loopEnd i q.loops).1, loops := (loopEnd i q.loops).2 }

/-- Of what a bundle's issue looks at, only the context at issue changes, and as `f` says. -/
structure Turns (o t : State) (f : Ctx → Ctx) : Prop where
  mem : t.mem = o.mem
  recs : t.recs = o.recs
  core : t.curCore = o.curCore
  context : t.curCtx = o.curCtx
  banks : ∀ c, (t.coreAt c).banks = (o.coreAt c).banks
  ctx : t.ctx = f o.ctx

theorem turns_modCtx (s : State) (f : Ctx → Ctx) : Turns s (s.modCtx f) f := by
  refine ⟨rfl, rfl, rfl, rfl, fun c => ?_, ctx_modCtx s f⟩
  by_cases h : c = s.curCore
  · subst h
    exact congrArg (·.banks) (coreAt_modCoreAt_self s s.curCore _)
  · exact congrArg (·.banks) (coreAt_modCoreAt_ne s s.curCore c _ h)

theorem Turns.trans {o t u : State} {f g : Ctx → Ctx} (h : Turns o t f) (h' : Turns t u g) : Turns o u (g ∘ f) :=
  ⟨h'.mem.trans h.mem, h'.recs.trans h.recs, h'.core.trans h.core, h'.context.trans h.context,
    fun c => (h'.banks c).trans (h.banks c), by rw [h'.ctx, h.ctx]; rfl⟩

/-- A flush of the array's commands steers nothing (log entry 83). -/
theorem flushes_steers (v : State) (ops : List Latched) :
    ((ops ++ v.flushes ops).any fun o => steers o.op) = ops.any fun o => steers o.op := by
  have hf : ((v.flushes ops).any fun o => steers o.op) = false := by
    unfold State.flushes
    split
    · rfl
    · split <;> rfl
  rw [List.any_append, hf, Bool.or_false]

/-- The context after its pops, with the bundle that it goes on with. -/
def advanced (s : State) (h : Header) (leaf : Nat) (steered : Bool) (i : Nat) : State :=
  if leaf ≠ 0 then s.modCtx fun c => { c with bix := bixOf (bankOf c.bix) (h.target leaf i).toNat }
  else if steered then s
  else s.modCtx fun c => { c with bix := bixOf (bankOf c.bix) (loopEnd i c.loops).1, loops := (loopEnd i c.loops).2 }

theorem turns_advanced (s : State) (h : Header) (leaf : Nat) (steered : Bool) (i : Nat) :
    Turns s (advanced s h leaf steered i) (goesOn h leaf steered i) := by
  unfold advanced
  split
  · next hl =>
    have hg : goesOn h leaf steered i = fun c => { c with bix := bixOf (bankOf c.bix) (h.target leaf i).toNat } := by
      funext q
      exact if_pos hl
    exact hg ▸ turns_modCtx ..
  · next hl =>
    split
    · next hs =>
      have hg (q : Ctx) : goesOn h leaf steered i q = q := by
        unfold goesOn
        rw [if_neg hl, if_pos hs]
      exact ⟨rfl, rfl, rfl, rfl, fun _ => rfl, (hg _).symm⟩
    · next hs =>
      have hg : goesOn h leaf steered i = fun c =>
          { c with bix := bixOf (bankOf c.bix) (loopEnd i c.loops).1, loops := (loopEnd i c.loops).2 } := by
        funext q
        unfold goesOn
        rw [if_neg hl, if_neg hs]
      exact hg ▸ turns_modCtx ..

theorem commit_eq (v : State) (h : Header) (leaf drop : Nat) (ops : List Latched) : v.commit h leaf drop ops =
    { advanced ((v.overlay h.ob).modCtx (popped drop)) h leaf (ops.any fun o => steers o.op) (v.ctx.bix % 2048) with
      issued := true, latched := sortBy performKey (ops ++ v.flushes ops), ctlOld := [(0, v.ctx.ctl 0)] } := by
  rw [← flushes_steers v ops]
  rfl

theorem turns_commit (v : State) (h : Header) (leaf drop : Nat) (ops : List Latched) :
    Turns (v.overlay h.ob) (v.commit h leaf drop ops)
      (goesOn h leaf (ops.any fun o => steers o.op) (v.ctx.bix % 2048) ∘ popped drop) := by
  have ht := (turns_modCtx (v.overlay h.ob) (popped drop)).trans
    (turns_advanced _ h leaf (ops.any fun o => steers o.op) (v.ctx.bix % 2048))
  rw [commit_eq]
  exact ⟨ht.mem, ht.recs, ht.core, ht.context, ht.banks, ht.ctx⟩

end Sys2Proof.Proofs
end

section
/-! PROOFS. One bundle: its checks and what it leaves (O53). -/

namespace Sys2Proof.Proofs

open Sys2Proof Sys2Proof.Machine Sys2Proof.Claims Sys2Proof.Laws

/-! ## One bundle (08 R194, R202) -/

/-- The operations that the tags of a bundle enable for a leaf. -/
def enabledOps (all : List (Nat × Latched)) (leaf : Nat) : List Latched := (all.filter fun p => tagEnables p.1 leaf).map Prod.snd

/-- A bundle with HW set waits for the thread's earlier accesses. -/
def accessesBefore (s : State) (h : Header) : Bool := h.hw && (s.matPending || s.ctx.long.any fun r => r.load || r.slot == 5)

/-- The state in which a bundle's checks are made: behind the host window point, if it has one. -/
def pointed (s : State) (h : Header) : State := if h.hw then s.hostWindowPoint s.curCore else s

def checked (s : State) (b : Block) (leaf : Nat) : State :=
  { pointed s (Header.of b) with curBix := s.ctx.bix % 2048, curLeaf := leaf, curHeader := b.extractLsb' 448 64 }

theorem pointed_issue (s : State) (h : Header) : (pointed s h).curCore = s.curCore ∧ (pointed s h).curCtx = s.curCtx := by
  unfold pointed
  split
  · exact hostWindowPoint_issue ..
  · exact ⟨rfl, rfl⟩

section
variable {s : State} {b : Block} {all : List (Nat × Latched)} (ha : bundleOps b = some all)
include ha

theorem issueBundle_empty (hc : s.ctx.chain (Header.of b) = .empty) : s.issueBundle b = s.takeTrap 2 0 := by
  unfold State.issueBundle
  simp only [ha, hc]

theorem issueBundle_bubble (hc : s.ctx.chain (Header.of b) = .bubble) :
    s.issueBundle b = s.modCtx fun c => { c.advance with stall := some .bubble } := by
  unfold State.issueBundle
  simp only [ha, hc]

variable {leaf drop : Nat} (hc : s.ctx.chain (Header.of b) = .leaf leaf drop)
include hc

theorem issueBundle_held (h : ((enabledOps all leaf).any fun o => s.ctx.interlocked o.op) = true ∨ accessesBefore s (Header.of b) = true) :
    s.issueBundle b = s.modCtx fun c => { c with stall := some .interlock } := by
  have hor : (((enabledOps all leaf).any fun o => s.ctx.interlocked o.op) || accessesBefore s (Header.of b)) = true := by
    simpa using h
  unfold enabledOps accessesBefore at hor
  unfold State.issueBundle
  simp only [ha, hc]
  rw [if_pos hor]
  rfl

/-- A bundle that meets nothing issues. -/
theorem issueBundle_commits (hi : ((enabledOps all leaf).any fun o => s.ctx.interlocked o.op) = false)
    (he : accessesBefore s (Header.of b) = false) (ho : overflowCheck (checked s b leaf).ctx drop (enabledOps all leaf) = .go)
    (hk : ∀ o ∈ enabledOps all leaf, leaveInTurn (enabledOps all leaf) o
      (issueCheck o.op { checked s b leaf with curWord := o.word }) = .go)
    (hr : (checked s b leaf).roomCheck ((enabledOps all leaf).flatMap fun o => (checked s b leaf).reach o.op) = .go)
    (hf : (checked s b leaf).flushCheck (enabledOps all leaf) = .go) (hs : (checked s b leaf).refetches (enabledOps all leaf) = none) :
    s.issueBundle b = (checked s b leaf).commit (Header.of b) leaf drop (enabledOps all leaf) := by
  have hnot : ¬ (((enabledOps all leaf).any fun o => s.ctx.interlocked o.op) || accessesBefore s (Header.of b)) = true := by
    rw [hi, he]
    decide
  have hall : Check.all ((enabledOps all leaf).map fun o =>
      leaveInTurn (enabledOps all leaf) o (issueCheck o.op { checked s b leaf with curWord := o.word })) = .go :=
    Check.all_go fun k hkm => by
      obtain ⟨o, hom, rfl⟩ := List.mem_map.mp hkm
      exact hk o hom
  have hboth : ((overflowCheck (checked s b leaf).ctx drop (enabledOps all leaf)).both
      ((Check.all ((enabledOps all leaf).map fun o =>
        leaveInTurn (enabledOps all leaf) o (issueCheck o.op { checked s b leaf with curWord := o.word }))).both
      (((checked s b leaf).roomCheck ((enabledOps all leaf).flatMap fun o => (checked s b leaf).reach o.op)).both
        ((checked s b leaf).flushCheck (enabledOps all leaf))))) = .go := by
    rw [ho, hall, hr, hf]
    rfl
  unfold State.issueBundle
  simp only [ha, hc]
  unfold enabledOps accessesBefore at hnot
  rw [if_neg hnot]
  unfold enabledOps checked pointed at hboth hs ⊢
  rw [hboth]
  dsimp only
  rw [hs]
end

/-! ## What it leaves -/

/-- What the issue of a bundle with the header `h` leaves, `v` being the state of its checks: the statement of O53's clause. -/
theorem commit_effect (v : State) (h : Header) (leaf drop : Nat) (ops : List Latched) :
    let t := v.commit h leaf drop ops
    t.issued = true ∧ t.latched.Perm (ops ++ v.flushes ops) ∧ t.latched.Pairwise (fun a b => performKey a ≤ performKey b) ∧
      t.mem.bytes = v.mem.bytes ∧ t.recs = v.recs ∧ (h.ob = false → t.mem = v.mem ∧ t.core.banks = v.core.banks) := by
  intro t
  have ht := turns_commit v h leaf drop ops
  have ho := loadsBank_overlay v h.ob
  have hl : t.latched = sortBy performKey (ops ++ v.flushes ops) := congrArg (·.latched) (commit_eq v h leaf drop ops)
  refine ⟨congrArg (·.issued) (commit_eq v h leaf drop ops), hl ▸ sortBy_perm .., hl ▸ sortBy_pairwise ..,
    (congrArg MemSys.bytes ht.mem).trans ho.bytes, ht.recs.trans ho.recs, fun hob => ?_⟩
  rw [hob, overlay_false] at ht
  refine ⟨ht.mem, ?_⟩
  unfold State.core
  rw [ht.core]
  exact ht.banks _

/-- The note of the thread that waits for a load changes neither the load under way nor those that wait behind it. -/
theorem overlayNoted_bank {v q : State} (hq : LoadsBank v q) :
    let k := ((overlayNoted v q).coreAt v.curCore).banks.get v.otherBank
    k.loading = ((q.coreAt v.curCore).banks.get v.otherBank).loading ∧ k.queue = ((q.coreAt v.curCore).banks.get v.otherBank).queue := by
  obtain ⟨hc, hx⟩ := hq.issue
  obtain ⟨m, hm⟩ := hq.contexts v.curCore v.curCtx
  have hctx : q.ctx = { v.ctx with mark := m } := by
    unfold State.ctx
    rw [hc, hx]
    exact hm
  have hbix : q.ctx.bix = v.ctx.bix := congrArg (·.bix) hctx
  have hbank : q.otherBank = v.otherBank := Fin.ext (congrArg (fun n : Nat => 1 - bankOf n) hbix)
  have hself := bank_modBank_self q q.curCore q.otherBank fun k => { k with
    watch := if k.watch.contains ((v.curRec.map (·.va)).getD 0, q.curGrid, v.curBank.next) then k.watch
      else k.watch ++ [((v.curRec.map (·.va)).getD 0, q.curGrid, v.curBank.next)] }
  rw [← hc, ← hbank]
  exact ⟨congrArg (·.loading) hself, congrArg (·.queue) hself⟩

/-- An OB bundle queues its overlay. -/
theorem commit_overlay {v : State} {c : Fin 192} (hcore : v.curCore = c) {h : Header} (leaf drop : Nat) (ops : List Latched) {g : Grid}
    (hob : h.ob = true) (hfound : v.overlayFound = false) (hheld : v.overlayHeld = false) (hg : v.gridOf v.curGrid = some g) :
    let t := v.commit h leaf drop ops
    let why : LoadFor := .overlay v.curGrid ((v.curRec.map (·.va)).getD 0)
    (((v.coreAt c).banks.get v.otherBank).loading = none → ((t.coreAt c).banks.get v.otherBank).loading = some why) ∧
    (((v.coreAt c).banks.get v.otherBank).loading ≠ none → ((t.coreAt c).banks.get v.otherBank).queue =
      ((v.coreAt c).banks.get v.otherBank).queue ++ [(v.curGrid, v.curBank.next, why)]) := by
  subst hcore
  intro t why
  have ht := (turns_commit v h leaf drop ops).banks v.curCore
  rw [hob, overlay_true, hfound, hheld, if_neg Bool.false_ne_true, if_neg Bool.false_ne_true] at ht
  obtain ⟨hidle, hbusy⟩ := queueLoad_bank hg v.curCore v.otherBank v.curBank.next why
  obtain ⟨hloading, hqueue⟩ := overlayNoted_bank (loadsBank_queueLoad v v.curCore v.otherBank v.curGrid v.curBank.next why)
  have hget : (t.coreAt v.curCore).banks.get v.otherBank = _ := congrArg (fun x : Vector Bank 2 => x.get v.otherBank) ht
  rw [hget]
  exact ⟨fun h => hloading.trans (hidle h), fun h => hqueue.trans (hbusy h)⟩

/-- The context at issue of a bundle that has issued. -/
theorem commit_context {v : State} {c : Fin 192} {k : Fin 4} (hcore : v.curCore = c) (hctx : v.curCtx = k) (h : Header) (leaf drop : Nat)
    (ops : List Latched) :
    let p := v.ctxAt c k
    let w := (v.commit h leaf drop ops).ctxAt c k
    w.cq = p.cq.drop drop ∧ w.s = p.s ∧ w.v = p.v ∧ w.k = p.k ∧ w.pipe = p.pipe ∧ w.replays = 0 ∧ w.copyWait = none ∧
      (leaf ≠ 0 → w.bix = bixOf (bankOf p.bix) (h.target leaf (p.bix % 2048)).toNat ∧ w.loops = p.loops) ∧
      (leaf = 0 → (ops.any fun o => steers o.op) = true → w.bix = p.bix ∧ w.loops = p.loops) ∧
      (leaf = 0 → (ops.any fun o => steers o.op) = false →
        w.bix = bixOf (bankOf p.bix) (loopEnd (p.bix % 2048) p.loops).1 ∧ w.loops = (loopEnd (p.bix % 2048) p.loops).2) := by
  subst hcore hctx
  intro p w
  have ht := turns_commit v h leaf drop ops
  obtain ⟨hc, hx⟩ := (loadsBank_overlay v h.ob).issue
  obtain ⟨m, hm⟩ := (loadsBank_overlay v h.ob).contexts v.curCore v.curCtx
  have hw : w = goesOn h leaf (ops.any fun o => steers o.op) (p.bix % 2048) (popped drop { p with mark := m }) := by
    have hctx := ht.ctx
    unfold State.ctx at hctx
    rw [ht.core, ht.context, hc, hx, hm] at hctx
    exact hctx
  rw [hw]
  unfold goesOn
  split
  · next hl => exact ⟨rfl, rfl, rfl, rfl, rfl, rfl, rfl, fun _ => ⟨rfl, rfl⟩, fun h => absurd h hl, fun h => absurd h hl⟩
  · next hl =>
    split
    · next hs =>
      exact ⟨rfl, rfl, rfl, rfl, rfl, rfl, rfl, fun h => absurd h hl, fun _ _ => ⟨rfl, rfl⟩, fun _ h => absurd hs (by simp [h])⟩
    · next hs =>
      exact ⟨rfl, rfl, rfl, rfl, rfl, rfl, rfl, fun h => absurd h hl, fun _ h => absurd h hs, fun _ _ => ⟨rfl, rfl⟩⟩

end Sys2Proof.Proofs
end

section
/-! PROOFS. The end of a cycle, the arrival of a result, and O53 from its parts. -/

namespace Sys2Proof.Proofs

open Sys2Proof Sys2Proof.Machine Sys2Proof.Claims Sys2Proof.Laws

/-! ## What a result's write leaves of its context (08 R195) -/

/-- The state of the context's turn stands: whether it runs, waits or leaves, and its bundles since it began. -/
structure TurnStands (c d : Ctx) : Prop where
  phase : d.phase = c.phase
  wait : d.wait = c.wait
  issuedSince : d.issuedSince = c.issuedSince
  leaving : d.leaving = c.leaving

theorem TurnStands.refl (c : Ctx) : TurnStands c c := ⟨rfl, rfl, rfl, rfl⟩

theorem TurnStands.trans {c d e : Ctx} (h : TurnStands c d) (h' : TurnStands d e) : TurnStands c e :=
  ⟨h'.phase.trans h.phase, h'.wait.trans h.wait, h'.issuedSince.trans h.issuedSince, h'.leaving.trans h.leaving⟩

theorem turnStands_foldl {α : Type} {f : Ctx → α → Ctx} (h : ∀ c a, TurnStands c (f c a)) (l : List α) (c : Ctx) :
    TurnStands c (l.foldl f c) :=
  List.foldlRecOn l f (TurnStands.refl c) fun _ hb a _ => hb.trans (h _ a)

theorem turnStands_setS (c : Ctx) (n : Fin 64) (x : Word) : TurnStands c (c.setS n x) := by
  unfold Ctx.setS
  split <;> exact ⟨rfl, rfl, rfl, rfl⟩

theorem turnStands_setK (c : Ctx) (n : Fin 8) (x : Word) : TurnStands c (c.setK n x) := by
  unfold Ctx.setK
  split <;> exact ⟨rfl, rfl, rfl, rfl⟩

theorem turnStands_setDest (c : Ctx) (d : Dest) (data mask : VReg) : TurnStands c (c.setDest d data mask) := by
  unfold Ctx.setDest
  split
  · exact turnStands_setS ..
  · exact ⟨rfl, rfl, rfl, rfl⟩
  · exact ⟨rfl, rfl, rfl, rfl⟩
  · exact ⟨rfl, rfl, rfl, rfl⟩
  · exact turnStands_setK ..
  · exact ⟨rfl, rfl, rfl, rfl⟩
  · exact .refl c

theorem turnStands_writeResult (c : Ctx) (slot : Nat) (d : Dest) (ws : Bool) (data mask : VReg) :
    TurnStands c (c.writeResult slot d ws data mask) := by
  unfold Ctx.writeResult
  split
  · exact turnStands_setDest ..
  · exact .refl c
  · split
    · exact ⟨rfl, rfl, rfl, rfl⟩
    · have h := turnStands_setDest (c.pushLast slot data) d data mask
      exact ⟨h.phase, h.wait, h.issuedSince, h.leaving⟩

theorem turnStands_landDegen (c : Ctx) (r : InFlight) : TurnStands c (c.landDegen r) := by
  unfold Ctx.landDegen
  split
  · exact .refl c
  · dsimp only
    split
    · exact ⟨rfl, rfl, rfl, rfl⟩
    · next d _ _ =>
      have h (n : Fin 8) (x : Word) := turnStands_setK
        { c with gateDegen := satAdd c.gateDegen ((List.range 4).countP (bitN d.bits)) } n x
      exact ⟨(h _ _).phase, (h _ _).wait, (h _ _).issuedSince, (h _ _).leaving⟩

theorem turnStands_landAll (c : Ctx) (l : List InFlight) : TurnStands c (c.landAll l) :=
  (turnStands_foldl (fun _ _ => turnStands_writeResult ..) _ c).trans (turnStands_foldl turnStands_landDegen _ _)

theorem turnStands_advance (c : Ctx) : TurnStands c c.advance := by
  have h := turnStands_landAll { c with pipe := (c.pipe.map fun r => { r with left := r.left - 1 }).filter fun r => r.left != 0 }
    ((c.pipe.map fun r => { r with left := r.left - 1 }).filter fun r => r.left == 0)
  exact ⟨h.phase, h.wait, h.issuedSince, h.leaving⟩

/-! ## The end of a cycle (08 R195) -/

/-- The operations of the bundle have performed. -/
def cycleEnd (s : State) : State := { s with issued := false, latched := [], ctlOld := [] }

theorem resultWriteback_advances {s : State} (hp : s.ctx.phase = .running) (hw : s.ctx.wait = none) (hi : s.ctx.issuedSince < 4096) :
    ∃ t, exec .resultWriteback s = .next t ∧ t.ctx = s.ctx.advance ∧ t.issued = false ∧ t.latched = [] ∧ t.mem = s.mem ∧
      t.recs = s.recs := by
  obtain ⟨hph, hwt, hsince, -⟩ := turnStands_advance s.ctx
  have hctx : ((cycleEnd s).modCtx Ctx.advance).ctx = s.ctx.advance := ctx_modCtx _ _
  have hend : ((cycleEnd s).modCtx Ctx.advance).endTurn = (cycleEnd s).modCtx Ctx.advance := by
    unfold State.endTurn
    rw [hctx, hph, hwt, hsince, hp, hw, decide_eq_false (Nat.not_le.mpr hi)]
    simp only [Bool.and_false, Bool.false_and, Bool.false_eq_true, if_false]
  refine ⟨(cycleEnd s).modCtx Ctx.advance, ?_, hctx, rfl, rfl, rfl, rfl⟩
  have hfree : ¬ (cycleEnd s).ctx.phase = .free := by
    show ¬ s.ctx.phase = .free
    rw [hp]
    decide
  have he : exec .resultWriteback s =
      .next (if (cycleEnd s).ctx.phase = .free then cycleEnd s else ((cycleEnd s).modCtx Ctx.advance).endTurn) := rfl
  rw [he, if_neg hfree, hend]

/-! ## The arrival of an interlocked result (08 R197) -/

section
variable {s : State} {r : LongResult} (hr : (s.ctxAt s.arg.core s.arg.ctx).long.find? (fun r => r.id == s.arg.id) = some r)
include hr

theorem interlockArrival_waits (h : r.data = none ∨ s.frozen s.arg.core = true) : exec .interlockArrival s = .next s := by
  show execInterlockArrival s = _
  unfold execInterlockArrival
  simp only [hr]
  rcases h with h | h
  · rw [h]
    split <;> rfl
  · rw [if_pos h]

/-- The result has left the context's list and is written. -/
def arrived (s : State) (r : LongResult) (d : VReg) : State :=
  (s.modCtxAt s.arg.core s.arg.ctx fun c => { c with long := c.long.filter fun q => q.id != s.arg.id }).modCtxAt s.arg.core s.arg.ctx
    fun c => c.writeResult r.slot r.dest r.ws d (BitVec.allOnes 2048)

omit hr in
theorem arrived_ctxAt (d : VReg) : (arrived s r d).ctxAt s.arg.core s.arg.ctx = Ctx.writeResult
    { s.ctxAt s.arg.core s.arg.ctx with long := (s.ctxAt s.arg.core s.arg.ctx).long.filter fun q => q.id != s.arg.id }
    r.slot r.dest r.ws d (BitVec.allOnes 2048) := by
  unfold arrived
  rw [ctxAt_modCtxAt_self, ctxAt_modCtxAt_self]

theorem interlockArrival_writes (hl : (s.ctxAt s.arg.core s.arg.ctx).leaving = none) {d : VReg} (hf : s.frozen s.arg.core = false)
    (hd : r.data = some d) (hp : r.poison = false) : ∃ t, exec .interlockArrival s = .next t ∧ t.mem = s.mem ∧
      t.ctxAt s.arg.core s.arg.ctx = Ctx.writeResult
        { s.ctxAt s.arg.core s.arg.ctx with long := (s.ctxAt s.arg.core s.arg.ctx).long.filter fun q => q.id != s.arg.id }
        r.slot r.dest r.ws d (BitVec.allOnes 2048) := by
  have hsettle : (arrived s r d).settleLeaving s.arg.core s.arg.ctx = arrived s r d := by
    unfold State.settleLeaving
    rw [arrived_ctxAt, (turnStands_writeResult ..).leaving]
    dsimp only
    rw [hl]
  obtain ⟨busy, hb⟩ := addBusy_eq (arrived s r d) s.arg.core
  refine ⟨(arrived s r d).addBusy s.arg.core, ?_, by rw [hb]; rfl, by rw [hb]; exact arrived_ctxAt d⟩
  show execInterlockArrival s = _
  unfold execInterlockArrival
  simp only [hr, hf, hd, hp, Bool.false_and, Bool.false_eq_true, if_false]
  exact congrArg (fun t : State => Host.Outcome.next (t.addBusy s.arg.core)) hsettle
end

/-- Settles O53: the bundle by what its fetch, its chain and its checks find, the end of the cycle by the turn that stands, and the arrival
by the result and its core's clock. -/
theorem issueEvents : Obligations.IssueEvents := by
  intro s c x
  refine ⟨fun hrun => ?_, fun k hrun => ?_, resultWriteback_advances,
    fun r hr hl => ⟨interlockArrival_waits hr, fun d => interlockArrival_writes hr hl⟩⟩
  · show execBundleIssue s = _
    unfold execBundleIssue
    rw [hrun]
  · intro u q hhalt hasync hdef hwait hrr hra hcw hbank hseal hbix
    have hfetches : Fetches s k := ⟨hrun, hhalt, hasync, hdef, hwait, hrr, hra, hcw, hbank⟩
    refine ⟨bundleIssue_unsealed hfetches, fun hnb => ?_⟩
    intro b h z early all hall
    have he : exec .bundleIssue s = .next (u.issueBundle b) := bundleIssue_fetched hfetches hseal hbix hnb
    rw [he]
    refine ⟨fun hc => congrArg _ (issueBundle_empty hall hc),
      fun hc => ⟨_, congrArg _ (issueBundle_bubble hall hc), ctx_modCtx u _, rfl⟩, fun leaf drop hc => ?_⟩
    intro ops v
    refine ⟨fun hheld => congrArg _ (issueBundle_held hall hc hheld), fun hi hearly ho hk hroom hf hs => ?_⟩
    have hcommit : u.issueBundle b = v.commit h leaf drop ops := issueBundle_commits (s := u) hall hc hi hearly ho hk hroom hf hs
    have hcore : v.curCore = c := (pointed_issue u h).1
    have hctx : v.curCtx = k := (pointed_issue u h).2
    obtain ⟨hissued, hperm, hsorted, hbytes, hrecs, hplain⟩ := commit_effect v h leaf drop ops
    refine ⟨v.commit h leaf drop ops, congrArg _ hcommit, hissued, hperm, hsorted, hbytes, hrecs, hplain,
      fun g hob hfound hheld hg => ?_, ?_⟩
    · exact commit_overlay hcore leaf drop ops hob hfound hheld hg
    · exact commit_context hcore hctx h leaf drop ops

end Sys2Proof.Proofs
end

section
/-! SUPPORT. Granules at their controllers: addresses and stacks, the units' table, what decoding finds in units written anew, and what
each access leaves (02 R36 to R51). -/

namespace Sys2Proof.Proofs

open Sys2Proof Sys2Proof.Machine Sys2Proof.Claims Sys2Proof.Laws

/-! ## Addresses of granules and their stacks (02 R36 to R38) -/

theorem granBytes_pos (g : Nat) : 0 < granBytes g := Nat.mul_pos (by decide) (Nat.two_pow_pos g)

theorem granBase_eq_mul_div (g dpa : Nat) : granBase g dpa = granBytes g * (dpa / granBytes g) :=
  (Nat.eq_sub_of_add_eq (Nat.div_add_mod dpa _)).symm

@[simp] theorem granBase_granBase (g dpa : Nat) : granBase g (granBase g dpa) = granBase g dpa := by
  rw [granBase_eq_mul_div g (granBase g dpa), granBase_eq_mul_div g dpa, Nat.mul_div_cancel_left _ (granBytes_pos g)]

/-- A granule lies in one stack. -/
theorem stackOf_granBase {g : Nat} (h : g < 32) (dpa : Nat) : stackOf (granBase g dpa) = stackOf dpa := by
  have hsplit : 2 ^ 36 = granBytes g * 2 ^ (31 - g) := by
    rw [granBytes, Nat.mul_assoc, ← Nat.pow_add, Nat.add_sub_cancel' (by omega : g ≤ 31)]
    norm_num
  rw [stackOf, stackOf, granBase_eq_mul_div, hsplit, Nat.mul_div_mul_left _ _ (granBytes_pos g), Nat.div_div_eq_div_mul]

theorem stackOf_lt_of_exists {dpa : Nat} (h : dpaExists dpa = true) : stackOf dpa < 12 := of_decide_eq_true h

theorem modStack_eq (m : MemSys) (dpa : Nat) (f : Stack → Stack) : ∃ k, m.modStack dpa f = { m with stk := k } := by
  unfold MemSys.modStack
  split
  · exact ⟨_, rfl⟩
  · exact ⟨m.stk, rfl⟩

@[simp] theorem modStack_units (m : MemSys) (dpa : Nat) (f : Stack → Stack) : (m.modStack dpa f).units = m.units := by
  obtain ⟨k, hk⟩ := modStack_eq m dpa f
  rw [hk]

theorem stackAt_modStack_self (m : MemSys) {dpa k : Nat} (f : Stack → Stack) (hk : stackOf dpa = k) (h : k < 12) :
    (m.modStack dpa f).stackAt k = f (m.stackAt k) := by
  subst hk
  simpa [MemSys.modStack, MemSys.stackAt, getIdx, h] using vget_set_self m.stk (stackOf dpa) _ h

/-! ## The table of units -/

theorem unit_setUnit_same {m : MemSys} (h : tableWf UnitMeta.reset m.units = true) {a b : Nat} (u : UnitMeta) (hb : a / 32 = b / 32) :
    (m.setUnit a u).unit b = u := by
  rw [MemSys.unit, ← hb]
  exact tget_tset_self h _ u

theorem unit_setUnit_other {m : MemSys} (h : tableWf UnitMeta.reset m.units = true) {a b : Nat} (u : UnitMeta) (hb : a / 32 ≠ b / 32) :
    (m.setUnit a u).unit b = m.unit b :=
  tget_tset_ne h u (Ne.symm hb)

/-- Units rewritten one after another: each that the list names carries the rewriting of what it held, and the others stand. That a
rewriting done twice is the rewriting itself lets the list name a unit more than once. -/
theorem unit_foldl_setUnit {f : UnitMeta → UnitMeta} (hf : ∀ u, f (f u) = f u) (b : Nat) (l : List Nat) {m : MemSys}
    (h : tableWf UnitMeta.reset m.units = true) :
    (l.foldl (fun m a => m.setUnit a (f (m.unit a))) m).unit b = if ∃ a ∈ l, a / 32 = b / 32 then f (m.unit b) else m.unit b := by
  induction l generalizing m with
  | nil => simp
  | cons a l ih =>
    rw [List.foldl_cons, ih (tset_wf h ..)]
    by_cases hab : a / 32 = b / 32
    · have hunit : m.unit a = m.unit b := by rw [MemSys.unit, hab]; rfl
      simp [unit_setUnit_same h _ hab, hab, hunit, hf]
    · simp [unit_setUnit_other h _ hab, hab]

theorem unit_rewriteUnits {m : MemSys} (h : tableWf UnitMeta.reset m.units = true) {l : List Nat} {b : Nat} (hb : b ∈ l) (p : Bool) :
    (m.rewriteUnits l p).unit b = { m.unit b with poison := p, errs := [] } :=
  (unit_foldl_setUnit (f := fun u => { u with poison := p, errs := [] }) (fun _ => rfl) b l h).trans (if_pos ⟨b, hb, rfl⟩)

theorem unit_setGran {m : MemSys} (h : tableWf UnitMeta.reset m.units = true) {g dpa b : Nat} (hb : b ∈ granUnits g (granBase g dpa))
    (p : Bool) : (m.setGran g dpa p).unit b = { gc := BitVec.ofNat 3 g, poison := p, errs := [] } :=
  (unit_foldl_setUnit (f := fun _ => { gc := BitVec.ofNat 3 g, poison := p, errs := [] }) (fun _ => rfl) b _ h).trans
    (if_pos ⟨b, hb, rfl⟩)

theorem stk_foldl_setUnit {f : MemSys → Nat → UnitMeta} (l : List Nat) (m : MemSys) :
    (l.foldl (fun m a => m.setUnit a (f m a)) m).stk = m.stk :=
  List.foldlRecOn (motive := fun m' : MemSys => m'.stk = m.stk) l _ rfl fun _ hb _ _ => hb

theorem stackAt_rewriteUnits (m : MemSys) (l : List Nat) (p : Bool) (k : Nat) : (m.rewriteUnits l p).stackAt k = m.stackAt k :=
  congrArg (fun v => getIdx v k Stack.reset) (stk_foldl_setUnit l m)

theorem stackAt_setGran (m : MemSys) (g dpa : Nat) (p : Bool) (k : Nat) : (m.setGran g dpa p).stackAt k = m.stackAt k :=
  congrArg (fun v => getIdx v k Stack.reset) (stk_foldl_setUnit _ m)

/-! ## What the controller finds (02 R41 to R47) -/

theorem length_granUnits (g base : Nat) : (granUnits g base).length = 2 ^ g := by simp [granUnits]

/-- Units without an error decode clean under every code. -/
theorem decodeGran_noErrors (g : Nat) {us : List (List (Nat × Byte))} (h : ∀ e ∈ us, e = []) : decodeGran g us = .clean := by
  obtain ⟨n, rfl⟩ : ∃ n, us = List.replicate n [] := ⟨us.length, List.eq_replicate_iff.mpr ⟨rfl, h⟩⟩
  have hzeros (k : Nat) : (List.replicate k 0).foldl (· + ·) 0 = 0 := by
    rw [← List.sum_eq_foldl_nat, List.sum_replicate, smul_zero]
  have hword (w : Nat) : wideWord (List.replicate n []) w = 0 := by simp [wideWord, wordErrors, hzeros]
  have hwhole : g128Errors (List.replicate n []) = 0 := by
    rw [g128Errors, List.eq_replicate_of_mem (a := 0) (l := List.map _ _) ?_, hzeros]
    intro x hx
    obtain ⟨u, hu, rfl⟩ := List.mem_map.mp hx
    have hnil : u.1 = [] := (List.mem_replicate.mp (List.fst_mem_of_mem_zipIdx hu)).2
    simp [hnil]
  simp [decodeGran, hword, hwhole, unitBitErrors, asigErrors]

/-- A granule whose units carry its class, no error, and the same poison. -/
theorem granState_of_units {m : MemSys} {g dpa : Nat} {p : Bool}
    (h : ∀ a ∈ granUnits g (granBase g dpa), (m.unit a).gc.toNat = g ∧ (m.unit a).poison = p ∧ (m.unit a).errs = []) :
    m.granState g dpa = if p then .stored else .ok .clean := by
  have hclass : ((granUnits g (granBase g dpa)).map m.unit).any (fun u => u.gc.toNat != g) = false := by
    simpa using fun a ha => (h a ha).1
  have hpoison : ((granUnits g (granBase g dpa)).map m.unit).any (·.poison) = p := by
    have hne : granUnits g (granBase g dpa) ≠ [] := List.ne_nil_of_length_pos (by rw [length_granUnits]; exact Nat.two_pow_pos g)
    cases p
    · simpa using fun a ha => (h a ha).2.1
    · obtain ⟨a, ha⟩ := List.exists_mem_of_ne_nil _ hne
      simpa using ⟨a, ha, (h a ha).2.1⟩
  have herrs : decodeGran g (((granUnits g (granBase g dpa)).map m.unit).map (·.errs)) = .clean :=
    decodeGran_noErrors g (by simpa using fun a ha => (h a ha).2.2)
  cases p
  · simp only [MemSys.granState, hclass, hpoison, herrs]
    rfl
  · simp only [MemSys.granState, hclass, hpoison]
    rfl

theorem granState_eq_mismatch_iff {m : MemSys} {g dpa : Nat} :
    m.granState g dpa = .mismatch ↔ ∃ a ∈ granUnits g (granBase g dpa), (m.unit a).gc.toNat ≠ g := by
  unfold MemSys.granState
  dsimp only
  split
  · next hclass => simpa using hclass
  · next hclass =>
    refine iff_of_false ?_ (by simpa using hclass)
    split
    · simp
    · split <;> simp

theorem granState_eq_stored_iff {m : MemSys} {g dpa : Nat} (h : m.granState g dpa ≠ .mismatch) :
    m.granState g dpa = .stored ↔ ∃ a ∈ granUnits g (granBase g dpa), (m.unit a).poison = true := by
  unfold MemSys.granState at h ⊢
  dsimp only at h ⊢
  split at h
  · exact absurd rfl h
  · next hclass =>
    rw [if_neg hclass]
    split
    · next hpoison => simpa using hpoison
    · next hpoison =>
      refine iff_of_false ?_ (by simpa using hpoison)
      split <;> simp

/-- Every unit of a granule that is found under its class carries the class. -/
theorem class_of_units {m : MemSys} {g dpa : Nat} (h : m.granState g dpa ≠ .mismatch) {a : Nat}
    (ha : a ∈ granUnits g (granBase g dpa)) : (m.unit a).gc.toNat = g :=
  not_not.mp fun hne => h (granState_eq_mismatch_iff.mpr ⟨a, ha, hne⟩)

theorem granState_setGran {m : MemSys} (h : tableWf UnitMeta.reset m.units = true) {g : Nat} (hg : g < 8) (dpa : Nat) (p : Bool) :
    (m.setGran g dpa p).granState g dpa = if p then .stored else .ok .clean :=
  granState_of_units fun a ha => by
    rw [unit_setGran h ha]
    exact ⟨by simpa using Nat.mod_eq_of_lt hg, rfl, rfl⟩

theorem poisoned_eq_false_iff {m : MemSys} {g dpa : Nat} : m.poisoned g dpa = false ↔ ∃ d, m.granState g dpa = .ok d := by
  unfold MemSys.poisoned
  split
  · next d hd => simp [hd]
  · next hd => simpa using hd

/-- Only the table of units says what a granule is found to be. -/
theorem granState_congr {m m' : MemSys} (h : m'.units = m.units) (g dpa : Nat) : m'.granState g dpa = m.granState g dpa := by
  have hunit : m'.unit = m.unit := funext fun a => by rw [MemSys.unit, h]; rfl
  simp only [MemSys.granState, hunit]

theorem poisoned_congr {m m' : MemSys} (h : m'.units = m.units) (g dpa : Nat) : m'.poisoned g dpa = m.poisoned g dpa := by
  simp only [MemSys.poisoned, granState_congr h]

theorem poisoned_setGran {m : MemSys} (h : tableWf UnitMeta.reset m.units = true) {g : Nat} (hg : g < 8) (dpa : Nat) (p : Bool) :
    (m.setGran g dpa p).poisoned g dpa = p := by
  cases p <;> simp [MemSys.poisoned, granState_setGran h hg]

/-! ## What a controller counts (02 R46, R47, R56; 04 R90) -/

theorem reportPf_correctable (s : State) (src die : Nat) : ∃ e, s.reportPf clsCorrectable src die = { s with errs := e } := ⟨_, rfl⟩

/-- A count reaches the stacks and the registers of errors alone. -/
theorem countGran_eq (s : State) (g dpa : Nat) :
    ∃ k e, s.countGran g dpa = { s with mem := { s.mem with stk := k }, errs := e } := by
  have hstack (f : Stack → Stack) : ∃ k e, s.modMem (·.modStack dpa f) = { s with mem := { s.mem with stk := k }, errs := e } := by
    obtain ⟨k, hk⟩ := modStack_eq s.mem dpa f
    exact ⟨k, s.errs, congrArg (fun m => { s with mem := m }) hk⟩
  have hreport (f : Stack → Stack) (src die : Nat) : ∃ k e,
      (s.modMem (·.modStack dpa f)).reportPf clsCorrectable src die = { s with mem := { s.mem with stk := k }, errs := e } := by
    obtain ⟨k, _, hk⟩ := hstack f
    obtain ⟨e, he⟩ := reportPf_correctable (s.modMem (·.modStack dpa f)) src die
    exact ⟨k, e, by rw [he, hk]⟩
  unfold State.countGran
  split
  · exact ⟨s.mem.stk, s.errs, rfl⟩
  · exact ⟨s.mem.stk, s.errs, rfl⟩
  · exact hreport ..
  · exact hreport ..
  · exact hstack _
  · exact hstack _

theorem countGran_units (s : State) (g dpa : Nat) : (s.countGran g dpa).mem.units = s.mem.units := by
  obtain ⟨k, e, h⟩ := countGran_eq s g dpa
  rw [h]

theorem countGran_of_quiet {s : State} {g dpa : Nat} (h : s.mem.granState g dpa = .ok .clean ∨ s.mem.granState g dpa = .stored) :
    s.countGran g dpa = s := by
  unfold State.countGran
  rcases h with h | h <;> rw [h]

section counts
variable {s : State} {g dpa k : Nat} (hk : stackOf dpa = k) (hlt : k < 12)
include hk hlt

theorem countGran_corrected (h : s.mem.granState g dpa = .ok .corrected) :
    (s.countGran g dpa).mem.stackAt k = (s.mem.stackAt k).countCe := by
  unfold State.countGran State.reportPf
  rw [h]
  dsimp only
  rw [report_mem]
  exact stackAt_modStack_self _ _ hk hlt

theorem countGran_bad (h : s.mem.granState g dpa = .bad) : (s.countGran g dpa).mem.stackAt k = (s.mem.stackAt k).countUe := by
  unfold State.countGran
  rw [h]
  exact stackAt_modStack_self _ _ hk hlt

theorem countGran_mismatch (h : s.mem.granState g dpa = .mismatch) :
    (s.countGran g dpa).mem.stackAt k = { (s.mem.stackAt k).countUe with gmm := true } := by
  unfold State.countGran
  rw [h]
  exact stackAt_modStack_self _ _ hk hlt

end counts

/-! ## An access names its granule by any address in it -/

@[simp] theorem granState_granBase (m : MemSys) (g dpa : Nat) : m.granState g (granBase g dpa) = m.granState g dpa := by
  simp only [MemSys.granState, granBase_granBase]

@[simp] theorem poisoned_granBase (m : MemSys) (g dpa : Nat) : m.poisoned g (granBase g dpa) = m.poisoned g dpa := by
  simp only [MemSys.poisoned, granState_granBase]

@[simp] theorem setGran_granBase (m : MemSys) (g dpa : Nat) (p : Bool) : m.setGran g (granBase g dpa) p = m.setGran g dpa p := by
  simp only [MemSys.setGran, granBase_granBase]

@[simp] theorem granWrite_granBase (m : MemSys) (g dpa : Nat) (data : List Byte) (p : Bool) :
    m.granWrite g (granBase g dpa) data p = m.granWrite g dpa data p := by
  simp only [MemSys.granWrite, setGran_granBase, granBase_granBase]

section
variable {g : Nat} (hg : g < 32)
include hg

theorem modStack_granBase (m : MemSys) (dpa : Nat) (f : Stack → Stack) : m.modStack (granBase g dpa) f = m.modStack dpa f := by
  simp only [MemSys.modStack, stackOf_granBase hg]

theorem countGran_granBase (s : State) (dpa : Nat) : s.countGran g (granBase g dpa) = s.countGran g dpa := by
  simp only [State.countGran, granState_granBase, granBase_granBase, modStack_granBase hg, stackDie, stackOf_granBase hg]

theorem granPartial_granBase (s : State) (dpa : Nat) (et : Bool) (mask : Nat) (data : List Byte) :
    s.granPartial g (granBase g dpa) et mask data = s.granPartial g dpa et mask data := by
  simp only [State.granPartial, poisoned_granBase, granBase_granBase, countGran_granBase hg, setGran_granBase, modStack_granBase hg,
    granState_granBase]

end

/-! ## Bytes under a mask -/

theorem bitN_eq_testBit (x i : Nat) : bitN x i = x.testBit i := by
  rw [Nat.testBit_eq_decide_div_mod_eq]
  exact beq_eq_decide _ _

theorem byte_writeMasked_inside (bs : List Byte) {m : Memory} (h : Memory.wf m = true) (a mask : Nat) {i : Nat} (hi : i < bs.length) :
    Memory.byte (Memory.writeMasked m a mask bs) (a + i) = if mask.testBit i then bs[i] else Memory.byte m (a + i) := by
  induction bs generalizing m a mask i with
  | nil => exact absurd hi (Nat.not_lt_zero i)
  | cons b bs ih =>
    have hput : Memory.wf (if bitN mask 0 then Memory.setByte m a b else m) = true := by
      split
      · exact setByte_wf h a b
      · exact h
    rw [Memory.writeMasked]
    cases i with
    | zero =>
      rw [byte_writeMasked_outside bs hput _ _ _ (by omega), bitN_eq_testBit]
      split
      · exact byte_setByte_self h a b
      · rfl
    | succ i =>
      rw [show a + (i + 1) = a + 1 + i by omega, ih hput _ _ (Nat.lt_of_succ_lt_succ hi), Nat.testBit_div_two]
      simp only [List.getElem_cons_succ]
      congr 1
      split
      · exact byte_setByte_ne h b (by omega)
      · rfl

/-- The bytes that a request carries for a granule of `n` bytes. -/
def requestBytes (data : BitVec 4096) (n : Nat) : List Byte := (bytesOf 512 data).take n

theorem length_bytesOfNat (n x : Nat) : (bytesOfNat n x).length = n := by
  induction n generalizing x with
  | zero => rfl
  | succ n ih => rw [bytesOfNat, List.length_cons, ih]

theorem length_requestBytes (data : BitVec 4096) {n : Nat} (h : n ≤ 512) : (requestBytes data n).length = n := by
  rw [requestBytes, List.length_take, bytesOf, length_bytesOfNat, Nat.min_eq_left h]

theorem getElem_requestBytes (data : BitVec 4096) {n i : Nat} (h : n ≤ 512) (hi : i < (requestBytes data n).length) :
    (requestBytes data n)[i] = BitVec.ofNat 8 (data.toNat / 2 ^ (8 * i)) := by
  rw [length_requestBytes data h] at hi
  refine Option.some.inj ?_
  rw [← List.getElem?_eq_getElem, requestBytes, List.getElem?_take_of_lt hi, bytesOf, bytesOfNat_getElem? _ (by omega)]

theorem testBit_mask (mask : BitVec 512) {n i : Nat} (hi : i < n) : (mask.toNat % 2 ^ n).testBit i = mask.getLsbD i := by
  rw [Nat.testBit_mod_two_pow, decide_eq_true hi, Bool.true_and]
  rfl

end Sys2Proof.Proofs
end

section
/-! PROOFS. The memory controllers (O37). -/

namespace Sys2Proof.Proofs

open Sys2Proof Sys2Proof.Machine Sys2Proof.Claims Sys2Proof.Laws

/-! ## Requests that arrive (02 R39, R40, R53, R55) -/

/-- The request that a new access of class `gran` at `dpa` makes. -/
def arrivedReq (s : State) (dpa : Nat) (gran : BitVec 3) (op : MemOp) : MemReq :=
  { id := s.nextId, dpa := granBase gran.toNat dpa, gran := gran, op := op, reserving := false }

/-- The state in which a new request waits in the queues of its stack. -/
def enqueued (s : State) (dpa : Nat) (r : MemReq) : State :=
  (s.fresh.2.modMem fun m => m.modStack dpa fun k => { k with reqs := k.reqs ++ [r] }).timer 512 .requestReserving
    { stack := ⟨stackOf dpa % 12, Nat.mod_lt _ (by decide)⟩, id := s.nextId }

theorem enqueued_reqs (s : State) {dpa : Nat} (h : stackOf dpa < 12) (r : MemReq) :
    ((enqueued s dpa r).mem.stackAt (stackOf dpa)).reqs = (s.mem.stackAt (stackOf dpa)).reqs ++ [r] :=
  congrArg Stack.reqs (stackAt_modStack_self s.mem _ rfl h)

theorem request_fault {s : State} {dpa : Nat} (h : dpaExists dpa = false) (gran : BitVec 3) (id : Nat) (w : Bool) (op : MemOp) :
    s.request dpa gran id w op = .fault (.noSuchAddress dpa) := by
  simp [State.request, h]

section arrival
variable {s : State} {dpa : Nat} {gran : BitVec 3} {w : Bool} {op : MemOp} (he : dpaExists dpa = true) (hg : gran.toNat < 5)
include he hg

/-- A new request waits where it is held, which its granule decides, whatever its operation. -/
theorem request_waits (hw : (w || reqHeld (s.mem.stackAt (stackOf dpa)).reqs (arrivedReq s dpa gran .read)) = true) :
    s.request dpa gran 0 w op = .next (enqueued s dpa (arrivedReq s dpa gran op)) := by
  unfold State.request
  rw [he, if_neg (by simp), if_neg (by omega)]
  exact if_pos hw

theorem request_issues (hw : (w || reqHeld (s.mem.stackAt (stackOf dpa)).reqs (arrivedReq s dpa gran .read)) = false) :
    s.request dpa gran 0 w op = .next (s.performReq (arrivedReq s dpa gran op)) := by
  unfold State.request
  rw [he, if_neg (by simp), if_neg (by omega)]
  exact if_neg (ne_true_of_eq_false hw)

end arrival

/-! ## The accesses themselves (02 R39, R49, R50) -/

theorem granBytes_le {g : Nat} (h : g < 5) : granBytes g ≤ 512 :=
  Nat.mul_le_mul_left 32 (Nat.pow_le_pow_right (by decide) (by omega : g ≤ 4))

theorem performReq_read (s : State) (dpa : Nat) (gran : BitVec 3) :
    s.performReq (arrivedReq s dpa gran .read) = s.countGran gran.toNat dpa :=
  countGran_granBase (by omega) s dpa

theorem performReq_write (s : State) (dpa : Nat) (gran : BitVec 3) (data : BitVec 4096) :
    s.performReq (arrivedReq s dpa gran (.write data)) =
      s.modMem fun m => m.granWrite gran.toNat dpa (requestBytes data (granBytes gran.toNat)) false :=
  congrArg (fun m => { s with mem := m }) (granWrite_granBase ..)

/-- A whole write lays its bytes over the granule and clears poison. -/
theorem granWrite_effect {m : MemSys} (hb : Memory.wf m.bytes = true) (hu : tableWf UnitMeta.reset m.units = true) {g : Nat} (hg : g < 5)
    (dpa : Nat) (data : BitVec 4096) :
    let m' := m.granWrite g dpa (requestBytes data (granBytes g)) false
    m'.poisoned g dpa = false ∧
      (∀ j, (j < granBase g dpa ∨ granBase g dpa + granBytes g ≤ j) → Memory.byte m'.bytes j = Memory.byte m.bytes j) ∧
      ∀ i < granBytes g, Memory.byte m'.bytes (granBase g dpa + i) = BitVec.ofNat 8 (data.toNat / 2 ^ (8 * i)) := by
  have hlen := length_requestBytes data (granBytes_le hg)
  refine ⟨?_, fun j hj => byte_write_outside _ hb _ j (by rw [hlen]; exact hj), fun i hi => ?_⟩
  · exact (poisoned_congr rfl g dpa).trans (poisoned_setGran hu (by omega) dpa false)
  · exact (byte_write_inside _ hb _ i (by rw [hlen]; exact hi)).trans (getElem_requestBytes data (granBytes_le hg) _)

/-- What a partial write lays its bytes over: the granule as it stands, or zeros where a substitution is made. -/
def underlay (s : State) (g dpa : Nat) (et : Bool) : Memory :=
  if s.mem.poisoned g dpa && et then Memory.write s.mem.bytes (granBase g dpa) (List.replicate (granBytes g) 0) else s.mem.bytes

section partialWrite
variable {s : State} {g dpa : Nat}

theorem granPartial_bytes (et : Bool) (mask : Nat) (data : List Byte) :
    (s.granPartial g dpa et mask data).2.mem.bytes = Memory.writeMasked (underlay s g dpa et) (granBase g dpa) mask data := by
  unfold State.granPartial underlay
  cases hp : s.mem.poisoned g dpa
  · simp [countGran_bytes]
  · cases et
    · simp [modStack_bytes]
    · simp [countGran_bytes]

theorem granPartial_substitutes (et : Bool) (mask : Nat) (data : List Byte) :
    (s.granPartial g dpa et mask data).1 = (s.mem.poisoned g dpa && et) := by
  unfold State.granPartial
  cases s.mem.poisoned g dpa <;> cases et <;> rfl

theorem granPartial_poisoned (hu : tableWf UnitMeta.reset s.mem.units = true) (hg : g < 8) (et : Bool) (mask : Nat) (data : List Byte) :
    (s.granPartial g dpa et mask data).2.mem.poisoned g dpa = (s.mem.poisoned g dpa && !et) := by
  have hcount : tableWf UnitMeta.reset (s.countGran g dpa).mem.units = true := by rw [countGran_units, hu]
  have hclear : ((s.countGran g dpa).mem.setGran g dpa false).poisoned g dpa = false := poisoned_setGran hcount hg dpa false
  unfold State.granPartial
  cases s.mem.poisoned g dpa
  · exact (poisoned_congr rfl g dpa).trans hclear
  · cases et
    · refine Eq.trans (poisoned_congr ?_ g dpa) (poisoned_setGran hu hg dpa true)
      exact modStack_units ..
    · exact (poisoned_congr rfl g dpa).trans hclear

theorem granPartial_poisonedCounts (hk : stackOf dpa < 12) (h : s.mem.poisoned g dpa = true) (mask : Nat) (data : List Byte) :
    let k' := (s.granPartial g dpa false mask data).2.mem.stackAt (stackOf dpa)
    k'.pzw = true ∧ k'.ue = satAdd (s.mem.stackAt (stackOf dpa)).ue 1 := by
  unfold State.granPartial
  rw [if_pos h, if_neg (by simp)]
  intro k'
  have hk' : k' = _ := stackAt_modStack_self _ _ rfl hk
  rw [hk']
  exact ⟨rfl, congrArg (fun k : Stack => satAdd k.ue 1) (stackAt_setGran ..)⟩

end partialWrite

theorem performReq_partialWrite (s : State) (dpa : Nat) (gran : BitVec 3) (et : Bool) (agent : Nat) (mask : BitVec 512) (data : BitVec 4096) :
    s.performReq (arrivedReq s dpa gran (.partialWrite et agent mask data)) =
      (let p := s.granPartial gran.toNat dpa et (mask.toNat % 2 ^ granBytes gran.toNat) (requestBytes data (granBytes gran.toNat))
       if p.1 then p.2.addSubst agent 1 else p.2) := by
  have hbase := granPartial_granBase (g := gran.toNat) (by omega) s dpa et (mask.toNat % 2 ^ granBytes gran.toNat)
    (requestBytes data (granBytes gran.toNat))
  rw [← hbase]
  rfl

theorem addSubst_mem (s : State) (agent n : Nat) : (s.addSubst agent n).mem = s.mem := by
  unfold State.addSubst
  split <;> rfl

theorem addSubst_agent (s : State) (c : Fin 192) (x : Fin 4) (n : Nat) :
    s.addSubst (4 * c.val + x.val) n = s.modCtxAt c x fun k => { k with subst := satAdd k.subst n } := by
  have hc : (4 * c.val + x.val) / 4 = c.val := by omega
  have hx : (4 * c.val + x.val) % 4 = x.val := by omega
  simp [State.addSubst, hc, hx]

/-- The bytes after a partial write: its own under the mask, the underlay elsewhere. -/
theorem byte_requestMasked {m : Memory} (h : Memory.wf m = true) (a : Nat) {n : Nat} (hn : n ≤ 512) (mask : BitVec 512) (data : BitVec 4096) :
    (∀ j, (j < a ∨ a + n ≤ j) →
      Memory.byte (Memory.writeMasked m a (mask.toNat % 2 ^ n) (requestBytes data n)) j = Memory.byte m j) ∧
    ∀ i < n, Memory.byte (Memory.writeMasked m a (mask.toNat % 2 ^ n) (requestBytes data n)) (a + i) =
      if mask.getLsbD i then BitVec.ofNat 8 (data.toNat / 2 ^ (8 * i)) else Memory.byte m (a + i) := by
  have hlen := length_requestBytes data hn
  refine ⟨fun j hj => byte_writeMasked_outside _ h _ _ j (by rw [hlen]; exact hj), fun i hi => ?_⟩
  rw [byte_writeMasked_inside _ h _ _ (by rw [hlen]; exact hi), testBit_mask mask hi, getElem_requestBytes data hn]

theorem underlay_wf {s : State} (h : Memory.wf s.mem.bytes = true) (g dpa : Nat) (et : Bool) : Memory.wf (underlay s g dpa et) = true := by
  unfold underlay
  split
  · exact write_wf _ h _
  · exact h

theorem byte_underlay_outside {s : State} (h : Memory.wf s.mem.bytes = true) {g dpa : Nat} (et : Bool) {j : Nat}
    (hj : j < granBase g dpa ∨ granBase g dpa + granBytes g ≤ j) :
    Memory.byte (underlay s g dpa et) j = Memory.byte s.mem.bytes j := by
  unfold underlay
  split
  · exact byte_write_outside _ h _ j (by simpa using hj)
  · rfl

theorem byte_underlay_inside {s : State} (h : Memory.wf s.mem.bytes = true) {g dpa : Nat} (et : Bool) {i : Nat} (hi : i < granBytes g) :
    Memory.byte (underlay s g dpa et) (granBase g dpa + i) =
      if s.mem.poisoned g dpa && et then 0 else Memory.byte s.mem.bytes (granBase g dpa + i) := by
  unfold underlay
  split
  · exact (byte_write_inside _ h _ i (by simpa using hi)).trans (List.getElem_replicate ..)
  · rfl

/-- What a partial write of a new request leaves, by what the granule held and whether the context substitutes. -/
theorem partialWrite_effect {s : State} (hb : Memory.wf s.mem.bytes = true) (hu : tableWf UnitMeta.reset s.mem.units = true) {dpa : Nat}
    (he : dpaExists dpa = true) {gran : BitVec 3} (hg : gran.toNat < 5) (et : Bool) (c : Fin 192) (x : Fin 4) (mask : BitVec 512)
    (data : BitVec 4096) :
    let g := gran.toNat
    let base := granBase g dpa
    let n := granBytes g
    let t := s.performReq (arrivedReq s dpa gran (.partialWrite et (4 * c.val + x.val) mask data))
    (∀ j, (j < base ∨ base + n ≤ j) → Memory.byte t.mem.bytes j = Memory.byte s.mem.bytes j) ∧
    (∀ i < n, mask.getLsbD i = true → Memory.byte t.mem.bytes (base + i) = BitVec.ofNat 8 (data.toNat / 2 ^ (8 * i))) ∧
    (s.mem.poisoned g dpa = false → t.mem.poisoned g dpa = false ∧ ∀ i < n, mask.getLsbD i = false →
      Memory.byte t.mem.bytes (base + i) = Memory.byte s.mem.bytes (base + i)) ∧
    (s.mem.poisoned g dpa = true → et = true → t.mem.poisoned g dpa = false ∧
      (t.ctxAt c x).subst = satAdd (s.ctxAt c x).subst 1 ∧
      ∀ i < n, mask.getLsbD i = false → Memory.byte t.mem.bytes (base + i) = 0) ∧
    (s.mem.poisoned g dpa = true → et = false → t.mem.poisoned g dpa = true ∧
      (t.mem.stackAt (stackOf dpa)).pzw = true ∧
      (t.mem.stackAt (stackOf dpa)).ue = satAdd (s.mem.stackAt (stackOf dpa)).ue 1) := by
  intro g base n t
  let p := s.granPartial g dpa et (mask.toNat % 2 ^ n) (requestBytes data n)
  have ht : t = if p.1 then p.2.addSubst (4 * c.val + x.val) 1 else p.2 := performReq_partialWrite ..
  have hmem : t.mem = p.2.mem := by
    rw [ht]
    split
    · exact addSubst_mem ..
    · rfl
  have hpoison : t.mem.poisoned g dpa = (s.mem.poisoned g dpa && !et) := by
    rw [hmem]
    exact granPartial_poisoned hu (by omega) ..
  obtain ⟨hout, hin⟩ := byte_requestMasked (underlay_wf hb g dpa et) base (granBytes_le hg) mask data
  rw [← granPartial_bytes, ← hmem] at hout hin
  have hkeep {i : Nat} (hi : i < n) (hm : mask.getLsbD i = false) : Memory.byte t.mem.bytes (base + i) =
      if s.mem.poisoned g dpa && et then 0 else Memory.byte s.mem.bytes (base + i) := by
    rw [hin i hi, hm]
    exact byte_underlay_inside hb et hi
  refine ⟨fun j hj => (hout j hj).trans (byte_underlay_outside hb et hj), fun i hi hm => by rw [hin i hi, if_pos hm], fun hp => ?_,
    fun hp het => ?_, fun hp het => ?_⟩
  · exact ⟨by rw [hpoison, hp]; rfl, fun i hi hm => by rw [hkeep hi hm, hp]; rfl⟩
  · refine ⟨by rw [hpoison, hp, het]; rfl, ?_, fun i hi hm => by rw [hkeep hi hm, hp, het]; rfl⟩
    have hsubst : p.1 = true := (granPartial_substitutes ..).trans (by rw [hp, het]; rfl)
    rw [ht, if_pos hsubst, addSubst_agent, ctxAt_modCtxAt_self, (contextsStand_granPartial ..).ctxAt]
  · subst het
    rw [hmem]
    exact ⟨by rw [← hmem, hpoison, hp]; rfl, granPartial_poisonedCounts (stackOf_lt_of_exists he) hp ..⟩

/-! ## A request that reserves (02 R55) -/

/-- The state in which the request that the event names is reserving, and its issue under way. -/
def reserved (s : State) (r : MemReq) : State :=
  (s.modMem fun m => m.modStack r.dpa fun k =>
    { k with reqs := modFirst (fun q => q.id == s.arg.id) (fun q => { q with reserving := true }) k.reqs }).timer 1888 r.event
    { addr := r.dpa, gran := r.gran, id := r.id }

section reserving
variable {s : State} {r : MemReq} (hr : (s.mem.stackAt s.arg.stack.val).reqs.find? (fun q => q.id == s.arg.id) = some r)
include hr

theorem requestReserving_marks : exec .requestReserving s = .next (reserved s r) := by
  show execRequestReserving s = _
  unfold execRequestReserving
  dsimp only
  rw [hr]
  rfl

theorem reserved_find? (hs : stackOf r.dpa = s.arg.stack.val) :
    ((reserved s r).mem.stackAt s.arg.stack.val).reqs.find? (fun q => q.id == s.arg.id) = some { r with reserving := true } := by
  have hmarked : (reserved s r).mem.stackAt s.arg.stack.val = _ := stackAt_modStack_self s.mem _ hs s.arg.stack.isLt
  rw [hmarked, find?_modFirst (f := fun q : MemReq => { q with reserving := true }) (fun _ => rfl), hr]
  rfl

end reserving

/-! ## The patrol (02 R49, R52) -/

/-- The next granule that the scrubber reads is the first behind this one, at most 16 units on. -/
theorem scrubStep_first (m : MemSys) (dpa : Nat) :
    let k := m.scrubStep dpa
    let unit (i : Nat) : Nat := dpa - dpa % 32 + 32 * i
    1 ≤ k ∧ k ≤ 16 ∧ (∀ i, 1 ≤ i → i < k → m.scrubHead (unit i) = false) ∧ (k < 16 → m.scrubHead (unit k) = true) := by
  intro k unit
  have hk : k = ((((List.range 16).find? fun i => m.scrubHead (unit (i + 1))).map (· + 1)).getD 16) := by
    show m.scrubStep dpa = _
    rw [MemSys.scrubStep, List.find?_map]
    rfl
  cases hfind : (List.range 16).find? fun i => m.scrubHead (unit (i + 1)) with
  | none =>
    rw [hfind] at hk
    have hk16 : k = 16 := hk
    rw [List.find?_range_eq_none] at hfind
    refine ⟨by omega, by omega, fun i hi hlt => ?_, fun hlt => absurd hlt (by omega)⟩
    have := hfind (i - 1) (by omega)
    rw [Nat.sub_add_cancel hi] at this
    simpa using this
  | some j =>
    rw [hfind] at hk
    have hkj : k = j + 1 := hk
    obtain ⟨hj, hmem, hbefore⟩ := List.find?_range_eq_some.mp hfind
    have hj16 : j < 16 := List.mem_range.mp hmem
    refine ⟨by omega, by omega, fun i hi hlt => ?_, fun _ => by rw [hkj]; exact hj⟩
    have := hbefore (i - 1) (by omega)
    rw [Nat.sub_add_cancel hi] at this
    simpa using this

/-- A scrub reaches memory and the registers of errors alone, and no byte. -/
theorem scrub_eq (s : State) (dpa : Nat) : ∃ m e, s.scrub dpa = { s with mem := m, errs := e } ∧ m.bytes = s.mem.bytes := by
  have hrewrite (l : List Nat) (p : Bool) : ∃ m e,
      (s.countGran (s.mem.unit dpa).gc.toNat dpa).modMem (·.rewriteUnits l p) = { s with mem := m, errs := e } ∧
        m.bytes = s.mem.bytes := by
    obtain ⟨k, e, hc⟩ := countGran_eq s (s.mem.unit dpa).gc.toNat dpa
    refine ⟨{ s.mem with stk := k }.rewriteUnits l p, e, ?_, rewriteUnits_bytes ..⟩
    rw [hc]
    rfl
  unfold State.scrub
  dsimp only
  split
  · exact ⟨s.mem, s.errs, rfl, rfl⟩
  split
  · exact ⟨_, s.errs, rfl, (rewriteUnits_bytes ..).trans (modStack_bytes ..)⟩
  split
  · exact ⟨s.mem, s.errs, rfl, rfl⟩
  · exact hrewrite ..
  · exact hrewrite ..

section scrub
variable {s : State} {g dpa : Nat} (hg : (s.mem.unit dpa).gc.toNat = g)
include hg

theorem scrubUnits_of_class (h : s.mem.granState g dpa ≠ .mismatch) : s.mem.scrubUnits dpa = granUnits g (granBase g dpa) := by
  subst hg
  exact List.filter_eq_self.mpr fun a ha => beq_iff_eq.mpr (class_of_units h ha)

theorem scrub_of_stored (h : s.mem.granState g dpa = .stored) : s.scrub dpa = s := by
  have hpoison : (s.mem.scrubUnits dpa).any (fun a => (s.mem.unit a).poison) = true := by
    rw [scrubUnits_of_class hg (by rw [h]; simp)]
    exact List.any_eq_true.mpr (((granState_eq_stored_iff (by rw [h]; simp)).mp h))
  exact if_pos hpoison

/-- A granule under its class that holds no poison is scrubbed as it decodes. -/
theorem scrub_of_plain (hm : s.mem.granState g dpa ≠ .mismatch) (hs : s.mem.granState g dpa ≠ .stored) :
    (s.mem.granState g dpa = .ok .clean → s.scrub dpa = s) ∧
    (s.mem.granState g dpa = .ok .corrected →
      s.scrub dpa = (s.countGran g dpa).modMem fun m => m.rewriteUnits (granUnits g (granBase g dpa)) false) ∧
    (s.mem.granState g dpa = .bad →
      s.scrub dpa = (s.countGran g dpa).modMem fun m => m.rewriteUnits (granUnits g (granBase g dpa)) true) := by
  have hplain : ¬ (granUnits g (granBase g dpa)).any (fun a => (s.mem.unit a).poison) = true := fun hp =>
    hs ((granState_eq_stored_iff hm).mpr (List.any_eq_true.mp hp))
  unfold State.scrub
  rw [scrubUnits_of_class hg hm, hg]
  dsimp only
  rw [if_neg hplain, if_neg (by simp [length_granUnits])]
  exact ⟨fun h => by rw [h], fun h => by rw [h], fun h => by rw [h]⟩

theorem scrub_of_quiet (h : s.mem.granState g dpa = .ok .clean ∨ s.mem.granState g dpa = .stored) : s.scrub dpa = s := by
  rcases h with h | h
  · exact (scrub_of_plain hg (by rw [h]; simp) (by rw [h]; simp)).1 h
  · exact scrub_of_stored hg h

omit hg in
/-- Units that the scrub rewrites are found clean then, or as stored poison. -/
theorem granState_scrubbed (hu : tableWf UnitMeta.reset s.mem.units = true) (h : s.mem.granState g dpa ≠ .mismatch) (p : Bool) :
    ((s.countGran g dpa).mem.rewriteUnits (granUnits g (granBase g dpa)) p).granState g dpa = if p then .stored else .ok .clean := by
  have hunits := countGran_units s g dpa
  refine granState_of_units fun a ha => ?_
  rw [unit_rewriteUnits (by rw [hunits, hu]) ha]
  exact ⟨class_of_units (by rw [granState_congr hunits]; exact h) ha, rfl, rfl⟩

theorem scrub_of_corrected (hu : tableWf UnitMeta.reset s.mem.units = true) (hk : stackOf dpa < 12)
    (h : s.mem.granState g dpa = .ok .corrected) :
    (s.scrub dpa).mem.granState g dpa = .ok .clean ∧
      ((s.scrub dpa).mem.stackAt (stackOf dpa)).ce = satAdd (s.mem.stackAt (stackOf dpa)).ce 1 := by
  rw [(scrub_of_plain hg (by rw [h]; simp) (by rw [h]; simp)).2.1 h]
  refine ⟨granState_scrubbed hu (by rw [h]; simp) false, ?_⟩
  exact congrArg Stack.ce ((stackAt_rewriteUnits ..).trans (countGran_corrected rfl hk h))

theorem scrub_of_bad (hu : tableWf UnitMeta.reset s.mem.units = true) (hk : stackOf dpa < 12) (h : s.mem.granState g dpa = .bad) :
    (s.scrub dpa).mem.granState g dpa = .stored ∧
      ((s.scrub dpa).mem.stackAt (stackOf dpa)).ue = satAdd (s.mem.stackAt (stackOf dpa)).ue 1 := by
  rw [(scrub_of_plain hg (by rw [h]; simp) (by rw [h]; simp)).2.2 h]
  refine ⟨granState_scrubbed hu (by rw [h]; simp) true, ?_⟩
  exact congrArg Stack.ue ((stackAt_rewriteUnits ..).trans (countGran_bad rfl hk h))

end scrub

section patrol
variable {s : State} (he : dpaExists s.arg.addr = true)
include he

theorem patrolScrub_asleep (hd : s.power.d3hot = true) : exec .patrolScrub s = .next (s.timer scrubTicks .patrolScrub s.arg) := by
  show execPatrolScrub s = _
  simp [execPatrolScrub, he, hd]

theorem patrolScrub_busy (hd : s.power.d3hot = false)
    (hq : s.mem.queued (s.mem.unit s.arg.addr).gc.toNat s.arg.addr 1 = true) :
    exec .patrolScrub s = .next (s.timer 2 .patrolScrub s.arg) := by
  show execPatrolScrub s = _
  simp [execPatrolScrub, he, hd, hq]

theorem patrolScrub_scrubs (hd : s.power.d3hot = false)
    (hq : s.mem.queued (s.mem.unit s.arg.addr).gc.toNat s.arg.addr 1 = false) :
    ∃ t, exec .patrolScrub s = .next t ∧ t.mem = (s.scrub s.arg.addr).mem ∧
      (s.arg.flag = true → t = (s.scrub s.arg.addr).scrubNext s.arg.addr) ∧ (s.arg.flag = false → t = s.scrub s.arg.addr) := by
  have hexec : exec .patrolScrub s =
      .next (if s.arg.flag then (s.scrub s.arg.addr).scrubNext s.arg.addr else s.scrub s.arg.addr) := by
    show execPatrolScrub s = _
    simp [execPatrolScrub, he, hd, hq]
  refine ⟨_, hexec, ?_, fun hf => if_pos hf, fun hf => if_neg (by rw [hf]; simp)⟩
  split <;> rfl

end patrol

/-- Where the patrol goes on to, and when. -/
theorem scrubNext_first (s : State) (dpa : Nat) :
    let t := (s.scrub dpa).scrubNext dpa
    let unit (i : Nat) : Nat := dpa - dpa % 32 + 32 * i
    ∃ k, 1 ≤ k ∧ k ≤ 16 ∧ (∀ i, 1 ≤ i → i < k → t.mem.scrubHead (unit i) = false) ∧ (k < 16 → t.mem.scrubHead (unit k) = true) ∧
      t.timers = s.timers ++ [(s.now + scrubTicks * k, .patrolScrub,
        ({ addr := if stackOf (unit k) = stackOf dpa then unit k else stackOf dpa * 2 ^ 36, flag := true } : EvArgs))] := by
  intro t unit
  obtain ⟨hone, hle, hbefore, hhead⟩ := scrubStep_first (s.scrub dpa).mem dpa
  obtain ⟨m, e, hs, -⟩ := scrub_eq s dpa
  have htimers : (s.scrub dpa).timers = s.timers ∧ (s.scrub dpa).now = s.now := by rw [hs]; exact ⟨rfl, rfl⟩
  refine ⟨_, hone, hle, hbefore, hhead, ?_⟩
  rw [← htimers.1, ← htimers.2]
  rfl

section arrivals
variable {s : State} (he : dpaExists s.arg.addr = true) (hg : s.arg.gran.toNat < 5) (hid : s.arg.id = 0) {op : MemOp}
include he hg hid

/-- A new request of an event waits where it is held. -/
theorem arrival_waits {e : Instr} (hexec : exec e s = s.request s.arg.addr s.arg.gran s.arg.id s.arg.flag2 op)
    (hop : (arrivedReq s s.arg.addr s.arg.gran op).event = e)
    (hw : (s.arg.flag2 || reqHeld (s.mem.stackAt (stackOf s.arg.addr)).reqs (arrivedReq s s.arg.addr s.arg.gran .read)) = true) :
    ∃ t r, exec e s = .next t ∧ t.mem.bytes = s.mem.bytes ∧
      (t.mem.stackAt (stackOf s.arg.addr)).reqs = (s.mem.stackAt (stackOf s.arg.addr)).reqs ++ [r] ∧ r.reserving = false ∧
      r.id = s.nextId ∧ r.dpa = granBase s.arg.gran.toNat s.arg.addr ∧ r.event = e ∧
      t.timers = s.timers ++ [(s.now + 512, .requestReserving,
        ({ stack := ⟨stackOf s.arg.addr % 12, Nat.mod_lt _ (by decide)⟩, id := r.id } : EvArgs))] := by
  refine ⟨enqueued s s.arg.addr (arrivedReq s s.arg.addr s.arg.gran op), _, ?_, modStack_bytes ..,
    enqueued_reqs s (stackOf_lt_of_exists he) _, rfl, rfl, rfl, hop, rfl⟩
  rw [hexec, hid, request_waits he hg hw]

/-- A new request of an event that nothing holds performs its access. -/
theorem arrival_issues {e : Instr} (hexec : exec e s = s.request s.arg.addr s.arg.gran s.arg.id s.arg.flag2 op)
    (hw : (s.arg.flag2 || reqHeld (s.mem.stackAt (stackOf s.arg.addr)).reqs (arrivedReq s s.arg.addr s.arg.gran .read)) = false) :
    exec e s = .next (s.performReq (arrivedReq s s.arg.addr s.arg.gran op)) := by
  rw [hexec, hid, request_issues he hg hw]

end arrivals

/-- Settles O37: an access by what its request finds in its queues and in its granule, and the patrol by what the scrub finds. -/
theorem controllerEvents : Obligations.ControllerEvents := by
  intro s a g base n k at_ waits bytesKept outside
  refine ⟨fun he => ?_, fun he hg hid hw => ?_, fun he hg hid hw => ⟨?_, fun hb hu => ⟨?_, ?_⟩⟩, fun r hr hs => ?_, ?_⟩
  · exact ⟨request_fault he .., request_fault he .., request_fault he .., if_pos (by rw [he]; rfl)⟩
  · intro e hmem
    simp only [List.mem_cons, List.not_mem_nil, or_false] at hmem
    rcases hmem with rfl | rfl | rfl
    · exact arrival_waits he hg hid rfl rfl hw
    · exact arrival_waits he hg hid rfl rfl hw
    · exact arrival_waits he hg hid rfl rfl hw
  · have hlt := stackOf_lt_of_exists he
    refine ⟨s.countGran g a.addr, ?_, countGran_bytes .., countGran_units .., fun h => countGran_of_quiet (.inl h),
      fun h => congrArg Stack.ce (countGran_corrected rfl hlt h), fun h => congrArg Stack.ue (countGran_bad rfl hlt h),
      fun h => ?_⟩
    · rw [arrival_issues he hg hid rfl hw, performReq_read]
    · have hk : at_ (s.countGran g a.addr) = _ := countGran_mismatch rfl hlt h
      exact hk ▸ ⟨rfl, rfl⟩
  · obtain ⟨hpoison, hout, hin⟩ := granWrite_effect hb hu hg a.addr a.data
    refine ⟨s.modMem fun m => m.granWrite g a.addr (requestBytes a.data n) false, ?_, hpoison, hout, hin⟩
    rw [arrival_issues he hg hid rfl hw, performReq_write]
  · exact ⟨_, arrival_issues he hg hid rfl hw, partialWrite_effect hb hu he hg a.flag a.core a.ctx a.mask a.data⟩
  · exact ⟨reserved s r, _, requestReserving_marks hr, modStack_bytes .., reserved_find? hr hs, rfl, rfl⟩
  · intro gc again he hu
    refine ⟨patrolScrub_asleep he, patrolScrub_busy he, fun hd hq => ?_⟩
    have hlt := stackOf_lt_of_exists he
    obtain ⟨t, hexec, hmem, hnext, hstill⟩ := patrolScrub_scrubs he hd hq
    refine ⟨t, hexec, ?_, fun hf => ?_, fun h => ?_, fun h => ?_, fun h => ?_⟩
    · obtain ⟨m, e, hscrub, hbytes⟩ := scrub_eq s a.addr
      show t.mem.bytes = s.mem.bytes
      rw [hmem, hscrub, hbytes]
    · rw [hnext hf]
      exact scrubNext_first s a.addr
    · rw [scrub_of_quiet rfl h] at hmem hstill
      exact ⟨hmem, hstill⟩
    · simp only [at_, hmem]
      exact scrub_of_corrected rfl hu hlt h
    · simp only [at_, hmem]
      exact scrub_of_bad rfl hu hlt h

end Sys2Proof.Proofs
end

section
/-! PROOFS. Every instruction completes, and only a controller stops (O57). -/

namespace Sys2Proof.Proofs

open Sys2Proof Sys2Proof.Machine Sys2Proof.Claims Sys2Proof.Laws

/-- The operation answers a next state. -/
def Completes (r : Res) : Prop := ∃ t, r = .next t

theorem completes_next (t : State) : Completes (.next t) := ⟨t, rfl⟩

/-! ## The shared operations -/

section shared
variable (s : State)

@[simp] theorem completes_guarded (check : State → Check) (perform : State → State) : Completes (guarded check perform s) := by
  obtain ⟨t, ht, -⟩ := guarded_cases check perform s
  exact ⟨t, ht⟩

@[simp] theorem completes_compare (cc : Nat) (a b : Word) : Completes (s.compare cc a b) := completes_guarded s ..

@[simp] theorem completes_vote (sl : VSlot) (b : Bool) : Completes (s.vote sl b) := completes_guarded s ..

@[simp] theorem completes_dieRequest (event : Instr) (kind : DirReqKind) (caching : Bool) :
    Completes (s.dieRequest event kind caching) := by
  unfold State.dieRequest
  dsimp only
  split
  · exact completes_next _
  · exact completes_next _

@[simp] theorem completes_engineStep (work : Job → State → Work) : Completes (s.engineStep work) := by
  unfold State.engineStep
  repeat' first | exact completes_next _ | split

@[simp] theorem completes_served (m : FinzonMsg) (n : Need) (work : RemoteWin → State → Done State) :
    Completes (s.served m n work) := by
  unfold State.served
  repeat' first | exact completes_next _ | split

@[simp] theorem completes_answered (event : Instr) (m : FinzonMsg) (work : Job → State → State) :
    Completes (s.answered event m work) := by
  unfold State.answered
  dsimp only
  repeat' first | exact completes_next _ | split

@[simp] theorem completes_posted (event : Instr) (perform : State → State) : Completes (s.posted event perform) := by
  unfold State.posted
  repeat' first | exact completes_next _ | split

@[simp] theorem completes_attest (work : State → State) : Completes (s.attest work) := by
  unfold State.attest
  split
  · exact completes_next _
  · exact completes_next _

@[simp] theorem completes_recover (work : State → State) : Completes (s.recover work) := by
  unfold State.recover
  split
  · exact completes_next _
  · exact completes_next _

end shared

/-! ## Every arm -/

/-- An operation of a slot answers at once, or behind its check. -/
theorem completes_operation {i : Instr} (hi : i.slot ≠ none) (s : State) : Completes (exec i s) := by
  cases i
  case sAddReg | sAddImm | sSub | sMulReg | sMulImm | sMulh | sDiv | sRem | sAndReg | sAndImm | sOrReg | sOrImm | sXorReg |
    sXorImm | sShlReg | sShlImm | sShrReg | sShrImm | sSarReg | sSarImm | sMinReg | sMinImm | sMaxReg | sMaxImm | sSel | sLi |
    sLih | sAddsc | sGetc | sSetc | sJmp | sJal | sJbank | sMark | sTrap | sYield | sHalt | vAdd | vSub | vMul | vFma | vMin |
    vMax | vAbs | vAnd | vOr | vXor | vShlVec | vShrVec | vSarVec | vShlImm | vShrImm | vSarImm | vCmpEq | vCmpNe | vCmpLt |
    vCmpLe | vCmpGt | vCmpGe | vCvt | vRq | vScacc | vPerm | vRot | vBcast | vIota | vExt | vRsum | vRmin | vRmax | vScan |
    vRcp | vRsq | vExp2 | vLog2 | vThrcnt | vThrsel | vGnorm | kAnd | kOr | kNot | kPop | pf | res | yWfe | ySev | yLeaveRel =>
    exact completes_next _
  case sCmpEqReg | sCmpNeReg | sCmpLtReg | sCmpLeReg | sCmpGtReg | sCmpGeReg | sCmpLtuReg | sCmpLeuReg | sCmpGtuReg |
    sCmpGeuReg | sCmpEqImm | sCmpNeImm | sCmpLtImm | sCmpLeImm | sCmpGtImm | sCmpGeImm | sCmpLtuImm | sCmpLeuImm | sCmpGtuImm
    | sCmpGeuImm =>
    simp only [exec, execSCmpEqReg, execSCmpNeReg, execSCmpLtReg, execSCmpLeReg, execSCmpGtReg, execSCmpGeReg, execSCmpLtuReg,
      execSCmpLeuReg, execSCmpGtuReg, execSCmpGeuReg, execSCmpEqImm, execSCmpNeImm, execSCmpLtImm, execSCmpLeImm,
      execSCmpGtImm, execSCmpGeImm, execSCmpLtuImm, execSCmpLeuImm, execSCmpGtuImm, execSCmpGeuImm, completes_compare]
  case vAny | vAll =>
    simp only [exec, execVAny, execVAll, completes_vote]
  case cpCancel | cpStat =>
    simp only [exec, execCpCancel, execCpStat]
    repeat' first | exact completes_next _ | split
  case sJr | sLoopReg | sLoopImm | sTret | ldS | ldSB | ldV | ldVB | ldVt | ldG | ldBc | ldK | stS | stV | stVt | stSc |
    amoAdd | amoMin | amoMax | amoAnd | amoOr | amoXor | amoSwap | amoCas | mAcq | mRel | mMode | mLdb | mLdbEdge | mLdbx |
    mMma | mZero | mZpc | mBind | mDrainWrap | mDrainSat | mDrainRq | mDrainFlt | mSpill | mFill | mTopo | mWait | cpCopy |
    cpGath | cpScat | cpFill | cpExpand | cpSeal | cpGal | cpColl | cpCkpt | cpJob | yPost | yWait | yWaitSig | yFenceAcq |
    yFenceRel | yFenceAr | yBar | yBarw | ySig | ySplit | ySwap | yIfence | yTsrinv | yTsrinvAll | yQsub | yQsubRe | yQrun |
    yQwait | yHint | yPin | yUnpin | yPlanrd | yStatrd | yStatwr | yStatwrInv | yLeave =>
    simp only [exec, execSJr, execSLoopReg, execSLoopImm, execSTret, execLdS, execLdSB, execLdV, execLdVB, execLdVt, execLdG,
      execLdBc, execLdK, execStS, execStV, execStVt, execStSc, execAmoAdd, execAmoMin, execAmoMax, execAmoAnd, execAmoOr,
      execAmoXor, execAmoSwap, execAmoCas, execMAcq, execMRel, execMMode, execMLdb, execMLdbEdge, execMLdbx, execMMma,
      execMZero, execMZpc, execMBind, execMDrainWrap, execMDrainSat, execMDrainRq, execMDrainFlt, execMSpill, execMFill,
      execMTopo, execMWait, execCpCopy, execCpGath, execCpScat, execCpFill, execCpExpand, execCpSeal, execCpGal, execCpColl,
      execCpCkpt, execCpJob, execYPost, execYWait, execYWaitSig, execYFenceAcq, execYFenceRel, execYFenceAr, execYBar,
      execYBarw, execYSig, execYSplit, execYSwap, execYIfence, execYTsrinv, execYTsrinvAll, execYQsub, execYQsubRe, execYQrun,
      execYQwait, execYHint, execYPin, execYUnpin, execYPlanrd, execYStatrd, execYStatwr, execYStatwrInv, execYLeave,
      completes_guarded]
  all_goals exact absurd rfl hi

/-- The events of the memory controllers. -/
def OfController (i : Instr) : Prop := i = .granuleRead ∨ i = .granuleWrite ∨ i = .granulePartialWrite ∨ i = .patrolScrub

/-- An event of the part that is not a controller's answers at once, through a shared operation, or at the end of each of its branches. -/
theorem completes_event {i : Instr} (hs : i.slot = none) (hi : ¬ OfController i) (s : State) : Completes (exec i s) := by
  cases i
  case granuleRead => exact absurd (.inl rfl) hi
  case granuleWrite => exact absurd (.inr (.inl rfl)) hi
  case granulePartialWrite => exact absurd (.inr (.inr (.inl rfl))) hi
  case patrolScrub => exact absurd (.inr (.inr (.inr rfl))) hi
  case coldReset | warmReset | functionLevelResetVf | functionLevelResetPf | d0Return | droopDetect | thermalHot |
    criticalTrip | tripRecovery | governorTick | limitHalveExcursion | leaveRequest | leaveGrant | supplyGlitch |
    tamperMeshBroken | dieLinkFailure | migrd | wbm | eve | snpinv | snpshr | snpcur | backinv | wback | retry | regr | regw |
    hotTablePeriodEnd | migrationWindowEnd | finzonPortChange | kernel | barrierAnd | barrierOr | copy | signal | plan |
    queueEnable | queueDisable | queueReset | fwpatchCancel | mbcmdReserved | tlbiGo | waitSatisfied | signalWaitRepoll |
    resultWriteback | splitDrainEnd | dieLinkRetry | finzonReservedType | hostLinkTraining =>
    exact completes_next _
  case rds | rde | upg | ncrd | ncwr =>
    simp only [exec, execRds, execRde, execUpg, execNcrd, execNcwr, completes_dieRequest]
  case engineCopy | engineGather | engineScatter | engineFill | engineExpand | engineSeal | engineGalleryLoad |
    engineCollective | engineCheckpoint | engineRestore | engineRemoteAtomic =>
    simp only [exec, execEngineCopy, execEngineGather, execEngineScatter, execEngineFill, execEngineExpand, execEngineSeal,
      execEngineGalleryLoad, execEngineCollective, execEngineCheckpoint, execEngineRestore, execEngineRemoteAtomic,
      completes_engineStep]
  case finzonPut | finzonGet | finzonAtomic | finzonCollective =>
    simp only [exec, execFinzonPut, execFinzonGet, execFinzonAtomic, execFinzonCollective, completes_served]
  case finzonGetData | finzonAtomicResult =>
    simp only [exec, execFinzonGetData, execFinzonAtomicResult, completes_answered]
  case hostWindowWrite | nwake =>
    simp only [exec, execHostWindowWrite, execNwake, completes_posted]
  case attOpen | attQuote | attClose =>
    simp only [exec, execAttOpen, execAttQuote, execAttClose, completes_attest]
  case recBegin | recPiece | recEnd =>
    simp only [exec, execRecBegin, execRecPiece, execRecEnd, completes_recover]
  case registerWrite =>
    simp only [exec, execRegisterWrite]
    split
    · exact completes_next _
    · simp only [completes_posted]
  case bringupStepDone | d3hotEntry | leaveAging | requestReserving | snoopAnswer | coreCapacityTimeout |
    engineCapacityTimeout | directorySweep | migrationSwitch | atsInvalidation | finzonAck | finzonNak | finzonTransit |
    finzonResendTimeout | minorFrame | gridComplete | landingTimeout | fwpatchGo | patchApply =>
    simp only [exec, execBringupStepDone, execD3hotEntry, execLeaveAging, execRequestReserving, execSnoopAnswer,
      execCoreCapacityTimeout, execEngineCapacityTimeout, execDirectorySweep, execMigrationSwitch, execAtsInvalidation,
      execFinzonAck, execFinzonNak, execFinzonTransit, execFinzonResendTimeout, execMinorFrame, execGridComplete,
      execLandingTimeout, execFwpatchGo, execPatchApply]
    repeat' first | exact completes_next _ | split
  case save | restore | resume | teamPlacement | contextSwitch | contextTakeRecord | eviction | balanceExchange |
    quantumBoundary | replayReady | bundleIssue | interlockArrival =>
    simp only [exec, execSave, execRestore, execResume, execTeamPlacement, execContextSwitch, execContextTakeRecord,
      execEviction, execBalanceExchange, execQuantumBoundary, execReplayReady, execBundleIssue, execInterlockArrival]
    repeat' first | exact completes_next _ | split
  case jobCardEntry | jobDispatch | plannedMatrixWork | jobComplete | sealComplete | matrixCommandComplete | planningEnd |
    planBreak | planComplete | dataToRequester | registrationAnswer =>
    simp only [exec, execJobCardEntry, execJobDispatch, execPlannedMatrixWork, execJobComplete, execSealComplete,
      execMatrixCommandComplete, execPlanningEnd, execPlanBreak, execPlanComplete, execDataToRequester,
      execRegistrationAnswer]
    repeat' first | exact completes_next _ | split
  all_goals cases hs

/-! ## The controllers -/

/-- A request to a controller stops at an address in no stack, and completes at any other. -/
theorem request_completes_or_faults (s : State) (dpa : Nat) (gran : BitVec 3) (id : Nat) (w : Bool) (op : MemOp) :
    (dpaExists dpa = true → Completes (s.request dpa gran id w op)) ∧
      (dpaExists dpa = false → s.request dpa gran id w op = .fault (.noSuchAddress dpa)) := by
  refine ⟨fun he => ?_, fun he => request_fault he ..⟩
  simp only [State.request, he, Bool.not_true, Bool.false_eq_true, if_false]
  repeat' first | exact completes_next _ | split

theorem exec_ofController {i : Instr} (hi : OfController i) (s : State) :
    (dpaExists s.arg.addr = true → Completes (exec i s)) ∧
      (dpaExists s.arg.addr = false → exec i s = .fault (.noSuchAddress s.arg.addr)) := by
  rcases hi with rfl | rfl | rfl | rfl
  · exact request_completes_or_faults ..
  · exact request_completes_or_faults ..
  · exact request_completes_or_faults ..
  · refine ⟨fun he => ?_, fun he => if_pos (by rw [he]; rfl)⟩
    simp only [exec, execPatrolScrub, he, Bool.not_true, Bool.false_eq_true, if_false]
    repeat' first | exact completes_next _ | split

/-- Settles O57: of the controllers' events by whether the address exists, and of all else by its arm. -/
theorem onlyControllersStop : Obligations.OnlyControllersStop := by
  intro i s
  have hcases : Completes (exec i s) ∨
      OfController i ∧ dpaExists s.arg.addr = false ∧ exec i s = .fault (.noSuchAddress s.arg.addr) := by
    by_cases hi : OfController i
    · obtain ⟨hnext, hfault⟩ := exec_ofController hi s
      cases he : dpaExists s.arg.addr
      · exact .inr ⟨hi, rfl, hfault he⟩
      · exact .inl (hnext he)
    · by_cases hs : i.slot = none
      · exact .inl (completes_event hs hi s)
      · exact .inl (completes_operation hs s)
  rcases hcases with ⟨t, ht⟩ | ⟨hi, he, hfault⟩
  · exact ⟨fun r => by simp [ht], fun _ _ _ _ => ⟨t, ht⟩, fun _ => ⟨t, ht⟩, fun f => by simp [ht]⟩
  · refine ⟨fun r => by simp [hfault], fun hr hw hp hs => ?_, fun h => absurd (he.symm.trans h) (by simp), fun f hf => ?_⟩
    · rcases hi with h | h | h | h
      · exact absurd h hr
      · exact absurd h hw
      · exact absurd h hp
      · exact absurd h hs
    · rw [hfault] at hf
      cases hf
      exact ⟨rfl, he, hi⟩

end Sys2Proof.Proofs
end

section
/-! PROOFS. Page migration (O41): a switch that is abandoned serves a write queued at another home. -/

namespace Sys2Proof.Proofs

open Sys2Proof Sys2Proof.Machine Sys2Proof.Claims

/-- A page under a move in the hot table of home 0: its address lies in stack 1, and it has been written since its copy. -/
def strayPage : HotPage := { HotPage.fresh (2 ^ 36) false 0 with move := some (1, 1, 0, 0) }

/-- The first line of the page; its home is that of stack 1. -/
def strayLine : Nat := 2 ^ 29

/-- The line's entry at its own home, where a write of the whole line has been held. -/
def heldWrite : DirEntry :=
  { DirEntry.fresh strayLine with queue := [⟨0, .ncwr (BitVec.allOnes 128) 1 0 false 0⟩] }

/-- Home 0 lists an entry of the line, which another home owns, and there the write waits; the switch of the page is due. -/
def straySwitch : State :=
  { State.reset.modMem fun m =>
      (m.modHome 0 fun h => { h with hot := [strayPage], dir := [DirEntry.fresh strayLine] }).modHome 1 fun h =>
        { h with dir := [heldWrite] } with arg := { stack := 0, addr := 2 ^ 36 } }

/-- The switch is abandoned, and serves the held write on its way out. -/
theorem straySwitch_writes : ∀ t, exec .migrationSwitch straySwitch = .next t → t.mem.bytes ≠ straySwitch.mem.bytes := by
  have hruns : (match exec .migrationSwitch straySwitch with
      | .next t => decide (t.mem.bytes ≠ straySwitch.mem.bytes)
      | _ => false) = true := by decide +kernel
  intro t ht
  rw [ht] at hruns
  exact of_decide_eq_true hruns

theorem straySwitch_page : (straySwitch.mem.home 0).hot.find? (fun q => q.page == straySwitch.arg.addr) = some strayPage := by
  decide +kernel

theorem straySwitch_dir : (straySwitch.mem.home 0).dir = [DirEntry.fresh strayLine] := by decide +kernel

/-- Refutes O41: an abandoned switch serves what waits for every line of its page that the home's directory lists. The statement asks for
an empty queue only where the line is the home's own; for a line that another home owns, whose entry a directory can list though no
event enters it there, a write that waits at that other home is performed, and memory changes. -/
theorem not_migrationEvents : ¬ Obligations.MigrationEvents := by
  intro h
  obtain ⟨-, -, -, hswitch, -⟩ := h straySwitch
  have hstable : ((straySwitch.mem.home 0).dir.any fun e => strayPage.holds e.line && !e.st.stable) = false := by
    rw [straySwitch_dir]
    decide
  have hown : ∀ e ∈ (straySwitch.mem.home 0).dir, strayPage.holds e.line = true → homeOf e.line = 0 → e.queue = [] := by
    rw [straySwitch_dir]
    decide
  obtain ⟨-, hsettled⟩ := hswitch strayPage 1 1 0 0 rfl straySwitch_page rfl (by decide) (by decide)
  obtain ⟨habandon, -⟩ := hsettled hstable hown
  obtain ⟨t, q, hexec, -, -, -, -, -, hbytes, -⟩ := habandon (.inl (by decide))
  exact straySwitch_writes t hexec hbytes

end Sys2Proof.Proofs
end

section
/-! SUPPORT. Homes and their directories: what a lookup finds after an entry is put, used or aged, what depends on the directories alone,
and when a home has nothing more to serve for a line (03 R63, R66, R67). -/

namespace Sys2Proof.Proofs

open Sys2Proof Sys2Proof.Machine Sys2Proof.Claims Sys2Proof.Laws

/-! ## Homes -/

theorem homeOf_lt {line : Nat} (h : homed line) : homeOf line < 12 := Nat.div_lt_of_lt_mul (by simpa [homed, Nat.mul_comm] using h)

theorem home_modHome_self (m : MemSys) {k : Nat} (f : Home → Home) (h : k < 12) : (m.modHome k f).home k = f (m.home k) :=
  getIdx_setIdx_self _ _ _ h

theorem home_modHome_ne (m : MemSys) {j k : Nat} (f : Home → Home) (h : k ≠ j) : (m.modHome k f).home j = m.home j :=
  getIdx_setIdx_ne _ _ _ h

/-- An update of a home that is none changes nothing. -/
theorem modHome_of_not_lt (m : MemSys) {k : Nat} (f : Home → Home) (h : ¬ k < 12) : m.modHome k f = m := by
  simp [MemSys.modHome, setIdx, h]

/-- A fact about a home's field that an update keeps holds of every home after it. -/
theorem home_modHome_congr {α : Type} (g : Home → α) (m : MemSys) (k : Nat) {f : Home → Home} (hf : ∀ h, g (f h) = g h) (j : Nat) :
    g ((m.modHome k f).home j) = g (m.home j) := by
  by_cases hkj : k = j
  · subst hkj
    by_cases hk : k < 12
    · rw [home_modHome_self m f hk, hf]
    · rw [modHome_of_not_lt m f hk]
  · rw [home_modHome_ne m f hkj]

/-! ## What the directories alone decide -/

/-- Two memories have the same directories under the same epochs. -/
def SameDirs (m m' : MemSys) : Prop := m'.epochs = m.epochs ∧ ∀ k, (m'.home k).dir = (m.home k).dir

theorem SameDirs.refl (m : MemSys) : SameDirs m m := ⟨rfl, fun _ => rfl⟩

theorem SameDirs.trans {m m' m'' : MemSys} (h : SameDirs m m') (h' : SameDirs m' m'') : SameDirs m m'' :=
  ⟨h'.1.trans h.1, fun k => (h'.2 k).trans (h.2 k)⟩

theorem sameDirs_of_homes {m m' : MemSys} (hh : m'.homes = m.homes) (he : m'.epochs = m.epochs) : SameDirs m m' :=
  ⟨he, fun k => by rw [MemSys.home, hh]; rfl⟩

theorem sameDirs_modHome (m : MemSys) (k : Nat) {f : Home → Home} (hf : ∀ h, (f h).dir = h.dir) : SameDirs m (m.modHome k f) :=
  ⟨rfl, home_modHome_congr Home.dir m k hf⟩

theorem slotOpen_congr {m m' : MemSys} (h : m'.epochs = m.epochs) : m'.slotOpen = m.slotOpen :=
  funext fun x => by rw [MemSys.slotOpen, h]; rfl

theorem extOpen_congr {m m' : MemSys} (h : m'.epochs = m.epochs) : m'.extOpen = m.extOpen :=
  funext fun x => by rw [MemSys.extOpen, slotOpen_congr h]; rfl

theorem hasOpen_congr {m m' : MemSys} (h : m'.epochs = m.epochs) : m'.hasOpen = m.hasOpen :=
  funext fun e => by simp only [MemSys.hasOpen, MemSys.openWriter, MemSys.openReaders, slotOpen_congr h]

theorem entryFree_congr {m m' : MemSys} (h : m'.epochs = m.epochs) : m'.entryFree = m.entryFree :=
  funext fun e => by simp only [MemSys.entryFree, hasOpen_congr h]

theorem ways_congr {m m' : MemSys} (h : m'.epochs = m.epochs) : m'.waysOf = m.waysOf :=
  funext fun e => by simp only [MemSys.waysOf, MemSys.openWriter, slotOpen_congr h, extOpen_congr h]

section
variable {m m' : MemSys} (h : SameDirs m m') (line : Nat)
include h

theorem entry?_congr : m'.entry? line = m.entry? line := by
  simp only [MemSys.entry?, h.2, entryFree_congr h.1]

theorem setOf_congr : m'.setOf line = m.setOf line := by
  simp only [MemSys.setOf, h.2, entryFree_congr h.1]

theorem entry_congr : m'.entry line = m.entry line := by
  simp only [MemSys.entry, entry?_congr h, MemSys.freeRank, setOf_congr h, ways_congr h.1]

theorem needWays_congr : m'.needWays line = m.needWays line := by
  simp only [MemSys.needWays, entry?_congr h]

theorem room_congr (extra : Nat) : m'.room line extra = m.room line extra := by
  have hways : m'.ways = m.ways := funext fun e => by simp only [MemSys.ways, ways_congr h.1]
  have hevictable : m'.evictable = m.evictable := funext fun e => by simp only [MemSys.evictable, hasOpen_congr h.1]
  simp only [MemSys.room, setOf_congr h, MemSys.usedWays, hways, hevictable]
  rfl

end

/-! ## Entries -/

/-- Two entries agree but for their rank and their extension entries. -/
def SameLine (e e' : DirEntry) : Prop := e' = { e with age := e'.age, exts := e'.exts }

/-- Two entries differ in the ranks of their ways alone. -/
def AgedOnly (e e' : DirEntry) : Prop := SameLine e e' ∧ e'.exts.map (·.slots) = e.exts.map (·.slots)

theorem SameLine.trans {e e' e'' : DirEntry} (h : SameLine e e') (h' : SameLine e' e'') : SameLine e e'' := by
  unfold SameLine at *
  rw [h', h]

theorem AgedOnly.refl (e : DirEntry) : AgedOnly e e := ⟨rfl, rfl⟩

theorem AgedOnly.trans {e e' e'' : DirEntry} (h : AgedOnly e e') (h' : AgedOnly e' e'') : AgedOnly e e'' :=
  ⟨h.1.trans h'.1, h'.2.trans h.2⟩

theorem AgedOnly.allReaders {e e' : DirEntry} (h : AgedOnly e e') : e'.allReaders = e.allReaders := by
  obtain ⟨hline, hslots⟩ := h
  have hreaders : e'.readers = e.readers := by rw [hline]
  rw [DirEntry.allReaders, DirEntry.allReaders, hreaders, List.flatMap, List.flatMap, hslots]

theorem AgedOnly.entryFree {e e' : DirEntry} (h : AgedOnly e e') (m : MemSys) : m.entryFree e' = m.entryFree e := by
  have hreaders := h.allReaders
  obtain ⟨hline, -⟩ := h
  have hfields : e'.st = e.st ∧ e'.writer = e.writer ∧ e'.txn = e.txn ∧ e'.queue = e.queue := by
    rw [hline]
    exact ⟨rfl, rfl, rfl, rfl⟩
  obtain ⟨hst, hwriter, htxn, hqueue⟩ := hfields
  simp only [MemSys.entryFree, MemSys.hasOpen, MemSys.openWriter, MemSys.openReaders, hreaders, hst, hwriter, htxn, hqueue]

theorem entry_line (m : MemSys) (line : Nat) : (m.entry line).line = line := by
  unfold MemSys.entry
  cases hfind : m.entry? line with
  | none => rfl
  | some e =>
    have hfound := List.find?_some hfind
    simp only [Bool.and_eq_true, beq_iff_eq] at hfound
    exact hfound.1

theorem entry_of_none {m : MemSys} {line : Nat} (h : m.entry? line = none) :
    m.entry line = { DirEntry.fresh line with age := m.freeRank line } := by rw [MemSys.entry, h]; rfl

theorem entry_of_some {m : MemSys} {line : Nat} {e : DirEntry} (h : m.entry? line = some e) : m.entry line = e := by
  rw [MemSys.entry, h]
  rfl

section put
variable (m : MemSys) {e : DirEntry} (hl : homed e.line)
include hl

theorem entry?_putEntry : (m.putEntry e).entry? e.line =
    if m.entryFree e then none else some { e with exts := e.exts.filter m.extOpen } := by
  have hfree : (m.putEntry e).entryFree = m.entryFree := entryFree_congr rfl
  have hkept : m.entryFree { e with exts := e.exts.filter m.extOpen } = m.entryFree e := by
    have hslots : ∀ l : List DirExt, ((l.filter m.extOpen).flatMap (·.slots)).filter m.slotOpen = (l.flatMap (·.slots)).filter m.slotOpen := by
      intro l
      induction l with
      | nil => rfl
      | cons x l ih =>
        by_cases hx : m.extOpen x = true
        · simp only [List.filter_cons_of_pos hx, List.flatMap_cons, List.filter_append, ih]
        · have hnone : x.slots.filter m.slotOpen = [] := by
            simpa [MemSys.extOpen] using hx
          simp only [List.filter_cons_of_neg hx, List.flatMap_cons, List.filter_append, ih, hnone, List.nil_append]
    simp only [MemSys.entryFree, MemSys.hasOpen, MemSys.openWriter, MemSys.openReaders, DirEntry.allReaders, List.filter_append, hslots]
  have hrest : ((m.home (homeOf e.line)).dir.filter fun x =>
      x.line != e.line && !(dirSet x.line == dirSet e.line && m.entryFree x)).find? (fun x => x.line == e.line && !m.entryFree x) = none := by
    rw [List.find?_eq_none]
    intro x hx hmatch
    have hne := (List.mem_filter.mp hx).2
    simp only [Bool.and_eq_true, bne_iff_ne, ne_eq] at hne
    simp only [Bool.and_eq_true, beq_iff_eq] at hmatch
    exact hne.1 hmatch.1
  rw [MemSys.entry?, hfree, MemSys.putEntry, home_modHome_self _ _ (homeOf_lt hl)]
  dsimp only
  split
  · exact hrest
  · next hbusy => rw [List.find?_append, hrest]; simp [hkept, hbusy]

/-- An entry that is put is found, but for the extension entries that are free. -/
theorem entry_putEntry (hbusy : m.entryFree e = false) :
    (m.putEntry e).entry e.line = { e with exts := e.exts.filter m.extOpen } :=
  entry_of_some (by rw [entry?_putEntry m hl, hbusy]; rfl)

/-- One that is put and free is not kept, and the line is as a fresh one. -/
theorem entry_putEntry_rest :
    ((m.putEntry e).entry e.line).st = e.st ∧ ((m.putEntry e).entry e.line).queue = e.queue ∧
      ((m.putEntry e).entry e.line).txn = e.txn ∧ (e.st ≠ .i → SameLine e ((m.putEntry e).entry e.line)) := by
  cases hfree : m.entryFree e with
  | false =>
    rw [entry_putEntry m hl hfree]
    exact ⟨rfl, rfl, rfl, fun _ => rfl⟩
  | true =>
    rw [entry_of_none (by rw [entry?_putEntry m hl, hfree]; rfl)]
    simp only [MemSys.entryFree, Bool.and_eq_true, beq_iff_eq, Option.isNone_iff_eq_none, List.isEmpty_iff] at hfree
    obtain ⟨⟨⟨hst, -⟩, htxn⟩, hqueue⟩ := hfree
    exact ⟨hst.symm, hqueue.symm, htxn.symm, fun hne => absurd hst hne⟩

end put

theorem entryFree_of_st {m : MemSys} {e : DirEntry} (h : e.st ≠ .i) : m.entryFree e = false := by simp [MemSys.entryFree, h]

theorem entryFree_of_queue {m : MemSys} {e : DirEntry} (h : e.queue ≠ []) : m.entryFree e = false := by simp [MemSys.entryFree, h]

/-! ## The use of an entry (03 R63) -/

/-- A lookup through an update of the entries that one predicate selects, where no update is seen by the lookup. -/
theorem find?_modFirst_other {α : Type} {p q : α → Bool} {f : α → α} (hq : ∀ x, q (f x) = q x) (l : List α) :
    (modFirst p f l).find? q = l.find? q ∨ (modFirst p f l).find? q = (l.find? q).map f := by
  induction l with
  | nil => exact .inl rfl
  | cons a l ih =>
    unfold modFirst
    split
    · cases ha : q a with
      | true => exact .inr (by simp [hq, ha])
      | false => exact .inl (by simp [hq, ha])
    · cases ha : q a with
      | true => exact .inl (by simp [ha])
      | false => simpa [ha] using ih

section aged
variable {m m' : MemSys} {line : Nat}

/-- A line's entry in another memory differs from the one here in the ranks of its ways alone. -/
def LineAged (m m' : MemSys) (line : Nat) : Prop := Option.Rel AgedOnly (m.entry? line) (m'.entry? line)

theorem LineAged.refl (m : MemSys) (line : Nat) : LineAged m m line := by
  unfold LineAged
  cases m.entry? line with
  | none => exact .none
  | some e => exact .some (.refl e)

theorem LineAged.trans {m'' : MemSys} (h : LineAged m m' line) (h' : LineAged m' m'' line) : LineAged m m'' line := by
  unfold LineAged at *
  revert h h'
  generalize m.entry? line = a, m'.entry? line = b, m''.entry? line = c
  intro h h'
  cases h with
  | none => exact h'
  | some h =>
    cases h' with
    | some h' => exact .some (h.trans h')

theorem lineAged_map {o : Option DirEntry} {f : DirEntry → DirEntry} (hf : ∀ e, AgedOnly e (f e)) : Option.Rel AgedOnly o (o.map f) := by
  cases o with
  | none => exact .none
  | some e => exact .some (hf e)

theorem lineAged_modEntry (m : MemSys) (line : Nat) {f : DirEntry → DirEntry} (hf : ∀ e, AgedOnly e (f e)) :
    LineAged m (m.modEntry line f) line := by
  have hfree : (m.modEntry line f).entryFree = m.entryFree := entryFree_congr rfl
  have hq (e : DirEntry) : ((f e).line == line && !m.entryFree (f e)) = (e.line == line && !m.entryFree e) := by
    have hline : (f e).line = e.line := by rw [(hf e).1]
    rw [hline, (hf e).entryFree]
  by_cases hk : homeOf line < 12
  · have hfind := find?_modFirst_other (p := fun e => e.line == line) (q := fun e => e.line == line && !m.entryFree e) hq
      (m.home (homeOf line)).dir
    have hentry : (m.modEntry line f).entry? line =
        (modFirst (fun e => e.line == line) f (m.home (homeOf line)).dir).find? (fun e => e.line == line && !m.entryFree e) := by
      rw [MemSys.entry?, hfree, MemSys.modEntry, home_modHome_self _ _ hk]
    unfold LineAged
    rw [hentry]
    rcases hfind with hfind | hfind
    · rw [hfind]
      exact LineAged.refl m line
    · rw [hfind]
      exact lineAged_map hf
  · rw [MemSys.modEntry, modHome_of_not_lt m _ hk]
    exact .refl m line

theorem agedOnly_grow (e : DirEntry) (a : Nat) {f : DirExt → DirExt} (hf : ∀ x, (f x).slots = x.slots) :
    AgedOnly e { e with age := a, exts := e.exts.map f } := ⟨rfl, by simp [hf]⟩

theorem lineAged_ageSet (m : MemSys) (line old : Nat) : LineAged m (m.ageSet line old) line := by
  by_cases hk : homeOf line < 12
  · have hfree : (m.ageSet line old).entryFree = m.entryFree := entryFree_congr rfl
    unfold LineAged
    rw [MemSys.entry?, MemSys.entry?, hfree, MemSys.ageSet, home_modHome_self _ _ hk, List.find?_map]
    have hq (e : DirEntry) (f : DirEntry → DirEntry) (hf : AgedOnly e (f e)) :
        ((f e).line == line && !m.entryFree (f e)) = (e.line == line && !m.entryFree e) := by
      have hline : (f e).line = e.line := by rw [hf.1]
      rw [hline, hf.entryFree]
    generalize hg : (fun e : DirEntry => if dirSet e.line = dirSet line then _ else e) = grow
    have hgrow (e : DirEntry) : AgedOnly e (grow e) := by
      subst hg
      dsimp only
      split
      · exact agedOnly_grow e _ fun _ => rfl
      · exact .refl e
    have hsame : ((fun e : DirEntry => e.line == line && !m.entryFree e) ∘ grow) = fun e => e.line == line && !m.entryFree e :=
      funext fun e => hq e grow (hgrow e)
    rw [hsame]
    exact lineAged_map hgrow
  · rw [MemSys.ageSet, modHome_of_not_lt m _ hk]
    exact .refl m line

theorem lineAged_touch (m : MemSys) (line : Nat) : LineAged m (m.touch line) line := by
  unfold MemSys.touch
  split
  · exact .refl m line
  · exact (lineAged_ageSet ..).trans (lineAged_modEntry _ _ fun _ => ⟨rfl, rfl⟩)

theorem lineAged_touchExt (m : MemSys) (line : Nat) (slot : RaceSlot) : LineAged m (m.touchExt line slot) line := by
  unfold MemSys.touchExt
  split
  · exact .refl m line
  · refine (lineAged_ageSet ..).trans (lineAged_modEntry _ _ fun e => agedOnly_grow e _ fun x => ?_)
    split <;> rfl

theorem LineAged.entry (h : LineAged m m' line) : AgedOnly { m.entry line with age := (m'.entry line).age } (m'.entry line) := by
  unfold LineAged at h
  unfold MemSys.entry
  revert h
  generalize m.entry? line = a, m'.entry? line = b
  intro h
  cases h with
  | none => exact ⟨rfl, rfl⟩
  | some h => exact ⟨h.1, h.2⟩

end aged

theorem touch_eq (m : MemSys) (line : Nat) : ∃ v, m.touch line = { m with homes := v } := by
  unfold MemSys.touch
  split
  · exact ⟨m.homes, rfl⟩
  · exact ⟨_, rfl⟩

theorem touchExt_eq (m : MemSys) (line : Nat) (slot : RaceSlot) : ∃ v, m.touchExt line slot = { m with homes := v } := by
  unfold MemSys.touchExt
  split
  · exact ⟨m.homes, rfl⟩
  · exact ⟨_, rfl⟩

end Sys2Proof.Proofs
end

section
/-! SUPPORT. Writes of a line under a byte mask: the bytes they leave, and what they leave alone (02 R39, R50; 03 R66, R76). -/

namespace Sys2Proof.Proofs

open Sys2Proof Sys2Proof.Machine Sys2Proof.Claims Sys2Proof.Laws

/-! ## What a write of memory's bytes leaves alone -/

/-- Homes, epochs and the events on their way stand. -/
def FabricStands (s t : State) : Prop :=
  t.mem.homes = s.mem.homes ∧ t.mem.epochs = s.mem.epochs ∧ t.agenda = s.agenda

theorem FabricStands.refl (s : State) : FabricStands s s := ⟨rfl, rfl, rfl⟩

theorem FabricStands.trans {s t u : State} (h : FabricStands s t) (h' : FabricStands t u) : FabricStands s u :=
  ⟨h'.1.trans h.1, h'.2.1.trans h.2.1, h'.2.2.trans h.2.2⟩

theorem FabricStands.sameDirs {s t : State} (h : FabricStands s t) : SameDirs s.mem t.mem := sameDirs_of_homes h.1 h.2.1

theorem fabricStands_foldl {α : Type} {f : State → α → State} (h : ∀ s a, FabricStands s (f s a)) (l : List α) (s : State) :
    FabricStands s (l.foldl f s) :=
  List.foldlRecOn l f (.refl s) fun _ hb a _ => hb.trans (h _ a)

theorem fabricStands_bytes (s : State) (f : MemSys → Memory) : FabricStands s (s.modMem fun m => { m with bytes := f m }) := ⟨rfl, rfl, rfl⟩

theorem setGran_eq (m : MemSys) (g dpa : Nat) (p : Bool) : ∃ u, m.setGran g dpa p = { m with units := u } :=
  List.foldlRecOn (motive := fun m' : MemSys => ∃ u, m' = { m with units := u }) _ _ ⟨m.units, rfl⟩ fun _ ⟨_, hb⟩ _ _ => by
    subst hb
    exact ⟨_, rfl⟩

theorem setGran_homes (m : MemSys) (g dpa : Nat) (p : Bool) : (m.setGran g dpa p).homes = m.homes := by
  obtain ⟨u, hu⟩ := setGran_eq m g dpa p
  rw [hu]

theorem setGran_epochs (m : MemSys) (g dpa : Nat) (p : Bool) : (m.setGran g dpa p).epochs = m.epochs := by
  obtain ⟨u, hu⟩ := setGran_eq m g dpa p
  rw [hu]

theorem modStack_homes (m : MemSys) (dpa : Nat) (f : Stack → Stack) : (m.modStack dpa f).homes = m.homes := by
  obtain ⟨k, hk⟩ := modStack_eq m dpa f
  rw [hk]

theorem modStack_epochs (m : MemSys) (dpa : Nat) (f : Stack → Stack) : (m.modStack dpa f).epochs = m.epochs := by
  obtain ⟨k, hk⟩ := modStack_eq m dpa f
  rw [hk]

theorem fabricStands_countGran (s : State) (g dpa : Nat) : FabricStands s (s.countGran g dpa) := by
  obtain ⟨k, e, h⟩ := countGran_eq s g dpa
  rw [h]
  exact .refl s

theorem fabricStands_granWrite (s : State) (g dpa : Nat) (data : List Byte) (p : Bool) :
    FabricStands s (s.modMem fun m => m.granWrite g dpa data p) := ⟨setGran_homes .., setGran_epochs .., rfl⟩

theorem fabricStands_granPartial (s : State) (g dpa : Nat) (et : Bool) (mask : Nat) (data : List Byte) :
    FabricStands s (s.granPartial g dpa et mask data).2 := by
  have hcounted := fabricStands_countGran s g dpa
  have hset (u : State) (b : Memory) (p : Bool) : FabricStands u (u.modMem fun m => { m.setGran g dpa p with bytes := b }) :=
    ⟨setGran_homes .., setGran_epochs .., rfl⟩
  unfold State.granPartial
  dsimp only
  split
  · split
    · exact hcounted.trans (hset ..)
    · exact ⟨(modStack_homes ..).trans (setGran_homes ..), (modStack_epochs ..).trans (setGran_epochs ..), rfl⟩
  · exact hcounted.trans (hset ..)

theorem fabricStands_addSubst (s : State) (agent n : Nat) : FabricStands s (s.addSubst agent n) := by
  unfold State.addSubst
  split <;> exact .refl s

/-! ## One span of a line -/

/-- The write of the bytes of one span of a line, which lies in one granule. -/
def writeSpan (g : Nat) (et : Bool) (agent mask : Nat) (bytes : List Byte) (s : State) (c : Nat × Nat × Nat) : State :=
  let mask := bitsN mask c.2.1 c.2.2
  if mask = 0 then s
  else
    let data := (bytes.drop c.2.1).take c.2.2
    if granBytes g ≤ 128 ∧ mask = 2 ^ granBytes g - 1 then s.modMem fun m => m.granWrite g c.1 data false
    else
      let o := c.1 % granBytes g
      let r := s.granPartial g c.1 et (mask * 2 ^ o) (List.replicate o 0 ++ data)
      if r.1 then r.2.addSubst agent 1 else r.2

theorem lineWrite_eq_foldl (s : State) (g : Nat) (et : Bool) (agent line mask : Nat) (bytes : List Byte) :
    s.lineWrite g et agent line mask bytes =
      (cutAt (min 128 (granBytes g)) (line * 128) 128).foldl (writeSpan g et agent mask bytes) s := rfl

theorem fabricStands_writeSpan (g : Nat) (et : Bool) (agent mask : Nat) (bytes : List Byte) (s : State) (c : Nat × Nat × Nat) :
    FabricStands s (writeSpan g et agent mask bytes s c) := by
  unfold writeSpan
  dsimp only
  split
  · exact .refl s
  · split
    · exact fabricStands_granWrite ..
    · split
      · exact (fabricStands_granPartial ..).trans (fabricStands_addSubst ..)
      · exact fabricStands_granPartial ..

theorem fabricStands_lineWrite (s : State) (g : Nat) (et : Bool) (agent line mask : Nat) (bytes : List Byte) :
    FabricStands s (s.lineWrite g et agent line mask bytes) :=
  fabricStands_foldl (fabricStands_writeSpan g et agent mask bytes) _ s

theorem fabricStands_ownerWrite (s : State) (line : Nat) (o : OwnerData) : FabricStands s (s.ownerWrite line o) := by
  have hbad (u : State) (a : Nat) : FabricStands u (u.modMem fun m => m.setGran o.gran.toNat a true) :=
    ⟨setGran_homes .., setGran_epochs .., rfl⟩
  unfold State.ownerWrite
  exact ((fabricStands_lineWrite ..).trans (fabricStands_foldl hbad _ _)).trans (fabricStands_bytes _ _)

/-- A span lies in a granule, and in the bytes that are given for the line. -/
def SpanFits (g : Nat) (bytes : List Byte) (c : Nat × Nat × Nat) : Prop :=
  c.1 % granBytes g + c.2.2 ≤ granBytes g ∧ c.2.1 + c.2.2 ≤ bytes.length

theorem testBit_bitsN (x : Nat) {lo n i : Nat} (h : i < n) : (bitsN x lo n).testBit i = x.testBit (lo + i) := by
  rw [bitsN, Nat.testBit_mod_two_pow, decide_eq_true h, Bool.true_and, Nat.testBit_div_two_pow, Nat.add_comm]

/-- The bytes that a write leaves from `a`, `n` of them: those given, under the mask, and else those that stood there. -/
def WritesMasked (m m' : Memory) (a n : Nat) (mask : Nat → Bool) (byte : Nat → Byte) : Prop :=
  (∀ j, (j < a ∨ a + n ≤ j) → Memory.byte m' j = Memory.byte m j) ∧
  ∀ i < n, Memory.byte m' (a + i) = if mask i then byte i else Memory.byte m (a + i)

section span
variable {s : State} (hwf : Memory.wf s.mem.bytes = true) {g : Nat} {et : Bool} {bytes : List Byte} {c : Nat × Nat × Nat}
  (hfits : SpanFits g bytes c) (agent mask : Nat)
include hwf hfits

theorem writeSpan_bytes (hclean : et = true → s.mem.poisoned g c.1 = false) :
    WritesMasked s.mem.bytes (writeSpan g et agent mask bytes s c).mem.bytes c.1 c.2.2 (fun i => mask.testBit (c.2.1 + i))
      (fun i => bytes.getD (c.2.1 + i) 0) := by
  obtain ⟨a, o, n⟩ := c
  obtain ⟨hgran, hlen⟩ := hfits
  dsimp only at hgran hlen hclean ⊢
  have hdata : ((bytes.drop o).take n).length = n := by simp; omega
  have hget {i : Nat} (hi : i < n) (h : i < ((bytes.drop o).take n).length) :
      ((bytes.drop o).take n)[i] = bytes.getD (o + i) 0 := by
    rw [List.getElem_take, List.getElem_drop, List.getD_eq_getElem _ _ (by omega)]
  have hmask {i : Nat} (hi : i < n) := testBit_bitsN mask (lo := o) hi
  unfold writeSpan
  dsimp only
  split
  · next hzero =>
    refine ⟨fun _ _ => rfl, fun i hi => ?_⟩
    have hnone : mask.testBit (o + i) = false := by rw [← hmask hi, hzero, Nat.zero_testBit]
    simp [hnone]
  split
  · next hwhole =>
    have hbits : bitsN mask o n < 2 ^ n := Nat.mod_lt _ (Nat.two_pow_pos n)
    have hge : granBytes g ≤ n := by
      by_contra hlt
      have hpow : 2 ^ (n + 1) ≤ 2 ^ granBytes g := Nat.pow_le_pow_right (by decide) (by omega)
      omega
    have hn : n = granBytes g := by omega
    have hbase : granBase g a = a := by rw [granBase]; omega
    have hbyte {i : Nat} (hi : i < n) : mask.testBit (o + i) = true := by
      rw [← hmask hi, hwhole.2, Nat.testBit_two_pow_sub_one]
      exact decide_eq_true (hn ▸ hi)
    show WritesMasked s.mem.bytes (Memory.write s.mem.bytes (granBase g a) ((bytes.drop o).take n)) a n _ _
    rw [hbase]
    refine ⟨fun j hj => byte_write_outside _ hwf _ j (by rw [hdata]; exact hj), fun i hi => ?_⟩
    rw [byte_write_inside _ hwf _ i (by rw [hdata]; exact hi), hget hi, if_pos (hbyte hi)]
  · let off := a % granBytes g
    let data := List.replicate off 0 ++ (bytes.drop o).take n
    have hbase : granBase g a + off = a := Nat.sub_add_cancel (Nat.mod_le ..)
    have hunder : underlay s g a et = s.mem.bytes := by
      cases et
      · simp [underlay]
      · simp [underlay, hclean rfl]
    have hbytes : (if (s.granPartial g a et (bitsN mask o n * 2 ^ off) data).1 then
        (s.granPartial g a et (bitsN mask o n * 2 ^ off) data).2.addSubst agent 1
        else (s.granPartial g a et (bitsN mask o n * 2 ^ off) data).2).mem.bytes =
          Memory.writeMasked s.mem.bytes (granBase g a) (bitsN mask o n * 2 ^ off) data := by
      rw [← hunder, ← granPartial_bytes]
      split
      · rw [addSubst_mem]
      · rfl
    have hlength : data.length = off + n := by simp only [data, List.length_append, List.length_replicate, hdata]
    have hzero (i : Nat) (hi : i < off) : (bitsN mask o n * 2 ^ off).testBit i = false := by
      rw [Nat.testBit_mul_two_pow]
      simp [hi]
    show WritesMasked s.mem.bytes (if (s.granPartial g a et (bitsN mask o n * 2 ^ off) data).1 then
        (s.granPartial g a et (bitsN mask o n * 2 ^ off) data).2.addSubst agent 1
        else (s.granPartial g a et (bitsN mask o n * 2 ^ off) data).2).mem.bytes a n _ _
    rw [hbytes]
    refine ⟨fun j hj => ?_, fun i hi => ?_⟩
    · by_cases hin : granBase g a ≤ j ∧ j < a
      · obtain ⟨i, rfl⟩ : ∃ i, j = granBase g a + i := ⟨j - granBase g a, by omega⟩
        rw [byte_writeMasked_inside _ hwf _ _ (by omega : i < data.length), hzero i (by omega)]
        rfl
      · exact byte_writeMasked_outside _ hwf _ _ j (by omega)
    · have hshift : (bitsN mask o n * 2 ^ off).testBit (off + i) = mask.testBit (o + i) := by
        rw [Nat.testBit_mul_two_pow, ← hmask hi]
        simp
      have hpick (h : off + i < data.length) : data[off + i] = bytes.getD (o + i) 0 := by
        rw [List.getElem_append_right (by simp)]
        simp only [List.length_replicate, Nat.add_sub_cancel_left]
        exact hget hi (by omega)
      have haddr : a + i = granBase g a + (off + i) := by omega
      rw [haddr, byte_writeMasked_inside _ hwf _ _ (by omega : off + i < data.length), hshift, hpick]

end span

/-! ## Poison of another granule -/

/-- A write leaves the other keys of a table alone, whatever the table. -/
theorem tget_tset_of_ne {α : Type} [DecidableEq α] (t : Table α) {k j : Nat} (v d : α) (hj : k ≠ j) :
    tget (tset t k v d) j d = tget t j d := by
  induction t with
  | nil =>
    rw [tset]
    split
    · rfl
    · simp [tget, hj]
  | cons p r ih =>
    rw [tset]
    split
    · split
      · rfl
      · simp [tget, hj]
    · split
      · next hk =>
        have hp : p.1 ≠ j := fun h => hj (hk.trans h)
        split <;> simp [tget, hp, hj]
      · simp [tget, ih]

/-- Granules of one class that differ have no unit in common. -/
theorem units_disjoint {g dpa dpa' : Nat} (h : granBase g dpa ≠ granBase g dpa') {a b : Nat} (ha : a ∈ granUnits g (granBase g dpa))
    (hb : b ∈ granUnits g (granBase g dpa')) : a / 32 ≠ b / 32 := by
  simp only [granUnits, List.mem_map, List.mem_range] at ha hb
  obtain ⟨i, hi, rfl⟩ := ha
  obtain ⟨j, hj, rfl⟩ := hb
  rw [granBase_eq_mul_div, granBase_eq_mul_div] at h ⊢
  have hsplit (x k : Nat) : granBytes g * x + 32 * k = 32 * (2 ^ g * x + k) := by rw [granBytes]; ring
  rw [hsplit, hsplit, Nat.mul_div_cancel_left _ (by decide), Nat.mul_div_cancel_left _ (by decide)]
  intro heq
  apply h
  have hquot (x k : Nat) (hk : k < 2 ^ g) : (2 ^ g * x + k) / 2 ^ g = x := by
    rw [Nat.mul_add_div (Nat.two_pow_pos g), Nat.div_eq_of_lt hk, Nat.add_zero]
  rw [← hquot (dpa / granBytes g) i hi, ← hquot (dpa' / granBytes g) j hj, heq]

theorem granState_setGran_other (m : MemSys) {g dpa dpa' : Nat} (h : granBase g dpa ≠ granBase g dpa') (p : Bool) :
    (m.setGran g dpa p).granState g dpa' = m.granState g dpa' := by
  have hunit : ∀ b ∈ granUnits g (granBase g dpa'), (m.setGran g dpa p).unit b = m.unit b := fun b hb =>
    List.foldlRecOn (motive := fun m' : MemSys => m'.unit b = m.unit b) _ _ rfl fun m' hm' a ha =>
      (tget_tset_of_ne m'.units _ _ (units_disjoint h ha hb)).trans hm'
  have hmap : (granUnits g (granBase g dpa')).map (m.setGran g dpa p).unit = (granUnits g (granBase g dpa')).map m.unit :=
    List.map_congr_left hunit
  simp only [MemSys.granState, hmap]

theorem writeSpan_poisoned_other {g : Nat} {et : Bool} (agent mask : Nat) (bytes : List Byte) (s : State) {c : Nat × Nat × Nat} {dpa : Nat}
    (h : granBase g c.1 ≠ granBase g dpa) :
    (writeSpan g et agent mask bytes s c).mem.poisoned g dpa = s.mem.poisoned g dpa := by
  have hset (m : MemSys) (p : Bool) : (m.setGran g c.1 p).poisoned g dpa = m.poisoned g dpa := by
    simp only [MemSys.poisoned, granState_setGran_other m h]
  have hcounted : (s.countGran g c.1).mem.poisoned g dpa = s.mem.poisoned g dpa := poisoned_congr (countGran_units ..) g dpa
  have hpartial (mask : Nat) (data : List Byte) : (s.granPartial g c.1 et mask data).2.mem.poisoned g dpa = s.mem.poisoned g dpa := by
    unfold State.granPartial
    dsimp only
    split
    · split
      · exact ((poisoned_congr rfl g dpa).trans (hset _ false)).trans hcounted
      · exact (poisoned_congr (modStack_units ..) g dpa).trans (hset s.mem true)
    · exact ((poisoned_congr rfl g dpa).trans (hset _ false)).trans hcounted
  unfold writeSpan
  dsimp only
  split
  · rfl
  split
  · exact (poisoned_congr rfl g dpa).trans (hset s.mem false)
  · split
    · rw [addSubst_mem, hpartial]
    · exact hpartial ..

/-! ## A whole line -/

theorem writeSpan_wf {s : State} (hwf : Memory.wf s.mem.bytes = true) (g : Nat) (et : Bool) (agent mask : Nat) (bytes : List Byte)
    (c : Nat × Nat × Nat) : Memory.wf (writeSpan g et agent mask bytes s c).mem.bytes = true := by
  have hpartial (mask : Nat) (data : List Byte) : Memory.wf (s.granPartial g c.1 et mask data).2.mem.bytes = true := by
    rw [granPartial_bytes]
    exact writeMasked_wf _ (underlay_wf hwf ..) _ _
  unfold writeSpan
  dsimp only
  split
  · exact hwf
  split
  · exact granWrite_wf hwf ..
  · split
    · rw [addSubst_mem, hpartial]
    · exact hpartial ..

/-- Offset `i` of a line lies in one of the spans. -/
def covers (l : List (Nat × Nat × Nat)) (i : Nat) : Bool := l.any fun c => decide (c.2.1 ≤ i ∧ i < c.2.1 + c.2.2)

/-- Spans of different granules of a line, one after another. -/
theorem foldl_writeSpan_bytes {g : Nat} {et : Bool} {bytes : List Byte} (agent mask : Nat) (a : Nat) (l : List (Nat × Nat × Nat))
    (hfits : ∀ c ∈ l, SpanFits g bytes c ∧ c.1 = a + c.2.1 ∧ c.2.1 + c.2.2 ≤ 128)
    (hapart : l.Pairwise fun c c' => granBase g c.1 ≠ granBase g c'.1) {s : State} (hwf : Memory.wf s.mem.bytes = true)
    (hclean : et = true → ∀ c ∈ l, s.mem.poisoned g c.1 = false) :
    WritesMasked s.mem.bytes (l.foldl (writeSpan g et agent mask bytes) s).mem.bytes a 128
      (fun i => covers l i && mask.testBit i) (fun i => bytes.getD i 0) := by
  induction l generalizing s with
  | nil => exact ⟨fun _ _ => rfl, fun _ _ => rfl⟩
  | cons c l ih =>
    obtain ⟨happart, hrest⟩ := List.pairwise_cons.mp hapart
    obtain ⟨hspan, haddr, hin⟩ := hfits c (List.mem_cons_self ..)
    obtain ⟨hout, hbyte⟩ := writeSpan_bytes hwf hspan agent mask fun het => hclean het c (List.mem_cons_self ..)
    obtain ⟨hout', hbyte'⟩ := ih (fun c' hc' => hfits c' (List.mem_cons_of_mem _ hc')) hrest
      (writeSpan_wf hwf g et agent mask bytes c) fun het c' hc' => by
        rw [writeSpan_poisoned_other agent mask bytes s (happart c' hc')]
        exact hclean het c' (List.mem_cons_of_mem _ hc')
    rw [List.foldl_cons]
    refine ⟨fun j hj => (hout' j hj).trans (hout j (by omega)), fun i hi => ?_⟩
    rw [hbyte' i hi]
    have hcovers : covers (c :: l) i = (decide (c.2.1 ≤ i ∧ i < c.2.1 + c.2.2) || covers l i) := rfl
    simp only [hcovers]
    by_cases hhere : c.2.1 ≤ i ∧ i < c.2.1 + c.2.2
    · obtain ⟨k, rfl⟩ : ∃ k, i = c.2.1 + k := ⟨i - c.2.1, by omega⟩
      have hwritten := hbyte k (by omega)
      have hat : c.1 + k = a + (c.2.1 + k) := by omega
      dsimp only at hwritten
      rw [hat] at hwritten
      rw [hwritten]
      by_cases hbit : mask.testBit (c.2.1 + k) = true
      · simp [hbit, hhere]
      · simp [hbit]
    · rw [hout (a + i) (by omega)]
      simp [hhere]

theorem pieces_aligned {b : Nat} (hb : 0 < b) (k : Nat) :
    ∀ {fuel a : Nat} (o : Nat), a % b = 0 → k ≤ fuel → pieces b fuel a o (b * k) = (List.range k).map fun i => (a + b * i, o + b * i, b) := by
  induction k with
  | zero =>
    intro fuel a o _ _
    cases fuel <;> rfl
  | succ k ih =>
    intro fuel a o ha hfuel
    obtain ⟨fuel, rfl⟩ : ∃ f, fuel = f + 1 := ⟨fuel - 1, by omega⟩
    have hstep : min (b * (k + 1)) (b - a % b) = b := by
      rw [ha, Nat.sub_zero, Nat.mul_succ]
      exact Nat.min_eq_right (Nat.le_add_left ..)
    have hrest : b * (k + 1) - b = b * k := by rw [Nat.mul_succ, Nat.add_sub_cancel]
    rw [pieces, if_neg (Nat.mul_ne_zero (by omega) (by omega))]
    dsimp only
    rw [hstep, hrest, ih (o + b) (by rw [Nat.add_mod_right]; exact ha) (by omega), List.range_succ_eq_map, List.map_cons, List.map_map]
    refine congrArg₂ _ rfl (List.map_congr_left fun i _ => ?_)
    simp only [Function.comp_apply, Nat.mul_succ]
    rw [Nat.add_assoc, Nat.add_assoc, Nat.add_comm b]

/-- What starts and ends at boundaries is cut into whole pieces. -/
theorem cutAt_aligned {b a : Nat} (k : Nat) (hb : 0 < b) (ha : a % b = 0) :
    cutAt b a (b * k) = (List.range k).map fun i => (a + b * i, b * i, b) := by
  rw [cutAt, pieces_aligned hb k 0 ha (by rw [Nat.mul_div_cancel_left _ hb]; omega)]
  simp only [Nat.zero_add]

/-- The spans of a line: as wide as a granule, or the whole line. -/
theorem lineSpans (g line : Nat) : ∃ b k, 128 = b * k ∧ 0 < b ∧
    cutAt (min 128 (granBytes g)) (line * 128) 128 = (List.range k).map (fun i => (line * 128 + b * i, b * i, b)) ∧
    (granBytes g = b ∨ b = 128 ∧ k = 1 ∧ 128 ∣ granBytes g) := by
  have hcut (b k : Nat) (hbk : 128 = b * k) (hb : 0 < b) :
      cutAt b (line * 128) 128 = (List.range k).map (fun i => (line * 128 + b * i, b * i, b)) := by
    have haligned : line * 128 % b = 0 := by rw [hbk, Nat.mul_comm line, Nat.mul_assoc, Nat.mul_mod_right]
    exact (congrArg (cutAt b (line * 128)) hbk).trans (cutAt_aligned k hb haligned)
  by_cases hg : g < 2
  · obtain ⟨k, hk, hmin⟩ : ∃ k, 128 = granBytes g * k ∧ min 128 (granBytes g) = granBytes g := by
      have hcases : g = 0 ∨ g = 1 := by omega
      rcases hcases with rfl | rfl
      · exact ⟨4, rfl, rfl⟩
      · exact ⟨2, rfl, rfl⟩
    exact ⟨_, k, hk, granBytes_pos g, by rw [hmin]; exact hcut _ k hk (granBytes_pos g), .inl rfl⟩
  · have hdvd : 128 ∣ granBytes g := Nat.mul_dvd_mul_left 32 (Nat.pow_dvd_pow 2 (by omega) : 2 ^ 2 ∣ 2 ^ g)
    have hmin : min 128 (granBytes g) = 128 := Nat.min_eq_left (Nat.le_of_dvd (granBytes_pos g) hdvd)
    exact ⟨128, 1, rfl, by decide, by rw [hmin]; exact hcut 128 1 rfl (by decide), .inr ⟨rfl, rfl, hdvd⟩⟩

section line
variable {s : State} (hwf : Memory.wf s.mem.bytes = true) (g : Nat) (et : Bool) (agent line mask : Nat) {bytes : List Byte}
  (hlen : bytes.length = 128)
include hwf hlen

/-- A line is written under its mask, where no byte of it is poisoned or nothing is substituted. -/
theorem lineWrite_bytes (hclean : et = true → ∀ i < 128, s.mem.poisoned g (line * 128 + i) = false) :
    WritesMasked s.mem.bytes (s.lineWrite g et agent line mask bytes).mem.bytes (line * 128) 128 (fun i => mask.testBit i)
      (fun i => bytes.getD i 0) := by
  obtain ⟨b, k, hbk, hb, hcut, hgran⟩ := lineSpans g line
  have hbound {i : Nat} (hi : i < k) : b * i + b ≤ 128 := by
    rw [← Nat.mul_succ, hbk]
    exact Nat.mul_le_mul_left b hi
  have haligned : line * 128 % b = 0 := by rw [hbk, Nat.mul_comm line, Nat.mul_assoc, Nat.mul_mod_right]
  have hstart (i : Nat) : (line * 128 + b * i) % b = 0 := by rw [Nat.add_mul_mod_self_left, haligned]
  rw [lineWrite_eq_foldl, hcut]
  have hfold := foldl_writeSpan_bytes (g := g) (et := et) (bytes := bytes) agent mask (line * 128)
    ((List.range k).map fun i => (line * 128 + b * i, b * i, b)) ?_ ?_ hwf ?_
  · obtain ⟨hout, hin⟩ := hfold
    refine ⟨hout, fun i hi => ?_⟩
    have hcovered : covers ((List.range k).map fun i => (line * 128 + b * i, b * i, b)) i = true := by
      have hquot : i / b < k := Nat.div_lt_of_lt_mul (by rw [← hbk]; exact hi)
      refine List.any_eq_true.mpr ⟨_, List.mem_map.mpr ⟨i / b, List.mem_range.mpr hquot, rfl⟩, decide_eq_true ?_⟩
      exact ⟨Nat.mul_div_le i b, Nat.lt_mul_div_succ i hb⟩
    rw [hin i hi]
    simp only [hcovered, Bool.true_and]
  · intro c hc
    obtain ⟨i, hi, rfl⟩ := List.mem_map.mp hc
    have hlt := hbound (List.mem_range.mp hi)
    refine ⟨⟨?_, by rw [hlen]; exact hlt⟩, rfl, hlt⟩
    rcases hgran with hgran | ⟨rfl, rfl, q, hq⟩
    · rw [hgran, hstart, Nat.zero_add]
    · have hi0 : i = 0 := by simpa using hi
      subst hi0
      rw [hq, Nat.mul_zero, Nat.add_zero, Nat.mul_comm line, Nat.mul_mod_mul_left]
      have hpos : 0 < q := Nat.pos_of_ne_zero fun h0 => absurd (granBytes_pos g) (by rw [hq, h0]; decide)
      have hlt : line % q < q := Nat.mod_lt _ hpos
      show 128 * (line % q) + 128 ≤ 128 * q
      omega
  · rcases hgran with hgran | ⟨-, rfl, -⟩
    · rw [List.pairwise_map]
      refine List.nodup_range.imp fun {i j} hne heq => hne ?_
      simp only [granBase, hgran, hstart, Nat.sub_zero] at heq
      exact Nat.eq_of_mul_eq_mul_left hb (Nat.add_left_cancel heq)
    · exact List.pairwise_singleton ..
  · intro het c hc
    obtain ⟨i, hi, rfl⟩ := List.mem_map.mp hc
    have hlt := hbound (List.mem_range.mp hi)
    exact hclean het (b * i) (by omega)

end line

/-- A partial write of a poisoned line that is one granule of an ET = 1 page takes its other bytes as zero and counts (02 R50). -/
theorem lineWrite_substitutes {s : State} (hwf : Memory.wf s.mem.bytes = true) (hu : tableWf UnitMeta.reset s.mem.units = true)
    (c : Fin 192) (x : Fin 4) {line mask : Nat} {bytes : List Byte} (hlen : bytes.length = 128) (hlt : mask < 2 ^ 128) (hsome : mask ≠ 0)
    (hnotall : mask ≠ 2 ^ 128 - 1) (hp : s.mem.poisoned 2 (line * 128) = true) :
    let t := s.lineWrite 2 true (agentOf c x) line mask bytes
    t.mem.poisoned 2 (line * 128) = false ∧ (t.ctxAt c x).subst = satAdd (s.ctxAt c x).subst 1 ∧
      ∀ i < 128, Memory.byte t.mem.bytes (line * 128 + i) = if mask.testBit i then bytes.getD i 0 else 0 := by
  intro t
  have hgran : granBytes 2 = 128 := rfl
  have hfit : line * 128 % 128 = 0 := Nat.mul_mod_left ..
  have hbase : granBase 2 (line * 128) = line * 128 := by rw [granBase, hgran, hfit, Nat.sub_zero]
  have hsubst : (s.granPartial 2 (line * 128) true mask bytes).1 = true := (granPartial_substitutes ..).trans (by rw [hp]; rfl)
  have ht : t = (s.granPartial 2 (line * 128) true mask bytes).2.addSubst (agentOf c x) 1 := by
    have hcut : cutAt (min 128 (granBytes 2)) (line * 128) 128 = [(line * 128, 0, 128)] :=
      cutAt_of_fits (by decide) (by rw [hgran, Nat.min_self, hfit])
    have hmask : bitsN mask 0 128 = mask := by rw [bitsN, Nat.pow_zero, Nat.div_one, Nat.mod_eq_of_lt hlt]
    have hbytes : (bytes.drop 0).take 128 = bytes := by rw [List.drop_zero, ← hlen, List.take_length]
    show s.lineWrite 2 true (agentOf c x) line mask bytes = _
    rw [lineWrite_eq_foldl, hcut, List.foldl_cons, List.foldl_nil, writeSpan]
    dsimp only
    rw [hmask, if_neg hsome, hgran, if_neg (fun h => hnotall h.2), hfit, Nat.pow_zero, Nat.mul_one, hbytes, List.replicate_zero,
      List.nil_append, hsubst, if_pos rfl]
  rw [ht, addSubst_mem]
  refine ⟨?_, ?_, fun i hi => ?_⟩
  · rw [granPartial_poisoned hu (by decide), hp]
    rfl
  · rw [agentOf, addSubst_agent, ctxAt_modCtxAt_self, (contextsStand_granPartial ..).ctxAt]
  · rw [granPartial_bytes]
    have hin := byte_writeMasked_inside bytes (underlay_wf hwf 2 (line * 128) true) (granBase 2 (line * 128)) mask (i := i) (by rw [hlen]; exact hi)
    rw [byte_underlay_inside hwf true (by rw [hgran]; exact hi), hp, hbase] at hin
    rw [hbase, hin, List.getD_eq_getElem _ _ (by rw [hlen]; exact hi)]
    rfl

/-- The bytes of a line, one by one. -/
theorem getD_bytesOf (w : Line) {i : Nat} (hi : i < 128) : (bytesOf 128 w).getD i 0 = BitVec.ofNat 8 (w.toNat / 2 ^ (8 * i)) := by
  rw [List.getD_eq_getElem?_getD, bytesOf, bytesOfNat_getElem? _ hi]
  rfl

theorem length_bytesOf (w : Line) : (bytesOf 128 w).length = 128 := length_bytesOfNat ..

end Sys2Proof.Proofs
end

section
/-! SUPPORT. Requests and transactions at the home of a line: what each step of the service leaves in the directory, and what it sends
(03 R66, R67). -/

namespace Sys2Proof.Proofs

open Sys2Proof Sys2Proof.Machine Sys2Proof.Claims Sys2Proof.Laws

/-! ## States that differ in their homes -/

/-- Two states differ in their homes alone. -/
def HomesOnly (s t : State) : Prop := t = { s with mem := { s.mem with homes := t.mem.homes } }

theorem HomesOnly.refl (s : State) : HomesOnly s s := rfl

theorem HomesOnly.trans {s t u : State} (h : HomesOnly s t) (h' : HomesOnly t u) : HomesOnly s u := by
  unfold HomesOnly at *
  rw [h', h]

theorem HomesOnly.stands {s t : State} (h : HomesOnly s t) :
    t.mem.bytes = s.mem.bytes ∧ t.mem.units = s.mem.units ∧ t.mem.epochs = s.mem.epochs ∧ t.agenda = s.agenda ∧ t.cores = s.cores := by
  rw [h]
  exact ⟨rfl, rfl, rfl, rfl, rfl⟩

theorem homesOnly_modMem (s : State) {f : MemSys → MemSys} (h : ∃ v, f s.mem = { s.mem with homes := v }) : HomesOnly s (s.modMem f) := by
  obtain ⟨v, hv⟩ := h
  show { s with mem := f s.mem } = { s with mem := { s.mem with homes := (f s.mem).homes } }
  rw [hv]

theorem homesOnly_modHome (s : State) (k : Nat) (f : Home → Home) : HomesOnly s (s.modMem fun m => m.modHome k f) := rfl

theorem homesOnly_putEntry (s : State) (e : DirEntry) : HomesOnly s (s.modMem fun m => m.putEntry e) := rfl

theorem homesOnly_bumpVersion (s : State) (line : Nat) : HomesOnly s (s.bumpVersion line) := rfl

theorem homesOnly_lineStable (s : State) (e : DirEntry) (st : DirSt) (shr : BitVec 4) : HomesOnly s (s.lineStable e st shr) := by
  refine homesOnly_modMem s ?_
  obtain ⟨v, hv⟩ := touch_eq (s.mem.putEntry { e with st := st, shr := shr, txn := none, waiting := [], dirty := none }) e.line
  exact ⟨v, hv⟩

theorem sameDirs_modHot (s : State) (line : Nat) (f : HotPage → HotPage) : SameDirs s.mem (s.modHot line f).mem :=
  sameDirs_modHome _ _ fun _ => rfl

theorem sameDirs_bumpVersion (s : State) (line : Nat) : SameDirs s.mem (s.bumpVersion line).mem := sameDirs_modHot ..

/-! ## The count of a request (03 R79) -/

theorem any_modFirst_eq_false {α : Type} {p q : α → Bool} {f : α → α} (hf : ∀ x, q x = false → q (f x) = false) {l : List α}
    (h : l.any q = false) : (modFirst p f l).any q = false := by
  induction l with
  | nil => rfl
  | cons a l ih =>
    simp only [List.any_cons, Bool.or_eq_false_iff] at h
    obtain ⟨ha, hl⟩ := h
    unfold modFirst
    split
    · simp [hf a ha, hl]
    · simp [ha, ih hl]

theorem blocked_modHome {m : MemSys} {line : Nat} (k : Nat) {f : Home → Home}
    (hf : ∀ h : Home, h.hot.any (fun p => p.holds line && p.blocked) = false → (f h).hot.any (fun p => p.holds line && p.blocked) = false)
    (h : m.blocked line = false) : (m.modHome k f).blocked line = false := by
  unfold MemSys.blocked at *
  by_cases hk : k < 12
  · by_cases hkl : k = homeOf line
    · subst hkl
      rw [home_modHome_self m f hk]
      exact hf _ h
    · rw [home_modHome_ne m f hkl, h]
  · rw [modHome_of_not_lt m f hk, h]

/-- A counted access changes hot tables alone, and blocks no page. -/
theorem hotAccess_keeps (s : State) (wing line entry size : Nat) :
    let t := s.hotAccess wing line entry size
    HomesOnly s t ∧ SameDirs s.mem t.mem ∧ (s.mem.blocked line = false → t.mem.blocked line = false) := by
  unfold State.hotAccess
  split
  · exact ⟨.refl s, .refl _, id⟩
  dsimp only
  split
  · refine ⟨homesOnly_modHome .., sameDirs_modHot .., blocked_modHome _ fun h hh => ?_⟩
    exact any_modFirst_eq_false (fun x hx => by exact hx) hh
  · refine ⟨homesOnly_modHome .., sameDirs_modHome _ _ fun h => ?_, blocked_modHome _ fun h hh => ?_⟩
    · split <;> rfl
    · split
      · simp only [List.any_append, hh, List.any_cons, List.any_nil, HotPage.fresh, Bool.and_false, Bool.or_false]
      · exact any_modFirst_eq_false (fun _ _ => by simp only [HotPage.fresh, Bool.and_false]) hh

theorem countRequest_keeps (s : State) (line : Nat) :
    let t := s.countRequest line
    HomesOnly s t ∧ SameDirs s.mem t.mem ∧ (s.mem.blocked line = false → t.mem.blocked line = false) := by
  unfold State.countRequest
  dsimp only
  split
  · exact ⟨.refl s, .refl _, id⟩
  · exact hotAccess_keeps ..

/-! ## What a directory records -/

/-- The directory records an entry: it holds it, but for ranks and for extension entries that are free, or nothing where it is free. -/
def Records (m : MemSys) (e : DirEntry) : Prop :=
  (m.entry e.line).st = e.st ∧ (m.entry e.line).queue = e.queue ∧ (m.entry e.line).txn = e.txn ∧
    (e.st ≠ .i → SameLine e (m.entry e.line))

theorem records_putEntry (m : MemSys) {e : DirEntry} (hl : homed e.line) : Records (m.putEntry e) e := entry_putEntry_rest m hl

theorem Records.of_sameDirs {m m' : MemSys} {e : DirEntry} (h : Records m e) (hd : SameDirs m m') : Records m' e := by
  unfold Records
  rw [entry_congr hd]
  exact h

theorem Records.touch {m : MemSys} {e : DirEntry} (h : Records m e) : Records (m.touch e.line) e := by
  obtain ⟨hst, hqueue, htxn, hline⟩ := h
  have haged := (lineAged_touch m e.line).entry.1
  unfold SameLine at haged
  refine ⟨?_, ?_, ?_, fun hne => (hline hne).trans haged⟩
  · rw [haged]; exact hst
  · rw [haged]; exact hqueue
  · rw [haged]; exact htxn

theorem Records.same {m : MemSys} {e : DirEntry} (h : Records m e) (hne : e.st ≠ .i) : SameLine e (m.entry e.line) := h.2.2.2 hne

theorem SameLine.fields {e e' : DirEntry} (h : SameLine e e') : e'.line = e.line ∧ e'.st = e.st ∧ e'.shr = e.shr ∧ e'.own = e.own ∧
    e'.txn = e.txn ∧ e'.waiting = e.waiting ∧ e'.dirty = e.dirty ∧ e'.queue = e.queue := by
  rw [h]
  exact ⟨rfl, rfl, rfl, rfl, rfl, rfl, rfl, rfl⟩

/-- The entry that `lineStable` stores. -/
def stableEntry (e : DirEntry) (st : DirSt) (shr : BitVec 4) : DirEntry :=
  { e with st := st, shr := shr, txn := none, waiting := [], dirty := none }

/-- The entry of a line whose owner is die `d`. -/
def ownedBy (e : DirEntry) (d : Nat) : DirEntry := { e with own := dieIx d }

/-- The entry that `beginTxn` stores. -/
def waitingEntry (e : DirEntry) (st : DirSt) (r : DirReq) (dies : List Nat) : DirEntry :=
  { e with st := st, txn := some r, waiting := dies, dirty := none, shr := if st = .bS then 0 else e.shr }

theorem records_lineStable (s : State) {e : DirEntry} (hl : homed e.line) (st : DirSt) (shr : BitVec 4) :
    Records (s.lineStable e st shr).mem (stableEntry e st shr) :=
  (records_putEntry s.mem (e := stableEntry e st shr) hl).touch

theorem foldl_post (f : Nat → Instr × EvArgs) (l : List Nat) (s : State) :
    l.foldl (fun s d => s.post (f d).1 (f d).2) s = { s with agenda := s.agenda ++ l.map f } := by
  induction l generalizing s with
  | nil => simp
  | cons d l ih => rw [List.foldl_cons, ih]; simp [State.post]

theorem beginTxn_eq (s : State) (e : DirEntry) (st : DirSt) (r : DirReq) (dies : List Nat) :
    s.beginTxn e st r dies = { s.modMem fun m => m.putEntry (waitingEntry e st r dies) with
      agenda := s.agenda ++ dies.map fun d => (snoopEvent st r.kind, ({ die := dieIx d, addr := e.line } : EvArgs)) } :=
  foldl_post (fun d => (snoopEvent st r.kind, { die := dieIx d, addr := e.line })) dies _

theorem records_beginTxn (s : State) {e : DirEntry} (hl : homed e.line) (st : DirSt) (r : DirReq) (dies : List Nat) :
    Records (s.beginTxn e st r dies).mem (waitingEntry e st r dies) := by
  rw [beginTxn_eq]
  exact records_putEntry s.mem (e := waitingEntry e st r dies) hl

/-! ## Serving what waits (03 R67) -/

/-- Nothing can be served for the line: it is stable with nothing queued, or waits for answers. -/
def AtRest (m : MemSys) (line : Nat) : Prop :=
  let e := m.entry line
  if e.st.stable then e.queue = [] ∧ e.txn = none else e.waiting ≠ []

theorem serveQueue_atRest {s : State} {line : Nat} (h : AtRest s.mem line) (n : Nat) : State.serveQueue line n s = s := by
  cases n with
  | zero => rfl
  | succ n =>
    unfold State.serveQueue
    dsimp only
    unfold AtRest at h
    dsimp only at h
    split at h
    · obtain ⟨hqueue, htxn⟩ := h
      rw [hqueue, htxn]
      split <;> rfl
    · next hst =>
      rw [if_pos (by simp [hst])]
      split
      · rw [if_neg (by simpa using h)]
      · rfl

theorem Records.atRest {m : MemSys} {e : DirEntry} (h : Records m e) (hst : e.st.stable = true) (hqueue : e.queue = [])
    (htxn : e.txn = none) : AtRest m e.line := by
  obtain ⟨hst', hqueue', htxn', -⟩ := h
  unfold AtRest
  dsimp only
  rw [hst', hst, if_pos rfl, hqueue', htxn']
  exact ⟨hqueue, htxn⟩

theorem Records.atRest_waiting {m : MemSys} {e : DirEntry} (h : Records m e) (hst : e.st.stable = false) (hwaiting : e.waiting ≠ []) :
    AtRest m e.line := by
  obtain ⟨-, -, -, -, -, hwaits, -, -⟩ := (h.same fun hi => by rw [hi] at hst; cases hst).fields
  unfold AtRest
  dsimp only
  rw [h.1, hst, if_neg (by simp), hwaits]
  exact hwaiting

/-- One request is taken from the queue of a stable line and served. -/
theorem serveQueue_serves {s : State} {line : Nat} (n : Nat) (hst : (s.mem.entry line).st.stable = true)
    (hblocked : s.mem.blocked line = false) {r : DirReq} (hqueue : (s.mem.entry line).queue = [r]) :
    State.serveQueue line (n + 1) s = State.serveQueue line n
      ((s.modMem fun m => m.putEntry { s.mem.entry line with queue := [] }).serveReq { s.mem.entry line with queue := [] } r) := by
  rw [State.serveQueue]
  dsimp only
  rw [hst, hblocked, if_neg (by simp), hqueue]

/-- A transaction that waits for no answer ends. -/
theorem serveQueue_ends {s : State} {line : Nat} (n : Nat) (hst : (s.mem.entry line).st.stable = false) {r : DirReq}
    (htxn : (s.mem.entry line).txn = some r) (hwaiting : (s.mem.entry line).waiting = []) :
    State.serveQueue line (n + 1) s = State.serveQueue line n (s.endTxn (s.mem.entry line) r) := by
  rw [State.serveQueue]
  dsimp only
  rw [hst, if_pos (by simp), htxn]
  dsimp only
  rw [hwaiting]
  rfl

/-- A request at the home of `line` is served for entry `e`, which is that of the line in `s` with nothing queued, in the state `u`, whose
homes alone have changed since `s`. -/
structure ServedIn (s u : State) (line : Nat) (e : DirEntry) : Prop where
  homes : HomesOnly s u
  records : Records u.mem e
  lineEq : e.line = line
  st : e.st = (s.mem.entry line).st
  shr : e.shr = (s.mem.entry line).shr
  own : e.own = (s.mem.entry line).own
  stable : e.st.stable = true
  queue : e.queue = []
  txn : e.txn = none
  homed : homed line

/-- A request for a quiet line with room is served at once, and the service then goes on as far as it can. -/
theorem homeRequest_serves {s : State} {line : Nat} (hquiet : quietLine s line) (event : Instr) (r : DirReq) (installs : Bool)
    (hroom : installs = true → s.mem.room line (s.mem.needWays line) = .have_) :
    ∃ u e, ServedIn s u line e ∧ s.homeRequest event line r installs = State.serveQueue line 4 (u.serveReq e r) := by
  obtain ⟨hl, hst, hqueue, htxn, hblocked⟩ := hquiet
  obtain ⟨hcount, hdirs, hfree⟩ := countRequest_keeps s line
  let c := s.countRequest line
  have hentry : c.mem.entry line = s.mem.entry line := entry_congr hdirs line
  have hline : (s.mem.entry line).line = line := entry_line ..
  let q := { s.mem.entry line with queue := [r] }
  let v := c.modMem fun m => m.putEntry q
  have hexec : s.homeRequest event line r installs = v.settle line := by
    unfold State.homeRequest
    dsimp only
    rw [hentry, hst, hfree hblocked, if_neg (by simp), hqueue, List.nil_append, room_congr hdirs, needWays_congr hdirs]
    cases installs with
    | false => rfl
    | true => rw [if_pos rfl, hroom rfl]
  have hput : v.mem.entry line = { q with exts := q.exts.filter c.mem.extOpen } := by
    have hfound := entry_putEntry c.mem (e := q) (hline.symm ▸ hl) (entryFree_of_queue (List.cons_ne_nil _ _))
    exact (congrArg (c.mem.putEntry q).entry hline.symm).trans hfound
  have hblocked' : v.mem.blocked line = false := blocked_modHome _ (fun _ hh => hh) (hfree hblocked)
  let e := { v.mem.entry line with queue := [] }
  have hfields : e.line = line ∧ e.st = (s.mem.entry line).st ∧ e.shr = (s.mem.entry line).shr ∧ e.own = (s.mem.entry line).own ∧
      e.txn = (s.mem.entry line).txn := by
    simp only [e, hput, q, hline, and_self]
  obtain ⟨heline, hest, heshr, heown, hetxn⟩ := hfields
  refine ⟨v.modMem fun m => m.putEntry e, e, ⟨(hcount.trans (homesOnly_putEntry c q)).trans (homesOnly_putEntry v e), ?_, heline, hest,
    heshr, heown, by rw [hest, hst], rfl, by rw [hetxn, htxn], hl⟩, ?_⟩
  · exact records_putEntry v.mem (e := e) (heline.symm ▸ hl)
  · rw [hexec, State.settle, hput]
    exact serveQueue_serves 4 (by rw [hput]; exact hst) hblocked' (by rw [hput])

/-! ## What a service sends -/

/-- The entry of a transaction that has begun. -/
theorem beginTxn_entry (u : State) {e : DirEntry} (hl : homed e.line) {st : DirSt} (hst : st.stable = false) (r : DirReq) (dies : List Nat) :
    let x := (u.beginTxn e st r dies).mem.entry e.line
    x.line = e.line ∧ x.st = st ∧ x.txn = some r ∧ x.waiting = dies ∧ x.dirty = none ∧ x.queue = e.queue := by
  have hrec := records_beginTxn u hl st r dies
  obtain ⟨hline, hst', -, -, htxn, hwaiting, hdirty, hqueue⟩ := (hrec.same fun hi => by rw [show st = .i from hi] at hst; cases hst).fields
  exact ⟨hline, hst', htxn, hwaiting, hdirty, hqueue⟩

theorem snoopings_of_beginTxn {s u : State} (hu : HomesOnly s u) {e : DirEntry} (hl : homed e.line) {st : DirSt} (hst : st.stable = false)
    (d : Nat) (k : DirReqKind) {dies : List Nat} (hdies : dies ≠ []) (n : Nat) :
    snooping s (State.serveQueue e.line n (u.beginTxn e st ⟨d, k⟩ dies)) e.line st d k dies (snoopEvent st k) := by
  have hrest : AtRest _ e.line := (records_beginTxn u hl st ⟨d, k⟩ dies).atRest_waiting hst hdies
  obtain ⟨-, hst', htxn, hwaiting, -, -⟩ := beginTxn_entry u hl hst ⟨d, k⟩ dies
  obtain ⟨hbytes, -, -, hagenda, -⟩ := hu.stands
  rw [serveQueue_atRest hrest]
  refine ⟨hst', htxn, hwaiting, ?_, ?_⟩
  · rw [beginTxn_eq, hagenda]
  · rw [beginTxn_eq, ← hbytes]
    rfl

theorem reply_answers {s u : State} (hagenda : u.agenda = s.agenda) (line d : Nat) (excl nc : Bool) :
    answered s (u.reply line d excl nc) line d excl nc := by
  show u.agenda ++ _ = _
  rw [hagenda]

/-- A completion is sent as the line becomes stable with nothing queued, and the service ends there. -/
theorem stable_replied {s v : State} (hagenda : v.agenda = s.agenda) {e : DirEntry} (hqueue : e.queue = []) {st : DirSt} {shr : BitVec 4}
    (hst : st.stable = true) (hrec : Records v.mem (stableEntry e st shr)) (d : Nat) (excl nc : Bool) (n : Nat) :
    let t := State.serveQueue e.line n (v.reply e.line d excl nc)
    t = v.reply e.line d excl nc ∧ (t.mem.entry e.line).st = st ∧
      (st ≠ .i → (t.mem.entry e.line).own = e.own ∧ (t.mem.entry e.line).shr = shr) ∧ answered s t e.line d excl nc := by
  have hrest : AtRest (v.reply e.line d excl nc).mem e.line := hrec.atRest hst hqueue rfl
  dsimp only
  rw [serveQueue_atRest hrest]
  refine ⟨rfl, hrec.1, fun hne => ?_, reply_answers hagenda ..⟩
  obtain ⟨-, -, hshr, hown, -, -, -, -⟩ := (hrec.same hne).fields
  exact ⟨hown, hshr⟩

/-! ## The end of a transaction (03 R66) -/

/-- The data that an owner returned is written. -/
def dirtyWritten (s : State) (e : DirEntry) : State :=
  match e.dirty with
  | some x => s.ownerWrite e.line x
  | none => s

theorem fabricStands_dirtyWritten (s : State) (e : DirEntry) : FabricStands s (dirtyWritten s e) := by
  unfold dirtyWritten
  split
  · exact fabricStands_ownerWrite ..
  · exact .refl s

/-- A request for ownership ends in a grant. -/
theorem endTxn_grant (s : State) {e : DirEntry} (hst : e.st = .bE) (d : Nat) {k : DirReqKind} (hk : k = .rde ∨ k = .upg) :
    s.endTxn e ⟨d, k⟩ =
      (((dirtyWritten s e).bumpVersion e.line).lineStable (ownedBy e d) .em 0).reply e.line d true false := by
  unfold State.endTxn dirtyWritten
  dsimp only
  rw [hst]
  rcases hk with rfl | rfl <;> rfl

/-- A request for ownership that has nobody to snoop is granted in its turn. -/
theorem serveQueue_grants (u : State) {e : DirEntry} (hl : homed e.line) (d : Nat) {k : DirReqKind} (hk : k = .rde ∨ k = .upg) (n : Nat) :
    let w := u.beginTxn e .bE ⟨d, k⟩ []
    let x := w.mem.entry e.line
    State.serveQueue e.line (n + 1) w = State.serveQueue e.line n
      (((w.bumpVersion e.line).lineStable (ownedBy x d) .em 0).reply e.line d true false) := by
  intro w x
  obtain ⟨hline, hst, htxn, hwaiting, hdirty, -⟩ := beginTxn_entry u hl (st := .bE) rfl ⟨d, k⟩ []
  have hnone : dirtyWritten w x = w := by
    unfold dirtyWritten
    rw [show x.dirty = none from hdirty]
  have hend := endTxn_grant w (e := x) hst d hk
  rw [hnone, show x.line = e.line from hline] at hend
  rw [serveQueue_ends n (s := w) (by rw [show (w.mem.entry e.line).st = .bE from hst]; rfl) htxn hwaiting, hend]

/-- A read ends with the sharers that are left and the reader. -/
theorem endTxn_share (s : State) {e : DirEntry} (hst : e.st = .bS) (d : Nat) :
    s.endTxn e ⟨d, .rds⟩ = ((dirtyWritten s e).lineStable e .s (e.shr ||| dieBit d)).reply e.line d false false := by
  unfold State.endTxn dirtyWritten
  dsimp only
  rw [hst] <;> rfl

theorem dieIx_val (d : Fin 4) : dieIx d.val = d := Fin.ext (Nat.mod_eq_of_lt d.isLt)

end Sys2Proof.Proofs
end

section
/-! PROOFS. Requests at the home of a stable line (O38). -/

namespace Sys2Proof.Proofs

open Sys2Proof Sys2Proof.Machine Sys2Proof.Claims Sys2Proof.Laws

/-! ## Requests that a die may send (03 R69) -/

theorem dieRequest_sends {s : State} (event : Instr) (kind : DirReqKind) {caching : Bool} (hwb : (s.arg.die.val, s.arg.addr) ∉ s.mem.wbPending)
    (hst : caching = true → s.mem.dieSt s.arg.die.val s.arg.addr ≠ some .e ∧ s.mem.dieSt s.arg.die.val s.arg.addr ≠ some .m) :
    s.dieRequest event kind caching = .next (s.homeRequest event s.arg.addr ⟨s.arg.die.val, kind⟩ caching) := by
  refine if_pos ?_
  unfold State.mayAsk
  have hnone : s.mem.wbPending.contains (s.arg.die.val, s.arg.addr) = false := by simpa using hwb
  rw [hnone]
  cases caching with
  | false => rfl
  | true =>
    obtain ⟨he, hm⟩ := hst rfl
    generalize s.mem.dieSt s.arg.die.val s.arg.addr = x at he hm
    match x with
    | none => rfl
    | some .s => rfl
    | some .e => exact absurd rfl he
    | some .m => exact absurd rfl hm

/-! ## Each request where it is served (03 R66) -/

theorem stable_cases {st : DirSt} (h : st.stable = true) : st = .i ∨ st = .s ∨ st = .em := by
  cases st <;> simp_all [DirSt.stable]

section kinds
variable (u : State) {e : DirEntry} (d : Nat)

theorem serveReq_own {k : DirReqKind} (hk : k = .rde ∨ k = .upg) :
    (e.st = .i → u.serveReq e ⟨d, k⟩ =
      ((u.lineStable (ownedBy e d) .em 0).bumpVersion e.line).reply e.line d true false) ∧
    (e.st = .s → u.serveReq e ⟨d, k⟩ = u.beginTxn e .bE ⟨d, k⟩ ((diesOf e.shr).filter (· != d))) ∧
    (e.st = .em → u.serveReq e ⟨d, k⟩ = u.beginTxn e .bE ⟨d, k⟩ [e.own.val]) := by
  unfold State.serveReq
  rcases hk with rfl | rfl <;> exact ⟨fun h => by simp only [h, ownedBy], fun h => by simp only [h], fun h => by simp only [h]⟩

theorem serveReq_rds :
    (e.st = .i → u.serveReq e ⟨d, .rds⟩ = (u.lineStable e .s (dieBit d)).reply e.line d false false) ∧
    (e.st = .s → u.serveReq e ⟨d, .rds⟩ = (u.lineStable e .s (e.shr ||| dieBit d)).reply e.line d false false) ∧
    (e.st = .em → u.serveReq e ⟨d, .rds⟩ = u.beginTxn e .bS ⟨d, .rds⟩ [e.own.val]) := by
  unfold State.serveReq
  exact ⟨fun h => by simp only [h], fun h => by simp only [h], fun h => by simp only [h]⟩

theorem serveReq_ncrd (hst : e.st.stable = true) :
    (e.st ≠ .em → u.serveReq e ⟨d, .ncrd⟩ = u.reply e.line d false true) ∧
    (e.st = .em → u.serveReq e ⟨d, .ncrd⟩ = u.beginTxn e .bC ⟨d, .ncrd⟩ [e.own.val]) := by
  unfold State.serveReq
  rcases stable_cases hst with h | h | h <;> simp [h]

theorem serveReq_migrd (hst : e.st.stable = true) :
    (e.st ≠ .em → u.serveReq e ⟨d, .migrd⟩ = u) ∧
    (e.st = .em → u.serveReq e ⟨d, .migrd⟩ = u.beginTxn e .bS ⟨d, .migrd⟩ [e.own.val]) := by
  unfold State.serveReq
  rcases stable_cases hst with h | h | h <;> simp [h]

theorem serveReq_ncwr (m : BitVec 128) (w : Line) (g : BitVec 3) (et : Bool) (agent : Nat) :
    let r : DirReq := ⟨d, .ncwr m w g et agent⟩
    (e.st = .i → u.serveReq e r = ((u.homeWrite e.line m w g et agent).bumpVersion e.line).reply e.line d false true) ∧
    (e.st = .s → u.serveReq e r = u.beginTxn e .bE r (diesOf e.shr)) ∧
    (e.st = .em → u.serveReq e r = u.beginTxn e .bE r [e.own.val]) := by
  unfold State.serveReq
  exact ⟨fun h => by simp only [h], fun h => by simp only [h], fun h => by simp only [h]⟩

end kinds

section requests
variable {s : State} {line : Nat} (hquiet : quietLine s line) (event : Instr) (d : Nat)
include hquiet

/-- A request for ownership is granted at once, or snoops every other holder. -/
theorem homeRequest_own {k : DirReqKind} (hk : k = .rde ∨ k = .upg) (hroom : s.mem.room line (s.mem.needWays line) = .have_) :
    let e := s.mem.entry line
    let others := (diesOf e.shr).filter (· != d)
    let t := s.homeRequest event line ⟨d, k⟩ true
    (e.st = .i ∨ e.st = .s ∧ others = [] → (t.mem.entry line).st = .em ∧ (t.mem.entry line).own = dieIx d ∧
      answered s t line d true false ∧ t.mem.bytes = s.mem.bytes) ∧
    (e.st = .s → others ≠ [] → snooping s t line .bE d k others .snpinv) ∧
    (e.st = .em → snooping s t line .bE d k [e.own.val] .snpinv) := by
  obtain ⟨u, e, ⟨hu, hrec, rfl, hst, hshr, hown, hstable, hqueue, htxn, hl⟩, hserve⟩ :=
    homeRequest_serves hquiet event ⟨d, k⟩ true fun _ => hroom
  dsimp only
  rw [hserve, ← hst, ← hshr, ← hown]
  obtain ⟨hi, hs, hem⟩ := serveReq_own u (e := e) d hk
  have hgrant {v : State} (hv : HomesOnly s v) {x : DirEntry} (hx : x.line = e.line) (hxq : x.queue = []) (n : Nat)
      (hrec : Records v.mem (stableEntry (ownedBy x d) .em 0)) :
      let t := State.serveQueue e.line n (v.reply e.line d true false)
      (t.mem.entry e.line).st = .em ∧ (t.mem.entry e.line).own = dieIx d ∧ answered s t e.line d true false ∧
        t.mem.bytes = s.mem.bytes := by
    obtain ⟨hbytes, -, -, hagenda, -⟩ := hv.stands
    obtain ⟨ht, hst, hholder, hanswer⟩ := stable_replied hagenda (e := ownedBy x d) hxq rfl hrec d true false n
    rw [show (ownedBy x d).line = e.line from hx] at ht hst hholder hanswer
    exact ⟨hst, (hholder (by decide)).1, hanswer, by rw [ht]; exact hbytes⟩
  refine ⟨fun hcase => ?_, fun hsh hothers => ?_, fun ho => ?_⟩
  · rcases hcase with hfree | ⟨hsh, hothers⟩
    · rw [hi hfree]
      exact hgrant (hu.trans ((homesOnly_lineStable ..).trans (homesOnly_bumpVersion ..))) rfl hqueue 4
        ((records_lineStable u (e := ownedBy e d) hl .em 0).of_sameDirs (sameDirs_bumpVersion ..))
    · rw [hs hsh, hothers, serveQueue_grants u hl d hk 3]
      have hbegun : HomesOnly u (u.beginTxn e .bE ⟨d, k⟩ []) := by
        rw [beginTxn_eq, List.map_nil, List.append_nil]
        exact homesOnly_putEntry ..
      obtain ⟨hxline, -, -, -, -, hxqueue⟩ := beginTxn_entry u hl (st := .bE) rfl ⟨d, k⟩ []
      exact hgrant (hu.trans (hbegun.trans ((homesOnly_bumpVersion ..).trans (homesOnly_lineStable ..)))) hxline (hxqueue.trans hqueue) 3
        (records_lineStable _ (e := ownedBy _ d) (hxline.symm ▸ hl) .em 0)
  · rw [hs hsh]
    rcases hk with rfl | rfl <;> exact snoopings_of_beginTxn hu hl rfl d _ hothers 4
  · rw [hem ho]
    rcases hk with rfl | rfl <;> exact snoopings_of_beginTxn hu hl rfl d _ (by simp) 4

/-- A read to share is answered with one more sharer, or snoops the owner. -/
theorem homeRequest_rds (hroom : s.mem.room line (s.mem.needWays line) = .have_) :
    let e := s.mem.entry line
    let t := s.homeRequest event line ⟨d, .rds⟩ true
    (e.st ≠ .em → (t.mem.entry line).st = .s ∧ (t.mem.entry line).shr = (if e.st = .s then e.shr else 0) ||| dieBit d ∧
      answered s t line d false false ∧ t.mem.bytes = s.mem.bytes) ∧
    (e.st = .em → snooping s t line .bS d .rds [e.own.val] .snpshr) := by
  obtain ⟨u, e, ⟨hu, hrec, rfl, hst, hshr, hown, hstable, hqueue, htxn, hl⟩, hserve⟩ :=
    homeRequest_serves hquiet event ⟨d, .rds⟩ true fun _ => hroom
  dsimp only
  rw [hserve, ← hst, ← hshr, ← hown]
  obtain ⟨hi, hs, hem⟩ := serveReq_rds u (e := e) d
  have hshare (shr : BitVec 4) :
      let t := State.serveQueue e.line 4 ((u.lineStable e .s shr).reply e.line d false false)
      (t.mem.entry e.line).st = .s ∧ (t.mem.entry e.line).shr = shr ∧ answered s t e.line d false false ∧ t.mem.bytes = s.mem.bytes := by
    obtain ⟨hbytes, -, -, hagenda, -⟩ := (hu.trans (homesOnly_lineStable u e .s shr)).stands
    obtain ⟨ht, hst, hholder, hanswer⟩ := stable_replied hagenda hqueue rfl (records_lineStable u hl .s shr) d false false 4
    exact ⟨hst, (hholder (by decide)).2, hanswer, by rw [ht]; exact hbytes⟩
  refine ⟨fun hne => ?_, fun ho => ?_⟩
  · rcases stable_cases hstable with hfree | hsh | ho
    · rw [hi hfree, if_neg (by rw [hfree]; decide), show 0 ||| dieBit d = dieBit d from BitVec.zero_or]
      exact hshare _
    · rw [hs hsh, if_pos hsh]
      exact hshare _
    · exact absurd ho hne
  · rw [hem ho]
    exact snoopings_of_beginTxn hu hl rfl d _ (by simp) 4

/-- A read that allocates nothing is answered and leaves the line, or takes the owner's data. -/
theorem homeRequest_ncrd :
    let e := s.mem.entry line
    let t := s.homeRequest event line ⟨d, .ncrd⟩ false
    (e.st ≠ .em → (t.mem.entry line).st = e.st ∧ (e.st = .s → (t.mem.entry line).shr = e.shr) ∧ answered s t line d false true ∧
      t.mem.bytes = s.mem.bytes) ∧
    (e.st = .em → snooping s t line .bC d .ncrd [e.own.val] .snpcur) := by
  obtain ⟨u, e, ⟨hu, hrec, rfl, hst, hshr, hown, hstable, hqueue, htxn, hl⟩, hserve⟩ :=
    homeRequest_serves hquiet event ⟨d, .ncrd⟩ false (by simp)
  dsimp only
  rw [hserve, ← hst, ← hshr, ← hown]
  obtain ⟨hanswer, hsnoop⟩ := serveReq_ncrd u (e := e) d hstable
  refine ⟨fun hne => ?_, fun ho => ?_⟩
  · have hrest : AtRest (u.reply e.line d false true).mem e.line := hrec.atRest hstable hqueue htxn
    obtain ⟨hbytes, -, -, hagenda, -⟩ := hu.stands
    rw [hanswer hne, serveQueue_atRest hrest]
    refine ⟨hrec.1, fun hsh => ?_, reply_answers hagenda .., hbytes⟩
    obtain ⟨-, -, hshr, -⟩ := (hrec.same (by rw [hsh]; decide)).fields
    exact hshr
  · rw [hsnoop ho]
    exact snoopings_of_beginTxn hu hl rfl d _ (by simp) 4

/-- The copy read of a migration sends nothing but the snoop of an owner. -/
theorem homeRequest_migrd :
    let e := s.mem.entry line
    let t := s.homeRequest event line ⟨d, .migrd⟩ false
    (e.st ≠ .em → (t.mem.entry line).st = e.st ∧ t.agenda = s.agenda ∧ t.mem.bytes = s.mem.bytes) ∧
    (e.st = .em → snooping s t line .bS d .migrd [e.own.val] .snpshr) := by
  obtain ⟨u, e, ⟨hu, hrec, rfl, hst, hshr, hown, hstable, hqueue, htxn, hl⟩, hserve⟩ :=
    homeRequest_serves hquiet event ⟨d, .migrd⟩ false (by simp)
  dsimp only
  rw [hserve, ← hst, ← hown]
  obtain ⟨hstays, hsnoop⟩ := serveReq_migrd u (e := e) d hstable
  refine ⟨fun hne => ?_, fun ho => ?_⟩
  · obtain ⟨hbytes, -, -, hagenda, -⟩ := hu.stands
    rw [hstays hne, serveQueue_atRest (hrec.atRest hstable hqueue htxn)]
    exact ⟨hrec.1, hagenda, hbytes⟩
  · rw [hsnoop ho]
    exact snoopings_of_beginTxn hu hl rfl d _ (by simp) 4

/-- A write that allocates nothing is written and answered where no die holds the line, and else snoops the holders. -/
theorem homeRequest_ncwr (m : BitVec 128) (w : Line) (g : BitVec 3) (et : Bool) (agent : Nat) :
    let e := s.mem.entry line
    let k := DirReqKind.ncwr m w g et agent
    let t := s.homeRequest event line ⟨d, k⟩ false
    (e.st = .i → ∃ u, HomesOnly s u ∧ (t.mem.entry line).st = .i ∧ answered s t line d false true ∧
      (let v := u.homeWrite line m w g et agent
       t.mem.bytes = v.mem.bytes ∧ t.mem.units = v.mem.units ∧ t.cores = v.cores)) ∧
    (e.st = .s → diesOf e.shr ≠ [] → snooping s t line .bE d k (diesOf e.shr) .snpinv) ∧
    (e.st = .em → snooping s t line .bE d k [e.own.val] .snpinv) := by
  obtain ⟨u, e, ⟨hu, hrec, rfl, hst, hshr, hown, hstable, hqueue, htxn, hl⟩, hserve⟩ :=
    homeRequest_serves hquiet event ⟨d, .ncwr m w g et agent⟩ false (by simp)
  dsimp only
  rw [hserve, ← hst, ← hshr, ← hown]
  obtain ⟨hi, hs, hem⟩ := serveReq_ncwr u (e := e) d m w g et agent
  refine ⟨fun hfree => ⟨u, hu, ?_⟩, fun hsh hdies => ?_, fun ho => ?_⟩
  · let v := u.homeWrite e.line m w g et agent
    have hwrites : FabricStands u v := fabricStands_lineWrite ..
    have hrec' : Records (v.bumpVersion e.line).mem e := (hrec.of_sameDirs hwrites.sameDirs).of_sameDirs (sameDirs_bumpVersion ..)
    have hrest : AtRest ((v.bumpVersion e.line).reply e.line d false true).mem e.line := hrec'.atRest hstable hqueue htxn
    have hagenda : (v.bumpVersion e.line).agenda = s.agenda := hwrites.2.2.trans hu.stands.2.2.2.1
    rw [hi hfree, serveQueue_atRest hrest]
    exact ⟨hrec'.1.trans hfree, reply_answers hagenda .., rfl, rfl, rfl⟩
  · rw [hs hsh]
    exact snoopings_of_beginTxn hu hl rfl d _ hdies 4
  · rw [hem ho]
    exact snoopings_of_beginTxn hu hl rfl d _ (by simp) 4

end requests

/-! ## The bytes of a write at the home (02 R39, R50) -/

section homeWrite
variable {s u : State} (hu : HomesOnly s u) (hwf : Memory.wf s.mem.bytes = true) (line : Nat) (m : BitVec 128) (w : Line)
include hu hwf

theorem homeWrite_bytes (g : BitVec 3) (et : Bool) (agent : Nat)
    (hclean : et = true → ∀ i < 128, s.mem.poisoned g.toNat (128 * line + i) = false) :
    let t := u.homeWrite line m w g et agent
    (∀ j, (j < 128 * line ∨ 128 * line + 128 ≤ j) → Memory.byte t.mem.bytes j = Memory.byte s.mem.bytes j) ∧
    ∀ i < 128, Memory.byte t.mem.bytes (128 * line + i) =
      if m.getLsbD i then BitVec.ofNat 8 (w.toNat / 2 ^ (8 * i)) else Memory.byte s.mem.bytes (128 * line + i) := by
  obtain ⟨hbytes, hunits, -, -, -⟩ := hu.stands
  rw [Nat.mul_comm 128]
  rw [Nat.mul_comm 128] at hclean
  have hclean' : et = true → ∀ i < 128, u.mem.poisoned g.toNat (line * 128 + i) = false := fun het i hi =>
    (poisoned_congr hunits ..).trans (hclean het i hi)
  obtain ⟨hout, hin⟩ := lineWrite_bytes (s := u) (by rw [hbytes, hwf]) g.toNat et agent line m.toNat (length_bytesOf w) hclean'
  rw [hbytes] at hout hin
  refine ⟨hout, fun i hi => (hin i hi).trans ?_⟩
  dsimp only
  rw [getD_bytesOf w hi]
  rfl

theorem homeWrite_substitutes {g : BitVec 3} (hg : g = 2) {et : Bool} (het : et = true)
    (hunits : tableWf UnitMeta.reset s.mem.units = true) (c : Fin 192) (x : Fin 4) (hsome : m ≠ 0)
    (hnotall : m ≠ BitVec.allOnes 128) (hp : s.mem.poisoned 2 (128 * line) = true) :
    let t := u.homeWrite line m w g et (agentOf c x)
    t.mem.poisoned 2 (128 * line) = false ∧ (t.ctxAt c x).subst = satAdd (s.ctxAt c x).subst 1 ∧
      ∀ i < 128, Memory.byte t.mem.bytes (128 * line + i) = if m.getLsbD i then BitVec.ofNat 8 (w.toNat / 2 ^ (8 * i)) else 0 := by
  subst hg het
  obtain ⟨hbytes, hunits', -, -, hcores⟩ := hu.stands
  have hctx : u.ctxAt c x = s.ctxAt c x := (contextsStand_of_eq (s := s) (t := u) (by rw [hu]) hcores).ctxAt c x
  rw [Nat.mul_comm 128]
  rw [Nat.mul_comm 128] at hp
  obtain ⟨hclear, hsubst, hin⟩ := lineWrite_substitutes (s := u) (by rw [hbytes, hwf]) (by rw [hunits', hunits]) c x (length_bytesOf w) m.isLt
    (fun h => hsome (BitVec.eq_of_toNat_eq h)) (fun h => hnotall (BitVec.eq_of_toNat_eq (h.trans BitVec.toNat_allOnes.symm)))
    ((poisoned_congr hunits' ..).trans hp)
  rw [hctx] at hsubst
  refine ⟨hclear, hsubst, fun i hi => (hin i hi).trans ?_⟩
  rw [getD_bytesOf w hi]
  rfl

end homeWrite

/-- Settles O38: a request for a quiet line by what `homeRequest` does with it in each state of the line, and the bytes of an NcWr by
those of the write under its mask. -/
theorem homeAgentRequests : Obligations.HomeAgentRequests := by
  intro s a d line e hquiet hwb hroom others wants
  have hown (i : Instr) (k : DirReqKind) (hk : k = .rde ∨ k = .upg) (hexec : exec i s = .next (s.homeRequest i line ⟨d, k⟩ true)) :
      wants i k := by
    obtain ⟨hgrant, hsnoop, howner⟩ := homeRequest_own hquiet i d hk hroom
    refine ⟨fun h => ⟨_, hexec, ?_⟩, fun hs ho => ⟨_, hexec, hsnoop hs ho⟩, fun ho => ⟨_, hexec, howner ho⟩⟩
    obtain ⟨hst, hholder, hrest⟩ := hgrant h
    exact ⟨hst, hholder.trans (dieIx_val a.die), hrest⟩
  refine ⟨fun he hm => ?_, ?_, ?_, ?_, ?_, ?_⟩
  · obtain ⟨hshare, howner⟩ := homeRequest_rds hquiet .rds d hroom
    have hexec : exec .rds s = .next (s.homeRequest .rds line ⟨d, .rds⟩ true) := dieRequest_sends .rds .rds hwb fun _ => ⟨he, hm⟩
    exact ⟨hown .rde .rde (.inl rfl) (dieRequest_sends .rde .rde hwb fun _ => ⟨he, hm⟩),
      hown .upg .upg (.inr rfl) (dieRequest_sends .upg .upg hwb fun _ => ⟨he, hm⟩),
      fun hne => ⟨_, hexec, hshare hne⟩, fun ho => ⟨_, hexec, howner ho⟩⟩
  · exact fun hne => ⟨_, dieRequest_sends .ncrd .ncrd hwb (by simp), (homeRequest_ncrd hquiet .ncrd d).1 hne⟩
  · exact fun ho => ⟨_, dieRequest_sends .ncrd .ncrd hwb (by simp), (homeRequest_ncrd hquiet .ncrd d).2 ho⟩
  · intro w m
    have hexec : exec .ncwr s =
        .next (s.homeRequest .ncwr line ⟨d, .ncwr m w a.gran a.flag (agentOf a.core a.ctx)⟩ false) :=
      dieRequest_sends .ncwr _ hwb (by simp)
    obtain ⟨hwrite, hsnoop, howner⟩ := homeRequest_ncwr hquiet .ncwr d m w a.gran a.flag (agentOf a.core a.ctx)
    refine ⟨fun hwf hi hclean => ?_, fun hs hdies => ⟨_, hexec, hsnoop hs hdies⟩, fun ho => ⟨_, hexec, howner ho⟩,
      fun hwf hunits hi hgran hflag hsome hnotall hp => ?_⟩
    · obtain ⟨u, hu, hst, hanswer, hb, -, -⟩ := hwrite hi
      obtain ⟨hout, hin⟩ := homeWrite_bytes hu hwf line m w a.gran a.flag (agentOf a.core a.ctx) hclean
      rw [← hb] at hout hin
      exact ⟨_, hexec, hst, hanswer, hout, hin⟩
    · obtain ⟨u, hu, -, -, hb, hun, hcores⟩ := hwrite hi
      obtain ⟨hclear, hsubst, hbytes⟩ := homeWrite_substitutes hu hwf line m w hgran hflag hunits a.core a.ctx hsome hnotall hp
      rw [← hb] at hbytes
      refine ⟨_, hexec, (poisoned_congr hun ..).trans hclear, ?_, hbytes⟩
      rw [← hsubst]
      exact congrArg (fun v : Vector Core 192 => ((v.get a.core).ctx a.ctx).subst) hcores
  · exact fun hne => ⟨_, rfl, (homeRequest_migrd hquiet .migrd 0).1 hne⟩
  · exact fun ho => ⟨_, rfl, (homeRequest_migrd hquiet .migrd 0).2 ho⟩

end Sys2Proof.Proofs
end

section
/-! PROOFS. Snoops, their answers and writebacks (O39). -/

namespace Sys2Proof.Proofs

open Sys2Proof Sys2Proof.Machine Sys2Proof.Claims Sys2Proof.Laws

/-! ## What a die holds (03 R61, R64) -/

theorem dieLine?_dropDie (m : MemSys) (die line : Nat) : (m.dropDie die line).dieLine? die line = none := by
  refine List.find?_eq_none.mpr fun x hx hmatch => ?_
  have hkept := (List.mem_filter.mp hx).2
  rw [hmatch] at hkept
  cases hkept

theorem dieLine?_match {m : MemSys} {die line : Nat} {x : DieLine} (h : m.dieLine? die line = some x) : x.die = die ∧ x.line = line := by
  simpa using List.find?_some h

theorem dieSt_setDie (m : MemSys) (die line : Nat) (st : Option LineSt) : (m.setDie die line st).dieSt die line = st := by
  have hrest := dieLine?_dropDie m die line
  unfold MemSys.dieSt MemSys.setDie
  cases st with
  | none => rw [hrest]; rfl
  | some st =>
    let x := { (m.dieLine? die line).getD (DieLine.fresh die line st) with st := st }
    have hx : x.die = die ∧ x.line = line := by
      cases h : m.dieLine? die line with
      | none => simp only [x, h, Option.getD_none, DieLine.fresh, and_self]
      | some y => simpa only [x, h, Option.getD_some] using dieLine?_match h
    have hfound : (x.die == die && x.line == line) = true := by simp [hx]
    have hfind : ({ m.dropDie die line with dieLines := (m.dropDie die line).dieLines ++ [x] } : MemSys).dieLine? die line = some x := by
      have hnone : (m.dropDie die line).dieLines.find? (fun x => x.die == die && x.line == line) = none := hrest
      rw [MemSys.dieLine?, List.find?_append, hnone, Option.none_or]
      simp only [List.find?_cons, hfound]
    exact congrArg (Option.map (·.st)) hfind

theorem find?_modFirst_const {α : Type} {p : α → Bool} {y : α} (hy : p y = true) {l : List α} (h : (l.find? p).isSome = true) :
    (modFirst p (fun _ => y) l).find? p = some y := by
  induction l with
  | nil => cases h
  | cons a l ih =>
    unfold modFirst
    split
    · rw [List.find?_cons_of_pos hy]
    · next ha =>
      rw [List.find?_cons_of_neg ha] at h ⊢
      exact ih h

/-- A die that installs a line holds it in the state that it was given. -/
theorem dieSt_install (m : MemSys) (die line : Nat) (st : LineSt) (hall : Fin 48) : (m.install die line st hall).dieSt die line = some st := by
  let x := (m.dieLine? die line).getD (m.arrived die line hall)
  have hx : x.die = die ∧ x.line = line := by
    cases h : m.dieLine? die line with
    | none => simp only [x, h, Option.getD_none, MemSys.arrived, DieLine.fresh, and_self]
    | some y => simpa only [x, h, Option.getD_some] using dieLine?_match h
  have hsome : ((m.setDie die line (some st)).dieLine? die line).isSome = true := by
    have hst := dieSt_setDie m die line (some st)
    rw [MemSys.dieSt] at hst
    cases h : (m.setDie die line (some st)).dieLine? die line with
    | none => rw [h] at hst; cases hst
    | some y => rfl
  have hfind := find?_modFirst_const (p := fun x : DieLine => x.die == die && x.line == line)
    (y := { x with st := st, slices := x.slices ||| sliceBit hall }) (by simp [hx]) hsome
  exact congrArg (Option.map (·.st)) hfind

theorem coreAt_modDieCores (s : State) (die : Nat) (f : Core → Core) (c : Fin 192) :
    (s.modDieCores die f).coreAt c = if c.val / 48 = die then f (s.coreAt c) else s.coreAt c := Vector.getElem_mapIdx c.isLt

/-- No core of a die that has dropped a line has it in its L1. -/
theorem l1_dropLine (s : State) {die line : Nat} {c : Fin 192} (hc : (dieOf c).val = die) :
    ∀ l ∈ ((s.dropLine die line).coreAt c).l1, l.line ≠ line := by
  have hget : (s.dropLine die line).coreAt c = { s.coreAt c with l1 := (s.coreAt c).l1.filter fun x => x.line != line } :=
    (coreAt_modDieCores ..).trans (if_pos hc)
  intro l hl
  rw [hget] at hl
  simpa using (List.mem_filter.mp hl).2

/-! ## A snoop at a die (03 R64, R68) -/

/-- The answer of the die that the event names is on its way. -/
def snoopAnswered (s t : State) (x : SnoopAns) : Prop :=
  (∃ b, t.agenda = s.agenda ++ [(.snoopAnswer, b)] ∧ b.die = s.arg.die ∧ b.addr = s.arg.addr ∧ b.ans = x) ∧ t.mem.bytes = s.mem.bytes

section snoop
variable {s : State} (keep : LineSt → Option LineSt)

theorem snoop_pending (h : (s.arg.die.val, s.arg.addr) ∈ s.mem.wbPending) : s.snoop keep = s.answerSnoop .ackWb :=
  if_pos (by simpa using h)

variable (h : (s.arg.die.val, s.arg.addr) ∉ s.mem.wbPending)
include h

theorem snoop_absent (hst : s.mem.dieSt s.arg.die.val s.arg.addr = none) : s.snoop keep = s.answerSnoop .ack := by
  have hnone : s.mem.dieLine? s.arg.die.val s.arg.addr = none := Option.map_eq_none_iff.mp hst
  unfold State.snoop
  dsimp only
  rw [if_neg (by simpa using h), hnone]

/-- A die that holds the line keeps or drops it as the snoop says, and answers data where it was dirty. -/
theorem snoop_held {x : LineSt} (hst : s.mem.dieSt s.arg.die.val s.arg.addr = some x) :
    let t := s.snoop keep
    snoopAnswered s t (if x = .m then .data (s.mem.lineData s.arg.addr) else .ackClean) ∧
      t.mem.dieSt s.arg.die.val s.arg.addr = keep x ∧
      (keep x = none → ∀ c, (dieOf c).val = s.arg.die.val → ∀ l ∈ (t.coreAt c).l1, l.line ≠ s.arg.addr) := by
  obtain ⟨y, hy, rfl⟩ := Option.map_eq_some_iff.mp hst
  let v : State := match keep y.st with
    | none => s.dropLine s.arg.die.val s.arg.addr
    | some z => s.modMem fun m => m.setDie s.arg.die.val s.arg.addr (some z)
  have hv : v.agenda = s.agenda ∧ v.arg = s.arg ∧ v.mem = s.mem.setDie s.arg.die.val s.arg.addr (keep y.st) := by
    simp only [v]
    split
    · next hk => rw [hk]; exact ⟨rfl, rfl, rfl⟩
    · next hk => rw [hk]; exact ⟨rfl, rfl, rfl⟩
  obtain ⟨hagenda, harg, hmem⟩ := hv
  have hbytes : v.mem.bytes = s.mem.bytes := by rw [hmem, setDie_bytes]
  have hdie : v.mem.dieSt s.arg.die.val s.arg.addr = keep y.st := by rw [hmem, dieSt_setDie]
  have hl1 : keep y.st = none → ∀ c, (dieOf c).val = s.arg.die.val → ∀ l ∈ (v.coreAt c).l1, l.line ≠ s.arg.addr := by
    intro hk c hc
    simp only [v, hk]
    exact l1_dropLine s hc
  have hsnoop : s.snoop keep =
      if y.st = .m then v.post .snoopAnswer (carryOwned { die := s.arg.die, addr := s.arg.addr, ans := .data (s.mem.lineData s.arg.addr) }
        (y.owned (s.mem.lineData s.arg.addr)))
      else v.answerSnoop .ackClean := by
    unfold State.snoop
    dsimp only
    rw [if_neg (by simpa using h), hy] <;> rfl
  have hname : v.arg.die = s.arg.die ∧ v.arg.addr = s.arg.addr := by rw [harg]; exact ⟨rfl, rfl⟩
  dsimp only
  rw [hsnoop]
  split
  · exact ⟨⟨⟨_, congrArg (· ++ _) hagenda, rfl, rfl, rfl⟩, hbytes⟩, hdie, hl1⟩
  · exact ⟨⟨⟨_, congrArg (· ++ _) hagenda, hname.1, hname.2, rfl⟩, hbytes⟩, hdie, hl1⟩

end snoop

/-! ## Data that comes back to the home (03 R66, 02 R39, R50) -/

theorem modMem_write_bytes (s : State) (a : Nat) (bs : List Byte) :
    (s.modMem fun m => { m with bytes := Memory.write m.bytes a bs }).mem.bytes = Memory.write s.mem.bytes a bs := rfl

/-- The bytes that an owner returns stand in memory, where its line is not poisoned or nothing is substituted. -/
theorem ownerWrite_stores {s : State} (hwf : Memory.wf s.mem.bytes = true) (line : Nat) (o : OwnerData)
    (hclean : o.et = true → ∀ i < 128, s.mem.poisoned o.gran.toNat (line * 128 + i) = false) :
    storedAt s.mem.bytes (s.ownerWrite line o).mem.bytes (line * 128) (bytesOf 128 o.data) := by
  let mask := sectorBytes (~~~(o.bad ||| o.unheld))
  let v := s.lineWrite o.gran.toNat o.et o.writer line mask (bytesOf 128 o.data)
  have hbytes : (s.ownerWrite line o).mem.bytes = Memory.write v.mem.bytes (line * 128) (bytesOf 128 o.data) := by
    unfold State.ownerWrite
    refine (modMem_write_bytes ..).trans (congrArg (fun b => Memory.write b (line * 128) (bytesOf 128 o.data)) ?_)
    exact List.foldlRecOn (motive := fun u : State => u.mem.bytes = v.mem.bytes) _ _ rfl fun _ hb _ _ => (setGran_bytes ..).trans hb
  have hwf' : Memory.wf v.mem.bytes = true := by
    rw [show v = _ from lineWrite_eq_foldl ..]
    exact List.foldlRecOn (motive := fun u : State => Memory.wf u.mem.bytes = true) _ _ hwf fun _ hb c _ => writeSpan_wf hb _ _ _ _ _ c
  obtain ⟨hout, -⟩ := lineWrite_bytes hwf o.gran.toNat o.et o.writer line mask (length_bytesOf o.data) hclean
  rw [hbytes]
  refine ⟨fun i hi => byte_write_inside _ hwf' _ i hi, fun j hj => (byte_write_outside _ hwf' _ j hj).trans (hout j ?_)⟩
  rwa [length_bytesOf] at hj

/-- The message that brings the data of a line meets no poison there, where its page has ET = 1 (02 R50). -/
def BringsClean (s : State) : Prop :=
  s.arg.flag = false ∨ ∀ i < 128, s.mem.poisoned s.arg.gran.toNat (s.arg.addr * 128 + i) = false

theorem ownedArgs_stores {s v : State} (hbytes : v.mem.bytes = s.mem.bytes) (hunits : v.mem.units = s.mem.units)
    (hwf : Memory.wf s.mem.bytes = true) (hclean : BringsClean s) (x : Line) :
    storedAt s.mem.bytes (v.ownerWrite s.arg.addr (ownedArgs s.arg x)).mem.bytes (s.arg.addr * 128) (bytesOf 128 x) := by
  rw [← hbytes]
  refine ownerWrite_stores (by rw [hbytes, hwf]) s.arg.addr (ownedArgs s.arg x) fun het i hi => ?_
  rcases hclean with hoff | hclean
  · rw [show s.arg.flag = true from het] at hoff
    cases hoff
  · exact (poisoned_congr hunits ..).trans (hclean i hi)

/-! ## The last answer (03 R66, R68) -/

/-- The entry after an answer of die `d`. -/
def answeredEntry (e : DirEntry) (d : Nat) (copy : Bool) (dirty : Option OwnerData) : DirEntry :=
  { e with
    waiting := e.waiting.erase d
    dirty := dirty.orElse fun _ => e.dirty
    shr := if e.st = .bS && copy then e.shr ||| dieBit d else e.shr }

theorem counted_last (s : State) {e : DirEntry} {d : Nat} (hwaiting : e.waiting = [d]) {r : DirReq} (htxn : e.txn = some r) (copy : Bool)
    (dirty : Option OwnerData) :
    s.counted e d copy dirty =
      ((s.modMem fun m => m.putEntry (answeredEntry e d copy dirty)).endTxn (answeredEntry e d copy dirty) r).settle e.line := by
  unfold State.counted
  dsimp only
  split
  · next q hq =>
    obtain rfl : q = r := Option.some.inj (hq.symm.trans htxn)
    rw [if_pos (by rw [hwaiting]; simp)]
    rfl
  · next hq =>
    rw [htxn] at hq
    cases hq

section lastAnswer
variable {s : State} {line d : Nat} (hl : homed line)
  (hwf : Memory.wf s.mem.bytes = true) (hqueue : (s.mem.entry line).queue = []) (hwaiting : (s.mem.entry line).waiting = [d])
  (hdirty : (s.mem.entry line).dirty = none) {r : Nat}
include hl hqueue hwaiting hdirty

omit hdirty in
/-- The last answer to a request for ownership brings the dirty data: they are written, and ownership is granted. -/
theorem counted_grants (hst : (s.mem.entry line).st = .bE) (htxn : (s.mem.entry line).txn = some ⟨r, .rde⟩) (copy : Bool)
    (o : OwnerData) :
    let t := s.counted (s.mem.entry line) d copy (some o)
    (t.mem.entry line).st = .em ∧ (t.mem.entry line).own = dieIx r ∧ answered s t line r true false ∧
      ∃ v, HomesOnly s v ∧ t.mem.bytes = (v.ownerWrite line o).mem.bytes := by
  let e := answeredEntry (s.mem.entry line) d copy (some o)
  have heline : e.line = line := entry_line ..
  let v := s.modMem fun m => m.putEntry e
  obtain ⟨x, hx⟩ : ∃ x, x = v.ownerWrite line o := ⟨_, rfl⟩
  have hdata : dirtyWritten v e = x := hx ▸ congrArg (fun l => v.ownerWrite l o) heline
  have hstands : FabricStands v x := hx ▸ fabricStands_ownerWrite v line o
  let w := x.bumpVersion line
  have hhomes : HomesOnly x (w.lineStable (ownedBy e r) .em 0) := (homesOnly_bumpVersion x line).trans (homesOnly_lineStable w ..)
  have hrec := records_lineStable w (e := ownedBy e r) (heline.symm ▸ hl) .em 0
  dsimp only
  rw [counted_last s hwaiting htxn, endTxn_grant _ (e := e) hst r (.inl rfl), hdata, heline, entry_line, State.settle]
  obtain ⟨ht, hst', hown, hanswer⟩ := stable_replied (s := s) (hhomes.stands.2.2.2.1.trans hstands.2.2) (e := ownedBy e r) hqueue rfl hrec r
    true false _
  rw [show (ownedBy e r).line = line from heline] at ht hst' hown hanswer
  rw [ht] at hst' hown hanswer ⊢
  exact ⟨hst', (hown (by decide)).1, hanswer, v, homesOnly_putEntry .., hx ▸ hhomes.stands.1⟩

/-- The last answer to a read brings no data: the owner stays as a sharer if it kept its copy, and the reader is one. -/
theorem counted_shares (hst : (s.mem.entry line).st = .bS) (htxn : (s.mem.entry line).txn = some ⟨r, .rds⟩)
    (hshr : (s.mem.entry line).shr = 0) (copy : Bool) :
    let t := s.counted (s.mem.entry line) d copy none
    (t.mem.entry line).st = .s ∧ answered s t line r false false ∧ t.mem.bytes = s.mem.bytes ∧
      (t.mem.entry line).shr = (if copy then dieBit d else 0) ||| dieBit r := by
  let e := answeredEntry (s.mem.entry line) d copy none
  have heline : e.line = line := entry_line ..
  let v := s.modMem fun m => m.putEntry e
  have hdata : dirtyWritten v e = v := by
    unfold dirtyWritten
    rw [show e.dirty = none from hdirty]
  have hkept : e.shr = if copy then dieBit d else 0 := by
    simp only [e, answeredEntry, hst, hshr]
    cases copy
    · rfl
    · exact BitVec.zero_or
  have hhomes := (homesOnly_putEntry s e).trans (homesOnly_lineStable v e .s (e.shr ||| dieBit r))
  have hrec := records_lineStable v (e := e) (heline.symm ▸ hl) .s (e.shr ||| dieBit r)
  dsimp only
  rw [counted_last s hwaiting htxn, endTxn_share _ (e := e) hst r, hdata, entry_line, State.settle]
  obtain ⟨ht, hst', hshr', hanswer⟩ := stable_replied (s := s) hhomes.stands.2.2.2.1 (e := e) hqueue rfl hrec r false false _
  rw [heline] at ht hst' hshr' hanswer
  rw [heline, ht]
  rw [ht] at hst' hshr' hanswer
  refine ⟨hst', hanswer, hhomes.stands.1, ?_⟩
  rw [← hkept]
  exact (hshr' (by decide)).2

end lastAnswer

/-! ## Writebacks (03 R68, R69) -/

/-- A die that evicts a line drops it, and its message is on its way. -/
theorem writeback_leaves {s : State} (event : Instr) {x : LineSt} (data : Option OwnerData)
    (hwb : (s.arg.die.val, s.arg.addr) ∉ s.mem.wbPending) (hst : s.mem.dieSt s.arg.die.val s.arg.addr = some x) :
    ∃ b, let t := s.writeback event x data
      t.mem.dieSt s.arg.die.val s.arg.addr = none ∧ (s.arg.die.val, s.arg.addr) ∈ t.mem.wbPending ∧ t.mem.bytes = s.mem.bytes ∧
        t.agenda = s.agenda ++ [(event, b)] ∧ b.die = s.arg.die ∧ b.addr = s.arg.addr := by
  obtain ⟨y, hy, -⟩ := Option.map_eq_some_iff.mp hst
  unfold State.writeback
  dsimp only
  rw [if_neg (by simpa using hwb), if_pos hst, hy]
  exact ⟨_, dieSt_setDie s.mem s.arg.die.val s.arg.addr none, List.mem_append_right _ (List.mem_singleton_self _),
    setDie_bytes s.mem s.arg.die.val s.arg.addr none, rfl, rfl, rfl⟩

/-- The data of a writeback, where it brings some, are written. -/
def returned (s : State) (line : Nat) (data : Option OwnerData) : State :=
  match data with
  | some x => s.ownerWrite line x
  | none => s

theorem returned_some (s : State) (line : Nat) (x : OwnerData) : returned s line (some x) = s.ownerWrite line x := rfl

theorem fabricStands_returned (s : State) (line : Nat) (data : Option OwnerData) : FabricStands s (returned s line data) := by
  unfold returned
  split
  · exact fabricStands_ownerWrite ..
  · exact .refl s

/-- A writeback that the home expects from the owner of a quiet line makes the line I, and is acknowledged. -/
theorem writeback_arrives {s : State} (event : Instr) (x : LineSt) (data : Option OwnerData)
    (hwb : (s.arg.die.val, s.arg.addr) ∈ s.mem.wbPending) (hquiet : quietLine s s.arg.addr) (hst : (s.mem.entry s.arg.addr).st = .em)
    (hown : (s.mem.entry s.arg.addr).own = s.arg.die) (hwaiting : s.arg.die.val ∉ (s.mem.entry s.arg.addr).waiting) :
    let t := s.writeback event x data
    (t.mem.entry s.arg.addr).st = .i ∧ t.agenda = s.agenda ++ [(.wback, ({ die := s.arg.die, addr := s.arg.addr } : EvArgs))] ∧
      t.mem.bytes = (returned (s.post .wback { die := s.arg.die, addr := s.arg.addr }) s.arg.addr data).mem.bytes := by
  obtain ⟨hl, -, hqueue, -, -⟩ := hquiet
  let e := s.mem.entry s.arg.addr
  have heline : e.line = s.arg.addr := entry_line ..
  obtain ⟨v, hv⟩ : ∃ v, v = returned (s.post .wback { die := s.arg.die, addr := s.arg.addr }) s.arg.addr data := ⟨_, rfl⟩
  have hstands := fabricStands_returned (s.post .wback { die := s.arg.die, addr := s.arg.addr }) s.arg.addr data
  rw [← hv] at hstands
  have hrec : Records (v.lineStable e .i 0).mem (stableEntry e .i 0) := records_lineStable v (e := e) (heline.symm ▸ hl) .i 0
  have hrest : AtRest (v.lineStable e .i 0).mem e.line := hrec.atRest rfl hqueue rfl
  have hexec : s.writeback event x data = (v.lineStable e .i 0).settle s.arg.addr := by
    unfold State.writeback
    dsimp only
    rw [if_pos (by simpa using hwb), if_neg (by simpa using hwaiting), if_pos (by simp [hst, hown]), hv]
    rfl
  rw [heline] at hrest
  dsimp only
  rw [hexec, State.settle, serveQueue_atRest hrest, ← hv]
  have hhomes := (homesOnly_lineStable v e .i 0).stands
  exact ⟨heline ▸ hrec.1, hhomes.2.2.2.1.trans hstands.2.2, hhomes.1⟩

/-- Settles O39: a snoop by what the die holds, the last answer by the transaction that it ends, a writeback by its two ends. -/
theorem snoopsAndWritebacks : Obligations.SnoopsAndWritebacks := by
  intro s a d line e tells clean snooped
  have hsnooped (i : Instr) (keep : LineSt → Option LineSt) (hexec : exec i s = .next (s.snoop keep)) : snooped i keep := by
    refine ⟨fun h => ⟨_, hexec, ?_⟩, fun h hst => ⟨_, hexec, ?_⟩, fun x h hst => ⟨_, hexec, snoop_held keep h hst⟩⟩
    · rw [snoop_pending keep h]
      exact ⟨⟨⟨_, rfl, rfl, rfl, rfl⟩, rfl⟩, rfl⟩
    · rw [snoop_absent keep h hst]
      exact ⟨⟨⟨_, rfl, rfl, rfl, rfl⟩, rfl⟩, rfl⟩
  refine ⟨hsnooped .snpinv _ rfl, hsnooped .backinv _ rfl, hsnooped .snpshr _ rfl, hsnooped .snpcur _ rfl, ?_, ?_, ?_, ?_, ?_, ?_, ?_⟩
  · intro h
    show execSnoopAnswer s = _
    unfold execSnoopAnswer
    dsimp only
    split
    · rfl
    · next hin =>
      rw [h.resolve_right (by simpa using hin)]
  · intro hl hwf hqueue hwaiting hdirty r
    have hin : (!e.waiting.contains d) = false := by simp [hwaiting]
    refine ⟨fun x hst htxn hans hc => ?_, fun hst htxn hshr hans => ?_⟩
    · have hexec : exec .snoopAnswer s = .next (s.counted e d true (some (ownedArgs a x))) := by
        show execSnoopAnswer s = _
        unfold execSnoopAnswer
        dsimp only
        rw [if_neg (by rw [hin]; simp), hans]
      obtain ⟨hst', hown, hanswer, v, hv, hbytes⟩ := counted_grants hl hqueue hwaiting hst htxn true (ownedArgs a x)
      refine ⟨_, hexec, hst', hown, hanswer, ?_⟩
      rw [hbytes]
      exact ownedArgs_stores hv.stands.1 hv.stands.2.1 hwf hc x
    · have hexec : exec .snoopAnswer s = .next (s.counted e d (decide (a.ans = .ackClean)) none) := by
        show execSnoopAnswer s = _
        unfold execSnoopAnswer
        dsimp only
        rw [if_neg (by rw [hin]; simp)]
        rcases hans with hans | hans
        · rw [hans]; rfl
        · rw [hans]; rfl
      obtain ⟨hst', hanswer, hbytes, hshr'⟩ := counted_shares hl hqueue hwaiting hdirty hst htxn hshr (decide (a.ans = .ackClean))
      refine ⟨_, hexec, hst', hanswer, hbytes, ?_⟩
      rw [hshr']
      simp only [decide_eq_true_eq]
  · intro leaves
    refine ⟨fun h hst => ?_, fun h hst => ?_⟩
    · obtain ⟨b, hb⟩ := writeback_leaves .wbm (some (ownedArgs a (a.data.setWidth 1024))) h hst
      exact ⟨_, b, rfl, hb⟩
    · obtain ⟨b, hb⟩ := writeback_leaves .eve none h hst
      exact ⟨_, b, rfl, hb⟩
  · intro hwb hquiet hst hown hwaiting hwf
    refine ⟨fun hc => ?_, ?_⟩
    · obtain ⟨hst', hagenda, hbytes⟩ := writeback_arrives .wbm .m (some (ownedArgs a (a.data.setWidth 1024))) hwb hquiet hst hown hwaiting
      refine ⟨_, rfl, hst', ?_, hagenda⟩
      rw [hbytes, returned_some]
      exact ownedArgs_stores (v := s.post .wback { die := s.arg.die, addr := s.arg.addr }) rfl rfl hwf hc _
    · obtain ⟨hst', hagenda, hbytes⟩ := writeback_arrives .eve .e none hwb hquiet hst hown hwaiting
      exact ⟨_, rfl, hst', hbytes, hagenda⟩
  · refine ⟨_, rfl, ?_, rfl, fun x hx => ?_⟩
    · simp [State.modMem, a, d, line]
    · simp only [State.modMem, List.mem_filter, bne_iff_ne]
      exact and_iff_left hx
  · intro hflag hin
    have hexec : exec .dataToRequester s = .next (s.modMem fun m => m.install d line (if a.flag then .e else .s) a.hall) := by
      show execDataToRequester s = _
      unfold execDataToRequester
      dsimp only
      have hlisted : (e.holders.contains d || e.waiting.contains d) = true := by simp [hin]
      rw [hflag, if_neg (by rw [hlisted]; simp)]
    refine ⟨_, hexec, dieSt_install .., ?_⟩
    exact (modDieLine_bytes ..).trans (setDie_bytes ..)
  · intro hflag
    show execDataToRequester s = _
    unfold execDataToRequester
    dsimp only
    rw [if_pos (by rw [hflag]; rfl)]

end Sys2Proof.Proofs
end

section
/-! PROOFS. Registrations, races and the directory sweep (O40). -/

namespace Sys2Proof.Proofs

open Sys2Proof Sys2Proof.Machine Sys2Proof.Claims Sys2Proof.Laws

/-! ## Room in a set (03 R70, R71) -/

/-- Memory's bytes, the epochs and the events on their way stand. -/
def RecallStands (s t : State) : Prop := t.mem.bytes = s.mem.bytes ∧ t.mem.epochs = s.mem.epochs ∧ t.agenda = s.agenda

theorem RecallStands.refl (s : State) : RecallStands s s := ⟨rfl, rfl, rfl⟩

theorem RecallStands.trans {s t u : State} (h : RecallStands s t) (h' : RecallStands t u) : RecallStands s u :=
  ⟨h'.1.trans h.1, h'.2.1.trans h.2.1, h'.2.2.trans h.2.2⟩

theorem recallStands_recall (s : State) (line : Nat) : RecallStands s (s.recall line) := by
  have hdrop (u : State) (d : Nat) : RecallStands u (u.dropLine d line) := ⟨setDie_bytes u.mem d line none, rfl, rfl⟩
  have hdrops := List.foldlRecOn (motive := fun u => RecallStands s u) (s.mem.entry line).holders (fun s d => s.dropLine d line) (.refl s)
    fun u hu d _ => hu.trans (hdrop u d)
  exact hdrops.trans ⟨rfl, rfl, rfl⟩

theorem recallStands_makeRoom (s : State) (line extra : Nat) : RecallStands s (s.makeRoom line extra) := by
  have hfrom (n : Nat) : ∀ u : State, RecallStands u (State.makeRoomFrom line extra n u) := by
    induction n with
    | zero => exact .refl
    | succ n ih =>
      intro u
      unfold State.makeRoomFrom
      split
      · exact (recallStands_recall ..).trans (ih _)
      · exact .refl u
  exact hfrom 16 s

/-! ## A registration that is recorded (03 R72 to R74) -/

theorem mem_modFirst {α : Type} {p : α → Bool} {f : α → α} {l : List α} (h : l.any p = true) : ∃ x ∈ l, f x ∈ modFirst p f l := by
  induction l with
  | nil => cases h
  | cons a l ih =>
    unfold modFirst
    by_cases ha : p a = true
    · rw [if_pos ha]
      exact ⟨a, List.mem_cons_self .., List.mem_cons_self ..⟩
    · rw [if_neg ha]
      obtain ⟨x, hx, hfx⟩ := ih (by simpa [ha] using h)
      exact ⟨x, List.mem_cons_of_mem _ hx, List.mem_cons_of_mem _ hfx⟩

theorem mem_allReaders {e : DirEntry} {x : RaceSlot} : x ∈ e.allReaders ↔ x ∈ e.readers ∨ ∃ y ∈ e.exts, x ∈ y.slots := by
  simp [DirEntry.allReaders]

theorem mem_addReader (m : MemSys) (e : DirEntry) (slot : RaceSlot) (rank : Nat) : slot ∈ (m.addReader e slot rank).allReaders := by
  unfold MemSys.addReader
  dsimp only
  split
  · next h =>
    have hin : slot ∈ m.openReaders e := by simpa using h
    exact (List.mem_filter.mp hin).1
  split
  · exact mem_allReaders.mpr (.inl (List.mem_append_right _ (List.mem_singleton_self _)))
  split
  · next h =>
    obtain ⟨x, -, hx⟩ := mem_modFirst (f := fun x : DirExt => { x with slots := x.slots.filter m.slotOpen ++ [slot] }) h
    exact mem_allReaders.mpr (.inr ⟨_, hx, List.mem_append_right _ (List.mem_singleton_self _)⟩)
  · exact mem_allReaders.mpr (.inr ⟨⟨rank, [slot]⟩, List.mem_append_right _ (List.mem_singleton_self _), List.mem_singleton_self _⟩)

theorem addReader_line (m : MemSys) (e : DirEntry) (slot : RaceSlot) (rank : Nat) : (m.addReader e slot rank).line = e.line := by
  unfold MemSys.addReader
  dsimp only
  repeat' split
  all_goals rfl

section recorded
variable (m : MemSys) {e : DirEntry} {x : RaceSlot} (hopen : m.slotOpen x = true)
include hopen

theorem entryFree_of_reader (h : x ∈ e.allReaders) : m.entryFree e = false := by
  have hne : m.openReaders e ≠ [] := List.ne_nil_of_mem (List.mem_filter.mpr ⟨h, hopen⟩)
  simp [MemSys.entryFree, MemSys.hasOpen, hne]

theorem entryFree_of_writer (h : e.writer = some x) : m.entryFree e = false := by
  simp [MemSys.entryFree, MemSys.hasOpen, MemSys.openWriter, h, hopen]

/-- An open reader slot stays when free extension entries go. -/
theorem mem_allReaders_kept (h : x ∈ e.allReaders) : x ∈ ({ e with exts := e.exts.filter m.extOpen } : DirEntry).allReaders := by
  rw [mem_allReaders] at h ⊢
  rcases h with h | ⟨y, hy, hx⟩
  · exact .inl h
  · exact .inr ⟨y, List.mem_filter.mpr ⟨hy, List.any_eq_true.mpr ⟨x, hx, hopen⟩⟩, hx⟩

end recorded

theorem touch_epochs (m : MemSys) (line : Nat) : (m.touch line).epochs = m.epochs := by
  obtain ⟨v, hv⟩ := touch_eq m line
  rw [hv]

theorem touchExt_epochs (m : MemSys) (line : Nat) (slot : RaceSlot) : (m.touchExt line slot).epochs = m.epochs := by
  obtain ⟨v, hv⟩ := touchExt_eq m line slot
  rw [hv]

/-- The slot of an agent's open region. -/
def ownSlot (m : MemSys) (agent : Nat) : RaceSlot := ⟨agent, getIdx m.epochs agent 0⟩

theorem slotOpen_ownSlot (m : MemSys) (agent : Nat) : m.slotOpen (ownSlot m agent) = true := decide_eq_true rfl

section record
variable (s : State) {line : Nat} (hl : homed line) (agent : Nat)

/-- What a record leaves: no byte and no event, and after the ranks the entry that it has put. -/
theorem regRecord_keeps (write : Bool) :
    ∃ m : MemSys, m.epochs = s.mem.epochs ∧ (let e := m.entry line
      let put := m.putEntry (if write then { e.dropReader agent with writer := some (ownSlot m agent) }
        else m.addReader e (ownSlot m agent) (m.freeRank line))
      let t := s.regRecord agent line write
      LineAged put t.mem line ∧ t.mem.epochs = m.epochs ∧ t.mem.bytes = s.mem.bytes ∧ t.agenda = s.agenda) := by
  obtain ⟨hbytes, hepochs, hagenda⟩ := recallStands_makeRoom s line (s.mem.regWays agent line write)
  let m := (s.makeRoom line (s.mem.regWays agent line write)).mem
  refine ⟨m, hepochs, (lineAged_touchExt ..).trans (lineAged_touch ..), ?_, ?_, hagenda⟩
  · exact (touch_epochs ..).trans (touchExt_epochs ..)
  · exact (touch_bytes ..).trans ((touchExt_bytes ..).trans ((putEntry_bytes ..).trans hbytes))

include hl

theorem regRecord_reader :
    let t := s.regRecord agent line false
    t.mem.bytes = s.mem.bytes ∧ t.agenda = s.agenda ∧
      ∃ x ∈ (t.mem.entry line).allReaders, x.agent = agent ∧ t.mem.slotOpen x = true := by
  obtain ⟨m, -, haged, hepochs, hbytes, hagenda⟩ := regRecord_keeps s (line := line) agent false
  refine ⟨hbytes, hagenda, ownSlot m agent, ?_, rfl, by rw [slotOpen_congr hepochs]; exact slotOpen_ownSlot m agent⟩
  have hopen := slotOpen_ownSlot m agent
  have hslot := mem_addReader m (m.entry line) (ownSlot m agent) (m.freeRank line)
  have hline : (m.addReader (m.entry line) (ownSlot m agent) (m.freeRank line)).line = line := (addReader_line ..).trans (entry_line ..)
  have hput := entry_putEntry m (e := m.addReader (m.entry line) (ownSlot m agent) (m.freeRank line)) (hline.symm ▸ hl)
    (entryFree_of_reader m hopen hslot)
  rw [haged.entry.allReaders]
  have hkept := mem_allReaders_kept m hopen hslot
  rw [← hput, hline] at hkept
  exact hkept

theorem regRecord_writer :
    let t := s.regRecord agent line true
    t.mem.bytes = s.mem.bytes ∧ t.agenda = s.agenda ∧
      ∃ x, (t.mem.entry line).writer = some x ∧ x.agent = agent ∧ t.mem.slotOpen x = true := by
  obtain ⟨m, -, haged, hepochs, hbytes, hagenda⟩ := regRecord_keeps s (line := line) agent true
  refine ⟨hbytes, hagenda, ownSlot m agent, ?_, rfl, by rw [slotOpen_congr hepochs]; exact slotOpen_ownSlot m agent⟩
  let e : DirEntry := { (m.entry line).dropReader agent with writer := some (ownSlot m agent) }
  have hline : e.line = line := entry_line ..
  have hput := entry_putEntry m (e := e) (hline.symm ▸ hl) (entryFree_of_writer m (slotOpen_ownSlot m agent) rfl)
  rw [hline] at hput
  rw [haged.entry.1]
  exact congrArg DirEntry.writer hput

end record

/-! ## The answer of the home (03 R72, R73) -/

section answer
variable {s : State} (event : Instr) {write : Bool} (hfree : s.mem.lineBusy s.arg.addr = false)
include hfree

theorem registration_ok (hans : s.mem.regAnswer s.arg.id s.arg.addr write = .ok) :
    s.registration event write = (s.regRecord s.arg.id s.arg.addr write).post .registrationAnswer
      { id := s.arg.id, addr := s.arg.addr, flag := write, flag2 := true, value := s.arg.value } := by
  unfold State.registration
  dsimp only
  rw [hfree, if_neg (by simp), hans]

theorem registration_race (hans : s.mem.regAnswer s.arg.id s.arg.addr write = .race) :
    s.registration event write = s.post .registrationAnswer
      { id := s.arg.id, addr := s.arg.addr, flag := write, flag2 := false, value := s.arg.value } := by
  unfold State.registration
  dsimp only
  rw [hfree, if_neg (by simp), hans]

end answer

/-! ## The answer at a requester (03 R73) -/

theorem filtered_remember (c : Ctx) (line : Nat) (write : Bool) : (c.remember line write).filtered line write = true := by
  refine List.any_eq_true.mpr ⟨(line, write), ?_, by cases write <;> simp⟩
  unfold Ctx.remember
  dsimp only
  generalize c.filter.filter (fun p => p.1 != line) = l
  split
  · next h =>
    cases l with
    | nil => exact absurd h (by simp)
    | cons a l => exact List.mem_append_right _ (List.mem_singleton_self _)
  · exact List.mem_append_right _ (List.mem_singleton_self _)

theorem addBusy_grows (s : State) (c : Fin 192) : ∃ l, s.addBusy c = { s with busy := l } ∧ ∀ d ∈ s.busy, d ∈ l := by
  unfold State.addBusy
  split
  · exact ⟨s.busy, rfl, fun _ => id⟩
  · exact ⟨_, rfl, fun _ hd => List.mem_append_left _ hd⟩

/-! ## Looking again (03 R82) -/

/-- Contexts have looked again: no wait for a registration has begun, and nothing else of the threads, of memory or of the records has
moved. -/
def LookedAgain (s t : State) : Prop :=
  t.mem = s.mem ∧ t.recs = s.recs ∧ (∀ c ∈ s.busy, c ∈ t.busy) ∧ (∀ c, (t.coreAt c).running = (s.coreAt c).running) ∧
  ∀ c x, (t.ctxAt c x).s = (s.ctxAt c x).s ∧ (t.ctxAt c x).bix = (s.ctxAt c x).bix ∧
    ((s.ctxAt c x).stall ≠ some .registration → (t.ctxAt c x).stall ≠ some .registration)

theorem LookedAgain.refl (s : State) : LookedAgain s s := ⟨rfl, rfl, fun _ => id, fun _ => rfl, fun _ _ => ⟨rfl, rfl, id⟩⟩

theorem LookedAgain.trans {s t u : State} (h : LookedAgain s t) (h' : LookedAgain t u) : LookedAgain s u := by
  obtain ⟨hmem, hrecs, hbusy, hrun, hctx⟩ := h
  obtain ⟨hmem', hrecs', hbusy', hrun', hctx'⟩ := h'
  refine ⟨hmem'.trans hmem, hrecs'.trans hrecs, fun c hc => hbusy' c (hbusy c hc), fun c => (hrun' c).trans (hrun c), fun c x => ?_⟩
  obtain ⟨hs, hbix, hstall⟩ := hctx c x
  obtain ⟨hs', hbix', hstall'⟩ := hctx' c x
  exact ⟨hs'.trans hs, hbix'.trans hbix, fun h => hstall' (hstall h)⟩

/-- A context that waits for a registration no more. -/
def registrationSeen (k : Ctx) : Ctx := { k with stall := if k.stall == some .registration then none else k.stall }

theorem stall_registrationSeen (k : Ctx) : (registrationSeen k).stall ≠ some .registration := by
  simp only [registrationSeen]
  split
  · simp
  · next h => simpa using h

theorem filter_lookAgain (s : State) (c : Fin 192) (x : Fin 4) : ((s.lookAgain c x).ctxAt c x).filter = (s.ctxAt c x).filter := by
  obtain ⟨l, hl⟩ := addBusy_eq (s.modCtxAt c x registrationSeen) c
  calc ((s.lookAgain c x).ctxAt c x).filter
    _ = (({ s.modCtxAt c x registrationSeen with busy := l } : State).ctxAt c x).filter := by rw [← hl]; rfl
    _ = ((s.modCtxAt c x registrationSeen).ctxAt c x).filter := rfl
    _ = (s.ctxAt c x).filter := by rw [ctxAt_modCtxAt_self]; rfl

/-- A context that looks again. -/
theorem lookAgain_keeps (s : State) (c : Fin 192) (x : Fin 4) :
    LookedAgain s (s.lookAgain c x) ∧ c ∈ (s.lookAgain c x).busy ∧ ((s.lookAgain c x).ctxAt c x).stall ≠ some .registration := by
  let v := s.modCtxAt c x registrationSeen
  have hv : LookedAgain s v := by
    refine ⟨rfl, rfl, fun _ => id, fun d => ?_, fun d y => ?_⟩
    · by_cases hd : d = c
      · subst hd
        show ((s.modCoreAt d _).coreAt d).running = _
        rw [coreAt_modCoreAt_self]
        rfl
      · exact congrArg Core.running (coreAt_modCoreAt_ne s c d _ hd)
    · by_cases hd : d = c ∧ y = x
      · obtain ⟨rfl, rfl⟩ := hd
        rw [show v.ctxAt d y = registrationSeen (s.ctxAt d y) from ctxAt_modCtxAt_self ..]
        exact ⟨rfl, rfl, fun _ => stall_registrationSeen _⟩
      · rw [show v.ctxAt d y = s.ctxAt d y from ctxAt_modCtxAt_ne s c d x y registrationSeen (by tauto)]
        exact ⟨rfl, rfl, id⟩
  obtain ⟨l, hl, hsub⟩ := addBusy_grows v c
  have hbusy : LookedAgain v (v.addBusy c) := by
    rw [hl]
    exact ⟨rfl, rfl, hsub, fun _ => rfl, fun _ _ => ⟨rfl, rfl, id⟩⟩
  refine ⟨hv.trans hbusy, mem_addBusy v c, (hbusy.2.2.2.2 c x).2.2 ?_⟩
  rw [show v.ctxAt c x = registrationSeen (s.ctxAt c x) from ctxAt_modCtxAt_self ..]
  exact stall_registrationSeen _

/-- What one step of a fold brings about holds after it, where every step keeps it. -/
theorem foldl_establishes {α : Type} {R : State → State → Prop} (hrefl : ∀ s, R s s) (htrans : ∀ {s t u}, R s t → R t u → R s u)
    {f : State → α → State} (hstep : ∀ s a, R s (f s a)) {P Q : State → Prop} (hP : ∀ {s t}, R s t → P s → P t)
    (hQ : ∀ {s t}, R s t → Q s → Q t) {a : α} (ha : ∀ s, P s → Q (f s a)) {l : List α} (hl : a ∈ l) {s : State} (hs : P s) :
    Q (l.foldl f s) := by
  obtain ⟨l, l', rfl⟩ := List.append_of_mem hl
  have hfold (k : List α) (s : State) : R s (k.foldl f s) := List.foldlRecOn k f (hrefl s) fun _ hb a _ => htrans hb (hstep _ a)
  rw [List.foldl_append, List.foldl_cons]
  exact hQ (hfold l' _) (ha _ (hP (hfold l s) hs))

/-- A core whose contexts look again, if it runs one. -/
def coreLooksAgain (s : State) (c : Fin 192) : State :=
  if (s.coreAt c).running.isSome then (List.finRange 4).foldl (fun s x => s.lookAgain c x) s else s

theorem coreLooksAgain_keeps (s : State) (c : Fin 192) : LookedAgain s (coreLooksAgain s c) := by
  unfold coreLooksAgain
  split
  · exact List.foldlRecOn _ _ (.refl s) fun _ hb x _ => hb.trans (lookAgain_keeps _ c x).1
  · exact .refl s

/-- A core that runs has something to look at, and none of its contexts waits for a registration. -/
theorem coreLooksAgain_clears {s : State} {c : Fin 192} (h : (s.coreAt c).running.isSome = true) :
    c ∈ (coreLooksAgain s c).busy ∧ ∀ x, ((coreLooksAgain s c).ctxAt c x).stall ≠ some .registration := by
  have hx (x : Fin 4) : c ∈ ((List.finRange 4).foldl (fun s x => s.lookAgain c x) s).busy ∧
      (((List.finRange 4).foldl (fun s x => s.lookAgain c x) s).ctxAt c x).stall ≠ some .registration :=
    foldl_establishes (R := LookedAgain) (P := fun _ => True) (Q := fun t => c ∈ t.busy ∧ (t.ctxAt c x).stall ≠ some .registration)
      .refl .trans (fun s x => (lookAgain_keeps s c x).1) (fun _ _ => trivial)
      (fun hR hQ => ⟨hR.2.2.1 c hQ.1, (hR.2.2.2.2 c x).2.2 hQ.2⟩) (fun s _ => (lookAgain_keeps s c x).2) (List.mem_finRange x) trivial
  unfold coreLooksAgain
  rw [if_pos h]
  exact ⟨(hx 0).1, fun x => (hx x).2⟩

/-! ## The sweep (03 R75) -/

theorem mem_sweepEntry_open (m : MemSys) (e : DirEntry) :
    (∀ x ∈ (m.sweepEntry e).allReaders, m.slotOpen x = true) ∧ ∀ x, (m.sweepEntry e).writer = some x → m.slotOpen x = true := by
  refine ⟨fun x hx => ?_, fun x hx => (Option.filter_eq_some_iff.mp hx).2⟩
  rcases mem_allReaders.mp hx with hx | ⟨y, hy, hx⟩
  · exact (List.mem_filter.mp hx).2
  · obtain ⟨z, -, rfl⟩ := List.mem_map.mp hy
    exact (List.mem_filter.mp hx).2

/-- Every entry of a set that is swept has open slots only. -/
theorem sweepSets_open (m : MemSys) {k : Nat} (hk : k < 12) (f : Nat → Bool) :
    ∀ e ∈ ((m.sweepSets k f).home k).dir, f (dirSet e.line) = true →
      (∀ x ∈ e.allReaders, m.slotOpen x = true) ∧ ∀ x, e.writer = some x → m.slotOpen x = true := by
  intro e he hf
  rw [MemSys.sweepSets, home_modHome_self _ _ hk] at he
  obtain ⟨e', -, rfl⟩ := List.mem_map.mp (List.mem_filter.mp he).1
  by_cases hf' : f (dirSet e'.line) = true
  · rw [if_pos hf']
    exact mem_sweepEntry_open m e'
  · rw [if_neg hf'] at hf
    exact absurd hf hf'

/-- Settles O40: a registration by the home's answer, the answer and the retry by the contexts they wake, a sweep by the sets it takes. -/
theorem registrationEvents : Obligations.RegistrationEvents := by
  intro s a p tells
  refine ⟨fun hl hfree => ?_, fun hphase => ?_, ?_, ?_, ?_⟩
  · refine ⟨fun hans => ?_, fun hans => ?_, fun hans => ?_, fun hans => ?_⟩
    · obtain ⟨hbytes, hagenda, hslot⟩ := regRecord_reader s hl a.id
      exact ⟨_, congrArg Host.Outcome.next (registration_ok .regr hfree hans), congrArg (· ++ _) hagenda, hbytes, hslot⟩
    · obtain ⟨hbytes, hagenda, x, hslot⟩ := regRecord_writer s hl a.id
      exact ⟨_, x, congrArg Host.Outcome.next (registration_ok .regw hfree hans), congrArg (· ++ _) hagenda, hbytes, hslot⟩
    · exact ⟨_, congrArg Host.Outcome.next (registration_race .regr hfree hans), rfl, rfl⟩
    · exact ⟨_, congrArg Host.Outcome.next (registration_race .regw hfree hans), rfl, rfl⟩
  · have hrun : ((s.ctxAt p.1 p.2).phase == .free) = false := by simpa using hphase
    refine ⟨fun hok => ?_, fun hrace => ?_⟩
    · let v := s.modCtxAt p.1 p.2 fun c => c.remember a.addr a.flag
      have hexec : exec .registrationAnswer s = .next (v.lookAgain p.1 p.2) := by
        show execRegistrationAnswer s = _
        unfold execRegistrationAnswer
        dsimp only
        rw [hrun, if_neg (by simp), if_pos hok]
      obtain ⟨⟨hmem, hrecs, -, -, -⟩, hbusy, -⟩ := lookAgain_keeps v p.1 p.2
      refine ⟨_, hexec, ?_, hmem, hrecs, hbusy⟩
      unfold Ctx.filtered
      rw [filter_lookAgain v, show v.ctxAt p.1 p.2 = (s.ctxAt p.1 p.2).remember a.addr a.flag from ctxAt_modCtxAt_self ..]
      exact filtered_remember ..
    · show execRegistrationAnswer s = _
      unfold execRegistrationAnswer
      dsimp only
      rw [hrun, if_neg (by simp), if_neg (by rw [hrace]; simp)]
      rfl
  · let l := (List.finRange 192).filter fun c => c.val / 48 == a.die.val
    have hfold : LookedAgain s (l.foldl coreLooksAgain s) :=
      List.foldlRecOn l coreLooksAgain (.refl s) fun _ hb c _ => hb.trans (coreLooksAgain_keeps _ c)
    refine ⟨l.foldl coreLooksAgain s, rfl, hfold.1, hfold.2.1, fun c hc hrun => ?_⟩
    have hin : c ∈ l := List.mem_filter.mpr ⟨List.mem_finRange c, beq_iff_eq.mpr (congrArg Fin.val hc)⟩
    obtain ⟨hbusy, hstall⟩ := foldl_establishes (R := LookedAgain) (P := fun t => (t.coreAt c).running.isSome = true)
      (Q := fun t => c ∈ t.busy ∧ ∀ x, (t.ctxAt c x).stall ≠ some .registration) .refl .trans coreLooksAgain_keeps
      (fun hR hP => by rw [hR.2.2.2.1 c]; exact hP)
      (fun hR hQ => ⟨hR.2.2.1 c hQ.1, fun x => (hR.2.2.2.2 c x).2.2 (hQ.2 x)⟩) (fun _ hP => coreLooksAgain_clears hP) hin hrun
    exact ⟨hbusy, fun x => ⟨hstall x, (hfold.2.2.2.2 c x).1, (hfold.2.2.2.2 c x).2.1⟩⟩
  · intro k
    refine ⟨fun hphase hstall hicnt => ⟨_, if_pos ⟨hphase, hstall, hicnt⟩, rfl⟩, fun hstall => if_neg fun h => hstall h.2.1⟩
  · intro k n
    have hk : k < 12 := a.stack.isLt
    have hpass (m : MemSys) : ((m.beginPass k).home k).passEpochs = m.epochs ∧ ((m.beginPass k).home k).sweep = 0 ∧
        ((m.beginPass k).home k).dir = (m.home k).dir := by
      rw [MemSys.beginPass, home_modHome_self _ _ hk]
      exact ⟨rfl, rfl, rfl⟩
    by_cases hflag : a.flag = true
    · let m := s.mem.sweepSets k fun _ => true
      have hexec : exec .directorySweep s = .next ((s.modMem fun m => (m.sweepSets k fun _ => true).beginPass k).timer 131072 .directorySweep a) :=
        if_pos hflag
      obtain ⟨hepochs, hsweep, hdir⟩ := hpass m
      refine ⟨_, hexec, rfl, rfl, fun e he _ => ?_, fun _ => ⟨hepochs, hsweep⟩, fun hoff => ?_⟩
      · exact sweepSets_open s.mem hk (fun _ => true) e (hdir ▸ he) rfl
      · rw [hflag] at hoff
        cases hoff
    · let m := (s.mem.sweepSets k fun x => x == n).modHome k fun h => { h with sweep := n + 1 }
      let v := s.modMem fun _ => m
      have hm : (m.home k).sweep = n + 1 ∧ (m.home k).dir = ((s.mem.sweepSets k fun x => x == n).home k).dir := by
        rw [show m.home k = _ from home_modHome_self _ _ hk]
        exact ⟨rfl, rfl⟩
      obtain ⟨hepochs, hsweep, hdir⟩ := hpass m
      have hexec : exec .directorySweep s = .next (if 131072 ≤ n + 1 then v.modMem fun m => m.beginPass k else v) := if_neg hflag
      have hopen : ∀ e ∈ (m.home k).dir, dirSet e.line = n →
          (∀ x ∈ e.allReaders, s.mem.slotOpen x = true) ∧ ∀ x, e.writer = some x → s.mem.slotOpen x = true := fun e he hset =>
        sweepSets_open s.mem hk (fun x => x == n) e (hm.2 ▸ he) (beq_iff_eq.mpr hset)
      refine ⟨_, hexec, ?_, ?_, ?_, ?_, ?_⟩
      · split <;> rfl
      · split <;> rfl
      · intro e he hcase
        refine hopen e ?_ (hcase.resolve_left hflag)
        split at he
        · exact hdir ▸ he
        · exact he
      · intro hcase
        rw [if_pos (hcase.resolve_left hflag)]
        exact ⟨hepochs, hsweep⟩
      · intro _ hlt
        rw [if_neg (by omega)]
        exact hm.1

end Sys2Proof.Proofs
end

section
/-! PROOFS. SUPPORT: how the part accepts, performs and answers a message of the fabric (04 R94 to R98). -/

namespace Sys2Proof.Proofs

open Sys2Proof Sys2Proof.Machine Sys2Proof.Claims Sys2Proof.Laws

/-! ## Sending -/

theorem launchMsg_port {s : State} {m : FinzonMsg} {j p : Nat} (hun : m.dst ≠ unassigned) (hout : m.dst ≠ s.fz.nid.toNat)
    (hp : s.fz.port m.dst m.src j = some p) : s.launchMsg j m = some (s.modFz fun f => { f with sent := f.sent ++ [(p, m)] }) := by
  unfold State.launchMsg
  dsimp only
  rw [if_neg hun, if_neg hout, hp]

/-- An answer touches the port and what is announced alone. -/
theorem answerMsg_eq (s : State) (m : FinzonMsg) (k : Option Nat) : ∃ f ag, s.answerMsg m k = { s with fz := f, agenda := ag } := by
  have hlaunch (r t) (h : s.launchMsg 0 r = some t) : ∃ f ag, t = { s with fz := f, agenda := ag } := by
    unfold State.launchMsg at h
    dsimp only at h
    split at h
    · cases h
    split at h
    · cases h
      exact ⟨s.fz, _, rfl⟩
    split at h
    · cases h
    · cases h
      exact ⟨_, s.agenda, rfl⟩
  unfold State.answerMsg
  dsimp only
  split
  · next h => exact hlaunch _ _ h
  · exact ⟨_, s.agenda, rfl⟩

theorem jobAwaiting_answerMsg (s : State) (m r : FinzonMsg) (k : Option Nat) : (s.answerMsg r k).jobAwaiting m = s.jobAwaiting m := by
  obtain ⟨f, ag, h⟩ := answerMsg_eq s r k
  rw [h]
  rfl

/-! ## Accepting -/

section accepting
variable {s : State} {m : FinzonMsg}

/-- A message whose turn it is has had it, and the part is asleep for it or takes it. -/
theorem accept_ordered (hcrc : m.crcOk = true) (hdst : m.dst = s.fz.nid.toNat) (hun : m.dst ≠ unassigned)
    (hseq : m.seq = tget s.fz.expectSeq m.src 0) (hheld : ∀ x ∈ s.fz.held, ¬ (x.src = m.src ∧ x.seq = (m.seq + 1) % 2 ^ 32)) :
    s.accept m = if (turned s m).asleep m then .done ((turned s m).answerMsg m (some 4)) else .take (turned s m) := by
  have hnext : (s.fz.held.find? fun x => x.src == m.src && x.seq == (m.seq + 1) % 2 ^ 32) = none := by
    rw [List.find?_eq_none]
    intro x hx
    simpa using hheld x hx
  have hto : ¬ (m.dst ≠ s.fz.nid.toNat ∨ m.dst = unassigned) := by tauto
  unfold State.accept
  dsimp only
  rw [if_neg hto, if_neg (by rw [hcrc]; simp), if_pos hseq, ← hseq, modFz_fz, hnext]
  rfl

theorem accept_inTurn (h : InTurn s m) : s.accept m = .take (turned s m) := by
  obtain ⟨hcrc, hdst, hun, hawake, hseq, hheld⟩ := h
  have hasleep : (turned s m).asleep m = false := by
    show (s.power.d3hot && _) = false
    rw [hawake, Bool.false_and]
  rw [accept_ordered hcrc hdst hun hseq hheld, hasleep]
  rfl

end accepting

/-! ## Serving a request -/

section serving
variable {s : State} {m : FinzonMsg} {n : Need} {work : RemoteWin → State → Done State} {w : RemoteWin}

theorem served_waits (hcrc : m.crcOk = true) (hdst : m.dst = s.fz.nid.toNat) (hbusy : ¬ lineFree s m n) :
    s.served m n work = .next ((s.askSegs n.w 0 0 (s.msgSegs m n)).timer 2 (msgEvent m) { msg := m }) := by
  have hsegs : segsBusy s (s.msgSegs m n) = true := by simpa [lineFree] using hbusy
  unfold State.served
  rw [if_pos (by simp [hcrc, hdst, hsegs])]

theorem served_done {t : State} (hfree : lineFree s m n) (h : s.accept m = .done t) : s.served m n work = .next t := by
  unfold State.served
  rw [if_neg (by rw [show segsBusy s (s.msgSegs m n) = false from hfree]; simp), h]

variable (hturn : InTurn s m)
include hturn

/-- No window, so no memory that the message could touch. -/
theorem served_unset (hw : s.window m.win = none) : s.served m n work = .next ((turned s m).answerMsg m (some 2)) := by
  have hfree : segsBusy s (s.msgSegs m n) = false := by
    rw [State.msgSegs, hw]
    rfl
  have hw' : (turned s m).window m.win = none := hw
  unfold State.served
  rw [if_neg (by rw [hfree]; simp), accept_inTurn hturn]
  dsimp only
  rw [hw']

variable (hfree : lineFree s m n) (hw : s.window m.win = some w)
include hfree hw

theorem served_ok {v : State} (h : work w (turned s m) = .ok v) : s.served m n work = .next (v.answerMsg m none) := by
  have hw' : (turned s m).window m.win = some w := hw
  unfold State.served
  rw [if_neg (by rw [show segsBusy s (s.msgSegs m n) = false from hfree]; simp), accept_inTurn hturn]
  dsimp only
  rw [hw']
  dsimp only
  rw [h]

theorem served_error {k : Nat} {v : State} (h : work w (turned s m) = .error (k, v)) :
    s.served m n work = .next (v.answerMsg m (some k)) := by
  have hw' : (turned s m).window m.win = some w := hw
  unfold State.served
  rw [if_neg (by rw [show segsBusy s (s.msgSegs m n) = false from hfree]; simp), accept_inTurn hturn]
  dsimp only
  rw [hw']
  dsimp only
  rw [h]

end serving

/-! ## Taking an answer -/

section answering
variable {s : State} {m : FinzonMsg} {event : Instr} {work : Job → State → State} (hturn : InTurn s m)
include hturn

theorem answered_unclaimed (hjob : s.jobAwaiting m = none) : s.answered event m work = .next ((turned s m).answerMsg m none) := by
  have hheld : s.answerHeld m = none := by
    rw [State.answerHeld, hjob]
    rfl
  have hjob' : ((turned s m).answerMsg m none).jobAwaiting m = none := (jobAwaiting_answerMsg ..).trans hjob
  unfold State.answered
  rw [hheld]
  dsimp only
  rw [accept_inTurn hturn]
  dsimp only
  rw [hjob']

theorem answered_given {j : Job} (hheld : s.answerHeld m = none) (hjob : ((turned s m).answerMsg m none).jobAwaiting m = some j) :
    s.answered event m work = .next (work j ((turned s m).answerMsg m none)) := by
  unfold State.answered
  rw [hheld]
  dsimp only
  rw [accept_inTurn hturn]
  dsimp only
  rw [hjob]

end answering

/-! ## Reaching a job (04 R95) -/

section job
variable {s : State} {id : Nat} {j : Job} (hj : s.jobOf id = some j) (hrun : j.state = .running)
include hj hrun

/-- The end of a running job. -/
theorem endJob_finishing (status : Nat) : ∃ j', (s.endJob id status).jobOf id = some j' ∧ j'.state = .finishing ∧ j'.awaiting = [] ∧
    j'.status = status ∧ (s.endJob id status).fz = s.fz := by
  unfold State.endJob
  rw [hj]
  dsimp only
  rw [hrun]
  exact ⟨_, jobOf_modJob hj fun _ => rfl, rfl, rfl, rfl, rfl⟩

/-- The last message that a transfer awaits ends it. -/
theorem jobArrived_last {x : Nat × Nat} (hop : cardOp j.card < 8) (hx : j.awaiting = [x]) :
    ∃ j', (s.jobArrived id x).jobOf id = some j' ∧ j'.state = .finishing ∧ j'.awaiting = [] ∧ j'.status = 0 ∧
      (s.jobArrived id x).fz = s.fz := by
  let f (k : Job) : Job := { k with awaiting := k.awaiting.erase x }
  have hf : (s.modJob id f).jobOf id = some (f j) := jobOf_modJob hj fun _ => rfl
  have hnone : (f j).awaiting.isEmpty = true := by simp [f, hx]
  have hprogress : s.jobArrived id x = (s.modJob id f).endJob id 0 := by
    show (s.modJob id f).jobProgress id = _
    unfold State.jobProgress
    rw [hf]
    dsimp only
    rw [if_neg (by simp [f, hrun]), if_neg (by simp [f, hrun])]
    split
    · next h => exact absurd h (by show cardOp j.card ≠ 8; omega)
    · next h => exact absurd h (by show cardOp j.card ≠ 9; omega)
    · rw [if_pos hnone]
  rw [hprogress]
  exact endJob_finishing hf hrun 0

/-- A running job that the fabric fails ends with the status; only its collective goes from the port. -/
theorem jobFabricFails_running (status : Nat) : ∃ j', (s.jobFabricFails id status).jobOf id = some j' ∧ j'.state = .finishing ∧
    j'.status = status ∧ (s.jobFabricFails id status).fz.kept = s.fz.kept := by
  obtain ⟨ds, ag, he⟩ := jobLeaveDone_eq s j
  obtain rfl : j.id = id := jobOf_id hj
  let v := (s.jobLeaveDone j).dropColl j.id
  have hfails : s.jobFabricFails j.id status = v.endJob j.id status := by
    unfold State.jobFabricFails
    rw [hj]
    dsimp only
    rw [hrun]
    rfl
  have hv : v.jobOf j.id = some { j with grant := none } := by
    show (s.jobLeaveDone j).jobOf j.id = _
    rw [he]
    exact jobOf_modJob (f := fun k => { k with grant := none }) hj fun _ => rfl
  have hkept : v.fz.kept = s.fz.kept := by
    show (s.jobLeaveDone j).fz.kept = _
    rw [he]
    rfl
  obtain ⟨j', hj', hstate, -, hstatus, hfz⟩ := endJob_finishing hv hrun status
  rw [hfails]
  exact ⟨j', hj', hstate, hstatus, hfz ▸ hkept⟩

end job

end Sys2Proof.Proofs
end

section
/-! PROOFS. Requests of other parts (O46): puts, flag posts, gets, atomics and collectives through a window. -/

namespace Sys2Proof.Proofs

open Sys2Proof Sys2Proof.Machine Sys2Proof.Claims Sys2Proof.Laws

/-! ## Answers -/

/-- An answer leaves by its port; nothing but the fabric port changes. -/
theorem answerMsg_sent {v : State} {m : FinzonMsg} {j : Nat} (hun : m.src ≠ unassigned) (hout : m.src ≠ v.fz.nid.toNat)
    (hp : v.fz.port m.src v.fz.nid.toNat 0 = some j) (k : Option Nat) :
    fabricOnly v (v.answerMsg m k) ∧ ∃ r, (v.answerMsg m k).fz.sent = v.fz.sent ++ [(j, r)] ∧
      r.typ = (if k.isSome then 7 else 6) ∧ r.stat = k.getD 0 ∧ r.dst = m.src ∧ r.src = v.fz.nid.toNat ∧ r.seq = m.seq := by
  let r : FinzonMsg :=
    { typ := if k.isSome then 7 else 6, resp := true, dst := m.src, src := v.fz.nid.toNat, seq := m.seq, stat := k.getD 0,
      tag := m.tag, va := m.va, win := m.win }
  have hr : v.answerMsg m k = v.modFz fun f => { f with sent := f.sent ++ [(j, r)] } := by
    unfold State.answerMsg
    dsimp only
    rw [launchMsg_port (m := r) hun hout hp]
  rw [hr]
  exact ⟨rfl, r, rfl, rfl, rfl, rfl, rfl, rfl⟩

/-! ## Asleep, and waiting for a line -/

/-- In D3hot a request that the part accepts in its turn is answered ASLEEP (04 R88). -/
theorem accept_asleep {s : State} {m : FinzonMsg} (hcrc : m.crcOk = true) (hdst : m.dst = s.fz.nid.toNat) (hun : m.dst ≠ unassigned)
    (hseq : m.seq = tget s.fz.expectSeq m.src 0) (hheld : ∀ x ∈ s.fz.held, ¬ (x.src = m.src ∧ x.seq = (m.seq + 1) % 2 ^ 32))
    (hd3 : s.power.d3hot = true) (h3 : m.typ ≠ 3) (h5 : m.typ ≠ 5) : s.accept m = .done ((turned s m).answerMsg m (some 4)) := by
  have hasleep : (turned s m).asleep m = true := by
    show (s.power.d3hot && !((m.typ == 3 || m.typ == 5) && _)) = true
    rw [hd3, beq_false_of_ne h3, beq_false_of_ne h5]
    rfl
  rw [accept_ordered hcrc hdst hun hseq hheld, if_pos hasleep]

/-- A put whose lines are under a transaction announces what it asks for and comes again after two ticks. -/
theorem finzonPut_waits {s : State} (hcrc : (finzonOf s.arg).crcOk = true) (hdst : (finzonOf s.arg).dst = s.fz.nid.toNat)
    (hbusy : ¬ lineFree s (finzonOf s.arg) needW) : ∃ t, exec .finzonPut s = .next t ∧ t.fz = s.fz ∧ t.mem.bytes = s.mem.bytes ∧
      (s.now + 2, msgEvent (finzonOf s.arg), ({ msg := finzonOf s.arg } : EvArgs)) ∈ t.timers := by
  obtain ⟨ag, hask⟩ := askSegs_eq s needW.w 0 0 (s.msgSegs (finzonOf s.arg) needW)
  refine ⟨_, served_waits hcrc hdst hbusy, ?_⟩
  rw [hask]
  exact ⟨rfl, rfl, List.mem_append_right _ (List.mem_singleton_self _)⟩

/-! ## Flag posts and atomics -/

section post
variable {s : State} {w : RemoteWin} {g : Nat} {x : Grid} (hg : w.grid = some g) (hx : s.gridOf g = some x) (hlive : x.killed = none)
include hg hx hlive

theorem remotePost_ok {team : Nat} (h : team < x.teams) (flag : Nat) : s.remotePost w team flag = .ok (s.postFlag g team flag) := by
  simp [State.remotePost, hg, hx, hlive, h]

theorem remotePost_noTeam {team : Nat} (h : x.teams ≤ team) (flag : Nat) : s.remotePost w team flag = .error (5, s) := by
  simp [State.remotePost, hg, hx, hlive, h]

end post

/-- A remote atomic fails by poison alone. -/
theorem remoteAtomic_error {s v : State} {p : Place} {fn n x y k : Nat} (h : s.remoteAtomic p fn n x y = .error (k, v)) : k = 3 := by
  unfold State.remoteAtomic at h
  dsimp only at h
  split at h
  · split at h
    · cases h
      rfl
    · cases h
  · split at h
    · cases h
      rfl
    · cases h

/-! ## What each request does (04 R98 to R100, R102; 06 R154) -/

section turn
variable {s : State} {m : FinzonMsg} {w : RemoteWin} (hm : m = finzonOf s.arg) (hturn : InTurn s m) (hw : s.window m.win = some w)
include hm hturn hw

section put
variable (hfree : lineFree s m needW)
include hfree

section data
variable (hop : m.opnd1 < 2 ^ 32)
include hop

theorem finzonPut_denied (hperm : w.w = false) : exec .finzonPut s = .next ((turned s m).answerMsg m (some 3)) := by
  subst hm
  refine served_error hturn hfree hw ?_
  rw [if_neg (by omega), if_pos (by simp [hperm])]

variable (hperm : w.w = true) (hspan : msgSpan m.va m.len = true) (hdata : m.data.length = m.len)
include hperm hspan hdata

theorem finzonPut_writes {n : Nat} {v : State} (h : (turned s m).vaWrite 0 ((turned s m).remoteWho w) m.va m.data = .ok (n, v)) :
    exec .finzonPut s = .next (v.answerMsg m none) := by
  subst hm
  refine served_ok hturn hfree hw ?_
  rw [if_neg (by omega), if_neg (by simp [hperm, hspan, hdata]), h]

theorem finzonPut_faults {e : Trouble} (h : (turned s m).vaWrite 0 ((turned s m).remoteWho w) m.va m.data = .error e) :
    exec .finzonPut s = .next ((turned s m).answerMsg m (some 3)) := by
  subst hm
  refine served_error hturn hfree hw ?_
  rw [if_neg (by omega), if_neg (by simp [hperm, hspan, hdata]), h]

end data

section flag
variable {g : Nat} {x : Grid} (hlen : m.len = 0) (hop : 2 ^ 32 ≤ m.opnd1) (hg : w.grid = some g) (hx : s.gridOf g = some x)
  (hlive : x.killed = none)
include hlen hop hg hx hlive

theorem finzonPut_posts (hteam : m.opnd0 < x.teams) :
    exec .finzonPut s = .next (((turned s m).postFlag g m.opnd0 (m.opnd1 % 2 ^ 32)).answerMsg m none) := by
  subst hm
  refine served_ok hturn hfree hw ?_
  rw [if_pos ⟨hlen, hop⟩]
  exact remotePost_ok (s := turned s _) hg hx hlive hteam _

theorem finzonPut_noTeam (hteam : x.teams ≤ m.opnd0) : exec .finzonPut s = .next ((turned s m).answerMsg m (some 5)) := by
  subst hm
  refine served_error hturn hfree hw ?_
  rw [if_pos ⟨hlen, hop⟩]
  exact remotePost_noTeam (s := turned s _) hg hx hlive hteam _

end flag

end put

section get
variable (hfree : lineFree s m needR)
include hfree

theorem finzonGet_denied (hperm : w.r = false) : exec .finzonGet s = .next ((turned s m).answerMsg m (some 3)) := by
  subst hm
  refine served_error hturn hfree hw ?_
  rw [if_pos (by simp [hperm])]

variable (hperm : w.r = true) (hspan : msgSpan m.va m.len = true) {got : Got} {v : State}
  (hread : (turned s m).vaRead 0 ((turned s m).remoteWho w) m.va m.len = .ok (got, v))
include hperm hspan hread

theorem finzonGet_sends (hclean : got.poison = false) {q : Nat} {t : State}
    (hsend : v.sendKept 0 none { typ := 3, resp := true, dst := m.src, win := m.win, va := m.va, len := m.len, tag := m.tag,
                                 data := got.bytes } = some (q, t)) : exec .finzonGet s = .next (t.answerMsg m none) := by
  subst hm
  refine served_ok hturn hfree hw ?_
  rw [if_neg (by simp [hperm, hspan]), hread]
  dsimp only
  rw [hclean, hsend]
  rfl

theorem finzonGet_poisoned (hpoison : got.poison = true) : exec .finzonGet s = .next (v.answerMsg m (some 3)) := by
  subst hm
  refine served_error hturn hfree hw ?_
  rw [if_neg (by simp [hperm, hspan]), hread]
  dsimp only
  rw [hpoison]
  rfl

end get

section atomic
variable (hfree : lineFree s m needRW) (hlen : m.len = 4 ∨ m.len = 8)
include hfree

theorem finzonAtomic_misaligned (halign : m.va % m.len ≠ 0) : exec .finzonAtomic s = .next ((turned s m).answerMsg m (some 3)) := by
  subst hm
  refine served_error hturn hfree hw ?_
  rw [if_pos (by simp [halign])]

variable (hperm : w.a = true) (halign : m.va % m.len = 0) (hfn : m.stat < 8) {p : Place}
  (hplace : translate (turned s m) ((turned s m).remoteWho w) needRW m.va = .ok p)
include hlen hperm halign hfn hplace

theorem finzonAtomic_performs {old q : Nat} {v t : State}
    (h : (turned s m).remoteAtomic p m.stat m.len (m.opnd0 % 2 ^ (8 * m.len)) (m.opnd1 % 2 ^ (8 * m.len)) = .ok (old, v))
    (hsend : v.sendKept 0 none { typ := 5, resp := true, dst := m.src, win := m.win, va := m.va, len := m.len, tag := m.tag,
                                 opnd0 := old } = some (q, t)) : exec .finzonAtomic s = .next (t.answerMsg m none) := by
  subst hm
  refine served_ok hturn hfree hw ?_
  rw [if_neg (by simpa [hperm, halign, hfn] using or_iff_not_imp_left.mp hlen), hplace]
  dsimp only
  rw [h]
  dsimp only
  rw [hsend]

theorem finzonAtomic_poisoned {k : Nat} {v : State}
    (h : (turned s m).remoteAtomic p m.stat m.len (m.opnd0 % 2 ^ (8 * m.len)) (m.opnd1 % 2 ^ (8 * m.len)) = .error (k, v)) :
    k = 3 ∧ exec .finzonAtomic s = .next (v.answerMsg m (some 3)) := by
  obtain rfl := remoteAtomic_error h
  subst hm
  refine ⟨rfl, served_error hturn hfree hw ?_⟩
  rw [if_neg (by simpa [hperm, halign, hfn] using or_iff_not_imp_left.mp hlen), hplace]
  dsimp only
  rw [h]

end atomic

/-- A piece of a collective that no job takes waits for its job. -/
theorem finzonCollective_early (hfree : lineFree s m ⟨false, false, false⟩) (hperm : w.w = true) (hdata : m.data.length = m.len)
    (hjobs : ∀ j ∈ s.jobs, collTakes j m = false) : exec .finzonCollective s =
      .next (((turned s m).modFz fun f => { f with early := f.early ++ [m] }).answerMsg m none) := by
  subst hm
  refine served_ok hturn hfree hw ?_
  have hnone : ((turned s (finzonOf s.arg)).jobs.find? fun j => j.state == .running && collTakes j (finzonOf s.arg) &&
      (((turned s (finzonOf s.arg)).collOf j.id).any fun x => !(x.arrived.any fun p => p.1 == (finzonOf s.arg).opnd1))) = none := by
    rw [List.find?_eq_none]
    intro j hj
    simp [hjobs j hj]
  rw [if_neg (by simp [hperm, hdata]), hnone]

end turn

/-- The requests of O46, each by what it does at an open window. -/
theorem fabricRequests : Claims.FabricRequests := by
  intro s w m u ack nak
  refine ⟨fun v j hun hout hp k => answerMsg_sent hun hout hp k, fun hcrc hdst hun hseq hheld hd3 h3 h5 => ?_,
    fun hcrc hdst hbusy => finzonPut_waits hcrc hdst hbusy, fun hturn hw => ?_, fun hturn hw => ?_⟩
  · have hasleep := accept_asleep hcrc hdst hun hseq hheld hd3 h3 h5
    exact ⟨fun hfree => served_done hfree hasleep, fun hfree => served_done hfree hasleep, fun hfree => served_done hfree hasleep⟩
  · exact ⟨served_unset hturn hw, served_unset hturn hw, served_unset hturn hw, served_unset hturn hw⟩
  refine ⟨fun hfree hop hperm hspan hdata => ⟨fun n v => finzonPut_writes rfl hturn hw hfree hop hperm hspan hdata,
      fun e => finzonPut_faults rfl hturn hw hfree hop hperm hspan hdata⟩,
    finzonPut_denied rfl hturn hw,
    fun g x hfree hlen hop hg hx => ⟨finzonPut_posts rfl hturn hw hfree hlen hop hg hx, finzonPut_noTeam rfl hturn hw hfree hlen hop hg hx⟩,
    fun got v q t hfree hperm hspan hread hclean => finzonGet_sends rfl hturn hw hfree hperm hspan hread hclean,
    finzonGet_denied rfl hturn hw,
    fun got v hfree hperm hspan hread => finzonGet_poisoned rfl hturn hw hfree hperm hspan hread,
    fun p old v q t hfree hperm hlen halign hfn hplace => finzonAtomic_performs rfl hturn hw hfree hlen hperm halign hfn hplace,
    fun p v k hfree hperm hlen halign hfn hplace => finzonAtomic_poisoned rfl hturn hw hfree hlen hperm halign hfn hplace,
    fun hfree _ => finzonAtomic_misaligned rfl hturn hw hfree,
    finzonCollective_early rfl hturn hw⟩

end Sys2Proof.Proofs
end

section
/-! PROOFS. Answers, resends, transit messages and ports (O46). -/

namespace Sys2Proof.Proofs

open Sys2Proof Sys2Proof.Machine Sys2Proof.Claims Sys2Proof.Laws

/-! ## ACK and NAK (04 R95) -/

/-- A state in which a kept message is released. -/
def released (s : State) (k : Kept) : State := s.modFz fun f => { f with kept := f.kept.erase k }

section release
variable {s : State} {m : FinzonMsg} (hm : m = finzonOf s.arg) (hdst : m.dst = s.fz.nid.toNat)
include hm hdst

theorem finzonAck_corrupt (hcrc : m.crcOk = false) : exec .finzonAck s = .next s := by
  subst hm
  show execFinzonAck s = _
  unfold execFinzonAck
  dsimp only
  rw [if_neg (not_not.mpr hdst), if_pos (by rw [hcrc]; rfl)]

theorem finzonNak_corrupt (hcrc : m.crcOk = false) : exec .finzonNak s = .next s := by
  subst hm
  show execFinzonNak s = _
  unfold execFinzonNak
  dsimp only
  rw [if_neg (not_not.mpr hdst), if_pos (by rw [hcrc]; rfl)]

variable (hcrc : m.crcOk = true) {k : Kept} (hk : (s.fz.kept.find? fun k => k.msg.dst == m.src && k.msg.seq == m.seq) = some k)
include hcrc hk

theorem finzonAck_releases (hjob : k.job = none) : exec .finzonAck s = .next (released s k) := by
  subst hm
  show execFinzonAck s = _
  unfold execFinzonAck
  dsimp only
  rw [if_neg (not_not.mpr hdst), if_neg (by simp [hcrc]), hk]
  dsimp only
  rw [hjob]
  rfl

theorem finzonAck_reaches {id : Nat} (hjob : k.job = some id) : exec .finzonAck s = .next ((released s k).jobArrived id (m.src, m.seq)) := by
  subst hm
  show execFinzonAck s = _
  unfold execFinzonAck
  dsimp only
  rw [if_neg (not_not.mpr hdst), if_neg (by simp [hcrc]), hk]
  dsimp only
  rw [hjob]
  rfl

variable (hstat : m.stat ≠ 1)
include hstat

theorem finzonNak_releases (hjob : k.job = none) : exec .finzonNak s = .next (released s k) := by
  subst hm
  show execFinzonNak s = _
  unfold execFinzonNak
  dsimp only
  rw [if_neg (not_not.mpr hdst), if_neg (by simp [hcrc]), if_neg hstat, hk]
  dsimp only
  rw [hjob]
  rfl

theorem finzonNak_reaches {id : Nat} (hjob : k.job = some id) : exec .finzonNak s = .next ((released s k).jobFabricFails id jsRemote) := by
  subst hm
  show execFinzonNak s = _
  unfold execFinzonNak
  dsimp only
  rw [if_neg (not_not.mpr hdst), if_neg (by simp [hcrc]), if_neg hstat, hk]
  dsimp only
  rw [hjob]
  rfl

end release

theorem jobOf_of_filter {s : State} {id : Nat} {j : Job} (h : s.jobs.filter (fun x => x.id == id) = [j]) : s.jobOf id = some j := by
  unfold State.jobOf
  rw [← List.head?_filter, h]
  rfl

theorem eq_singleton_of_forall {α : Type} {l : List α} {a : α} (hall : ∀ x ∈ l, x = a) (hlen : l.length = 1) : l = [a] := by
  rw [List.eq_replicate_of_mem hall, hlen]
  rfl

/-! ## Sending again (04 R95) -/

section resend
variable {s : State} {k : Kept} {dst seq p : Nat} (hkept : s.fz.kept = [k]) (hdst : k.msg.dst = dst) (hseq : k.msg.seq = seq)
include hkept hdst hseq

/-- The one message that is kept is counted, reported and goes out again. -/
theorem resend_only (hfew : k.resends < 8) (hun : k.msg.dst ≠ unassigned) (hout : k.msg.dst ≠ s.fz.nid.toNat)
    (hport : s.fz.port k.msg.dst k.msg.src k.chunk = some p) : s.resend dst seq =
      ((s.modFz fun f => { f with kept := [{ k with resends := k.resends + 1 }] }).reportPf clsCorrectable 3 0).modFz
        fun f => { f with sent := f.sent ++ [(p, k.msg)] } := by
  subst hdst hseq
  let k' : Kept := { k with resends := k.resends + 1 }
  let v := (s.modFz fun f => { f with kept := [k'] }).reportPf clsCorrectable 3 0
  have hfind : (s.fz.kept.find? fun x => x.msg.dst == k.msg.dst && x.msg.seq == k.msg.seq) = some k := by simp [hkept]
  have hmod : (s.modFz fun f => { f with
      kept := modFirst (fun x => x.msg.dst == k.msg.dst && x.msg.seq == k.msg.seq) (fun x => { x with resends := x.resends + 1 }) f.kept }) =
      s.modFz fun f => { f with kept := [k'] } := by simp [State.modFz, hkept, modFirst, k']
  have hv : v.fz = { s.fz with kept := [k'] } := rfl
  have hfrom : v.fz.from_ k.msg.dst k.msg.seq = [k'] := by
    rw [hv]
    simp [Finzon.from_, k']
  have hlaunch : v.launchMsg k'.chunk k'.msg = some (v.modFz fun f => { f with sent := f.sent ++ [(p, k.msg)] }) :=
    launchMsg_port hun hout hport
  unfold State.resend
  rw [hfind]
  dsimp only
  rw [if_neg (by omega)]
  rw [hmod, hfrom, List.foldl_cons, List.foldl_nil]
  dsimp only
  rw [hlaunch]
  rfl

end resend

/-- The timeout of the one message that is kept. -/
theorem finzonResendTimeout_resends {s : State} {k : Kept} {p : Nat} (hkept : s.fz.kept = [k]) (hdst : k.msg.dst = s.arg.num)
    (hseq : k.msg.seq = s.arg.id) (hfew : k.resends < 8) (hun : k.msg.dst ≠ unassigned) (hout : k.msg.dst ≠ s.fz.nid.toNat)
    (hport : s.fz.port k.msg.dst k.msg.src k.chunk = some p) :
    ∃ t, exec .finzonResendTimeout s = .next t ∧ t.fz.kept = [{ k with resends := k.resends + 1 }] ∧
      t.fz.sent = s.fz.sent ++ [(p, k.msg)] ∧ reported s { t with fz := s.fz } 0 3 0 0 0 ∧
      t.timers = s.timers ++ [(s.now + 12000, .finzonResendTimeout, ({ num := s.arg.num, id := s.arg.id } : EvArgs))] := by
  let k' : Kept := { k with resends := k.resends + 1 }
  let u := s.modFz fun f => { f with kept := [k'] }
  let v := (u.reportPf clsCorrectable 3 0).modFz fun f => { f with sent := f.sent ++ [(p, k.msg)] }
  have hany : (s.fz.kept.any fun k => k.msg.dst == s.arg.num && k.msg.seq == s.arg.id) = true := by simp [hkept, hdst, hseq]
  have hstill : (v.fz.kept.any fun k => k.msg.dst == s.arg.num && k.msg.seq == s.arg.id) = true := by
    rw [show v.fz.kept = [k'] from rfl]
    simp [k', hdst, hseq]
  have hexec : exec .finzonResendTimeout s = .next (v.timer 12000 .finzonResendTimeout { num := s.arg.num, id := s.arg.id }) := by
    show execFinzonResendTimeout s = _
    unfold execFinzonResendTimeout
    dsimp only
    rw [if_pos hany, resend_only hkept hdst hseq hfew hun hout hport]
    exact congrArg Host.Outcome.next (if_pos hstill)
  have hreported : reported s (s.reportPf clsCorrectable 3 0) 0 3 0 0 0 :=
    reported_report s (by decide) (by decide) (by decide) (by decide) (by decide)
  exact ⟨_, hexec, rfl, rfl, reported_congr hreported ⟨rfl, rfl, rfl⟩ ⟨rfl, rfl, rfl⟩, rfl⟩

/-! ## Data and old values for a job (04 R99, R100) -/

theorem finzonGetData_unclaimed {s : State} (hturn : InTurn s (finzonOf s.arg)) (hjob : s.jobAwaiting (finzonOf s.arg) = none) :
    exec .finzonGetData s = .next ((turned s (finzonOf s.arg)).answerMsg (finzonOf s.arg) none) := by
  show execFinzonGetData s = _
  unfold execFinzonGetData
  exact answered_unclaimed hturn hjob

theorem finzonAtomicResult_unclaimed {s : State} (hturn : InTurn s (finzonOf s.arg)) (hjob : s.jobAwaiting (finzonOf s.arg) = none) :
    exec .finzonAtomicResult s = .next ((turned s (finzonOf s.arg)).answerMsg (finzonOf s.arg) none) := by
  show execFinzonAtomicResult s = _
  unfold execFinzonAtomicResult
  exact answered_unclaimed hturn hjob

section give
variable {s : State} {m : FinzonMsg} (hm : m = finzonOf s.arg) (hturn : InTurn s m) (hheld : s.answerHeld m = none) {j : Job}
  (hjob : ((turned s m).answerMsg m none).jobAwaiting m = some j) {t : State}
include hm hturn hheld hjob

theorem finzonGetData_gives (hop : cardOp j.card ≠ 9) {va w n : Nat} (hregion : cardRegion j.card 0 = .remote va w n)
    (hgive : ((turned s m).answerMsg m none).give j 1 (m.va - va) m.data = .ok t) :
    exec .finzonGetData s = .next (t.jobArrived j.id (m.src + 2 ^ 32, m.va)) := by
  subst hm
  show execFinzonGetData s = _
  unfold execFinzonGetData
  dsimp only
  rw [answered_given hturn hheld hjob]
  rw [if_neg hop, hregion]
  dsimp only
  rw [hgive]

theorem finzonAtomicResult_gives
    (hgive : ((turned s m).answerMsg m none).give j 1 0 (bytesOfNat 8 (BitVec.ofInt 64 (sextN (8 * m.len) m.opnd0)).toNat) = .ok t) :
    exec .finzonAtomicResult s = .next (t.jobArrived j.id (m.src + 2 ^ 32, m.va)) := by
  subst hm
  have hwrap (x : Int) : wrapN 64 x = (BitVec.ofInt 64 x).toNat := (BitVec.toNat_ofInt ..).symm
  show execFinzonAtomicResult s = _
  unfold execFinzonAtomicResult
  dsimp only
  rw [answered_given hturn hheld hjob]
  rw [hwrap, hgive]

end give

/-! ## Transit messages and ports (04 R93, R96, R97) -/

theorem finzonTransit_forwards {s : State} {m : FinzonMsg} (hm : m = finzonOf s.arg) (hun : m.dst ≠ unassigned) {p : Nat}
    (hp : s.fz.port m.dst m.src 0 = some p) : exec .finzonTransit s = .next (s.modFz fun f => { f with sent := f.sent ++ [(p, m)] }) := by
  subst hm
  show execFinzonTransit s = _
  unfold execFinzonTransit
  dsimp only
  rw [if_neg hun, hp]

theorem finzonTransit_noRoute {s : State} {m : FinzonMsg} (hm : m = finzonOf s.arg) (hun : m.dst ≠ unassigned)
    (hp : s.fz.port m.dst m.src 0 = none) : exec .finzonTransit s = .next s.badMsg := by
  subst hm
  show execFinzonTransit s = _
  unfold execFinzonTransit
  dsimp only
  rw [if_neg hun, hp]

theorem setIdx_of_lt {α : Type} {n i : Nat} (v : Vector α n) (x : α) (h : i < n) : setIdx v i x = v.set i x h := dif_pos h

/-- The answers of O46, each by whom it reaches. -/
theorem fabricAnswers : Claims.FabricAnswers := by
  intro s a m mine
  refine ⟨fun hcrc hdst k hk => ⟨fun hjob => ?_, fun id j hjob hone hrun hop hall hlen => ?_, fun id j hjob hone hrun hstat => ?_⟩,
    fun hdst hcrc => ⟨finzonAck_corrupt rfl hdst hcrc, finzonNak_corrupt rfl hdst hcrc⟩,
    fun k p hkept hdst hseq hfew hun hout hport _ => finzonResendTimeout_resends hkept hdst hseq hfew hun hout hport,
    fun hturn => ⟨fun hjob => ⟨finzonGetData_unclaimed hturn hjob, finzonAtomicResult_unclaimed hturn hjob⟩,
      fun j va w n t hheld hjob hop hregion hgive => finzonGetData_gives rfl hturn hheld hjob hop hregion hgive,
      fun j t hheld hjob hgive => finzonAtomicResult_gives rfl hturn hheld hjob hgive⟩,
    fun hun => ⟨fun p hp => ⟨_, finzonTransit_forwards rfl hun hp, rfl, rfl⟩, finzonTransit_noRoute rfl hun⟩,
    ⟨_, rfl, rfl, rfl, rfl⟩, ⟨_, rfl, rfl, ?_, fun i hi hne => ?_⟩⟩
  · exact ⟨finzonAck_releases rfl hdst hcrc hk hjob, fun hstat => finzonNak_releases rfl hdst hcrc hk hstat hjob⟩
  · have hj : (released s k).jobOf id = some j := jobOf_of_filter (s := released s k) hone
    obtain ⟨j', hj', hstate, hawaiting, hstatus, hfz⟩ := jobArrived_last hj hrun hop (eq_singleton_of_forall hall hlen)
    exact ⟨_, j', finzonAck_reaches rfl hdst hcrc hk hjob, congrArg Finzon.kept hfz, hj', hstate, hawaiting, hstatus⟩
  · have hj : (released s k).jobOf id = some j := jobOf_of_filter (s := released s k) hone
    obtain ⟨j', hj', hstate, hstatus, hfz⟩ := jobFabricFails_running hj hrun jsRemote
    exact ⟨_, j', finzonNak_reaches rfl hdst hcrc hk hstat hjob, hfz, hj', hstate, hstatus⟩
  · show getIdx (s.fz.up.set a.port.val _ a.port.isLt) _ _ = _
    rw [← setIdx_of_lt]
    exact getIdx_setIdx_self _ _ _ a.port.isLt
  · show getIdx (s.fz.up.set a.port.val _ a.port.isLt) _ _ = _
    rw [← setIdx_of_lt]
    exact getIdx_setIdx_ne _ _ _ (Ne.symm hne)

end Sys2Proof.Proofs
end

section
/-! PROOFS. A message and its flits (04 R94), and O46 from its parts. -/

namespace Sys2Proof.Proofs

open Sys2Proof Sys2Proof.Machine Sys2Proof.Claims Sys2Proof.Laws

/-! ## Fields of bytes -/

theorem natOfBytes_bytesOfNat (n x : Nat) : natOfBytes (bytesOfNat n x) = x % 2 ^ (8 * n) := by
  induction n generalizing x with
  | zero => simp [bytesOfNat, natOfBytes, Nat.mod_one]
  | succ n ih =>
    have hpow : 2 ^ (8 * (n + 1)) = 256 * 2 ^ (8 * n) := by rw [Nat.mul_succ, Nat.pow_add, Nat.mul_comm]
    rw [bytesOfNat, natOfBytes, ih, hpow, Nat.mod_mul, BitVec.toNat_ofNat]

/-- The field that stands first. -/
theorem fieldAt_first {n x : Nat} (bs : List Byte) (h : x < 2 ^ (8 * n)) : fieldAt (bytesOfNat n x ++ bs) 0 n = x := by
  rw [fieldAt, List.drop_zero, List.take_left' (length_bytesOfNat n x), natOfBytes_bytesOfNat, Nat.mod_eq_of_lt h]

/-- A field behind other bytes. -/
theorem fieldAt_append {as : List Byte} (bs : List Byte) {o : Nat} (n : Nat) (h : as.length ≤ o) :
    fieldAt (as ++ bs) o n = fieldAt bs (o - as.length) n := by
  rw [fieldAt, fieldAt, List.drop_append, List.drop_of_length_le h, List.nil_append]

theorem fieldAt_skip {k o : Nat} (x : Nat) (bs : List Byte) (n : Nat) (h : k ≤ o) :
    fieldAt (bytesOfNat k x ++ bs) o n = fieldAt bs (o - k) n := by
  have hlen := length_bytesOfNat k x
  rw [fieldAt_append bs n (hlen.le.trans h), hlen]

theorem length_padTo (n : Nat) (bs : List Byte) : (padTo n bs).length = n := by
  simp [padTo]
  omega

theorem take_padTo_append {n : Nat} {bs : List Byte} (h : bs.length ≤ n) (rest : List Byte) :
    (padTo n bs ++ rest).take bs.length = bs := by
  rw [List.take_append_of_le_length (by rw [length_padTo]; exact h), padTo, List.take_take, Nat.min_eq_left h, List.take_left]

theorem le_roundUp (a : Nat) {b : Nat} (hb : 0 < b) : a ≤ roundUp a b := by
  have hmod : (a + b - 1) / b * b + (a + b - 1) % b = a + b - 1 := Nat.div_add_mod' ..
  have hlt := Nat.mod_lt (a + b - 1) hb
  unfold roundUp ceilDiv
  omega

/-! ## The CRC is of 32 bits (04 R94) -/

theorem crcStep_lt {c : Nat} (h : c < 2 ^ 32) : crcStep c < 2 ^ 32 := by
  unfold crcStep
  split
  · exact Nat.xor_lt_two_pow (by omega) (by decide)
  · omega

theorem crcByte_lt {c : Nat} (h : c < 2 ^ 32) (b : Byte) : crcByte c b < 2 ^ 32 :=
  List.foldlRecOn (motive := (· < 2 ^ 32)) _ _ (Nat.xor_lt_two_pow h (b.isLt.trans (by decide))) fun _ hc _ _ => crcStep_lt hc

theorem crc32c_lt (bs : List Byte) : crc32c bs < 2 ^ 32 :=
  Nat.xor_lt_two_pow (List.foldlRecOn (motive := (· < 2 ^ 32)) bs crcByte (by decide) fun _ hc b _ => crcByte_lt hc b) (by decide)

/-! ## The parts of the flits -/

/-- Bytes 63:0 of the header flit. -/
def msgFields (m : FinzonMsg) : List Byte :=
  bytesOfNat 1 m.typ ++ (bytesOfNat 1 (b2n m.resp) ++ (bytesOfNat 6 (m.dst + m.src * 2 ^ 21) ++ (bytesOfNat 4 m.seq ++
    (bytesOfNat 2 m.win ++ (bytesOfNat 2 m.stat ++ (bytesOfNat 8 m.va ++ (bytesOfNat 4 m.len ++ (bytesOfNat 4 m.tag ++
      (bytesOfNat 16 m.opnd0 ++ bytesOfNat 16 m.opnd1)))))))))

/-- The data of a message that are carried inline. -/
def inlineData (m : FinzonMsg) : List Byte := if m.data.length ≤ 128 then m.data else []

theorem msgHead_eq (m : FinzonMsg) : msgHead m = msgFields m ++ (padTo 128 (inlineData m) ++ List.replicate 60 0) := by
  simp only [msgHead, msgFields, inlineData, nodesBytes, List.append_assoc]

theorem length_msgFields (m : FinzonMsg) : (msgFields m).length = 64 := by simp only [msgFields, List.length_append, length_bytesOfNat]

theorem length_msgHead (m : FinzonMsg) : (msgHead m).length = 252 := by
  rw [msgHead_eq, List.length_append, List.length_append, length_msgFields, length_padTo, List.length_replicate]

theorem length_msgData (m : FinzonMsg) :
    (msgData m).length = if m.data.length ≤ 128 then 0 else ceilDiv m.data.length 256 * 256 := by
  unfold msgData
  split
  · rfl
  · exact length_padTo ..

/-- The CRC that a message carries. -/
def msgCrc (m : FinzonMsg) : Nat := crc32c (msgHead m ++ msgData m)

theorem msgFlits_eq (m : FinzonMsg) : msgFlits m = msgHead m ++ (bytesOfNat 4 (msgCrc m) ++ msgData m) := List.append_assoc ..

theorem length_msgFlits (m : FinzonMsg) :
    (msgFlits m).length = 256 + (if m.data.length ≤ 128 then 0 else ceilDiv m.data.length 256 * 256) := by
  rw [msgFlits_eq, List.length_append, List.length_append, length_msgHead, length_bytesOfNat, length_msgData]
  omega

/-- The flits as the fields of the header and what stands behind them. -/
theorem msgFlits_fields (m : FinzonMsg) : msgFlits m =
    msgFields m ++ (padTo 128 (inlineData m) ++ (List.replicate 60 0 ++ (bytesOfNat 4 (msgCrc m) ++ msgData m))) := by
  rw [msgFlits_eq, msgHead_eq]
  simp only [List.append_assoc]

theorem drop_msgFlits (m : FinzonMsg) : (msgFlits m).drop 256 = msgData m := by
  rw [msgFlits_eq, ← List.append_assoc]
  exact List.drop_left' (by rw [List.length_append, length_msgHead, length_bytesOfNat])

/-! ## What a port reads (04 R94) -/

section read
variable (m : FinzonMsg)

theorem crc_msgFlits : (fieldAt (msgFlits m) 252 4 == crc32c ((msgFlits m).take 252 ++ (msgFlits m).drop 256)) = true := by
  have hcrc : fieldAt (msgFlits m) 252 4 = msgCrc m := by
    rw [msgFlits_eq, fieldAt_append _ _ (length_msgHead m).le, length_msgHead]
    exact fieldAt_first _ (crc32c_lt _)
  have hhead : (msgFlits m).take 252 = msgHead m := by
    rw [msgFlits_eq]
    exact List.take_left' (length_msgHead m)
  rw [hcrc, hhead, drop_msgFlits]
  exact beq_self_eq_true _

/-- The data of a message that carries LEN bytes. -/
theorem flitData_msgFlits (hlen : m.data.length = m.len) : flitData (msgFlits m) m.len = m.data := by
  unfold flitData
  rw [← hlen]
  split
  · next h =>
    have hinline : inlineData m = m.data := if_pos h
    rw [msgFlits_fields, List.drop_left' (length_msgFields m), hinline]
    exact take_padTo_append h _
  · next h =>
    have hdata : msgData m = padTo (roundUp m.data.length 256) m.data := if_neg h
    have htake := take_padTo_append (le_roundUp m.data.length (b := 256) (by decide)) []
    rw [drop_msgFlits, hdata]
    rwa [List.append_nil] at htake

/-- A field is read from the fields of the header by going past those before it. -/
theorem msgOfFlits_fields (htyp : m.typ < 2 ^ 8) (hdst : m.dst < 2 ^ 21) (hsrc : m.src < 2 ^ 21) (hseq : m.seq < 2 ^ 32)
    (hwin : m.win < 2 ^ 16) (hstat : m.stat < 2 ^ 16) (hva : m.va < 2 ^ 56) (hlen : m.len < 2 ^ 32) (htag : m.tag < 2 ^ 32)
    (hopnd0 : m.opnd0 < 2 ^ 128) (hopnd1 : m.opnd1 < 2 ^ 128) :
    let bs := msgFlits m
    fieldAt bs 0 1 = m.typ ∧ fieldAt bs 1 1 = b2n m.resp ∧ fieldAt bs 2 6 = m.dst + m.src * 2 ^ 21 ∧ fieldAt bs 8 4 = m.seq ∧
      fieldAt bs 12 2 = m.win ∧ fieldAt bs 14 2 = m.stat ∧ fieldAt bs 16 8 = m.va ∧ fieldAt bs 24 4 = m.len ∧
      fieldAt bs 28 4 = m.tag ∧ fieldAt bs 32 16 = m.opnd0 ∧ fieldAt bs 48 16 = m.opnd1 := by
  have hresp : b2n m.resp < 2 ^ 8 := by cases m.resp <;> decide
  have hnodes : m.dst + m.src * 2 ^ 21 < 2 ^ 48 := by omega
  have hva' : m.va < 2 ^ 64 := by omega
  simp only [msgFlits_fields, msgFields, List.append_assoc]
  refine ⟨fieldAt_first _ htyp, ?_, ?_, ?_, ?_, ?_, ?_, ?_, ?_, ?_, ?_⟩
  all_goals
    simp only [fieldAt_skip, Nat.reduceLeDiff, Nat.reduceSub]
    exact fieldAt_first _ (by assumption)

end read

/-- 04 R94, field by field. -/
theorem flitsCarryTheMessage : Claims.FlitsCarryTheMessage := by
  intro m htyp hdst hsrc hseq hwin hstat hva hlen htag hopnd0 hopnd1 hcrc hdata
  obtain ⟨etyp, eresp, enodes, eseq, ewin, estat, eva, elen, etag, eopnd0, eopnd1⟩ :=
    msgOfFlits_fields m htyp hdst hsrc hseq hwin hstat hva hlen htag hopnd0 hopnd1
  have eresp' : bitN (b2n m.resp) 0 = m.resp := by cases m.resp <;> rfl
  have edst : bitsN (m.dst + m.src * 2 ^ 21) 0 21 = m.dst := by
    rw [bitsN_zero]
    omega
  have esrc : bitsN (m.dst + m.src * 2 ^ 21) 21 21 = m.src := by
    unfold bitsN
    omega
  have eva' : bitsN m.va 0 56 = m.va := by rw [bitsN_zero, Nat.mod_eq_of_lt hva]
  have edata : (if (m.typ == 1 || m.typ == 3 || m.typ == 8) = true then flitData (msgFlits m) m.len else []) = m.data := by
    split
    · next h =>
      refine flitData_msgFlits m (hdata.trans (if_pos ?_))
      simpa [or_assoc] using h
    · next h =>
      refine (List.eq_nil_of_length_eq_zero (hdata.trans (if_neg ?_))).symm
      simpa [or_assoc] using h
  have hread : msgOfFlits (msgFlits m) = m := by
    unfold msgOfFlits
    dsimp only
    rw [etyp, eresp, enodes, eseq, ewin, estat, eva, elen, etag, eopnd0, eopnd1, eresp', edst, esrc, eva', edata, crc_msgFlits, ← hcrc]
  have hne : (msgFlits m).isEmpty = false := by
    rw [List.isEmpty_eq_false_iff, ← List.length_pos_iff, length_msgFlits]
    omega
  refine ⟨hread, length_msgFlits m, ?_⟩
  unfold finzonOf
  dsimp only
  rw [hne]
  exact hread

/-- Settles O46: requests, answers and flits are settled apart, each by the case of the message. -/
theorem fabricMessages : Obligations.FabricMessages := ⟨fabricRequests, fabricAnswers, flitsCarryTheMessage⟩

end Sys2Proof.Proofs
end

section
/-! SUPPORT. Events, timers and the list of busy cores are announced; a part that comes back to D0 (04 R88). -/

namespace Sys2Proof.Proofs

open Sys2Proof Sys2Proof.Machine Sys2Proof.Claims Sys2Proof.Laws

/-! ## What only announces -/

/-- Events and timers are started and cores are to be looked at; nothing else moves. -/
structure Announces (s t : State) : Prop where
  eq : ∃ ag ti bs, t = { s with agenda := ag, timers := ti, busy := bs }
  busy : ∀ c ∈ s.busy, c ∈ t.busy

theorem Announces.refl (s : State) : Announces s s := ⟨⟨_, _, _, rfl⟩, fun _ h => h⟩

theorem Announces.trans {s t u : State} (h : Announces s t) (h' : Announces t u) : Announces s u := by
  obtain ⟨⟨_, _, _, rfl⟩, hb⟩ := h
  obtain ⟨⟨_, _, _, rfl⟩, hb'⟩ := h'
  exact ⟨⟨_, _, _, rfl⟩, fun c hc => hb' c (hb c hc)⟩

theorem announces_foldl {α : Type} {f : State → α → State} (h : ∀ s a, Announces s (f s a)) (l : List α) (s : State) :
    Announces s (l.foldl f s) :=
  List.foldlRecOn l f (Announces.refl s) fun _ hb a _ => hb.trans (h _ a)

theorem announces_post (s : State) (e : Instr) (a : EvArgs) : Announces s (s.post e a) := ⟨⟨_, _, _, rfl⟩, fun _ h => h⟩

theorem announces_timer (s : State) (n : Nat) (e : Instr) (a : EvArgs) : Announces s (s.timer n e a) :=
  ⟨⟨_, _, _, rfl⟩, fun _ h => h⟩

theorem announces_addBusy (s : State) (c : Fin 192) : Announces s (s.addBusy c) := by
  refine ⟨?_, (clocksStand_addBusy s c).busy⟩
  obtain ⟨b, hb⟩ := addBusy_eq s c
  exact ⟨_, _, _, hb⟩

theorem announces_armFrame (s : State) : Announces s s.armFrame := by
  unfold State.armFrame
  split
  · exact .refl s
  · exact announces_timer ..

theorem announces_draft (s : State) (die : Nat) : Announces s (s.draft die) := by
  unfold State.draft
  dsimp only
  split
  · exact .refl s
  · split
    · exact .refl s
    · exact announces_timer ..

theorem announces_dieCalled (s : State) (d : Nat) : Announces s (dieCalled s d) := by
  have hann : Announces s { s with agenda := s.agenda ++ (contextsOn s d).flatMap s.arrivals } := ⟨⟨_, _, _, rfl⟩, fun _ h => h⟩
  have hcalls (s : State) (c : Fin 192) : Announces s (callCommands s c) := announces_foldl (fun _ _ => announces_post ..) _ s
  exact hann.trans ((announces_foldl hcalls ..).trans (announces_foldl announces_addBusy ..))

theorem announces_offerRoom (s : State) : Announces s s.offerRoom := by
  unfold State.offerRoom
  split
  · exact announces_post ..
  · exact .refl s

/-! ## The return to D0 -/

/-- No thread is about to leave its context. -/
def NoneLeaves (s : State) : Prop := ∀ p ∈ s.contexts, (s.ctxAt p.1 p.2).leaving = none

theorem Announces.noneLeaves {s t : State} (h : Announces s t) (hs : NoneLeaves s) : NoneLeaves t := by
  obtain ⟨⟨_, _, _, rfl⟩, -⟩ := h
  exact hs

/-- The drafting unit and the cores of a die go on. -/
def dieGoesOn (s : State) (d : Nat) : State := (s.draft d).wakeDie d

theorem announces_dieGoesOn {s : State} (h : NoneLeaves s) (d : Nat) : Announces s (dieGoesOn s d) := by
  have hdraft := announces_draft s d
  have hwake : dieGoesOn s d = dieCalled (s.draft d) d := wakeDie_of_leaving_none fun p hp _ => hdraft.noneLeaves h p hp
  exact hwake ▸ hdraft.trans (announces_dieCalled ..)

theorem announces_diesGoOn {s : State} (h : NoneLeaves s) (l : List Nat) : Announces s (l.foldl dieGoesOn s) :=
  List.foldlRecOn l dieGoesOn (Announces.refl s) fun _ hb d _ => hb.trans (announces_dieGoesOn (hb.noneLeaves h) d)

/-- Every core of a die that goes on is looked at. -/
theorem busy_diesGoOn {s : State} (h : NoneLeaves s) {l : List Nat} {d : Nat} (hd : d ∈ l) {c : Fin 192} (hc : (dieOf c).val = d) :
    c ∈ (l.foldl dieGoesOn s).busy := by
  obtain ⟨l₁, l₂, rfl⟩ := List.append_of_mem hd
  have hu := (announces_diesGoOn h l₁).noneLeaves h
  rw [List.foldl_append, List.foldl_cons]
  exact (announces_diesGoOn ((announces_dieGoesOn hu d).noneLeaves hu) l₂).busy c (busy_wakeDie hc)

theorem landingWakes_of_empty {s : State} (h : ∀ d < 256, (s.dctxOf d).landing = []) (slept : Nat) : s.landingWakes slept = s := by
  unfold State.landingWakes
  refine List.foldlRecOn (motive := fun t => t = s) _ _ rfl fun t ht d hd => ?_
  subst ht
  simp [h d (List.mem_range.mp hd)]

/-- The part in D0 before its engines, firmware and cores go on. -/
def inD0 (s : State) : State := { s with power := { s.power with d3hot := false } }

theorem inD0_of_d0 {s : State} (h : s.power.d3hot = false) : inD0 s = s := by
  unfold inD0
  rw [← h]

/-- The firmware and the engines go on. -/
def enginesGoOn (s : State) : State :=
  (List.finRange 48).foldl (fun s h => s.post .jobDispatch { hall := h })
    ((s.armFrame.jobs.filter fun j => j.goesOn && !s.armFrame.engineCalled j).foldl
      (fun s j => s.post .jobDispatch { id := j.id, flag := true }) s.armFrame)

theorem announces_enginesGoOn (s : State) : Announces s (enginesGoOn s) :=
  (announces_armFrame s).trans
    ((announces_foldl (fun _ _ => announces_post ..) _ _).trans (announces_foldl (fun _ _ => announces_post ..) _ _))

theorem wakeUp_of_d0 {s : State} (h : s.power.d3hot = false) : s.wakeUp = s := by simp [State.wakeUp, h]

/-- With an empty Landing, what comes back is the part as it was, and everything goes on. -/
theorem wakeUp_eq {s : State} (hd3 : s.power.d3hot = true) (hl : ∀ d < 256, (s.dctxOf d).landing = []) :
    s.wakeUp = (List.range 4).foldl dieGoesOn (enginesGoOn (inD0 s)) := by
  have hland : (inD0 s).landingWakes ((inD0 s).now - (inD0 s).power.d3At) = inD0 s := landingWakes_of_empty (s := inD0 s) hl _
  unfold State.wakeUp
  rw [hd3]
  show (List.range 4).foldl dieGoesOn (enginesGoOn ((inD0 s).landingWakes ((inD0 s).now - (inD0 s).power.d3At))) = _
  rw [hland]

theorem announces_wakeUp {s : State} (hl : ∀ d < 256, (s.dctxOf d).landing = []) (h : s.power.d3hot = false ∨ NoneLeaves s) :
    Announces (inD0 s) s.wakeUp := by
  cases hd3 : s.power.d3hot with
  | false => rw [wakeUp_of_d0 hd3, inD0_of_d0 hd3]; exact .refl s
  | true =>
    have hnone : NoneLeaves (inD0 s) := h.resolve_left (by simp [hd3])
    have heng := announces_enginesGoOn (inD0 s)
    rw [wakeUp_eq hd3 hl]
    exact heng.trans (announces_diesGoOn (heng.noneLeaves hnone) _)

end Sys2Proof.Proofs
end

section
/-! SUPPORT. What the reset of a function drops: grids, jobs, plans and the threads that leave their contexts, and no byte of memory (04
R89). -/

namespace Sys2Proof.Proofs

open Sys2Proof Sys2Proof.Machine Sys2Proof.Claims Sys2Proof.Laws

/-! ## Work that goes away -/

/-- Work has gone and none has come: the bytes of memory, power, security and the owners of the device contexts stand, and no thread has
come on a context or is now about to leave one. -/
structure Sheds (s t : State) : Prop where
  bytes : t.mem.bytes = s.mem.bytes
  power : t.power = s.power
  sec : t.sec = s.sec
  fn : ∀ d, (t.dctxOf d).fn = (s.dctxOf d).fn
  grids : t.grids ⊆ s.grids
  jobs : t.jobs.map Job.dctx ⊆ s.jobs.map Job.dctx
  plans : t.plans.map Plan.dctx ⊆ s.plans.map Plan.dctx
  contexts : t.contexts ⊆ s.contexts
  leaving : ∀ c x, (s.ctxAt c x).leaving = none → (t.ctxAt c x).leaving = none

/-- The same, and no register of a device context has moved. -/
structure ShedsWork (s t : State) : Prop extends Sheds s t where
  dctxs : t.dctxs = s.dctxs

theorem Sheds.refl (s : State) : Sheds s s :=
  ⟨rfl, rfl, rfl, fun _ => rfl, .refl _, .refl _, .refl _, .refl _, fun _ _ h => h⟩

theorem Sheds.trans {s t u : State} (h : Sheds s t) (h' : Sheds t u) : Sheds s u where
  bytes := h'.bytes.trans h.bytes
  power := h'.power.trans h.power
  sec := h'.sec.trans h.sec
  fn := fun d => (h'.fn d).trans (h.fn d)
  grids := List.Subset.trans h'.grids h.grids
  jobs := List.Subset.trans h'.jobs h.jobs
  plans := List.Subset.trans h'.plans h.plans
  contexts := List.Subset.trans h'.contexts h.contexts
  leaving := fun c x hx => h'.leaving c x (h.leaving c x hx)

theorem Sheds.noneLeaves {s t : State} (h : Sheds s t) (hs : NoneLeaves s) : NoneLeaves t :=
  fun p hp => h.leaving _ _ (hs p (h.contexts hp))

theorem sheds_foldl {α : Type} {f : State → α → State} (h : ∀ s a, Sheds s (f s a)) (l : List α) (s : State) :
    Sheds s (l.foldl f s) :=
  List.foldlRecOn l f (Sheds.refl s) fun _ hb a _ => hb.trans (h _ a)

theorem ShedsWork.refl (s : State) : ShedsWork s s := ⟨.refl s, rfl⟩

theorem ShedsWork.trans {s t u : State} (h : ShedsWork s t) (h' : ShedsWork t u) : ShedsWork s u :=
  ⟨h.toSheds.trans h'.toSheds, h'.dctxs.trans h.dctxs⟩

theorem shedsWork_foldl {α : Type} {f : State → α → State} (h : ∀ s a, ShedsWork s (f s a)) (l : List α) (s : State) :
    ShedsWork s (l.foldl f s) :=
  List.foldlRecOn l f (ShedsWork.refl s) fun _ hb a _ => hb.trans (h _ a)

theorem Announces.shedsWork {s t : State} (h : Announces s t) : ShedsWork s t := by
  obtain ⟨⟨_, _, _, rfl⟩, -⟩ := h
  exact ⟨⟨rfl, rfl, rfl, fun _ => rfl, .refl _, .refl _, .refl _, .refl _, fun _ _ h => h⟩, rfl⟩

/-- An update that touches nothing of what is told apart here. -/
theorem shedsWork_of_eq {s t : State} (hm : t.mem.bytes = s.mem.bytes) (hp : t.power = s.power) (hs : t.sec = s.sec)
    (hd : t.dctxs = s.dctxs) (hg : t.grids = s.grids) (hj : t.jobs = s.jobs) (hpl : t.plans = s.plans) (hr : t.recs = s.recs)
    (hc : t.cores = s.cores) : ShedsWork s t where
  bytes := hm
  power := hp
  sec := hs
  fn := fun d => by simp only [State.dctxOf, hd]
  grids := hg ▸ .refl _
  jobs := hj ▸ .refl _
  plans := hpl ▸ .refl _
  contexts := by simp only [State.contexts, hr]; exact .refl _
  leaving := fun c x h => by simpa only [State.ctxAt, State.coreAt, hc] using h
  dctxs := hd

theorem shedsWork_modMem (s : State) {f : MemSys → MemSys} (hf : (f s.mem).bytes = s.mem.bytes) : ShedsWork s (s.modMem f) :=
  shedsWork_of_eq hf rfl rfl rfl rfl rfl rfl rfl rfl

/-! ## Contexts and records -/

/-- An update of a core none of whose threads becomes about to leave. -/
theorem shedsWork_modCoreAt (s : State) (c : Fin 192) {f : Core → Core}
    (hf : ∀ k x, (k.ctx x).leaving = none → ((f k).ctx x).leaving = none) : ShedsWork s (s.modCoreAt c f) := by
  refine ⟨⟨rfl, rfl, rfl, fun _ => rfl, .refl _, .refl _, .refl _, .refl _, fun d x h => ?_⟩, rfl⟩
  by_cases hd : d = c
  · subst hd
    rw [State.ctxAt, coreAt_modCoreAt_self]
    exact hf _ x h
  · rwa [State.ctxAt, coreAt_modCoreAt_ne _ _ _ _ hd]

/-- New cores with the threads' contexts of the old ones. -/
theorem shedsWork_cores (s : State) {v : Vector Core 192} (h : ∀ c, (v.get c).ctxs = (s.coreAt c).ctxs) :
    ShedsWork s { s with cores := v } := by
  refine ⟨⟨rfl, rfl, rfl, fun _ => rfl, .refl _, .refl _, .refl _, .refl _, fun c x hx => ?_⟩, rfl⟩
  show ((v.get c).ctxs.get x).leaving = none
  rwa [h c]

theorem core_modCtx_leaving {x : Fin 4} {f : Ctx → Ctx} (hf : ∀ k, k.leaving = none → (f k).leaving = none) (k : Core) (y : Fin 4)
    (h : (k.ctx y).leaving = none) : ((k.modCtx x f).ctx y).leaving = none := by
  by_cases hy : y = x
  · subst hy
    rw [core_ctx_modCtx_self]
    exact hf _ h
  · rwa [core_ctx_modCtx_ne _ _ _ _ hy]

theorem shedsWork_modCtxAt (s : State) (c : Fin 192) (x : Fin 4) {f : Ctx → Ctx}
    (hf : ∀ k, k.leaving = none → (f k).leaving = none) : ShedsWork s (s.modCtxAt c x f) :=
  shedsWork_modCoreAt s c (core_modCtx_leaving hf)

/-- Records that take no context. -/
theorem shedsWork_mapRecs (s : State) (p : Rec → Bool) {f : Rec → Rec} (hf : ∀ r, (f r).onCtx = r.onCtx ∨ (f r).onCtx = none) :
    ShedsWork s (s.mapRecs p f) := by
  refine ⟨⟨rfl, rfl, rfl, fun _ => rfl, .refl _, .refl _, .refl _, fun q hq => ?_, fun _ _ h => h⟩, rfl⟩
  obtain ⟨r', hr', hq⟩ := List.mem_filterMap.mp hq
  obtain ⟨r, hr, rfl⟩ := List.mem_map.mp hr'
  refine List.mem_filterMap.mpr ⟨r, hr, ?_⟩
  split at hq
  · rcases hf r with h | h
    · rwa [h] at hq
    · simp [h] at hq
  · exact hq

theorem shedsWork_closeRegion (s : State) (c : Fin 192) (x : Fin 4) : ShedsWork s (s.closeRegion c x) := by
  unfold State.closeRegion
  refine (shedsWork_modMem s ?_).trans (shedsWork_modCtxAt _ c x ?_)
  · rfl
  · exact fun _ h => h

theorem shedsWork_leaveWithdraw (s : State) (c : Fin 192) (x : Fin 4) : ShedsWork s (s.leaveWithdraw c x) := by
  unfold State.leaveWithdraw
  split
  · exact shedsWork_of_eq rfl rfl rfl rfl rfl rfl rfl rfl rfl
  · exact .refl s

theorem shedsWork_leaveDrop (s : State) (c : Fin 192) (x : Fin 4) : ShedsWork s (s.leaveDrop c x) := by
  unfold State.leaveDrop
  split
  · exact shedsWork_of_eq rfl rfl rfl rfl rfl rfl rfl rfl rfl
  · exact .refl s

theorem shedsWork_engineFree (s : State) (c : Fin 192) : ShedsWork s (s.engineFree c) := by
  unfold State.engineFree
  extract_lets t u
  have ht : ShedsWork s t := shedsWork_modCoreAt s c fun _ _ h => h
  have hu : ShedsWork t u := by
    refine shedsWork_foldl (fun v x => shedsWork_modCtxAt v c x fun k h => ?_) _ t
    split <;> exact h
  clear_value u t
  refine ht.trans (hu.trans (ShedsWork.trans (shedsWork_mapRecs u _ ?_) (announces_addBusy ..).shedsWork))
  exact fun _ => .inl rfl

theorem shedsWork_vacate (s : State) (c : Fin 192) (x : Fin 4) : ShedsWork s (s.vacate c x) := by
  unfold State.vacate
  extract_lets t u v w
  have ht : ShedsWork s t := shedsWork_closeRegion ..
  have hu : ShedsWork t u := (shedsWork_leaveWithdraw ..).trans (shedsWork_leaveDrop ..)
  have hv : ShedsWork u v := by
    unfold v
    split
    · exact shedsWork_engineFree ..
    · exact .refl u
  have hw : ShedsWork v w := shedsWork_mapRecs v _ fun _ => .inr rfl
  clear_value w v u t
  have hfree (k : Core) (y : Fin 4) (h : (k.ctx y).leaving = none) : ((k.modCtx x fun _ => Ctx.reset).ctx y).leaving = none :=
    core_modCtx_leaving (fun _ _ => rfl) k y h
  refine ht.trans (hu.trans (hv.trans (hw.trans (ShedsWork.trans (shedsWork_modCoreAt w c ?_) (announces_addBusy ..).shedsWork))))
  exact hfree

/-! ## Jobs -/

theorem map_modFirst_of_eq {α β : Type} (g : α → β) (p : α → Bool) {f : α → α} (h : ∀ x, g (f x) = g x) (l : List α) :
    (modFirst p f l).map g = l.map g := by
  induction l with
  | nil => rfl
  | cons x l ih =>
    unfold modFirst
    split <;> simp [h, ih]

theorem shedsWork_jobLeaveDone (s : State) (j : Job) : ShedsWork s (s.jobLeaveDone j) := by
  obtain ⟨ds, ag, he⟩ := jobLeaveDone_eq s j
  rw [he]
  refine ⟨⟨rfl, rfl, rfl, fun _ => rfl, .refl _, fun d hd => ?_, .refl _, .refl _, fun _ _ h => h⟩, rfl⟩
  exact map_modFirst_of_eq Job.dctx _ (f := fun k => { k with grant := none }) (fun _ => rfl) s.jobs ▸ hd

theorem shedsWork_dropColl (s : State) (id : Nat) : ShedsWork s (s.dropColl id) := shedsWork_of_eq rfl rfl rfl rfl rfl rfl rfl rfl rfl

theorem map_filter_subset {α β : Type} (g : α → β) (p : α → Bool) (l : List α) : (l.filter p).map g ⊆ l.map g :=
  List.map_subset g (List.filter_subset_self l)

theorem contexts_filter_subset (p : Rec → Bool) (s : State) : { s with recs := s.recs.filter p }.contexts ⊆ s.contexts :=
  List.filterMap_subset _ (List.filter_subset_self s.recs)

/-! ## Grids (05 R117) -/

/-- The threads of a grid leave their contexts, and the leave of its jobs is given back. -/
def gridVacated (s : State) (g : Nat) : State :=
  let u := (s.recs.filterMap fun r => if r.grid == g then r.onCtx else none).foldl
    (fun s a => s.vacate (splitAgent a).1 (splitAgent a).2) s
  (u.jobs.filter fun j => j.grid == g && (match j.owner with
    | .packet _ _ _ _ _ _ _ _ _ => false
    | _ => true)).foldl State.jobLeaveDone u

theorem shedsWork_gridVacated (s : State) (g : Nat) : ShedsWork s (gridVacated s g) :=
  (shedsWork_foldl (fun _ _ => shedsWork_vacate ..) _ s).trans (shedsWork_foldl shedsWork_jobLeaveDone _ _)

theorem dropGrid_grids (s : State) (g : Nat) : (s.dropGrid g).grids = (gridVacated s g).grids.filter fun x => x.1 != g := rfl

theorem shedsWork_dropGrid (s : State) (g : Nat) : ShedsWork s (s.dropGrid g) := by
  refine (shedsWork_gridVacated s g).trans (ShedsWork.trans (shedsWork_cores (gridVacated s g) fun c => ?_)
    ⟨⟨rfl, rfl, rfl, fun _ => rfl, ?_, ?_, .refl _, ?_, fun _ _ h => h⟩, rfl⟩)
  · exact (congrArg Core.ctxs (Vector.get_map ..)).trans rfl
  · exact List.filter_subset_self _
  · exact map_filter_subset ..
  · exact contexts_filter_subset _ (gridVacated s g)

/-- No grid that was dropped is left. -/
theorem mem_dropGrids {g : Nat × Grid} (l : List Nat) {s : State} (h : g ∈ (l.foldl State.dropGrid s).grids) :
    g ∈ s.grids ∧ g.1 ∉ l := by
  induction l generalizing s with
  | nil => exact ⟨h, by simp⟩
  | cons a l ih =>
    obtain ⟨hmem, hl⟩ := ih h
    rw [dropGrid_grids, List.mem_filter] at hmem
    obtain ⟨hmem, hne⟩ := hmem
    refine ⟨(shedsWork_gridVacated s a).grids hmem, ?_⟩
    simpa [hl] using hne

/-! ## The reset of one device context (04 R89) -/

/-- The banks, hatch stores, tiles and cache units that the teams of a device context used are zero. -/
def scrubbed (s : State) (d : Nat) : State :=
  let grids := (s.grids.filter fun g => g.2.dctx == d).map Prod.fst
  { s with cores := Vector.ofFn fun c => (s.coreAt c).scrub d grids (s.teams.any fun t => t.core == some c.val && grids.contains t.grid) }

theorem shedsWork_scrubbed (s : State) (d : Nat) : ShedsWork s (scrubbed s d) :=
  shedsWork_cores s fun _ => (congrArg Core.ctxs (Vector.get_ofFn ..)).trans rfl

theorem shedsWork_dropWork (s : State) (d : Nat) : ShedsWork s (s.dropWork d) := by
  have hgone (t : State) (j : Job) : ShedsWork t ((t.jobLeaveDone j).dropColl j.id) :=
    (shedsWork_jobLeaveDone t j).trans (shedsWork_dropColl ..)
  refine (shedsWork_foldl hgone (s.jobs.filter fun j => j.dctx == d) s).trans
    ⟨⟨rfl, rfl, rfl, fun _ => rfl, .refl _, ?_, ?_, .refl _, fun _ _ h => h⟩, rfl⟩
  · exact map_filter_subset ..
  · exact map_filter_subset ..

theorem not_mem_dropWork_jobs (s : State) (d : Nat) : d ∉ (s.dropWork d).jobs.map Job.dctx := by
  simp [State.dropWork]

theorem not_mem_dropWork_plans (s : State) (d : Nat) : d ∉ (s.dropWork d).plans.map Plan.dctx := by
  simp [State.dropWork]

theorem shedsWork_dropShadows (s : State) (d : Nat) : ShedsWork s (s.dropShadows d) := by
  unfold State.dropShadows
  extract_lets old t
  have ht : ShedsWork s t := shedsWork_foldl (fun _ _ => shedsWork_dropColl ..) _ s
  clear_value t
  refine ht.trans ⟨⟨rfl, rfl, rfl, fun _ => rfl, .refl _, ?_, fun d hd => ?_, ?_, fun _ _ h => h⟩, rfl⟩
  · exact map_filter_subset ..
  · rw [List.map_map] at hd
    convert hd using 2
    funext p
    dsimp only [Function.comp]
    split <;> rfl
  · exact contexts_filter_subset _ t

/-- A device context's queues and Landing are what a reset leaves. -/
def blankDctx (x : DCtx) : DCtx :=
  { x with queues := Vector.replicate 16 Queue.reset, landing := [], stopped := false, saved := false }

/-- What belongs to a device context has gone. -/
def workDropped (s : State) (d : Nat) : State :=
  ((((s.grids.filter fun g => g.2.dctx == d).map Prod.fst).foldl State.dropGrid (scrubbed s d)).dropWork d).dropShadows d

theorem shedsWork_workDropped (s : State) (d : Nat) : ShedsWork s (workDropped s d) :=
  (shedsWork_scrubbed s d).trans ((shedsWork_foldl shedsWork_dropGrid _ _).trans ((shedsWork_dropWork ..).trans (shedsWork_dropShadows ..)))

/-- Nothing of a device context's work is left. -/
structure NoWork (d : Nat) (t : State) : Prop where
  grids : ∀ g ∈ t.grids, g.2.dctx ≠ d
  jobs : d ∉ t.jobs.map Job.dctx
  plans : d ∉ t.plans.map Plan.dctx

theorem NoWork.sheds {d : Nat} {s t : State} (h : NoWork d s) (h' : Sheds s t) : NoWork d t :=
  ⟨fun g hg => h.grids g (h'.grids hg), fun hj => h.jobs (h'.jobs hj), fun hp => h.plans (h'.plans hp)⟩

theorem noWork_workDropped (s : State) (d : Nat) : NoWork d (workDropped s d) := by
  let u := ((s.grids.filter fun g => g.2.dctx == d).map Prod.fst).foldl State.dropGrid (scrubbed s d)
  refine NoWork.sheds ⟨fun g hg hd => ?_, not_mem_dropWork_jobs u d, not_mem_dropWork_plans u d⟩ (shedsWork_dropShadows ..).toSheds
  obtain ⟨hmem, hnot⟩ := mem_dropGrids _ ((shedsWork_dropWork u d).grids hg)
  exact hnot (List.mem_map_of_mem (List.mem_filter.mpr ⟨(shedsWork_scrubbed s d).grids hmem, by simpa using hd⟩))

/-- The device context's registers are reset, its windows closed, and a save or restore of it ended. -/
def pageReset (s : State) (d : Nat) : State :=
  let v := (s.modDctx d blankDctx).modFz fun f => { f with windows := f.windows.filter fun w => w.2.dctx != d }
  if v.save.dctx.toNat = d ∧ (v.save.st = 1 ∨ v.save.st = 2) then v.setSaveSt 0 else v

theorem resetContext_eq (s : State) (d : Nat) : s.resetContext d = pageReset (workDropped s d) d := rfl

theorem pageReset_eq (s : State) (d : Nat) : ∃ fz save,
    pageReset s d = { s.modDctx d blankDctx with fz := fz, save := save } := by
  unfold pageReset
  extract_lets v
  split
  · exact ⟨_, _, rfl⟩
  · exact ⟨_, _, rfl⟩

theorem modDctx_dctxOf (s : State) (d e : Nat) (f : DCtx → DCtx) :
    (s.modDctx d f).dctxOf e = if e % 256 = d % 256 then f (s.dctxOf e) else s.dctxOf e := by
  split
  · next h => simpa only [State.dctxOf, h] using dctxOf_modDctx_self s d f
  · next h => exact dctxOf_modDctx_ne s f h

theorem pageReset_dctxOf (s : State) (d e : Nat) :
    (pageReset s d).dctxOf e = if e % 256 = d % 256 then blankDctx (s.dctxOf e) else s.dctxOf e := by
  obtain ⟨fz, save, he⟩ := pageReset_eq s d
  rw [he]
  exact modDctx_dctxOf s d e blankDctx

theorem sheds_pageReset (s : State) (d : Nat) : Sheds s (pageReset s d) := by
  have hfn (e : Nat) : ((pageReset s d).dctxOf e).fn = (s.dctxOf e).fn := by
    rw [pageReset_dctxOf]
    split <;> rfl
  obtain ⟨fz, save, he⟩ := pageReset_eq s d
  rw [he] at hfn ⊢
  exact ⟨rfl, rfl, rfl, hfn, .refl _, .refl _, .refl _, .refl _, fun _ _ h => h⟩

theorem resetContext_dctxOf (s : State) (d e : Nat) :
    (s.resetContext d).dctxOf e = if e % 256 = d % 256 then blankDctx (s.dctxOf e) else s.dctxOf e := by
  have hstand : (workDropped s d).dctxOf e = s.dctxOf e := by simp only [State.dctxOf, (shedsWork_workDropped s d).dctxs]
  rw [resetContext_eq, pageReset_dctxOf, hstand]

theorem sheds_resetContext (s : State) (d : Nat) : Sheds s (s.resetContext d) :=
  (shedsWork_workDropped s d).toSheds.trans (sheds_pageReset _ d)

theorem noWork_resetContext (s : State) (d : Nat) : NoWork d (s.resetContext d) :=
  (noWork_workDropped s d).sheds (sheds_pageReset _ d)

/-! ## The reset of a function -/

theorem resetContexts_dctxOf {e : Nat} (he : e < 256) {l : List Nat} (hl : ∀ d ∈ l, d < 256) (s : State) :
    (l.foldl State.resetContext s).dctxOf e = if e ∈ l then blankDctx (s.dctxOf e) else s.dctxOf e := by
  induction l generalizing s with
  | nil => rfl
  | cons d l ih =>
    obtain ⟨hd, hl⟩ := List.forall_mem_cons.mp hl
    rw [List.foldl_cons, ih hl, resetContext_dctxOf, Nat.mod_eq_of_lt he, Nat.mod_eq_of_lt hd]
    by_cases hel : e ∈ l
    · rw [if_pos hel, if_pos (List.mem_cons_of_mem d hel)]
      split <;> rfl
    · simp only [hel, List.mem_cons, or_false, if_false]

theorem noWork_resetContexts {d : Nat} {l : List Nat} (h : d ∈ l) (s : State) : NoWork d (l.foldl State.resetContext s) := by
  obtain ⟨l₁, l₂, rfl⟩ := List.append_of_mem h
  rw [List.foldl_append, List.foldl_cons]
  exact (noWork_resetContext ..).sheds (sheds_foldl sheds_resetContext ..)

/-- The device contexts of a function. -/
def dctxsOfFn (s : State) (fn : Nat) : List Nat := (List.range 256).filter fun d => (s.dctxOf d).fn.toNat == fn

theorem mem_dctxsOfFn {s : State} {fn d : Nat} : d ∈ dctxsOfFn s fn ↔ d < 256 ∧ (s.dctxOf d).fn.toNat = fn := by
  simp [dctxsOfFn]

theorem resetFunction_eq (s : State) (fn : Nat) :
    s.resetFunction fn = ((dctxsOfFn s fn).foldl State.resetContext s).offerRoom := rfl

theorem sheds_resetFunction (s : State) (fn : Nat) : Sheds s (s.resetFunction fn) :=
  (sheds_foldl sheds_resetContext ..).trans (announces_offerRoom _).shedsWork.toSheds

theorem noWork_resetFunction {s : State} {fn d : Nat} (hd : d < 256) (hfn : (s.dctxOf d).fn.toNat = fn) :
    NoWork d (s.resetFunction fn) :=
  (noWork_resetContexts (mem_dctxsOfFn.mpr ⟨hd, hfn⟩) s).sheds (announces_offerRoom _).shedsWork.toSheds

theorem resetFunction_dctxOf (s : State) (fn : Nat) {d : Nat} (hd : d < 256) :
    (s.resetFunction fn).dctxOf d = if (s.dctxOf d).fn.toNat = fn then blankDctx (s.dctxOf d) else s.dctxOf d := by
  have hroom : (s.resetFunction fn).dctxOf d = ((dctxsOfFn s fn).foldl State.resetContext s).dctxOf d := by
    simp only [State.dctxOf, resetFunction_eq, (announces_offerRoom _).shedsWork.dctxs]
  rw [hroom, resetContexts_dctxOf hd fun e he => (mem_dctxsOfFn.mp he).1]
  simp [mem_dctxsOfFn, hd]

/-- Every device context belongs to one of the sixteen functions. -/
theorem noWork_resetFunctions (s : State) {d : Nat} (hd : d < 256) : NoWork d ((List.range 16).foldl State.resetFunction s) := by
  have hfn : (s.dctxOf d).fn.toNat ∈ List.range 16 := List.mem_range.mpr (s.dctxOf d).fn.isLt
  obtain ⟨l₁, l₂, hl⟩ := List.append_of_mem hfn
  rw [hl, List.foldl_append, List.foldl_cons]
  refine (noWork_resetFunction hd ?_).sheds (sheds_foldl sheds_resetFunction ..)
  rw [(sheds_foldl sheds_resetFunction l₁ s).fn]

end Sys2Proof.Proofs
end

section
/-! PROOFS. Power states and function-level resets (O43). -/

namespace Sys2Proof.Proofs

open Sys2Proof Sys2Proof.Machine Sys2Proof.Claims Sys2Proof.Laws

/-! ## D3hot and D0 (04 R88) -/

/-- The part goes to sleep, and answers to its own messages are due for a millisecond. -/
def asleepFrom (s : State) : State :=
  { s with power := { s.power with d3hot := true, d3At := s.now } }.timer msTicks .d3hotEntry { flag := true }

theorem d3hotEntry_sleeps {s : State} (hup : s.power.bringup = 7) (hd3 : s.power.d3hot = false) (hflag : s.arg.flag = false) :
    exec .d3hotEntry s = .next (asleepFrom s) := by
  show execD3hotEntry s = _
  simp [execD3hotEntry, hup, hd3, hflag, asleepFrom]

theorem asleepFrom_frozen (s : State) (c : Fin 192) : (asleepFrom s).frozen c = true := by simp [State.frozen, asleepFrom]

theorem asleepFrom_decodes (s : State) : (asleepFrom s).decodes = false := by simp [State.decodes, asleepFrom]

/-- D0 again: the power state moves, and everything goes on. -/
theorem d0Return_wakes {s : State} (hd3 : s.power.d3hot = true) (hl : ∀ d < 256, (s.dctxOf d).landing = []) (hnone : NoneLeaves s) :
    ∃ t, exec .d0Return s = .next t ∧ t.power.d3hot = false ∧ t.mem = s.mem ∧ t.cores = s.cores ∧ t.recs = s.recs ∧
      t.teams = s.teams ∧ t.dctxs = s.dctxs ∧ ∀ d ∈ [0, 1, 2, 3], ∀ c, (dieOf c).val = d → c ∈ t.busy := by
  have hbusy (d : Nat) (hd : d ∈ [0, 1, 2, 3]) (c : Fin 192) (hc : (dieOf c).val = d) : c ∈ s.wakeUp.busy := by
    have heng := (announces_enginesGoOn (inD0 s)).noneLeaves hnone
    rw [wakeUp_eq hd3 hl]
    exact busy_diesGoOn heng (l := List.range 4) hd hc
  obtain ⟨⟨ag, ti, bs, ht⟩, -⟩ := announces_wakeUp hl (.inr hnone)
  refine ⟨s.wakeUp, rfl, ?_, ?_, ?_, ?_, ?_, ?_, hbusy⟩
  all_goals rw [ht]; rfl

theorem d0Return_awake {s : State} (hd3 : s.power.d3hot = false) : exec .d0Return s = .next s :=
  congrArg Host.Outcome.next (wakeUp_of_d0 hd3)

/-! ## Function-level resets (04 R89) -/

theorem fn_eq_ofNat_iff (b : BitVec 4) (n : Fin 16) : b = BitVec.ofNat 4 n.val ↔ b.toNat = n.val := by
  rw [← BitVec.toNat_inj, BitVec.toNat_ofNat, Nat.mod_eq_of_lt n.isLt]

theorem blankDctx_queue (x : DCtx) (i : Nat) : (blankDctx x).queue i = Queue.reset := by
  unfold DCtx.queue getIdx
  split
  · exact Vector.getElem_replicate _
  · rfl

theorem NoWork.job_ne {d : Nat} {t : State} (h : NoWork d t) : ∀ j ∈ t.jobs, j.dctx ≠ d :=
  fun _ hj hd => h.jobs (hd ▸ List.mem_map_of_mem hj)

theorem NoWork.plan_ne {d : Nat} {t : State} (h : NoWork d t) : ∀ p ∈ t.plans, p.dctx ≠ d :=
  fun _ hp hd => h.plans (hd ▸ List.mem_map_of_mem hp)

theorem reset_landing (d : Nat) : (State.reset.dctxOf d).landing = [] := by
  have hd : State.reset.dctxOf d = DCtx.reset := Vector.getElem_replicate _
  rw [hd]
  rfl

/-- The reset of the PF before the part is in D0 again. -/
def pfReset (s : State) : State := ((List.range 16).foldl State.resetFunction s).resetRegisters

theorem sheds_resetFunctions (s : State) : Sheds s ((List.range 16).foldl State.resetFunction s) := sheds_foldl sheds_resetFunction ..

/-- What the registers' reset keeps: the bytes of memory, the grids, the lock and the alarm log, and threads on their contexts. -/
theorem resetRegisters_keeps (s : State) : s.resetRegisters.mem.bytes = s.mem.bytes ∧ s.resetRegisters.grids = s.grids ∧
    s.resetRegisters.sec.lock = s.sec.lock ∧ s.resetRegisters.sec.log = s.sec.log ∧
    s.resetRegisters.power = s.power ∧ (NoneLeaves s → NoneLeaves s.resetRegisters) := ⟨rfl, rfl, rfl, rfl, rfl, id⟩

theorem pfReset_keeps (s : State) : (pfReset s).mem.bytes = s.mem.bytes ∧ (pfReset s).sec.lock = s.sec.lock ∧
    (pfReset s).sec.log = s.sec.log ∧ (pfReset s).power = s.power ∧ (NoneLeaves s → NoneLeaves (pfReset s)) := by
  have h := sheds_resetFunctions s
  obtain ⟨hm, -, hlock, hlog, hpower, hnone⟩ := resetRegisters_keeps ((List.range 16).foldl State.resetFunction s)
  exact ⟨hm.trans h.bytes, hlock.trans (congrArg Security.lock h.sec), hlog.trans (congrArg Security.log h.sec),
    hpower.trans h.power, fun hn => hnone (h.noneLeaves hn)⟩

/-- No grid of a device context is left. -/
theorem pfReset_grids {s : State} {g : Nat × Grid} (hg : g ∈ (pfReset s).grids) : 256 ≤ g.2.dctx := by
  obtain ⟨-, hgrids, -⟩ := resetRegisters_keeps ((List.range 16).foldl State.resetFunction s)
  rw [pfReset, hgrids] at hg
  by_contra hlt
  exact (noWork_resetFunctions s (Nat.lt_of_not_le hlt)).grids g hg rfl

/-- What the registers' reset sets. -/
theorem pfReset_sets (s : State) : (pfReset s).dctxs = State.reset.dctxs ∧ (pfReset s).regs = State.reset.regs ∧
    (pfReset s).save = State.reset.save ∧ (pfReset s).fz.nid = 0x1FFFFF ∧ (pfReset s).fz.up = Vector.replicate 16 false ∧
    (pfReset s).errs.ferr.v = false := ⟨rfl, rfl, rfl, rfl, rfl, rfl⟩

theorem pfReset_landing (s : State) (d : Nat) : ((pfReset s).dctxOf d).landing = [] := by
  obtain ⟨hdctxs, -⟩ := pfReset_sets s
  rw [State.dctxOf, hdctxs]
  exact reset_landing d

theorem functionLevelResetPf_spec {s : State} (h : s.power.d3hot = false ∨ NoneLeaves s) :
    Announces (inD0 (pfReset s)) (pfReset s).wakeUp := by
  obtain ⟨-, -, -, hpower, hnone⟩ := pfReset_keeps s
  refine announces_wakeUp (fun d _ => pfReset_landing s d) (h.imp (fun hd => ?_) hnone)
  rwa [hpower]

theorem pfReset_die (s : State) (e : Fin 4) : ((pfReset s).dieAt e).cap = 550 ∧ ((pfReset s).dieAt e).limit = 384 := by
  have hdie : (pfReset s).dieAt e = _ := Vector.get_map ((List.range 16).foldl State.resetFunction s).dies _ e
  rw [hdie]
  exact ⟨rfl, rfl⟩

/-- Settles O43: sleep and wake announce events only, and a reset sheds work and blanks the pages of its function. -/
theorem powerStatesAndFunctionResets : Obligations.PowerStatesAndFunctionResets := by
  intro s z
  refine ⟨fun hup hd3 hflag => ⟨asleepFrom s, d3hotEntry_sleeps hup hd3 hflag, by simp [workStands, asleepFrom], rfl, rfl,
      asleepFrom_decodes s, asleepFrom_frozen s, rfl⟩, d0Return_wakes, d0Return_awake,
    ⟨_, rfl, fun d hd hfn => ?_, fun d hd hfn => ?_, (sheds_resetFunction s _).bytes⟩, fun h => ⟨(pfReset s).wakeUp, rfl, ?_⟩⟩
  · rw [fn_eq_ofNat_iff] at hfn
    have hgone := noWork_resetFunction hd hfn
    rw [resetFunction_dctxOf s _ hd, if_pos hfn]
    exact ⟨rfl, fun i _ => blankDctx_queue _ i, hgone.grids, hgone.job_ne, hgone.plan_ne⟩
  · rw [Ne, fn_eq_ofNat_iff] at hfn
    rw [resetFunction_dctxOf s _ hd, if_neg hfn]
  · obtain ⟨⟨ag, ti, bs, ht⟩, -⟩ := functionLevelResetPf_spec h
    obtain ⟨hbytes, hlock, hlog, -⟩ := pfReset_keeps s
    obtain ⟨hdctxs, hregs, hsave, hnid, hup, hferr⟩ := pfReset_sets s
    have hgrids (g : Nat × Grid) := pfReset_grids (s := s) (g := g)
    have hdie := pfReset_die s
    generalize pfReset s = u at *
    rw [ht]
    refine ⟨rfl, hdctxs, hregs, hsave, hgrids, hbytes, hnid, fun i hi => ?_, hferr, hlock, hlog, hdie⟩
    show getIdx u.fz.up i true = false
    rw [hup]
    simp [getIdx, hi, Vector.get]

end Sys2Proof.Proofs
end

section
/-! SUPPORT. One step of an engine: when it performs, what it leaves of its job, and the messages that it sends (17 R391; 04 R95). -/

namespace Sys2Proof.Proofs

open Sys2Proof Sys2Proof.Machine Sys2Proof.Claims Sys2Proof.Laws

/-! ## The frame of a step -/

/-- What comes of the work of an engine. -/
def workNext (j : Job) : Work → Res
  | .again t => .next (t.timer 2 .jobDispatch { id := j.id, flag := true })
  | .await t => .next t
  | .done status t => .next (((t.countUnassigned (cardNodes j.card) status).jobLeaveDone j).endJob j.id status)

/-- An engine that goes on performs its work. -/
theorem engineStep_of_goes {s : State} {j : Job} (h : EngineGoes s j) (work : Job → State → Work) :
    s.engineStep work = workNext j (work j s) := by
  obtain ⟨hj, hrun, hd3, hstop, hmat, hbusy, hleave⟩ := h
  have hstays : (s.teamStops j && j.awaiting.isEmpty) = false := by
    rcases hstop with h | h
    · simp [h]
    · simp [h]
  have hfree : (List.range 4).any (s.regBusy j) = false := by
    simpa [List.any_eq_false] using hbusy
  have hlacks : s.lacksLeave j = none := by
    unfold State.lacksLeave
    rcases hleave with h | h
    · simp [h]
    · simp [h]
  unfold State.engineStep
  rw [hj]
  dsimp only
  rw [if_neg (by simp [hrun, hd3]), hstays, if_neg (by simp), hmat, hfree, if_neg (by simp), hlacks]
  cases work j s <;> rfl

theorem jobOf_of_engineGoes {s : State} {j : Job} (h : EngineGoes s j) : s.jobOf j.id = some j := by
  obtain ⟨hj, -⟩ := h
  exact jobOf_id hj ▸ hj

theorem running_of_engineGoes {s : State} {j : Job} (h : EngineGoes s j) : j.state = .running := by
  obtain ⟨-, hrun, -⟩ := h
  exact hrun

/-- The end of a job leaves memory, teams and the fabric port. -/
theorem endJob_keeps (s : State) (id status : Nat) :
    (s.endJob id status).mem = s.mem ∧ (s.endJob id status).teams = s.teams ∧ (s.endJob id status).fz = s.fz := by
  unfold State.endJob
  split
  · exact ⟨rfl, rfl, rfl⟩
  · split <;> exact ⟨rfl, rfl, rfl⟩

/-- Work that ends without trouble ends its job, and moves nothing else of memory, teams and the fabric port. -/
theorem workNext_done {u : State} {j k : Job} (hk : u.jobOf j.id = some k) (hrun : k.state = .running) :
    ∃ t, workNext j (.done 0 u) = .next t ∧ ended t j 0 ∧ t.mem = u.mem ∧ t.teams = u.teams ∧ t.fz = u.fz := by
  obtain ⟨ds, ag, he⟩ := jobLeaveDone_eq u j
  have hid : k.id = j.id := jobOf_id hk
  have hleft : (u.jobLeaveDone j).jobOf j.id = some { k with grant := none } := by
    rw [he]
    exact jobOf_modJob (f := fun k => { k with grant := none }) hk fun _ => rfl
  have hend : ended ((u.jobLeaveDone j).endJob j.id 0) j 0 := by
    rw [← hid] at hleft
    rw [ended, ← hid]
    exact endJob_ended (j := { k with grant := none }) hleft hrun 0
  obtain ⟨hmem, hteams, hfz⟩ := endJob_keeps (u.jobLeaveDone j) j.id 0
  rw [he] at hmem hteams hfz
  exact ⟨_, rfl, hend, he ▸ hmem, he ▸ hteams, he ▸ hfz⟩

/-! ## Regions that an engine writes (17 R391) -/

theorem jobs_hotCount (s : State) (wing line : Nat) (p : Place) : (s.hotCount wing line p).jobs = s.jobs := by
  unfold State.hotCount State.hotAccess
  split
  · split
    · rfl
    · dsimp only
      split <;> rfl
  · rfl

theorem jobs_hotSegs (s : State) (wing : Nat) (segs : List Seg) : (s.hotSegs wing segs).jobs = s.jobs := by
  refine List.foldlRecOn (motive := fun t : State => t.jobs = s.jobs) _ _ rfl fun t ht g _ => ?_
  exact List.foldlRecOn (motive := fun t : State => t.jobs = s.jobs) _ _ ht fun _ hv _ _ => (jobs_hotCount ..).trans hv

theorem jobs_hotVa (s : State) (wing : Nat) (who : Who) (n : Need) (va len : Nat) : (s.hotVa wing who n va len).jobs = s.jobs := by
  unfold State.hotVa
  split
  · rfl
  · exact jobs_hotSegs ..

theorem jobs_frameWrite {s t : State} {die grid team : Nat} {fsp : Bool} {addr : Nat} {bs : List Byte}
    (h : s.frameWrite die grid team fsp addr bs = .ok t) : t.jobs = s.jobs := by
  unfold State.frameWrite at h
  repeat' split at h
  all_goals cases h
  · rfl
  · next hv => exact (plansStand_vaWrite hv).jobs

theorem jobs_substJob (s : State) (j : Job) (n : Nat) : (s.substJob j n).jobs = s.jobs := by
  unfold State.substJob
  split
  · rfl
  · split
    · exact (plansStand_addSubst ..).jobs
    · split
      · split
        · rfl
        · split
          · rfl
          · dsimp only
            split
            · next h => exact jobs_frameWrite h
            · rfl
      · rfl
    · rfl

theorem jobs_hostPage {s t : State} {j : Job} {pasid page : Nat} {write : Bool} (h : s.hostPage j pasid page write = some t) :
    t.jobs = s.jobs := by
  unfold State.hostPage at h
  dsimp only at h
  split at h
  · cases h
    rfl
  · split at h
    · cases h
    · obtain ⟨-, ht⟩ := Option.ite_none_left_eq_some.mp h
      cases ht
      rfl

theorem jobs_foldlM_hostPage {j : Job} {pasid : Nat} {write : Bool} : ∀ (l : List (Nat × Nat × Nat)) {s t : State},
    l.foldlM (fun (s : State) c => s.hostPage j pasid (c.1 / 4096) write) s = some t → t.jobs = s.jobs
  | [], _, _, h => by cases h; rfl
  | c :: l, _, _, h => by
    rw [List.foldlM_cons] at h
    obtain ⟨u, hu, hl⟩ := Option.bind_eq_some_iff.mp h
    exact (jobs_foldlM_hostPage l hl).trans (jobs_hostPage hu)

theorem jobs_hostPages {s t : State} {j : Job} {dctx va len : Nat} {write : Bool} (h : s.hostPages j dctx va len write = some t) :
    t.jobs = s.jobs := jobs_foldlM_hostPage _ h

theorem jobs_regWrite {s t : State} {j : Job} {i off : Nat} {bs : List Byte} (h : s.regWrite j i off bs = .ok t) :
    t.jobs = s.jobs := by
  unfold State.regWrite at h
  dsimp only at h
  split at h
  · cases h
    rfl
  split at h
  · split at h
    · cases h
      rfl
    · split at h
      · cases h
      · next hv =>
        cases h
        rw [jobs_substJob, jobs_hotVa]
        exact (plansStand_vaWrite hv).jobs
  · split at h
    · next hp =>
      cases h
      have hjobs := jobs_hostPages hp
      exact hjobs
    · cases h
  · split at h
    · cases h
    · cases h
      rw [jobs_substJob]
      exact (plansStand_engWrite ..).jobs.trans (jobs_hotSegs ..)
  · cases h
    rfl

/-- A job that has written goes on running, its bytes counted. -/
theorem give_jobOf {s u : State} {j : Job} {i off : Nat} {bs : List Byte} (hj : s.jobOf j.id = some j)
    (h : s.give j i off bs = .ok u) : u.jobOf j.id = some { j with bytes := j.bytes + bs.length } := by
  unfold State.give State.orStatus at h
  cases hw : s.regWrite j i off bs with
  | error e => rw [hw] at h; cases h
  | ok t =>
    rw [hw] at h
    cases h
    exact jobOf_modJob (f := fun k => { k with bytes := k.bytes + bs.length }) ((jobOf_congr (jobs_regWrite hw) j.id).trans hj) fun _ => rfl

/-! ## Messages that a job sends (04 R95) -/

theorem launchMsg_eq {s t : State} {i : Nat} {m : FinzonMsg} (h : s.launchMsg i m = some t) :
    ∃ fz ag, t = { s with fz := fz, agenda := ag } := by
  unfold State.launchMsg at h
  dsimp only at h
  repeat' split at h
  all_goals cases h
  · exact ⟨s.fz, _, rfl⟩
  · exact ⟨_, s.agenda, rfl⟩

/-- A message that a job has sent is one that it awaits; the rest is the port's. -/
theorem jobSend_eq {s u : State} {id i : Nat} {m : FinzonMsg} {data : Option Nat} (h : s.jobSend id i m data = .ok u) :
    ∃ q fz ag ti, u = State.awaitMsg { s with fz := fz, agenda := ag, timers := ti } id m.dst q data := by
  unfold State.jobSend at h
  split at h
  · cases h
  · next q t ht =>
    cases h
    unfold State.sendKept at ht
    dsimp only at ht
    split at ht
    · cases ht
    · next v hv =>
      cases ht
      obtain ⟨fz, ag, rfl⟩ := launchMsg_eq hv
      exact ⟨_, _, ag, _, rfl⟩

theorem runCmds_singleton {α : Type} (a : α) (f : α → State → Done State) (s : State) : runCmds [a] f s = f a s := by
  simp [runCmds]

/-! ## A stream under way (17 R398) -/

/-- A job with a stream of its own: nothing of it has gone or come. -/
def streamOpened (s : State) (id : Nat) : State := s.modFz fun z => { z with collectives := z.collectives ++ [⟨id, 0, [], 0, 0⟩] }

theorem collOf_eq_none {s : State} {id : Nat} (h : ∀ x ∈ s.fz.collectives, x.job ≠ id) : s.collOf id = none := by
  simpa [State.collOf] using h

theorem collOf_streamOpened {s : State} {id : Nat} (h : ∀ x ∈ s.fz.collectives, x.job ≠ id) :
    (streamOpened s id).collOf id = some ⟨id, 0, [], 0, 0⟩ := by
  have hnone : s.fz.collectives.find? (fun x => x.job == id) = none := collOf_eq_none h
  simp [State.collOf, streamOpened, List.find?_append, hnone]

theorem not_mem_dropColl (s : State) (id : Nat) : ∀ y ∈ (s.dropColl id).fz.collectives, y.job ≠ id := by
  simp [State.dropColl]

end Sys2Proof.Proofs
end

section
/-! PROOFS. Remote atomics, checkpoints, restores and collectives (O49). -/

namespace Sys2Proof.Proofs

open Sys2Proof Sys2Proof.Machine Sys2Proof.Claims Sys2Proof.Laws

/-! ## Remote atomics (17 R400) -/

/-- The message of a remote atomic, its operands cut to the size. -/
def atomicMsg (j : Job) (ra node win : Nat) (bs : List Byte) : FinzonMsg :=
  let size := if bitN (cardOpx j.card) 3 then 8 else 4
  { typ := 4
    dst := node
    win := win
    va := ra
    len := size
    tag := j.tag
    stat := cardOpx j.card % 8
    opnd0 := fieldAt bs 0 8 % 2 ^ (8 * size)
    opnd1 := fieldAt bs 8 8 % 2 ^ (8 * size) }

theorem remoteAtomic_waits {s u v : State} {j : Job} {va pa ra node win : Nat} {bs : List Byte} (hgo : EngineGoes s j)
    (h0 : cardRegion j.card 0 = .flat va 16) (h1 : cardRegion j.card 1 = .flat pa 8) (h3 : cardRegion j.card 3 = .remote ra node win)
    (htake : s.take j 0 0 16 = .ok (bs, v)) (hsend : v.jobSend j.id 0 (atomicMsg j ra node win bs) (some ra) = .ok u) :
    exec .engineRemoteAtomic s = .next u := by
  unfold atomicMsg at hsend
  show execEngineRemoteAtomic s = _
  unfold execEngineRemoteAtomic
  rw [engineStep_of_goes hgo]
  simp only [h0, h1, h3, htake, bitsN_zero, ne_eq, not_true_eq_false, or_self, if_false, Nat.reducePow, hsend]
  rfl

/-- A step of an engine that has not failed goes on with what it has left. -/
theorem bind_ok {α β : Type} (x : α) (f : α → Done β) : (Except.ok x >>= f : Done β) = f x := rfl

/-! ## Checkpoints (17 R398; 02 R57)

The streams under way stand over every read, whatever errors it counts. -/

theorem collectives_report (s : State) (cls src fn die agent step : Nat) :
    (s.report cls src fn die agent step).fz.collectives = s.fz.collectives := by
  unfold State.report
  dsimp only
  split <;> rfl

theorem collectives_countGran (s : State) (g dpa : Nat) : (s.countGran g dpa).fz.collectives = s.fz.collectives := by
  unfold State.countGran State.reportPf
  split
  · rfl
  · rfl
  · exact collectives_report ..
  · exact collectives_report ..
  · rfl
  · rfl

theorem collectives_fetch (s : State) (g line : Nat) (v : BitVec 4) : (s.fetch g line v).2.fz.collectives = s.fz.collectives :=
  List.foldlRecOn (motive := fun t : State => t.fz.collectives = s.fz.collectives) _ _ rfl fun _ ht _ _ =>
    (collectives_countGran ..).trans ht

theorem collectives_engRead (s : State) (die : Nat) (segs : List Seg) :
    (s.engRead die segs).2.fz.collectives = s.fz.collectives := by
  refine List.foldlRecOn (motive := fun p : Got × State => p.2.fz.collectives = s.fz.collectives) _ _ rfl fun p hp g _ => ?_
  refine List.foldlRecOn (motive := fun p : Got × State => p.2.fz.collectives = s.fz.collectives) _ _ hp fun q hq c _ => ?_
  dsimp only
  split <;> exact (collectives_fetch ..).trans hq

/-- A read for a checkpoint: memory's bytes, jobs and streams stand. -/
def StreamReads (s t : State) : Prop := t.mem.bytes = s.mem.bytes ∧ t.jobs = s.jobs ∧ t.fz.collectives = s.fz.collectives

theorem streamReads_corrected (s : State) (die n : Nat) : StreamReads s (s.corrected die n) := by
  refine List.foldlRecOn (motive := StreamReads s) _ _ ⟨rfl, rfl, rfl⟩ fun t ⟨hm, hj, hc⟩ _ _ => ?_
  exact ⟨(congrArg MemSys.bytes (report_mem ..)).trans hm, (plansStand_report ..).jobs.trans hj, (collectives_report ..).trans hc⟩

theorem streamReads_spadSeen (s : State) (grid team off n : Nat) : StreamReads s (s.spadSeen grid team off n) := by
  unfold State.spadSeen
  split
  · exact ⟨rfl, rfl, rfl⟩
  · dsimp only
    split
    · exact ⟨rfl, rfl, rfl⟩
    · exact streamReads_corrected (s.modTeam grid team _) ..

theorem streamReads_ckptRead {s v : State} {j : Job} {va len gran : Nat} {data : List Byte} {bad : List Bool}
    (h : s.ckptRead j va len = .ok (data, bad, gran, v)) : StreamReads s v := by
  unfold State.ckptRead at h
  split at h
  · split at h
    · cases h
    · cases h
      exact streamReads_spadSeen ..
  · split at h
    · cases h
    · next segs _ =>
      cases h
      have hread := readsOnly_engRead s j.die segs
      exact ⟨hread.bytes, hread.plans.jobs, collectives_engRead ..⟩

/-- The message that carries a part of a stream. -/
def putMsg (j : Job) (ra node win : Nat) (bs : List Byte) : FinzonMsg :=
  { typ := 1, dst := node, win := win, va := ra, len := bs.length, tag := j.tag, data := bs }

/-- The engine of a checkpoint whose chunk has been sent. -/
def chunkSent (u : State) (j : Job) (n : Nat) : State :=
  ((u.modColl j.id fun x => { x with at_ := x.at_ + n }).countBytes j.id n).dropColl j.id

/-- A checkpoint of one chunk in one message waits for its acknowledgement. -/
theorem checkpoint_waits {s u v : State} {j : Job} {ra node win len va gran : Nat} {data : List Byte} {bad : List Bool}
    (hgo : EngineGoes s j) (hregs : ckptRegs j.card = some (va, len, ra, node, win)) (hlen : 0 < len) (hmax : len ≤ 2 ^ 21)
    (hread : (streamOpened s j.id).ckptRead j va len = .ok (data, bad, gran, v)) (hnew : ∀ x ∈ s.fz.collectives, x.job ≠ j.id)
    (hcut : msgCuts ra (chunkBytes va gran 0 data bad).length = [(ra, 0, (chunkBytes va gran 0 data bad).length)])
    (hsend : v.jobSend j.id 0 (putMsg j ra node win (chunkBytes va gran 0 data bad)) none = .ok u) :
    exec .engineCheckpoint s = .next (chunkSent u j (chunkBytes va gran 0 data bad).length) := by
  have hchunks : cutAt (2 ^ 21) 0 len = [(0, 0, len)] := cutAt_of_fits hlen (by omega)
  obtain ⟨-, -, hcolls⟩ := streamReads_ckptRead hread
  have hat : v.collOf j.id = some ⟨j.id, 0, [], 0, 0⟩ := by
    rw [State.collOf, hcolls]
    exact collOf_streamOpened hnew
  show execEngineCheckpoint s = _
  unfold execEngineCheckpoint
  rw [engineStep_of_goes hgo]
  unfold streamOpened at hread
  unfold putMsg at hsend
  simp only [hregs, hchunks, List.map_cons, List.map_nil, List.zipIdx_cons, List.zipIdx_nil, runCmds_singleton, Nat.add_zero, hread,
    bind_ok, hat, Option.map_some, Option.getD_some, hcut, List.foldlM_cons, List.foldlM_nil, List.drop_zero, List.take_length, hsend]
  rfl

/-- The chunk's bytes count for the job, which runs on; what has been sent is what the port holds, and memory is as it was. -/
theorem chunkSent_spec {s u v : State} {j : Job} {m : FinzonMsg} (n : Nat) (hj : s.jobOf j.id = some j)
    (hread : StreamReads (streamOpened s j.id) v) (hsend : v.jobSend j.id 0 m none = .ok u) :
    (chunkSent u j n).fz.sent = u.fz.sent ∧ (chunkSent u j n).fz.kept = u.fz.kept ∧ (chunkSent u j n).mem.bytes = s.mem.bytes ∧
      ∃ k, (chunkSent u j n).jobOf j.id = some k ∧ k.state = j.state ∧ k.bytes = j.bytes + n := by
  obtain ⟨hm, hjobs, -⟩ := hread
  obtain ⟨q, fz, ag, ti, rfl⟩ := jobSend_eq hsend
  have hv : v.jobOf j.id = some j := (jobOf_congr hjobs j.id).trans hj
  have hsent := jobOf_modJob (s := { v with fz := fz, agenda := ag, timers := ti })
    (f := fun k => { k with awaiting := k.awaiting ++ (m.dst, q) :: [] }) hv fun _ => rfl
  have hcount := jobOf_modJob (f := fun k => { k with bytes := k.bytes + n }) hsent fun _ => rfl
  exact ⟨rfl, rfl, hm, _, hcount, rfl, rfl⟩

/-! ## Restores (17 R398) -/

/-- The remote region of a checkpoint or restore has the length of the local one, and its stream a header more. -/
theorem partnerLen_of_ckptRegs {card : Block} {va len ra node win : Nat} (h : ckptRegs card = some (va, len, ra, node, win)) :
    partnerLen card 3 = len := by
  unfold ckptRegs at h
  split at h
  · next hreg _ =>
    obtain ⟨-, heq⟩ := Option.ite_none_right_eq_some.mp h
    cases heq
    rw [partnerLen, if_neg (by decide), hreg]
  · cases h

theorem header_le_ckptLen {len : Nat} (h : 0 < len) : 64 ≤ ckptLen len := by
  have hchunk : 1 ≤ ceilDiv len (2 ^ 21) := Nat.div_pos (by omega) (by decide)
  unfold ckptLen
  omega

theorem streamBytes_eq_none {x : Collective} (h : x.arrived = []) {n : Nat} (hn : 0 < n) : x.streamBytes n = none := by
  have hmiss : ((List.range n).all fun i => ([] : List (Nat × List Byte)).any fun p =>
      decide (p.1 ≤ x.at_ + i) && decide (x.at_ + i < p.1 + p.2.length)) = false :=
    List.all_eq_false.mpr ⟨0, List.mem_range.mpr hn, by simp⟩
  unfold Collective.streamBytes
  rw [h]
  exact if_neg (by simpa using hmiss)

/-- The message that asks for bytes of a stream. -/
def getMsg (j : Job) (ra node win n : Nat) : FinzonMsg := { typ := 2, dst := node, win := win, va := ra, len := n, tag := j.tag }

/-- A header that does not cross 64 KiB is asked for by one message. -/
theorem restoreAsk_header {s u : State} {j : Job} {ra node win len va : Nat} (hregs : ckptRegs j.card = some (va, len, ra, node, win))
    (hlen : 0 < len) (hfits : ra % 65536 + 64 ≤ 65536) (hsend : s.jobSend j.id 0 (getMsg j ra node win 64) (some ra) = .ok u) :
    s.restoreAsk j ra node win 0 0 64 = .ok u := by
  have hcut : msgCuts ra 64 = [(ra, 0, 64)] := cutAt_of_fits (by decide) hfits
  have hreach : ¬ ckptLen (partnerLen j.card 3) < ra - ra + 64 := by
    have hheader := header_le_ckptLen hlen
    rw [partnerLen_of_ckptRegs hregs]
    omega
  unfold getMsg at hsend
  simp only [State.restoreAsk, Nat.add_zero, hcut, List.foldlM_cons, List.foldlM_nil, if_neg hreach, hsend, bind_ok]
  rfl

section restore
variable {s : State} {j : Job} (hgo : EngineGoes s j) {ra node win len va : Nat}
  (hregs : ckptRegs j.card = some (va, len, ra, node, win)) (hawait : j.awaiting = [])
include hgo hregs hawait

/-- A restore first asks for the header of a chunk. What it asks for and what has arrived are generalised, so that the kernel compares
no lengths. -/
theorem restore_asks {u : State} (hlen : 0 < len) (hnew : ∀ x ∈ s.fz.collectives, x.job ≠ j.id) (hfits : ra % 65536 + 64 ≤ 65536)
    (hsend : (streamOpened s j.id).jobSend j.id 0 (getMsg j ra node win 64) (some ra) = .ok u) : exec .engineRestore s = .next u := by
  have hask := restoreAsk_header hregs hlen hfits hsend
  have hnone : (⟨j.id, 0, [], 0, 0⟩ : Collective).streamBytes 64 = none := streamBytes_eq_none rfl (by decide)
  have hcoll := collOf_streamOpened hnew
  show execEngineRestore s = _
  unfold execEngineRestore
  rw [engineStep_of_goes hgo, hregs]
  unfold streamOpened at hcoll hask
  dsimp only
  rw [collOf_eq_none hnew, Option.isSome_none, if_neg Bool.false_ne_true]
  generalize (s.modFz fun z => { z with collectives := z.collectives ++ [⟨j.id, 0, [], 0, 0⟩] }) = t at hcoll hask ⊢
  split
  · next h => simp [hawait] at h
  split
  · next h => simp [hcoll] at h
  next x hx =>
  have hopen : x = ⟨j.id, 0, [], 0, 0⟩ := Option.some.inj (hx.symm.trans hcoll)
  have hask : t.restoreAsk j ra node win x.seq x.at_ 64 = .ok u := hopen ▸ hask
  have hnone : x.streamBytes 64 = none := hopen ▸ hnone
  generalize t.restoreAsk j ra node win x.seq x.at_ 64 = v at hask ⊢
  generalize x.streamBytes 64 = o at hnone ⊢
  subst hask hnone
  rfl

/-- The engine of a restore that has taken its last chunk. -/
def chunkTaken (u : State) (j : Job) (c : Chunk) : State :=
  (u.modColl j.id fun x => { x with at_ := x.at_ + c.total, seq := x.seq + 1, arrived := [] }).dropColl j.id

/-- A restore that has the whole of its last chunk, none of it poisoned, writes it. -/
theorem restore_takes {x : Collective} {bs : List Byte} {c : Chunk} {u : State} {l : Nat × Nat} (hcoll : s.collOf j.id = some x)
    (hhead : x.streamBytes 64 = some (bs.take 64)) (hl : chunkLens (bs.take 64) = l)
    (hbody : x.streamBytes (64 + l.1 + l.2) = some bs) (hparse : Chunk.parse bs = some c) (hva : va ≤ c.va)
    (hin : c.va + l.1 ≤ va + len) (hpos : 0 < l.1) (hmax : l.1 ≤ 2 ^ 21) (hgran : l.1 % 32 = 0)
    (hfield : fieldAt (bs.take 64) 0 8 = c.va) (hbad : ∀ y ∈ c.bad, y = false) (hgive : s.give j 0 (c.va - va) c.data = .ok u)
    (hlast : len ≤ j.bytes + c.data.length) : exec .engineRestore s = workNext j (.done 0 (chunkTaken u j c)) := by
  have hok : ¬ (fieldAt (bs.take 64) 0 8 < va ∨ va + len < fieldAt (bs.take 64) 0 8 + l.1 ∨ l.1 = 0 ∨ 2 ^ 21 < l.1 ∨
      l.1 % 32 ≠ 0) := by
    rw [hfield]
    omega
  have hclean : c.bad.zipIdx.filter Prod.fst = [] := by
    refine List.filter_eq_nil_iff.mpr fun p hp => ?_
    simp [hbad p.1 (List.fst_mem_of_mem_zipIdx hp)]
  have hopen : (s.collOf j.id).isSome = true := by simp [hcoll]
  show execEngineRestore s = _
  unfold execEngineRestore
  rw [engineStep_of_goes hgo, hregs]
  dsimp only
  rw [if_pos hopen]
  split
  · next h => simp [hawait] at h
  split
  · next h => simp [hcoll] at h
  next y hy =>
  obtain rfl : y = x := Option.some.inj (hy.symm.trans hcoll)
  generalize s.restoreAsk j ra node win y.seq y.at_ 64 = v
  generalize y.streamBytes 64 = o at hhead ⊢
  cases o with
  | none => cases hhead
  | some head =>
  obtain rfl : head = bs.take 64 := Option.some.inj hhead
  dsimp only
  rw [hl]
  generalize s.restoreAsk j ra node win y.seq (y.at_ + 64) (l.1 + l.2) = w
  rw [if_neg hok]
  generalize y.streamBytes (64 + l.1 + l.2) = o at hbody ⊢
  cases o with
  | none => cases hbody
  | some body =>
  obtain rfl : body = bs := Option.some.inj hbody
  dsimp only
  generalize Chunk.parse body = o at hparse ⊢
  cases o with
  | none => cases hparse
  | some chunk =>
  obtain rfl : chunk = c := Option.some.inj hparse
  dsimp only
  rw [hgive]
  dsimp only
  rw [hclean, if_pos hlast]
  rfl

end restore

theorem chunkTaken_ends {s u : State} {j : Job} {c : Chunk} {off : Nat} (hgo : EngineGoes s j) (hgive : s.give j 0 off c.data = .ok u) :
    ∃ t, workNext j (.done 0 (chunkTaken u j c)) = .next t ∧ ended t j 0 ∧ t.mem = u.mem ∧ t.teams = u.teams := by
  have hu := give_jobOf (jobOf_of_engineGoes hgo) hgive
  have hrun := running_of_engineGoes hgo
  obtain ⟨t, ht, hend, hmem, hteams, -⟩ := workNext_done (u := chunkTaken u j c) hu hrun
  exact ⟨t, ht, hend, hmem, hteams⟩

/-! ## Collectives (17 R397; 04 R99 to R104) -/

theorem collEarly_of_none {s : State} (h : s.fz.early = []) (j : Job) (hash : Nat) : s.collEarly j hash = (false, s) := by
  unfold State.collEarly
  rw [h]
  rfl

/-- A member that has read its descriptor and its input. -/
def memberOpened (s : State) (id hash : Nat) (desc input : List Byte) : State :=
  s.modFz fun z => { z with collectives := z.collectives ++ [⟨id, hash, [(ownKey, desc), (ownKey + 1, input)], 0, 0⟩] }

section collective
variable {s : State} {j : Job} (hgo : EngineGoes s j) {glen l out : Nat} (hlen0 : s.regionLen j 0 = .ok glen)
  (hlen1 : s.regionLen j 1 = .ok l) (hlen2 : s.regionLen j 2 = .ok out)
include hgo hlen0 hlen1 hlen2

/-- A member's first step: it reads its descriptor and input, sends its part, and looks what has come. -/
theorem collective_starts {d x : List Byte × State} {m : Member} {u : State} (hnew : s.collOf j.id = none)
    (htake0 : s.take j 0 0 glen = .ok d) (htake1 : d.2.take j 1 0 l = .ok x) (hearly : x.2.fz.early = [])
    (hmember : memberOf? j.card s.fz.nid.toNat l out d.1 x.1 = some m)
    (hsend : (memberOpened x.2 j.id m.hash d.1 x.1).collSend j m = .ok u) :
    exec .engineCollective s = workNext j (u.collFinish j m) := by
  have hstart : s.collStart j glen l out = u.collFinish j m := by
    unfold State.collStart
    rw [htake0]
    dsimp only
    rw [htake1]
    dsimp only
    rw [hmember]
    dsimp only
    have hcame := collEarly_of_none (s := memberOpened x.2 j.id m.hash d.1 x.1) hearly j m.hash
    unfold memberOpened at hcame hsend
    rw [hcame, if_neg Bool.false_ne_true]
    dsimp only
    rw [hsend]
  show execEngineCollective s = _
  unfold execEngineCollective
  rw [engineStep_of_goes hgo, hlen0, hlen1, hlen2]
  dsimp only
  rw [hnew]
  dsimp only
  rw [hstart]

/-- A later step of a member: it looks what has come. -/
theorem collective_goesOn {x : Collective} {m : Member} {own0 own1 : List Byte} (hcoll : s.collOf j.id = some x)
    (hown0 : x.arrived.find? (fun p => p.1 == ownKey) = some (ownKey, own0))
    (hown1 : x.arrived.find? (fun p => p.1 == ownKey + 1) = some (ownKey + 1, own1))
    (hmember : memberOf? j.card s.fz.nid.toNat l out own0 own1 = some m) :
    exec .engineCollective s = workNext j (s.collFinish j m) := by
  show execEngineCollective s = _
  unfold execEngineCollective
  rw [engineStep_of_goes hgo, hlen0, hlen1, hlen2]
  dsimp only
  rw [hcoll]
  dsimp only
  rw [Nat.add_zero, hown0, hown1]
  dsimp only [Option.map_some, Option.getD_some]
  rw [hmember]

end collective

/-- With every input there and every message acknowledged, a member writes its output and has ended. -/
theorem collFinish_ends {s u : State} {j k : Job} {m : Member} {x : Collective} {ins : List (List Byte)} {bs : List Byte}
    (hcoll : s.collOf j.id = some x) (hj : s.jobOf j.id = some k) (hawait : k.awaiting = [])
    (hins : collInputs (collOp j.card) m.nodes.length m.len m.me m.input x = some ins) (hout : collOutput j.card m.me ins = some bs)
    (hgive : s.give j 2 0 bs = .ok u) : s.collFinish j m = .done 0 (u.dropColl j.id) := by
  simp [State.collFinish, hcoll, hj, hawait, hins, hout, hgive]

/-- Settles O49: an engine that goes on performs its work once, and each clause says what that work does. -/
theorem engineFabricJobs : Obligations.EngineFabricJobs := by
  intro s j hgo tracked waits
  have hj := jobOf_of_engineGoes hgo
  have hrun := running_of_engineGoes hgo
  refine ⟨?_, ?_, ?_, ?_⟩
  · intro va pa node win bs v u h0 h1 ra h3 htake size m hsend
    exact remoteAtomic_waits hgo h0 h1 h3 htake hsend
  · intro ra node win len va v u data bad gran hregs hlen hmax hread hnew bs hcut hsend
    obtain ⟨hsent, hkept, hbytes, k, hk, hstate, hcount⟩ := chunkSent_spec bs.length hj (streamReads_ckptRead hread) hsend
    exact ⟨_, k, checkpoint_waits hgo hregs hlen hmax hread hnew hcut hsend, hsent, hkept, hk, hstate.trans hrun, hcount, hbytes⟩
  · intro ra node win len va hregs hawait
    refine ⟨fun u hlen hnew hfits hsend => restore_asks hgo hregs hawait hlen hnew hfits hsend, ?_⟩
    intro x bs c u hcoll hhead l hbody hparse hva hin hpos hmax hgran hfield hbad hgive hlast
    rw [restore_takes hgo hregs hawait hcoll hhead rfl hbody hparse hva hin hpos hmax hgran hfield hbad hgive hlast]
    exact chunkTaken_ends hgo hgive
  · intro glen l out hlen0 hlen1 hlen2
    refine ⟨fun d x m u v hnew htake0 htake1 hearly hmember hsend hfinish => ?_, ?_⟩
    · show exec .engineCollective s = .next v
      rw [collective_starts hgo hlen0 hlen1 hlen2 hnew htake0 htake1 hearly hmember hsend, hfinish]
      rfl
    · intro x m ins bs u own0 own1 hcoll hown0 hown1 hmember hins hawait hout hgive
      have hu := give_jobOf hj hgive
      obtain ⟨t, ht, hend, hmem, hteams, hfz⟩ := workNext_done (u := u.dropColl j.id) hu hrun
      refine ⟨t, ?_, hend, hmem, hteams, fun y hy => not_mem_dropColl u j.id y (hfz ▸ hy)⟩
      rw [collective_goesOn hgo hlen0 hlen1 hlen2 hcoll hown0 hown1 hmember, collFinish_ends hcoll hj hawait hins hout hgive, ht]

end Sys2Proof.Proofs
end
